-- ==== Sys2Proof/Word.lean ====
section
/-! DEFINITION. The word types of the ZBL7200 model: bytes, registers, engine words and frame numbers. -/

namespace Sys2Proof

/-- One byte of memory, flash or a line format. -/
abbrev Byte := BitVec 8

/-- A CSR register (R14: registers are 32 bits wide). -/
abbrev Word := BitVec 32

/-- A canopy-engine value register or state-memory word (R246). -/
abbrev Dword := BitVec 64

/-- A frame number: a 48-bit count of frames, all arithmetic modulo 2^48 (R32). -/
abbrev Fn := BitVec 48

end Sys2Proof
end

