-- ==== Sys2Proof/Config.lean ====
section
/-! DEFINITION. Fixed figures of the device (R28, R35) and the model's free values: constants without a body, so that no proof can see their value. -/

namespace Sys2Proof.Config

/-- Core cycles in a frame (R30). -/
def frameCycles : Nat := 200000
/-- Core cycles a state word takes across the inter-quadrant state bus (R26). -/
def busCycles : Nat := 2400
/-- Action slots of a frame that a program may use; slot 398,000 and above lie in the tail (R20, R31). -/
def tailSlot : Nat := 398000
/-- Populated HBM in bytes: 48 GiB (R4). -/
def hbmBytes : Nat := 48 * 1073741824
/-- First internal address of HBM (R300). -/
def hbmBase : Nat := 0x1000000000
/-- The boot load area, 512 MiB at the top of HBM (R278). -/
def bootArea : Nat := 0x1BE0000000
/-- Bytes of working memory, 8 MiB (R300). -/
def wmemBytes : Nat := 0x800000
/-- The permanent alias of working memory (R300). -/
def wmemBase : Nat := 0x10000000
/-- Size of the boot ROM, 256 KiB (R300). -/
def romBytes : Nat := 0x40000
/-- First internal address of CSR space (R300). -/
def csrBase : Nat := 0x100000000
/-- Size of CSR space, 256 MiB (R300). -/
def csrBytes : Nat := 0x10000000

/-- FREE VALUE (log entry 9): a byte of the boot ROM, whose content the spec does not give. -/
opaque romByte : Nat → Byte
/-- FREE VALUE (log entry 10): the data a maker instruction returns (R325 names fuse programming, scan and die test
and gives no data format). -/
opaque makerData : Nat → Word
/-- FREE VALUE (log entry 10): whether a maker instruction orders the transition BLANK to DEVELOP (R321 lets only maker debug order
it and names no instruction). -/
opaque makerDevelops : Nat → Bool
/-- FREE VALUE (log entry 11): what the boundary register reads (SAMPLE/PRELOAD, R325): the n-th sample. -/
opaque boundarySample : Nat → Word
/-- FREE VALUE (log entry 13): how many beats of a burst were served when its master was reset (R305), the n-th time. -/
opaque beatsServed : Nat → Nat

/-- FREE VALUE (log entry 24): the FlexO group identification, instance identification and instance map of an OTUC slice, which R57 says are
generated from the image and no section holds: of a port with a first slice and a width, and a slice. -/
opaque flexoIds : Nat → Nat → Nat → Nat × Nat × Nat

/-- FREE VALUE (log entry 14): how many OTUC frames of an instance end in a superframe that a looped lane receives, the n-th time. -/
opaque loopFrames : Nat → Nat

/-- FREE VALUE (log entry 117): MFAS of the first OTUC frame that starts in a transmitted superframe, and the IAE bit sent; no rule gives
the phase of the transmitted frames to the superframes, nor when the device sends IAE (R57, R74). -/
opaque txSection : Nat → Nat × Bool
/-- FREE VALUE (log entry 117): the SM and PM BIP-8 of that OTUC frame (R74), whose whole content the model does not hold. -/
opaque txBip : Nat → Byte × Byte

/-- FREE VALUE (log entry 118): the second-order rate filter of a remapper (R108 gives its bandwidth and peaking): from its two state words
and the bytes received in a frame, the next state words and the bytes sent in the frame. -/
opaque remapFilter : Nat → Nat → Nat → (Nat × Nat) × Nat
/-- FREE VALUE (log entry 67): the bytes of a core slot's data words past the count of its frame, which R107 calls not valid, by their place. -/
opaque restByte : Nat → Byte
/-- FREE VALUE (log entry 118): Cm that a remapper of `k` slots computes from the fill of its buffer (R108). -/
opaque gmpCm : Nat → Int → Nat

/-- FREE VALUE (log entry 118): the range of Cm permitted to an ODU of a type, with k slots and a declared rate (R106 names the tolerance it
corresponds to and leaves Cm itself to G.709). -/
opaque cmRange : Nat → Nat → Nat → Nat × Nat

/-- FREE VALUE (log entry 133): the loss-of-light threshold of a mate receive lane in 0.1 dBm, to which R244 refers and which no rule gives. -/
opaque mateLight : Int

/-- FREE VALUE (log entry 119): the PRBS-derived body of the test word of an ingress switch, a position and FN[15:0] (R112). -/
opaque testBody : Nat → Nat → Nat → Nat

/-- FREE VALUE (log entry 135): the verify of a life-cycle fuse copy succeeds (R320): the n-th programming, the copy. -/
opaque fuseVerifies : Nat → Nat → Bool
/-- FREE VALUE (log entry 150): the straps SMB_ADDR0 to SMB_ADDR2 (R340). -/
opaque smbStraps : Fin 8
/-- FREE VALUE (log entry 151): where CDA-F finds the capture buffer, to which R300 gives no internal address (R325). -/
opaque captureBase : Nat
/-- FREE VALUE (log entry 88): the burst of a master whose address the block does not keep is for a power domain (R332): the n-th free value. -/
opaque burstInto : Nat → Nat → Bool

/-- FREE VALUE (log entry 124): the word that a mirror record becomes in a group's duty state: the object's handle, the number of the word in its
duty, the record's bytes; the layout is the program's own (R231, R253). -/
opaque dutyWord : Nat → Nat → List Byte → Dword

end Sys2Proof.Config
end

