-- ==== Sys2Proof/Machine/Bits.lean ====
section
/-! DEFINITION. Bytes, bit fields, byte order (R10), CRCs (R60, R270), BIP-8, SHA-256 (R272). -/

namespace Sys2Proof.Machine

/-- Bits [lo+w-1:lo] of `v`. -/
def bits (v lo w : Nat) : Nat := v / 2 ^ lo % 2 ^ w

/-- Bit `i` of `v`. -/
def bitAt (v i : Nat) : Bool := v / 2 ^ i % 2 == 1

/-- 1 for true, 0 for false. -/
def nat01 (b : Bool) : Nat := if b then 1 else 0

/-- `v` with bit `i` set. -/
def setBit (v i : Nat) : Nat := if bitAt v i then v else v + 2 ^ i

/-- `v` with bit `i` cleared. -/
def clrBit (v i : Nat) : Nat := if bitAt v i then v - 2 ^ i else v

/-- `v` with bit `i` made `b`. -/
def putBit (v i : Nat) (b : Bool) : Nat := if b then setBit v i else clrBit v i

/-- A byte from a number, modulo 256. -/
def byte (n : Nat) : Byte := BitVec.ofNat 8 n

/-- The little-endian number of a list of bytes (R10). -/
def leNat : List Byte → Nat
  | [] => 0
  | b :: r => b.toNat + 256 * leNat r

/-- `k` bytes of `n`, least significant first (R10). -/
def leBytes (n : Nat) : Nat → List Byte
  | 0 => []
  | k + 1 => byte n :: leBytes (n / 256) k

/-- The most-significant-first number of a list of bytes, the order of line and link formats (R10). -/
def beNat (l : List Byte) : Nat := leNat l.reverse

/-- `k` bytes of `n`, most significant first (R10). -/
def beBytes (n k : Nat) : List Byte := (leBytes n k).reverse

/-- `n` bytes of `l` from position `o`; missing bytes read 0. -/
def slice (l : List Byte) (o n : Nat) : List Byte :=
  let x := (l.drop o).take n
  x ++ List.replicate (n - x.length) 0

/-- Little-endian field of `n` bytes at position `o` of an entry. -/
def leAt (l : List Byte) (o n : Nat) : Nat := leNat (slice l o n)

/-- Most-significant-first field of `n` bytes at position `o` of a line format. -/
def beAt (l : List Byte) (o n : Nat) : Nat := beNat (slice l o n)

/-- Two's complement reading of `v` as a `w`-bit number. -/
def sext (v w : Nat) : Int := if v < 2 ^ (w - 1) then v else (v : Int) - 2 ^ w

/-- The `w`-bit two's complement code of `i`. -/
def unsext (i : Int) (w : Nat) : Nat := (i % (2 ^ w : Nat)).toNat

/-- `i` held between `lo` and `hi`. -/
def clampI (i lo hi : Int) : Int := if i < lo then lo else if hi < i then hi else i

/-- One byte into CRC-16 x^16 + x^12 + x^5 + 1, most significant bit first (R60). -/
def crc16Byte (c : Nat) (b : Byte) : Nat :=
  (List.range 8).foldl (fun c i =>
    let top := bitAt c 15 != bitAt b.toNat (7 - i)
    let c := c * 2 % 65536
    if top then Nat.xor c 0x1021 else c) c

/-- CRC-16 of R60: initial value 0xFFFF, no reflection, no final inversion. -/
def crc16 (l : List Byte) : Nat := l.foldl crc16Byte 0xFFFF

/-- One byte into CRC-8 x^8 + x^2 + x + 1, most significant bit first. -/
def crc8Byte (c : Nat) (b : Byte) : Nat :=
  (List.range 8).foldl (fun c _ => if bitAt c 7 then Nat.xor (c * 2 % 256) 0x07 else c * 2 % 256) (Nat.xor c b.toNat)

/-- One byte into CRC-32C, least significant bit first. -/
def crc32cByte (c : Nat) (b : Byte) : Nat :=
  (List.range 8).foldl (fun c _ => if c % 2 = 1 then Nat.xor (c / 2) 0x82F63B78 else c / 2) (Nat.xor c b.toNat)

/-- CRC-32C (R235, R236, R270, R282). PRESUMED (log entry 20): the usual CRC-32C conventions. -/
def crc32c (l : List Byte) : Nat := Nat.xor (l.foldl crc32cByte 0xFFFFFFFF) 0xFFFFFFFF

/-- Bit-interleaved parity over bytes, even (R145). -/
def bip8 (l : List Byte) : Byte := l.foldl (· ^^^ ·) 0

/-- Ones in the low `n` bits of `v`. -/
def popCount (v n : Nat) : Nat := ((List.range n).filter (bitAt v)).length

/-- Bits of `l` that are set, as a number. -/
def ofBits (l : List Bool) : Nat := l.foldr (fun b n => nat01 b + 2 * n) 0

/-- The lines of `l` in pieces of `n`, `k` of them at most. -/
def pieces {α : Type} (n : Nat) : Nat → List α → List (List α)
  | 0, _ => []
  | k + 1, l => if l.isEmpty then [] else l.take n :: pieces n k (l.drop n)

/-- The largest number `x` + (less than 2^`b`) whose `n`-th power is at most `v`, found bit by bit. -/
def rootFrom (n v : Nat) : Nat → Nat → Nat
  | 0, x => x
  | b + 1, x => rootFrom n v b (if (x + 2 ^ b) ^ n ≤ v then x + 2 ^ b else x)

/-- The first 32 bits of the fraction of the `n`-th root of `p`. -/
def rootWord (n p : Nat) : Word := BitVec.ofNat 32 (rootFrom n (p * 2 ^ (32 * n)) 40 0)

/-- The first `n` prime numbers, from the candidate `p` on; `fuel` candidates at most. -/
def primes : Nat → Nat → Nat → List Nat
  | 0, _, _ => []
  | fuel + 1, n, p =>
    if n = 0 then []
    else if (List.range p).all fun d => d < 2 || p % d != 0 then p :: primes fuel (n - 1) (p + 1)
    else primes fuel n (p + 1)

/-- The round constants of SHA-256: cube roots of the first 64 primes. -/
def shaRounds : List Word := (primes 310 64 2).map (rootWord 3)

/-- The initial digest words: square roots of the first eight primes. -/
def shaInit : List Word := (primes 310 8 2).map (rootWord 2)

/-- A word turned right by three amounts, together. -/
def turned (x : Word) (i j k : Nat) : Word := x.rotateRight i ^^^ x.rotateRight j ^^^ x.rotateRight k

/-- A round: the next 16 words of the message schedule, oldest first, and the eight working words. -/
def shaStep (x : List Word × List Word) (k : Word) : List Word × List Word :=
  match x with
  | (w :: later, [a, b, c, d, e, f, g, h]) =>
    let near := later.getD 0 0
    let far := later.getD 13 0
    let next := w + (near.rotateRight 7 ^^^ near.rotateRight 18 ^^^ (near >>> 3)) + later.getD 8 0
      + (far.rotateRight 17 ^^^ far.rotateRight 19 ^^^ (far >>> 10))
    let t := h + turned e 6 11 25 + (g ^^^ (e &&& (f ^^^ g))) + k + w
    (later ++ [next], [t + turned a 2 13 22 + ((a &&& b) ||| (c &&& (a ||| b))), a, b, c, d + t, e, f, g])
  | _ => x

/-- A block of 64 bytes into the digest words. -/
def shaBlock (ks : List Word) (dig : List Word) (block : List Byte) : List Word :=
  let sched := (pieces 4 16 block).map fun p => BitVec.ofNat 32 (beNat p)
  List.zipWith (· + ·) dig (ks.foldl shaStep (sched, dig)).2

/-- SHA-256 of a byte string (R272), 32 bytes. PRESUMED (log entry 130): FIPS 180-4, which the spec names by the digest's name only. -/
def sha256 (l : List Byte) : List Byte :=
  let pad := 64 - (l.length + 9) % 64
  let m := l ++ byte 128 :: List.replicate (pad % 64) 0 ++ beBytes (8 * l.length) 8
  (((pieces 64 (m.length / 64) m).foldl (shaBlock shaRounds) shaInit).map fun w => beBytes w.toNat 4).flatten

end Sys2Proof.Machine
end

