-- ==== Sys2Proof/Machine/Regs.lean ====
section
/-! DEFINITION. The register map: every CSR register of the spec's register tables (R50, R72, R99, R100, R124, R142, R175,
R199, R224, R244, R268, R269, R293, R294, R318, R319, R336, R337), its offset in CSR space (R301), its array
dimensions, its reset value, and the masks of its RW and W1C fields; then its fields. -/

namespace Sys2Proof.Machine

/-- A register field: least significant bit and width. -/
structure Fld where
  lo : Nat
  width : Nat
  deriving DecidableEq, Repr

/-- One row of the register map: `n1` copies `s1` bytes apart, each of `n2` copies `s2` bytes apart. `rw`, `w1c`: masks of
the RW and W1C fields (R11). `pair`: the low word of a 64-bit pair whose entry says that its read captures the high word,
4 bytes above (R12). -/
structure RegRow where
  base : Nat
  n1 : Nat
  s1 : Nat
  n2 : Nat
  s2 : Nat
  rst : Nat
  rw : Nat
  w1c : Nat
  pair : Bool
  deriving DecidableEq, Repr

namespace Reg

def TOP_ID : Nat := 0x0
def TOP_REV : Nat := 0x4
def TOP_CAP : Nat := 0x8
def TOP_SERIAL_LO : Nat := 0xC
def TOP_SERIAL_HI : Nat := 0x10
def TOP_CTRL : Nat := 0x14
def TOP_RST_CAUSE : Nat := 0x18
def TOP_RST_CMD : Nat := 0x1C
def BOOT_STAT : Nat := 0x100000
def BOOT_EVT : Nat := 0x100004
def BOOT_SLOT_RES (n : Nat) : Nat := 0x100010 + 0x4 * n
def BOOT_SLOT_BLK (n : Nat) : Nat := 0x100018 + 0x4 * n
def BOOT_GEN (n : Nat) : Nat := 0x100020 + 0x4 * n
def BOOT_REL_FN_LO : Nat := 0x100028
def BOOT_REL_FN_HI : Nat := 0x10002C
def BOOT_TIME : Nat := 0x100030
def BOOT_CMD : Nat := 0x100040
def BOOT_CMD_RES : Nat := 0x100044
def BOOT_CMD_ACK : Nat := 0x100048
def BOOT_FL_CMD : Nat := 0x100050
def BOOT_FL_ADDR : Nat := 0x100054
def BOOT_FL_LEN : Nat := 0x100058
def BOOT_FL_BUF_LO : Nat := 0x10005C
def BOOT_FL_BUF_HI : Nat := 0x100060
def BOOT_FL_RES : Nat := 0x100064
def BOOT_FL_ACK : Nat := 0x100068
def BOOT_FL_ADDR_ERR : Nat := 0x10006C
def BOOT_OWN_BASE_LO : Nat := 0x100070
def BOOT_OWN_BASE_HI : Nat := 0x100074
def BOOT_OWN_COUNT : Nat := 0x100078
def XBAR_EVT : Nat := 0x200000
def XBAR_MRESET_INFO : Nat := 0x200004
def XBAR_PRI (n : Nat) : Nat := 0x200014 + 0x4 * n
def XBAR_STARVE (n : Nat) : Nat := 0x200034 + 0x4 * n
def XBAR_BAR2_0 : Nat := 0x200050
def XBAR_BAR2_1 : Nat := 0x200054
def XBAR_BAR2_2 : Nat := 0x200058
def XBAR_BAR2_3 : Nat := 0x20005C
def XBAR_BLK_EVT : Nat := 0x200060
def XBAR_BLK_MASK : Nat := 0x200064
def XBAR_HOST_STAT : Nat := 0x200070
def DMA_RUN (n : Nat) : Nat := 0x300000 + 0x4 * n
def DMA_HALT (n : Nat) : Nat := 0x300008 + 0x4 * n
def DMA_EVT : Nat := 0x300010
def DMA_Q_DROP_WRAP (n : Nat) : Nat := 0x300400 + 0x4 * n
def DMA_Q_MARK (n : Nat) : Nat := 0x300600 + 0x4 * n
def DMA_CH_STAT (n : Nat) : Nat := 0x301000 + 0x40 * n
def DMA_CH_CFG (n : Nat) : Nat := 0x301004 + 0x40 * n
def DMA_CH_TMO (n : Nat) : Nat := 0x301008 + 0x40 * n
def DMA_CH_RSV (n : Nat) : Nat := 0x30100C + 0x40 * n
def DMA_CH_HEAD_LO (n : Nat) : Nat := 0x301010 + 0x40 * n
def DMA_CH_HEAD_HI (n : Nat) : Nat := 0x301014 + 0x40 * n
def DMA_CH_CMD (n : Nat) : Nat := 0x301018 + 0x40 * n
def DMA_CH_RES (n : Nat) : Nat := 0x30101C + 0x40 * n
def DMA_CH_ACK (n : Nat) : Nat := 0x301020 + 0x40 * n
def DMA_CH_CUR_LO (n : Nat) : Nat := 0x301024 + 0x40 * n
def DMA_CH_CUR_HI (n : Nat) : Nat := 0x301028 + 0x40 * n
def DMA_CH_HWIN_LO (n : Nat) : Nat := 0x30102C + 0x40 * n
def DMA_CH_HWIN_HI (n : Nat) : Nat := 0x301030 + 0x40 * n
def DMA_CH_HWIN_LEN (n : Nat) : Nat := 0x301034 + 0x40 * n
def DMA_CH_IWIN (n : Nat) : Nat := 0x301038 + 0x40 * n
def DMA_CH_IWIN_LEN (n : Nat) : Nat := 0x30103C + 0x40 * n
def DMA_Q_CFG (n : Nat) : Nat := 0x310000 + 0x20 * n
def DMA_Q_FILL (n : Nat) : Nat := 0x310004 + 0x20 * n
def DMA_Q_HI (n : Nat) : Nat := 0x310008 + 0x20 * n
def DMA_Q_LO (n : Nat) : Nat := 0x31000C + 0x20 * n
def DMA_Q_FLUSH (n : Nat) : Nat := 0x310010 + 0x20 * n
def DMA_Q_DROP_LO (n : Nat) : Nat := 0x310014 + 0x20 * n
def DMA_Q_DROP_HI (n : Nat) : Nat := 0x310018 + 0x20 * n
def DMA_Q_BASE (n : Nat) : Nat := 0x31001C + 0x20 * n
def FT_CTRL : Nat := 0x400000
def FT_STAT : Nat := 0x400004
def FT_EVT : Nat := 0x400008
def FT_FN_LO : Nat := 0x400010
def FT_FN_HI : Nat := 0x400014
def FT_CAP_CMD : Nat := 0x400018
def FT_CAP_FN_LO : Nat := 0x40001C
def FT_CAP_FN_HI : Nat := 0x400020
def FT_CAP_OFS : Nat := 0x400024
def FT_ALIGN_WIN : Nat := 0x400030
def FT_PPS_OFS : Nat := 0x400034
def FT_PPS_SEC : Nat := 0x400038
def FT_STEP_AT_LO : Nat := 0x400040
def FT_STEP_AT_HI : Nat := 0x400044
def FT_STEP_NEWFN_LO : Nat := 0x400048
def FT_STEP_NEWFN_HI : Nat := 0x40004C
def FT_STEP_CYC : Nat := 0x400050
def FT_STEP_CMD : Nat := 0x400054
def FT_STEP_RES : Nat := 0x400058
def FT_STEP_ACK : Nat := 0x40005C
def FT_HWIN_NUM : Nat := 0x400080
def FT_BIN_CTRL : Nat := 0x400090
def FT_GROVE : Nat := 0x4000A0
def FT_HWIN_START (n : Nat) : Nat := 0x400100 + 0x8 * n
def FT_HWIN_LEN (n : Nat) : Nat := 0x400104 + 0x8 * n
def TIM_CTRL : Nat := 0x500000
def TIM_HCTRL : Nat := 0x500004
def TIM_STAT : Nat := 0x500008
def TIM_EVT : Nat := 0x50000C
def TIM_LOCKOUT_0 : Nat := 0x500010
def TIM_LOCKOUT_1 : Nat := 0x500014
def TIM_HO_FREQ : Nat := 0x500030
def TIM_OUT_FREQ : Nat := 0x500034
def TIM_PULLIN : Nat := 0x500038
def TIM_AGREE_WIN : Nat := 0x50003C
def TIM_WTR : Nat := 0x500040
def TIM_SETTLE : Nat := 0x500044
def TIM_BW_0 : Nat := 0x500050
def TIM_BW_1 : Nat := 0x500054
def TIM_BW_2 : Nat := 0x500058
def TIM_BW_3 : Nat := 0x50005C
def TIM_XO : Nat := 0x500060
def TIM_XO_CAL : Nat := 0x500064
def TIM_PPS_OUT : Nat := 0x500068
def TIM_CLK_OUT (n : Nat) : Nat := 0x500070 + 0x4 * n
def TIM_TOD_IN_LO : Nat := 0x500080
def TIM_TOD_IN_HI : Nat := 0x500084
def TIM_TOD_IN_AUX : Nat := 0x500088
def TIM_REF_CFG (n : Nat) : Nat := 0x501000 + 0x20 * n
def TIM_REF_PRI (n : Nat) : Nat := 0x501004 + 0x20 * n
def TIM_REF_STAT (n : Nat) : Nat := 0x501008 + 0x20 * n
def TIM_REF_OFS (n : Nat) : Nat := 0x50100C + 0x20 * n
def TIM_REF_PHASE (n : Nat) : Nat := 0x501010 + 0x20 * n
def TIM_REF_WTR_LEFT (n : Nat) : Nat := 0x501014 + 0x20 * n
def TIM_REF_EVT (n : Nat) : Nat := 0x501018 + 0x20 * n
def MATE_CFG : Nat := 0x600000
def MATE_CTRL : Nat := 0x600004
def MATE_STAT : Nat := 0x600008
def MATE_EVT : Nat := 0x60000C
def MATE_CMD : Nat := 0x600010
def MATE_CMD_RES : Nat := 0x600014
def MATE_CMD_ACK : Nat := 0x600018
def MATE_EPOCH : Nat := 0x600020
def MATE_EXP_LO : Nat := 0x600024
def MATE_EXP_HI : Nat := 0x600028
def MATE_HEALTH : Nat := 0x600030
def MATE_PEER_HEALTH : Nat := 0x600034
def MATE_DELAY : Nat := 0x600038
def MATE_ARB : Nat := 0x60003C
def MATE_MMISS_LO : Nat := 0x600040
def MATE_MMISS_HI : Nat := 0x600044
def MATE_FBMISS_LO : Nat := 0x600048
def MATE_FBMISS_HI : Nat := 0x60004C
def MATE_SHADOW_LO : Nat := 0x600050
def MATE_SHADOW_HI : Nat := 0x600054
def MATE_GRINUS_ERR_LO : Nat := 0x600058
def MATE_GRINUS_ERR_HI : Nat := 0x60005C
def MATE_WRAP : Nat := 0x600060
def MATE_LANE_STAT (n : Nat) : Nat := 0x600080 + 0x4 * n
def LC_STAT : Nat := 0x700000
def LC_CMD : Nat := 0x700004
def LC_RES : Nat := 0x700008
def LC_ACK : Nat := 0x70000C
def LC_DBG : Nat := 0x700010
def LC_EVT : Nat := 0x700014
def LC_IDCODE : Nat := 0x70001C
def PWR_STAT : Nat := 0x800000
def PWR_EVT : Nat := 0x800004
def PWR_REQ_CMD : Nat := 0x800010
def PWR_REQ_AT_LO : Nat := 0x800014
def PWR_REQ_AT_HI : Nat := 0x800018
def PWR_RES : Nat := 0x80001C
def PWR_ACK : Nat := 0x800020
def PWR_LEG_ON (n : Nat) : Nat := 0x800200 + 0x4 * n
def PWR_LEG_OFF (n : Nat) : Nat := 0x800210 + 0x4 * n
def PWR_DOM_STAT (n : Nat) : Nat := 0x800400 + 0x4 * n
def PMON_CTRL : Nat := 0x900000
def PMON_EVT : Nat := 0x900004
def PMON_SNAP_CMD : Nat := 0x900010
def PMON_SNAP_RES : Nat := 0x900014
def PMON_SNAP_ACK : Nat := 0x900018
def PMON_SNAP_FN_LO : Nat := 0x90001C
def PMON_SNAP_FN_HI : Nat := 0x900020
def PMON_WRAP (n : Nat) : Nat := 0x900040 + 0x4 * n
def PMON_SEL (n : Nat) : Nat := 0x901000 + 0x4 * n
def PMON_CNT_LO (n : Nat) : Nat := 0x902000 + 0x8 * n
def PMON_CNT_HI (n : Nat) : Nat := 0x902004 + 0x8 * n
def PMON_LAST_LO (n : Nat) : Nat := 0x903000 + 0x8 * n
def PMON_LAST_HI (n : Nat) : Nat := 0x903004 + 0x8 * n
def PMON_SNAPV_LO (n : Nat) : Nat := 0x904000 + 0x8 * n
def PMON_SNAPV_HI (n : Nat) : Nat := 0x904004 + 0x8 * n
def GRAFT_STAT : Nat := 0xA00000
def GRAFT_EVT : Nat := 0xA00004
def GRAFT_RUN_DIGEST (n : Nat) : Nat := 0xA00010 + 0x4 * n
def GRAFT_LAST_FN_LO : Nat := 0xA00030
def GRAFT_LAST_FN_HI : Nat := 0xA00034
def GRAFT_CMD : Nat := 0xA00040
def GRAFT_CMD_RES : Nat := 0xA00044
def GRAFT_CMD_TGT_LO : Nat := 0xA00048
def GRAFT_CMD_TGT_HI : Nat := 0xA0004C
def GRAFT_CMD_ACK : Nat := 0xA00050
def GRAFT_STAGE_BASE_LO : Nat := 0xA00058
def GRAFT_STAGE_BASE_HI : Nat := 0xA0005C
def GRAFT_E_STAT (n : Nat) : Nat := 0xA00100 + 0x40 * n
def GRAFT_E_TGT_LO (n : Nat) : Nat := 0xA00104 + 0x40 * n
def GRAFT_E_TGT_HI (n : Nat) : Nat := 0xA00108 + 0x40 * n
def GRAFT_E_SIZE (n : Nat) : Nat := 0xA0010C + 0x40 * n
def GRAFT_E_RES (n : Nat) : Nat := 0xA00110 + 0x40 * n
def GRAFT_E_ACK (n : Nat) : Nat := 0xA00114 + 0x40 * n
def GRAFT_E_HITS (n : Nat) : Nat := 0xA00118 + 0x40 * n
def GRAFT_E_GTAG (n : Nat) : Nat := 0xA0011C + 0x40 * n
def GRAFT_E_RDIG (g n : Nat) : Nat := 0xA00120 + 0x40 * g + 0x4 * n
def PG_LANE_CTRL (g n : Nat) : Nat := 0x1000000 + 0x10000 * g + 0x4 * n
def PG_LANE_STAT (g n : Nat) : Nat := 0x1000080 + 0x10000 * g + 0x4 * n
def PG_LANE_SKEW (g n : Nat) : Nat := 0x1000100 + 0x10000 * g + 0x4 * n
def PG_LANE_EVT (g n : Nat) : Nat := 0x1000180 + 0x10000 * g + 0x4 * n
def PG_LANE_COR_LO (g n : Nat) : Nat := 0x1000200 + 0x10000 * g + 0x8 * n
def PG_LANE_COR_HI (g n : Nat) : Nat := 0x1000204 + 0x10000 * g + 0x8 * n
def PG_LANE_UNC_LO (g n : Nat) : Nat := 0x1000300 + 0x10000 * g + 0x8 * n
def PG_LANE_UNC_HI (g n : Nat) : Nat := 0x1000304 + 0x10000 * g + 0x8 * n
def PG_LANE_COR_WRAP (n : Nat) : Nat := 0x1000400 + 0x10000 * n
def PG_LANE_UNC_WRAP (n : Nat) : Nat := 0x1000404 + 0x10000 * n
def PG_PORT_CFG (g n : Nat) : Nat := 0x1000500 + 0x10000 * g + 0x4 * n
def PG_PORT_STAT (g n : Nat) : Nat := 0x1000520 + 0x10000 * g + 0x4 * n
def PG_SPARE_CTRL (n : Nat) : Nat := 0x1000600 + 0x10000 * n
def PG_SPARE_CMD (n : Nat) : Nat := 0x1000604 + 0x10000 * n
def PG_SPARE_STAT (n : Nat) : Nat := 0x1000608 + 0x10000 * n
def PG_SPARE_FAR (n : Nat) : Nat := 0x100060C + 0x10000 * n
def PG_SPARE_RES (n : Nat) : Nat := 0x1000610 + 0x10000 * n
def PG_SPARE_ACK (n : Nat) : Nat := 0x1000614 + 0x10000 * n
def PG_SPARE_TMR (n : Nat) : Nat := 0x1000618 + 0x10000 * n
def PG_SPARE_DEG (n : Nat) : Nat := 0x100061C + 0x10000 * n
def PG_SPARE_PRBS_LO (n : Nat) : Nat := 0x1000620 + 0x10000 * n
def PG_SPARE_PRBS_HI (n : Nat) : Nat := 0x1000624 + 0x10000 * n
def PG_OTUC_STAT (g n : Nat) : Nat := 0x1001000 + 0x10000 * g + 0x4 * n
def PG_ODUC_STAT (g n : Nat) : Nat := 0x1001080 + 0x10000 * g + 0x4 * n
def PG_ODU_STAT (g n : Nat) : Nat := 0x1001100 + 0x10000 * g + 0x4 * n
def PG_ODU_TCM_STAT (g n : Nat) : Nat := 0x1002000 + 0x10000 * g + 0x4 * n
def PG_ODU_CHG (g n : Nat) : Nat := 0x1003000 + 0x10000 * g + 0x4 * n
def PG_OH_CHG (n : Nat) : Nat := 0x1003050 + 0x10000 * n
def PG_OH_CHG2 (n : Nat) : Nat := 0x1003054 + 0x10000 * n
def PG_ODU_LCK_TX (g n : Nat) : Nat := 0x1003100 + 0x10000 * g + 0x4 * n
def PG_ODU_LCK_RX (g n : Nat) : Nat := 0x1003180 + 0x10000 * g + 0x4 * n
def PG_ELS_CTRL (n : Nat) : Nat := 0x1400000 + 0x4 * n
def PG_ELS_STAT (n : Nat) : Nat := 0x1400200 + 0x4 * n
def PG_ELS_THR : Nat := 0x1400400
def PG_ELS_EVT_0 : Nat := 0x1400410
def PG_ELS_EVT_1 : Nat := 0x1400414
def PG_ELS_EVT_2 : Nat := 0x1400418
def PG_ELS_MATE : Nat := 0x1400420
def PM_HIST_BASE_LO : Nat := 0x1410000
def PM_HIST_BASE_HI : Nat := 0x1410004
def PM_TTI_BASE_LO : Nat := 0x1410008
def PM_TTI_BASE_HI : Nat := 0x141000C
def PM_FAIL_SET : Nat := 0x1410010
def PM_FAIL_CLR : Nat := 0x1410014
def PM_CLOSE15 : Nat := 0x1410018
def PM_CLOSE24 : Nat := 0x141001C
def PM_EVT : Nat := 0x1410020
def PM_RD_REQ : Nat := 0x1410030
def PM_RES : Nat := 0x1410034
def PM_RES_ACK : Nat := 0x1410038
def PM_RES_DATA (n : Nat) : Nat := 0x1410040 + 0x4 * n
def TRK_BANK_STAT : Nat := 0x2000000
def TRK_FLIP_FN_LO : Nat := 0x2000004
def TRK_FLIP_FN_HI : Nat := 0x2000008
def TRK_EVT : Nat := 0x2000010
def TRK_BREACH_LO : Nat := 0x2000018
def TRK_BREACH_HI : Nat := 0x200001C
def TRK_BREACH_LOC : Nat := 0x2000020
def TRK_ECC_COR_LO : Nat := 0x2000028
def TRK_ECC_COR_HI : Nat := 0x200002C
def TRK_ECC_UNC_LO : Nat := 0x2000030
def TRK_ECC_UNC_HI : Nat := 0x2000034
def TRK_WRAP : Nat := 0x2000038
def TRK_TEST_CMD : Nat := 0x2000040
def TRK_TEST_ERR_LO (n : Nat) : Nat := 0x2000100 + 0x8 * n
def TRK_TEST_ERR_HI (n : Nat) : Nat := 0x2000104 + 0x8 * n
def TRK_LINK_ERR_LO (n : Nat) : Nat := 0x2000400 + 0x8 * n
def TRK_LINK_ERR_HI (n : Nat) : Nat := 0x2000404 + 0x8 * n
def TRK_TEST_WRAP (n : Nat) : Nat := 0x2000420 + 0x4 * n
def TRK_LINK_WRAP : Nat := 0x2000430
def TRK_SLOT_MAP (n : Nat) : Nat := 0x2000800 + 0x4 * n
def TRK_LAT (n : Nat) : Nat := 0x2100000 + 0x4 * n
def TRK_SRC_A (n : Nat) : Nat := 0x2200000 + 0x4 * n
def TRK_SRC_B (n : Nat) : Nat := 0x2280000 + 0x4 * n
def TRK_SEL (n : Nat) : Nat := 0x2300000 + 0x4 * n
def TRK_REMAP_EVT (n : Nat) : Nat := 0x2302000 + 0x4 * n
def LEAF_STAT : Nat := 0x3000000
def LEAF_EVT : Nat := 0x3000004
def LEAF_CONFLICT_LO : Nat := 0x3000010
def LEAF_CONFLICT_HI : Nat := 0x3000014
def LEAF_MAPERR_LO : Nat := 0x3000018
def LEAF_MAPERR_HI : Nat := 0x300001C
def LEAF_CONFLICT_LOC : Nat := 0x3000020
def LEAF_CONFLICT_SLOT : Nat := 0x3000024
def LEAF_WRAP : Nat := 0x3000028
def LEAF_MAP_BASE_LO : Nat := 0x3000030
def LEAF_MAP_BASE_HI : Nat := 0x3000034
def LEAF_SREC_BASE_LO : Nat := 0x3000038
def LEAF_SREC_BASE_HI : Nat := 0x300003C
def LEAF_DEF_BASE_LO : Nat := 0x3000040
def LEAF_DEF_BASE_HI : Nat := 0x3000044
def LEAF_PM_BASE_LO : Nat := 0x3000048
def LEAF_PM_BASE_HI : Nat := 0x300004C
def LEAF_TRACE_BASE_LO : Nat := 0x3000050
def LEAF_TRACE_BASE_HI : Nat := 0x3000054
def LEAF_REFMAP (n : Nat) : Nat := 0x3000080 + 0x4 * n
def LEAF_PM_REQ : Nat := 0x3000100
def LEAF_PM_RES : Nat := 0x3000104
def LEAF_PM_ACK : Nat := 0x3000108
def LEAF_PM_DATA (n : Nat) : Nat := 0x3000140 + 0x4 * n
def LEAF_CAR_CHG (n : Nat) : Nat := 0x3000200 + 0x4 * n
def LEAF_SLIP_WRAP (n : Nat) : Nat := 0x3000240 + 0x4 * n
def LEAF_BIP_WRAP (n : Nat) : Nat := 0x3000280 + 0x4 * n
def LEAF_CAR_STAT (n : Nat) : Nat := 0x3010000 + 0x20 * n
def LEAF_CAR_FILL (n : Nat) : Nat := 0x3010004 + 0x20 * n
def LEAF_CAR_SLIP_LO (n : Nat) : Nat := 0x3010008 + 0x20 * n
def LEAF_CAR_SLIP_HI (n : Nat) : Nat := 0x301000C + 0x20 * n
def LEAF_CAR_BIP_LO (n : Nat) : Nat := 0x3010010 + 0x20 * n
def LEAF_CAR_BIP_HI (n : Nat) : Nat := 0x3010014 + 0x20 * n
def LEAF_CAR_QL (n : Nat) : Nat := 0x3010018 + 0x20 * n
def LEAF_CAR_CFG (n : Nat) : Nat := 0x301001C + 0x20 * n
def LEAF_SEL (n : Nat) : Nat := 0x3020000 + 0x4 * n
def PROT_STAT : Nat := 0x4000000
def PROT_EVT : Nat := 0x4000004
def PROT_CMD : Nat := 0x4000010
def PROT_CMD_RES : Nat := 0x4000014
def PROT_CMD_GRP : Nat := 0x4000018
def PROT_CMD_ACK : Nat := 0x400001C
def PROT_LATE_LO : Nat := 0x4000020
def PROT_LATE_HI : Nat := 0x4000024
def PROT_WRAP : Nat := 0x4000028
def PROT_SW_WRAP (n : Nat) : Nat := 0x4010000 + 0x4 * n
def PROT_G_CHG (n : Nat) : Nat := 0x4020000 + 0x4 * n
def PROT_G_CFG (n : Nat) : Nat := 0x4400000 + 0x40 * n
def PROT_G_STAT (n : Nat) : Nat := 0x4400004 + 0x40 * n
def PROT_G_WLEG (n : Nat) : Nat := 0x4400008 + 0x40 * n
def PROT_G_PLEG (n : Nat) : Nat := 0x440000C + 0x40 * n
def PROT_G_SELOUT (n : Nat) : Nat := 0x4400010 + 0x40 * n
def PROT_G_HOLD (n : Nat) : Nat := 0x4400014 + 0x40 * n
def PROT_G_WTR (n : Nat) : Nat := 0x4400018 + 0x40 * n
def PROT_G_WTR_LEFT (n : Nat) : Nat := 0x440001C + 0x40 * n
def PROT_G_TX (n : Nat) : Nat := 0x4400020 + 0x40 * n
def PROT_G_RX (n : Nat) : Nat := 0x4400024 + 0x40 * n
def PROT_G_SW (n : Nat) : Nat := 0x4400028 + 0x40 * n
def ENG_STAT (n : Nat) : Nat := 0x8000000 + 0x100000 * n
def ENG_EVT (n : Nat) : Nat := 0x8000004 + 0x100000 * n
def ENG_LATE_LOC (n : Nat) : Nat := 0x8000008 + 0x100000 * n
def ENG_LATE_OBJ (n : Nat) : Nat := 0x800000C + 0x100000 * n
def ENG_MARK (n : Nat) : Nat := 0x8000010 + 0x100000 * n
def ENG_PROG (n : Nat) : Nat := 0x8000014 + 0x100000 * n
def ENG_DIRTY (n : Nat) : Nat := 0x8000018 + 0x100000 * n
def ENG_RETIRED_LO (n : Nat) : Nat := 0x8000020 + 0x100000 * n
def ENG_RETIRED_HI (n : Nat) : Nat := 0x8000024 + 0x100000 * n
def ENG_WASTED_LO (n : Nat) : Nat := 0x8000028 + 0x100000 * n
def ENG_WASTED_HI (n : Nat) : Nat := 0x800002C + 0x100000 * n
def ENG_FRONT_STARVED_LO (n : Nat) : Nat := 0x8000030 + 0x100000 * n
def ENG_FRONT_STARVED_HI (n : Nat) : Nat := 0x8000034 + 0x100000 * n
def ENG_BACK_STARVED_LO (n : Nat) : Nat := 0x8000038 + 0x100000 * n
def ENG_BACK_STARVED_HI (n : Nat) : Nat := 0x800003C + 0x100000 * n
def ENG_LATE_LO (n : Nat) : Nat := 0x8000040 + 0x100000 * n
def ENG_LATE_HI (n : Nat) : Nat := 0x8000044 + 0x100000 * n
def ENG_OWN_LO (n : Nat) : Nat := 0x8000048 + 0x100000 * n
def ENG_OWN_HI (n : Nat) : Nat := 0x800004C + 0x100000 * n
def ENG_BUDGET_LO (n : Nat) : Nat := 0x8000050 + 0x100000 * n
def ENG_BUDGET_HI (n : Nat) : Nat := 0x8000054 + 0x100000 * n
def ENG_ECC_COR_LO (n : Nat) : Nat := 0x8000058 + 0x100000 * n
def ENG_ECC_COR_HI (n : Nat) : Nat := 0x800005C + 0x100000 * n
def ENG_WRAP (n : Nat) : Nat := 0x8000060 + 0x100000 * n
def ENG_TD_CAP (g n : Nat) : Nat := 0x8000080 + 0x100000 * g + 0x4 * n
def ENG_RSV_POST (n : Nat) : Nat := 0x80000A0 + 0x100000 * n
def ENG_RSV_BUS (g n : Nat) : Nat := 0x80000A4 + 0x100000 * g + 0x4 * n
def ENG_C_STAT : Nat := 0xFF00000
def ENG_C_EVT : Nat := 0xFF00004
def ENG_CMD : Nat := 0xFF00010
def ENG_CMD_RES : Nat := 0xFF00014
def ENG_CMD_ACK : Nat := 0xFF00018
def ENG_TD_CMD : Nat := 0xFF00020
def ENG_TD_RES : Nat := 0xFF00024
def ENG_TD_FN_LO : Nat := 0xFF00028
def ENG_TD_FN_HI : Nat := 0xFF0002C
def ENG_TD_ACK : Nat := 0xFF00030

end Reg

/-! Fields, named register_FIELD. -/
namespace F

def TOP_ID_PART : Fld := ⟨0, 16⟩
def TOP_ID_VENDOR : Fld := ⟨16, 16⟩
def TOP_REV_STEPPING : Fld := ⟨0, 8⟩
def TOP_REV_ROM : Fld := ⟨8, 8⟩
def TOP_CAP_QUAD : Fld := ⟨0, 4⟩
def TOP_CAP_LEAF : Fld := ⟨4, 1⟩
def TOP_CAP_MATE : Fld := ⟨5, 1⟩
def TOP_CAP_VARIANT : Fld := ⟨6, 2⟩
def TOP_CAP_HBM_GIB : Fld := ⟨8, 8⟩
def TOP_CTRL_REMAP : Fld := ⟨0, 1⟩
def TOP_RST_CAUSE_CAUSE : Fld := ⟨0, 3⟩
def TOP_RST_CMD_KEY : Fld := ⟨0, 8⟩
def TOP_RST_CMD_RESET : Fld := ⟨8, 1⟩
def BOOT_STAT_STEP : Fld := ⟨0, 4⟩
def BOOT_STAT_SOURCE : Fld := ⟨4, 2⟩
def BOOT_STAT_SPLIT : Fld := ⟨6, 1⟩
def BOOT_STAT_NVM0 : Fld := ⟨7, 1⟩
def BOOT_STAT_NVM1 : Fld := ⟨8, 1⟩
def BOOT_EVT_SLOT_FAIL : Fld := ⟨0, 1⟩
def BOOT_EVT_NO_IMAGE : Fld := ⟨1, 1⟩
def BOOT_EVT_RELEASED : Fld := ⟨2, 1⟩
def BOOT_EVT_CMD_IGNORED : Fld := ⟨3, 1⟩
def BOOT_EVT_FL_IGNORED : Fld := ⟨4, 1⟩
def BOOT_EVT_ALIGN_TIMEOUT : Fld := ⟨5, 1⟩
def BOOT_SLOT_RES_CODE : Fld := ⟨0, 8⟩
def BOOT_SLOT_RES_DETAIL : Fld := ⟨8, 8⟩
def BOOT_SLOT_RES_STATE : Fld := ⟨16, 8⟩
def BOOT_SLOT_RES_ATTEMPTED : Fld := ⟨31, 1⟩
def BOOT_SLOT_BLK_BLOCK : Fld := ⟨0, 13⟩
def BOOT_REL_FN_HI_FN_HI : Fld := ⟨0, 16⟩
def BOOT_TIME_MS : Fld := ⟨0, 24⟩
def BOOT_CMD_OP : Fld := ⟨0, 2⟩
def BOOT_CMD_RES_CODE : Fld := ⟨0, 8⟩
def BOOT_CMD_RES_DETAIL : Fld := ⟨8, 8⟩
def BOOT_CMD_RES_SEQ : Fld := ⟨16, 8⟩
def BOOT_CMD_RES_VALID : Fld := ⟨31, 1⟩
def BOOT_CMD_ACK_SEQ : Fld := ⟨0, 8⟩
def BOOT_FL_CMD_OP : Fld := ⟨0, 2⟩
def BOOT_FL_CMD_DEV : Fld := ⟨2, 1⟩
def BOOT_FL_ADDR_ADDR : Fld := ⟨0, 29⟩
def BOOT_FL_LEN_LEN : Fld := ⟨0, 25⟩
def BOOT_FL_BUF_HI_ADDR_HI : Fld := ⟨0, 8⟩
def BOOT_FL_RES_CODE : Fld := ⟨0, 8⟩
def BOOT_FL_RES_DETAIL : Fld := ⟨8, 8⟩
def BOOT_FL_RES_SEQ : Fld := ⟨16, 8⟩
def BOOT_FL_RES_VALID : Fld := ⟨31, 1⟩
def BOOT_FL_ACK_SEQ : Fld := ⟨0, 8⟩
def BOOT_FL_ADDR_ERR_ADDR_ERR : Fld := ⟨0, 29⟩
def BOOT_OWN_BASE_HI_ADDR_HI : Fld := ⟨0, 8⟩
def XBAR_EVT_MRESET : Fld := ⟨0, 1⟩
def XBAR_EVT_STARVE : Fld := ⟨1, 1⟩
def XBAR_MRESET_INFO_MASTER : Fld := ⟨0, 3⟩
def XBAR_MRESET_INFO_TARGET : Fld := ⟨4, 3⟩
def XBAR_PRI_PRI : Fld := ⟨0, 24⟩
def XBAR_PRI_SLICE : Fld := ⟨24, 1⟩
def XBAR_STARVE_CYCLES : Fld := ⟨0, 16⟩
def XBAR_BAR2_0_BASE : Fld := ⟨0, 12⟩
def XBAR_BAR2_0_EN : Fld := ⟨31, 1⟩
def XBAR_BAR2_1_BASE : Fld := ⟨0, 12⟩
def XBAR_BAR2_1_EN : Fld := ⟨31, 1⟩
def XBAR_BAR2_2_BASE : Fld := ⟨0, 12⟩
def XBAR_BAR2_2_EN : Fld := ⟨31, 1⟩
def XBAR_BAR2_3_BASE : Fld := ⟨0, 12⟩
def XBAR_BAR2_3_EN : Fld := ⟨31, 1⟩
def XBAR_BLK_EVT_BLK : Fld := ⟨0, 16⟩
def XBAR_BLK_MASK_MASK : Fld := ⟨0, 16⟩
def XBAR_HOST_STAT_LINK_UP : Fld := ⟨0, 1⟩
def XBAR_HOST_STAT_SPEED : Fld := ⟨1, 3⟩
def XBAR_HOST_STAT_WIDTH : Fld := ⟨4, 3⟩
def XBAR_HOST_STAT_NP_OUT : Fld := ⟨8, 6⟩
def DMA_EVT_HALT : Fld := ⟨0, 1⟩
def DMA_EVT_CMD_IGNORED : Fld := ⟨1, 1⟩
def DMA_EVT_CFG_IGNORED : Fld := ⟨2, 1⟩
def DMA_EVT_DROP : Fld := ⟨3, 1⟩
def DMA_CH_STAT_STATE : Fld := ⟨0, 3⟩
def DMA_CH_STAT_HOPS : Fld := ⟨4, 16⟩
def DMA_CH_STAT_QUEUE : Fld := ⟨20, 12⟩
def DMA_CH_CFG_PRI : Fld := ⟨0, 3⟩
def DMA_CH_CFG_HOP_LIMIT : Fld := ⟨8, 16⟩
def DMA_CH_TMO_CYCLES : Fld := ⟨0, 20⟩
def DMA_CH_RSV_BEATS : Fld := ⟨0, 18⟩
def DMA_CH_CMD_OP : Fld := ⟨0, 2⟩
def DMA_CH_RES_CODE : Fld := ⟨0, 8⟩
def DMA_CH_RES_SEQ : Fld := ⟨16, 8⟩
def DMA_CH_RES_VALID : Fld := ⟨31, 1⟩
def DMA_CH_ACK_SEQ : Fld := ⟨0, 8⟩
def DMA_CH_HWIN_LO_BASE_LO : Fld := ⟨12, 20⟩
def DMA_CH_HWIN_LEN_LEN : Fld := ⟨0, 24⟩
def DMA_CH_IWIN_BASE : Fld := ⟨0, 24⟩
def DMA_CH_IWIN_LEN_LEN : Fld := ⟨0, 24⟩
def DMA_Q_CFG_DEFINED : Fld := ⟨0, 1⟩
def DMA_Q_CFG_DIR : Fld := ⟨1, 1⟩
def DMA_Q_CFG_RUNITS : Fld := ⟨2, 2⟩
def DMA_Q_CFG_LOG2DEPTH : Fld := ⟨4, 5⟩
def DMA_Q_CFG_CHANNEL : Fld := ⟨9, 6⟩
def DMA_Q_FILL_FILL : Fld := ⟨0, 17⟩
def DMA_Q_FILL_RUN : Fld := ⟨17, 1⟩
def DMA_Q_HI_RECORDS : Fld := ⟨0, 17⟩
def DMA_Q_LO_RECORDS : Fld := ⟨0, 17⟩
def DMA_Q_FLUSH_FRAMES : Fld := ⟨0, 16⟩
def FT_CTRL_INIT_ALIGN : Fld := ⟨0, 1⟩
def FT_CTRL_PPS_POL : Fld := ⟨1, 1⟩
def FT_STAT_ALIGN_STATE : Fld := ⟨0, 2⟩
def FT_STAT_TIME_SET : Fld := ⟨2, 1⟩
def FT_STAT_DP_RELEASED : Fld := ⟨3, 1⟩
def FT_STAT_STEP_STATE : Fld := ⟨4, 2⟩
def FT_EVT_PPS_LOSS : Fld := ⟨0, 1⟩
def FT_EVT_OFFSET_ENTER : Fld := ⟨1, 1⟩
def FT_EVT_TOD_BAD : Fld := ⟨2, 1⟩
def FT_EVT_STEP_APPLIED : Fld := ⟨3, 1⟩
def FT_EVT_GROVE_ASYNC : Fld := ⟨4, 1⟩
def FT_EVT_INIT_ALIGNED : Fld := ⟨5, 1⟩
def FT_EVT_STEP_IGNORED : Fld := ⟨6, 1⟩
def FT_FN_HI_FN_HI : Fld := ⟨0, 16⟩
def FT_CAP_CMD_CAPTURE : Fld := ⟨0, 1⟩
def FT_CAP_FN_HI_CAP_FN_HI : Fld := ⟨0, 16⟩
def FT_CAP_OFS_CAP_OFS : Fld := ⟨0, 18⟩
def FT_ALIGN_WIN_WIN : Fld := ⟨0, 16⟩
def FT_STEP_AT_HI_AT_HI : Fld := ⟨0, 16⟩
def FT_STEP_NEWFN_HI_NEWFN_HI : Fld := ⟨0, 16⟩
def FT_STEP_CMD_ARM : Fld := ⟨0, 1⟩
def FT_STEP_CMD_CANCEL : Fld := ⟨1, 1⟩
def FT_STEP_RES_CODE : Fld := ⟨0, 8⟩
def FT_STEP_RES_SEQ : Fld := ⟨16, 8⟩
def FT_STEP_RES_VALID : Fld := ⟨31, 1⟩
def FT_STEP_ACK_SEQ : Fld := ⟨0, 8⟩
def FT_HWIN_NUM_NUM : Fld := ⟨0, 5⟩
def FT_BIN_CTRL_DAY_SHIFT : Fld := ⟨0, 7⟩
def FT_GROVE_GROVE_ID : Fld := ⟨0, 16⟩
def FT_HWIN_START_START : Fld := ⟨0, 18⟩
def FT_HWIN_LEN_LEN : Fld := ⟨0, 18⟩
def TIM_CTRL_QL_EN : Fld := ⟨0, 1⟩
def TIM_CTRL_REVERT : Fld := ⟨1, 1⟩
def TIM_CTRL_OUT_OPT : Fld := ⟨2, 1⟩
def TIM_CTRL_MIN_QL : Fld := ⟨4, 4⟩
def TIM_CTRL_HO_QL : Fld := ⟨8, 4⟩
def TIM_CTRL_FR_QL : Fld := ⟨12, 4⟩
def TIM_HCTRL_FORCE_HO : Fld := ⟨0, 1⟩
def TIM_STAT_STATE : Fld := ⟨0, 2⟩
def TIM_STAT_SEL : Fld := ⟨2, 6⟩
def TIM_STAT_SETTLING : Fld := ⟨8, 1⟩
def TIM_STAT_MEM_VALID : Fld := ⟨9, 1⟩
def TIM_STAT_OUT_QL : Fld := ⟨10, 4⟩
def TIM_STAT_CLAMP : Fld := ⟨14, 1⟩
def TIM_EVT_SWITCH : Fld := ⟨0, 1⟩
def TIM_EVT_HOLDOVER : Fld := ⟨1, 1⟩
def TIM_EVT_FREERUN : Fld := ⟨2, 1⟩
def TIM_EVT_LOCKED : Fld := ⟨3, 1⟩
def TIM_EVT_DISPUTE : Fld := ⟨4, 1⟩
def TIM_EVT_CAND_FAIL : Fld := ⟨5, 1⟩
def TIM_EVT_QL_CHG : Fld := ⟨6, 1⟩
def TIM_EVT_CLAMP : Fld := ⟨7, 1⟩
def TIM_LOCKOUT_1_LOCK : Fld := ⟨0, 16⟩
def TIM_PULLIN_PULLIN : Fld := ⟨0, 14⟩
def TIM_AGREE_WIN_WIN : Fld := ⟨0, 16⟩
def TIM_WTR_FRAMES : Fld := ⟨0, 23⟩
def TIM_SETTLE_FRAMES : Fld := ⟨0, 16⟩
def TIM_BW_0_MHZ : Fld := ⟨0, 17⟩
def TIM_BW_1_MHZ : Fld := ⟨0, 17⟩
def TIM_BW_2_MHZ : Fld := ⟨0, 17⟩
def TIM_BW_3_MHZ : Fld := ⟨0, 17⟩
def TIM_XO_MHZ : Fld := ⟨0, 6⟩
def TIM_PPS_OUT_WIDTH : Fld := ⟨0, 12⟩
def TIM_PPS_OUT_SQ_UNSET : Fld := ⟨12, 1⟩
def TIM_CLK_OUT_FREQ : Fld := ⟨0, 2⟩
def TIM_CLK_OUT_SQ_QL : Fld := ⟨4, 4⟩
def TIM_CLK_OUT_SQ_FR : Fld := ⟨8, 1⟩
def TIM_CLK_OUT_SQUELCHED : Fld := ⟨9, 1⟩
def TIM_TOD_IN_HI_SEC_HI : Fld := ⟨0, 16⟩
def TIM_TOD_IN_AUX_FLAGS : Fld := ⟨0, 8⟩
def TIM_TOD_IN_AUX_QL : Fld := ⟨8, 8⟩
def TIM_TOD_IN_AUX_UTC_OFS : Fld := ⟨16, 16⟩
def TIM_REF_CFG_TYPE : Fld := ⟨0, 4⟩
def TIM_REF_CFG_SA : Fld := ⟨4, 3⟩
def TIM_REF_CFG_QL_FIXED : Fld := ⟨7, 1⟩
def TIM_REF_CFG_QL_ASSIGN : Fld := ⟨8, 4⟩
def TIM_REF_PRI_PRI : Fld := ⟨0, 4⟩
def TIM_REF_STAT_STATE : Fld := ⟨0, 3⟩
def TIM_REF_STAT_SIG_FAULT : Fld := ⟨3, 1⟩
def TIM_REF_STAT_FREQ_FAULT : Fld := ⟨4, 1⟩
def TIM_REF_STAT_RANK : Fld := ⟨5, 4⟩
def TIM_REF_STAT_SELECTED : Fld := ⟨9, 1⟩
def TIM_REF_STAT_LOCKED_OUT : Fld := ⟨10, 1⟩
def TIM_REF_WTR_LEFT_FRAMES : Fld := ⟨0, 23⟩
def TIM_REF_EVT_FAIL : Fld := ⟨0, 1⟩
def TIM_REF_EVT_RANGE : Fld := ⟨1, 1⟩
def TIM_REF_EVT_DISPUTED : Fld := ⟨2, 1⟩
def TIM_REF_EVT_QL_CHG : Fld := ⟨3, 1⟩
def MATE_CFG_MODE : Fld := ⟨0, 1⟩
def MATE_CFG_UNIT_ID : Fld := ⟨1, 1⟩
def MATE_CFG_HOLD : Fld := ⟨8, 8⟩
def MATE_CTRL_NO_ACQUIRE : Fld := ⟨0, 1⟩
def MATE_CTRL_SELFTEST : Fld := ⟨1, 1⟩
def MATE_STAT_ROLE : Fld := ⟨0, 3⟩
def MATE_STAT_REASON : Fld := ⟨3, 3⟩
def MATE_STAT_LEASE : Fld := ⟨6, 1⟩
def MATE_STAT_ROLE_ACT : Fld := ⟨7, 1⟩
def MATE_STAT_ROLE_SYNC : Fld := ⟨8, 1⟩
def MATE_STAT_LANES : Fld := ⟨9, 4⟩
def MATE_STAT_LINK_UP : Fld := ⟨13, 1⟩
def MATE_STAT_FB_VALID : Fld := ⟨14, 1⟩
def MATE_STAT_ARB_SYNC : Fld := ⟨15, 1⟩
def MATE_EVT_ROLE_CHG : Fld := ⟨0, 1⟩
def MATE_EVT_LINK_DOWN : Fld := ⟨1, 1⟩
def MATE_EVT_LINK_UP : Fld := ⟨2, 1⟩
def MATE_EVT_LEASE_LOST : Fld := ⟨3, 1⟩
def MATE_EVT_DENIED : Fld := ⟨4, 1⟩
def MATE_EVT_SHADOW_MM : Fld := ⟨5, 1⟩
def MATE_EVT_LOCKSTEP_ERR : Fld := ⟨6, 1⟩
def MATE_EVT_LOOPBACK_ERR : Fld := ⟨7, 1⟩
def MATE_EVT_MIRROR_MISS : Fld := ⟨8, 1⟩
def MATE_EVT_CMD_IGNORED : Fld := ⟨9, 1⟩
def MATE_CMD_OP : Fld := ⟨0, 2⟩
def MATE_CMD_RES_CODE : Fld := ⟨0, 8⟩
def MATE_CMD_RES_SEQ : Fld := ⟨16, 8⟩
def MATE_CMD_RES_VALID : Fld := ⟨31, 1⟩
def MATE_CMD_ACK_SEQ : Fld := ⟨0, 8⟩
def MATE_EXP_HI_EXP_HI : Fld := ⟨0, 16⟩
def MATE_DELAY_CYC : Fld := ⟨0, 13⟩
def MATE_DELAY_VALID : Fld := ⟨31, 1⟩
def MATE_ARB_LAST_CODE : Fld := ⟨0, 8⟩
def MATE_ARB_HOLDER : Fld := ⟨8, 8⟩
def MATE_WRAP_WRAP : Fld := ⟨0, 4⟩
def MATE_LANE_STAT_LIGHT : Fld := ⟨0, 1⟩
def MATE_LANE_STAT_LOCK : Fld := ⟨1, 1⟩
def MATE_LANE_STAT_CAND : Fld := ⟨2, 4⟩
def MATE_LANE_STAT_RX_PWR : Fld := ⟨20, 12⟩
def LC_STAT_STATE : Fld := ⟨0, 2⟩
def LC_STAT_ZEROISED : Fld := ⟨2, 1⟩
def LC_STAT_ZSTEP : Fld := ⟨3, 3⟩
def LC_CMD_TARGET : Fld := ⟨0, 2⟩
def LC_CMD_KEY : Fld := ⟨8, 8⟩
def LC_RES_CODE : Fld := ⟨0, 8⟩
def LC_RES_SEQ : Fld := ⟨16, 8⟩
def LC_RES_VALID : Fld := ⟨31, 1⟩
def LC_ACK_SEQ : Fld := ⟨0, 8⟩
def LC_DBG_CDA_OPEN : Fld := ⟨0, 1⟩
def LC_DBG_CAPTURE : Fld := ⟨1, 1⟩
def LC_DBG_MAKER : Fld := ⟨2, 1⟩
def LC_EVT_DBG_OPEN : Fld := ⟨0, 1⟩
def LC_EVT_DBG_DENIED : Fld := ⟨1, 1⟩
def LC_EVT_CMD_IGNORED : Fld := ⟨2, 1⟩
def LC_EVT_ZFAIL : Fld := ⟨3, 1⟩
def PWR_STAT_STATE : Fld := ⟨0, 2⟩
def PWR_STAT_PEND : Fld := ⟨2, 1⟩
def PWR_EVT_PWR_ERR : Fld := ⟨0, 1⟩
def PWR_EVT_CMD_IGNORED : Fld := ⟨1, 1⟩
def PWR_EVT_LEG_REFUSED : Fld := ⟨2, 1⟩
def PWR_EVT_DOM_CHG : Fld := ⟨3, 1⟩
def PWR_REQ_CMD_DOMAIN : Fld := ⟨0, 7⟩
def PWR_REQ_CMD_OP : Fld := ⟨8, 3⟩
def PWR_REQ_CMD_IMMED : Fld := ⟨11, 1⟩
def PWR_REQ_AT_HI_AT_HI : Fld := ⟨0, 16⟩
def PWR_RES_CODE : Fld := ⟨0, 8⟩
def PWR_RES_SEQ : Fld := ⟨16, 8⟩
def PWR_RES_VALID : Fld := ⟨31, 1⟩
def PWR_ACK_SEQ : Fld := ⟨0, 8⟩
def PWR_DOM_STAT_STATE : Fld := ⟨0, 2⟩
def PWR_DOM_STAT_PLAN : Fld := ⟨2, 2⟩
def PWR_DOM_STAT_ABSENT : Fld := ⟨4, 1⟩
def PWR_DOM_STAT_PEND : Fld := ⟨5, 1⟩
def PWR_DOM_STAT_LAST : Fld := ⟨8, 8⟩
def PMON_CTRL_FREEZE : Fld := ⟨0, 1⟩
def PMON_EVT_SNAP_IGNORED : Fld := ⟨0, 1⟩
def PMON_SNAP_CMD_SNAP : Fld := ⟨0, 1⟩
def PMON_SNAP_RES_CODE : Fld := ⟨0, 8⟩
def PMON_SNAP_RES_SEQ : Fld := ⟨16, 8⟩
def PMON_SNAP_RES_VALID : Fld := ⟨31, 1⟩
def PMON_SNAP_ACK_SEQ : Fld := ⟨0, 8⟩
def PMON_SNAP_FN_HI_FN_HI : Fld := ⟨0, 16⟩
def PMON_SEL_EVENT : Fld := ⟨0, 10⟩
def PMON_SEL_UNIT : Fld := ⟨10, 12⟩
def PMON_SEL_ALL : Fld := ⟨22, 1⟩
def PMON_SEL_EN : Fld := ⟨23, 1⟩
def GRAFT_STAT_USED : Fld := ⟨0, 5⟩
def GRAFT_STAT_NEXT : Fld := ⟨8, 4⟩
def GRAFT_STAT_NEXT_VALID : Fld := ⟨12, 1⟩
def GRAFT_STAT_ROLLBACK_AVAIL : Fld := ⟨13, 1⟩
def GRAFT_EVT_APPLIED : Fld := ⟨0, 1⟩
def GRAFT_EVT_REJECTED : Fld := ⟨1, 1⟩
def GRAFT_EVT_MATE_MISS : Fld := ⟨2, 1⟩
def GRAFT_EVT_CMD_IGNORED : Fld := ⟨3, 1⟩
def GRAFT_LAST_FN_HI_FN_HI : Fld := ⟨0, 16⟩
def GRAFT_CMD_ENTRY : Fld := ⟨0, 4⟩
def GRAFT_CMD_OP : Fld := ⟨4, 3⟩
def GRAFT_CMD_RES_CODE : Fld := ⟨0, 8⟩
def GRAFT_CMD_RES_ENTRY : Fld := ⟨8, 4⟩
def GRAFT_CMD_RES_SEQ : Fld := ⟨16, 8⟩
def GRAFT_CMD_RES_VALID : Fld := ⟨31, 1⟩
def GRAFT_CMD_TGT_HI_TGT_HI : Fld := ⟨0, 16⟩
def GRAFT_CMD_ACK_SEQ : Fld := ⟨0, 8⟩
def GRAFT_STAGE_BASE_HI_ADDR_HI : Fld := ⟨0, 8⟩
def GRAFT_E_STAT_STATE : Fld := ⟨0, 3⟩
def GRAFT_E_STAT_ROLLBACK : Fld := ⟨3, 1⟩
def GRAFT_E_STAT_GROVE : Fld := ⟨4, 1⟩
def GRAFT_E_TGT_HI_TGT_HI : Fld := ⟨0, 16⟩
def GRAFT_E_SIZE_SIZE : Fld := ⟨0, 27⟩
def GRAFT_E_RES_CODE : Fld := ⟨0, 8⟩
def GRAFT_E_RES_DETAIL : Fld := ⟨8, 8⟩
def GRAFT_E_RES_SEQ : Fld := ⟨16, 8⟩
def GRAFT_E_RES_VALID : Fld := ⟨31, 1⟩
def GRAFT_E_ACK_SEQ : Fld := ⟨0, 8⟩
def GRAFT_E_HITS_COUNT : Fld := ⟨0, 24⟩
def PG_LANE_CTRL_TX_OFF : Fld := ⟨0, 1⟩
def PG_LANE_CTRL_LOOP : Fld := ⟨1, 1⟩
def PG_LANE_STAT_LIGHT : Fld := ⟨0, 1⟩
def PG_LANE_STAT_TAG_LOCK : Fld := ⟨1, 1⟩
def PG_LANE_STAT_CAND : Fld := ⟨2, 4⟩
def PG_LANE_STAT_PORT_LANE : Fld := ⟨6, 4⟩
def PG_LANE_STAT_FAR_LANE : Fld := ⟨10, 5⟩
def PG_LANE_STAT_AM_LOCK : Fld := ⟨15, 1⟩
def PG_LANE_STAT_RX_PWR : Fld := ⟨20, 12⟩
def PG_LANE_SKEW_SKEW : Fld := ⟨0, 16⟩
def PG_LANE_EVT_LIGHT_LOSS : Fld := ⟨0, 1⟩
def PG_LANE_EVT_TAG_LOSS : Fld := ⟨1, 1⟩
def PG_LANE_EVT_TAG_CRC : Fld := ⟨2, 1⟩
def PG_LANE_EVT_AM_ERR : Fld := ⟨3, 1⟩
def PG_LANE_EVT_SKEW_EXCEED : Fld := ⟨4, 1⟩
def PG_LANE_EVT_PORT_MAP_ERR : Fld := ⟨5, 1⟩
def PG_LANE_EVT_CROSSED : Fld := ⟨6, 1⟩
def PG_LANE_COR_WRAP_WRAP : Fld := ⟨0, 17⟩
def PG_LANE_UNC_WRAP_WRAP : Fld := ⟨0, 17⟩
def PG_PORT_CFG_VALID : Fld := ⟨0, 1⟩
def PG_PORT_CFG_WIDTH : Fld := ⟨1, 2⟩
def PG_PORT_CFG_FIRST_LANE : Fld := ⟨4, 4⟩
def PG_PORT_STAT_UP : Fld := ⟨0, 1⟩
def PG_PORT_STAT_SKEW_OK : Fld := ⟨1, 1⟩
def PG_PORT_STAT_SKEW_MAX : Fld := ⟨2, 16⟩
def PG_SPARE_CTRL_MODE : Fld := ⟨0, 2⟩
def PG_SPARE_CTRL_AUTO_DEG : Fld := ⟨2, 1⟩
def PG_SPARE_CTRL_AUTO_FAIL : Fld := ⟨3, 1⟩
def PG_SPARE_CTRL_ACCEPT_TX : Fld := ⟨4, 1⟩
def PG_SPARE_CTRL_AUTO_LASER : Fld := ⟨5, 1⟩
def PG_SPARE_CMD_OP : Fld := ⟨0, 3⟩
def PG_SPARE_CMD_LANE : Fld := ⟨4, 4⟩
def PG_SPARE_STAT_RX_STATE : Fld := ⟨0, 3⟩
def PG_SPARE_STAT_RX_LANE : Fld := ⟨3, 4⟩
def PG_SPARE_STAT_TX_STATE : Fld := ⟨8, 3⟩
def PG_SPARE_STAT_TX_LANE : Fld := ⟨11, 4⟩
def PG_SPARE_FAR_FAR_RX_MSG : Fld := ⟨0, 16⟩
def PG_SPARE_FAR_FAR_TX_MSG : Fld := ⟨16, 16⟩
def PG_SPARE_RES_OUTCOME : Fld := ⟨0, 3⟩
def PG_SPARE_RES_LANE : Fld := ⟨4, 4⟩
def PG_SPARE_RES_SEQ : Fld := ⟨16, 8⟩
def PG_SPARE_RES_VALID : Fld := ⟨31, 1⟩
def PG_SPARE_ACK_SEQ : Fld := ⟨0, 8⟩
def PG_SPARE_TMR_VERIFY : Fld := ⟨0, 12⟩
def PG_SPARE_TMR_TIMEOUT : Fld := ⟨16, 12⟩
def PG_SPARE_DEG_THR : Fld := ⟨0, 24⟩
def PG_OTUC_STAT_DEF : Fld := ⟨0, 10⟩
def PG_ODUC_STAT_DEF : Fld := ⟨0, 7⟩
def PG_ODUC_STAT_SSF : Fld := ⟨7, 1⟩
def PG_ODU_STAT_DEFINED : Fld := ⟨0, 1⟩
def PG_ODU_STAT_DEF : Fld := ⟨1, 8⟩
def PG_ODU_STAT_SSF : Fld := ⟨9, 1⟩
def PG_ODU_STAT_SF : Fld := ⟨10, 1⟩
def PG_ODU_STAT_SD : Fld := ⟨11, 1⟩
def PG_ODU_STAT_AIS_INS : Fld := ⟨12, 1⟩
def PG_ODU_STAT_OCI_INS : Fld := ⟨13, 1⟩
def PG_ODU_TCM_STAT_POS_0 : Fld := ⟨0, 10⟩
def PG_ODU_TCM_STAT_POS_1 : Fld := ⟨10, 10⟩
def PG_ODU_TCM_STAT_POS_2 : Fld := ⟨20, 10⟩
def PG_ODU_TCM_STAT_TERM : Fld := ⟨30, 2⟩
def PG_OH_CHG2_PORT : Fld := ⟨0, 8⟩
def PG_ELS_CTRL_EN : Fld := ⟨0, 1⟩
def PG_ELS_STAT_PWR : Fld := ⟨0, 16⟩
def PG_ELS_STAT_STATE : Fld := ⟨16, 2⟩
def PG_ELS_STAT_HIGH : Fld := ⟨18, 1⟩
def PG_ELS_STAT_DRIVEN : Fld := ⟨19, 1⟩
def PG_ELS_THR_WARN : Fld := ⟨0, 8⟩
def PG_ELS_THR_FAIL : Fld := ⟨8, 8⟩
def PG_ELS_THR_HIGH : Fld := ⟨16, 8⟩
def PG_ELS_EVT_2_EVT : Fld := ⟨0, 8⟩
def PG_ELS_MATE_SEL : Fld := ⟨0, 16⟩
def PM_HIST_BASE_HI_ADDR_HI : Fld := ⟨0, 8⟩
def PM_TTI_BASE_HI_ADDR_HI : Fld := ⟨0, 8⟩
def PM_FAIL_SET_FRAMES : Fld := ⟨0, 24⟩
def PM_FAIL_CLR_FRAMES : Fld := ⟨0, 24⟩
def PM_EVT_CLOSE15 : Fld := ⟨0, 1⟩
def PM_EVT_CLOSE24 : Fld := ⟨1, 1⟩
def PM_EVT_REQ_IGNORED : Fld := ⟨2, 1⟩
def PM_RD_REQ_ENTITY : Fld := ⟨0, 18⟩
def PM_RD_REQ_SEL : Fld := ⟨18, 2⟩
def PM_RES_CODE : Fld := ⟨0, 8⟩
def PM_RES_SEQ : Fld := ⟨16, 8⟩
def PM_RES_VALID : Fld := ⟨31, 1⟩
def PM_RES_ACK_SEQ : Fld := ⟨0, 8⟩
def TRK_BANK_STAT_ACTIVE : Fld := ⟨0, 1⟩
def TRK_BANK_STAT_SHADOW_READY : Fld := ⟨1, 1⟩
def TRK_FLIP_FN_HI_FN_HI : Fld := ⟨0, 16⟩
def TRK_EVT_BREACH : Fld := ⟨0, 1⟩
def TRK_EVT_TEST_ERR : Fld := ⟨1, 1⟩
def TRK_EVT_REMAP : Fld := ⟨2, 1⟩
def TRK_EVT_SEL_NOSEL : Fld := ⟨3, 1⟩
def TRK_EVT_ECC_COR : Fld := ⟨4, 1⟩
def TRK_EVT_ECC_UNC : Fld := ⟨5, 1⟩
def TRK_BREACH_LOC_MIDDLE : Fld := ⟨0, 10⟩
def TRK_BREACH_LOC_EGRESS : Fld := ⟨10, 7⟩
def TRK_BREACH_LOC_DROPPED : Fld := ⟨17, 7⟩
def TRK_WRAP_BREACH : Fld := ⟨0, 1⟩
def TRK_WRAP_ECC_COR : Fld := ⟨1, 1⟩
def TRK_WRAP_ECC_UNC : Fld := ⟨2, 1⟩
def TRK_TEST_CMD_INJECT : Fld := ⟨0, 1⟩
def TRK_TEST_CMD_SW : Fld := ⟨1, 7⟩
def TRK_LINK_WRAP_WRAP : Fld := ⟨0, 4⟩
def TRK_LAT_LAT : Fld := ⟨0, 15⟩
def TRK_LAT_HOLD : Fld := ⟨16, 14⟩
def TRK_LAT_LEAF_SRC : Fld := ⟨30, 1⟩
def TRK_LAT_VALID : Fld := ⟨31, 1⟩
def TRK_SRC_A_SRC : Fld := ⟨0, 16⟩
def TRK_SRC_A_KIND : Fld := ⟨16, 2⟩
def TRK_SRC_A_DEFINED : Fld := ⟨31, 1⟩
def TRK_SRC_B_SRC : Fld := ⟨0, 16⟩
def TRK_SRC_B_PRESENT : Fld := ⟨31, 1⟩
def LEAF_STAT_WHALF : Fld := ⟨0, 1⟩
def LEAF_STAT_MAP_VALID : Fld := ⟨1, 1⟩
def LEAF_EVT_CONFLICT : Fld := ⟨0, 1⟩
def LEAF_EVT_SLIP : Fld := ⟨1, 1⟩
def LEAF_EVT_MAPERR : Fld := ⟨2, 1⟩
def LEAF_EVT_SEL_NOSEL : Fld := ⟨3, 1⟩
def LEAF_EVT_REQ_IGNORED : Fld := ⟨4, 1⟩
def LEAF_EVT_GSC_CRC : Fld := ⟨5, 1⟩
def LEAF_CONFLICT_LOC_CYCLE : Fld := ⟨0, 17⟩
def LEAF_CONFLICT_LOC_DEFERRED : Fld := ⟨17, 1⟩
def LEAF_CONFLICT_LOC_BANK : Fld := ⟨18, 8⟩
def LEAF_CONFLICT_SLOT_SLOT : Fld := ⟨0, 25⟩
def LEAF_WRAP_CONFLICT : Fld := ⟨0, 1⟩
def LEAF_WRAP_MAPERR : Fld := ⟨1, 1⟩
def LEAF_MAP_BASE_HI_ADDR_HI : Fld := ⟨0, 8⟩
def LEAF_SREC_BASE_HI_ADDR_HI : Fld := ⟨0, 8⟩
def LEAF_DEF_BASE_HI_ADDR_HI : Fld := ⟨0, 8⟩
def LEAF_PM_BASE_HI_ADDR_HI : Fld := ⟨0, 8⟩
def LEAF_TRACE_BASE_HI_ADDR_HI : Fld := ⟨0, 8⟩
def LEAF_REFMAP_CARRIER : Fld := ⟨0, 9⟩
def LEAF_REFMAP_VALID : Fld := ⟨31, 1⟩
def LEAF_PM_REQ_ENTITY : Fld := ⟨0, 17⟩
def LEAF_PM_REQ_SEL : Fld := ⟨17, 2⟩
def LEAF_PM_RES_CODE : Fld := ⟨0, 8⟩
def LEAF_PM_RES_SEQ : Fld := ⟨16, 8⟩
def LEAF_PM_RES_VALID : Fld := ⟨31, 1⟩
def LEAF_PM_ACK_SEQ : Fld := ⟨0, 8⟩
def LEAF_CAR_STAT_IN_FRAME : Fld := ⟨0, 1⟩
def LEAF_CAR_STAT_RELEASING : Fld := ⟨1, 1⟩
def LEAF_CAR_STAT_CAND : Fld := ⟨2, 4⟩
def LEAF_CAR_STAT_DEF : Fld := ⟨6, 13⟩
def LEAF_CAR_STAT_SSF : Fld := ⟨19, 1⟩
def LEAF_CAR_STAT_LAST_SLIP : Fld := ⟨20, 1⟩
def LEAF_CAR_FILL_FILL : Fld := ⟨0, 19⟩
def LEAF_CAR_QL_QL : Fld := ⟨0, 8⟩
def LEAF_CAR_QL_ACCEPTED : Fld := ⟨8, 1⟩
def LEAF_CAR_CFG_IDLE : Fld := ⟨0, 8⟩
def LEAF_CAR_CFG_DEFINED : Fld := ⟨8, 1⟩
def LEAF_CAR_CFG_TIM_ACT : Fld := ⟨9, 1⟩
def LEAF_CAR_CFG_CMP : Fld := ⟨10, 1⟩
def PROT_STAT_GROUPS : Fld := ⟨0, 17⟩
def PROT_EVT_CMD_IGNORED : Fld := ⟨0, 1⟩
def PROT_EVT_LATE : Fld := ⟨1, 1⟩
def PROT_EVT_FOP : Fld := ⟨2, 1⟩
def PROT_EVT_SWITCH : Fld := ⟨3, 1⟩
def PROT_EVT_MS_CANCEL : Fld := ⟨4, 1⟩
def PROT_CMD_GROUP : Fld := ⟨0, 16⟩
def PROT_CMD_OP : Fld := ⟨16, 3⟩
def PROT_CMD_RES_CODE : Fld := ⟨0, 8⟩
def PROT_CMD_RES_SEQ : Fld := ⟨16, 8⟩
def PROT_CMD_RES_VALID : Fld := ⟨31, 1⟩
def PROT_CMD_GRP_GROUP : Fld := ⟨0, 16⟩
def PROT_CMD_GRP_OP : Fld := ⟨16, 3⟩
def PROT_CMD_ACK_SEQ : Fld := ⟨0, 8⟩
def PROT_WRAP_LATE : Fld := ⟨0, 1⟩
def PROT_G_CFG_DEFINED : Fld := ⟨0, 1⟩
def PROT_G_CFG_TYPE : Fld := ⟨1, 2⟩
def PROT_G_CFG_BIDIR : Fld := ⟨3, 1⟩
def PROT_G_CFG_REV : Fld := ⟨4, 1⟩
def PROT_G_CFG_SNCI : Fld := ⟨5, 1⟩
def PROT_G_CFG_LEVEL : Fld := ⟨6, 3⟩
def PROT_G_CFG_OWNER : Fld := ⟨16, 7⟩
def PROT_G_STAT_SEL : Fld := ⟨0, 1⟩
def PROT_G_STAT_BRIDGE : Fld := ⟨1, 1⟩
def PROT_G_STAT_REQ : Fld := ⟨2, 4⟩
def PROT_G_STAT_REQ_FAR : Fld := ⟨6, 1⟩
def PROT_G_STAT_REQ_SIG : Fld := ⟨7, 1⟩
def PROT_G_STAT_CMD : Fld := ⟨8, 3⟩
def PROT_G_STAT_SF_W : Fld := ⟨11, 1⟩
def PROT_G_STAT_SF_P : Fld := ⟨12, 1⟩
def PROT_G_STAT_SD_W : Fld := ⟨13, 1⟩
def PROT_G_STAT_SD_P : Fld := ⟨14, 1⟩
def PROT_G_STAT_WTR : Fld := ⟨15, 1⟩
def PROT_G_STAT_FOP_PM : Fld := ⟨16, 1⟩
def PROT_G_STAT_FOP_NR : Fld := ⟨17, 1⟩
def PROT_G_STAT_FSL : Fld := ⟨18, 1⟩
def PROT_G_STAT_FALLBACK : Fld := ⟨19, 1⟩
def PROT_G_STAT_HOLD_W : Fld := ⟨20, 1⟩
def PROT_G_STAT_HOLD_P : Fld := ⟨21, 1⟩
def PROT_G_SELOUT_SEL_IDX : Fld := ⟨0, 16⟩
def PROT_G_SELOUT_BRIDGE_SLOT : Fld := ⟨16, 16⟩
def PROT_G_HOLD_HOLD : Fld := ⟨0, 17⟩
def PROT_G_WTR_FRAMES : Fld := ⟨0, 23⟩
def PROT_G_WTR_LEFT_FRAMES : Fld := ⟨0, 23⟩
def PROT_G_TX_BYTE1 : Fld := ⟨0, 8⟩
def PROT_G_TX_BYTE2 : Fld := ⟨8, 8⟩
def PROT_G_TX_BYTE3 : Fld := ⟨16, 8⟩
def PROT_G_RX_FAR : Fld := ⟨0, 24⟩
def PROT_G_RX_VALID : Fld := ⟨24, 1⟩
def PROT_G_RX_SRC_LEG : Fld := ⟨25, 1⟩
def ENG_STAT_STATE : Fld := ⟨0, 2⟩
def ENG_STAT_ACTING : Fld := ⟨2, 1⟩
def ENG_STAT_ACTS_FOR : Fld := ⟨3, 7⟩
def ENG_STAT_BANK : Fld := ⟨10, 1⟩
def ENG_STAT_CAUSE : Fld := ⟨11, 3⟩
def ENG_EVT_LATE : Fld := ⟨0, 1⟩
def ENG_EVT_OWN : Fld := ⟨1, 1⟩
def ENG_EVT_BUDGET : Fld := ⟨2, 1⟩
def ENG_EVT_FAIL : Fld := ⟨3, 1⟩
def ENG_EVT_TAKEOVER : Fld := ⟨4, 1⟩
def ENG_EVT_ECC_COR : Fld := ⟨5, 1⟩
def ENG_EVT_MARK : Fld := ⟨6, 1⟩
def ENG_LATE_LOC_SLOT : Fld := ⟨0, 19⟩
def ENG_LATE_LOC_OP : Fld := ⟨19, 6⟩
def ENG_LATE_LOC_REASON : Fld := ⟨25, 3⟩
def ENG_PROG_WORDS : Fld := ⟨0, 18⟩
def ENG_DIRTY_WORDS : Fld := ⟨0, 14⟩
def ENG_WRAP_WRAP : Fld := ⟨0, 8⟩
def ENG_RSV_POST_UNITS : Fld := ⟨0, 18⟩
def ENG_RSV_BUS_UNITS : Fld := ⟨0, 18⟩
def ENG_C_STAT_SPARE_BUSY : Fld := ⟨0, 4⟩
def ENG_C_STAT_NO_SPARE : Fld := ⟨4, 4⟩
def ENG_C_EVT_TAKEOVER : Fld := ⟨0, 1⟩
def ENG_C_EVT_NO_SPARE : Fld := ⟨1, 1⟩
def ENG_C_EVT_CMD_IGNORED : Fld := ⟨2, 1⟩
def ENG_C_EVT_TD_IGNORED : Fld := ⟨3, 1⟩
def ENG_CMD_ENGINE : Fld := ⟨0, 7⟩
def ENG_CMD_OP : Fld := ⟨7, 2⟩
def ENG_CMD_RES_CODE : Fld := ⟨0, 8⟩
def ENG_CMD_RES_SEQ : Fld := ⟨16, 8⟩
def ENG_CMD_RES_VALID : Fld := ⟨31, 1⟩
def ENG_CMD_ACK_SEQ : Fld := ⟨0, 8⟩
def ENG_TD_CMD_SNAP : Fld := ⟨0, 1⟩
def ENG_TD_RES_CODE : Fld := ⟨0, 8⟩
def ENG_TD_RES_SEQ : Fld := ⟨16, 8⟩
def ENG_TD_RES_VALID : Fld := ⟨31, 1⟩
def ENG_TD_FN_HI_FN_HI : Fld := ⟨0, 16⟩
def ENG_TD_ACK_SEQ : Fld := ⟨0, 8⟩

end F

/-- Register rows of the TOP block. -/
def regRowsTOP : List RegRow := [
  ⟨0x0, 1, 0x0, 1, 0x0, 0xC5D7200, 0x0, 0x0, false⟩,
  ⟨0x4, 1, 0x0, 1, 0x0, 0x0, 0x0, 0x0, false⟩,
  ⟨0x8, 1, 0x0, 1, 0x0, 0x303F, 0x0, 0x0, false⟩,
  ⟨0xC, 1, 0x0, 1, 0x0, 0x0, 0x0, 0x0, true⟩,
  ⟨0x10, 1, 0x0, 1, 0x0, 0x0, 0x0, 0x0, false⟩,
  ⟨0x14, 1, 0x0, 1, 0x0, 0x0, 0x0, 0x0, false⟩,
  ⟨0x18, 1, 0x0, 1, 0x0, 0x1, 0x0, 0x0, false⟩,
  ⟨0x1C, 1, 0x0, 1, 0x0, 0x0, 0x0, 0x0, false⟩]

/-- Register rows of the BOOT block. -/
def regRowsBOOT : List RegRow := [
  ⟨0x100000, 1, 0x0, 1, 0x0, 0x0, 0x0, 0x0, false⟩,
  ⟨0x100004, 1, 0x0, 1, 0x0, 0x0, 0x0, 0x3F, false⟩,
  ⟨0x100010, 2, 0x4, 1, 0x0, 0x0, 0x0, 0x0, false⟩,
  ⟨0x100018, 2, 0x4, 1, 0x0, 0x0, 0x0, 0x0, false⟩,
  ⟨0x100020, 2, 0x4, 1, 0x0, 0x0, 0x0, 0x0, false⟩,
  ⟨0x100028, 1, 0x0, 1, 0x0, 0x0, 0x0, 0x0, true⟩,
  ⟨0x10002C, 1, 0x0, 1, 0x0, 0x0, 0x0, 0x0, false⟩,
  ⟨0x100030, 1, 0x0, 1, 0x0, 0x0, 0x0, 0x0, false⟩,
  ⟨0x100040, 1, 0x0, 1, 0x0, 0x0, 0x0, 0x0, false⟩,
  ⟨0x100044, 1, 0x0, 1, 0x0, 0x0, 0x0, 0x0, false⟩,
  ⟨0x100048, 1, 0x0, 1, 0x0, 0x0, 0x0, 0x0, false⟩,
  ⟨0x100050, 1, 0x0, 1, 0x0, 0x0, 0x0, 0x0, false⟩,
  ⟨0x100054, 1, 0x0, 1, 0x0, 0x0, 0x1FFFFFFF, 0x0, false⟩,
  ⟨0x100058, 1, 0x0, 1, 0x0, 0x0, 0x1FFFFFF, 0x0, false⟩,
  ⟨0x10005C, 1, 0x0, 1, 0x0, 0x0, 0xFFFFFFFF, 0x0, false⟩,
  ⟨0x100060, 1, 0x0, 1, 0x0, 0x0, 0xFF, 0x0, false⟩,
  ⟨0x100064, 1, 0x0, 1, 0x0, 0x0, 0x0, 0x0, false⟩,
  ⟨0x100068, 1, 0x0, 1, 0x0, 0x0, 0x0, 0x0, false⟩,
  ⟨0x10006C, 1, 0x0, 1, 0x0, 0x0, 0x0, 0x0, false⟩,
  ⟨0x100070, 1, 0x0, 1, 0x0, 0x0, 0x0, 0x0, false⟩,
  ⟨0x100074, 1, 0x0, 1, 0x0, 0x0, 0x0, 0x0, false⟩,
  ⟨0x100078, 1, 0x0, 1, 0x0, 0x0, 0x0, 0x0, false⟩]

/-- Register rows of the XBAR block. -/
def regRowsXBAR : List RegRow := [
  ⟨0x200000, 1, 0x0, 1, 0x0, 0x0, 0x0, 0x3, false⟩,
  ⟨0x200004, 1, 0x0, 1, 0x0, 0x0, 0x0, 0x0, false⟩,
  ⟨0x200014, 4, 0x4, 1, 0x0, 0xDB635C, 0x0, 0x0, false⟩,
  ⟨0x200034, 4, 0x4, 1, 0x0, 0x1000, 0x0, 0x0, false⟩,
  ⟨0x200050, 1, 0x0, 1, 0x0, 0x80000100, 0x80000FFF, 0x0, false⟩,
  ⟨0x200054, 1, 0x0, 1, 0x0, 0x80000000, 0x80000FFF, 0x0, false⟩,
  ⟨0x200058, 1, 0x0, 1, 0x0, 0x800001BE, 0x80000FFF, 0x0, false⟩,
  ⟨0x20005C, 1, 0x0, 1, 0x0, 0x800001BF, 0x80000FFF, 0x0, false⟩,
  ⟨0x200060, 1, 0x0, 1, 0x0, 0x0, 0x0, 0x0, false⟩,
  ⟨0x200064, 1, 0x0, 1, 0x0, 0x0, 0xFFFF, 0x0, false⟩,
  ⟨0x200070, 1, 0x0, 1, 0x0, 0x0, 0x0, 0x0, false⟩]

/-- Register rows of the DMA block. -/
def regRowsDMA : List RegRow := [
  ⟨0x300000, 2, 0x4, 1, 0x0, 0x0, 0x0, 0x0, false⟩,
  ⟨0x300008, 2, 0x4, 1, 0x0, 0x0, 0x0, 0x0, false⟩,
  ⟨0x300010, 1, 0x0, 1, 0x0, 0x0, 0x0, 0xF, false⟩,
  ⟨0x300400, 128, 0x4, 1, 0x0, 0x0, 0x0, 0xFFFFFFFF, false⟩,
  ⟨0x300600, 128, 0x4, 1, 0x0, 0x0, 0x0, 0xFFFFFFFF, false⟩,
  ⟨0x301000, 64, 0x40, 1, 0x0, 0x0, 0x0, 0x0, false⟩,
  ⟨0x301004, 64, 0x40, 1, 0x0, 0x100000, 0xFFFF00, 0x0, false⟩,
  ⟨0x301008, 64, 0x40, 1, 0x0, 0x13880, 0xFFFFF, 0x0, false⟩,
  ⟨0x30100C, 64, 0x40, 1, 0x0, 0x0, 0x0, 0x0, false⟩,
  ⟨0x301010, 64, 0x40, 1, 0x0, 0x0, 0xFFFFFFFF, 0x0, true⟩,
  ⟨0x301014, 64, 0x40, 1, 0x0, 0x0, 0xFFFFFFFF, 0x0, false⟩,
  ⟨0x301018, 64, 0x40, 1, 0x0, 0x0, 0x0, 0x0, false⟩,
  ⟨0x30101C, 64, 0x40, 1, 0x0, 0x0, 0x0, 0x0, false⟩,
  ⟨0x301020, 64, 0x40, 1, 0x0, 0x0, 0x0, 0x0, false⟩,
  ⟨0x301024, 64, 0x40, 1, 0x0, 0x0, 0x0, 0x0, true⟩,
  ⟨0x301028, 64, 0x40, 1, 0x0, 0x0, 0x0, 0x0, false⟩,
  ⟨0x30102C, 64, 0x40, 1, 0x0, 0x0, 0xFFFFF000, 0x0, false⟩,
  ⟨0x301030, 64, 0x40, 1, 0x0, 0x0, 0xFFFFFFFF, 0x0, false⟩,
  ⟨0x301034, 64, 0x40, 1, 0x0, 0x0, 0xFFFFFF, 0x0, false⟩,
  ⟨0x301038, 64, 0x40, 1, 0x0, 0x0, 0x0, 0x0, false⟩,
  ⟨0x30103C, 64, 0x40, 1, 0x0, 0x0, 0x0, 0x0, false⟩,
  ⟨0x310000, 4096, 0x20, 1, 0x0, 0x0, 0x0, 0x0, false⟩,
  ⟨0x310004, 4096, 0x20, 1, 0x0, 0x0, 0x0, 0x0, false⟩,
  ⟨0x310008, 4096, 0x20, 1, 0x0, 0x0, 0x0, 0x0, false⟩,
  ⟨0x31000C, 4096, 0x20, 1, 0x0, 0x0, 0x0, 0x0, false⟩,
  ⟨0x310010, 4096, 0x20, 1, 0x0, 0x0, 0x0, 0x0, false⟩,
  ⟨0x310014, 4096, 0x20, 1, 0x0, 0x0, 0x0, 0x0, true⟩,
  ⟨0x310018, 4096, 0x20, 1, 0x0, 0x0, 0x0, 0x0, false⟩,
  ⟨0x31001C, 4096, 0x20, 1, 0x0, 0x0, 0x0, 0x0, false⟩]

/-- Register rows of the FT block. -/
def regRowsFT : List RegRow := [
  ⟨0x400000, 1, 0x0, 1, 0x0, 0x1, 0x3, 0x0, false⟩,
  ⟨0x400004, 1, 0x0, 1, 0x0, 0x0, 0x0, 0x0, false⟩,
  ⟨0x400008, 1, 0x0, 1, 0x0, 0x0, 0x0, 0x7F, false⟩,
  ⟨0x400010, 1, 0x0, 1, 0x0, 0x0, 0x0, 0x0, true⟩,
  ⟨0x400014, 1, 0x0, 1, 0x0, 0x0, 0x0, 0x0, false⟩,
  ⟨0x400018, 1, 0x0, 1, 0x0, 0x0, 0x0, 0x0, false⟩,
  ⟨0x40001C, 1, 0x0, 1, 0x0, 0x0, 0x0, 0x0, false⟩,
  ⟨0x400020, 1, 0x0, 1, 0x0, 0x0, 0x0, 0x0, false⟩,
  ⟨0x400024, 1, 0x0, 1, 0x0, 0x0, 0x0, 0x0, false⟩,
  ⟨0x400030, 1, 0x0, 1, 0x0, 0xA0, 0xFFFF, 0x0, false⟩,
  ⟨0x400034, 1, 0x0, 1, 0x0, 0x0, 0x0, 0x0, false⟩,
  ⟨0x400038, 1, 0x0, 1, 0x0, 0x0, 0x0, 0x0, false⟩,
  ⟨0x400040, 1, 0x0, 1, 0x0, 0x0, 0xFFFFFFFF, 0x0, false⟩,
  ⟨0x400044, 1, 0x0, 1, 0x0, 0x0, 0xFFFF, 0x0, false⟩,
  ⟨0x400048, 1, 0x0, 1, 0x0, 0x0, 0xFFFFFFFF, 0x0, false⟩,
  ⟨0x40004C, 1, 0x0, 1, 0x0, 0x0, 0xFFFF, 0x0, false⟩,
  ⟨0x400050, 1, 0x0, 1, 0x0, 0x0, 0xFFFFFFFF, 0x0, false⟩,
  ⟨0x400054, 1, 0x0, 1, 0x0, 0x0, 0x0, 0x0, false⟩,
  ⟨0x400058, 1, 0x0, 1, 0x0, 0x0, 0x0, 0x0, false⟩,
  ⟨0x40005C, 1, 0x0, 1, 0x0, 0x0, 0x0, 0x0, false⟩,
  ⟨0x400080, 1, 0x0, 1, 0x0, 0x0, 0x0, 0x0, false⟩,
  ⟨0x400090, 1, 0x0, 1, 0x0, 0x0, 0x7F, 0x0, false⟩,
  ⟨0x4000A0, 1, 0x0, 1, 0x0, 0x0, 0x0, 0x0, false⟩,
  ⟨0x400100, 16, 0x8, 1, 0x0, 0x0, 0x0, 0x0, false⟩,
  ⟨0x400104, 16, 0x8, 1, 0x0, 0x0, 0x0, 0x0, false⟩]

/-- Register rows of the TIM block. -/
def regRowsTIM : List RegRow := [
  ⟨0x500000, 1, 0x0, 1, 0x0, 0x0, 0x0, 0x0, false⟩,
  ⟨0x500004, 1, 0x0, 1, 0x0, 0x0, 0x1, 0x0, false⟩,
  ⟨0x500008, 1, 0x0, 1, 0x0, 0xFC, 0x0, 0x0, false⟩,
  ⟨0x50000C, 1, 0x0, 1, 0x0, 0x0, 0x0, 0xFF, false⟩,
  ⟨0x500010, 1, 0x0, 1, 0x0, 0x0, 0xFFFFFFFF, 0x0, false⟩,
  ⟨0x500014, 1, 0x0, 1, 0x0, 0x0, 0xFFFF, 0x0, false⟩,
  ⟨0x500030, 1, 0x0, 1, 0x0, 0x0, 0x0, 0x0, false⟩,
  ⟨0x500034, 1, 0x0, 1, 0x0, 0x0, 0x0, 0x0, false⟩,
  ⟨0x500038, 1, 0x0, 1, 0x0, 0x11F8, 0x0, 0x0, false⟩,
  ⟨0x50003C, 1, 0x0, 1, 0x0, 0x7D0, 0x0, 0x0, false⟩,
  ⟨0x500040, 1, 0x0, 1, 0x0, 0x249F00, 0x0, 0x0, false⟩,
  ⟨0x500044, 1, 0x0, 1, 0x0, 0x320, 0x0, 0x0, false⟩,
  ⟨0x500050, 1, 0x0, 1, 0x0, 0x3E8, 0x0, 0x0, false⟩,
  ⟨0x500054, 1, 0x0, 1, 0x0, 0x64, 0x0, 0x0, false⟩,
  ⟨0x500058, 1, 0x0, 1, 0x0, 0xBB8, 0x0, 0x0, false⟩,
  ⟨0x50005C, 1, 0x0, 1, 0x0, 0x186A0, 0x0, 0x0, false⟩,
  ⟨0x500060, 1, 0x0, 1, 0x0, 0x0, 0x0, 0x0, false⟩,
  ⟨0x500064, 1, 0x0, 1, 0x0, 0x0, 0x0, 0x0, false⟩,
  ⟨0x500068, 1, 0x0, 1, 0x0, 0x320, 0x0, 0x0, false⟩,
  ⟨0x500070, 4, 0x4, 1, 0x0, 0x0, 0x0, 0x0, false⟩,
  ⟨0x500080, 1, 0x0, 1, 0x0, 0x0, 0x0, 0x0, true⟩,
  ⟨0x500084, 1, 0x0, 1, 0x0, 0x0, 0x0, 0x0, false⟩,
  ⟨0x500088, 1, 0x0, 1, 0x0, 0x0, 0x0, 0x0, false⟩,
  ⟨0x501000, 48, 0x20, 1, 0x0, 0x0, 0x0, 0x0, false⟩,
  ⟨0x501004, 48, 0x20, 1, 0x0, 0x0, 0x0, 0x0, false⟩,
  ⟨0x501008, 48, 0x20, 1, 0x0, 0x0, 0x0, 0x0, false⟩,
  ⟨0x50100C, 48, 0x20, 1, 0x0, 0x0, 0x0, 0x0, false⟩,
  ⟨0x501010, 48, 0x20, 1, 0x0, 0x0, 0x0, 0x0, false⟩,
  ⟨0x501014, 48, 0x20, 1, 0x0, 0x0, 0x0, 0x0, false⟩,
  ⟨0x501018, 48, 0x20, 1, 0x0, 0x0, 0x0, 0xF, false⟩]

/-- Register rows of the MATE block. -/
def regRowsMATE : List RegRow := [
  ⟨0x600000, 1, 0x0, 1, 0x0, 0x0, 0x0, 0x0, false⟩,
  ⟨0x600004, 1, 0x0, 1, 0x0, 0x2, 0x3, 0x0, false⟩,
  ⟨0x600008, 1, 0x0, 1, 0x0, 0x0, 0x0, 0x0, false⟩,
  ⟨0x60000C, 1, 0x0, 1, 0x0, 0x0, 0x0, 0x3FF, false⟩,
  ⟨0x600010, 1, 0x0, 1, 0x0, 0x0, 0x0, 0x0, false⟩,
  ⟨0x600014, 1, 0x0, 1, 0x0, 0x0, 0x0, 0x0, false⟩,
  ⟨0x600018, 1, 0x0, 1, 0x0, 0x0, 0x0, 0x0, false⟩,
  ⟨0x600020, 1, 0x0, 1, 0x0, 0x0, 0x0, 0x0, false⟩,
  ⟨0x600024, 1, 0x0, 1, 0x0, 0x0, 0x0, 0x0, true⟩,
  ⟨0x600028, 1, 0x0, 1, 0x0, 0x0, 0x0, 0x0, false⟩,
  ⟨0x600030, 1, 0x0, 1, 0x0, 0x0, 0x0, 0x0, false⟩,
  ⟨0x600034, 1, 0x0, 1, 0x0, 0x0, 0x0, 0x0, false⟩,
  ⟨0x600038, 1, 0x0, 1, 0x0, 0x0, 0x0, 0x0, false⟩,
  ⟨0x60003C, 1, 0x0, 1, 0x0, 0xFF00, 0x0, 0x0, false⟩,
  ⟨0x600040, 1, 0x0, 1, 0x0, 0x0, 0x0, 0x0, true⟩,
  ⟨0x600044, 1, 0x0, 1, 0x0, 0x0, 0x0, 0x0, false⟩,
  ⟨0x600048, 1, 0x0, 1, 0x0, 0x0, 0x0, 0x0, true⟩,
  ⟨0x60004C, 1, 0x0, 1, 0x0, 0x0, 0x0, 0x0, false⟩,
  ⟨0x600050, 1, 0x0, 1, 0x0, 0x0, 0x0, 0x0, true⟩,
  ⟨0x600054, 1, 0x0, 1, 0x0, 0x0, 0x0, 0x0, false⟩,
  ⟨0x600058, 1, 0x0, 1, 0x0, 0x0, 0x0, 0x0, true⟩,
  ⟨0x60005C, 1, 0x0, 1, 0x0, 0x0, 0x0, 0x0, false⟩,
  ⟨0x600060, 1, 0x0, 1, 0x0, 0x0, 0x0, 0xF, false⟩,
  ⟨0x600080, 8, 0x4, 1, 0x0, 0x0, 0x0, 0x0, false⟩]

/-- Register rows of the LC block. -/
def regRowsLC : List RegRow := [
  ⟨0x700000, 1, 0x0, 1, 0x0, 0x1, 0x0, 0x0, false⟩,
  ⟨0x700004, 1, 0x0, 1, 0x0, 0x0, 0x0, 0x0, false⟩,
  ⟨0x700008, 1, 0x0, 1, 0x0, 0x0, 0x0, 0x0, false⟩,
  ⟨0x70000C, 1, 0x0, 1, 0x0, 0x0, 0x0, 0x0, false⟩,
  ⟨0x700010, 1, 0x0, 1, 0x0, 0x0, 0x0, 0x0, false⟩,
  ⟨0x700014, 1, 0x0, 1, 0x0, 0x0, 0x0, 0xF, false⟩,
  ⟨0x70001C, 1, 0x0, 1, 0x0, 0x0, 0x0, 0x0, false⟩]

/-- Register rows of the PWR block. -/
def regRowsPWR : List RegRow := [
  ⟨0x800000, 1, 0x0, 1, 0x0, 0x2, 0x0, 0x0, false⟩,
  ⟨0x800004, 1, 0x0, 1, 0x0, 0x0, 0x0, 0xF, false⟩,
  ⟨0x800010, 1, 0x0, 1, 0x0, 0x0, 0x0, 0x0, false⟩,
  ⟨0x800014, 1, 0x0, 1, 0x0, 0x0, 0xFFFFFFFF, 0x0, false⟩,
  ⟨0x800018, 1, 0x0, 1, 0x0, 0x0, 0xFFFF, 0x0, false⟩,
  ⟨0x80001C, 1, 0x0, 1, 0x0, 0x0, 0x0, 0x0, false⟩,
  ⟨0x800020, 1, 0x0, 1, 0x0, 0x0, 0x0, 0x0, false⟩,
  ⟨0x800200, 3, 0x4, 1, 0x0, 0x0, 0x0, 0x0, false⟩,
  ⟨0x800210, 3, 0x4, 1, 0x0, 0x0, 0x0, 0x0, false⟩,
  ⟨0x800400, 67, 0x4, 1, 0x0, 0x0, 0x0, 0x0, false⟩]

/-- Register rows of the PMON block. -/
def regRowsPMON : List RegRow := [
  ⟨0x900000, 1, 0x0, 1, 0x0, 0x0, 0x1, 0x0, false⟩,
  ⟨0x900004, 1, 0x0, 1, 0x0, 0x0, 0x0, 0x1, false⟩,
  ⟨0x900010, 1, 0x0, 1, 0x0, 0x0, 0x0, 0x0, false⟩,
  ⟨0x900014, 1, 0x0, 1, 0x0, 0x0, 0x0, 0x0, false⟩,
  ⟨0x900018, 1, 0x0, 1, 0x0, 0x0, 0x0, 0x0, false⟩,
  ⟨0x90001C, 1, 0x0, 1, 0x0, 0x0, 0x0, 0x0, true⟩,
  ⟨0x900020, 1, 0x0, 1, 0x0, 0x0, 0x0, 0x0, false⟩,
  ⟨0x900040, 8, 0x4, 1, 0x0, 0x0, 0x0, 0xFFFFFFFF, false⟩,
  ⟨0x901000, 256, 0x4, 1, 0x0, 0x0, 0xFFFFFF, 0x0, false⟩,
  ⟨0x902000, 256, 0x8, 1, 0x0, 0x0, 0x0, 0x0, true⟩,
  ⟨0x902004, 256, 0x8, 1, 0x0, 0x0, 0x0, 0x0, false⟩,
  ⟨0x903000, 256, 0x8, 1, 0x0, 0x0, 0x0, 0x0, true⟩,
  ⟨0x903004, 256, 0x8, 1, 0x0, 0x0, 0x0, 0x0, false⟩,
  ⟨0x904000, 256, 0x8, 1, 0x0, 0x0, 0x0, 0x0, true⟩,
  ⟨0x904004, 256, 0x8, 1, 0x0, 0x0, 0x0, 0x0, false⟩]

/-- Register rows of the GRAFT block. -/
def regRowsGRAFT : List RegRow := [
  ⟨0xA00000, 1, 0x0, 1, 0x0, 0x0, 0x0, 0x0, false⟩,
  ⟨0xA00004, 1, 0x0, 1, 0x0, 0x0, 0x0, 0xF, false⟩,
  ⟨0xA00010, 8, 0x4, 1, 0x0, 0x0, 0x0, 0x0, false⟩,
  ⟨0xA00030, 1, 0x0, 1, 0x0, 0x0, 0x0, 0x0, true⟩,
  ⟨0xA00034, 1, 0x0, 1, 0x0, 0x0, 0x0, 0x0, false⟩,
  ⟨0xA00040, 1, 0x0, 1, 0x0, 0x0, 0x0, 0x0, false⟩,
  ⟨0xA00044, 1, 0x0, 1, 0x0, 0x0, 0x0, 0x0, false⟩,
  ⟨0xA00048, 1, 0x0, 1, 0x0, 0x0, 0xFFFFFFFF, 0x0, false⟩,
  ⟨0xA0004C, 1, 0x0, 1, 0x0, 0x0, 0xFFFF, 0x0, false⟩,
  ⟨0xA00050, 1, 0x0, 1, 0x0, 0x0, 0x0, 0x0, false⟩,
  ⟨0xA00058, 1, 0x0, 1, 0x0, 0x0, 0x0, 0x0, false⟩,
  ⟨0xA0005C, 1, 0x0, 1, 0x0, 0x0, 0x0, 0x0, false⟩,
  ⟨0xA00100, 16, 0x40, 1, 0x0, 0x0, 0x0, 0x0, false⟩,
  ⟨0xA00104, 16, 0x40, 1, 0x0, 0x0, 0x0, 0x0, true⟩,
  ⟨0xA00108, 16, 0x40, 1, 0x0, 0x0, 0x0, 0x0, false⟩,
  ⟨0xA0010C, 16, 0x40, 1, 0x0, 0x0, 0x0, 0x0, false⟩,
  ⟨0xA00110, 16, 0x40, 1, 0x0, 0x0, 0x0, 0x0, false⟩,
  ⟨0xA00114, 16, 0x40, 1, 0x0, 0x0, 0x0, 0x0, false⟩,
  ⟨0xA00118, 16, 0x40, 1, 0x0, 0x0, 0x0, 0x0, false⟩,
  ⟨0xA0011C, 16, 0x40, 1, 0x0, 0x0, 0x0, 0x0, false⟩,
  ⟨0xA00120, 16, 0x40, 8, 0x4, 0x0, 0x0, 0x0, false⟩]

/-- Register rows of the PG block. -/
def regRowsPG : List RegRow := [
  ⟨0x1000000, 64, 0x10000, 17, 0x4, 0x0, 0x3, 0x0, false⟩,
  ⟨0x1000080, 64, 0x10000, 17, 0x4, 0x0, 0x0, 0x0, false⟩,
  ⟨0x1000100, 64, 0x10000, 17, 0x4, 0x0, 0x0, 0x0, false⟩,
  ⟨0x1000180, 64, 0x10000, 17, 0x4, 0x0, 0x0, 0x7F, false⟩,
  ⟨0x1000200, 64, 0x10000, 17, 0x8, 0x0, 0x0, 0x0, true⟩,
  ⟨0x1000204, 64, 0x10000, 17, 0x8, 0x0, 0x0, 0x0, false⟩,
  ⟨0x1000300, 64, 0x10000, 17, 0x8, 0x0, 0x0, 0x0, true⟩,
  ⟨0x1000304, 64, 0x10000, 17, 0x8, 0x0, 0x0, 0x0, false⟩,
  ⟨0x1000400, 64, 0x10000, 1, 0x0, 0x0, 0x0, 0x1FFFF, false⟩,
  ⟨0x1000404, 64, 0x10000, 1, 0x0, 0x0, 0x0, 0x1FFFF, false⟩,
  ⟨0x1000500, 64, 0x10000, 8, 0x4, 0x0, 0x0, 0x0, false⟩,
  ⟨0x1000520, 64, 0x10000, 8, 0x4, 0x0, 0x0, 0x0, false⟩,
  ⟨0x1000600, 64, 0x10000, 1, 0x0, 0x0, 0x3F, 0x0, false⟩,
  ⟨0x1000604, 64, 0x10000, 1, 0x0, 0x0, 0x0, 0x0, false⟩,
  ⟨0x1000608, 64, 0x10000, 1, 0x0, 0x0, 0x0, 0x0, false⟩,
  ⟨0x100060C, 64, 0x10000, 1, 0x0, 0x0, 0x0, 0x0, false⟩,
  ⟨0x1000610, 64, 0x10000, 1, 0x0, 0x0, 0x0, 0x0, false⟩,
  ⟨0x1000614, 64, 0x10000, 1, 0x0, 0x0, 0x0, 0x0, false⟩,
  ⟨0x1000618, 64, 0x10000, 1, 0x0, 0x3200040, 0xFFF0FFF, 0x0, false⟩,
  ⟨0x100061C, 64, 0x10000, 1, 0x0, 0x4E20, 0xFFFFFF, 0x0, false⟩,
  ⟨0x1000620, 64, 0x10000, 1, 0x0, 0x0, 0x0, 0x0, true⟩,
  ⟨0x1000624, 64, 0x10000, 1, 0x0, 0x0, 0x0, 0x0, false⟩,
  ⟨0x1001000, 64, 0x10000, 32, 0x4, 0x0, 0x0, 0x0, false⟩,
  ⟨0x1001080, 64, 0x10000, 8, 0x4, 0x0, 0x0, 0x0, false⟩,
  ⟨0x1001100, 64, 0x10000, 640, 0x4, 0x0, 0x0, 0x0, false⟩,
  ⟨0x1002000, 64, 0x10000, 640, 0x4, 0x0, 0x0, 0x0, false⟩,
  ⟨0x1003000, 64, 0x10000, 20, 0x4, 0x0, 0x0, 0xFFFFFFFF, false⟩,
  ⟨0x1003050, 64, 0x10000, 1, 0x0, 0x0, 0x0, 0xFFFFFFFF, false⟩,
  ⟨0x1003054, 64, 0x10000, 1, 0x0, 0x0, 0x0, 0xFF, false⟩,
  ⟨0x1003100, 64, 0x10000, 20, 0x4, 0x0, 0xFFFFFFFF, 0x0, false⟩,
  ⟨0x1003180, 64, 0x10000, 20, 0x4, 0x0, 0xFFFFFFFF, 0x0, false⟩]

/-- Register rows of the ELS block. -/
def regRowsELS : List RegRow := [
  ⟨0x1400000, 72, 0x4, 1, 0x0, 0x0, 0x1, 0x0, false⟩,
  ⟨0x1400200, 72, 0x4, 1, 0x0, 0x0, 0x0, 0x0, false⟩,
  ⟨0x1400400, 1, 0x0, 1, 0x0, 0xD26E8C, 0xFFFFFF, 0x0, false⟩,
  ⟨0x1400410, 1, 0x0, 1, 0x0, 0x0, 0x0, 0xFFFFFFFF, false⟩,
  ⟨0x1400414, 1, 0x0, 1, 0x0, 0x0, 0x0, 0xFFFFFFFF, false⟩,
  ⟨0x1400418, 1, 0x0, 1, 0x0, 0x0, 0x0, 0xFF, false⟩,
  ⟨0x1400420, 1, 0x0, 1, 0x0, 0x0, 0x0, 0x0, false⟩]

/-- Register rows of the PM block. -/
def regRowsPM : List RegRow := [
  ⟨0x1410000, 1, 0x0, 1, 0x0, 0x0, 0x0, 0x0, false⟩,
  ⟨0x1410004, 1, 0x0, 1, 0x0, 0x0, 0x0, 0x0, false⟩,
  ⟨0x1410008, 1, 0x0, 1, 0x0, 0x0, 0x0, 0x0, false⟩,
  ⟨0x141000C, 1, 0x0, 1, 0x0, 0x0, 0x0, 0x0, false⟩,
  ⟨0x1410010, 1, 0x0, 1, 0x0, 0x4E20, 0xFFFFFF, 0x0, false⟩,
  ⟨0x1410014, 1, 0x0, 1, 0x0, 0x13880, 0xFFFFFF, 0x0, false⟩,
  ⟨0x1410018, 1, 0x0, 1, 0x0, 0x0, 0x0, 0x0, false⟩,
  ⟨0x141001C, 1, 0x0, 1, 0x0, 0x0, 0x0, 0x0, false⟩,
  ⟨0x1410020, 1, 0x0, 1, 0x0, 0x0, 0x0, 0x7, false⟩,
  ⟨0x1410030, 1, 0x0, 1, 0x0, 0x0, 0x0, 0x0, false⟩,
  ⟨0x1410034, 1, 0x0, 1, 0x0, 0x0, 0x0, 0x0, false⟩,
  ⟨0x1410038, 1, 0x0, 1, 0x0, 0x0, 0x0, 0x0, false⟩,
  ⟨0x1410040, 16, 0x4, 1, 0x0, 0x0, 0x0, 0x0, false⟩]

/-- Register rows of the TRK block. -/
def regRowsTRK : List RegRow := [
  ⟨0x2000000, 1, 0x0, 1, 0x0, 0x0, 0x0, 0x0, false⟩,
  ⟨0x2000004, 1, 0x0, 1, 0x0, 0x0, 0x0, 0x0, true⟩,
  ⟨0x2000008, 1, 0x0, 1, 0x0, 0x0, 0x0, 0x0, false⟩,
  ⟨0x2000010, 1, 0x0, 1, 0x0, 0x0, 0x0, 0x3F, false⟩,
  ⟨0x2000018, 1, 0x0, 1, 0x0, 0x0, 0x0, 0x0, true⟩,
  ⟨0x200001C, 1, 0x0, 1, 0x0, 0x0, 0x0, 0x0, false⟩,
  ⟨0x2000020, 1, 0x0, 1, 0x0, 0x0, 0x0, 0x0, false⟩,
  ⟨0x2000028, 1, 0x0, 1, 0x0, 0x0, 0x0, 0x0, true⟩,
  ⟨0x200002C, 1, 0x0, 1, 0x0, 0x0, 0x0, 0x0, false⟩,
  ⟨0x2000030, 1, 0x0, 1, 0x0, 0x0, 0x0, 0x0, true⟩,
  ⟨0x2000034, 1, 0x0, 1, 0x0, 0x0, 0x0, 0x0, false⟩,
  ⟨0x2000038, 1, 0x0, 1, 0x0, 0x0, 0x0, 0x7, false⟩,
  ⟨0x2000040, 1, 0x0, 1, 0x0, 0x0, 0x0, 0x0, false⟩,
  ⟨0x2000100, 96, 0x8, 1, 0x0, 0x0, 0x0, 0x0, true⟩,
  ⟨0x2000104, 96, 0x8, 1, 0x0, 0x0, 0x0, 0x0, false⟩,
  ⟨0x2000400, 4, 0x8, 1, 0x0, 0x0, 0x0, 0x0, true⟩,
  ⟨0x2000404, 4, 0x8, 1, 0x0, 0x0, 0x0, 0x0, false⟩,
  ⟨0x2000420, 3, 0x4, 1, 0x0, 0x0, 0x0, 0xFFFFFFFF, false⟩,
  ⟨0x2000430, 1, 0x0, 1, 0x0, 0x0, 0x0, 0xF, false⟩,
  ⟨0x2000800, 44, 0x4, 1, 0x0, 0x0, 0x0, 0x0, false⟩,
  ⟨0x2100000, 41472, 0x4, 1, 0x0, 0x0, 0x0, 0x0, false⟩,
  ⟨0x2200000, 41472, 0x4, 1, 0x0, 0x0, 0x0, 0x0, false⟩,
  ⟨0x2280000, 41472, 0x4, 1, 0x0, 0x0, 0x0, 0x0, false⟩,
  ⟨0x2300000, 1296, 0x4, 1, 0x0, 0x0, 0x0, 0x0, false⟩,
  ⟨0x2302000, 1296, 0x4, 1, 0x0, 0x0, 0x0, 0xFFFFFFFF, false⟩]

/-- Register rows of the LEAF block. -/
def regRowsLEAF : List RegRow := [
  ⟨0x3000000, 1, 0x0, 1, 0x0, 0x0, 0x0, 0x0, false⟩,
  ⟨0x3000004, 1, 0x0, 1, 0x0, 0x0, 0x0, 0x3F, false⟩,
  ⟨0x3000010, 1, 0x0, 1, 0x0, 0x0, 0x0, 0x0, true⟩,
  ⟨0x3000014, 1, 0x0, 1, 0x0, 0x0, 0x0, 0x0, false⟩,
  ⟨0x3000018, 1, 0x0, 1, 0x0, 0x0, 0x0, 0x0, true⟩,
  ⟨0x300001C, 1, 0x0, 1, 0x0, 0x0, 0x0, 0x0, false⟩,
  ⟨0x3000020, 1, 0x0, 1, 0x0, 0x0, 0x0, 0x0, false⟩,
  ⟨0x3000024, 1, 0x0, 1, 0x0, 0x0, 0x0, 0x0, false⟩,
  ⟨0x3000028, 1, 0x0, 1, 0x0, 0x0, 0x0, 0x3, false⟩,
  ⟨0x3000030, 1, 0x0, 1, 0x0, 0x0, 0x0, 0x0, false⟩,
  ⟨0x3000034, 1, 0x0, 1, 0x0, 0x0, 0x0, 0x0, false⟩,
  ⟨0x3000038, 1, 0x0, 1, 0x0, 0x0, 0x0, 0x0, false⟩,
  ⟨0x300003C, 1, 0x0, 1, 0x0, 0x0, 0x0, 0x0, false⟩,
  ⟨0x3000040, 1, 0x0, 1, 0x0, 0x0, 0x0, 0x0, false⟩,
  ⟨0x3000044, 1, 0x0, 1, 0x0, 0x0, 0x0, 0x0, false⟩,
  ⟨0x3000048, 1, 0x0, 1, 0x0, 0x0, 0x0, 0x0, false⟩,
  ⟨0x300004C, 1, 0x0, 1, 0x0, 0x0, 0x0, 0x0, false⟩,
  ⟨0x3000050, 1, 0x0, 1, 0x0, 0x0, 0x0, 0x0, false⟩,
  ⟨0x3000054, 1, 0x0, 1, 0x0, 0x0, 0x0, 0x0, false⟩,
  ⟨0x3000080, 32, 0x4, 1, 0x0, 0x0, 0x0, 0x0, false⟩,
  ⟨0x3000100, 1, 0x0, 1, 0x0, 0x0, 0x0, 0x0, false⟩,
  ⟨0x3000104, 1, 0x0, 1, 0x0, 0x0, 0x0, 0x0, false⟩,
  ⟨0x3000108, 1, 0x0, 1, 0x0, 0x0, 0x0, 0x0, false⟩,
  ⟨0x3000140, 16, 0x4, 1, 0x0, 0x0, 0x0, 0x0, false⟩,
  ⟨0x3000200, 16, 0x4, 1, 0x0, 0x0, 0x0, 0xFFFFFFFF, false⟩,
  ⟨0x3000240, 16, 0x4, 1, 0x0, 0x0, 0x0, 0xFFFFFFFF, false⟩,
  ⟨0x3000280, 16, 0x4, 1, 0x0, 0x0, 0x0, 0xFFFFFFFF, false⟩,
  ⟨0x3010000, 512, 0x20, 1, 0x0, 0x0, 0x0, 0x0, false⟩,
  ⟨0x3010004, 512, 0x20, 1, 0x0, 0x0, 0x0, 0x0, false⟩,
  ⟨0x3010008, 512, 0x20, 1, 0x0, 0x0, 0x0, 0x0, true⟩,
  ⟨0x301000C, 512, 0x20, 1, 0x0, 0x0, 0x0, 0x0, false⟩,
  ⟨0x3010010, 512, 0x20, 1, 0x0, 0x0, 0x0, 0x0, true⟩,
  ⟨0x3010014, 512, 0x20, 1, 0x0, 0x0, 0x0, 0x0, false⟩,
  ⟨0x3010018, 512, 0x20, 1, 0x0, 0x0, 0x0, 0x0, false⟩,
  ⟨0x301001C, 512, 0x20, 1, 0x0, 0x0, 0x0, 0x0, false⟩,
  ⟨0x3020000, 2048, 0x4, 1, 0x0, 0x0, 0x0, 0x0, false⟩]

/-- Register rows of the PROT block. -/
def regRowsPROT : List RegRow := [
  ⟨0x4000000, 1, 0x0, 1, 0x0, 0x0, 0x0, 0x0, false⟩,
  ⟨0x4000004, 1, 0x0, 1, 0x0, 0x0, 0x0, 0x1F, false⟩,
  ⟨0x4000010, 1, 0x0, 1, 0x0, 0x0, 0x0, 0x0, false⟩,
  ⟨0x4000014, 1, 0x0, 1, 0x0, 0x0, 0x0, 0x0, false⟩,
  ⟨0x4000018, 1, 0x0, 1, 0x0, 0x0, 0x0, 0x0, false⟩,
  ⟨0x400001C, 1, 0x0, 1, 0x0, 0x0, 0x0, 0x0, false⟩,
  ⟨0x4000020, 1, 0x0, 1, 0x0, 0x0, 0x0, 0x0, true⟩,
  ⟨0x4000024, 1, 0x0, 1, 0x0, 0x0, 0x0, 0x0, false⟩,
  ⟨0x4000028, 1, 0x0, 1, 0x0, 0x0, 0x0, 0x1, false⟩,
  ⟨0x4010000, 2048, 0x4, 1, 0x0, 0x0, 0x0, 0xFFFFFFFF, false⟩,
  ⟨0x4020000, 2048, 0x4, 1, 0x0, 0x0, 0x0, 0xFFFFFFFF, false⟩,
  ⟨0x4400000, 65536, 0x40, 1, 0x0, 0x0, 0x0, 0x0, false⟩,
  ⟨0x4400004, 65536, 0x40, 1, 0x0, 0x0, 0x0, 0x0, false⟩,
  ⟨0x4400008, 65536, 0x40, 1, 0x0, 0x0, 0x0, 0x0, false⟩,
  ⟨0x440000C, 65536, 0x40, 1, 0x0, 0x0, 0x0, 0x0, false⟩,
  ⟨0x4400010, 65536, 0x40, 1, 0x0, 0x0, 0x0, 0x0, false⟩,
  ⟨0x4400014, 65536, 0x40, 1, 0x0, 0x0, 0x0, 0x0, false⟩,
  ⟨0x4400018, 65536, 0x40, 1, 0x0, 0x0, 0x0, 0x0, false⟩,
  ⟨0x440001C, 65536, 0x40, 1, 0x0, 0x0, 0x0, 0x0, false⟩,
  ⟨0x4400020, 65536, 0x40, 1, 0x0, 0x0, 0x0, 0x0, false⟩,
  ⟨0x4400024, 65536, 0x40, 1, 0x0, 0x0, 0x0, 0x0, false⟩,
  ⟨0x4400028, 65536, 0x40, 1, 0x0, 0x0, 0x0, 0x0, false⟩]

/-- Register rows of the ENG block. -/
def regRowsENG : List RegRow := [
  ⟨0x8000000, 68, 0x100000, 1, 0x0, 0x0, 0x0, 0x0, false⟩,
  ⟨0x8000004, 68, 0x100000, 1, 0x0, 0x0, 0x0, 0x7F, false⟩,
  ⟨0x8000008, 68, 0x100000, 1, 0x0, 0x0, 0x0, 0x0, false⟩,
  ⟨0x800000C, 68, 0x100000, 1, 0x0, 0x0, 0x0, 0x0, false⟩,
  ⟨0x8000010, 68, 0x100000, 1, 0x0, 0x0, 0x0, 0x0, false⟩,
  ⟨0x8000014, 68, 0x100000, 1, 0x0, 0x0, 0x0, 0x0, false⟩,
  ⟨0x8000018, 68, 0x100000, 1, 0x0, 0x0, 0x0, 0x0, false⟩,
  ⟨0x8000020, 68, 0x100000, 1, 0x0, 0x0, 0x0, 0x0, true⟩,
  ⟨0x8000024, 68, 0x100000, 1, 0x0, 0x0, 0x0, 0x0, false⟩,
  ⟨0x8000028, 68, 0x100000, 1, 0x0, 0x0, 0x0, 0x0, true⟩,
  ⟨0x800002C, 68, 0x100000, 1, 0x0, 0x0, 0x0, 0x0, false⟩,
  ⟨0x8000030, 68, 0x100000, 1, 0x0, 0x0, 0x0, 0x0, true⟩,
  ⟨0x8000034, 68, 0x100000, 1, 0x0, 0x0, 0x0, 0x0, false⟩,
  ⟨0x8000038, 68, 0x100000, 1, 0x0, 0x0, 0x0, 0x0, true⟩,
  ⟨0x800003C, 68, 0x100000, 1, 0x0, 0x0, 0x0, 0x0, false⟩,
  ⟨0x8000040, 68, 0x100000, 1, 0x0, 0x0, 0x0, 0x0, true⟩,
  ⟨0x8000044, 68, 0x100000, 1, 0x0, 0x0, 0x0, 0x0, false⟩,
  ⟨0x8000048, 68, 0x100000, 1, 0x0, 0x0, 0x0, 0x0, true⟩,
  ⟨0x800004C, 68, 0x100000, 1, 0x0, 0x0, 0x0, 0x0, false⟩,
  ⟨0x8000050, 68, 0x100000, 1, 0x0, 0x0, 0x0, 0x0, true⟩,
  ⟨0x8000054, 68, 0x100000, 1, 0x0, 0x0, 0x0, 0x0, false⟩,
  ⟨0x8000058, 68, 0x100000, 1, 0x0, 0x0, 0x0, 0x0, true⟩,
  ⟨0x800005C, 68, 0x100000, 1, 0x0, 0x0, 0x0, 0x0, false⟩,
  ⟨0x8000060, 68, 0x100000, 1, 0x0, 0x0, 0x0, 0xFF, false⟩,
  ⟨0x8000080, 68, 0x100000, 4, 0x8, 0x0, 0x0, 0x0, true⟩,
  ⟨0x8000084, 68, 0x100000, 4, 0x8, 0x0, 0x0, 0x0, false⟩,
  ⟨0x80000A0, 68, 0x100000, 1, 0x0, 0x0, 0x0, 0x0, false⟩,
  ⟨0x80000A4, 68, 0x100000, 4, 0x4, 0x0, 0x0, 0x0, false⟩]

/-- Register rows of the ENGC block. -/
def regRowsENGC : List RegRow := [
  ⟨0xFF00000, 1, 0x0, 1, 0x0, 0x0, 0x0, 0x0, false⟩,
  ⟨0xFF00004, 1, 0x0, 1, 0x0, 0x0, 0x0, 0xF, false⟩,
  ⟨0xFF00010, 1, 0x0, 1, 0x0, 0x0, 0x0, 0x0, false⟩,
  ⟨0xFF00014, 1, 0x0, 1, 0x0, 0x0, 0x0, 0x0, false⟩,
  ⟨0xFF00018, 1, 0x0, 1, 0x0, 0x0, 0x0, 0x0, false⟩,
  ⟨0xFF00020, 1, 0x0, 1, 0x0, 0x0, 0x0, 0x0, false⟩,
  ⟨0xFF00024, 1, 0x0, 1, 0x0, 0x0, 0x0, 0x0, false⟩,
  ⟨0xFF00028, 1, 0x0, 1, 0x0, 0x0, 0x0, 0x0, true⟩,
  ⟨0xFF0002C, 1, 0x0, 1, 0x0, 0x0, 0x0, 0x0, false⟩,
  ⟨0xFF00030, 1, 0x0, 1, 0x0, 0x0, 0x0, 0x0, false⟩]

/-- The index of `a` among `n` places `s` bytes apart from `base`, and the remaining distance. -/
def RegRow.holds (r : RegRow) (a : Nat) : Bool :=
  if a < r.base then false
  else
    let x := a - r.base
    let i := if r.s1 = 0 then 0 else x / r.s1
    let y := x - i * r.s1
    let j := if r.s2 = 0 then 0 else y / r.s2
    decide (i < r.n1) && decide (j < r.n2) && decide (y - j * r.s2 = 0)

/-- The rows of the block that holds CSR offset `a` (R301). -/
def regRowsAt (a : Nat) : List RegRow :=
  if a < 0x100000 then regRowsTOP
  else if a < 0x200000 then regRowsBOOT
  else if a < 0x300000 then regRowsXBAR
  else if a < 0x400000 then regRowsDMA
  else if a < 0x500000 then regRowsFT
  else if a < 0x600000 then regRowsTIM
  else if a < 0x700000 then regRowsMATE
  else if a < 0x800000 then regRowsLC
  else if a < 0x900000 then regRowsPWR
  else if a < 0xA00000 then regRowsPMON
  else if a < 0x1000000 then regRowsGRAFT
  else if a < 0x1400000 then regRowsPG
  else if a < 0x1410000 then regRowsELS
  else if a < 0x2000000 then regRowsPM
  else if a < 0x3000000 then regRowsTRK
  else if a < 0x4000000 then regRowsLEAF
  else if a < 0x8000000 then regRowsPROT
  else if a < 0xFF00000 then regRowsENG
  else regRowsENGC

/-- The register map row of CSR offset `a`, or none where no register lies (served by the default target, R301). -/
def regRow (a : Nat) : Option RegRow := (regRowsAt a).find? (·.holds a)

/-- What the register at `a` reads before anything writes it: its reset value. -/
def regReset (a : Nat) : Word :=
  match regRow a with
  | some r => BitVec.ofNat 32 r.rst
  | none => 0

end Sys2Proof.Machine
end

