-- ==== Sys2Proof/Machine/Tab.lean ====
section
/-! DEFINITION. Sparse tables: a list of (key, value) pairs in one canonical form, keys strictly rising and no entry equal
to what an unlisted key reads as. Registers, memory, flash and every indexed record of the machine are such tables. -/

namespace Sys2Proof.Machine

/-- The value at key `k`; `d` says what an unlisted key reads as. -/
def Tab.get {α : Type} (d : Nat → α) : List (Nat × α) → Nat → α
  | [], k => d k
  | (j, v) :: r, k => if j = k then v else if k < j then d k else Tab.get d r k

/-- Put an entry before the first larger key, replacing an entry of the same key. -/
def Tab.insert {α : Type} (k : Nat) (v : α) : List (Nat × α) → List (Nat × α)
  | [] => [(k, v)]
  | (j, w) :: r => if k < j then (k, v) :: (j, w) :: r else if j = k then (k, v) :: r else (j, w) :: Tab.insert k v r

/-- Take the entry of key `k` out. -/
def Tab.erase {α : Type} (k : Nat) : List (Nat × α) → List (Nat × α)
  | [] => []
  | (j, w) :: r => if k < j then (j, w) :: r else if j = k then r else (j, w) :: Tab.erase k r

/-- Write `v` at key `k`, keeping the canonical form: writing what an unlisted key reads as removes the entry. -/
def Tab.set {α : Type} [DecidableEq α] (d : Nat → α) (m : List (Nat × α)) (k : Nat) (v : α) : List (Nat × α) :=
  if v = d k then Tab.erase k m else Tab.insert k v m

/-- Every key of the list is larger than `k`. -/
def Tab.above {α : Type} (k : Nat) : List (Nat × α) → Bool
  | [] => true
  | (j, _) :: r => decide (k < j) && Tab.above k r

/-- The canonical form. -/
def Tab.wf {α : Type} [DecidableEq α] (d : Nat → α) : List (Nat × α) → Bool
  | [] => true
  | (j, v) :: r => Tab.above j r && decide (v ≠ d j) && Tab.wf d r

/-- Change the value at key `k` by `f`. -/
def Tab.upd {α : Type} [DecidableEq α] (d : Nat → α) (m : List (Nat × α)) (k : Nat) (f : α → α) : List (Nat × α) :=
  Tab.set d m k (f (Tab.get d m k))

/-- The entries of the values `vs` at the keys from `k` upward. -/
def Tab.ofList {α : Type} [DecidableEq α] (d : Nat → α) (k : Nat) : List α → List (Nat × α)
  | [] => []
  | v :: vs => if v = d k then Tab.ofList d (k + 1) vs else (k, v) :: Tab.ofList d (k + 1) vs

/-- Write the values `vs` at the keys from `k` upward. -/
def Tab.setRange {α : Type} [DecidableEq α] (d : Nat → α) (m : List (Nat × α)) (k : Nat) (vs : List α) : List (Nat × α) :=
  (m.filter fun e => decide (e.1 < k)) ++ Tab.ofList d k vs ++ (m.filter fun e => decide (k + vs.length ≤ e.1))

/-- The values at the `n` keys from `k` upward. -/
def Tab.getRange {α : Type} (d : Nat → α) (m : List (Nat × α)) (k : Nat) : Nat → List α
  | 0 => []
  | n + 1 => Tab.get d m k :: Tab.getRange d m (k + 1) n

/-- Make every key from `lo` below `hi` read as its default. -/
def Tab.dropRange {α : Type} (m : List (Nat × α)) (lo hi : Nat) : List (Nat × α) :=
  m.filter fun e => e.1 < lo || hi ≤ e.1

end Sys2Proof.Machine
end

