-- ==== Sys2Proof/Syntax.lean ====
section
/-! DEFINITION. The commands of the block: one constructor of `Instr` per row of spec/opcode_table.json, with the
operands the row names. A command that stands for an event on a lane, link or pin carries what arrived there. -/

namespace Sys2Proof

/-- A PCIe memory request (R295, R298). `lanes` is one (byte enable, data byte) pair per byte, from the dword-aligned
`offset` upward. -/
structure HostReq where
  bar : Nat
  offset : Nat
  write : Bool
  lanes : List (Bool × Byte)
  deriving DecidableEq, Repr

/-- A lane tag position met by a receive lane (R60, R61): its bit position in the lane's stream, its 32 bytes as
received, and its arrival instant in units of 0.1 ns. -/
structure TagRx where
  pos : Nat
  bytes : List Byte
  arr : Nat
  deriving DecidableEq, Repr

/-- What one OTUC frame of a slice brings (R73, R76). `lane`: the physical receive lane it came on. `pos`: the byte position of its FAS in
the instance's stream. `fas`: its wrong bits. `am`: the FlexO alignment marker of this frame, good or bad, when
the frame holds one. `flexo`: a FlexO overhead block (CRC good, group, instance, map). `pt`, `msi`: the payload type and
the MSI entries (slot within the slice, ODU type code, tributary port) of a PSI multiframe that ends here. `smBip`, `pmBip`:
violated BIP-8 bits. `cor`, `unc`:
corrected symbols and uncorrectable codewords of its lane since the last frame (R65). -/
structure OtucRx where
  lane : Nat
  pos : Nat
  fas : Nat
  am : Option Bool
  mfas : Nat
  smBip : Nat
  smBei : Nat
  smBdi : Bool
  smIae : Bool
  smStat : Nat
  smTti : Byte
  pmBip : Nat
  pmBei : Nat
  pmBdi : Bool
  pmStat : Nat
  pmTti : Byte
  flexo : Option (Bool × Nat × Nat × Nat)
  pt : Option Nat
  msi : List (Nat × Nat × Nat)
  gcc0 : List Byte
  gcc1 : List Byte
  gcc2 : List Byte
  cor : Nat
  unc : Nat
  deriving DecidableEq, Repr

/-- The tandem connection field of one monitored position m of a received ODU frame (R85). -/
structure TcmRx where
  m : Nat
  bip : Nat
  bei : Nat
  bdi : Bool
  stat : Nat
  tti : Byte
  deriving DecidableEq, Repr

/-- What one low-order ODU frame brings (R73, R76). `jcCrc`, `cm`: its GMP justification opportunity, whether its CRC was good, and Cm. `aps`: the level
and four bytes of an APS/PCC occurrence. `data`: the bytes demapped for this ODU frame (R107). -/
structure OduRx where
  mfas : Nat
  bip : Nat
  bei : Nat
  bdi : Bool
  stat : Nat
  tti : Byte
  jcCrc : Bool
  cm : Nat
  tcm : List TcmRx
  aps : Option (Nat × List Byte)
  data : List Byte
  deriving DecidableEq, Repr

/-- A leaf carrier frame position met in a carrier's payload stream (R143, R151): its byte position, the instant its alignment word
arrived, corrected for the justification of the ODUflex, in 0.01 ns of the core clock since it became stable (R148), the 1,024 overhead
bytes and the leaf bytes (position, byte); a position not listed carries 0. -/
structure LeafRx where
  pos : Nat
  arr : Nat
  oh : List Byte
  leaves : List (Nat × Byte)
  deriving DecidableEq, Repr

/-- The ODUflex that carries leaf carrier `carrier` in one device frame (R149, R152): the PM STAT of every ODUflex frame that
started in it, the payload types of the PSI multiframes that ended in it, and the BIP-8 violations. -/
structure OdufRx where
  carrier : Nat
  stats : List Nat
  pts : List Nat
  bip : Nat
  deriving DecidableEq, Repr

/-- Samples of one reference candidate for a frame (R202): the 800-frame and 8,000-frame averages of its offset from the
local scale in 0.001 ppb, and its phase against the output in 0.01 ns. -/
structure RefSample where
  ofs800 : Int
  ofs8000 : Int
  phase : Int
  deriving DecidableEq, Repr

/-- A test word as received (R112): the ingress switch, position and FN[15:0] of its header, and its body. -/
structure TestRx where
  sw : Nat
  pos : Nat
  fn : Nat
  body : Nat
  deriving DecidableEq, Repr

/-- The physical samples taken at a frame boundary. A quantity that is not listed keeps its last sample. `els`: laser
fibre and input power in 0.01 dBm (R55). `refs`: reference candidates (R202). `outFreq`: output frequency of the loop in
0.001 ppb of the local scale (R212). `phaseErr`: phase error in 0.01 ns (R215). `patrolCor`, `patrolUnc`: corrected
errors found by the connection-memory patrol, and each entry with an uncorrectable one (R114): bank (0 - ingress, 1 - middle, 2 - egress,
3 - output records), its switch or middle position, and its place there. `demap`: (ODU, bytes) that the demapper has recovered of an ODU
by the end of the frame; all that it holds where an ODU is not listed (R107). `mapErr`:
leaf map slots read with an uncorrectable error (R167). `ramUnc`: an uncorrectable error was found in leaf SRAM or elsewhere in HBM (R241). `oduf`: the ODUflex of each leaf carrier with a frame
start in the frame (R152). `lanePwr`: (group, lane,
power in 0.1 dBm). `prbs`: bit errors of idle receive spares (group, count; R72). `zeroBad`: the zeroisation step in progress
read back a mismatch (R323). -/
structure FrameInput where
  els : List (Nat × Int)
  refs : List (Nat × RefSample)
  outFreq : Option Int
  phaseErr : Option Int
  patrolCor : Nat
  patrolUnc : List (Nat × Nat × Nat)
  demap : List (Nat × Nat)
  mapErr : List Nat
  ramUnc : Bool
  oduf : List OdufRx
  lanePwr : List (Nat × Nat × Int)
  prbs : List (Nat × Nat)
  zeroBad : Bool
  deriving DecidableEq, Repr

/-- The place of an engine action (R247, R250): engine, issue slot, index of its word in the program, predicate. `mem`: what the engine finds as
it issues (R254, R268): 0 nothing, 1 a corrected program word, 2 an uncorrectable error in its word, a table or the duty map, 3 a parity error.
`raw`: 0, or the reserved opcode that the word holds in place of the row's (R258). -/
structure Act where
  eng : Nat
  slot : Nat
  k : Nat
  pred : Nat
  pneg : Bool
  mem : Nat := 0
  raw : Nat := 0
  deriving DecidableEq, Repr

/-- A received Nirrin marker block (R227, R228): its bit position on the lane, the block's data bytes, whether a codeword
was uncorrectable, and the receiver's power reading in 0.1 dBm. -/
structure MarkerRx where
  pos : Nat
  bytes : List Byte
  uncor : Bool
  power : Int
  deriving DecidableEq, Repr

/-- The commands: one constructor per row of spec/opcode_table.json, in the table's order. -/
inductive Instr where
  | registerWrite (addr : Nat) (data : Word)
  | pairLowRead (addr : Nat)
  | oddWidthAccess (addr : Nat) (bytes : Nat) (write : Bool)
  | defaultTargetAccess (addr : Nat) (write : Bool)
  | hostRequest (r : HostReq)
  | hostAccessBegin (master : Nat)
  | burstGrant (target : Nat) (others : List (Nat × Nat))
  | hostPortReset
  | blkMaskWrite (data : Word)
  | powerGoodRise
  | powerGoodFall
  | resetAssert
  | resetRelease
  | coreClockStable
  | alignWaitTimeout
  | dataPlaneRelease
  | frameBoundary (inp : FrameInput)
  | elsStateChange (fibre : Nat)
  | mateLaserMove (lane : Nat) (biasOk : List Nat)
  | stateBusDelivery
  | ppsEdge
  | ppsLoss
  | todInMessage (bytes : List Byte)
  | capture
  | arm
  | cancelStep
  | stepAck (seq : Nat)
  | relabel
  | stepApplied
  | bin15MinuteStart
  | bin24HourStart
  | pmClosureWrite
  | laneSuperframeSend (g lane : Nat)
  | laneTagReceive (g lane : Nat) (tag : TagRx)
  | spareAction (g : Nat)
  | laneLightLoss (g lane : Nat)
  | laneDegraded (g lane : Nat)
  | spareTimeout (g : Nat)
  | spareVerifyEnd (g : Nat) (pass : Bool)
  | autoRequestPauseEnd (g : Nat)
  | spareRequest (g lane : Nat)
  | spareRelease (g lane : Nat)
  | txBridge (g lane : Nat)
  | txUnbridge (g lane : Nat)
  | spareAck (g seq : Nat)
  | otucFrameReceive (slice : Nat) (rx : OtucRx)
  | oduFrameReceive (odu : Nat) (rx : OduRx)
  | oduAisInsert (odu : Nat)
  | oduAisRemove (odu : Nat)
  | failureRaise (ent code : Nat)
  | failureClear (ent code : Nat)
  | gccFlush (port ch : Nat)
  | gccTxRecord (port ch : Nat)
  | pmSecondEnd
  | pmRdReq (ent sel : Nat)
  | pmSnapshot
  | pmResAck (seq : Nat)
  | remapRecentre (output : Nat)
  | inject (sw : Nat)
  | testWordCheck (link : Bool) (unit : Nat) (place : Nat × Nat) (word : TestRx)
  | middleCollision (middle egress low high : Nat)
  | claim
  | commit (entry : Nat)
  | cancel (entry : Nat)
  | rollback
  | graftCmdAck (seq : Nat)
  | graftEAck (entry seq : Nat)
  | graftValidationDone (entry : Nat)
  | graftArm
  | shadowReady
  | graftApply (memErr : Bool)
  | graftDomainDrain
  | leafCarrierFrame (carrier : Nat) (rx : LeafRx)
  | dqlcClear (carrier : Nat)
  | leafPmReq (ent sel : Nat)
  | leafPmSnapshot
  | leafPmAck (seq : Nat)
  | lo (group : Nat)
  | fs (group : Nat)
  | msP (group : Nat)
  | msW (group : Nat)
  | clear (group : Nat)
  | protCmdAck (seq : Nat)
  | protEvaluation (group : Nat)
  | holdOffEnd (group : Nat) (protect sd : Bool)
  | wtrExpiry (group : Nat)
  | dfopNr (group : Nat)
  | dfsl (group : Nat)
  | qualified (cand : Nat)
  | candidateWtrEnd (cand : Nat)
  | frequencyFaultClear (cand : Nat)
  | refSignalFault (cand : Nat)
  | disputeRelease (cand : Nat)
  | settlingEnd
  | locked
  | lockLoss
  | ssmMessage (cand code : Nat)
  | ppsOutRise
  | ppsOutFall
  | todOutMessage
  | forceHoWrite (data : Word)
  | lockoutWrite (m : Nat) (data : Word)
  | nirrinMarker (lane : Nat) (rx : MarkerRx)
  | nirrinBlock (lane : Nat) (bytes : List Byte) (uncor : Bool)
  | mirrorSnapshot
  | mirrorApply
  | fallbackApply
  | mirrorLoss
  | linkDown
  | linkUp
  | request
  | grant (bytes : List Byte)
  | deny (bytes : List Byte)
  | releaseAck (bytes : List Byte)
  | fallback (bytes : List Byte)
  | grinusFrameError
  | replyTimeout
  | leaseExpiry
  | holdExpiry
  | release
  | mateCmdAck (seq : Nat)
  | loopbackTest (g : Nat) (start errored : Bool)
  | lockstepTest (q : Nat) (differs : Bool)
  | watchdogExpiry
  | nop (a : Act)
  | add (a : Act) (x y z : Nat)
  | sub (a : Act) (x y z : Nat)
  | and (a : Act) (x y z : Nat)
  | or (a : Act) (x y z : Nat)
  | xor (a : Act) (x y z : Nat)
  | shl (a : Act) (x y z : Nat)
  | shr (a : Act) (x y z : Nat)
  | minu (a : Act) (x y z : Nat)
  | maxu (a : Act) (x y z : Nat)
  | satadd32 (a : Act) (x y z : Nat)
  | addi (a : Act) (x y : Nat) (imm : BitVec 26)
  | movi (a : Act) (x : Nat) (imm : BitVec 26)
  | ext (a : Act) (x y lsb wm1 : Nat)
  | ins (a : Act) (x y lsb wm1 : Nat)
  | sel (a : Act) (x y z p : Nat)
  | cmp (a : Act) (p y z cond : Nat)
  | cmpi (a : Act) (p y cond : Nat) (imm : BitVec 22)
  | pset (a : Act) (p q r f : Nat) (inv : Bool)
  | testb (a : Act) (p y bit : Nat)
  | ld (a : Act) (x addr : Nat) (ecc : Nat)
  | st (a : Act) (x addr : Nat)
  | cntdn (a : Act) (p addr : Nat) (ecc : Nat)
  | cntup (a : Act) (p addr : Nat) (ecc : Nat)
  | get (a : Act) (x entry : Nat)
  | put (a : Act) (x entry : Nat)
  | post (a : Act) (x n entry : Nat)
  | mark (a : Act) (x : Nat)
  | engineCommit (failed : List (Nat × Nat))
  | spareTakeover (q : Nat)
  | takeover (eng : Nat)
  | engCmdAck (seq : Nat)
  | snap
  | tdCapture
  | engTdAck (seq : Nat)
  | pmonSelWrite (n : Nat) (data : Word)
  | pmonSourceChange (n : Nat)
  | freeze (data : Word)
  | pmonSnap
  | pmonSnapshot
  | pmonSnapAck (seq : Nat)
  | confirm
  | loadHost
  | bootCmdAck (seq : Nat)
  | read (dev : Nat)
  | program (dev : Nat)
  | erase (dev : Nat)
  | flashCommandDone (failAt : Option Nat)
  | bootFlAck (seq : Nat)
  | topRstCmd (data : Word)
  | deviceReset (cause : Nat)
  | go (ch : Nat)
  | stop (ch : Nat)
  | reset (ch : Nat)
  | dmaChAck (ch seq : Nat)
  | dmaConfigWrite (ch reg : Nat) (data : Word)
  | descriptorFetch (ch : Nat) (bytes : List Byte) (error : Bool)
  | dmaBeat
  | descriptorEnd (ch : Nat)
  | targetTimeout (ch : Nat)
  | queueRunStart (q : Nat)
  | lcBlank (key : Nat)
  | lcDevelop (key : Nat)
  | lcDeploy (key : Nat)
  | lcReturn (key : Nat)
  | returnReset
  | lcAck (seq : Nat)
  | pwrOn (d : Nat) (immed : Bool)
  | pwrOff (d : Nat) (immed : Bool)
  | quiet (immed : Bool)
  | wake (immed : Bool)
  | pwrRequestAct
  | domainOn (d : Nat)
  | domainIsolate (d : Nat)
  | drainTimeout (d : Nat)
  | pwrAck (seq : Nat)
  | pwrLegOn (m : Nat) (data : Word)
  | pwrLegOff (m : Nat) (data : Word)
  | cdaRead (addr : Nat)
  | cdaWrite (addr : Nat) (data : Word)
  | cdaCapture (leaf : Bool) (index frames : Nat)
  | debugSessionClose
  | bypass
  | idcode
  | samplePreload
  | extest
  | clamp
  | highz
  | maker (code : Nat)
  | thermalSample (hub q0 q1 q2 q3 : Int) (currents : List Nat) (power : Nat)
  | smbReadWord (command : Nat)
  | laneLightReturn (g lane : Nat)
  | refSignalReturn (cand : Nat)
  | arbSync (gained : Bool)
  | hostLinkUp (speed width : Nat)
  | peerHealthTimeout
  | hostReadCompletion (ch : Nat) (bytes : List Byte) (error : Bool)
  | cdaAccess
  deriving DecidableEq, Repr

end Sys2Proof
end

