-- ==== Sys2Proof/Machine/State.lean ====
section
/-! DEFINITION. The state of the block: every register, buffer, counter, mode and pin the spec gives it, as plain data, and
the queue of waiting commands. Registers lie in `regs` (unlisted ones read their reset value, Machine/Regs.lean); what the
spec gives the machine beside its registers lies in the structures below. A structure's default value is its content
after reset. -/

namespace Sys2Proof.Machine

/-- A persistency filter (R76): the candidate value, how often it came in a row, and the accepted value. -/
structure Acc where
  cand : Nat := 0
  run : Nat := 0
  val : Option Nat := none
  deriving DecidableEq, Repr

/-- A two-sided persistency filter of one bit (R76, R62): the state, and the runs of ones and of zeros. -/
structure Flt where
  on : Bool := false
  ones : Nat := 0
  zeros : Nat := 0
  deriving DecidableEq, Repr

/-- Fuses (R285, R294, R320): read at every reset, kept across it. `lcA`, `lcB`, `lcC`: the three copies of the life cycle; `lc`: what the last
reset read of them. -/
structure Fuses where
  part : Nat := 0x7200
  stepping : Nat := 0
  rom : Nat := 0
  quads : Nat := 15
  leaf : Bool := true
  mate : Bool := true
  variant : Nat := 0
  serial : Nat := 0
  idcode : Nat := 0
  lc : Nat := 1
  lcA : Nat := 1
  lcB : Nat := 1
  lcC : Nat := 1
  zeroised : Bool := false
  deriving DecidableEq, Repr

/-- A run of section entries (R275): `count` entries from index `first`; `fill`: one entry repeated. -/
structure Run where
  first : Nat
  count : Nat
  fill : Bool
  data : List Byte
  deriving DecidableEq, Repr

/-- One section of an image (R273, R274): its type, instance, whether it is a PATCH (R275), entry size, entry count, its
entries as runs (a later run prevails), and, for a delta's hit report, the content offset of its data (R277). -/
structure Section where
  ty : Nat
  inst : Nat
  patch : Bool
  esize : Nat
  count : Nat
  runs : List Run
  pos : Nat
  deriving DecidableEq, Repr

/-- A parsed Osbor image (R271 to R275). Digests are 32 bytes. -/
structure Image where
  kind : Nat
  required : Nat
  blocks : Nat
  gtag : Nat
  digest : List Byte
  base : List Byte
  result : List Byte
  sections : List Section
  deriving DecidableEq, Repr

/-- A flash command in progress (R291). -/
structure FlashJob where
  op : Nat
  dev : Nat
  addr : Nat
  len : Nat
  buf : Nat
  deriving DecidableEq, Repr

/-- One NOR device (R281): present, its size in bytes, its content (unlisted bytes read 0xFF). -/
structure Nor where
  present : Bool := true
  size : Nat := 0x20000000
  cells : List Host.Cell := []
  deriving DecidableEq, Repr

/-- A tag candidate of a receive lane (R61): where it was last met and how often it was confirmed. -/
structure Cand where
  pos : Nat
  conf : Nat
  deriving DecidableEq, Repr

/-- A line receive lane (R60 to R65, R68, R70); `amA`, `amB`: alignment of its two instances (R62); `endCor`, `endUnc`: the FEC counts of the
frame that ended last, `wasCor`, `wasUnc`, `wasDeg`: the runs and the degrade before it, from which an event of the boundary cycle judges it again (R33). -/
structure Lane where
  cands : List Cand := []
  lockPos : Nat := 0
  miss : Nat := 0
  width : Nat := 0
  sf : Nat := 0
  arr : Nat := 0
  placed : Bool := false
  crossed : Bool := false
  mapErr : Bool := false
  skewBad : Bool := false
  skewGood : Nat := 0
  rxm : Acc := {}
  txm : Acc := {}
  cor : Nat := 0
  unc : Nat := 0
  corRun : Nat := 0
  uncRun : Nat := 0
  degraded : Bool := false
  endCor : Nat := 0
  endUnc : Nat := 0
  wasCor : Nat := 0
  wasUnc : Nat := 0
  wasDeg : Bool := false
  amA : Flt := {}
  amB : Flt := {}
  deriving DecidableEq, Repr

/-- The sparing state of a port group beside its registers (R66 to R71): the reasons of the receive and transmit
sequences, the frame the receive state was entered, the frame until which automatic requests pause, a denied bridge, whether
the bridge was started here, a bridge to start, a failed lane that pre-empts a selection, and whether the verification in progress has
met a frame that fails it; `txDeny`: the lane whose far request is denied since sparing is not enabled here (R67). -/
structure Spare where
  reason : Nat := 0
  since : Nat := 0
  pauseTo : Nat := 0
  deny : Option Nat := none
  txSelf : Bool := false
  txWant : Option Nat := none
  wantLane : Option Nat := none
  bad : Bool := false
  txDeny : Option Nat := none
  deriving DecidableEq, Repr

/-- A frame candidate of a slice (R62) or a leaf carrier (R151): its byte position, confirmations, last MFAS or MFI. -/
structure FCand where
  pos : Nat
  conf : Nat
  cnt : Nat
  deriving DecidableEq, Repr

/-- The receive side of one OTUC slice (R62, R73, R76). -/
structure Slice where
  fas : Flt := {}
  fasCands : List FCand := []
  fasPos : Nat := 0
  mfas : Flt := {}
  mfasNext : Nat := 0
  iae : Flt := {}
  fidG : Acc := {}
  fidI : Acc := {}
  fidM : Acc := {}
  pt : Acc := {}
  msi : List (Nat × Acc) := []
  pmBei : Nat := 0
  deriving DecidableEq, Repr

/-- Received overhead of one PM entity (R76, R83, R84): the SM or PM of a port, an ODU path or a TCM position. `bei`: BIP-8
violations of its last frame. -/
structure Oh where
  stat : Acc := {}
  bdi : Flt := {}
  biae : Flt := {}
  ttiBuf : List Byte := []
  ttiCand : List Byte := []
  ttiRun : Nat := 0
  ttiAcc : List Byte := []
  chg : Nat := 0
  bei : Nat := 0
  deriving DecidableEq, Repr

/-- The defects of one PM entity as bit masks, bit n for the n-th code of the entity's kind (R77, R152): `cur` as the
hardware has them now, `acc` active in any cycle of the frame in progress, `smp` the sample of the last frame and `old` that
of the frame before (R75). -/
structure Def where
  cur : Nat := 0
  acc : Nat := 0
  smp : Nat := 0
  old : Nat := 0
  deriving DecidableEq, Repr

/-- Failure timers of one defect of one entity (R80): frames present, frames absent, and whether the failure stands. -/
structure Fail where
  set : Nat := 0
  clr : Nat := 0
  up : Bool := false
  deriving DecidableEq, Repr

/-- One performance second, one direction pair (R90). -/
structure Sec where
  neEs : Bool
  neSes : Bool
  neBbe : Nat
  feEs : Bool
  feSes : Bool
  feBbe : Nat
  frames : Nat
  bin15 : Nat
  bin24 : Nat
  slips : Nat
  conflicts : Nat
  deriving DecidableEq, Repr

/-- One bin of one entity (R93, R97): the closure serial it will get, its first FN, its marks, the committed frames and the
eight counters with their SAT flags. -/
structure Bin where
  serial : Nat
  first : Nat
  marks : Nat
  frames : Nat
  cnt : List Nat
  sat : Nat
  deriving DecidableEq, Repr

/-- The PM accumulation of one entity (R90, R91, R95). `from_`: the elapsed frame its counting began in; `last…`, `prev…`: the counts
of the last frame and of the one before (R26, R252). -/
structure Pm where
  from_ : Nat := 0
  blk : Nat := 0
  err : Nat := 0
  ferr : Nat := 0
  lastBlk : Nat := 0
  lastErr : Nat := 0
  lastFerr : Nat := 0
  prevBlk : Nat := 0
  prevErr : Nat := 0
  prevFerr : Nat := 0
  fBlk : Nat := 0
  fErr : Nat := 0
  fFerr : Nat := 0
  neDef : Bool := false
  feDef : Bool := false
  discardNe : Bool := false
  discardFe : Bool := false
  slips : Nat := 0
  conflicts : Nat := 0
  secs : List Sec := []
  neAvail : Bool := true
  feAvail : Bool := true
  bins15 : List Bin := []
  bins24 : List Bin := []
  degBad : Nat := 0
  degGood : Nat := 0
  deriving DecidableEq, Repr

/-- A series of bins (R48, R93): the serial of the open bin, its first FN, its marks, the bins that closed and wait for
their record (serial, elapsed frame of closing), and the day shift in force. -/
structure Series where
  serial : Nat := 0
  first : Nat := 0
  marks : Nat := 0
  waiting : List (Nat × Nat) := []
  shift : Nat := 0
  deriving DecidableEq, Repr

/-- A PM or leaf PM read request (R98, R174): the elapsed frame it was written in, and once its boundary has come the snapshot taken there,
`some []` for an entity the image does not define. -/
structure RdReq where
  ent : Nat
  sel : Nat
  since : Nat
  shot : Option (List Byte)
  deriving DecidableEq, Repr

/-- A GCC channel of a port (R88): received bytes waiting, the frame the oldest came, and the bytes being sent. -/
structure Gcc where
  rx : List Byte := []
  since : Nat := 0
  tx : List Byte := []
  deriving DecidableEq, Repr

/-- A run of bytes of one ODU frame (R78, R79, R107): what it is, 0 - the client's ODU, 1 - ODU-AIS, 2 - ODU-LCK, 3 - ODU-OCI, 4 - a
frame in error (R123); the place of its first byte in the ODU frame; for a generated frame its MFAS and length, for the others their
bytes and MFAS. -/
structure Piece where
  kind : Nat := 0
  off : Nat := 0
  mfas : Nat := 0
  len : Nat := 0
  bytes : List Byte := []
  deriving DecidableEq, Repr

/-- A generator of whole maintenance ODU frames (R78, R79): the core cycle up to which it has sent, the place of its next byte in
the ODU frame, and that frame's MFAS. -/
structure Gen where
  upTo : Nat := 0
  off : Nat := 0
  mfas : Nat := 0
  deriving DecidableEq, Repr

/-- An ODU at its monitoring point (R76 to R79, R89, R107): GMP justification, APS capture at a level, with the values accepted last
and their core cycles, newest first (R26), replacement by ODU-AIS, what replaces it toward the trunk (0 - nothing, 1 - ODU-AIS,
2 - ODU-LCK), its generator, whether the ODU frame in reception is lost with the replacement that ended, and the bytes demapped
that the trunk has not taken yet. -/
structure Odu where
  jc : Flt := {}
  apsCand : List Byte := []
  apsRun : Nat := 0
  apsAcc : Option (List Byte) := none
  apsFirst : Bool := true
  apsLog : List (Nat × List Byte) := []
  aisIns : Bool := false
  rep : Nat := 0
  gen : Gen := {}
  skip : Bool := false
  rx : List Piece := []
  deriving DecidableEq, Repr

/-- The content of an object's core slots for one frame (R107): its valid bytes in order, FN[31:0]; `kind`: 0 - an ODU's bytes, 3 - nothing
(no carrier), 4 - in error: `alt` gives, for slots by their place in the object, the words they received in its stead (R123). -/
structure TrkFrame where
  kind : Nat := 3
  fnLo : Nat := 0
  body : List Piece := []
  alt : List (Nat × List Byte) := []
  deriving DecidableEq, Repr

/-- BIP-8 over the OPU of successive ODU frames of a stream: of the frame being sent, of the one before it and of the one before that, which
the frame carries (R86, R150). -/
structure OpuBip where
  cur : Byte := 0
  one : Byte := 0
  two : Byte := 0
  deriving DecidableEq, Repr

/-- The remapper of a line output (R79, R108, R109, R113, R114): the fill of its buffer in bytes off the hold, the two state words of its
rate filter, the bytes received and not yet sent, what it last sent (as `Piece.kind`; 3 before any source), its
generator, a recentring (1 - AIS is due from the next frame start, 2 - the ODU frame it covers is being sent), AIS until a frame start
after good entries (2 - until a frame with good entries has passed, 1 - until the next frame start), the parity of what it sends,
what it sent in the last frame, and the input object whose bytes it last sent. -/
structure Remap where
  fill : Int := 0
  f1 : Nat := 0
  f2 : Nat := 0
  buf : List Piece := []
  mode : Nat := 3
  gen : Gen := {}
  once : Nat := 0
  bad : Nat := 0
  bip : OpuBip := {}
  out : List Piece := []
  src : Option Nat := none
  deriving DecidableEq, Repr

/-- What a graft entry holds beside its registers (R126 to R131): the expected base digest, whether its own checks have
begun, and its result image once they have passed (the shadow copies). -/
structure GraftX where
  base : List Byte := []
  begun : Bool := false
  result : Option Image := none
  deriving DecidableEq, Repr

/-- An ingress leaf carrier and its elastic store (R145 to R156): frames by the instant their first AW byte arrived, and the
frame last released, each as its bytes by leaf position, its overhead bytes from 65,536 on; the instant its last alignment word arrived, as the timing unit takes it (R148); and the egress carrier of the same number: its MFI and BIP, the bytes its ODUflex has not sent yet, and that
ODUflex's parity (R145, R150). -/
structure Car where
  cands : List FCand := []
  lockPos : Nat := 0
  miss : Nat := 0
  mfiNext : Nat := 0
  mfi : Flt := {}
  starts : Nat := 0
  bipNext : Option Byte := none
  rei : Nat := 0
  trBuf : List Byte := []
  trCand : List Byte := []
  trRun : Nat := 0
  trAcc : List Byte := []
  trChg : Nat := 0
  fmt : Acc := {}
  stat : Acc := {}
  pt : Acc := {}
  bei : Nat := 0
  ql : Acc := {}
  qlOld : Option Nat := none
  qlAge : Nat := 0
  rdi : Flt := {}
  gcrc : Flt := {}
  store : List (Nat × List (Nat × Byte)) := []
  last : Nat × List (Nat × Byte) := (0, [])
  mfiTx : Nat := 0
  bipTx : Byte := 0
  awAt : Option Nat := none
  rdy : List Byte := []
  parTx : OpuBip := {}
  deriving DecidableEq, Repr

/-- A captured group status (R147): its value and FN of capture, the core cycle it was stored in, and value and FN before it (R26). -/
structure Gsc where
  st : Nat := 0
  fn : Nat := 0
  at_ : Nat := 0
  oldSt : Nat := 0
  oldFn : Nat := 0
  deriving DecidableEq, Repr

/-- One half of the leaf frame buffer (R154, R156): the carriers whose released frame was written, and their bytes by
ingress leaf (a byte not listed is 0); every other carrier was written as 0xFF. -/
structure LeafHalf where
  live : List Nat := []
  bytes : List (Nat × Byte) := []
  deriving DecidableEq, Repr

/-- A read pass (R163, R167): the half it reads, the image and the selector bits it uses, and, when it has ended, the slots
that take their idle code for a lost read or an errored map entry. -/
structure LeafPass where
  half : LeafHalf := {}
  img : Option Image := none
  sel : List (Nat × Bool) := []
  lost : List Nat := []
  deriving DecidableEq, Repr

/-- The duty state of a protection group (R180 to R191). `ms`: 0 - none, 1 - MS-P, 2 - MS-W. `newCmd`: the commands accepted
in this frame in order, `cmdIn` those that enter with the next evaluation (R185). Hold-offs and WTR name the elapsed frame in which they
end. `farSt`: the accepted leaf status, captured at FN `farFn` from leg `farSrc`; legs: 0 - none, 1 - working, 2 - protect. `dropped`: this
frame's evaluation was dropped (R194). `evald`, `was`: evaluated in this frame, in the frame before; `evalAt`: the elapsed frame of the
last evaluation, 0 before the first. `cmdLast`: the command accepted in the last frame (R252); `holdW`, `holdP`: a hold-off that a PUT to
PROT_STAT shows as running (R252). -/
structure Grp where
  sel : Bool := false
  bridge : Bool := false
  req : Nat := 0
  far : Bool := false
  sig : Bool := false
  lo : Bool := false
  fs : Bool := false
  ms : Nat := 0
  newCmd : List Nat := []
  cmdIn : List Nat := []
  sfw : Bool := false
  sfp : Bool := false
  sdw : Bool := false
  sdp : Bool := false
  hSfw : Option Nat := none
  hSfp : Option Nat := none
  hSdw : Option Nat := none
  hSdp : Option Nat := none
  wtr : Option Nat := none
  dnr : Bool := false
  fallback : Bool := false
  pm : Bool := false
  pmRun : Nat := 0
  nr : Bool := false
  nrRun : Nat := 0
  nrOk : Nat := 0
  fsl : Bool := false
  fslRun : Nat := 0
  src : Nat := 0
  farSt : Option Nat := none
  farFn : Nat := 0
  farSrc : Nat := 0
  tx : List Byte := []
  sw : Nat := 0
  evald : Bool := false
  dropped : Bool := false
  was : Bool := false
  evalAt : Nat := 0
  cmdLast : Nat := 0
  holdW : Bool := false
  holdP : Bool := false
  deriving DecidableEq, Repr

/-- A reference candidate beside its registers (R202, R203, R205, R211, R213): a signal fault now and in any cycle of the
frame, the last 800-frame average, the frames that average has lain inside the pull-in range, fault-free frames counted in
QUALIFYING or WTR, whether it has been USABLE since it was assigned, frames of agreement while DISPUTED, the accepted SSM,
the raw phase with the phase captured by the build-out, and the elapsed frame it last became USABLE in with the state it came from (R207). -/
structure Ref where
  sig : Bool := false
  sigAcc : Bool := false
  ofs800 : Int := 0
  freqIn : Nat := 0
  good : Nat := 0
  used : Bool := false
  agree : Nat := 0
  ssm : Acc := {}
  raw : Int := 0
  base : Int := 0
  freshAt : Nat := 0
  fresh : Nat := 0
  deriving DecidableEq, Repr

/-- The timing unit beside its registers (R210 to R220): the elapsed frame in which settling ends, runs of frames inside the
lock window and beyond the loss window, consecutive LOCKED frames, the output frequency of past frames as (0.001 ppb, frames)
runs, oldest first, the last samples of the loop's frequency and phase error, the loop bandwidth in force in mHz (R212), the frame PPS_OUT
rose in, and the values on the TIM_STATE and REF_ACT pins. -/
structure Tim where
  settleEnd : Option Nat := none
  lockRun : Nat := 0
  badRun : Nat := 0
  lockedFor : Nat := 0
  hist : List (Int × Nat) := []
  freq : Int := 0
  phaseErr : Int := 0
  bw : Nat := 0
  ppsHigh : Option Nat := none
  pinState : Nat := 0
  pinRef : Nat := 63
  alignDue : Bool := false
  tod : Option (Nat × List Byte) := none
  deriving DecidableEq, Repr

/-- What the egress frame of a carrier was formed from at offset 0 (R144, R150): its overhead, BEI and BDI, and what the carrier and its trunk
input held before it, so that an event of the same offset 0 can give it another QL byte (R206). -/
structure CarPre where
  c : Nat
  oh : List Byte
  tti : List Byte
  bei : Nat
  bdi : Bool
  car : Car
  rx : List Piece
  gen : Gen
  deriving DecidableEq, Repr

/-- A valid-looking TOD_IN message waiting for its PPS edge (R222): when its last stop bit ended, in core cycles since the
clock started, and its bytes. -/
structure TodRx where
  at_ : Nat
  bytes : List Byte
  deriving DecidableEq, Repr

/-- A marker candidate of a Nirrin lane (R228): position, confirmations, last FN. -/
structure NCand where
  pos : Nat
  conf : Nat
  fn : Nat
  deriving DecidableEq, Repr

/-- A Nirrin receive lane (R228): candidates, lock position, errored markers in a row, the round trip from its last echo in
core cycles, the instant its last marker came, and what it echoes: FN of that marker, the FN and offset it arrived at. -/
structure NLane where
  cands : List NCand := []
  lockPos : Nat := 0
  miss : Nat := 0
  rtt : Option Nat := none
  rxAt : Nat := 0
  echoFn : Nat := 0
  echoRx : Nat := 0
  echoOfs : Nat := 0
  deriving DecidableEq, Repr

/-- The parts of the last applied mirror that R140 asks for (R230, R235): its FN, and state, target FN and result digest of
the 16 graft entries. -/
structure MirrorSeen where
  fn : Nat
  entries : List (Nat × Nat × List Byte)
  deriving DecidableEq, Repr

/-- An outstanding Grinus REQUEST (R237): its SEQ, the FN and the elapsed frame it was sent in, and the epoch it named. -/
structure ReqOut where
  seq : Nat
  fn : Nat
  sent : Nat
  epoch : Nat
  deriving DecidableEq, Repr

/-- The mate unit beside its registers (R226 to R243): the epoch held (0 - none) and the lease length D, the next SEQ, the
outstanding REQUESTs, the elapsed frame of the last one, whether the first REQUEST of HOLDING is due, the elapsed frame of E,
what the next offset 0 does (a GRANT, a LEASE_EXPIRED, a RELEASE), the epoch whose RELEASE_ACK is awaited, the elapsed frame
of the last applied mirror and the run of applied ones, runs of bad and good link frames, the peer role and when it came,
mirror pieces by number with their FN[7:0], the whole mirror of the frame before, fallback chunks of capture `chunkFn`, the
FALLBACK frames that wait to be sent and the core cycle at which the ARB port is free (R236), the running digest that the last whole mirror
carried (R140), the applied mirror's parts, the health word's memories, the group under a loopback test, when the last test began and of which group
(R242), the active unit's output rank, the receive lanes; and of a lock onto the active unit
(R209): the FN it has for the frame in progress, the core cycles still to slew, and the offset at which that frame is cut. -/
structure Mate where
  held : Nat := 0
  len : Nat := 0
  seq : Nat := 0
  out : List ReqOut := []
  lastReq : Option Nat := none
  reqNow : Bool := false
  lease : Option Nat := none
  toActive : Bool := false
  toHold : Bool := false
  toDiv : Bool := false
  relEpoch : Option Nat := none
  mirAt : Nat := 0
  hitRun : Nat := 0
  badRun : Nat := 0
  goodRun : Nat := 0
  peerAt : Option Nat := none
  peerRole : Nat := 0
  pieces : List (Nat × (Nat × List Byte)) := []
  mirror : Option (List Byte) := none
  chunks : List (Nat × List Byte) := []
  chunkFn : Nat := 0
  fbTx : List (List Byte) := []
  arbFree : Nat := 0
  peerDig : List Byte := []
  fbAt : Option Nat := none
  seen : Option MirrorSeen := none
  shadowAt : Option Nat := none
  uncorAt : Option Nat := none
  lockstepAt : Option Nat := none
  loopBad : List Nat := []
  loopOn : Option Nat := none
  loopAt : Option Nat := none
  loopLast : Nat := 63
  imgBad : Bool := false
  rank : Nat := 15
  lanes : List (Nat × NLane) := []
  newFn : Option Nat := none
  slew : Int := 0
  cut : Option Nat := none
  deriving DecidableEq, Repr

/-- What an engine register holds in one state of the hazard rules (R248, R259): its value, the engine cycle from which the
value may be used, and whether it is poisoned. -/
structure EVal where
  val : Dword := 0
  ready : Nat := 0
  poison : Bool := false
  deriving DecidableEq, Repr

/-- An engine value register or predicate (R248): what it holds, the engine cycle of its last write, and what it held at the
start of that cycle. -/
structure EReg where
  now : EVal := {}
  wrAt : Option Nat := none
  was : EVal := {}
  deriving DecidableEq, Repr

/-- Engine ports used in an engine cycle (R248), and the state word this cycle wrote with its value before. -/
structure Ports where
  cycle : Nat := 0
  rd : Nat := 0
  wr : Nat := 0
  get : Nat := 0
  put : Nat := 0
  wrote : Option (Nat × Dword) := none
  deriving DecidableEq, Repr

/-- A record held back until the commit (R253): the engine whose duty posted it, destination kind (R252), index and bytes. -/
structure Posted where
  eng : Nat
  kind : Nat
  index : Nat
  bytes : List Byte
  deriving DecidableEq, Repr

/-- A canopy engine beside its registers (R246 to R262). `smem`: state memory; `chk`: the supervisor's checkpoint; `dirty`:
the state words written in this frame; `postFree`: the engine cycle the next POST may issue in; `acts`: slots of this frame
counted so far; `live`: it runs a program in this frame; `due`: a spare takes over at the next boundary; `test`, `testAt`:
the working engine a spare is compared with and when the test began (R242). -/
structure Eng where
  v : List (Nat × EReg) := []
  p : List (Nat × EReg) := []
  smem : List (Nat × Dword) := []
  chk : List (Nat × Dword) := []
  dirty : List Nat := []
  ports : Ports := {}
  postFree : Nat := 0
  postUsed : Nat := 0
  busUsed : List (Nat × Nat) := []
  acts : Nat := 0
  live : Bool := false
  due : Bool := false
  test : Nat := 0
  testAt : Option Nat := none
  deriving DecidableEq, Repr

/-- A state-bus word under way (R26): when it arrives (core cycles since the clock started), its destination quadrant,
destination kind, index and value. -/
structure BusWord where
  due : Nat
  quad : Nat
  kind : Nat
  index : Nat
  value : Dword
  deriving DecidableEq, Repr

/-- A DMA descriptor (R308). -/
structure Desc where
  at_ : Nat
  host : Nat
  int : Nat
  op : Nat
  irq : Bool
  eor : Bool
  queue : Nat
  len : Nat
  next : Nat
  deriving DecidableEq, Repr

/-- An outstanding read request to host memory (R311): its instant, the bytes still to come, and whether they are wanted. -/
structure HostRd where
  at_ : Nat
  left : Nat
  live : Bool
  deriving DecidableEq, Repr

/-- A DMA channel beside its registers (R307 to R316): the descriptor in progress, bytes delivered, bytes in the buffer,
outstanding reads in the order they were sent, a descriptor fetch (address and instant), the code the descriptor is to end
with, the beats used in this frame, whether it won the slot before, and whether a run ended under this descriptor. -/
structure Chan where
  desc : Option Desc := none
  moved : Nat := 0
  buf : List Byte := []
  reads : List HostRd := []
  fetching : Option (Nat × Nat) := none
  code : Option Nat := none
  used : Nat := 0
  won : Bool := false
  ranOut : Bool := false
  deriving DecidableEq, Repr

/-- A record queue (R314 to R316): records in the ring, the ring positions of the oldest record and of the next one, bytes
of the oldest record already read (or of the next one already written), the frames its records were posted in, and
whether its run was begun by HI or by FLUSH. -/
structure Que where
  fill : Nat := 0
  rd : Nat := 0
  wr : Nat := 0
  part : Nat := 0
  stamps : List Nat := []
  runHi : Bool := false
  runFl : Bool := false
  hold : Bool := false
  deriving DecidableEq, Repr

/-- A pending native power request (R331): operation, domain, immediate, target FN, the elapsed frame it was accepted in, and
whether it has acted. -/
structure PwrReq where
  op : Nat
  dom : Nat
  immed : Bool
  at_ : Nat
  since : Nat
  acted : Bool
  deriving DecidableEq, Repr

/-- A legacy power request that waits for the next offset 0, or whose rise or drain runs (R333). -/
structure LegReq where
  dom : Nat
  on : Bool
  since : Nat
  acted : Bool
  deriving DecidableEq, Repr

/-- A capture in progress (R325): a leaf carrier or a trunk core slot, the frames still to copy, and the elapsed frame it was
ordered in. -/
structure Capture where
  leaf : Bool
  index : Nat
  left : Nat
  since : Nat
  deriving DecidableEq, Repr

/-- What follows the tag in a lane superframe (R59): the 10-bit RS symbols of two OTUC slices in turn, 557,056 of each, beginning with
the first, each from the first bit of a FlexO multiframe; or PRBS31 from a start state, restarted at each tag. -/
inductive LaneBody where
  | symbols (a b : Nat)
  | prbs31 (start : Nat)
  deriving DecidableEq, Repr

/-- A message, word or chain the block sent out, oldest first in `State.sent`. -/
inductive Sent where
  /-- MSI-X message of a vector (R299): the address and data of its table entry. -/
  | msix (vector addr data : Nat)
  /-- A host request that hits no BAR completes as Unsupported Request (R295). -/
  | unsupported (write : Bool)
  /-- Host write of a DMA channel: host address and bytes (R310). -/
  | hostWrite (addr : Nat) (bytes : List Byte)
  /-- Read request to host memory: address and length (R307, R311). -/
  | hostRead (ch addr len : Nat)
  /-- A Grinus frame's bytes (R236). -/
  | grinus (bytes : List Byte)
  /-- A TOD_OUT message (R223). -/
  | todOut (bytes : List Byte)
  /-- A lane superframe: its tag (R60) and what follows it (R59). -/
  | laneTag (g lane : Nat) (bytes : List Byte) (body : LaneBody)
  /-- A mirror block on a Nirrin lane (R227, R230): its data bytes, header and piece. -/
  | nirrin (lane block : Nat) (bytes : List Byte)
  /-- Idle blocks on a Nirrin lane (R227), `first` to `last`: TYPE 0, block number, lane, FN[7:0], then 0. -/
  | nirrinIdle (lane first last fn : Nat)
  /-- A Nirrin marker of a lane (R227): data bytes 0 to 37; the rest are 0. -/
  | marker (lane : Nat) (bytes : List Byte)
  /-- Overhead generated for a PM entity: BDI, BEI, BIAE, STAT, BIP-8, then the transmitted TTI (R74, R86, R150). -/
  | oh (ent : Nat) (bytes : List Byte)
  /-- The section fields of an OTUC slice in a superframe: FAS, the MFAS of its first OTUC frame, IAE (R74); GCC0 to GCC2 of every instance
  but the first are 0, as is overhead that R73 does not name. -/
  | otuc (slice : Nat) (fas : List Byte) (mfas : Nat) (iae : Bool)
  /-- The FlexO overhead of a slice in a superframe: group and instance identification and instance map, under a good CRC, after the
  alignment markers of its multiframe; the communication and the synchronisation channel are 0 (R57). -/
  | flexo (slice group inst map comm sync : Nat)
  /-- The PSI of a slice of a port: payload type, and per tributary slot the ODU type and tributary port, or none for an unallocated slot,
  whose payload is 0 (R104). -/
  | psi (slice pt : Nat) (msi : List (Option (Nat × Nat)))
  /-- The justification control of an egress ODU: Cm (R108). -/
  | jc (odu cm : Nat)
  /-- A GCC channel is sent as 0x7E (R88). -/
  | gccFill (port ch : Nat)
  /-- GCC bytes handed to the inserter of a port channel (R88). -/
  | gcc (port ch : Nat) (bytes : List Byte)
  /-- APS bytes handed to the inserter of an ODU level (R187). -/
  | aps (odu level : Nat) (bytes : List Byte)
  /-- Overhead of the egress leaf carrier frame of a carrier (R144, R150). -/
  | leafOh (carrier : Nat) (bytes : List Byte)
  /-- An SMBus word (R348): the target address, the bytes in the order they are sent, and the PEC that a reader may clock out after them. -/
  | smbus (target : Nat) (bytes : List Byte) (pec : Nat)
  /-- A value shifted out of the test access port (R325). -/
  | tap (value : Nat)
  /-- The reply of a debug access: data and status (R325). -/
  | cda (data : Word) (status : Nat)
  deriving DecidableEq, Repr

/-- Pins whose level is kept state (the rest follow from registers; Machine/Module.lean). -/
structure Pins where
  powerGood : Bool := true
  resetN : Bool := false
  alert : Bool := false
  trip : Bool := false
  ppsOut : Bool := false
  deriving DecidableEq, Repr

/-- Debug and test access (R325 to R327): the selected instruction, an open session, a held debug access, the status of the last one, the
capture in progress, the capture buffer with the place of its next frame, and how the boundary pins are driven: 1 - EXTEST,
2 - CLAMP, 3 - HIGHZ. -/
structure Dbg where
  ir : Nat := 0x01
  sess : Bool := false
  held : Option (Bool × Nat × Word) := none
  heldAt : Nat := 0
  status : Nat := 0
  cap : Option Capture := none
  capBuf : List (Nat × Byte) := []
  capPos : Nat := 0
  drive : Nat := 0
  deriving DecidableEq, Repr

/-- Telemetry samples (R347, R348): die temperatures in 1/16 degree, rail currents in 0.1 A, power in 0.1 W. -/
structure Telem where
  temps : List Int := []
  currents : List Nat := []
  power : Nat := 0
  deriving DecidableEq, Repr

/-- The boot sequence beside BOOT_STAT (R283 to R290): slots still to try, the slot in hand, the image that has passed its
checks, the elapsed frame ALIGN_WAIT began and the one step 8 ended in, whether R38's alignment was made and the core cycles
it cut off, whether the image comes from the host load area, failed read-backs of the zeroisation step, an ordered reset (its
instant and cause), and whether power came up since the last reset ended. -/
structure Boot where
  cands : List Nat := []
  slot : Nat := 0
  loading : Option Image := none
  alignFrom : Nat := 0
  relDue : Option Nat := none
  aligned : Bool := false
  cut : Nat := 0
  host : Bool := false
  zTries : Nat := 0
  resetDue : Option (Nat × Nat) := none
  powered : Bool := true
  deriving DecidableEq, Repr

/-- The whole state. `freeCount` is the model's own: how many free values have been drawn (Config). -/
structure State where
  pending : List Instr := []
  fuses : Fuses := {}
  pins : Pins := {}
  clk : Bool := false
  ofs : Nat := 0
  fn : Fn := 0
  elapsed : Nat := 0
  regs : List (Nat × Word) := []
  snap : List (Nat × Word) := []
  mem : List Host.Cell := []
  nvm0 : Nor := {}
  nvm1 : Nor := {}
  boot : Boot := {}
  flash : Option FlashJob := none
  img : Option Image := none
  back : Option Image := none
  stepAt : Fn := 0
  stepNew : Fn := 0
  stepCyc : Int := 0
  slewMoved : Nat := 0
  ppsAge : Nat := 0
  ppsBad : Nat := 0
  tods : List TodRx := []
  hostQ : List HostReq := []
  hostResp : List Word := []
  hostPos : Nat := 0
  hostAcc : List Nat := []
  hostSince : Nat := 0
  xbHold : List (Nat × Nat) := []
  xbLast : List (Nat × Nat) := []
  msix : List (Nat × Word) := []
  msixPend : List Nat := []
  msixOn : Bool := true
  msixMask : Bool := false
  elsRun : List (Nat × (Nat × Nat)) := []
  lanes : List (Nat × Lane) := []
  spares : List (Nat × Spare) := []
  txSf : List (Nat × Nat) := []
  mateMods : List (Nat × Nat) := []
  txDark : List Nat := []
  txDarkWas : List Nat := []
  elsIn : List Nat := []
  elsCh : Nat := 0
  slices : List (Nat × Slice) := []
  oh : List (Nat × Oh) := []
  defs : List (Nat × Def) := []
  fails : List (Nat × Fail) := []
  downSeen : List Nat := []
  smpDue : Bool := false
  failSet : Nat := 20000
  failClr : Nat := 80000
  odus : List (Nat × Odu) := []
  gcc : List (Nat × Gcc) := []
  pm : List (Nat × Pm) := []
  s15 : Series := {}
  s24 : Series := {}
  pmReq : Option RdReq := none
  leafReq : Option RdReq := none
  secStart : Nat := 0
  selW : List (Nat × Bool) := []
  selF : List (Nat × Bool) := []
  lselW : List (Nat × Bool) := []
  lselF : List (Nat × Bool) := []
  selOld : List (Nat × Bool) := []
  lselOld : List (Nat × Bool) := []
  trkOut : List (Nat × TrkFrame) := []
  trkAis : List Nat := []
  trkErr : List (Nat × Nat) := []
  remaps : List (Nat × Remap) := []
  lckRx : List Nat := []
  lckTx : List Nat := []
  injectSw : List (Nat × Nat) := []
  grafts : List (Nat × GraftX) := []
  drainDue : List Nat := []
  cars : List (Nat × Car) := []
  leafW : LeafHalf := {}
  leafR : LeafHalf := {}
  leafRd : LeafPass := {}
  leafTx : LeafPass := {}
  carPre : List CarPre := []
  gais : List (Nat × Flt) := []
  gscRx : List (Nat × Gsc) := []
  gscTx : List (Nat × Nat) := []
  groups : List (Nat × Grp) := []
  groupsChk : List (Nat × Grp) := []
  apsTx : List (Nat × (Nat × List Byte)) := []
  switchWas : Bool := false
  newObjs : List Nat := []
  refs : List (Nat × Ref) := []
  tim : Tim := {}
  mate : Mate := {}
  engs : List (Nat × Eng) := []
  bus : List BusWord := []
  held : List Posted := []
  failBack : List (Nat × Nat × Fail) := []
  tdDue : Bool := false
  pmonSel : List (Nat × Word) := []
  pmonOld : List (Nat × Word) := []
  pmonFrozen : Bool := false
  pmonWas : Bool := false
  pmonDue : Bool := false
  chans : List (Nat × Chan) := []
  beatAt : Option Nat := none
  ques : List (Nat × Que) := []
  pwr : Option PwrReq := none
  legs : List LegReq := []
  domAt : List (Nat × Nat) := []
  quiet : Bool := false
  lcDue : Option (Bool × Nat) := none
  dbg : Dbg := {}
  telem : Telem := {}
  freeCount : Nat := 0
  sent : List Sent := []
  deriving DecidableEq, Repr

/-- Why the block stops. No command of the hardware stops it: every command of the table has an effect or changes nothing. The one fault
is kept for a command whose operands name no object of the hardware (R8: such an index addresses nothing). -/
inductive Fault where
  /-- Raised by `checked` (Machine/Ops.lean) for a command that is not well-formed (Sys2Proof/WellFormed.lean). SAFE: the model stops
  where no event of the hardware can occur. -/
  | noSuchObject
  deriving DecidableEq, Repr

/-- Why a command has no meaning. -/
inductive Refusal where
  /-- The command of this mnemonic has no meaning yet: raised by an arm of `exec` only. Safe. -/
  | notModelled (mnemonic : String)
  deriving DecidableEq, Repr

/-- The block right after reset: RESET_N still low with PWR_GOOD high, every register at its reset value, nothing pending
(log entries 4 and 5 name the values the spec does not give). -/
def State.reset : State := {}

end Sys2Proof.Machine
end

