-- ==== Sys2Proof/Machine/Operands.lean ====
section
/-! DEFINITION. Operand forms: object handles (R9), presence of units (R1 to R3), index relations (R8, R15, R18), PM entity
numbers (R92), FN arithmetic (R32), and the places of CSR blocks and internal targets (R300 to R302). -/

namespace Sys2Proof.Machine

/-- The kind of an object handle (R9): 1 port, 2 ODU, 3 leaf group, 4 protection group, 5 queue, 6 reference, 7 engine. -/
def hKind (h : Nat) : Nat := bits h 28 4

/-- The index of an object handle (R9). -/
def hIdx (h : Nat) : Nat := bits h 0 28

/-- The handle of a kind and index (R9). -/
def handle (kind idx : Nat) : Nat := kind * 268435456 + idx

/-- A handle of a reserved kind, which the device rejects wherever it is presented (R9). -/
def hReserved (h : Nat) : Bool := hKind h == 0 || decide (7 < hKind h)

/-- Quadrant `q` is present (R1). -/
def Fuses.quad (f : Fuses) (q : Nat) : Bool := bitAt f.quads q

/-- Port group `g` is present (R1, R8). -/
def Fuses.group (f : Fuses) (g : Nat) : Bool := decide (g < 64) && f.quad (g / 16)

/-- OTUC slice `v` is present (R1). -/
def Fuses.slice (f : Fuses) (v : Nat) : Bool := decide (v < 2048) && f.quad (v / 512)

/-- Leaf carrier `c` is present (R2). -/
def Fuses.carrier (f : Fuses) (c : Nat) : Bool := f.leaf && decide (c < 512)

/-- Core slot `t` is present (R1, R2). -/
def Fuses.slot (f : Fuses) (t : Nat) : Bool := if t < 40960 then f.quad (t / 10240) else f.carrier (t - 40960)

/-- The quadrant of an engine (R8). -/
def engQuad (e : Nat) : Nat := if e < 64 then e / 16 else e - 64

/-- Engine `e` is present (R1). -/
def Fuses.eng (f : Fuses) (e : Nat) : Bool := decide (e < 68) && f.quad (engQuad e)

/-- Power domain `d` belongs to a present unit (R1 to R3, R329). -/
def Fuses.dom (f : Fuses) (d : Nat) : Bool :=
  if d < 64 then f.group d else if d = 64 then f.leaf else if d = 65 then f.mate else d == 66

/-- Trunk time switch `w` is present; 71 and 95 stay present with a leaf stage (R1). -/
def Fuses.sw (f : Fuses) (w : Nat) : Bool := decide (w < 96) && (f.quad (w / 24) || (f.leaf && (w == 71 || w == 95)))

/-- Reference candidate `c` is present (R2, R3, R8). -/
def Fuses.cand (f : Fuses) (c : Nat) : Bool :=
  if c < 8 then true else if c < 40 then f.leaf else if c = 40 then f.mate else false

/-- The fused TOP_CAP (R5, R294). -/
def Fuses.cap (f : Fuses) : Nat :=
  f.quads % 16 + 16 * nat01 f.leaf + 32 * nat01 f.mate + 64 * (f.variant % 4) + 256 * 48

/-- Global lane number (R8). -/
def laneIdx (g l : Nat) : Nat := 17 * g + l

/-- The time switch and position of a core slot (R18). -/
def slotPlace (t : Nat) : Nat × Nat :=
  if t < 40960 then (24 * (t / 10240) + t % 10240 / 432, t % 10240 % 432)
  else (24 * ((t - 40960) / 128) + 23, 304 + (t - 40960) % 128)

/-- The core slot at a position of a time switch (R18). -/
def placeSlot (w p : Nat) : Nat :=
  if w % 24 < 23 then 10240 * (w / 24) + 432 * (w % 24) + p
  else if p < 304 then 10240 * (w / 24) + 9936 + p
  else 40960 + 128 * (w / 24) + (p - 304)

/-- The quadrant that holds a core slot (R8, R18). -/
def slotQuad (t : Nat) : Nat := if t < 40960 then t / 10240 else (t - 40960) / 128

/-- A PM entity (R92). -/
inductive PmEnt where
  | otuc (slice : Nat)
  | port (idx : Nat)
  | odu (idx : Nat)
  | tcm (idx m : Nat)
  | none
  deriving DecidableEq, Repr

/-- The entity of a PM entity number (R92). -/
def pmEnt (e : Nat) : PmEnt :=
  let g := e / 4096
  let l := e % 4096
  if 64 ≤ g then .none
  else if l < 32 then .otuc (32 * g + l)
  else if l < 40 then .port (8 * g + (l - 32))
  else if l < 64 then .none
  else if l < 704 then .odu (640 * g + (l - 64))
  else if l < 1024 then .none
  else if l < 2944 then .tcm (640 * g + (l - 1024) % 640) ((l - 1024) / 640)
  else .none

/-- PM entity number of an OTUC slice (R92). -/
def entOtuc (v : Nat) : Nat := v / 32 * 4096 + v % 32
/-- PM entity number of a port (R92). -/
def entPort (i : Nat) : Nat := i / 8 * 4096 + 32 + i % 8
/-- PM entity number of an ODU path (R92). -/
def entOdu (i : Nat) : Nat := i / 640 * 4096 + 64 + i % 640
/-- PM entity number of TCM position `m` of an ODU (R92). -/
def entTcm (i m : Nat) : Nat := i / 640 * 4096 + 1024 + 640 * m + i % 640

/-- (x − f) modulo 2^48 (R32). -/
def fnDiff (x f : Nat) : Nat := (x + 2 ^ 48 - f % 2 ^ 48) % 2 ^ 48

/-- FN `x` lies ahead of `f` (R32). -/
def fnAhead (x f : Nat) : Bool := decide (1 ≤ fnDiff x f) && decide (fnDiff x f < 2 ^ 47)

/-- FN `x` lies at least `n` frames ahead of `f` (R32). -/
def fnAtLeast (x f n : Nat) : Bool := fnAhead x f && decide (n ≤ fnDiff x f)

/-- FN `f` + `n` (R32). -/
def fnPlus (f n : Nat) : Nat := (f + n) % 2 ^ 48

/-- The number of a CSR block in XBAR_BLK_EVT (R301, R318). -/
def blkOf (a : Nat) : Nat :=
  if a < 0xB00000 then a / 0x100000
  else if a < 0x2000000 then 11
  else if a < 0x3000000 then 12
  else if a < 0x4000000 then 13
  else if a < 0x8000000 then 14
  else 15

/-- The power domain of a CSR block, or none for always-on ones (R301). -/
def csrDom (a : Nat) : Option Nat :=
  if 0x600000 ≤ a && a < 0x700000 then some 65
  else if 0x1000000 ≤ a && a < 0x1400000 then some ((a - 0x1000000) / 0x10000)
  else if 0x3000000 ≤ a && a < 0x4000000 then some 64
  else none

/-- Blocks that answer before BUILD ends (R297): TOP, BOOT, XBAR, DMA, LC, PWR. -/
def csrEarly (a : Nat) : Bool := decide (a < 0x400000) || (decide (0x700000 ≤ a) && decide (a < 0x900000))

/-- The unit kinds of the PMON catalogue (R267). -/
inductive PmonUnit where
  | none
  | eng
  | quad
  | sw
  | car
  | lane
  | port
  | slice
  | chan
  | queue
  | reserved
  deriving DecidableEq, Repr

/-- The unit kind of an event code; `reserved` for codes outside the catalogue (R267). -/
def pmonUnit (ev : Nat) : PmonUnit :=
  if ev ≤ 1 then .none
  else if 0x10 ≤ ev && ev ≤ 0x18 then .eng
  else if 0x20 ≤ ev && ev ≤ 0x23 then .quad
  else if ev = 0x40 then .sw
  else if ev = 0x41 then .quad
  else if 0x42 ≤ ev && ev ≤ 0x44 then .none
  else if ev = 0x60 then .car
  else if ev = 0x61 || ev = 0x62 then .none
  else if ev = 0x63 then .car
  else if 0x80 ≤ ev && ev ≤ 0x82 then .lane
  else if ev = 0x83 then .port
  else if ev = 0x90 then .slice
  else if 0xA0 ≤ ev && ev ≤ 0xA2 then .chan
  else if ev = 0xB0 then .queue
  else if ev = 0xC0 || ev = 0xC1 || ev = 0xD0 || ev = 0xE0 || ev = 0xE1 || ev = 0xF0 || ev = 0xF1 then .none
  else .reserved

/-- Unit `u` of a kind is present (R264). -/
def Fuses.pmonHas (f : Fuses) (k : PmonUnit) (u : Nat) : Bool :=
  match k with
  | .none => true
  | .eng => f.eng u
  | .quad => decide (u < 4) && f.quad u
  | .sw => f.sw u
  | .car => f.carrier u
  | .lane => decide (u < 1088) && f.group (u / 17)
  | .port => decide (u < 512) && f.group (u / 8)
  | .slice => f.slice u
  | .chan => decide (u < 64)
  | .queue => decide (u < 4096)
  | .reserved => false

end Sys2Proof.Machine
end

