-- ==== Sys2Proof/Machine/Flags.lean ====
section
/-! DEFINITION. Flags of the register file: stored registers and their fields, event bits (R11), 64-bit pairs with their
WRAP flags (R12), result registers with VALID and SEQ, and persistency filters (R76). -/

namespace Sys2Proof.Machine

/-- The stored value of the register at CSR offset `a`. -/
def State.rd (s : State) (a : Nat) : Nat := (Tab.get regReset s.regs a).toNat

/-- Store `v` in the register at CSR offset `a`. -/
def State.wr (s : State) (a v : Nat) : State := { s with regs := Tab.set regReset s.regs a (BitVec.ofNat 32 v) }

/-- A field of a stored register. -/
def State.fld (s : State) (a : Nat) (f : Fld) : Nat := bits (s.rd a) f.lo f.width

/-- A one-bit field of a stored register. -/
def State.flag (s : State) (a : Nat) (f : Fld) : Bool := bitAt (s.rd a) f.lo

/-- `v` with field `f` made `x`. -/
def putField (v : Nat) (f : Fld) (x : Nat) : Nat :=
  v - bits v f.lo f.width * 2 ^ f.lo + x % 2 ^ f.width * 2 ^ f.lo

/-- Store `x` in a field of a register. -/
def State.setFld (s : State) (a : Nat) (f : Fld) (x : Nat) : State := s.wr a (putField (s.rd a) f x)

/-- Store a bit in a field of a register. -/
def State.setFlag (s : State) (a : Nat) (f : Fld) (b : Bool) : State := s.setFld a f (nat01 b)

/-- Bit `i` of a register. -/
def State.bit (s : State) (a i : Nat) : Bool := bitAt (s.rd a) i

/-- Store bit `i` of a register. -/
def State.putBit (s : State) (a i : Nat) (b : Bool) : State := s.wr a (Machine.putBit (s.rd a) i b)

/-- Latch an event bit, a field of an event register (W1C, R11). -/
def State.evt (s : State) (a : Nat) (f : Fld) : State := s.putBit a f.lo true

/-- Latch bit `i` of a bit map of 32-bit words that starts at `a`. -/
def State.mapBit (s : State) (a i : Nat) : State := s.putBit (a + 4 * (i / 32)) (i % 32) true

/-- The stored 64-bit value of a pair, low word at `lo` (R12). -/
def State.rdPair (s : State) (lo : Nat) : Nat := s.rd lo + 4294967296 * s.rd (lo + 4)

/-- Store a 64-bit value in a pair. -/
def State.wrPair (s : State) (lo v : Nat) : State := (s.wr lo (v % 4294967296)).wr (lo + 4) (v / 4294967296 % 4294967296)

/-- Add `n` to a 64-bit counter pair; on overflow it wraps and latches its WRAP bit. -/
def State.incPair (s : State) (lo wrapReg wrapBit n : Nat) : State :=
  let v := s.rdPair lo + n
  let s := s.wrPair lo v
  if 2 ^ 64 ≤ v then s.mapBit wrapReg wrapBit else s

/-- A result register holds a result that is not retired. -/
def State.valid (s : State) (a : Nat) : Bool := s.bit a 31

/-- A result register shows PENDING (R279). -/
def State.isPending (s : State) (a : Nat) : Bool := s.rd a % 256 == 1 && !s.valid a

/-- Write a result: VALID = 1, the next SEQ, the code and, in bits [15:8], the detail. -/
def State.putRes (s : State) (a code detail : Nat) : State :=
  s.wr a (code % 256 + 256 * (detail % 256) + 65536 * ((bits (s.rd a) 16 8 + 1) % 256) + 2147483648)

/-- Show a request in progress: VALID = 0, the previous SEQ, CODE = PENDING (R279, R291). -/
def State.pendRes (s : State) (a : Nat) : State := s.wr a (1 + 65536 * bits (s.rd a) 16 8)

/-- A write of `seq` to the ACK register of result register `a`: the matching SEQ retires the result, other values have no
effect. The retired register keeps its code and SEQ (DEDUCED, log entry 21). -/
def State.ackRes (s : State) (a seq : Nat) : State :=
  if s.valid a && bits (s.rd a) 16 8 == seq % 256 then s.putBit a 31 false else s

/-- Codes of R279. -/
def cOK : Nat := 0x00
def cPENDING : Nat := 0x01
def eCRC : Nat := 0x10
def eFORMAT : Nat := 0x11
def eVARIANT : Nat := 0x12
def eRESOURCE : Nat := 0x13
def eLATE : Nat := 0x14
def eBASE : Nat := 0x15
def eINUSE : Nat := 0x16
def eLIFE : Nat := 0x17

/-- Set-after, clear-after filter of one condition (R76, R62): `x` now, set after `m` in a row, cleared after `n`
without. -/
def Flt.feed (f : Flt) (m n : Nat) (x : Bool) : Flt :=
  if x then
    { on := f.on || decide (m ≤ f.ones + 1), ones := min (f.ones + 1) m, zeros := 0 }
  else
    { on := f.on && decide (f.zeros + 1 < n), ones := 0, zeros := min (f.zeros + 1) n }

/-- Acceptance filter (R76, R68): a value is accepted after `m` occurrences in a row. -/
def Acc.feed (a : Acc) (m v : Nat) : Acc :=
  let run := if a.run ≠ 0 && a.cand == v then min (a.run + 1) m else 1
  { cand := v, run := run, val := if m ≤ run then some v else a.val }

end Sys2Proof.Machine
end

