-- ==== Sys2Proof/Machine/Image.lean ====
section
/-! DEFINITION. Osbor images: the container, header, directory and sections (R270 to R275), the merge of a delta into its
base (R275), and the records the other files read out of an image. -/

namespace Sys2Proof.Machine

/-- Where content offset `x` lies in the container (R270). -/
def contPos (x : Nat) : Nat := x / 65532 * 65536 + x % 65532

/-- `n` bytes from address `a` of a byte source. -/
def readN (f : Nat → Byte) (a n : Nat) : List Byte := (List.range n).map fun i => f (a + i)

/-- `n` content bytes from content offset `x`; `f` reads the container. -/
def content (f : Nat → Byte) (x n : Nat) : List Byte := readN (fun i => f (contPos i)) x n

/-- Header field of `n` bytes at offset `o` (R271). -/
def hdr (f : Nat → Byte) (o n : Nat) : Nat := leNat (content f o n)

/-- HDR_CRC is good (R271). -/
def hdrCrcOk (f : Nat → Byte) : Bool := crc32c (content f 0 252) == hdr f 252 4

/-- The CRC of block `b` is good (R270). -/
def blockOk (f : Nat → Byte) (b : Nat) : Bool :=
  crc32c (readN f (b * 65536) 65532) == leNat (readN f (b * 65536 + 65532) 4)

/-- The first block of `n` whose CRC fails. -/
def badBlock (f : Nat → Byte) (n : Nat) : Option Nat := (List.range n).find? fun b => !blockOk f b

/-- The digest that R272 computes over the content. -/
def contentDigest (f : Nat → Byte) : List Byte :=
  sha256 ((List.range (hdr f 16 8)).map fun x =>
    if (64 ≤ x && x < 160) || (252 ≤ x && x < 256) then 0 else f (contPos x))

/-- A directory entry (R273). -/
structure DirEnt where
  ty : Nat
  op : Nat
  inst : Nat
  esize : Nat
  ofs : Nat
  len : Nat
  count : Nat
  tail : Nat
  deriving DecidableEq, Repr

/-- Directory entry `i` (R273). -/
def dirEnt (f : Nat → Byte) (i : Nat) : DirEnt :=
  let e := content f (hdr f 24 8 + 32 * i) 32
  { ty := leAt e 0 1, op := leAt e 1 1, inst := leAt e 2 2, esize := leAt e 4 4, ofs := leAt e 8 8,
    len := leAt e 16 8, count := leAt e 24 4, tail := leAt e 28 4 }

/-- The directory (R273). -/
def directory (f : Nat → Byte) : List DirEnt := (List.range (hdr f 32 4)).map (dirEnt f)

/-- The runs of PATCH data (R275), `fuel` of them at most, and whether they end exactly at its end and are well formed:
ascending, not overlapping, counts 1 to 2^25, reserved bytes 0. -/
def patchRuns (esize : Nat) : Nat → Nat → List Byte → List Run × Bool
  | 0, _, d => ([], d.isEmpty)
  | fuel + 1, from_, d =>
    if d.isEmpty then ([], true)
    else
      let first := leAt d 0 4
      let count := leAt d 4 4
      let kind := leAt d 8 1
      let n := (if kind = 1 then 1 else count) * esize
      let body := d.drop 16
      let good := decide (16 ≤ d.length) && decide (from_ ≤ first) && decide (1 ≤ count) && decide (count ≤ 33554432)
        && decide (kind ≤ 1) && decide (leAt d 9 7 = 0) && decide (n ≤ body.length)
      if good then
        let r := patchRuns esize fuel (first + count) (body.drop n)
        (⟨first, count, kind == 1, body.take n⟩ :: r.1, r.2)
      else ([], false)

/-- The runs of a section and whether its data has the form its OP asks (R273, R275). -/
def sectionRuns (f : Nat → Byte) (d : DirEnt) : List Run × Bool :=
  let data := content f d.ofs d.len
  if d.op = 0 then ([⟨0, d.count, false, data⟩], decide (d.len = d.count * d.esize))
  else patchRuns d.esize (d.len + 1) 0 data

/-- A section from its directory entry. -/
def mkSection (f : Nat → Byte) (d : DirEnt) : Section :=
  { ty := d.ty, inst := d.inst, patch := d.op == 1, esize := d.esize, count := d.count, runs := (sectionRuns f d).1, pos := d.ofs }

/-- The image in a container. -/
def readImage (f : Nat → Byte) : Image :=
  { kind := hdr f 6 1, required := hdr f 8 4, blocks := hdr f 12 4, gtag := hdr f 36 4, digest := content f 64 32,
    base := content f 96 32, result := content f 128 32, sections := (directory f).map (mkSection f) }

/-- The bytes of entry `i` of a section: the last run that names it; 0 where none does (R275). -/
def Section.entry (s : Section) (i : Nat) : List Byte :=
  match s.runs.reverse.find? (fun r => decide (r.first ≤ i) && decide (i < r.first + r.count)) with
  | some r => slice r.data (if r.fill then 0 else (i - r.first) * s.esize) s.esize
  | none => List.replicate s.esize 0

/-- Every entry of a section, in index order. -/
def Section.entries (s : Section) : List (List Byte) := (List.range s.count).map s.entry

/-- The section of a type and instance. -/
def Image.find (m : Image) (ty inst : Nat) : Option Section :=
  m.sections.find? fun s => s.ty == ty && s.inst == inst

/-- Entry `i` of a section, where the image defines it. -/
def Image.entry? (m : Image) (ty inst i : Nat) : Option (List Byte) :=
  match m.find ty inst with
  | some s => if i < s.count then some (s.entry i) else none
  | none => none

/-- Entry `i` of a section, all zeros where the image does not define it. -/
def Image.entry (m : Image) (ty inst i : Nat) : List Byte := (m.entry? ty inst i).getD []

/-- Every entry of a type and instance. -/
def Image.rows (m : Image) (ty inst : Nat) : List (List Byte) :=
  match m.find ty inst with
  | some s => s.entries
  | none => []

/-- Order of the directory (R273). -/
def Section.before (a b : Section) : Bool := decide (a.ty < b.ty) || (a.ty == b.ty && decide (a.inst < b.inst))

/-- Put a section into a sorted list, replacing the one of its type and instance. -/
def putSection (x : Section) : List Section → List Section
  | [] => [x]
  | y :: r => if x.before y then x :: y :: r else if y.before x then y :: putSection x r else x :: r

/-- The result of a delta over its base (R275): a REPLACE section stands in place of the base's, a PATCH section changes
the entries it names. -/
def mergeImage (base delta : Image) : Image :=
  { base with
    digest := delta.result, result := delta.result, required := delta.required, gtag := delta.gtag,
    sections := delta.sections.foldl (fun l x =>
      if x.ty = 0x21 then l
      else
        match base.find x.ty x.inst with
        | some b => putSection (if x.patch then { x with runs := b.runs ++ x.runs, patch := false } else x) l
        | none => putSection x l) base.sections }

/-- Section types (R274). -/
def secGLOBAL : Nat := 0x00
def secHBM : Nat := 0x01
def secHOSTWIN : Nat := 0x02
def secTRUNKOUT : Nat := 0x03
def secING : Nat := 0x04
def secMID : Nat := 0x05
def secEGR : Nat := 0x06
def secCYCLE : Nat := 0x07
def secLAT : Nat := 0x08
def secPORT : Nat := 0x09
def secODU : Nat := 0x0A
def secTSMAP : Nat := 0x0B
def secOH : Nat := 0x0C
def secLEAFCAR : Nat := 0x0D
def secLEAFGROUP : Nat := 0x0E
def secLEAFMAP : Nat := 0x0F
def secSREC : Nat := 0x10
def secDEF : Nat := 0x11
def secREFMAP : Nat := 0x12
def secPROT : Nat := 0x13
def secPROG : Nat := 0x14
def secSRC : Nat := 0x15
def secDST : Nat := 0x16
def secDUTY : Nat := 0x17
def secRSV : Nat := 0x18
def secINIT : Nat := 0x19
def secOWN : Nat := 0x1A
def secQUEUE : Nat := 0x1B
def secTIM : Nat := 0x1C
def secTIMREF : Nat := 0x1D
def secXBAR : Nat := 0x1E
def secPOWER : Nat := 0x1F
def secROOT : Nat := 0x20
def secHITS : Nat := 0x21

/-- A low-order ODU the image defines (R16, R274). -/
structure OduDef where
  idx : Nat
  ty : Nat
  k : Nat
  rate : Nat
  tpn : Nat
  deriving DecidableEq, Repr

/-- An ODU entry read from its bytes. -/
def oduDef (e : List Byte) : OduDef :=
  { idx := leAt e 0 4 % 268435456, ty := leAt e 4 1, k := leAt e 6 2, rate := leAt e 8 4, tpn := leAt e 12 2 }

/-- Every ODU of the image. -/
def Image.odus (m : Image) : List OduDef := (m.rows secODU 0).map oduDef

/-- The ODU of handle index `i`. -/
def Image.odu? (m : Image) (i : Nat) : Option OduDef := m.odus.find? (·.idx == i)

/-- A port the image defines (R15): group, port number, width in lanes, first lane. -/
structure PortDef where
  g : Nat
  p : Nat
  width : Nat
  first : Nat
  deriving DecidableEq, Repr

/-- Port `p` of group `g`, where the image defines it (R15; width code of PG_PORT_CFG: 2, 4, 8 or 16 lanes). -/
def Image.port? (m : Image) (g p : Nat) : Option PortDef :=
  match m.entry? secPORT g p with
  | some e => if leAt e 0 1 = 1 then some ⟨g, p, 2 ^ (leAt e 1 1 + 1), leAt e 2 1⟩ else none
  | none => none

/-- Every port of the image. -/
def Image.ports (m : Image) : List PortDef :=
  (List.range 64).flatMap fun g => (List.range 8).filterMap (m.port? g)

/-- First OTUC slice of a port (R15). -/
def PortDef.slice0 (x : PortDef) : Nat := 32 * x.g + 2 * x.first

/-- The OTUC slices of a port (R15). -/
def PortDef.slices (x : PortDef) : List Nat := (List.range (2 * x.width)).map (· + x.slice0)

/-- Handle index of a port (R15). -/
def PortDef.idx (x : PortDef) : Nat := 8 * x.g + x.p

/-- The port that owns OTUC slice `v`. -/
def Image.portOfSlice (m : Image) (v : Nat) : Option PortDef :=
  ((List.range 8).filterMap (m.port? (v / 32))).find? fun x => x.slices.contains v

/-- The handle of the ODU in tributary slot `t` (TS_MAP, R274), 0 when free. -/
def Image.slotOdu (m : Image) (t : Nat) : Nat := leAt (m.entry secTSMAP (t / 640) (t % 640)) 0 4

/-- The tributary slots of the ODU of handle index `i` (R16). -/
def Image.oduSlots (m : Image) (i : Nat) : List Nat :=
  ((List.range 640).map (· + i / 640 * 640)).filter fun t => m.slotOdu t == 0x20000000 + i

/-- The port an ODU lies on. -/
def Image.portOfOdu (m : Image) (i : Nat) : Option PortDef := m.portOfSlice (i / 20)

/-- A trunk output record (R101, R274): output, sources, H, kind, initial selector bit. -/
structure OutDef where
  out : Nat
  a : Nat
  b : Nat
  hasB : Bool
  h : Nat
  kind : Nat
  init : Bool
  deriving DecidableEq, Repr

/-- A TRUNK_OUT entry read from its bytes; handle indices are core slots (R101). -/
def outDef (e : List Byte) : OutDef :=
  { out := leAt e 0 4 % 268435456, a := leAt e 4 4 % 268435456, b := leAt e 8 4 % 268435456, hasB := leAt e 8 4 != 0,
    h := leAt e 12 2, kind := leAt e 14 1, init := bitAt (leAt e 15 1) 0 }

/-- Every trunk output of the image. -/
def Image.outs (m : Image) : List OutDef := (m.rows secTRUNKOUT 0).map outDef

/-- The trunk output record of output `o`. -/
def Image.out? (m : Image) (o : Nat) : Option OutDef := m.outs.find? (·.out == o)

/-- A protection group the image defines (R176, R274). -/
structure ProtDef where
  idx : Nat
  ty : Nat
  bidir : Bool
  rev : Bool
  snci : Bool
  level : Nat
  w : Nat
  p : Nat
  sel : Nat
  bridge : Nat
  hold : Nat
  wtr : Nat
  deriving DecidableEq, Repr

/-- A PROT entry read from its bytes. -/
def protDef (e : List Byte) : ProtDef :=
  { idx := leAt e 0 4 % 268435456, ty := leAt e 4 1, bidir := bitAt (leAt e 5 1) 0, rev := bitAt (leAt e 5 1) 1,
    snci := bitAt (leAt e 5 1) 2, level := leAt e 6 1, w := leAt e 8 4, p := leAt e 12 4, sel := leAt e 16 2,
    bridge := leAt e 18 2, hold := leAt e 20 4, wtr := leAt e 24 4 }

/-- Every protection group of the image. -/
def Image.prots (m : Image) : List ProtDef := (m.rows secPROT 0).map protDef

/-- The protection group of index `i`. -/
def Image.prot? (m : Image) (i : Nat) : Option ProtDef := m.prots.find? (·.idx == i)

/-- The owner engine of a handle (R21, R276). -/
def Image.owner? (m : Image) (handle : Nat) : Option Nat :=
  match (m.rows secOWN 0).find? (fun e => leAt e 0 4 == handle) with
  | some e => some (leAt e 4 1)
  | none => none

/-- GLOBAL field of `n` bytes at offset `o` (R274). -/
def Image.global (m : Image) (o n : Nat) : Nat := leAt (m.entry secGLOBAL 0 0) o n

/-- Base and length of an HBM region (R278), 0 and 0 when the image has none. -/
def Image.region (m : Image) (code : Nat) : Nat × Nat :=
  match (m.rows secHBM 0).find? (fun e => leAt e 0 2 == code) with
  | some e => (leAt e 2 6, leAt e 8 8)
  | none => (0, 0)

end Sys2Proof.Machine
end

