-- ==== Sys2Proof/WellFormed.lean ====
section
/-! DEFINITION. Well-formed commands: every operand names an object the hardware has or fits the field that carries it (R8, R18, R92,
R250, R302, R319, R325). A command that is not well-formed is no event of this hardware. -/

namespace Sys2Proof

/-- A reserved opcode (R251). -/
def opReserved (op : Nat) : Bool :=
  decide (op < 64) && !(decide (op < 0x14) || (decide (0x18 ≤ op) && decide (op < 0x1C)) || (decide (0x20 ≤ op) && decide (op < 0x23)) || op == 0x30)

/-- An action's engine, slot, word index, predicate and finding (R246, R250, R254, R258). -/
def Act.ok (a : Act) : Bool :=
  decide (a.eng < 68) && decide (a.slot < 400000) && decide (a.k < 131072) && decide (a.pred < 16) && decide (a.mem < 4)
    && (a.raw == 0 || opReserved a.raw)

/-- Register or predicate operands. -/
def regsOk (l : List Nat) : Bool := l.all fun x => decide (x < 16)

/-- A lane of a port group. -/
def laneOk (g l : Nat) : Bool := decide (g < 64) && decide (l < 17)

/-- The bit field of EXT and INS (R251). -/
def fieldOk (lsb wm1 : Nat) : Bool := decide (lsb + wm1 < 64)

/-- The samples of a frame name objects that exist. -/
def FrameInput.ok (x : FrameInput) : Bool :=
  (x.els.all fun e => decide (e.1 < 72)) && (x.refs.all fun e => decide (e.1 < 41)) && (x.oduf.all fun e => decide (e.carrier < 512))
    && (x.lanePwr.all fun e => laneOk e.1 e.2.1) && (x.prbs.all fun e => decide (e.1 < 64))
    && (x.patrolUnc.all fun e => decide (e.1 < 4)) && (x.demap.all fun e => decide (e.1 < 40960)) && (x.mapErr.all fun n => decide (n < 33554432))

/-- A host request of whole dwords (R298). -/
def HostReq.ok (r : HostReq) : Bool := r.offset % 4 == 0 && r.lanes.length % 4 == 0 && decide (0 < r.lanes.length)

/-- A CSR offset of a register. -/
def csrOk (a : Nat) : Bool := a % 4 == 0 && decide (a < 0x10000000)

/-- The operands of a command name objects that exist. -/
def Instr.wf : Instr → Bool
  | .registerWrite addr _ => csrOk addr
  | .pairLowRead addr => csrOk addr
  | .oddWidthAccess addr _ _ => decide (addr < 0x10000000)
  | .defaultTargetAccess addr _ => decide (addr < 0x10000000000)
  | .hostRequest r => r.ok
  | .hostAccessBegin master => decide (master < 8)
  | .burstGrant target others => decide (target < 5) && others.all fun x => decide (x.1 < 8)
  | .hostPortReset => true
  | .blkMaskWrite _ => true
  | .powerGoodRise => true
  | .powerGoodFall => true
  | .resetAssert => true
  | .resetRelease => true
  | .coreClockStable => true
  | .alignWaitTimeout => true
  | .dataPlaneRelease => true
  | .frameBoundary inp => inp.ok
  | .elsStateChange fibre => decide (fibre < 72)
  | .mateLaserMove lane biasOk => decide (lane < 8) && biasOk.all fun f => decide (f < 8)
  | .stateBusDelivery => true
  | .ppsEdge => true
  | .ppsLoss => true
  | .todInMessage _ => true
  | .capture => true
  | .arm => true
  | .cancelStep => true
  | .stepAck seq => decide (seq < 256)
  | .relabel => true
  | .stepApplied => true
  | .bin15MinuteStart => true
  | .bin24HourStart => true
  | .pmClosureWrite => true
  | .laneSuperframeSend g lane => laneOk g lane
  | .laneTagReceive g lane _ => laneOk g lane
  | .spareAction g => decide (g < 64)
  | .laneLightLoss g lane => laneOk g lane
  | .laneDegraded g lane => laneOk g lane
  | .spareTimeout g => decide (g < 64)
  | .spareVerifyEnd g _ => decide (g < 64)
  | .autoRequestPauseEnd g => decide (g < 64)
  | .spareRequest g lane => decide (g < 64) && decide (lane < 16)
  | .spareRelease g lane => decide (g < 64) && decide (lane < 16)
  | .txBridge g lane => decide (g < 64) && decide (lane < 16)
  | .txUnbridge g lane => decide (g < 64) && decide (lane < 16)
  | .spareAck g seq => decide (g < 64) && decide (seq < 256)
  | .otucFrameReceive slice rx => decide (slice < 2048) && decide (rx.lane < 17)
  | .oduFrameReceive odu _ => decide (odu < 40960)
  | .oduAisInsert odu => decide (odu < 40960)
  | .oduAisRemove odu => decide (odu < 40960)
  | .failureRaise ent code => decide (ent < 0x10000000) && decide (code < 256)
  | .failureClear ent code => decide (ent < 0x10000000) && decide (code < 256)
  | .gccFlush port ch => decide (port < 512) && decide (ch < 3)
  | .gccTxRecord port ch => decide (port < 512) && decide (ch < 3)
  | .pmSecondEnd => true
  | .pmRdReq ent k => decide (ent < 262144) && decide (k < 4)
  | .pmSnapshot => true
  | .pmResAck seq => decide (seq < 256)
  | .remapRecentre output => decide (output < 41472)
  | .inject sw => decide (sw < 128)
  | .testWordCheck link unit p _ => decide (unit < if link then 4 else 96) && decide (p.1 < 42) && decide (p.2 < 432)
  | .middleCollision middle egress low high =>
    decide (middle < 864) && decide (egress < 96) && decide (low < 96) && decide (high < 96)
  | .claim => true
  | .commit entry => decide (entry < 16)
  | .cancel entry => decide (entry < 16)
  | .rollback => true
  | .graftCmdAck seq => decide (seq < 256)
  | .graftEAck entry seq => decide (entry < 16) && decide (seq < 256)
  | .graftValidationDone entry => decide (entry < 16)
  | .graftArm => true
  | .shadowReady => true
  | .graftApply _ => true
  | .graftDomainDrain => true
  | .leafCarrierFrame carrier rx =>
    decide (carrier < 512) && rx.oh.length == 1024 && rx.leaves.all fun x => decide (x.1 < 65536)
  | .dqlcClear carrier => decide (carrier < 512)
  | .leafPmReq ent k => decide (ent < 131072) && decide (k < 4)
  | .leafPmSnapshot => true
  | .leafPmAck seq => decide (seq < 256)
  | .lo group => decide (group < 65536)
  | .fs group => decide (group < 65536)
  | .msP group => decide (group < 65536)
  | .msW group => decide (group < 65536)
  | .clear group => decide (group < 65536)
  | .protCmdAck seq => decide (seq < 256)
  | .protEvaluation group => decide (group < 65536)
  | .holdOffEnd group _ _ => decide (group < 65536)
  | .wtrExpiry group => decide (group < 65536)
  | .dfopNr group => decide (group < 65536)
  | .dfsl group => decide (group < 65536)
  | .qualified cand => decide (cand < 41)
  | .candidateWtrEnd cand => decide (cand < 41)
  | .frequencyFaultClear cand => decide (cand < 41)
  | .refSignalFault cand => decide (cand < 41)
  | .disputeRelease cand => decide (cand < 41)
  | .settlingEnd => true
  | .locked => true
  | .lockLoss => true
  | .ssmMessage cand code => decide (cand < 41) && decide (code ≤ 16)
  | .ppsOutRise => true
  | .ppsOutFall => true
  | .todOutMessage => true
  | .forceHoWrite _ => true
  | .lockoutWrite m _ => decide (m < 2)
  | .nirrinMarker lane _ => decide (lane < 8)
  | .nirrinBlock lane _ _ => decide (lane < 8)
  | .mirrorSnapshot => true
  | .mirrorApply => true
  | .fallbackApply => true
  | .mirrorLoss => true
  | .linkDown => true
  | .linkUp => true
  | .request => true
  | .grant _ => true
  | .deny _ => true
  | .releaseAck _ => true
  | .fallback _ => true
  | .grinusFrameError => true
  | .replyTimeout => true
  | .leaseExpiry => true
  | .holdExpiry => true
  | .release => true
  | .mateCmdAck seq => decide (seq < 256)
  | .loopbackTest g _ _ => decide (g < 64)
  | .lockstepTest q _ => decide (q < 4)
  | .watchdogExpiry => true
  | .nop a => a.ok
  | .add a x y z => a.ok && regsOk [x, y, z]
  | .sub a x y z => a.ok && regsOk [x, y, z]
  | .and a x y z => a.ok && regsOk [x, y, z]
  | .or a x y z => a.ok && regsOk [x, y, z]
  | .xor a x y z => a.ok && regsOk [x, y, z]
  | .shl a x y z => a.ok && regsOk [x, y, z]
  | .shr a x y z => a.ok && regsOk [x, y, z]
  | .minu a x y z => a.ok && regsOk [x, y, z]
  | .maxu a x y z => a.ok && regsOk [x, y, z]
  | .satadd32 a x y z => a.ok && regsOk [x, y, z]
  | .addi a x y _ => a.ok && regsOk [x, y]
  | .movi a x _ => a.ok && regsOk [x]
  | .ext a x y lsb wm1 => a.ok && regsOk [x, y] && fieldOk lsb wm1
  | .ins a x y lsb wm1 => a.ok && regsOk [x, y] && fieldOk lsb wm1
  | .sel a x y z p => a.ok && regsOk [x, y, z, p]
  | .cmp a p y z cond => a.ok && regsOk [p, y, z, cond]
  | .cmpi a p y cond _ => a.ok && regsOk [p, y, cond]
  | .pset a p q r f _ => a.ok && regsOk [p, q, r] && decide (f < 4)
  | .testb a p y bit => a.ok && regsOk [p, y] && decide (bit < 64)
  | .ld a x addr ecc => a.ok && regsOk [x] && decide (addr < 65536) && decide (ecc < 3)
  | .st a x addr => a.ok && regsOk [x] && decide (addr < 65536)
  | .cntdn a p addr ecc => a.ok && regsOk [p] && decide (addr < 65536) && decide (ecc < 3)
  | .cntup a p addr ecc => a.ok && regsOk [p] && decide (addr < 65536) && decide (ecc < 3)
  | .get a x entry => a.ok && regsOk [x] && decide (entry < 65536)
  | .put a x entry => a.ok && regsOk [x] && decide (entry < 65536)
  | .post a x n entry => a.ok && decide (1 ≤ n) && decide (n ≤ 4) && decide (x + 2 * n ≤ 16) && decide (entry < 65536)
  | .mark a x => a.ok && regsOk [x]
  | .engineCommit failed => failed.all fun x => decide (x.1 < 68)
  | .spareTakeover q => decide (q < 4)
  | .takeover eng => decide (eng < 128)
  | .engCmdAck seq => decide (seq < 256)
  | .snap => true
  | .tdCapture => true
  | .engTdAck seq => decide (seq < 256)
  | .pmonSelWrite n _ => decide (n < 256)
  | .pmonSourceChange n => decide (n < 256)
  | .freeze _ => true
  | .pmonSnap => true
  | .pmonSnapshot => true
  | .pmonSnapAck seq => decide (seq < 256)
  | .confirm => true
  | .loadHost => true
  | .bootCmdAck seq => decide (seq < 256)
  | .read dev => decide (dev < 2)
  | .program dev => decide (dev < 2)
  | .erase dev => decide (dev < 2)
  | .flashCommandDone _ => true
  | .bootFlAck seq => decide (seq < 256)
  | .topRstCmd _ => true
  | .deviceReset cause => decide (cause < 8)
  | .go ch => decide (ch < 64)
  | .stop ch => decide (ch < 64)
  | .reset ch => decide (ch < 64)
  | .dmaChAck ch seq => decide (ch < 64) && decide (seq < 256)
  | .dmaConfigWrite ch reg _ => decide (ch < 64) && decide (reg < 64)
  | .descriptorFetch ch bytes error => decide (ch < 64) && (error || bytes.length == 32)
  | .dmaBeat => true
  | .descriptorEnd ch => decide (ch < 64)
  | .targetTimeout ch => decide (ch < 64)
  | .queueRunStart q => decide (q < 4096)
  | .lcBlank key => decide (key < 256)
  | .lcDevelop key => decide (key < 256)
  | .lcDeploy key => decide (key < 256)
  | .lcReturn key => decide (key < 256)
  | .returnReset => true
  | .lcAck seq => decide (seq < 256)
  | .pwrOn d _ => decide (d < 128)
  | .pwrOff d _ => decide (d < 128)
  | .quiet _ => true
  | .wake _ => true
  | .pwrRequestAct => true
  | .domainOn d => decide (d < 67)
  | .domainIsolate d => decide (d < 67)
  | .drainTimeout d => decide (d < 67)
  | .pwrAck seq => decide (seq < 256)
  | .pwrLegOn m _ => decide (m < 3)
  | .pwrLegOff m _ => decide (m < 3)
  | .cdaRead addr => decide (addr < 0x10000000000)
  | .cdaWrite addr _ => decide (addr < 0x10000000000)
  | .cdaCapture leaf index frames => decide (index < if leaf then 512 else 41472) && decide (1 ≤ frames) && decide (frames ≤ 16)
  | .debugSessionClose => true
  | .bypass => true
  | .idcode => true
  | .samplePreload => true
  | .extest => true
  | .clamp => true
  | .highz => true
  | .maker code => decide (0x30 ≤ code) && decide (code ≤ 0x3F)
  | .thermalSample _ _ _ _ _ currents _ => currents.length == 9
  | .smbReadWord command => decide (command < 256)
  | .laneLightReturn g lane => laneOk g lane
  | .refSignalReturn cand => decide (cand < 41)
  | .arbSync _ => true
  | .hostLinkUp speed width => decide (1 ≤ speed) && decide (speed ≤ 5) && (width == 1 || width == 2 || width == 4)
  | .peerHealthTimeout => true
  | .hostReadCompletion ch _ _ => decide (ch < 64)
  | .cdaAccess => true

end Sys2Proof
end

