-- ==== Sys2Proof/Machine/Ops.lean ====
section
/-! DEFINITION. The named operations over memory, registers and queues that the meanings share. -/

namespace Sys2Proof.Machine

/-- The current FN as a number (R32). -/
def State.fnN (s : State) : Nat := s.fn.toNat

/-- Core cycles since the clock became stable (R34). -/
def State.now (s : State) : Nat := s.elapsed * 200000 + s.ofs

/-- A state word written in core cycle `t` can be read (R26): within the quadrant (`near`) in the cycle after, across the state bus after
2,400 cycles, and in the cycle of its arrival not yet. -/
def State.seenAt (s : State) (near : Bool) (t : Nat) : Bool := decide (t + (if near then 0 else Config.busCycles) < s.now)

/-- The data plane is released (R288). -/
def State.released (s : State) : Bool := s.flag Reg.FT_STAT F.FT_STAT_DP_RELEASED

/-- RESET holds (R328, R347): RESET_N or PWR_GOOD low, or a thermal trip. -/
def State.inReset (s : State) : Bool := !s.pins.resetN || !s.pins.powerGood || s.pins.trip

/-- BOOT_STAT.STEP (R285). -/
def State.bootStep (s : State) : Nat := s.fld Reg.BOOT_STAT F.BOOT_STAT_STEP

/-- Append a message the block sends. -/
def State.send (s : State) (x : Sent) : State := { s with sent := s.sent ++ [x] }

/-- Advance the counter of free values (Config). -/
def State.drawn (s : State) : State := { s with freeCount := s.freeCount + 1 }

/-! Memory (R300). -/

/-- What a byte of memory that nothing has written reads as (log entry 3). -/
def memDefault : Nat → Byte := fun _ => 0

/-- What an erased flash byte reads as (R281). -/
def norDefault : Nat → Byte := fun _ => 0xFF

/-- TOP_CTRL.REMAP (R286). -/
def State.remap (s : State) : Bool := s.flag Reg.TOP_CTRL F.TOP_CTRL_REMAP

/-- Where internal address `a` lies in `State.mem`: working memory by its permanent alias, HBM by its own address; none
for ROM, CSR space and the default target (R300). -/
def State.memKey (s : State) (a : Nat) : Option Nat :=
  if a < Config.wmemBytes then (if s.remap then some (Config.wmemBase + a) else none)
  else if Config.wmemBase ≤ a && a < Config.wmemBase + Config.wmemBytes then some a
  else if Config.hbmBase ≤ a && a < Config.hbmBase + Config.hbmBytes then some a
  else none

/-- Internal address `a` reaches the boot ROM (R286, R300). -/
def State.isRom (s : State) (a : Nat) : Bool := decide (a < Config.romBytes) && !s.remap

/-- Read a byte of memory by its key. -/
def State.memAt (s : State) (k : Nat) : Byte := Tab.get memDefault s.mem k

/-- Write bytes of memory from key `k` upward, keeping the canonical form. -/
def State.memPut (s : State) (k : Nat) (l : List Byte) : State := { s with mem := Tab.setRange memDefault s.mem k l }

/-- Read `n` bytes of memory from key `k` upward. -/
def State.memGet (s : State) (k n : Nat) : List Byte := Tab.getRange memDefault s.mem k n

/-- Make memory from `lo` below `hi` read as zero. -/
def State.memZero (s : State) (lo hi : Nat) : State := { s with mem := Tab.dropRange s.mem lo hi }

/-- One byte at an internal address of memory or ROM; the default target reads 0 (R304). -/
def State.intByte (s : State) (a : Nat) : Byte :=
  match s.memKey a with
  | some k => s.memAt k
  | none => if s.isRom a then Config.romByte a else 0

/-- Write one byte at an internal address of memory; ROM and the default target discard it (R300, R304). -/
def State.intPut (s : State) (a : Nat) (b : Byte) : State :=
  match s.memKey a with
  | some k => s.memPut k [b]
  | none => s

/-- A dword in CSR space. -/
def inCsr (a : Nat) : Bool := decide (Config.csrBase ≤ a) && decide (a < Config.csrBase + Config.csrBytes)

/-- The crossbar target of an internal address: 0 default, 1 ROM and working memory, 2 CSR space, 3 and 4 the HBM
controllers, 4 KiB pages in turn (R300, R302; which stack holds page 0: DESIGN CHOICE, log entry 22). -/
def State.target (s : State) (a : Nat) : Nat :=
  if Config.csrBase ≤ a && a < Config.csrBase + Config.csrBytes then 2
  else if Config.hbmBase ≤ a && a < Config.hbmBase + Config.hbmBytes then 3 + a / 4096 % 2
  else if (s.memKey a).isSome || s.isRom a then 1
  else 0

/-- The NOR devices. -/
def State.nor (s : State) (dev : Nat) : Nor := if dev = 0 then s.nvm0 else s.nvm1

/-- Replace a NOR device. -/
def State.setNor (s : State) (dev : Nat) (n : Nor) : State := if dev = 0 then { s with nvm0 := n } else { s with nvm1 := n }

/-- A byte of a NOR device (R281). -/
def Nor.byteAt (n : Nor) (a : Nat) : Byte := Tab.get norDefault n.cells a

/-- Program bytes: NOR programming only clears bits (R291). -/
def Nor.program (n : Nor) (a : Nat) (l : List Byte) : Nor :=
  { n with cells := Tab.setRange norDefault n.cells a (List.zipWith (· &&& ·) (Tab.getRange norDefault n.cells a l.length) l) }

/-- Erase a range (R291). -/
def Nor.erase (n : Nor) (a len : Nat) : Nor := { n with cells := Tab.dropRange n.cells a (a + len) }

/-! Blocks and domains. -/

/-- Power domain `d` is ON (R329). -/
def State.domOn (s : State) (d : Nat) : Bool := s.fld (Reg.PWR_DOM_STAT d) F.PWR_DOM_STAT_STATE == 2

/-- The image has been built: boot step 6 has ended and the device is not in NO_IMAGE or a host load (R297). -/
def State.built (s : State) : Bool := decide (6 ≤ s.bootStep) && decide (s.bootStep ≤ 8)

/-- HBM and working memory answer: boot step 3 has ended (R297). -/
def State.memUp (s : State) : Bool := !s.inReset && decide (3 ≤ s.bootStep)

/-- The unit behind a CSR offset is present (R1 to R3, R5). -/
def State.csrPresent (s : State) (a : Nat) : Bool :=
  match csrDom a with
  | some d => s.fuses.dom d
  | none => if 0x8000000 ≤ a && a < 0xC400000 then s.fuses.eng ((a - 0x8000000) / 0x100000) else true

/-- The block of CSR offset `a` answers (R5, R297, R301, R346). -/
def State.csrUp (s : State) (a : Nat) : Bool :=
  !s.inReset && s.csrPresent a && (csrEarly a || s.built) &&
    (match csrDom a with
     | some d => s.domOn d
     | none => true)

/-- An engine's read-only state-memory window (R268): engine and word, for a CSR offset. -/
def engWindow (a : Nat) : Option (Nat × Nat) :=
  if 0x8000000 ≤ a && a < 0xC400000 && 0x80000 ≤ a % 0x100000 then
    some ((a - 0x8000000) / 0x100000, (a % 0x100000 - 0x80000) / 8) else none

/-- The MSI-X table and pending-bit array (R299, R318): word number in the table, or in the array after 1,000. -/
def msixWindow (a : Nat) : Option Nat :=
  if 0x210000 ≤ a && a < 0x210000 + 16 * 65 then some ((a - 0x210000) / 4)
  else if 0x211000 ≤ a && a < 0x21100C then some (1000 + (a - 0x211000) / 4)
  else none

/-- A CSR access at offset `a` is served by its block and not by the default target (R301). -/
def State.csrAnswers (s : State) (a : Nat) : Bool :=
  s.csrUp a && ((regRow a).isSome || (engWindow a).isSome || (msixWindow a).isSome)

/-- What a write of `w` leaves in a register of value `v`: RW fields take the written bits, W1C bits written as 1 clear, RO and
reserved bits stay (R11, R13). -/
def RegRow.write (r : RegRow) (v w : Word) : Word :=
  let rw := BitVec.ofNat 32 r.rw
  ((v &&& ~~~(BitVec.ofNat 32 r.w1c &&& w)) &&& ~~~rw) ||| (w &&& rw)

/-- A plain register write (R11). -/
def regWrite (s : State) (a : Nat) (w : Word) : State :=
  match regRow a with
  | some r => { s with regs := Tab.set regReset s.regs a (r.write (Tab.get regReset s.regs a) w) }
  | none => s

/-! Counters (R264 to R267). -/

/-- PMON source word `w` of a counter selects event `ev` of unit `u` (R264). -/
def pmonHit (w ev u : Nat) : Bool :=
  bitAt w 23 && bits w 0 10 == ev && (bitAt w 22 || pmonUnit ev == .none || bits w 10 12 == u)

/-- Add `n` occurrences of an event of a unit to the PMON counters that select it, unless they are frozen. In the boundary cycle
(`bnd`) a counter that has just changed its source still counts the old one, into the value it left in PMON_LAST (R33, R265). -/
def State.countIf (s : State) (frozen bnd : Bool) (ev u n : Nat) : State :=
  if frozen || n = 0 || !s.fuses.pmonHas (pmonUnit ev) u then s
  else
    let old := if bnd then s.pmonOld else []
    let s := s.pmonSel.foldl (fun s kw =>
      if decide (kw.1 < 256) && !old.any (·.1 == kw.1) && pmonHit kw.2.toNat ev u then
        s.incPair (Reg.PMON_CNT_LO kw.1) (Reg.PMON_WRAP 0) kw.1 n
      else s) s
    old.foldl (fun s kw =>
      if decide (kw.1 < 256) && pmonHit kw.2.toNat ev u then s.incPair (Reg.PMON_LAST_LO kw.1) (Reg.PMON_WRAP 0) kw.1 n else s) s

/-- Count an event now: FREEZE and a new source govern from offset 1, so the boundary cycle counts as the frame before did (R33,
R265, R266). -/
def State.count (s : State) (ev u n : Nat) : State :=
  s.countIf (if s.ofs = 0 then s.pmonWas else s.pmonFrozen) (s.ofs == 0) ev u n

/-- An access served by the default target (R304): only XBAR_DEFAULT counts it. -/
def State.defaultTarget (s : State) : State := s.count 0xC1 0 1

/-! MSI-X (R299). -/

/-- What an MSI-X table word reads as before software writes it: vector control masked (log entry 15). -/
def msixDefault (k : Nat) : Word := if k % 4 = 3 then 1 else 0

/-- A word of the MSI-X table. -/
def State.msixAt (s : State) (k : Nat) : Nat := (Tab.get msixDefault s.msix k).toNat

/-- The message of vector `v` goes out with the address and data of its table entry. -/
def State.msiSend (s : State) (v : Nat) : State := s.send (.msix v (s.msixAt (4 * v) + 4294967296 * s.msixAt (4 * v + 1)) (s.msixAt (4 * v + 2)))

/-- Send MSI-X message `v`, or make it pending while its vector or the function is masked; while MSI-X is not enabled there is none (PCI
Express; log entry 15). -/
def State.msi (s : State) (v : Nat) : State :=
  if !s.msixOn then s
  else if s.msixMask || bitAt (s.msixAt (4 * v + 3)) 0 then
    (if s.msixPend.contains v then s else { s with msixPend := s.msixPend ++ [v] })
  else s.msiSend v

/-- Write a word of the MSI-X table; unmasking a pending vector sends it. -/
def State.msixWrite (s : State) (k : Nat) (w : Word) : State :=
  let s := { s with msix := Tab.set msixDefault s.msix k w }
  let v := k / 4
  if k % 4 = 3 && !w.getLsbD 0 && s.msixOn && !s.msixMask && s.msixPend.contains v then
    { s with msixPend := s.msixPend.filter (· != v) }.msiSend v
  else s

/-- Bit `b` of XBAR_BLK_EVT: a W1C bit reads 1 in block `b` (R318). -/
def State.blkEvt (s : State) (b : Nat) : Bool :=
  s.regs.any fun e =>
    blkOf e.1 == b &&
      (match regRow e.1 with
       | some r => (e.2 &&& BitVec.ofNat 32 r.w1c) != 0
       | none => false)

/-- XBAR_BLK_EVT AND XBAR_BLK_MASK is not zero (R299). -/
def State.blkPending (s : State) : Bool :=
  (List.range 16).any fun b => s.bit Reg.XBAR_BLK_MASK b && s.blkEvt b

/-- Step 8 of the boot sequence ends in the cycle in which its wait is over: the alignment is made, INIT_ALIGN reads 0, or
ALIGN_WAIT is 0 (R287). -/
def alignSettle (s : State) : State :=
  let wait := match s.img with
    | some m => m.global 6 4
    | none => 0
  if s.bootStep = 7 && s.boot.relDue.isNone && (s.boot.aligned || !s.flag Reg.FT_CTRL F.FT_CTRL_INIT_ALIGN || wait == 0) then
    { s with boot := { s.boot with relDue := some s.elapsed } }
  else s

/-- The state a command leaves: `t` is what it made from `s`. A wait of boot step 8 that is over ends; vector 64 is sent when the masked
block event summary went from zero to non-zero (R299); the queue of waiting commands is the sender's and stays as it was. -/
def after (s t : State) : State :=
  let t := alignSettle t
  let t := if t.blkPending && !s.blkPending then t.msi 64 else t
  { t with pending := s.pending }

/-- The outcome of command `i`, which made `t` from `s`: a command whose operands name no object of the hardware is no event of it. -/
def checked (i : Instr) (s t : State) : Host.Outcome State Fault Refusal :=
  if i.wf then .next (after s t) else .fault .noSuchObject

/-! Queues (R314, R315, R356). -/

/-- A queue the image defines (R314). -/
structure QueDef where
  q : Nat
  fromHost : Bool
  units : Nat
  log2 : Nat
  chan : Nat
  base : Nat
  hi : Nat
  lo : Nat
  flush : Nat
  deriving DecidableEq, Repr

/-- A queue entry read from its bytes (R314). -/
def queDef (e : List Byte) : QueDef :=
  { q := leAt e 2 2, fromHost := leAt e 1 1 == 1, units := leAt e 4 1, log2 := leAt e 5 1, chan := leAt e 6 1,
    base := leAt e 8 8, hi := leAt e 16 4, lo := leAt e 20 4, flush := leAt e 24 4 }

/-- The queues of an image. -/
def Image.queues (m : Image) : List QueDef := ((m.rows secQUEUE 0).filter fun e => leAt e 0 1 == 1).map queDef

/-- The definition of queue `q`. -/
def Image.queue? (m : Image) (q : Nat) : Option QueDef := m.queues.find? (·.q == q)

/-- A channel entry (R314): priority, internal window base, reservation, window length in 64 KiB units. -/
structure ChanDef where
  c : Nat
  pri : Nat
  base : Nat
  rsv : Nat
  len : Nat
  deriving DecidableEq, Repr

/-- The channel entry of channel `c`. -/
def Image.chan? (m : Image) (c : Nat) : Option ChanDef :=
  match (m.rows secQUEUE 0).find? (fun e => leAt e 0 1 == 2 && leAt e 2 2 == c) with
  | some e => some ⟨c, leAt e 1 1, leAt e 8 8, leAt e 16 4, leAt e 20 4⟩
  | none => none

/-- The queue that serves a role (R356): roles 1 to 4 of a quadrant, 5, and 6 and 7 of a port channel. -/
def Image.role? (m : Image) (role quad chan port : Nat) : Option Nat :=
  match (m.rows secQUEUE 0).find? (fun e => leAt e 0 1 == 3 && leAt e 1 1 == role && leAt e 4 1 == quad
      && leAt e 5 1 == chan && leAt e 8 4 == port) with
  | some e => some (leAt e 2 2)
  | none => none

/-- What an unlisted queue holds. -/
def queDefault : Nat → Que := fun _ => {}

/-- Queue `q`. -/
def State.que (s : State) (q : Nat) : Que := Tab.get queDefault s.ques q

/-- Replace the state of queue `q`. -/
def State.setQue (s : State) (q : Nat) (x : Que) : State := { s with ques := Tab.set queDefault s.ques q x }

/-- Count a dropped record (R315). -/
def State.queDrop (s : State) (q n : Nat) : State :=
  (((s.incPair (Reg.DMA_Q_DROP_LO q) (Reg.DMA_Q_DROP_WRAP 0) q n).evt Reg.DMA_EVT F.DMA_EVT_DROP).count 0xB0 q n)

/-- A record enters a TO_HOST queue, or is dropped and counted when the queue is full (R315). -/
def State.post (s : State) (q : Nat) (rec : List Byte) : State :=
  match s.img.bind (·.queue? q) with
  | some d =>
    if d.fromHost then s
    else
      let x := s.que q
      if 2 ^ d.log2 ≤ x.fill then s.queDrop q 1
      else
        let n := 16 * d.units
        (s.memPut (d.base + x.wr * n) (slice rec 0 n)).setQue q
          { x with fill := x.fill + 1, wr := (x.wr + 1) % 2 ^ d.log2, stamps := x.stamps ++ [s.elapsed] }
  | none => s

/-- Post a record to the queue of a role; a role that no entry names posts nothing (R356). -/
def State.postRole (s : State) (role quad chan port : Nat) (rec : List Byte) : State :=
  match s.img.bind (·.role? role quad chan port) with
  | some q => s.post q rec
  | none => s

/-- The owner engine of a handle in the running image (R21). -/
def State.owner (s : State) (h : Nat) : Option Nat := s.img.bind (·.owner? h)

/-- ENG_STAT.STATE of an engine (R268): 0 IDLE, 1 RUNNING, 2 FAILED, 3 LOCKSTEP. -/
def State.engSt (s : State) (e : Nat) : Nat := s.fld (Reg.ENG_STAT e) F.ENG_STAT_STATE

/-- The spare of quadrant `q` acts for engine `e` (R255). -/
def State.actsFor (s : State) (q e : Nat) : Bool :=
  s.engSt (64 + q) == 1 && s.flag (Reg.ENG_STAT (64 + q)) F.ENG_STAT_ACTING
    && s.fld (Reg.ENG_STAT (64 + q)) F.ENG_STAT_ACTS_FOR == e

/-- The duties of the object `h` are carried out: its owner has not failed, or a spare acts for it (R255, R256). -/
def State.dutyUp (s : State) (h : Nat) : Bool :=
  match s.owner h with
  | some e => s.engSt e != 2 || s.actsFor (engQuad e) e
  | none => true

/-- The owner engine of an object posts a record of a role: it is held until the engine's commit (R253). A record of an
object without an owner entry (a leaf carrier) is posted at once. -/
def State.postOwned (s : State) (h role : Nat) (rec : List Byte) : State :=
  match s.owner h with
  | some e =>
    (match s.img.bind (·.role? role (if role = 5 then 0 else engQuad e) 0 0) with
     | some q => { s with held := s.held ++ [⟨e, 6, q, rec⟩] }
     | none => s)
  | none => s.postRole role 0 0 0 rec

/-! Records of tables. -/

/-- Change the entry of a table of records. -/
def tabUpd {α : Type} [DecidableEq α] (d : α) (m : List (Nat × α)) (k : Nat) (f : α → α) : List (Nat × α) :=
  Tab.upd (fun _ => d) m k f

/-- Read an entry of a table of records. -/
def tabGet {α : Type} (d : α) (m : List (Nat × α)) (k : Nat) : α := Tab.get (fun _ => d) m k

/-- Write an entry of a table of records. -/
def tabSet {α : Type} [DecidableEq α] (d : α) (m : List (Nat × α)) (k : Nat) (v : α) : List (Nat × α) :=
  Tab.set (fun _ => d) m k v

/-- The life cycle that the three fuse copies give by majority (R320): the middle one. Copies only go forward, so that three unequal ones, of
which the spec says nothing, still read as a state that was programmed (log entry 135). -/
def Fuses.majority (f : Fuses) : Nat := max (min f.lcA f.lcB) (min (max f.lcA f.lcB) f.lcC)

/-- A reset reads the life cycle (R320). -/
def Fuses.readLc (f : Fuses) : Fuses := { f with lc := f.majority }

/-- The copies are programmed; one that fails its verify (`ok` false) is left as it stands (R320). -/
def Fuses.burn (f : Fuses) (n : Nat) (ok : Nat → Bool) : Fuses :=
  { f with lcA := if ok 0 then max f.lcA n else f.lcA, lcB := if ok 1 then max f.lcB n else f.lcB, lcC := if ok 2 then max f.lcC n else f.lcC }

/-- The life-cycle fuses are programmed with a state (R320, R322); the next reset reads them. -/
def lcProgram (s : State) (n : Nat) : State := { s with fuses := s.fuses.burn n (Config.fuseVerifies s.freeCount), freeCount := s.freeCount + 1 }

/-- The life cycle in force: RETURN from the frame in which it is programmed (R323), else the one last read (R320). -/
def State.lcState (s : State) : Nat :=
  match s.lcDue with
  | some (true, _) => 3
  | _ => s.fuses.lc

/-- The device is in RETURN (R320, R323). -/
def State.inReturn (s : State) : Bool := s.lcState == 3

/-- The quadrant of the owner of a handle; 0 when it has none. -/
def State.ownerQuad (s : State) (h : Nat) : Nat :=
  match s.owner h with
  | some e => engQuad e
  | none => 0

/-- A 32-byte digest shown in eight registers from `a` upward. -/
def State.putDigest (s : State) (a : Nat) (d : List Byte) : State :=
  (List.range 8).foldl (fun s i => s.wr (a + 4 * i) (leAt d (4 * i) 4)) s

end Sys2Proof.Machine
end

