-- ==== Sys2Proof/Machine/FrameTime.lean ====
section
/-! DEFINITION. Frame time (spec/02_frame_time.md): offsets, host windows, capture, the ordering of a step, and the
measurement of PPS edges. -/

namespace Sys2Proof.Machine

/-- The running host windows: start offset and length (R36). -/
def State.hostWins (s : State) : List (Nat × Nat) :=
  match s.img with
  | some m => (m.rows secHOSTWIN 0).map fun e => (leAt e 0 4, leAt e 4 4)
  | none => []

/-- A host access may begin at offset `o`: before release always, then inside a running host window (R37, R297). -/
def State.inWindow (s : State) (o : Nat) : Bool :=
  !s.released || s.hostWins.any fun w => decide (w.1 ≤ o) && decide (o < w.1 + w.2)

/-- Core cycles of offsets `a` + 1 to `b` outside every host window. -/
def State.closedCycles (s : State) (a b : Nat) : Nat :=
  if s.released then
    (b - a) - (s.hostWins.foldl (fun n w => n + (min (b + 1) (w.1 + w.2) - max (a + 1) w.1)) 0)
  else 0

/-- Cycles `a` + 1 to `b` of the frame pass, 200,000 standing for the boundary cycle (R33): CORE_CYCLES counts them, and HOST_WAIT those in which a host request waited
for a window (R267). -/
def State.passCycles (s : State) (a b : Nat) : State :=
  let s := s.countIf s.pmonFrozen false 0x000 0 (b - a)
  if s.hostQ.isEmpty then s else s.countIf s.pmonFrozen false 0x0C0 0 (s.closedCycles a b)

/-- Time moves forward to offset `o` of the frame in progress; it never moves back. -/
def State.toOfs (s : State) (o : Nat) : State :=
  if s.clk && decide (s.ofs < o) && decide (o < 200000) then { (s.passCycles s.ofs o) with ofs := o } else s

/-- A write or read of the register at `a` by a command of the host or the debug port: done by `op` where the block
answers, else served by the default target (R297, R301, R304). -/
def State.host (s : State) (a : Nat) (op : State → State) : State :=
  if s.csrAnswers a then op s else s.defaultTarget

/-- Roles of MATE_STAT (R244). -/
def roleSTANDALONE : Nat := 0
def roleACTIVE : Nat := 1
def roleHOLDING : Nat := 2
def roleSTANDBY : Nat := 3
def roleDIVERGED : Nat := 4

/-- The mate role (R225, R226). -/
def State.role (s : State) : Nat := s.fld Reg.MATE_STAT F.MATE_STAT_ROLE

/-- The selected reference candidate, 63 for none (R224). -/
def State.timSel (s : State) : Nat := s.fld Reg.TIM_STAT F.TIM_STAT_SEL

/-- A lock onto the active unit's frame ends: nothing of it waits to be carried out (R40, R209). -/
def State.dropNewFn (s : State) : State := { s with mate := { s.mate with newFn := none, slew := 0, cut := none } }

/-- Core cycles of the frame in progress: all 200,000, unless a lock onto the active unit before release cuts it (R33, R209). -/
def State.frameEnd (s : State) : Nat := if s.released then 200000 else min 200000 (s.mate.cut.getD 200000)

/-- FT_STAT.STEP_STATE: 0 IDLE, 1 ARMED, 2 SLEWING (R50). -/
def State.stepState (s : State) : Nat := s.fld Reg.FT_STAT F.FT_STAT_STEP_STATE

/-- A 48-bit value held in a low and a high register. -/
def State.rd48 (s : State) (lo : Nat) : Nat := s.rdPair lo % 2 ^ 48

/-- CAPTURE: FN and offset of the cycle go to the FT_CAP registers (R50). -/
def ftCapture (s : State) : State :=
  ((s.wr Reg.FT_CAP_FN_LO (s.fnN % 4294967296)).wr Reg.FT_CAP_FN_HI (s.fnN / 4294967296)).wr Reg.FT_CAP_OFS s.ofs

/-- ARM: order a step from the step registers (R41). -/
def ftArm (s : State) : State :=
  if s.valid Reg.FT_STEP_RES then s.evt Reg.FT_EVT F.FT_EVT_STEP_IGNORED
  else
    let at_ := s.rd48 Reg.FT_STEP_AT_LO
    let cyc := sext (s.rd Reg.FT_STEP_CYC) 32
    if s.role == roleSTANDBY || s.role == roleHOLDING || s.timSel == 40 || s.stepState != 0 then
      s.putRes Reg.FT_STEP_RES eINUSE 0
    else if cyc < -100000 || 99999 < cyc then s.putRes Reg.FT_STEP_RES eFORMAT 0
    else if !fnAtLeast at_ s.fnN 16 then s.putRes Reg.FT_STEP_RES eLATE 0
    else
      { s.setFld Reg.FT_STAT F.FT_STAT_STEP_STATE 1 with
        stepAt := BitVec.ofNat 48 at_, stepNew := BitVec.ofNat 48 (s.rd48 Reg.FT_STEP_NEWFN_LO), stepCyc := cyc,
        slewMoved := 0 }

/-- CANCEL: an ARMED step returns to IDLE with OK; no effect in any other state (R41). -/
def ftCancel (s : State) : State :=
  if s.stepState == 1 then (s.setFld Reg.FT_STAT F.FT_STAT_STEP_STATE 0).putRes Reg.FT_STEP_RES cOK 0 else s

/-- The end of a step: IDLE, STEP_APPLIED, and OK (R42). -/
def stepDone (s : State) : State :=
  ((s.setFld Reg.FT_STAT F.FT_STAT_STEP_STATE 0).evt Reg.FT_EVT F.FT_EVT_STEP_APPLIED).putRes Reg.FT_STEP_RES cOK 0

/-- The unit carries a step of its registers out itself (R47): not the standby, nor a DIVERGED unit that selects candidate 40; a unit that has
become active does, also while its timing unit still shows candidate 40, which is not eligible any more (R209). -/
def State.ownStep (s : State) : Bool :=
  s.role != roleSTANDBY && (s.timSel != 40 || s.role == roleACTIVE || s.role == roleHOLDING)

/-- The slew has moved all of Δ (R42). -/
def State.slewOver (s : State) : Bool := decide (s.stepCyc.natAbs ≤ s.slewMoved)

/-- One frame of a running slew has passed: 10 core cycles, the last frame only the remainder (R42). A mirrored step advances
only in the unit that carries it out (R47). -/
def slewFrame (s : State) : State :=
  if s.stepState == 2 && s.ownStep then { s with slewMoved := min (s.slewMoved + 10) s.stepCyc.natAbs } else s

/-- A received TOD_IN message is formally valid: SYNC, TYPE, LEN, CRC, VALID and the range of SEC (R221, R222). -/
def todOk (b : List Byte) : Bool :=
  b.length == 16 && beAt b 0 2 == 0x5AC3 && beAt b 2 1 == 1 && beAt b 3 1 == 16 && bitAt (beAt b 10 1) 0
    && decide (beAt b 4 6 ≤ 35184372088) && crc16 (slice b 2 12) == beAt b 14 2

/-- The message that names the edge at the present instant: the last one that ended between 1,000 ms and 1 ms before it,
1.6 million core cycles to the millisecond (R222). -/
def State.todFor (s : State) : Option (List Byte) :=
  match (s.tods.filter fun t => decide (s.now ≤ t.at_ + 1600000000) && decide (t.at_ + 1600000 ≤ s.now)).getLast? with
  | some t => some t.bytes
  | none => none

/-- Store SEC, FLAGS, QL and UTC_OFS of the last valid message (R222, R224). -/
def storeTod (s : State) (b : List Byte) : State :=
  ((s.wr Reg.TIM_TOD_IN_LO (beAt b 4 6 % 4294967296)).wr Reg.TIM_TOD_IN_HI (beAt b 4 6 / 4294967296)).wr
    Reg.TIM_TOD_IN_AUX (beAt b 10 1 + 256 * beAt b 11 1 + 65536 * beAt b 12 2)

/-- R38: before release with INIT_ALIGN = 1, the first edge with a valid message restarts the frame at FN = 8,000 × s. The
abandoned frame counts as elapsed; `cut` keeps the cycles it lacks. DESIGN CHOICE (log entry 142): the edge that aligns the frame belongs to
the new frame, so that the PPS-loss time of R39 counts from it. -/
def initAlign (s : State) (sec : Option Nat) : State :=
  match sec with
  | some v =>
    if !s.released && !s.boot.aligned && s.flag Reg.FT_CTRL F.FT_CTRL_INIT_ALIGN then
      { (s.setFlag Reg.FT_STAT F.FT_STAT_TIME_SET true).evt Reg.FT_EVT F.FT_EVT_INIT_ALIGNED with
        ofs := 0, fn := BitVec.ofNat 48 (8000 * v), elapsed := s.elapsed + 1,
        boot := { s.boot with aligned := true, cut := s.boot.cut + (200000 - s.ofs) } }
    else s
  | none => s

/-- The distance in core cycles from the start of the nearest frame with FN mod 8,000 = 0, and that frame's FN; an edge
midway is measured against the earlier one (R39). The last second before FN wraps has 2^48 mod 8,000 = 6,656 frames (R32).
DESIGN CHOICE (log entry 112): the frames are those of the numbering in force, also just after a relabel. -/
def State.ppsPlace (s : State) : Int × Nat :=
  let p := s.fnN % 8000 * 200000 + s.ofs
  let f0 := s.fnN - s.fnN % 8000
  let len := min 8000 (2 ^ 48 - f0) * 200000
  if 2 * p ≤ len then ((p : Int), f0) else ((p : Int) - len, (f0 + 8000) % 2 ^ 48 / 8000 * 8000)

/-- ALIGN_STATE after an edge (R39): 0 NO_PPS, 1 ALIGNED, 2 OFFSET, 3 MEASURING. -/
def ppsJudge (s : State) (agree : Bool) : State :=
  let st := s.fld Reg.FT_STAT F.FT_STAT_ALIGN_STATE
  let st := if st = 0 then 3 else st
  let bad := if agree then 0 else s.ppsBad + 1
  let s := { s with ppsBad := bad }
  if agree then
    (s.setFld Reg.FT_STAT F.FT_STAT_ALIGN_STATE 1).setFlag Reg.FT_STAT F.FT_STAT_TIME_SET true
  else if st ≠ 2 && 3 ≤ bad then
    (s.setFld Reg.FT_STAT F.FT_STAT_ALIGN_STATE 2).evt Reg.FT_EVT F.FT_EVT_OFFSET_ENTER
  else s.setFld Reg.FT_STAT F.FT_STAT_ALIGN_STATE st

/-- PPS_EDGE (R38, R39): the edge is named by TOD, may align the frame, is measured and judged. An edge in the boundary
cycle belongs to the frame before (R33). -/
def ppsEdge (s : State) : State :=
  let tod := s.todFor
  let s := { s with ppsAge := if s.ofs = 0 then 1 else 0, tods := [], ppsBad := if s.fld Reg.FT_STAT F.FT_STAT_ALIGN_STATE = 0 then 0 else s.ppsBad }
  let s := match tod with
    | some b => storeTod s b
    | none => s.evt Reg.FT_EVT F.FT_EVT_TOD_BAD
  let sec := tod.map fun b => beAt b 4 6
  let s := initAlign s sec
  let pl := s.ppsPlace
  let s := s.wr Reg.FT_PPS_OFS (unsext pl.1 32)
  match sec with
  | some v =>
    let d := clampI ((v : Int) - (pl.2 / 8000 : Nat)) (-2147483647) 2147483647
    let s := s.wr Reg.FT_PPS_SEC (unsext d 32)
    ppsJudge s (decide (pl.1.natAbs ≤ max 1 (s.fld Reg.FT_ALIGN_WIN F.FT_ALIGN_WIN_WIN)) && d == 0)
  | none => ppsJudge s false

/-- PPS_LOSS (R39): 16,000 frames without an edge. -/
def ppsLoss (s : State) : State :=
  if s.fld Reg.FT_STAT F.FT_STAT_ALIGN_STATE ≠ 0 && 16000 ≤ s.ppsAge then
    { (s.setFld Reg.FT_STAT F.FT_STAT_ALIGN_STATE 0).evt Reg.FT_EVT F.FT_EVT_PPS_LOSS with ppsBad := 0 }
  else s

/-- CAPTURE (R50). -/
def execCapture (s : State) : Host.Outcome State Fault Refusal := checked .capture s (s.host Reg.FT_CAP_CMD ftCapture)

/-- ARM (R41). -/
def execArm (s : State) : Host.Outcome State Fault Refusal := checked .arm s (s.host Reg.FT_STEP_CMD ftArm)

/-- CANCEL_STEP (R41). -/
def execCancelStep (s : State) : Host.Outcome State Fault Refusal := checked .cancelStep s (s.host Reg.FT_STEP_CMD ftCancel)

/-- STEP_ACK (R41, R50). -/
def execStepAck (seq : Nat) (s : State) : Host.Outcome State Fault Refusal :=
  checked (.stepAck seq) s (s.host Reg.FT_STEP_ACK (·.ackRes Reg.FT_STEP_RES seq))

/-- PPS_EDGE (R39). DESIGN CHOICE (log entry 132): the row is the edge that PPS_POL selects, rising or falling, which marks the second; the
other edge marks nothing (R50) and has no row. A PPS input is measured on the core clock, so without it nothing happens (R38). -/
def execPpsEdge (s : State) : Host.Outcome State Fault Refusal := checked .ppsEdge s (if s.clk then ppsEdge s else s)

/-- PPS_LOSS (R39). -/
def execPpsLoss (s : State) : Host.Outcome State Fault Refusal := checked .ppsLoss s (ppsLoss s)

/-- STEP_APPLIED (R42): at offset 0 of the first frame after the slew. -/
def execStepApplied (s : State) : Host.Outcome State Fault Refusal :=
  checked .stepApplied s (if s.stepState == 2 && s.slewOver && s.ofs == 0 && s.ownStep then stepDone s else s)

end Sys2Proof.Machine
end

