-- ==== Sys2Proof/Machine/Defects.lean ====
section
/-! DEFINITION. The defect tables (R75, R77): what is active now, what was active in the frame, the samples; and the
overhead settings of an entity (R82, R274). -/

namespace Sys2Proof.Machine

/-- The defects of PM entity `e`. -/
def State.dfs (s : State) (e : Nat) : Def := tabGet {} s.defs e

/-- Defect bit `b` made present or absent: `fresh` - no earlier cycle counts for the frame in progress, `late` - what becomes present
counts for the frame already sampled. -/
def Def.put (d : Def) (b : Nat) (on fresh late : Bool) : Def :=
  { d with cur := Machine.putBit d.cur b on, smp := if late && on then setBit d.smp b else d.smp,
           acc := if fresh then Machine.putBit d.acc b on else if on then setBit d.acc b else d.acc }

/-- Make defect bit `b` of entity `e` present or absent now: what is present counts for the frame in progress, and in the boundary
cycle for the frame before (R33, R75). -/
def State.setDef (s : State) (e b : Nat) (on : Bool) : State :=
  { s with defs := tabUpd {} s.defs e fun d => d.put b on (s.ofs == 0) (s.ofs == 0) }

/-- A defect that takes its new state from the frame that begins: dDEG (R90), and what a graft judges anew (R83). -/
def State.setDefNext (s : State) (e b : Nat) (on : Bool) : State :=
  { s with defs := tabUpd {} s.defs e fun d => d.put b on (s.ofs == 0) false }

/-- A defect judged on the whole frame that ends, before that frame is sampled (R75). -/
def State.setDefEnd (s : State) (e b : Nat) (on : Bool) : State :=
  { s with defs := tabUpd {} s.defs e fun d => d.put b on false false }

/-- Defect bit `b` of entity `e` is active now. -/
def State.defNow (s : State) (e b : Nat) : Bool := bitAt (s.dfs e).cur b

/-- Defect bit `b` of entity `e` in the last sample. -/
def State.defSmp (s : State) (e b : Nat) : Bool := bitAt (s.dfs e).smp b

/-- The sample of the frame that ends (R75): every entity's accumulated defects. -/
def sampleDefs (l : List (Nat × Def)) : List (Nat × Def) :=
  (l.map fun e => (e.1, { e.2 with smp := e.2.acc, acc := e.2.cur, old := e.2.smp })).filter fun e => e.2 != {}

/-- Overhead settings of an entity (OH section, R274). -/
structure OhDef where
  mode : Nat
  timAct : Bool
  level : Nat
  term : Bool
  degm : Nat
  degthr : Nat
  tx : List Byte
  exp : List Byte
  deriving DecidableEq, Repr

/-- The settings of entity `e`; an entity the image does not list has compare mode 0 and the defaults of R90. -/
def Image.oh? (m : Image) (e : Nat) : Option OhDef :=
  match (m.rows secOH 0).find? (fun b => leAt b 0 4 == e) with
  | some b => some { mode := leAt b 4 1, timAct := leAt b 5 1 == 1, level := leAt b 6 1, term := leAt b 7 1 == 1,
                     degm := leAt b 8 1, degthr := leAt b 9 1, tx := slice b 16 64, exp := slice b 80 64 }
  | none => none

/-- Settings of an entity without an entry (R90). -/
def ohDefault : OhDef :=
  { mode := 0, timAct := false, level := 0, term := false, degm := 7, degthr := 15, tx := List.replicate 64 0, exp := List.replicate 64 0 }

/-- The settings of entity `e` in the running image. -/
def State.ohDef (s : State) (e : Nat) : OhDef := (s.img.bind (·.oh? e)).getD ohDefault

/-- TIM_ACT of entity `e`. -/
def State.timAct (s : State) (e : Nat) : Bool := (s.ohDef e).timAct

/-- The TCM position `m` of ODU `i` is in use (R85). -/
def State.tcmUsed (s : State) (i m : Nat) : Bool := (s.img.bind (·.oh? (entTcm i m))).isSome

/-- The terminated TCM position of ODU `i` (R85). -/
def State.tcmTerm (s : State) (i : Nat) : Option Nat := (List.range 3).find? fun m => (s.ohDef (entTcm i m)).term

/-- dPD of every slice of a port (R77): set while the port is not UP, and remembered for the frame. -/
def portDown (s : State) (x : PortDef) : State :=
  let s := x.slices.foldl (fun s v => s.setDef (entOtuc v) 0 true) s
  if s.downSeen.contains x.idx then s else { s with downSeen := s.downSeen ++ [x.idx] }

end Sys2Proof.Machine
end

