-- ==== Sys2Proof/Machine/Optical.lean ====
section
/-! DEFINITION. Optical lanes, lasers, tags, ports and hitless sparing (spec/03_optical_ports.md). -/

namespace Sys2Proof.Machine

/-! Lasers (R52 to R56). -/

/-- The fibre that feeds lane `l` of port group `g` (R52). -/
def laneFibre (g l : Nat) : Nat := 17 * (g / 16) + (l + 17 - g % 16) % 17

/-- The lane that fibre `f` < 68 feeds in the `i`-th group of its quadrant: group and lane (R52). -/
def fibreLane (f i : Nat) : Nat × Nat := (16 * (f / 17) + i, (f % 17 + i) % 17)

/-- The port of the running image that holds working lane `l` of group `g`. -/
def State.portOfLane (s : State) (g l : Nat) : Option PortDef :=
  match s.img with
  | some m => ((List.range 8).filterMap (m.port? g)).find? fun x => decide (x.first ≤ l) && decide (l < x.first + x.width)
  | none => none

/-- The sparing mode in force: 3 is taken as 1 (R72, R354). -/
def State.spareMode (s : State) (g : Nat) : Nat :=
  let m := s.fld (Reg.PG_SPARE_CTRL g) F.PG_SPARE_CTRL_MODE
  if m = 3 then 1 else m

/-- RX_STATE of a group. -/
def State.rxSt (s : State) (g : Nat) : Nat := s.fld (Reg.PG_SPARE_STAT g) F.PG_SPARE_STAT_RX_STATE
/-- RX_LANE of a group. -/
def State.rxLane (s : State) (g : Nat) : Nat := s.fld (Reg.PG_SPARE_STAT g) F.PG_SPARE_STAT_RX_LANE
/-- TX_STATE of a group. -/
def State.txSt (s : State) (g : Nat) : Nat := s.fld (Reg.PG_SPARE_STAT g) F.PG_SPARE_STAT_TX_STATE
/-- TX_LANE of a group. -/
def State.txLane (s : State) (g : Nat) : Nat := s.fld (Reg.PG_SPARE_STAT g) F.PG_SPARE_STAT_TX_LANE

/-- A transmit lane has an assigned use (R51). -/
def State.txUsed (s : State) (g l : Nat) : Bool :=
  (s.portOfLane g l).isSome || (l == 16 && (s.spareMode g != 0 || s.txSt g != 0))

/-- A receive lane has an assigned use: it lies in a port, or it is the spare of a group whose spare is not dark or is in use; any other is
ignored except for its power reading (R51). -/
def State.rxUsed (s : State) (g l : Nat) : Bool :=
  (s.portOfLane g l).isSome || (l == 16 && (s.spareMode g != 0 || s.rxSt g != 0))

/-- PG_LANE_CTRL.LOOP: the receiver of the lane is fed by its own transmitter, the far signal is ignored (R72). -/
def State.looped (s : State) (g l : Nat) : Bool := s.flag (Reg.PG_LANE_CTRL g l) F.PG_LANE_CTRL_LOOP

/-- The device is in RUN or TRIM (R54, R328). -/
def State.running (s : State) : Bool :=
  s.pins.resetN && s.released && decide (s.fld Reg.PWR_STAT F.PWR_STAT_STATE ≤ 1)

/-- The fibre a mate transmit lane uses, 68 to 71 (R53); which of its two modulators there is in `mateMods`. -/
def State.mateFibre (s : State) (m : Nat) : Nat := 68 + bits (s.rd Reg.PG_ELS_MATE) (2 * m) 2

/-- A queued graft's result has a port on the lane, so that its laser is enabled before STAGED (R130). -/
def State.graftNeeds (s : State) (g l : Nat) : Bool :=
  s.grafts.any fun x =>
    let st := s.fld (Reg.GRAFT_E_STAT x.1) F.GRAFT_E_STAT_STATE
    decide (2 ≤ st) && decide (st ≤ 4) &&
      (match x.2.result with
       | some m => ((List.range 8).filterMap (m.port? g)).any fun p => decide (p.first ≤ l) && decide (l < p.first + p.width)
       | none => false)

/-- Fibre `f` feeds at least one modulator in a powered domain with an assigned use, or a selected mate modulator (R54). -/
def State.fibreUsed (s : State) (f : Nat) : Bool :=
  if f < 68 then
    (List.range 16).any fun i =>
      let x := fibreLane f i
      s.fuses.group x.1 && s.domOn x.1 && (s.txUsed x.1 x.2 || s.graftNeeds x.1 x.2)
  else s.domOn 65 && (List.range 8).any fun m => s.mateFibre m == f

/-- The fibres whose PG_ELS_CTRL.EN is 1: it takes effect at the next boundary (R54). -/
def State.elsSet (s : State) : List Nat := (List.range 72).filter fun f => s.flag (Reg.PG_ELS_CTRL f) F.PG_ELS_CTRL_EN

/-- ELS_EN[f] is asserted (R54): EN is in force, the device is in RUN or TRIM and the fibre has a use. -/
def State.elsEn (s : State) (f : Nat) : Bool := s.elsIn.contains f && s.running && s.fibreUsed f

/-- STATE of a fibre: 0 OFF, 1 OK, 2 LOW_WARN, 3 LOW_FAIL (R55). -/
def State.elsSt (s : State) (f : Nat) : Nat := s.fld (Reg.PG_ELS_STAT f) F.PG_ELS_STAT_STATE

/-- Run counters of a fibre: frames at or above the rising limit of its state, and frames below WARN. -/
def State.elsRuns (s : State) (f : Nat) : Nat × Nat := tabGet (0, 0) s.elsRun f

/-- Store the run counters of a fibre. -/
def State.setElsRuns (s : State) (f : Nat) (r : Nat × Nat) : State := { s with elsRun := tabSet (0, 0) s.elsRun f r }

/-- Thresholds in 0.01 dBm (R72): WARN, FAIL, HIGH. -/
def State.elsWarn (s : State) : Int := 10 * s.fld Reg.PG_ELS_THR F.PG_ELS_THR_WARN
def State.elsFail (s : State) : Int := 10 * s.fld Reg.PG_ELS_THR F.PG_ELS_THR_FAIL
def State.elsHighThr (s : State) : Int := 10 * s.fld Reg.PG_ELS_THR F.PG_ELS_THR_HIGH

/-- A sparing result (R72): a new one replaces an unretired one and takes the next SEQ. -/
def spareRes (s : State) (g outcome lane : Nat) : State :=
  let a := Reg.PG_SPARE_RES g
  s.wr a (outcome + 16 * lane + 65536 * ((bits (s.rd a) 16 8 + 1) % 256) + 2147483648)

/-- Sparing state of a group beside its registers. -/
def State.spare (s : State) (g : Nat) : Spare := tabGet {} s.spares g

/-- Change the sparing state of a group. -/
def State.updSpare (s : State) (g : Nat) (f : Spare → Spare) : State := { s with spares := tabUpd {} s.spares g f }

/-- Set RX_STATE and RX_LANE; the frame is the start of the state's timer (R34, R70). A need that waits to pre-empt a selection is over in
any other state, but for REVERTING in the frame of a RELEASE (R71). -/
def setRx (s : State) (g st lane : Nat) : State :=
  let s := (s.setFld (Reg.PG_SPARE_STAT g) F.PG_SPARE_STAT_RX_STATE st).setFld (Reg.PG_SPARE_STAT g) F.PG_SPARE_STAT_RX_LANE lane
  s.updSpare g fun x => { x with since := s.elapsed, bad := false, wantLane := if st = 4 then x.wantLane else none }

/-- Set TX_STATE and TX_LANE. -/
def setTx (s : State) (g st lane : Nat) : State :=
  (s.setFld (Reg.PG_SPARE_STAT g) F.PG_SPARE_STAT_TX_STATE st).setFld (Reg.PG_SPARE_STAT g) F.PG_SPARE_STAT_TX_LANE lane

/-- A receive lane. -/
def State.lane (s : State) (g l : Nat) : Lane := tabGet {} s.lanes (laneIdx g l)

/-- Change a receive lane. -/
def State.updLane (s : State) (g l : Nat) (f : Lane → Lane) : State := { s with lanes := tabUpd {} s.lanes (laneIdx g l) f }

/-- TAG_LOCK of a lane. -/
def State.locked (s : State) (g l : Nat) : Bool := s.flag (Reg.PG_LANE_STAT g l) F.PG_LANE_STAT_TAG_LOCK

/-- A lane of the group is CROSSED (R63, R66). DESIGN CHOICE (log entry 113): the lane's last good tag says so, also after loss of lock; the
latched event bit does not count. -/
def State.groupCrossed (s : State) (g : Nat) : Bool := (List.range 17).any fun l => (s.lane g l).crossed

/-- Sparing works in the group: MODE = 2 and no lane CROSSED (R66). -/
def State.sparing (s : State) (g : Nat) : Bool := s.spareMode g == 2 && !s.groupCrossed g

/-- The far RX_MSG and TX_MSG last accepted (R68). -/
def State.farRx (s : State) (g : Nat) : Nat := s.fld (Reg.PG_SPARE_FAR g) F.PG_SPARE_FAR_FAR_RX_MSG
def State.farTx (s : State) (g : Nat) : Nat := s.fld (Reg.PG_SPARE_FAR g) F.PG_SPARE_FAR_FAR_TX_MSG

/-- CODE, REASON and LANE of a tag message (R67). -/
def msgCode (m : Nat) : Nat := bits m 12 4
def msgReason (m : Nat) : Nat := bits m 8 4
def msgLane (m : Nat) : Nat := bits m 0 4
/-- A tag message from its parts (R67). -/
def mkMsg (code reason lane : Nat) : Nat := 4096 * code + 256 * reason + lane

/-- RX_MSG the group sends (R67, R70): SELECTED prevails, then DENY of a transmitter-initiated bridge, then REQUEST (log entry 41). -/
def State.rxMsg (s : State) (g : Nat) : Nat :=
  let x := s.spare g
  let st := s.rxSt g
  if st = 3 || st = 4 then mkMsg 2 x.reason (s.rxLane g)
  else match x.deny with
    | some l => mkMsg 3 0 l
    | none => if st = 1 || (st = 2 && x.reason != 4) then mkMsg 1 x.reason (s.rxLane g) else 0

/-- TX_MSG the group sends (R67, R69): DENY answers a far REQUEST while sparing is not enabled here, from the boundary after its
acceptance on (R68). -/
def State.txMsg (s : State) (g : Nat) : Nat :=
  let st := s.txSt g
  if st = 0 then (match (s.spare g).txDeny with
    | some l => mkMsg 3 0 l
    | none => 0)
  else if st = 4 then mkMsg 2 0 (s.txLane g)
  else mkMsg 1 (if (s.spare g).txSelf then 4 else 0) (s.txLane g)

/-- A lane in a port of the running image that may be spared (R66). -/
def State.spareable (s : State) (g l : Nat) : Bool := decide (l < 16) && (s.portOfLane g l).isSome

/-- A lane is failed: it has lost light or TAG_LOCK (R70). -/
def State.laneFailed (s : State) (g l : Nat) : Bool :=
  !s.flag (Reg.PG_LANE_STAT g l) F.PG_LANE_STAT_LIGHT || !s.locked g l

/-! Ports (R63, R64). -/

/-- The receive lane that serves port lane `k` of a port, or none (R63, R70): of the port's own lanes exactly one that is
locked and placed there; while the receive spare is SELECTED or REVERTING for a lane, the spare in that lane's place. -/
def State.portSource (s : State) (x : PortDef) (k : Nat) : Option Nat :=
  let sel := (s.rxSt x.g == 3 || s.rxSt x.g == 4) && s.rxLane x.g == x.first + k
  let good := fun l =>
    let n := s.lane x.g l
    s.locked x.g l && n.placed && n.width == x.width && s.fld (Reg.PG_LANE_STAT x.g l) F.PG_LANE_STAT_PORT_LANE == k
  if sel then (if good 16 then some 16 else none)
  else
    match ((List.range x.width).map (· + x.first)).filter good with
    | [l] => some l
    | _ => none

/-- The placed sources of a port. -/
def State.portSources (s : State) (x : PortDef) : List Nat := (List.range x.width).filterMap (s.portSource x)

/-- Two tags carry equal SF_CNT; a lane whose tag of this superframe has not come yet still carries the one before (a tag that comes after
the limit of R64 holds the port down by `skewBad`). -/
def sfMatch (newest sf : Nat) : Bool := sf == newest || (sf + 1) % 65536 == newest

/-- The lane that carries slice `v` of a port: the placed source of its port lane, or that physical lane (R58). -/
def State.sliceLane (s : State) (x : PortDef) (v : Nat) : Nat :=
  let k := (v - x.slice0) / 2
  (s.portSource x k).getD (x.first + k)

/-- The alignment filter of the instance of slice `v` in a lane: stream A carries the even slices, B the odd ones (R58). -/
def Lane.am (n : Lane) (v : Nat) : Flt := if v % 2 = 0 then n.amA else n.amB

/-- The instance of slice `v` is aligned in the lane that carries it (R62). -/
def State.aligned (s : State) (x : PortDef) (v : Nat) : Bool := ((s.lane x.g (s.sliceLane x v)).am v).on

/-- The conditions of R63 and R64 for a port, and its PG_PORT_STAT; dAM follows the instances of the lanes in use, and a port that is not UP
has dPD (R77). -/
def portEval (s : State) (x : PortDef) : State :=
  let src := s.portSources x
  let newest := src.foldl (fun n l => let v := (s.lane x.g l).sf; if v == (n + 1) % 65536 then v else n)
    (match src with
     | l :: _ => (s.lane x.g l).sf
     | [] => 0)
  let full := decide (src.length = x.width)
  let sfOk := src.all fun l => sfMatch newest (s.lane x.g l).sf
  let ok := src.all fun l => !(s.lane x.g l).mapErr && !(s.lane x.g l).skewBad
  let mapOk := ((List.range x.width).map (· + x.first)).all fun l => !(s.locked x.g l && (s.lane x.g l).mapErr)
  let am := src.all fun l => s.flag (Reg.PG_LANE_STAT x.g l) F.PG_LANE_STAT_AM_LOCK
  let skews := src.map fun l => s.rd (Reg.PG_LANE_SKEW x.g l)
  let skewMax := if src.length < 2 then 0 else skews.foldl max 0
  let skewOk := !src.isEmpty && skews.all (· ≤ 4000)
  let up := full && sfOk && ok && mapOk && am
  let s := s.wr (Reg.PG_PORT_STAT x.g x.p) (nat01 up + 2 * nat01 skewOk + 4 * (skewMax % 65536))
  let s := x.slices.foldl (fun s v => s.setDef (entOtuc v) 1 (!s.aligned x v)) s
  if up then s else portDown s x

/-- SKEW reads 0 for a lane that is not a placed source of a port (R72). -/
def skewClear (s : State) (g : Nat) (src : List Nat) : State :=
  (List.range 17).foldl (fun s l =>
    if src.contains l || s.rd (Reg.PG_LANE_SKEW g l) = 0 then s else s.wr (Reg.PG_LANE_SKEW g l) 0) s

/-- Judge every port of a group anew. -/
def groupEval (s : State) (g : Nat) : State :=
  match s.img with
  | some m =>
    let ports := (List.range 8).filterMap (m.port? g)
    ports.foldl portEval (skewClear s g (ports.flatMap s.portSources))
  | none => s

/-! Instance alignment (R62). -/

/-- Lane `n` takes over working lane `l` after a passed verification, at no loss: its instances are aligned and it lies within the skew
limit (R64, R70; log entry 107). -/
def amTake (s : State) (g n : Nat) : State :=
  let s := s.setFlag (Reg.PG_LANE_STAT g n) F.PG_LANE_STAT_AM_LOCK true
  s.updLane g n fun y => { y with skewBad := false, amA := { on := true }, amB := { on := true } }

/-- A port is UP (R63). -/
def State.portUp (s : State) (g p : Nat) : Bool := s.flag (Reg.PG_PORT_STAT g p) F.PG_PORT_STAT_UP

/-- How many superframes SF_CNT `b` lies behind `a`. -/
def sfBehind (a b : Nat) : Nat := (a + 65536 - b) % 65536

/-- The lag of source `k`, in 0.1 ns, once lane `me` of its port has brought a tag: behind the earliest source with the same SF_CNT; a
source whose tag comes in another source's next superframe, or has not come by two, is late by more than any limit (R64). -/
def State.lagOf (s : State) (g : Nat) (peers : List Nat) (me k : Nat) : Option Nat :=
  let m := s.lane g me
  let n := s.lane g k
  let same := peers.filter fun j => (s.lane g j).sf == m.sf
  if n.sf == m.sf then
    if peers.any fun j => sfBehind (s.lane g j).sf m.sf != 0 && decide (sfBehind (s.lane g j).sf m.sf < 32768) then some 65535
    else some (min 65535 (n.arr - same.foldl (fun a j => min a (s.lane g j).arr) n.arr))
  else if 2 ≤ sfBehind m.sf n.sf && sfBehind m.sf n.sf < 32768 then some 65535
  else none

/-- The skew of the sources of a port once lane `l` has brought a tag; more than 400 ns holds the port down until 3 superframes lie within
the limit (R64). -/
def laneSkew (s : State) (x : PortDef) (l : Nat) : State :=
  let peers := s.portSources x
  if peers.contains l then
    peers.foldl (fun t k =>
      match s.lagOf x.g peers l k with
      | some lag =>
        let t := t.wr (Reg.PG_LANE_SKEW x.g k) lag
        if 4000 < lag then
          (t.updLane x.g k fun n => { n with skewBad := true, skewGood := 0 }).evt (Reg.PG_LANE_EVT x.g k) F.PG_LANE_EVT_SKEW_EXCEED
        else if k = l then
          t.updLane x.g k fun n => { n with skewBad := n.skewBad && decide (n.skewGood + 1 < 3), skewGood := min 3 (n.skewGood + 1) }
        else t
      | none => t) s
  else s.wr (Reg.PG_LANE_SKEW x.g l) 0

/-- A tag that names a wrong WIDTH or a port lane outside the port, or a port lane that another non-spare lane of the port
names, latches PORT_MAP_ERR and holds the port down (R63). -/
def laneMap (s : State) (x : PortDef) (l : Nat) : State :=
  let n := s.lane x.g l
  let k := s.fld (Reg.PG_LANE_STAT x.g l) F.PG_LANE_STAT_PORT_LANE
  let others := ((List.range x.width).map (· + x.first)).filter fun j =>
    j != l && s.locked x.g j && (s.lane x.g j).placed && s.fld (Reg.PG_LANE_STAT x.g j) F.PG_LANE_STAT_PORT_LANE == k
  let wrong := n.width != x.width || decide (x.width ≤ k)
  let s := s.updLane x.g l fun n => { n with mapErr := wrong || !others.isEmpty }
  let s := if wrong || !others.isEmpty then s.evt (Reg.PG_LANE_EVT x.g l) F.PG_LANE_EVT_PORT_MAP_ERR else s
  others.foldl (fun s j =>
    (s.updLane x.g j fun n => { n with mapErr := true }).evt (Reg.PG_LANE_EVT x.g j) F.PG_LANE_EVT_PORT_MAP_ERR) s

/-! Sparing: the receiving end (R70, R71). -/

/-- A new need of lane `l` with a reason (1 manual, 2 degrade, 3 fail): REQUESTED when the receive spare is free; a failed
lane pre-empts a selection made for another reason, the first one that comes; every other need is refused with outcome 1 (R71). -/
def spareNeed (s : State) (g l reason : Nat) : State :=
  if s.rxSt g = 0 then (setRx s g 1 l).updSpare g fun x => { x with reason := reason, deny := none }
  else if s.rxSt g = 3 && s.rxLane g != l && s.laneFailed g l && (s.spare g).reason != 3 && ((s.spare g).wantLane.getD l == l) then
    s.updSpare g fun x => { x with wantLane := some l }
  else spareRes s g 1 l

/-- An automatic request (R70): only with sparing enabled, for a lane of a port, outside the pause after a failed
verification; none is made for the lane already served. -/
def autoNeed (s : State) (g l reason : Nat) : State :=
  let on := s.flag (Reg.PG_SPARE_CTRL g) (if reason = 2 then F.PG_SPARE_CTRL_AUTO_DEG else F.PG_SPARE_CTRL_AUTO_FAIL)
  if on && s.sparing g && s.spareable g l && (s.spare g).pauseTo == 0 && !(s.rxSt g != 0 && s.rxLane g == l) then
    spareNeed s g l reason
  else s

/-- The lane under verification: the spare, or the lane served when reverting; 17 for none (R70). -/
def verifyLane (s : State) (g : Nat) : Nat := if s.rxSt g = 2 then 16 else if s.rxSt g = 4 then s.rxLane g else 17

/-- The slices that a lane brings to its port leave in-frame with its stream (R61, R62). -/
def slicesLost (s : State) (g l : Nat) : State :=
  match s.portOfLane g (if l = 16 then s.rxLane g else l) with
  | some x =>
    (((List.range x.width).filter fun k => s.portSource x k == some l).flatMap fun k => [x.slice0 + 2 * k, x.slice0 + 2 * k + 1]).foldl
      (fun s v => ({ s with slices := tabUpd {} s.slices v fun c => { c with fas := {}, fasCands := [] } } : State).setDef (entOtuc v) 2 true) s
  | none => s

/-- The receive lane is lost to its port: lock gone, stream discarded, search from the next bit (R61). -/
def loseLock (s : State) (g l : Nat) : State :=
  let s := if verifyLane s g = l then s.updSpare g fun x => { x with bad := true } else s
  let s := (slicesLost s g l).setFlag (Reg.PG_LANE_STAT g l) F.PG_LANE_STAT_AM_LOCK false
  let s := (s.setFlag (Reg.PG_LANE_STAT g l) F.PG_LANE_STAT_TAG_LOCK false).evt (Reg.PG_LANE_EVT g l) F.PG_LANE_EVT_TAG_LOSS
  let s := s.setFld (Reg.PG_LANE_STAT g l) F.PG_LANE_STAT_CAND 0
  let s := s.updLane g l fun n => { n with cands := [], miss := 0, placed := false, mapErr := false, rxm := {}, txm := {}, amA := {}, amB := {} }
  autoNeed s g l 3

/-- The number of differing bits between received bytes and an alignment word. -/
def awDiff (b : List Byte) (aw n : Nat) : Nat := popCount (Nat.xor (beAt b 0 n) aw) (8 * n)

/-- The alignment word of the lane tag (R60). -/
def tagAW : Nat := 0xF628B30ED549

/-- Bits from one lane tag to the next (R59). -/
def tagPeriod : Nat := 11141376

/-- Search for an alignment word (R61): `d` differing bits at `pos`; opens with at most `open_` differing bits, recurs with
at most `keep`, confirmed after `need` recurrences. Answers the candidates, and whether one was confirmed. -/
def searchStep (cands : List Cand) (pos period d open_ keep need : Nat) : List Cand × Bool :=
  let alive := cands.filter fun c => decide (pos ≤ c.pos + period)
  match alive.find? (fun c => c.pos + period == pos) with
  | some c =>
    let rest := alive.filter fun x => x.pos + period != pos
    if d ≤ keep then
      (if need ≤ c.conf + 1 then ([], true) else (rest ++ [⟨pos, c.conf + 1⟩], false))
    else if d ≤ open_ then (rest ++ [⟨pos, 0⟩], false) else (rest, false)
  | none => (if d ≤ open_ && alive.length < 8 then alive ++ [⟨pos, 0⟩] else alive, false)

/-- A tag of lane `l` while lane `n` is verified against the sources of the port of the lane served: skew beyond the limit between it and any
of them fails the verification (R64, R70). -/
def verifySkew (s : State) (g l : Nat) : State :=
  let n := verifyLane s g
  let far := fun (v : Option Nat) => decide (4000 < v.getD 0)
  match s.portOfLane g (s.rxLane g) with
  | some x =>
    if n ≠ 17 && ((s.portSources x).filter (· != n)).any (fun k =>
        (k == l || n == l) && (far (s.lagOf g [n, k] l n) || far (s.lagOf g [n, k] l k))) then
      s.updSpare g fun y => { y with bad := true }
    else s
  | none => s

/-- The value a lane of a tag carries after a good CRC (R60, R63, R68): placement, then the sparing messages. -/
def tagFields (s : State) (g l : Nat) (t : TagRx) : State :=
  let b := t.bytes
  let w := beAt b 6 1 / 16
  let k := beAt b 6 1 % 16
  let phys := beAt b 7 1 % 32
  let s := (s.setFld (Reg.PG_LANE_STAT g l) F.PG_LANE_STAT_PORT_LANE k).setFld (Reg.PG_LANE_STAT g l) F.PG_LANE_STAT_FAR_LANE phys
  let s := s.updLane g l fun n =>
    { n with width := if w ≤ 3 then 2 ^ (w + 1) else 0, sf := beAt b 8 2, arr := t.arr, placed := decide (w ≤ 3), crossed := phys != l }
  let s := if phys = l then s else s.evt (Reg.PG_LANE_EVT g l) F.PG_LANE_EVT_CROSSED
  let s :=
    if phys ≠ l then s.updLane g l fun n => { n with rxm := {}, txm := {} }
    else
      let s := s.updLane g l fun n => { n with rxm := n.rxm.feed 3 (beAt b 10 2), txm := n.txm.feed 3 (beAt b 12 2) }
      let n := s.lane g l
      let s := if 3 ≤ n.rxm.run then s.setFld (Reg.PG_SPARE_FAR g) F.PG_SPARE_FAR_FAR_RX_MSG n.rxm.cand else s
      if 3 ≤ n.txm.run then s.setFld (Reg.PG_SPARE_FAR g) F.PG_SPARE_FAR_FAR_TX_MSG n.txm.cand else s
  let s :=
    match s.portOfLane g l with
    | some x => laneSkew (laneMap s x l) x l
    | none =>
      if l = 16 && (s.rxSt g = 3 || s.rxSt g = 4) then
        (match s.portOfLane g (s.rxLane g) with
         | some x => laneSkew s x 16
         | none => s)
      else s
  groupEval (verifySkew s g l) g

/-- A lane tag at a lane's receiver (R61, R63, R68). DESIGN CHOICE (log entry 114): a tag at a locked lane's place is read by its CRC however
many bits of its alignment word are wrong, and a tag with a bad CRC breaks the runs of equal messages. -/
def tagIn (s : State) (g l : Nat) (t : TagRx) : State :=
  let n := s.lane g l
  let d := awDiff t.bytes tagAW 6
  let read := fun (s : State) =>
    if crc16 (slice t.bytes 6 24) = beAt t.bytes 30 2 then tagFields s g l t
    else
      let s := (s.evt (Reg.PG_LANE_EVT g l) F.PG_LANE_EVT_TAG_CRC).count 0x82 (laneIdx g l) 1
      s.updLane g l fun n => { n with rxm := { n.rxm with run := 0 }, txm := { n.txm with run := 0 } }
  if s.locked g l then
    if t.pos = n.lockPos + tagPeriod then
      if d ≤ 3 then read (s.updLane g l fun n => { n with lockPos := t.pos, miss := 0 })
      else if 5 ≤ n.miss + 1 then groupEval (loseLock s g l) g
      else read (s.updLane g l fun n => { n with lockPos := t.pos, miss := n.miss + 1 })
    else s
  else
    let r := searchStep n.cands t.pos tagPeriod d 2 3 3
    let s := s.updLane g l fun n => { n with cands := r.1, lockPos := t.pos, miss := 0 }
    let s := s.setFld (Reg.PG_LANE_STAT g l) F.PG_LANE_STAT_CAND r.1.length
    if r.2 then read (s.setFlag (Reg.PG_LANE_STAT g l) F.PG_LANE_STAT_TAG_LOCK true) else s

/-- LANE_TAG_RECEIVE (R61): a tag of the far signal, ignored by a lane without assigned use (R51) and by a looped one (R72). -/
def laneTag (s : State) (g l : Nat) (t : TagRx) : State := if s.rxUsed g l && !s.looped g l then tagIn s g l t else s

/-- A transmitter-initiated BRIDGED of another lane than the one served is denied while the receive spare is busy (R70); the denial ends
with the message. -/
def spareDeny (s : State) (g : Nat) : State :=
  let m := s.farTx g
  let on := s.rxSt g != 0 && msgCode m == 1 && msgReason m == 4 && msgLane m != s.rxLane g
  let d := if on then some (msgLane m) else if s.rxSt g = 0 then (s.spare g).deny else none
  if d = (s.spare g).deny then s else s.updSpare g fun x => { x with deny := d }

/-- The receiving end at a frame boundary, on the accepted TX_MSG (R69 to R71); a group that no longer spares ends its sequence (R66). -/
def spareRxAction (s : State) (g : Nat) : State :=
  let m := s.farTx g
  let code := msgCode m
  let l := msgLane m
  let x := s.spare g
  let st := s.rxSt g
  let me := s.rxLane g
  if st ≠ 0 && !s.sparing g then spareRes (setRx s g 0 0) g 2 me
  else if (st = 3 || st = 4) && x.wantLane.isSome then
    (setRx s g 1 (x.wantLane.getD 0)).updSpare g fun x => { x with reason := 3 }
  else if st = 1 && code = 1 && l = me then setRx s g 2 me
  else if st = 1 && code = 3 then spareRes (setRx s g 0 0) g 4 me
  else if st = 0 && code = 1 && msgReason m = 4 then
    if s.sparing g && s.flag (Reg.PG_SPARE_CTRL g) F.PG_SPARE_CTRL_ACCEPT_TX && s.spareable g l then
      (setRx s g 2 l).updSpare g fun x => { x with reason := 4, deny := none }
    else s.updSpare g fun x => { x with deny := some l }
  else if st = 3 && code = 2 && l = me then setRx s g 4 me
  else if (st = 2 || st = 3 || st = 4) && code = 0 then spareRes (setRx s g 0 0) g 7 me
  else if st = 0 && x.deny.isSome then s.updSpare g fun x => { x with deny := none }
  else s

/-- While the receive spare is free, a lane that is failed or degraded is a need (R70), failed ones first, the lowest lane first. -/
def autoNeeds (s : State) (g : Nat) : State :=
  if s.rxSt g ≠ 0 then s
  else
    match (List.range 16).find? (fun l => s.spareable g l && s.laneFailed g l && s.flag (Reg.PG_SPARE_CTRL g) F.PG_SPARE_CTRL_AUTO_FAIL),
        (List.range 16).find? (fun l => s.spareable g l && (s.lane g l).degraded) with
    | some l, _ => autoNeed s g l 3
    | none, some l => autoNeed s g l 2
    | none, none => s

/-- The transmitting end at a frame boundary, on the accepted RX_MSG (R69). A bridge goes on when a graft takes its lane's port away (R71);
it ends, with outcome 2, when the group no longer spares (R66); a displaced one of its own, or one that waits to end, has outcome 6; a
TX_BRIDGE that waits behind a far REQUEST is refused with outcome 1, in a group that no longer spares with outcome 2. -/
def spareTxAction (s : State) (g : Nat) : State :=
  let m := s.farRx g
  let code := msgCode m
  let l := msgLane m
  let st := s.txSt g
  let me := s.txLane g
  let x := s.spare g
  let keep := st != 0 && me == l
  let own := x.txSelf || st == 4
  let refused := fun (s : State) => match x.txWant with
    | some w => (spareRes s g 1 w).updSpare g fun y => { y with txWant := none }
    | none => s
  if st ≠ 0 && !s.sparing g then
    let s := setTx s g 0 0
    let s := if own then spareRes s g 2 me else s
    s.updSpare g fun y => { y with txSelf := false, txWant := none }
  else if (code = 1 || code = 2) && s.sparing g && (keep || s.spareable g l) then
    if st = 4 && keep then s
    else
      let s := refused (if own && st ≠ 0 && !keep then spareRes s g 6 me else s)
      let s := setTx s g (if code = 2 then 3 else 1) l
      s.updSpare g fun y => { y with txSelf := code = 2 && y.txSelf && keep }
  else if st = 4 || st = 1 || st = 3 then
    let s := setTx s g 0 0
    let s := if own then spareRes s g 0 me else s
    s.updSpare g fun y => { y with txSelf := false }
  else if st = 2 && code = 3 then
    (spareRes (setTx s g 0 0) g 4 me).updSpare g fun y => { y with txSelf := false }
  else
    match x.txWant with
    | some w =>
      if !s.sparing g then (spareRes s g 2 w).updSpare g fun y => { y with txWant := none }
      else if st = 0 && code = 0 then (setTx s g 2 w).updSpare g fun y => { y with txWant := none, txSelf := true } else refused s
    | none => s

/-- The far REQUEST that a group without sparing denies (R67), judged like every action on an accepted message at offset 0 (R68). -/
def txDenial (s : State) (g : Nat) : State :=
  let m := s.farRx g
  s.updSpare g fun x => { x with txDeny := if msgCode m = 1 && !s.sparing g then some (msgLane m) else none }

/-- SPARE_ACTION (R66, R68 to R71): at offset 0. -/
def spareAction (s : State) (g : Nat) : State :=
  if s.ofs = 0 then groupEval (autoNeeds (spareDeny (spareRxAction (txDenial (spareTxAction s g) g) g) g) g) g else s

/-- The spare (or, when reverting, the lane) is locked and placed as the port lane of the lane served, within the skew limit of every source
whose tag of this superframe has come; one that comes too late is found when it comes (`verifySkew`), and one that is further behind fails
(R64, R70). -/
def State.verifyOk (s : State) (g : Nat) : Bool :=
  let l := s.rxLane g
  let n := if s.rxSt g = 4 then l else 16
  match s.portOfLane g l with
  | some x =>
    s.locked g n && (s.lane g n).placed && (s.lane g n).width == x.width &&
      s.fld (Reg.PG_LANE_STAT g n) F.PG_LANE_STAT_PORT_LANE + x.first == l &&
      (s.portSources x).all fun k =>
        if (s.lane g k).sf == (s.lane g n).sf then
          decide ((s.lane g k).arr ≤ (s.lane g n).arr + 4000) && decide ((s.lane g n).arr ≤ (s.lane g k).arr + 4000)
        else sfBehind (s.lane g k).sf (s.lane g n).sf == 1 || sfBehind (s.lane g n).sf (s.lane g k).sf == 1
  | none => false

/-- A frame of a verification has passed: it fails when the lane is not locked, placed and within the limit in it (R70). -/
def verifyFrame (s : State) (g : Nat) : State :=
  if verifyLane s g = 17 || s.verifyOk g then s else s.updSpare g fun x => { x with bad := true }

/-- SPARE_VERIFY_END (R70): `pass` says that the decoded contents agreed in every frame of the period, which is not asked while the lane
to be served has failed; that the lane was locked and placed within the limit with no uncorrectable codeword in each of them, the block has
followed itself. -/
def spareVerifyEnd (s : State) (g : Nat) (pass : Bool) : State :=
  let x := s.spare g
  let past := decide (x.since + max 8 (s.fld (Reg.PG_SPARE_TMR g) F.PG_SPARE_TMR_VERIFY) ≤ s.elapsed)
  let l := s.rxLane g
  let ok := (pass || (s.rxSt g == 2 && s.laneFailed g l)) && s.verifyOk g && !x.bad && s.sparing g
  if past && s.rxSt g = 2 then
    if ok then groupEval (amTake (setRx s g 3 l) g 16) g
    else (spareRes (setRx s g 0 0) g 5 l).updSpare g fun y => { y with pauseTo := s.elapsed + 8000 }
  else if past && s.rxSt g = 4 then
    if ok then groupEval (amTake (spareRes (setRx s g 0 0) g 0 l) g l) g else spareRes (setRx s g 3 l) g 5 l
  else s

/-- SPARE_TIMEOUT (R70). -/
def spareTimeout (s : State) (g : Nat) : State :=
  if s.rxSt g = 1 && decide ((s.spare g).since + max 16 (s.fld (Reg.PG_SPARE_TMR g) F.PG_SPARE_TMR_TIMEOUT) ≤ s.elapsed) then
    spareRes (setRx s g 0 0) g 3 (s.rxLane g)
  else s

/-- AUTO_REQUEST_PAUSE_END (R70): the 8,000 frames have passed; a lane that is still failed or degraded is a need again. -/
def pauseEnd (s : State) (g : Nat) : State :=
  if (s.spare g).pauseTo ≠ 0 && (s.spare g).pauseTo ≤ s.elapsed then autoNeeds (s.updSpare g fun x => { x with pauseTo := 0 }) g else s

/-- SPARE_REQUEST (R70, R72). -/
def spareRequest (s : State) (g l : Nat) : State :=
  if !s.sparing g || !s.spareable g l then spareRes s g 2 l else spareNeed s g l 1

/-- SPARE_RELEASE (R70): only of the lane that is SELECTED. DESIGN CHOICE (log entry 115): any other is answered with outcome 2. -/
def spareRelease (s : State) (g l : Nat) : State :=
  if s.rxSt g = 3 && s.rxLane g = l then setRx s g 4 l else spareRes s g 2 l

/-- TX_BRIDGE (R69): starts at the next boundary while the far RX_MSG is NONE. DESIGN CHOICE (log entry 115): a far RX_MSG other than NONE is
answered with outcome 1. -/
def txBridge (s : State) (g l : Nat) : State :=
  if !s.sparing g || !s.spareable g l then spareRes s g 2 l
  else if s.txSt g ≠ 0 || msgCode (s.farRx g) ≠ 0 || (s.spare g).txWant.isSome then spareRes s g 1 l
  else s.updSpare g fun y => { y with txWant := some l }

/-- TX_UNBRIDGE (R69): UNBRIDGE_REQ until the far end stops sending SELECTED. DESIGN CHOICE (log entry 115): a lane that is not bridged is
answered with outcome 2. -/
def txUnbridge (s : State) (g l : Nat) : State :=
  if s.txSt g ≠ 0 && s.txSt g ≠ 4 && s.txLane g = l then setTx s g 4 l else spareRes s g 2 l

/-! Laser state (R55, R56). -/

/-- LASER_BRIDGE_START (R56): a fibre entering LOW_WARN starts a transmitter-initiated bridge in every group with AUTO_LASER
that it feeds, unless it feeds the spare there or the transmit spare is already bridging. -/
def laserBridges (s : State) (f : Nat) : State :=
  if f < 68 then
    (List.range 16).foldl (fun s i =>
      let x := fibreLane f i
      if s.flag (Reg.PG_SPARE_CTRL x.1) F.PG_SPARE_CTRL_AUTO_LASER && x.2 != 16 && s.sparing x.1 && s.spareable x.1 x.2
          && s.txSt x.1 == 0 && msgCode (s.farRx x.1) == 0 then
        let s := match (s.spare x.1).txWant with
          | some w => spareRes s x.1 1 w
          | none => s
        (setTx s x.1 2 x.2).updSpare x.1 fun y => { y with txSelf := true, txWant := none }
      else s) s
  else s

/-- Enter a laser state, latching PG_ELS_EVT on LOW_WARN and LOW_FAIL (R55). -/
def setEls (s : State) (f st : Nat) : State :=
  let s := (s.setFld (Reg.PG_ELS_STAT f) F.PG_ELS_STAT_STATE st).setElsRuns f (0, 0)
  let s := if 2 ≤ st then s.mapBit Reg.PG_ELS_EVT_0 f else s
  if st = 2 then laserBridges s f else s

/-- ELS_STATE_CHANGE (R55): the moves that need a run of 80 or 800 frames. -/
def elsStateChange (s : State) (f : Nat) : State :=
  let r := s.elsRuns f
  let st := s.elsSt f
  if !s.flag (Reg.PG_ELS_STAT f) F.PG_ELS_STAT_DRIVEN then s
  else if st = 0 && 80 ≤ r.1 then setEls s f 1
  else if st = 2 && 80 ≤ r.1 then setEls s f 1
  else if (st = 0 || st = 1) && 80 ≤ r.2 then setEls s f 2
  else if st = 3 && 800 ≤ r.1 then setEls s f 2
  else s

/-- LASER_POWER_SAMPLE (R55): one sample of one fibre; LOW_FAIL is entered at once on power below FAIL. -/
def elsSample (s : State) (f : Nat) (pw : Int) : State :=
  let s := s.setFld (Reg.PG_ELS_STAT f) F.PG_ELS_STAT_PWR (unsext pw 16)
  let hi := decide (s.elsHighThr < pw)
  let s := if hi && !s.flag (Reg.PG_ELS_STAT f) F.PG_ELS_STAT_HIGH then s.mapBit Reg.PG_ELS_EVT_0 f else s
  let s := s.setFlag (Reg.PG_ELS_STAT f) F.PG_ELS_STAT_HIGH hi
  let st := s.elsSt f
  if !s.flag (Reg.PG_ELS_STAT f) F.PG_ELS_STAT_DRIVEN then s
  else if pw < s.elsFail && st ≠ 3 then setEls s f 3
  else
    let r := s.elsRuns f
    let rise := if st = 3 then decide (s.elsFail + 50 ≤ pw) else decide (s.elsWarn + 50 ≤ pw)
    s.setElsRuns f (if rise then min 800 (r.1 + 1) else 0, if pw < s.elsWarn then min 80 (r.2 + 1) else 0)

/-- ELS_EN of every fibre as its conditions stand now (R54): a deasserted fibre is OFF (R55). -/
def elsDrive (s : State) : State :=
  let want := (List.range 72).map s.elsEn
  (List.range 72).foldl (fun s f =>
    let on := want.getD f false
    if on = s.flag (Reg.PG_ELS_STAT f) F.PG_ELS_STAT_DRIVEN then s
    else
      let s := (s.setFlag (Reg.PG_ELS_STAT f) F.PG_ELS_STAT_DRIVEN on).setElsRuns f (0, 0)
      if on then s else s.setFld (Reg.PG_ELS_STAT f) F.PG_ELS_STAT_STATE 0) s

/-- The laser enable chain that the frame shifts out (R343, R349), bit f for fibre f: in RUN and TRIM ELS_EN, in QUIET all zero. -/
def elsChain (s : State) : State :=
  { s with elsCh := if s.running then ofBits ((List.range 72).map fun f => s.flag (Reg.PG_ELS_STAT f) F.PG_ELS_STAT_DRIVEN) else 0 }

/-- What an event of offset 0 changes of the conditions of ELS_EN shows at once: in the drive, and in the chain of the frame (R54, R343). -/
def elsReform (s : State) : State := if s.ofs = 0 && s.clk then elsChain (elsDrive s) else s

/-- MATE_LASER_MOVE (R53): the lane moves to the first modulator in order, two to a fibre from 68 to 71, whose fibre is OK and which passes
its bias check, when its own no longer serves. `biasOk`: the modulators that pass it. DESIGN CHOICE (log entry 137): the next usable modulator
is the first one in order, and a lane stays where it is while that serves, also when an earlier fibre is OK again. -/
def mateLaserMove (s : State) (m : Nat) (biasOk : List Nat) : State :=
  let usable := fun i => s.elsSt (68 + i / 2) == 1 && biasOk.contains i
  if s.ofs ≠ 0 || usable (2 * (s.mateFibre m - 68) + tabGet 0 s.mateMods m) then s
  else
    match (List.range 8).find? usable with
    | some i => { s.wr Reg.PG_ELS_MATE (putField (s.rd Reg.PG_ELS_MATE) ⟨2 * m, 2⟩ (i / 2)) with mateMods := tabSet 0 s.mateMods m (i % 2) }
    | none => s

/-! Sending (R59, R60). -/

/-- The bytes of a lane tag (R60). -/
def tagBytes (width portLane phys sf rxm txm : Nat) : List Byte :=
  let body := [byte (16 * width + portLane), byte phys] ++ beBytes sf 2 ++ beBytes rxm 2 ++ beBytes txm 2 ++ List.replicate 16 0
  beBytes tagAW 6 ++ body ++ beBytes (crc16 body) 2

/-- The code of a width in lanes: 2, 4, 8, 16 (R60). -/
def widthCode (w : Nat) : Nat := if w = 2 then 0 else if w = 4 then 1 else if w = 8 then 2 else 3

/-- A transmit lane sends light: an assigned use, not forced dark (from offset 1 of the frame on, R33), and a source that is enabled and has
not failed (R51, R54, R72). -/
def State.lit (s : State) (g l : Nat) : Bool :=
  s.running && s.domOn g && s.txUsed g l && !(if s.ofs = 0 then s.txDarkWas else s.txDark).contains (laneIdx g l)
    && s.flag (Reg.PG_ELS_STAT (laneFibre g l)) F.PG_ELS_STAT_DRIVEN && s.elsSt (laneFibre g l) != 3

/-- The lanes that start a superframe together with port `x`: its own, and the spare while it bridges one of them (R59, R69). -/
def State.portLanes (s : State) (x : PortDef) : List Nat :=
  ((List.range x.width).map (· + x.first)) ++
    (if s.txSt x.g ≠ 0 && x.first ≤ s.txLane x.g && s.txLane x.g < x.first + x.width then [16] else [])

/-- The tag that lane `l` of port `x` sends in its superframe number `sf`; the spare sends the tag of the lane it bridges, but for PHYS_LANE
(R60, R69). -/
def State.laneTagOf (s : State) (x : PortDef) (l sf : Nat) : List Byte :=
  let k := (if l = 16 then s.txLane x.g else l) - x.first
  tagBytes (widthCode x.width) k l sf (s.rxMsg x.g) (s.txMsg x.g)

/-- Port `x` starts a superframe: every lane of it that is lit, in one instant and with one SF_CNT (R59). -/
def portSend (s : State) (x : PortDef) : State :=
  let key := laneIdx x.g x.first
  let sf := tabGet 0 s.txSf key
  let s := (s.portLanes x).foldl (fun s l =>
    if s.lit x.g l then
      let k := (if l = 16 then s.txLane x.g else l) - x.first
      let s := s.send (.laneTag x.g l (s.laneTagOf x l sf) (.symbols (x.slice0 + 2 * k) (x.slice0 + 2 * k + 1)))
      if s.looped x.g l then tagIn s x.g l ⟨(s.lane x.g l).lockPos + tagPeriod, s.laneTagOf x l sf, s.now * 25 / 4⟩ else s
    else s) s
  { s with txSf := tabSet 0 s.txSf key ((sf + 1) % 65536) }

/-- The port whose superframe transmit lane `l` starts: that of the lane, or of the lane the spare bridges. -/
def State.sendPort (s : State) (g l : Nat) : Option PortDef :=
  if l = 16 then (if s.txSt g = 0 then none else s.portOfLane g (s.txLane g)) else s.portOfLane g l

/-- The superframe of an idle spare: its tag, then PRBS31 from all ones (R59). -/
def idleSend (s : State) (g : Nat) : State :=
  if s.spareMode g ≠ 0 && s.txSt g = 0 && s.lit g 16 then
    let sf := tabGet 0 s.txSf (laneIdx g 16)
    let t := tagBytes 15 0 16 sf (s.rxMsg g) (s.txMsg g)
    let s := { s with txSf := tabSet 0 s.txSf (laneIdx g 16) ((sf + 1) % 65536) }.send (.laneTag g 16 t (.prbs31 (2 ^ 31 - 1)))
    if s.looped g 16 then tagIn s g 16 ⟨(s.lane g 16).lockPos + tagPeriod, t, s.now * 25 / 4⟩ else s
  else s

/-- A transmit lane starts a superframe (R59): with every lane of its port, or as the idle spare. -/
def laneSend (s : State) (g l : Nat) : State :=
  match s.sendPort g l with
  | some x => portSend s x
  | none => if l = 16 then idleSend s g else s

/-! Lane events. -/

/-- LANE_LIGHT_LOSS (R70, R72): LIGHT is a power reading; a lane without assigned use latches and asks nothing (R51); the far light of a looped
lane is ignored. -/
def lightLoss (s : State) (g l : Nat) : State :=
  if s.flag (Reg.PG_LANE_STAT g l) F.PG_LANE_STAT_LIGHT && !s.looped g l then
    let t := s.setFlag (Reg.PG_LANE_STAT g l) F.PG_LANE_STAT_LIGHT false
    if s.rxUsed g l then autoNeed (t.evt (Reg.PG_LANE_EVT g l) F.PG_LANE_EVT_LIGHT_LOSS) g l 3 else t
  else s

/-- LANE_LIGHT_RETURN (R70, R72): the far light of a looped lane is ignored. -/
def lightReturn (s : State) (g l : Nat) : State := if s.looped g l then s else s.setFlag (Reg.PG_LANE_STAT g l) F.PG_LANE_STAT_LIGHT true

/-- A lane that has lost its assigned use is ignored: its lock and all it has found are gone (R51). -/
def laneUnused (s : State) (g l : Nat) : State :=
  if s.rxUsed g l || s.lane g l = {} then s
  else
    let s := (s.setFlag (Reg.PG_LANE_STAT g l) F.PG_LANE_STAT_TAG_LOCK false).setFlag (Reg.PG_LANE_STAT g l) F.PG_LANE_STAT_AM_LOCK false
    (s.setFld (Reg.PG_LANE_STAT g l) F.PG_LANE_STAT_CAND 0).updLane g l fun _ => {}

/-- LANE_DEGRADED (R70): 100 frames over THR, or 3 with an uncorrectable codeword. -/
def laneDegraded (s : State) (g l : Nat) : State :=
  let n := s.lane g l
  if !n.degraded && (100 ≤ n.corRun || 3 ≤ n.uncRun) then
    autoNeed (s.updLane g l fun n => { n with degraded := true }) g l 2
  else s

/-- The frame that ended last judged by its FEC counts (R65, R70): its runs of frames over THR and with uncorrectable codewords. -/
def Lane.judge (n : Lane) (thr : Nat) : Lane :=
  let c := if thr < n.endCor then min 100 (n.wasCor + 1) else 0
  let u := if 0 < n.endUnc then min 3 (n.wasUnc + 1) else 0
  { n with corRun := c, uncRun := u, degraded := n.wasDeg && (decide (100 ≤ c) || decide (3 ≤ u)) }

/-- The FEC counts of a lane at a frame boundary (R65, R70). -/
def laneFrame (s : State) (g l : Nat) : State :=
  let thr := s.fld (Reg.PG_SPARE_DEG g) F.PG_SPARE_DEG_THR
  s.updLane g l fun n =>
    ({ n with endCor := n.cor, endUnc := n.unc, wasCor := n.corRun, wasUnc := n.uncRun, wasDeg := n.degraded, cor := 0, unc := 0 } : Lane).judge thr

/-- The transmit lanes forced dark from this boundary on: those whose PG_LANE_CTRL.TX_OFF is set (R72). -/
def State.txOff (s : State) : List Nat :=
  (List.range 64).flatMap fun g =>
    ((List.range 17).filter fun l => s.flag (Reg.PG_LANE_CTRL g l) F.PG_LANE_CTRL_TX_OFF).map (laneIdx g)

/-- What a frame boundary does to lanes, ports and lasers: lanes forced dark, lane power readings, FEC runs, the frames of
verifications, PORT_DOWN, laser samples and then the drive of the frame that begins, PRBS counts of idle spares (R54, R55, R65, R72). -/
def opticalFrame (s : State) (inp : FrameInput) : State :=
  let s := { s with txDarkWas := s.txDark, txDark := s.txOff, elsIn := s.elsSet }
  let s := inp.lanePwr.foldl (fun s x => s.setFld (Reg.PG_LANE_STAT x.1 x.2.1) F.PG_LANE_STAT_RX_PWR (unsext x.2.2 12)) s
  let s := (s.lanes.map (·.1)).foldl (fun s i => laneUnused (laneFrame s (i / 17) (i % 17)) (i / 17) (i % 17)) s
  let s := (List.range 64).foldl verifyFrame s
  let s := match s.img with
    | some m => m.ports.foldl (fun s x => if s.portUp x.g x.p then s else s.count 0x83 x.idx 1) s
    | none => s
  let s := (List.range 72).foldl (fun s f =>
    match inp.els.find? (·.1 == f) with
    | some x => elsSample s f x.2
    | none => elsSample s f (sext (s.fld (Reg.PG_ELS_STAT f) F.PG_ELS_STAT_PWR) 16)) s
  let s := elsDrive s
  inp.prbs.foldl (fun s x =>
    if s.locked x.1 16 && !(s.lane x.1 16).placed && (s.lane x.1 16).width = 0 then
      s.wrPair (Reg.PG_SPARE_PRBS_LO x.1) (s.rdPair (Reg.PG_SPARE_PRBS_LO x.1) + x.2)
    else s) s

/-- Only while the group's domain is on do its lanes and registers act (R301, R329). -/
def State.inGroup (s : State) (g : Nat) (op : State → State) : State := if s.domOn g then op s else s

/-- LANE_LIGHT_LOSS (R70). -/
def execLaneLightLoss (g lane : Nat) (s : State) : Host.Outcome State Fault Refusal :=
  checked (.laneLightLoss g lane) s (s.inGroup g fun s => lightLoss s g lane)
/-- LANE_LIGHT_RETURN (R70). -/
def execLaneLightReturn (g lane : Nat) (s : State) : Host.Outcome State Fault Refusal :=
  checked (.laneLightReturn g lane) s (s.inGroup g fun s => lightReturn s g lane)
/-- LANE_DEGRADED (R70). -/
def execLaneDegraded (g lane : Nat) (s : State) : Host.Outcome State Fault Refusal :=
  checked (.laneDegraded g lane) s (s.inGroup g fun s => laneDegraded s g lane)
/-- SPARE_TIMEOUT (R70). -/
def execSpareTimeout (g : Nat) (s : State) : Host.Outcome State Fault Refusal := checked (.spareTimeout g) s (s.inGroup g fun s => spareTimeout s g)
/-- AUTO_REQUEST_PAUSE_END (R70). -/
def execAutoRequestPauseEnd (g : Nat) (s : State) : Host.Outcome State Fault Refusal :=
  checked (.autoRequestPauseEnd g) s (pauseEnd s g)
/-- SPARE_REQUEST (R70). -/
def execSpareRequest (g lane : Nat) (s : State) : Host.Outcome State Fault Refusal :=
  checked (.spareRequest g lane) s (s.host (Reg.PG_SPARE_CMD g) fun s => spareRequest s g lane)
/-- SPARE_RELEASE (R70). -/
def execSpareRelease (g lane : Nat) (s : State) : Host.Outcome State Fault Refusal :=
  checked (.spareRelease g lane) s (s.host (Reg.PG_SPARE_CMD g) fun s => spareRelease s g lane)
/-- TX_BRIDGE (R69). -/
def execTxBridge (g lane : Nat) (s : State) : Host.Outcome State Fault Refusal :=
  checked (.txBridge g lane) s (s.host (Reg.PG_SPARE_CMD g) fun s => txBridge s g lane)
/-- TX_UNBRIDGE (R69). -/
def execTxUnbridge (g lane : Nat) (s : State) : Host.Outcome State Fault Refusal :=
  checked (.txUnbridge g lane) s (s.host (Reg.PG_SPARE_CMD g) fun s => txUnbridge s g lane)
/-- SPARE_ACK (R72). -/
def execSpareAck (g seq : Nat) (s : State) : Host.Outcome State Fault Refusal :=
  checked (.spareAck g seq) s (s.host (Reg.PG_SPARE_ACK g) (·.ackRes (Reg.PG_SPARE_RES g) seq))
/-- ELS_STATE_CHANGE (R55). -/
def execElsStateChange (fibre : Nat) (s : State) : Host.Outcome State Fault Refusal := checked (.elsStateChange fibre) s (elsStateChange s fibre)
/-- MATE_LASER_MOVE (R53). -/
def execMateLaserMove (lane : Nat) (biasOk : List Nat) (s : State) : Host.Outcome State Fault Refusal :=
  checked (.mateLaserMove lane biasOk) s (mateLaserMove s lane biasOk)

end Sys2Proof.Machine
end

