-- ==== Sys2Proof/Machine/Stream.lean ====
section
/-! DEFINITION. ODU byte streams (R78, R106, R107): pieces of ODU frames, the maintenance signals the block generates, their rates, and the
overhead places of an ODU frame (R149; ITU-T G.709 where the spec names it: PRESUMED, log entry 120). -/

namespace Sys2Proof.Machine

/-- Bytes of a row of an ODU frame and of a frame: 4 rows of 3,824 columns (R149). -/
def oduRow : Nat := 3824
def oduBytes : Nat := 15296

/-- The frame alignment signal of OTU and ODU frames. PRESUMED (log entry 120): ITU-T G.709's. -/
def fasBytes : List Byte := [0xF6, 0xF6, 0xF6, 0x28, 0x28, 0x28]

/-- The byte at place `j` of a generated ODU frame: 1 - ODU-AIS, all ones but for FAS and MFAS (R78); 2 - ODU-LCK; 3 - ODU-OCI. PRESUMED (log
entry 120): G.709's patterns of the latter two. -/
def genByte (kind mfas j : Nat) : Byte :=
  if j < 6 then fasBytes.getD j 0 else if j = 6 then byte mfas else if kind = 1 then 0xFF else if kind = 2 then 0x55 else 0x66

/-- The bytes of a piece. -/
def Piece.data (p : Piece) : List Byte :=
  if p.kind = 0 || p.kind = 4 then p.bytes else (List.range p.len).map fun j => genByte p.kind p.mfas (p.off + j)

/-- A piece begins at an ODU frame start. -/
def Piece.starts (p : Piece) : Bool := p.off == 0 && decide (0 < p.len)

/-- Bytes of a list of pieces. -/
def pieceLen (l : List Piece) : Nat := l.foldl (fun n p => n + p.len) 0

/-- The first `n` bytes of a list of pieces, and the rest. -/
def cutPieces : Nat → List Piece → List Piece × List Piece
  | _, [] => ([], [])
  | n, p :: r =>
    if p.len ≤ n then
      let x := cutPieces (n - p.len) r
      (p :: x.1, x.2)
    else if n = 0 then ([], p :: r)
    else ([{ p with len := n, bytes := p.bytes.take n }], { p with off := p.off + n, len := p.len - n, bytes := p.bytes.drop n } :: r)

/-- The place of the first ODU frame start among the bytes of pieces (R107). -/
def firstStart : Nat → List Piece → Option Nat
  | _, [] => none
  | n, p :: r => if p.starts then some n else firstStart (n + p.len) r

/-- `n` bytes of a generated stream of kind `kind`, whole frame after whole frame: the pieces, the place of the next byte and its frame's
MFAS; `fuel` pieces at most. -/
def genPieces (kind : Nat) : Nat → Gen → Nat → List Piece × Gen
  | 0, g, _ => ([], g)
  | fuel + 1, g, n =>
    if n = 0 then ([], g)
    else
      let m := min n (oduBytes - g.off)
      let last := g.off + m == oduBytes
      let x := genPieces kind fuel { g with off := if last then 0 else g.off + m, mfas := if last then (g.mfas + 1) % 256 else g.mfas } (n - m)
      (⟨kind, g.off, g.mfas, m, []⟩ :: x.1, x.2)

/-- The rate of an ODU in 1/238 bit/s, in which the leaf carrier rate is whole (R105): the nominal one of its type, or the one the image declares,
where 4,277,738 kbit/s with k = 1 stands for the leaf carrier rate 4,259,840 × 3,824 / 3,808 kbit/s (R102, R149). -/
def OduDef.bps (d : OduDef) : Nat :=
  match d.ty with
  | 0 => 238 * 1244160000
  | 1 => 238 * 2498775126
  | 2 => 238 * 10037273924
  | 3 => 238 * 10399525316
  | 4 => 238 * 40319218983
  | 5 => 238 * 104794445815
  | _ => if d.k = 1 && d.rate = 4277738 then 239 * 4259840000 else 238 * (d.rate * 1000)

/-- Bytes an ODU of `bps` / 238 bit/s has sent by core cycle `t` (1.6 GHz). -/
def bytesBy (bps t : Nat) : Nat := bps * t / (238 * 12800000000)

/-- A generator sends up to core cycle `t`. -/
def Gen.run (g : Gen) (kind bps t : Nat) : List Piece × Gen :=
  let n := bytesBy bps t - bytesBy bps g.upTo
  let x := genPieces kind (n / oduBytes + 2) g n
  (x.1, { x.2 with upTo := t })

/-- The rest of the frame a generator has begun: a replacement ends on a frame start of the generated ODU (R78). -/
def Gen.finish (g : Gen) (kind : Nat) : List Piece × Gen := if g.off = 0 then ([], g) else genPieces kind 1 g (oduBytes - g.off)

/-- What replaces ODU frames is over at the next frame start: pieces from the first one on, `none` where there is none. -/
def fromStart : List Piece → List Piece
  | [] => []
  | p :: r => if p.starts then p :: r else fromStart r

/-- The pieces before the first frame start. -/
def beforeStart : List Piece → List Piece
  | [] => []
  | p :: r => if p.starts then [] else p :: beforeStart r

/-- A piece replaced by ODU-AIS in its place. -/
def Piece.ais (p : Piece) : Piece := { p with kind := 1, bytes := [] }

/-- The stream with the ODU frame that starts first replaced by ODU-AIS, and whether that frame still runs at the end: 1 - no frame has
started, 2 - it runs on, 0 - it has ended. -/
def aisFrame (l : List Piece) : List Piece × Nat :=
  match fromStart l with
  | [] => (l, 1)
  | p :: r =>
    let mid := beforeStart r
    (beforeStart l ++ p.ais :: mid.map Piece.ais ++ fromStart r,
      if (fromStart r).isEmpty && decide (p.len + pieceLen mid < oduBytes) then 2 else 0)

/-- Parity of the OPU bytes of a stream (columns 15 to 3,824): one byte at place `j` of its ODU frame. A frame carries the parity of the
second frame before it (PRESUMED, log entry 120). -/
def OpuBip.feed (b : OpuBip) (j : Nat) (x : Byte) : OpuBip :=
  let cur := if 14 ≤ j % oduRow then b.cur ^^^ x else b.cur
  if j + 1 = oduBytes then ⟨0, cur, b.one⟩ else { b with cur := cur }

/-- Bytes from place `off` of an ODU frame on. -/
def OpuBip.run : OpuBip → Nat → List Byte → OpuBip
  | b, _, [] => b
  | b, off, x :: r => OpuBip.run (b.feed (off % oduBytes) x) (off + 1) r

/-- The pieces of a stream. -/
def OpuBip.pieces (b : OpuBip) (l : List Piece) : OpuBip := l.foldl (fun b p => b.run p.off p.data) b

/-- The place of the field of TCM level `n` in an ODU frame: columns and row of G.709 (PRESUMED, log entry 120). -/
def tcmPlace (n : Nat) : Nat :=
  if n = 6 then oduRow + 4 else if n = 5 then oduRow + 7 else if n = 4 then oduRow + 10
  else if n = 3 then 2 * oduRow else if n = 2 then 2 * oduRow + 3 else 2 * oduRow + 6

/-- The places of the PM field and of the PSI byte (PRESUMED, log entry 120). -/
def pmPlace : Nat := 2 * oduRow + 9
def psiPlace : Nat := 3 * oduRow + 14

/-- The place of the APS/PCC bytes: row 4, columns 5 to 8; MFAS bits 6 to 8 say of which level (PRESUMED, log entry 120). -/
def apsPlace : Nat := 3 * oduRow + 4

/-- Bytes that the block writes into the ODU frames of a stream (R86, R187): `ov` names the byte for a place of the frame with an MFAS and the
parity of the second frame before it. Answers the pieces and the parity after them. -/
def overlayPieces (ov : Byte → Nat → Nat → Option Byte) : OpuBip → List Piece → List Piece × OpuBip
  | b, [] => ([], b)
  | b, p :: r =>
    let d := p.data.zipIdx.map fun x => (ov b.two p.mfas (p.off + x.2)).getD x.1
    let q := if p.data = d then p else { p with kind := 0, bytes := d }
    let x := overlayPieces ov (b.run p.off d) r
    (q :: x.1, x.2)

/-- A terminated level's field overwritten with zeros toward the trunk (R86). -/
def zeroTcm (level : Nat) (l : List Byte) : List Byte :=
  let p := tcmPlace level
  l.take p ++ ((l.drop p).take 3).map (fun _ => 0) ++ l.drop (p + 3)

/-- Every k-th piece of a list of pieces, from piece `i`. -/
def stride {α : Type} (k : Nat) : Nat → List α → List α
  | _, [] => []
  | 0, x :: l => x :: stride k (k - 1) l
  | i + 1, _ :: l => stride k i l

/-- The words of slot `j` of an object of `k` core slots in a frame (R107): the control word, then the slot's share of the valid bytes. -/
def objWords (k j fnLo : Nat) (start : Option Nat) (data : List Byte) : List Byte :=
  leBytes data.length 4 ++ leBytes (start.getD 0xFFFFFFFF) 4 ++ leBytes fnLo 4 ++ List.replicate 52 0
    ++ (stride (max 1 k) j (pieces 64 (data.length / 64 + 1) data)).flatten

/-- The valid bytes that the k slots of an object bring, with the words received in the stead of some of them (R123): the count of the
control word of slot 0 prevails, and bytes past a slot's own count are free (log entry 67). -/
def TrkFrame.data (f : TrkFrame) (k : Nat) : List Byte :=
  let d := (f.body.map Piece.data).flatten
  if f.alt.isEmpty then d
  else
    let c := match f.alt.find? (·.1 == 0) with
      | some a => min (leAt a.2 0 4) (85952 * k)
      | none => d.length
    (((List.range (c / 64 + 1)).map fun w =>
      match f.alt.find? (·.1 == w % max 1 k) with
      | some a =>
        let x := slice a.2 (64 * (w / max 1 k + 1)) 64
        x ++ (List.range (64 - x.length)).map fun j => Config.restByte (64 * w + x.length + j)
      | none => slice d (64 * w) 64).flatten).take c

end Sys2Proof.Machine
end

