-- ==== Sys2Proof/Machine/Overhead.lean ====
section
/-! DEFINITION. Overhead acceptance, defects, trail trace, consequent actions, GCC and APS channels
(spec/04_overhead_defects_pm.md R73 to R89, R99). -/

namespace Sys2Proof.Machine

/-- Received overhead of an entity. -/
def State.ohx (s : State) (e : Nat) : Oh := tabGet {} s.oh e

/-- Change the received overhead of an entity. -/
def State.updOh (s : State) (e : Nat) (f : Oh → Oh) : State := { s with oh := tabUpd {} s.oh e f }

/-- The receive side of an OTUC slice. -/
def State.slc (s : State) (v : Nat) : Slice := tabGet {} s.slices v

/-- Change the receive side of a slice. -/
def State.updSlc (s : State) (v : Nat) (f : Slice → Slice) : State := { s with slices := tabUpd {} s.slices v f }

/-- PM accumulation of an entity. -/
def State.pmx (s : State) (e : Nat) : Pm := tabGet {} s.pm e

/-- Change the PM accumulation of an entity. -/
def State.updPm (s : State) (e : Nat) (f : Pm → Pm) : State := { s with pm := tabUpd {} s.pm e f }

/-- An ODU at its monitoring point. -/
def State.oduS (s : State) (i : Nat) : Odu := tabGet {} s.odus i

/-- Change an ODU at its monitoring point. -/
def State.updOdu (s : State) (i : Nat) (f : Odu → Odu) : State := { s with odus := tabUpd {} s.odus i f }

/-! Trail trace (R82 to R84). -/

/-- The accepted TTI differs from the expected one in the compared bytes (R82, R83). -/
def timMismatch (mode : Nat) (acc exp : List Byte) : Bool :=
  let sapi := acc.take 16 != exp.take 16
  let dapi := slice acc 16 16 != slice exp 16 16
  if mode = 1 then sapi else if mode = 2 then dapi else if mode = 3 then sapi || dapi else false

/-- dTIM of entity `e`: absent before the first acceptance and in compare mode 0 (R83). -/
def State.timBad (s : State) (e : Nat) : Bool :=
  let x := s.ohx e
  let d := s.ohDef e
  !x.ttiAcc.isEmpty && timMismatch d.mode x.ttiAcc d.exp

/-- The TTI record of an entity (R84). -/
def ttiRecord (chg fn : Nat) (tti : List Byte) : List Byte :=
  leBytes chg 4 ++ leBytes fn 6 ++ List.replicate 6 0 ++ slice tti 0 64 ++ List.replicate 44 0 ++ leBytes chg 4

/-- Internal address of the region whose base an image register pair shows. -/
def State.base40 (s : State) (lo : Nat) : Nat := s.rd lo + 4294967296 * (s.rd (lo + 4) % 256)

/-- One byte of a 64-byte multiframe at index `i`: the bytes so far, and whether the multiframe in progress was broken, so that it and the
next one are not consecutive. -/
def mfByte (buf : List Byte) (i : Nat) (x : Byte) : List Byte × Bool :=
  if i = 0 then ([x], !buf.isEmpty) else if buf.length = i then (buf ++ [x], false) else ([], true)

/-- One byte of a TTI multiframe (R76): the same 64 bytes in 3 consecutive multiframes are accepted and recorded (R84). DESIGN CHOICE (log
entry 116): accepting again the value already accepted is no acceptance of R84. -/
def ttiByte (s : State) (e b mfas : Nat) (x : Byte) : State :=
  let o := s.ohx e
  let m := mfByte o.ttiBuf (mfas % 64) x
  let buf := m.1
  let had := if m.2 then 0 else o.ttiRun
  if buf.length = 64 then
    let run := if had ≠ 0 && o.ttiCand == buf then min 3 (had + 1) else 1
    let s := s.updOh e fun o => { o with ttiBuf := [], ttiCand := buf, ttiRun := run }
    if 3 ≤ run && o.ttiAcc != buf then
      let chg := (o.chg + 1) % 4294967296
      let s := s.updOh e fun o => { o with ttiAcc := buf, chg := chg }
      let s := s.memPut (s.base40 Reg.PM_TTI_BASE_LO + 128 * e) (ttiRecord chg s.fnN buf)
      s.setDef e b (s.timBad e)
    else s
  else s.updOh e fun o => { o with ttiBuf := buf, ttiRun := had }

/-! Counting of blocks (R90). -/

/-- One received block: `err` near-end errored, `ferr` far-end errored. In the boundary cycle it belongs to the frame before (R33). -/
def countBlock (s : State) (e : Nat) (err ferr : Bool) : State :=
  s.updPm e fun p =>
    let p := { p with blk := p.blk + 1, err := p.err + nat01 err, ferr := p.ferr + nat01 ferr }
    if s.ofs = 0 then { p with lastBlk := p.lastBlk + 1, lastErr := p.lastErr + nat01 err, lastFerr := p.lastFerr + nat01 ferr }
    else { p with fBlk := p.fBlk + 1, fErr := p.fErr + nat01 err, fFerr := p.fFerr + nat01 ferr }

/-- BEI 1 to 8 is a far-end errored block (R90). -/
def beiErr (bei : Nat) : Bool := decide (1 ≤ bei) && decide (bei ≤ 8)

/-! STAT, BDI, BIAE (R76, R77). -/

/-- Accept a STAT value and make the defects it names present or absent: (defect bit, value) pairs (R76, R77). -/
def statAccept (s : State) (e v : Nat) (codes : List (Nat × Nat)) : State :=
  let s := s.updOh e fun o => { o with stat := o.stat.feed 3 v }
  match (s.ohx e).stat.val with
  | some a => codes.foldl (fun s c => s.setDef e c.1 (a == c.2)) s
  | none => s

/-- BDI: set on 1 in 5 consecutive frames, cleared on 0 in 5 (R76). -/
def bdiAccept (s : State) (e b : Nat) (x : Bool) : State :=
  let s := s.updOh e fun o => { o with bdi := o.bdi.feed 5 5 x }
  s.setDef e b (s.ohx e).bdi.on

/-- dBIAE: BEI/BIAE = 1011 in 3 consecutive frames, cleared on any other value in 3 (R76). -/
def biaeAccept (s : State) (e b bei : Nat) : State :=
  let s := s.updOh e fun o => { o with biae := o.biae.feed 3 3 (bei == 11) }
  s.setDef e b (s.ohx e).biae.on

/-! GCC receive (R88). -/

/-- The channel of a port. -/
def gccKey (port ch : Nat) : Nat := 4 * port + ch

/-- The GCC channel is used: both its roles are named (R356). -/
def State.gccUsed (s : State) (port ch : Nat) : Bool :=
  (s.img.bind (·.role? 6 0 ch (handle 1 port))).isSome && (s.img.bind (·.role? 7 0 ch (handle 1 port))).isSome

/-- A GCC receive record (R88). -/
def gccRecord (port ch : Nat) (data : List Byte) : List Byte :=
  leBytes (handle 1 port) 4 ++ [byte ch, byte data.length, 0, 0] ++ slice data 0 56

/-- Post full records of 56 bytes; `fuel` records at most (R88). -/
def gccFull (port ch : Nat) : Nat → State → State
  | 0, s => s
  | n + 1, s =>
    let x := tabGet {} s.gcc (gccKey port ch)
    if x.rx.length < 56 then s
    else
      let s := s.postRole 6 0 ch (handle 1 port) (gccRecord port ch (x.rx.take 56))
      gccFull port ch n { s with gcc := tabSet {} s.gcc (gccKey port ch) { x with rx := x.rx.drop 56, since := s.elapsed } }

/-- Capture bytes of a channel in order (R88); an unused channel is ignored, and loss of the port stops capture. -/
def gccCapture (s : State) (port ch : Nat) (bytes : List Byte) : State :=
  if bytes.isEmpty || !s.gccUsed port ch || !s.portUp (port / 8) (port % 8) then s
  else
    let x := tabGet {} s.gcc (gccKey port ch)
    let y := { x with rx := x.rx ++ bytes, since := if x.rx.isEmpty then s.elapsed else x.since }
    let s := { s with gcc := tabSet {} s.gcc (gccKey port ch) y }
    gccFull port ch (bytes.length + 1) s

/-- GCC_FLUSH (R88): at the first boundary after a byte has waited for a whole frame, or at the next one after loss of the
port. -/
def gccFlush (s : State) (port ch : Nat) : State :=
  let x := tabGet {} s.gcc (gccKey port ch)
  let due := decide (x.since + 2 ≤ s.elapsed) || (!s.portUp (port / 8) (port % 8) && decide (x.since + 1 ≤ s.elapsed))
  if x.rx.isEmpty || !due then s
  else
    let s := s.postRole 6 0 ch (handle 1 port) (gccRecord port ch x.rx)
    { s with gcc := tabSet {} s.gcc (gccKey port ch) { x with rx := [] } }

/-- GCC_TX_RECORD (R88): take the oldest record of the transmit queue; a valid one is sent, an invalid one counted. -/
def gccTx (s : State) (port ch : Nat) : State :=
  match s.img.bind (·.role? 7 0 ch (handle 1 port)) with
  | some q =>
    match s.img.bind (·.queue? q) with
    | some d =>
      let x := s.que q
      if !d.fromHost || x.fill = 0 then s
      else
        let n := 16 * d.units
        let r := s.memGet (d.base + x.rd * n) n
        let s := s.setQue q { x with fill := x.fill - 1, rd := (x.rd + 1) % 2 ^ d.log2, stamps := x.stamps.drop 1 }
        let c := leAt r 5 1
        if leAt r 0 4 = handle 1 port && leAt r 4 1 = ch && 1 ≤ c && c ≤ 56 then s.send (.gcc port ch (slice r 8 c))
        else s.queDrop q 1
    | none => s
  | none => s

/-! OTUC frames (R62, R73 to R77). -/

/-- FEC counts of a frame (R65), in the boundary cycle of the frame that ended (R33); an uncorrectable codeword fails a verification in
progress on the lane (R70). -/
def fecCount (s : State) (g l cor unc : Nat) : State :=
  let s := s.incPair (Reg.PG_LANE_COR_LO g l) (Reg.PG_LANE_COR_WRAP g) l cor
  let s := s.incPair (Reg.PG_LANE_UNC_LO g l) (Reg.PG_LANE_UNC_WRAP g) l unc
  let s := (s.count 0x80 (laneIdx g l) cor).count 0x81 (laneIdx g l) unc
  let s := if unc ≠ 0 && verifyLane s g = l then s.updSpare g fun x => { x with bad := true } else s
  s.updLane g l fun n =>
    if s.ofs = 0 then ({ n with endCor := n.endCor + cor, endUnc := n.endUnc + unc } : Lane).judge (s.fld (Reg.PG_SPARE_DEG g) F.PG_SPARE_DEG_THR)
    else { n with cor := n.cor + cor, unc := n.unc + unc }

/-- The alignment marker of the instance of slice `v` in lane `l` (R62): lost after 5 consecutive errored ones, regained after 3 good ones.
AM_LOCK of the lane shows that both of its instances are aligned. -/
def amCheck (s : State) (x : PortDef) (l v : Nat) (good : Bool) : State :=
  let was := ((s.lane x.g l).am v).on
  let s := s.updLane x.g l fun n =>
    if v % 2 = 0 then { n with amA := n.amA.feed 3 5 good } else { n with amB := n.amB.feed 3 5 good }
  let n := s.lane x.g l
  let now := (n.am v).on
  let both := n.amA.on && n.amB.on
  let same := s.flag (Reg.PG_LANE_STAT x.g l) F.PG_LANE_STAT_AM_LOCK == both
  let s := s.setFlag (Reg.PG_LANE_STAT x.g l) F.PG_LANE_STAT_AM_LOCK both
  let s := if was && !now then s.evt (Reg.PG_LANE_EVT x.g l) F.PG_LANE_EVT_AM_ERR else s
  if was = now && same then s else groupEval s x.g

/-- One step of a search for frame starts (R62, R151): a candidate opens at an alignment word good enough to open one, is confirmed by 3
recurrences good enough to keep it at the exact distance with its count advancing by 1, and dies at its first miss; 8 at most are alive.
Answers the candidates and whether one was confirmed. -/
def frameSearch (cands : List FCand) (period modulus pos cnt : Nat) (hit keep : Bool) : List FCand × Bool :=
  let alive := cands.filter fun c => decide (pos ≤ c.pos + period)
  let rest := alive.filter fun c => c.pos + period != pos
  match alive.find? (fun c => c.pos + period == pos) with
  | some c =>
    if keep && cnt == (c.cnt + 1) % modulus then
      (if 3 ≤ c.conf + 1 then ([], true) else (rest ++ [⟨pos, c.conf + 1, cnt⟩], false))
    else if hit && rest.length < 8 then (rest ++ [⟨pos, 0, cnt⟩], false)
    else (rest, false)
  | none => (if hit && alive.length < 8 then alive ++ [⟨pos, 0, cnt⟩] else alive, false)

/-- The FAS of a slice with `wrong` wrong bits (R62), by the limits of R61: searched from at most 2 of them, recurring with at most 3, at the
exact frame distance with MFAS advancing by 1; in-frame ends after 5 consecutive errored ones, those with more than 3 (log entry 138). -/
def fasCheck (s : State) (v pos wrong mfas : Nat) : State :=
  let c := s.slc v
  let s :=
    if c.fas.on then s.updSlc v fun c => { c with fas := c.fas.feed 1 5 (decide (wrong ≤ 3)), fasPos := pos }
    else
      let x := frameSearch c.fasCands oduBytes 256 pos mfas (decide (wrong ≤ 2)) (decide (wrong ≤ 3))
      s.updSlc v fun c => { c with fasCands := x.1, fasPos := pos, fas := if x.2 then { on := true, ones := 1, zeros := 0 } else c.fas,
                                   mfas := if x.2 then {} else c.mfas }
  s.setDef (entOtuc v) 2 (!(s.slc v).fas.on)

/-- The MFAS of a slice in frame (R76): the expected successor runs on while in multiframe, and follows the received value
while out of it. -/
def mfasCheck (s : State) (v mfas : Nat) : State :=
  let c := s.slc v
  let ok := mfas == c.mfasNext
  let s := s.updSlc v fun c =>
    let f := c.mfas.feed 5 3 (!ok)
    { c with mfas := f, mfasNext := if f.on then (mfas + 1) % 256 else (if ok then mfas + 1 else c.mfasNext + 1) % 256 }
  s.setDef (entOtuc v) 3 (s.slc v).mfas.on

/-- The FlexO identification of slice `v` of a port, generated from the image (R57; log entry 24). -/
def PortDef.flexo (x : PortDef) (v : Nat) : Nat × Nat × Nat := Config.flexoIds x.slice0 x.width v

/-- FlexO identifiers (R76, R77): each accepted from 3 consecutive blocks with a good CRC; one that differs from the image's is dFIDM. -/
def flexoCheck (s : State) (x : PortDef) (v : Nat) (f : Bool × Nat × Nat × Nat) : State :=
  if f.1 then
    let s := s.updSlc v fun c => { c with fidG := c.fidG.feed 3 f.2.1, fidI := c.fidI.feed 3 f.2.2.1, fidM := c.fidM.feed 3 f.2.2.2 }
    let c := s.slc v
    let w := x.flexo v
    let differs := fun (a : Acc) (x : Nat) => a.val.isSome && a.val != some x
    if c.fidG.val.isSome || c.fidI.val.isSome || c.fidM.val.isSome then
      s.setDef (entOtuc v) 4 (differs c.fidG w.1 || differs c.fidI w.2.1 || differs c.fidM w.2.2)
    else s
  else s

/-- dMSIM of an ODU (R77): the accepted MSI of any of its slots differs from the image in type or tributary port. -/
def State.msimBad (s : State) (m : Image) (d : OduDef) : Bool :=
  (m.oduSlots d.idx).any fun t =>
    match (tabGet {} (s.slc (t / 20)).msi (t % 20) : Acc).val with
    | some a => a != d.ty * 65536 + d.tpn
    | none => false

/-- dMSIM is judged anew for an ODU. -/
def msimEval (s : State) (i : Nat) : State :=
  match s.img with
  | some m =>
    match m.odu? i with
    | some d => s.setDef (entOdu i) 0 (s.msimBad m d)
    | none => s
  | none => s

/-- MSI entries of a PSI multiframe (R76). -/
def msiAccept (s : State) (v : Nat) (l : List (Nat × Nat × Nat)) : State :=
  l.foldl (fun s e =>
    let s := s.updSlc v fun c => { c with msi := tabUpd {} c.msi e.1 fun a => a.feed 3 (e.2.1 * 65536 + e.2.2) }
    match s.img with
    | some m =>
      let h := m.slotOdu (20 * v + e.1)
      if h = 0 then s else msimEval s (hIdx h)
    | none => s) s

/-- What instance 0 of a port brings for the port (R74): SM and PM trace, BDI, IAE, STAT, PT and the GCC channels. No defect hangs on the
accepted SM STAT (R77). -/
def portOverhead (s : State) (x : PortDef) (v : Nat) (r : OtucRx) : State :=
  let e := entOtuc v
  let p := entPort x.idx
  let s := ttiByte s e 5 r.mfas r.smTti
  let s := bdiAccept s e 6 r.smBdi
  let s := s.updSlc v fun c => { c with iae := c.iae.feed 3 3 r.smIae }
  let s := s.setDef e 8 (s.slc v).iae.on
  let s := statAccept s e r.smStat []
  let s := ttiByte s p 3 r.mfas r.pmTti
  let s := bdiAccept s p 4 r.pmBdi
  let s := statAccept s p r.pmStat [(0, 7), (1, 5), (2, 6)]
  let s :=
    match r.pt with
    | some t =>
      let s := s.updSlc v fun c => { c with pt := c.pt.feed 3 t }
      (match (s.slc v).pt.val with
       | some a => s.setDef p 6 (a != 0x22)
       | none => s)
    | none => s
  gccCapture (gccCapture (gccCapture s x.idx 0 r.gcc0) x.idx 1 r.gcc1) x.idx 2 r.gcc2

/-- A frame of slice `v` from the lane that serves it (R62, R76): in-frame, a position off the expected one is no frame. Overhead is read
only while the slice is in frame. -/
def otucSlice (s : State) (x : PortDef) (v : Nat) (r : OtucRx) : State :=
  let inFrame := (s.slc v).fas.on
  if inFrame && r.pos != (s.slc v).fasPos + oduBytes then s
  else
    let s := fasCheck s v r.pos r.fas r.mfas
    let s := if inFrame then mfasCheck s v r.mfas else s.updSlc v fun c => { c with mfasNext := (r.mfas + 1) % 256 }
    if !(s.slc v).fas.on then s
    else
      let e := entOtuc v
      let s := match r.flexo with
        | some f => flexoCheck s x v f
        | none => s
      let s := countBlock s e (r.smBip != 0) (beiErr r.smBei)
      let s := if r.smBip ≠ 0 then s.count 0x90 v 1 else s
      let s := s.updOh e fun o => { o with bei := r.smBip }
      let s := biaeAccept s e 9 r.smBei
      let s := countBlock s (entPort x.idx) (r.pmBip != 0) (beiErr r.pmBei)
      let s := s.updSlc v fun c => { c with pmBei := r.pmBip }
      let s := msiAccept s v r.msi
      if v = x.slice0 then portOverhead s x v r else s

/-- The status registers follow what an event of the boundary cycle has changed in the sample of the frame before (R33, R75). -/
def lateStat (show_ : State → State) (s : State) : State := if s.ofs = 0 then show_ s else s

/-- One OTUC frame of slice `v` at the receiver of a lane. A lane out of lock delivers nothing (R61); every locked one counts its FEC results
and checks its markers, and the one that serves the port brings it the frame (R62, R63, R65). -/
def otucIn (s : State) (v : Nat) (r : OtucRx) : State :=
  match s.img.bind (·.portOfSlice v) with
  | some x =>
    if !s.locked x.g r.lane then s
    else
      let s := fecCount s x.g r.lane r.cor r.unc
      let s := match r.am with
        | some good => amCheck s x r.lane v good
        | none => s
      if s.portSource x ((v - x.slice0) / 2) = some r.lane then otucSlice s x v r else s
  | none => s

/-- OTUC_FRAME_RECEIVE (R76): a frame of the far signal; a looped lane ignores it (R72). -/
def otucFrame (s : State) (v : Nat) (r : OtucRx) : State := if s.looped (v / 32) r.lane then s else otucIn s v r

/-! ODU frames (R76, R85, R89). -/

/-- The group an ODU is a leg of (R87, R89). -/
def Image.groupOfOdu (m : Image) (i : Nat) : Option ProtDef :=
  m.prots.find? fun p => p.w == handle 2 i || p.p == handle 2 i

/-- Of the values accepted so far, newest first, those that a remote engine may still read (R26): the ones still under way and the newest one
that has arrived. -/
def seenTail (s : State) (l : List (Nat × List Byte)) : List (Nat × List Byte) :=
  l.takeWhile (fun x => !s.seenAt false x.1) ++ (l.dropWhile fun x => !s.seenAt false x.1).take 1

/-- The APS record (R89). -/
def apsRecord (i level : Nat) (v : List Byte) (fn : Nat) : List Byte :=
  leBytes (handle 2 i) 4 ++ [byte level, 0] ++ slice v 0 4 ++ leBytes fn 6

/-- APS_ACCEPT (R89): the same four bytes in 3 consecutive occurrences at the group's level; a record is posted when the
value changes and at the first acceptance after a restart. -/
def apsAccept (s : State) (i : Nat) (a : Nat × List Byte) : State :=
  match s.img.bind (·.groupOfOdu i) with
  | some p =>
    if a.1 ≠ p.level then s
    else
      let v := slice a.2 0 4
      let o := s.oduS i
      let run := if o.apsRun ≠ 0 && o.apsCand == v then min 3 (o.apsRun + 1) else 1
      let s := s.updOdu i fun o => { o with apsCand := v, apsRun := run }
      if 3 ≤ run && (o.apsFirst || o.apsAcc != some v) then
        let s := s.updOdu i fun o => { o with apsAcc := some v, apsFirst := false, apsLog := (s.now, v) :: seenTail s o.apsLog }
        s.postRole 2 (s.ownerQuad (handle 4 p.idx)) 0 0 (apsRecord i a.1 v s.fnN)
      else s
  | none => s

/-- The overhead of a monitored TCM position (R76, R77). -/
def tcmFrame (s : State) (i mfas : Nat) (t : TcmRx) : State :=
  if s.tcmUsed i t.m then
    let e := entTcm i t.m
    let s := countBlock s e (t.bip != 0) (beiErr t.bei)
    let s := s.updOh e fun o => { o with bei := t.bip }
    let s := statAccept s e t.stat [(0, 0), (1, 7), (2, 5), (3, 6), (7, 2)]
    let s := bdiAccept s e 5 t.bdi
    let s := biaeAccept s e 8 t.bei
    ttiByte s e 4 mfas t.tti
  else s

/-- A justification opportunity is good: its CRC is, and Cm lies in the range of the ODU (R76, R106). -/
def OduDef.jcOk (d : OduDef) (crc : Bool) (cm : Nat) : Bool :=
  let w := Config.cmRange d.ty d.k d.rate
  crc && decide (w.1 ≤ cm) && decide (cm ≤ w.2)

/-- What the demapper passes toward the trunk of a received frame (R78, R86, R107): nothing while the ODU is replaced, nor of the frame in
reception when a replacement ends; the field of a terminated level is zero. -/
def Odu.take (o : Odu) (term : Option Nat) (mfas : Nat) (data : List Byte) : Odu :=
  if o.rep ≠ 0 then o
  else if o.skip then { o with skip := false }
  else
    let b := match term with
      | some level => zeroTcm level data
      | none => data
    { o with rx := o.rx ++ [⟨0, 0, mfas, b.length, b⟩] }

/-- ODU_FRAME_RECEIVE (R76): one frame of a low-order ODU at its monitoring point; what it carries goes to the trunk inputs
of its slots (R107). -/
def oduFrame (s : State) (i : Nat) (r : OduRx) : State :=
  match s.img.bind (·.odu? i) with
  | some d =>
    let e := entOdu i
    let s := countBlock s e (r.bip != 0) (beiErr r.bei)
    let s := statAccept s e r.stat [(2, 7), (3, 5), (4, 6)]
    let s := bdiAccept s e 6 r.bdi
    let s := ttiByte s e 5 r.mfas r.tti
    let s := s.updOdu i fun o => { o with jc := o.jc.feed 3 3 (!d.jcOk r.jcCrc r.cm) }
    let s := s.setDef e 1 (s.oduS i).jc.on
    let s := r.tcm.foldl (fun s t => tcmFrame s i r.mfas t) s
    let s := match r.aps with
      | some a => apsAccept s i a
      | none => s
    s.updOdu i fun o => o.take ((s.tcmTerm i).map fun m => (s.ohDef (entTcm i m)).level) r.mfas r.data
  | none => s

/-! Consequent actions (R77, R78). -/

/-- Port-level conditions that replace every ODU of a port, by a reading of defects (R77). -/
def State.portSf (s : State) (x : PortDef) (rd : State → Nat → Nat → Bool) : Bool :=
  (x.slices.any fun v => (List.range 5).any fun b => rd s (entOtuc v) b)
    || (rd s (entOtuc x.slice0) 5 && s.timAct (entOtuc x.slice0))
    || rd s (entPort x.idx) 0 || rd s (entPort x.idx) 1 || rd s (entPort x.idx) 2 || rd s (entPort x.idx) 6
    || (rd s (entPort x.idx) 3 && s.timAct (entPort x.idx))

/-- TCM conditions of R77 for one position: dLTC, dAIS, dLCK, dOCI, and dTIM with TIM_ACT. -/
def State.tcmSf (s : State) (e : Nat) (rd : State → Nat → Nat → Bool) : Bool :=
  rd s e 0 || rd s e 1 || rd s e 2 || rd s e 3 || (rd s e 4 && s.timAct e)

/-- The server of an ODU is failed (R80): a defect with SF to every ODU of the port, dMSIM or dGMP. -/
def State.oduSsf (s : State) (i : Nat) (rd : State → Nat → Nat → Bool) : Bool :=
  (match s.img.bind (·.portOfOdu i) with
   | some x => s.portSf x rd
   | none => false) || rd s (entOdu i) 0 || rd s (entOdu i) 1

/-- A defect that replaces the ODU by ODU-AIS is active now (R77). -/
def State.aisCause (s : State) (i : Nat) : Bool :=
  s.oduSsf i State.defNow ||
    (match s.tcmTerm i with
     | some m => s.tcmSf (entTcm i m) State.defNow
     | none => false)

/-- The server of the ODUC PM of a port is failed (R80). -/
def State.oducSsf (s : State) (x : PortDef) (rd : State → Nat → Nat → Bool) : Bool :=
  (x.slices.any fun v => (List.range 5).any fun b => rd s (entOtuc v) b)
    || (rd s (entOtuc x.slice0) 5 && s.timAct (entOtuc x.slice0))

/-- SD contributions of the SM slices and the ODUC that carry an ODU (R77). -/
def State.portSd (s : State) (x : PortDef) (i : Nat) (rd : State → Nat → Nat → Bool) : Bool :=
  rd s (entPort x.idx) 5 ||
    (match s.img with
     | some m => (m.oduSlots i).any fun t => rd s (entOtuc (t / 20)) 7
     | none => false)

/-- The level at which an ODU is monitored for protection (R87): none for a leg of an SNC/I group, the path otherwise unless
its group names a TCM level. -/
def State.sfLevel (s : State) (i : Nat) : Option Nat :=
  match s.img.bind (·.groupOfOdu i) with
  | some p => if p.snci then none else some p.level
  | none => some 0

/-- The PM entity of ODU `i` at a level: its path, or the TCM position of that level (R85). -/
def State.levelEnt (s : State) (i level : Nat) : Option Nat :=
  if level = 0 then some (entOdu i)
  else ((List.range 3).map (entTcm i)).find? fun e => (s.img.bind (·.oh? e)).isSome && (s.ohDef e).level == level

/-- SF of an ODU (R87). -/
def State.oduSf (s : State) (i : Nat) (rd : State → Nat → Nat → Bool) : Bool :=
  s.oduSsf i rd ||
    (match (s.sfLevel i).bind (s.levelEnt i) with
     | some e =>
       if e = entOdu i then rd s e 2 || rd s e 3 || rd s e 4 || (rd s e 5 && s.timAct e) else s.tcmSf e rd
     | none => false)

/-- SD of the server of an ODU: the slices and the ODUC that carry it (R87). -/
def State.serverSd (s : State) (i : Nat) (rd : State → Nat → Nat → Bool) : Bool :=
  match s.img.bind (·.portOfOdu i) with
  | some x => s.portSd x i rd
  | none => false

/-- SD of an ODU (R87). -/
def State.oduSd (s : State) (i : Nat) (rd : State → Nat → Nat → Bool) : Bool :=
  s.serverSd i rd ||
    (match (s.sfLevel i).bind (s.levelEnt i) with
     | some e => if e = entOdu i then rd s e 7 else rd s e 6
     | none => false)

/-! Status registers (R99). -/

/-- Store a status register; a change latches its change bit. -/
def putStat (s : State) (a v chg bit : Nat) : State := if s.rd a = v then s else (s.wr a v).mapBit chg bit

/-- The trunk output of an ODU has no source in this frame, by its record and, for a bridge, its selector bit (R79, R101,
R118): it is sent as ODU-OCI. -/
def State.oci (s : State) (i : Nat) : Bool :=
  match s.img.bind (·.out? i) with
  | some d => d.kind == 0 || (d.kind == 3 && !tabGet false s.selF i)
  | none => true

/-- The status registers of one ODU (R99). LCK wins over AIS toward the trunk and over OCI toward the line (R79). -/
def oduStat (s : State) (i : Nat) : State :=
  let g := i / 640
  let t := i % 640
  let d := s.dfs (entOdu i)
  let v := 1 + 2 * (d.smp % 256) + 512 * nat01 (s.oduSsf i State.defSmp) + 1024 * nat01 (s.oduSf i State.defSmp)
    + 2048 * nat01 (s.oduSd i State.defSmp) + 4096 * nat01 ((s.oduS i).aisIns && !s.lckRx.contains i) + 8192 * nat01 (s.oci i && !s.lckTx.contains i)
  let s := putStat s (Reg.PG_ODU_STAT g t) v (Reg.PG_ODU_CHG g 0) t
  let pos := fun m => if s.tcmUsed i m then 1 + 2 * ((s.dfs (entTcm i m)).smp % 512) else 0
  let w := pos 0 + 1024 * pos 1 + 1048576 * pos 2 + 1073741824 * (match s.tcmTerm i with
    | some m => m + 1
    | none => 0)
  putStat s (Reg.PG_ODU_TCM_STAT g t) w (Reg.PG_ODU_CHG g 0) t

/-- The status registers of a port and its slices (R99). -/
def portStat (s : State) (x : PortDef) : State :=
  let s := x.slices.foldl (fun s v =>
    putStat s (Reg.PG_OTUC_STAT x.g (v % 32)) ((s.dfs (entOtuc v)).smp % 1024) (Reg.PG_OH_CHG x.g) (v % 32)) s
  putStat s (Reg.PG_ODUC_STAT x.g x.p)
    ((s.dfs (entPort x.idx)).smp % 128 + 128 * nat01 (s.oducSsf x State.defSmp)) (Reg.PG_OH_CHG2 x.g) x.p

/-- Every status register of the running image's ports and ODUs. -/
def allStat (s : State) : State :=
  match s.img with
  | some m => (m.odus.map (·.idx)).foldl oduStat (m.ports.foldl portStat s)
  | none => s

/-- dPD of a port at the end of a frame (R77): cleared when the port was UP throughout it. -/
def pdFrame (s : State) (x : PortDef) : State :=
  if s.portUp x.g x.p && !s.downSeen.contains x.idx then
    x.slices.foldl (fun s v =>
      { s with defs := tabUpd {} s.defs (entOtuc v) fun d => { d with cur := clrBit d.cur 0, acc := clrBit d.acc 0 } }) s
  else portDown s x

/-- DEFECT_SAMPLE (R75): dPD clears at ports UP throughout the frame (R77), the defects of the frame just ended are sampled,
and the status registers follow. -/
def defectSample (s : State) : State :=
  let ports := match s.img with
    | some m => m.ports
    | none => []
  let s := ports.foldl pdFrame s
  allStat { s with defs := sampleDefs s.defs, downSeen := (ports.filter fun x => !s.portUp x.g x.p).map (·.idx) }

/-- A replaced ODU's generator sends up to core cycle `t` (R78). -/
def Odu.genTo (o : Odu) (bps t : Nat) : Odu :=
  if o.rep = 0 then o
  else
    let x := o.gen.run o.rep bps t
    { o with rx := o.rx ++ x.1, gen := x.2 }

/-- What replaces an ODU toward the trunk becomes `want` at core cycle `t`: the generated frame begun is completed, a replacement begins at a
frame start, and the frame in reception when the last one ends is lost (R78). -/
def Odu.setRep (o : Odu) (want bps t : Nat) : Odu :=
  if want = o.rep then o
  else
    let o := o.genTo bps t
    let x := if o.rep = 0 then ([], { o.gen with off := 0 }) else o.gen.finish o.rep
    { o with rx := o.rx ++ x.1, gen := { x.2 with upTo := t }, rep := want, skip := want == 0 }

/-- LCK wins over AIS toward the trunk (R79). -/
def repSet (s : State) (i : Nat) : State :=
  match s.img.bind (·.odu? i) with
  | some d => s.updOdu i fun o => o.setRep (if s.lckRx.contains i then 2 else if o.aisIns then 1 else 0) d.bps s.now
  | none => s

/-- ODU_AIS_INSERT (R78): replacement starts while a defect that asks for it is active. -/
def aisInsert (s : State) (i : Nat) : State :=
  if s.aisCause i && !(s.oduS i).aisIns && (s.img.bind (·.odu? i)).isSome then
    oduStat (repSet (s.updOdu i fun o => { o with aisIns := true }) i) i
  else s

/-- ODU_AIS_REMOVE (R78). -/
def aisRemove (s : State) (i : Nat) : State :=
  if !s.aisCause i && (s.oduS i).aisIns then
    let s := repSet (s.updOdu i fun o => { o with aisIns := false }) i
    if (s.img.bind (·.odu? i)).isSome then oduStat s i else s
  else s

/-! Generated overhead (R74, R77, R86). -/

/-- Upstream BDI in SM of a port: codes 0x01 to 0x05 of any slice, or dTIM with TIM_ACT. -/
def State.smBdi (s : State) (x : PortDef) : Bool := s.oducSsf x State.defNow

/-- Upstream BDI in PM of a port. -/
def State.pmBdi (s : State) (x : PortDef) : Bool :=
  let p := entPort x.idx
  s.defNow p 0 || s.defNow p 1 || s.defNow p 2 || s.defNow p 6 || (s.defNow p 3 && s.timAct p)

/-- The tributary slots of a slice as the transmitted MSI shows them (R104): type and tributary port, or unallocated. -/
def Image.msiOf (m : Image) (v : Nat) : List (Option (Nat × Nat)) :=
  (List.range 20).map fun i =>
    let h := m.slotOdu (20 * v + i)
    if h = 0 then none else (m.odu? (hIdx h)).map fun d => (d.ty, d.tpn)

/-- What a superframe carries of the ODUs whose handle slot lies in slice `v`: their justification (R108), and the field of a terminated
level, over the signal from the trunk only, never over an LCK or OCI inserted here (R79, R86). -/
def sendOdus (s : State) (m : Image) (v : Nat) : State :=
  ((List.range 20).map (· + 20 * v)).foldl (fun s t =>
    match m.odu? t with
    | some d =>
      let r : Remap := tabGet {} s.remaps t
      let s := s.send (.jc t (Config.gmpCm d.k r.fill))
      (match (if s.lckTx.contains t || s.oci t then none else s.tcmTerm t) with
       | some p =>
         let e := entTcm t p
         s.send (.oh e ([byte (nat01 (s.tcmSf e State.defNow)), byte (s.ohx e).bei, byte (nat01 (s.defNow e 7)), 1, r.bip.two] ++ (s.ohDef e).tx))
       | none => s)
    | none => s) s

/-- The transmit side of a GCC channel has nothing to send: it is unused or its queue is empty (R88). -/
def State.gccIdle (s : State) (port ch : Nat) : Bool :=
  !s.gccUsed port ch ||
    (match s.img.bind (·.role? 7 0 ch (handle 1 port)) with
     | some q => (s.que q).fill == 0
     | none => true)

/-- The overhead a lane superframe carries for the two instances of port lane `k` (R57, R73, R74, R104): FlexO and section fields, SM then PM of
each (BDI, BEI, BIAE, STAT, BIP-8, TTI), the PSI, and what the ODUs of its slots carry. Per-port fields are the same in every instance,
BEI of SM is per slice and of PM per ODUC (R77); `sec`: MFAS and IAE of the superframe. DESIGN CHOICE (log entry 144): STAT of SM and of the
ODUC PM is 001, as R86 has it of a terminated TCM level. -/
def sendOverhead (s : State) (x : PortDef) (sec : Nat × Bool) (k : Nat) : State :=
  [0, 1].foldl (fun s j =>
    let v := x.slice0 + 2 * k + j
    let id := x.flexo v
    let bip := Config.txBip s.freeCount
    let s := (s.drawn.send (.flexo v id.1 id.2.1 id.2.2 0 0)).send (.otuc v fasBytes sec.1 sec.2)
    let s := s.send (.oh (entOtuc v) ([byte (nat01 (s.smBdi x)), byte (s.ohx (entOtuc v)).bei,
      byte (nat01 (s.defNow (entOtuc x.slice0) 8)), 1, bip.1] ++ (s.ohDef (entOtuc x.slice0)).tx))
    let s := s.send (.oh (entPort x.idx) ([byte (nat01 (s.pmBdi x)), byte (s.slc v).pmBei, 0, 1, bip.2] ++ (s.ohDef (entPort x.idx)).tx))
    let s := if v = x.slice0 then [0, 1, 2].foldl (fun s ch => if s.gccIdle x.idx ch then s.send (.gccFill x.idx ch) else s) s else s
    match s.img with
    | some m => sendOdus (s.send (.psi v 0x22 (m.msiOf v))) m v
    | none => s) s

/-- An OTUC frame of slice `v` as a looped lane `l` that sends it receives it (R72): what `sendOverhead` says it carries, the place and MFAS
next in the receiver's run (log entry 14), with good FAS, marker, FEC and parity. -/
def State.loopRx (s : State) (x : PortDef) (iae : Bool) (v l : Nat) : OtucRx :=
  let e := entOtuc x.slice0
  let p := entPort x.idx
  let c := s.slc v
  { lane := l, pos := c.fasPos + oduBytes, fas := 0, am := some true, mfas := c.mfasNext, smBip := 0, smBei := (s.ohx (entOtuc v)).bei,
    smBdi := s.smBdi x, smIae := iae, smStat := 1, smTti := (s.ohDef e).tx.getD (c.mfasNext % 64) 0, pmBip := 0,
    pmBei := c.pmBei, pmBdi := s.pmBdi x, pmStat := 1, pmTti := (s.ohDef p).tx.getD (c.mfasNext % 64) 0, flexo := some (true, x.flexo v),
    pt := some 0x22,
    msi := match s.img with
      | some m => (m.msiOf v).zipIdx.filterMap fun y => y.1.map fun a => (y.2, a.1, a.2)
      | none => [],
    gcc0 := [], gcc1 := [], gcc2 := [], cor := 0, unc := 0 }

/-- The OTUC frames that the two instances of a superframe carry reach the receiver of a looped lane (R72): how many, a free value. -/
def loopBack (s : State) (x : PortDef) (iae : Bool) (l k : Nat) : State :=
  if s.looped x.g l && s.lit x.g l then
    (List.range (Config.loopFrames s.freeCount)).foldl (fun s _ =>
      [0, 1].foldl (fun s j => otucIn s (x.slice0 + 2 * k + j) (s.loopRx x iae (x.slice0 + 2 * k + j) l)) s) s.drawn
  else s

/-- LANE_SUPERFRAME_SEND (R59, R73, R74): the lanes of a port start a superframe together, each with the overhead of its two instances; a
spare that bridges a lane carries what that lane carries, also while the lane is dark (R69); a looped lane receives what it sends. -/
def superframeSend (s : State) (g l : Nat) : State :=
  let t := laneSend s g l
  match s.sendPort g l with
  | some x =>
    let carrier := fun k => (s.portLanes x).filter fun n => s.lit g n && ((if n = 16 then s.txLane g else n) == x.first + k)
    let sec := Config.txSection s.freeCount
    let t := ((List.range x.width).filter fun k => !(carrier k).isEmpty).foldl (fun t k => sendOverhead t x sec k) t.drawn
    (List.range x.width).foldl (fun t k => (carrier k).foldl (fun t n => loopBack t x sec.2 n k) t) t
  | none => t

/-- LANE_TAG_RECEIVE (R61). -/
def execLaneTagReceive (g lane : Nat) (tag : TagRx) (s : State) : Host.Outcome State Fault Refusal :=
  checked (.laneTagReceive g lane tag) s (s.inGroup g fun s => lateStat allStat (laneTag s g lane tag))
/-- SPARE_ACTION (R69). -/
def execSpareAction (g : Nat) (s : State) : Host.Outcome State Fault Refusal := checked (.spareAction g) s (s.inGroup g fun s => lateStat allStat (spareAction s g))
/-- SPARE_VERIFY_END (R70). -/
def execSpareVerifyEnd (g : Nat) (pass : Bool) (s : State) : Host.Outcome State Fault Refusal :=
  checked (.spareVerifyEnd g pass) s (s.inGroup g fun s => lateStat allStat (spareVerifyEnd s g pass))
/-- LANE_SUPERFRAME_SEND (R59). -/
def execLaneSuperframeSend (g lane : Nat) (s : State) : Host.Outcome State Fault Refusal := checked (.laneSuperframeSend g lane) s (superframeSend s g lane)
/-- OTUC_FRAME_RECEIVE (R76). -/
def execOtucFrameReceive (slice : Nat) (rx : OtucRx) (s : State) : Host.Outcome State Fault Refusal :=
  checked (.otucFrameReceive slice rx) s (s.inGroup (slice / 32) fun s => lateStat allStat (otucFrame s slice rx))
/-- ODU_FRAME_RECEIVE (R76). -/
def execOduFrameReceive (odu : Nat) (rx : OduRx) (s : State) : Host.Outcome State Fault Refusal :=
  checked (.oduFrameReceive odu rx) s (s.inGroup (odu / 640) fun s => lateStat allStat (oduFrame s odu rx))
/-- ODU_AIS_INSERT (R78). -/
def execOduAisInsert (odu : Nat) (s : State) : Host.Outcome State Fault Refusal := checked (.oduAisInsert odu) s (aisInsert s odu)
/-- ODU_AIS_REMOVE (R78). -/
def execOduAisRemove (odu : Nat) (s : State) : Host.Outcome State Fault Refusal := checked (.oduAisRemove odu) s (aisRemove s odu)
/-- GCC_FLUSH (R88). -/
def execGccFlush (port ch : Nat) (s : State) : Host.Outcome State Fault Refusal := checked (.gccFlush port ch) s (gccFlush s port ch)
/-- GCC_TX_RECORD (R88). -/
def execGccTxRecord (port ch : Nat) (s : State) : Host.Outcome State Fault Refusal := checked (.gccTxRecord port ch) s (gccTx s port ch)

end Sys2Proof.Machine
end

