-- ==== Sys2Proof/Machine/Pm.lean ====
section
/-! DEFINITION. Failures and performance: failure timers and alarm records (R80, R81), seconds (R90, R91), bins, closures,
history records and snapshots (R48, R92 to R98). Leaf PM entities (R172) use key 262,144 + v. -/

namespace Sys2Proof.Machine

/-! Entities. -/

/-- First key of the leaf PM entities (R172). -/
def leafKey : Nat := 262144

/-- The line PM entities that the image defines (R92). -/
def Image.pmLine (m : Image) : List Nat :=
  (m.ports.flatMap fun x => x.slices.map entOtuc) ++ m.ports.map (fun x => entPort x.idx)
    ++ m.odus.map (fun d => entOdu d.idx)
    ++ m.odus.flatMap (fun d => ((List.range 3).map (entTcm d.idx)).filter fun e => (m.oh? e).isSome)

/-- The declared leaf carriers (R143, R274). -/
def Image.carriers (m : Image) : List Nat :=
  (List.range ((m.rows secLEAFCAR 0).length)).filter fun c => bitAt (leAt (m.entry secLEAFCAR 0 c) 0 1) 0

/-- A leaf group the image defines (R19, R274): handle index, TYPE, number of leaves, monitor index, dGAIS monitored. -/
structure GroupDef where
  idx : Nat
  ty : Nat
  n : Nat
  mon : Option Nat
  gais : Bool
  deriving DecidableEq, Repr

/-- A LEAF_GROUP entry read from its bytes. -/
def groupDef (e : List Byte) : GroupDef :=
  { idx := leAt e 0 4 % 268435456, ty := leAt e 4 1, n := leAt e 6 2 + 1,
    mon := if leAt e 8 2 = 65535 then none else some (leAt e 8 2), gais := leAt e 10 1 == 1 }

/-- The leaf groups of the image. -/
def Image.groups (m : Image) : List GroupDef := (m.rows secLEAFGROUP 0).map groupDef

/-- The leaf PM entities that the image defines, as keys (R172). -/
def Image.pmLeaf (m : Image) : List Nat :=
  (m.groups.filterMap fun g => g.mon.map (leafKey + ·)) ++ m.carriers.map (leafKey + 65536 + ·)

/-- Every PM entity of the running image. -/
def State.pmAll (s : State) : List Nat :=
  match s.img with
  | some m => m.pmLine ++ m.pmLeaf
  | none => []

/-! Failures (R80, R81). -/

/-- First defect code and number of codes of a PM entity's kind (R77). -/
def entCodes (e : Nat) : Nat × Nat :=
  match pmEnt e with
  | .otuc _ => (0x01, 10)
  | .port _ => (0x10, 7)
  | .odu _ => (0x20, 8)
  | .tcm _ _ => (0x30, 9)
  | .none => (0, 0)

/-- The handle of the object a PM entity belongs to. -/
def State.entHandle (s : State) (e : Nat) : Nat :=
  match pmEnt e with
  | .otuc v =>
    (match s.img.bind (·.portOfSlice v) with
     | some x => handle 1 x.idx
     | none => 0)
  | .port i => handle 1 i
  | .odu i => handle 2 i
  | .tcm i _ => handle 2 i
  | .none => 0

/-- The server of an entity is failed in the last sample (R80). -/
def State.serverFailed (s : State) (e : Nat) : Bool :=
  match pmEnt e with
  | .odu i => s.oduSsf i State.defSmp
  | .tcm i _ => s.oduSsf i State.defSmp
  | .port i =>
    (match s.img.bind (·.port? (i / 8) (i % 8)) with
     | some x => s.oducSsf x State.defSmp
     | none => false)
  | _ => false

/-- A defect whose failure is not raised, and whose set timer holds, while the server is failed: STAT-based ones, dTIM, dDEG
and dBDI (R80). -/
def heldCode (code : Nat) : Bool :=
  (decide (0x10 ≤ code) && decide (code ≤ 0x15)) || (decide (0x22 ≤ code) && decide (code ≤ 0x27))
    || (decide (0x30 ≤ code) && decide (code ≤ 0x37))

/-- Failure timers of a defect code of an entity. -/
def failKey (e code : Nat) : Nat := e * 256 + code

/-- One frame of a failure timer: the defect was present or absent in the sample, and may be held (R80). DESIGN CHOICE (log entry 139): a held
set timer keeps its value only while the defect is present; a frame without the defect starts it anew. -/
def failTick (f : Fail) (present hold : Bool) : Fail :=
  if present then { f with clr := 0, set := if hold then f.set else min 16777216 (f.set + 1) }
  else if f.up then { f with set := 0, clr := min 16777216 (f.clr + 1) }
  else {}

/-- One frame of every failure timer of a list of defects of entity key `e`: first code, sample mask, hold rule, and the codes whose timers
stand still. -/
def failEnt (s : State) (e base n mask : Nat) (hold still : Nat → Bool) : State :=
  (List.range n).foldl (fun s b =>
    { s with fails := tabUpd {} s.fails (failKey e (base + b)) fun f =>
        if still (base + b) then f else failTick f (bitAt mask b) (hold (base + b)) }) s

/-- PM_FAIL_SET and PM_FAIL_CLR come into force at a frame boundary, 0 taken as 1 (R80, R100). -/
def failTimes (s : State) : State :=
  { s with failSet := max 1 (s.fld Reg.PM_FAIL_SET F.PM_FAIL_SET_FRAMES), failClr := max 1 (s.fld Reg.PM_FAIL_CLR F.PM_FAIL_CLR_FRAMES) }

/-- An alarm record (R81, R153): entity or handle, code, flags, FN. -/
def alarmRecord (w code flags fn : Nat) : List Byte :=
  leBytes w 4 ++ [byte code, byte flags] ++ leBytes fn 6 ++ [0, 0, 0, 0]

/-- The failure of a code of entity key `e` has completed its set timer and may be raised. -/
def State.failDue (s : State) (e code : Nat) : Bool :=
  let f : Fail := tabGet {} s.fails (failKey e code)
  !f.up && decide (s.failSet ≤ f.set)

/-- The failure of a code of entity key `e` has completed its clear timer. -/
def State.clearDue (s : State) (e code : Nat) : Bool :=
  let f : Fail := tabGet {} s.fails (failKey e code)
  f.up && decide (s.failClr ≤ f.clr)

/-- Mark a failure raised or cleared. -/
def setFail (s : State) (e code : Nat) (up : Bool) : State :=
  { s with fails := tabUpd {} s.fails (failKey e code) fun f => if up then { f with up := true } else {} }

/-- A failure of code `code` of entity key `e`, object `h`, is raised or cleared by the owner's duty, with its record; what it was is
kept until the owner's commit (R253, R254). -/
def failMove (s : State) (h role e code : Nat) (up : Bool) (rec : List Byte) : State :=
  let s := match s.owner h with
    | some g => { s with failBack := s.failBack ++ [(g, failKey e code, tabGet {} s.fails (failKey e code))] }
    | none => s
  (setFail s e code up).postOwned h role rec

/-- FN of the frame whose sample completed a timer judged after its boundary. -/
def State.prevFn (s : State) : Nat := (s.fnN + 2 ^ 48 - 1) % 2 ^ 48

/-- FAILURE_RAISE of a line entity (R80, R81). -/
def lineRaise (s : State) (e code : Nat) : State :=
  if s.failDue e code && !(heldCode code && s.serverFailed e) && s.dutyUp (s.entHandle e) then
    failMove s (s.entHandle e) 1 e code true (alarmRecord e code 1 s.prevFn)
  else s

/-- FAILURE_CLEAR of a line entity (R80, R81). -/
def lineClear (s : State) (e code : Nat) : State :=
  if s.clearDue e code && s.dutyUp (s.entHandle e) then
    failMove s (s.entHandle e) 1 e code false (alarmRecord e code 0 s.prevFn)
  else s

/-! Seconds (R90, R91). -/

/-- Class of a second of one direction: ES, SES, BBE. Errored blocks that were discarded do not count (R90). -/
def classify (blk err : Nat) (dfct discard : Bool) : Bool × Bool × Nat :=
  let e := if discard then 0 else err
  let ses := dfct || (decide (0 < blk) && decide (15 * blk ≤ 100 * e))
  (dfct || decide (0 < e), ses, if ses then 0 else e)

/-- Add with saturation at 0xFFFF_FFFF: the sum and whether it saturated (R94). -/
def satAdd (v n : Nat) : Nat × Bool := if 4294967295 < v + n then (4294967295, true) else (v + n, false)

/-- Add eight increments to the counters of a bin, with its SAT flags (R94). -/
def Bin.add (b : Bin) (inc : List Nat) (frames : Nat) : Bin :=
  let r := List.zipWith satAdd b.cnt inc
  { b with cnt := r.map (·.1), frames := b.frames + frames,
           sat := ((List.range 8).filter fun i => (r.getD i (0, false)).2).foldl setBit b.sat }

/-- The increments a committed second brings (R91, R97; `grp`: the counters of a leaf group, R172). -/
def secInc (grp : Bool) (j : Sec) (ne fe : Bool) : List Nat :=
  let es := fun (a : Bool) (x : Bool) => nat01 (a && x)
  if grp then
    [es ne j.neEs, es ne j.neSes, nat01 (!ne), j.slips, es fe j.feEs, es fe j.feSes, nat01 (!fe), j.conflicts]
  else
    [if ne then j.neBbe else 0, es ne j.neEs, es ne j.neSes, nat01 (!ne), if fe then j.feBbe else 0, es fe j.feEs,
      es fe j.feSes, nat01 (!fe)]

/-- Availability after second k, from the ten seconds j to k (R91). -/
def availNext (avail : Bool) (ses : List Bool) : Bool :=
  if avail && ses.all id then false else if !avail && ses.all not then true else avail

/-- The end of a second (R90, R91): it joins the uncommitted ones; the second nine before it is committed to its bins. -/
def secEnd (p : Pm) (grp : Bool) (x : Sec) : Pm :=
  let l := p.secs ++ [x]
  let p := { p with blk := 0, err := 0, ferr := 0, neDef := false, feDef := false, discardNe := false, discardFe := false,
                    slips := 0, conflicts := 0 }
  if l.length < 10 then { p with secs := l }
  else
    let ne := availNext p.neAvail (l.map (·.neSes))
    let fe := availNext p.feAvail (l.map (·.feSes))
    match l with
    | j :: rest =>
      let inc := secInc grp j ne fe
      let up := fun (q : Nat) (bs : List Bin) => bs.map fun b => if b.serial = q then b.add inc j.frames else b
      { p with secs := rest, neAvail := ne, feAvail := fe, bins15 := up j.bin15 p.bins15, bins24 := up j.bin24 p.bins24 }
    | [] => p

/-- The serial of the bin that the frames before this boundary lie in: a bin closed at this offset 0 is theirs (R33, R93). -/
def Series.ended (x : Series) (elapsed : Nat) : Nat :=
  match x.waiting.find? (·.2 == elapsed) with
  | some w => w.1
  | none => x.serial

/-- The second in progress of an entity, as it stands (R90). -/
def State.secNow (s : State) (p : Pm) (extraNe : Bool) : Sec :=
  let n := classify p.blk p.err (p.neDef || extraNe) p.discardNe
  let f := classify p.blk p.ferr p.feDef p.discardFe
  { neEs := n.1, neSes := n.2.1, neBbe := n.2.2, feEs := f.1, feSes := f.2.1, feBbe := f.2.2, frames := s.elapsed - max s.secStart p.from_,
    bin15 := s.s15.ended s.elapsed, bin24 := s.s24.ended s.elapsed, slips := p.slips, conflicts := p.conflicts }

/-- dDEG counters after a second (R90): bad when its errored blocks are at least DEGTHR per cent of its blocks, or when it
is a defect second; set and cleared after DEGM in a row. DESIGN CHOICE (log entry 143): DEGM = 0 is taken as 1. -/
def degJudge (p : Pm) (degm thr : Nat) : Pm × Option Bool :=
  let bad := p.neDef || (decide (0 < p.blk) && decide (thr * p.blk ≤ 100 * (if p.discardNe then 0 else p.err)))
  let m := max 1 degm
  if bad then
    let n := min m (p.degBad + 1)
    ({ p with degBad := n, degGood := 0 }, if m ≤ n then some true else none)
  else
    let n := min m (p.degGood + 1)
    ({ p with degGood := n, degBad := 0 }, if m ≤ n then some false else none)

/-- The defect bit of dDEG of a line entity (R77). -/
def degBit (e : Nat) : Nat :=
  match pmEnt e with
  | .otuc _ => 7
  | .port _ => 5
  | .odu _ => 7
  | _ => 6

/-- The end of a second of one line entity. -/
def lineSecond (s : State) (e : Nat) : State :=
  let d := s.ohDef e
  let r := degJudge (s.pmx e) d.degm d.degthr
  let s := s.updPm e fun _ => secEnd r.1 false (s.secNow r.1 false)
  match r.2 with
  | some on => s.setDefNext e (degBit e) on
  | none => s

/-- The end of a second of every line entity (R90). -/
def lineSeconds (s : State) : State :=
  match s.img with
  | some m => m.pmLine.foldl lineSecond s
  | none => s

/-! Samples into seconds. -/

/-- Near-end defects of the entity's own level that make a defect second (R90), in the last sample. -/
def State.ownDefect (s : State) (e : Nat) : Bool :=
  let any := fun (l : List Nat) => l.any (s.defSmp e)
  match pmEnt e with
  | .otuc v =>
    any [0, 1, 2, 3, 4] ||
      (match s.img.bind (·.portOfSlice v) with
       | some x => s.defSmp (entOtuc x.slice0) 5
       | none => false)
  | .port _ => any [0, 1, 2, 3, 6]
  | .odu _ => any [0, 1, 2, 3, 4, 5]
  | .tcm _ _ => any [0, 1, 2, 3, 4]
  | .none => false

/-- dBDI, dIAE and dBIAE of an entity in the last sample (R77, R90). dIAE of the first slice inhibits every slice. -/
def State.farDefect (s : State) (e : Nat) : Bool × Bool × Bool :=
  match pmEnt e with
  | .otuc v =>
    let e0 := match s.img.bind (·.portOfSlice v) with
      | some x => entOtuc x.slice0
      | none => e
    (s.defSmp e0 6, s.defSmp e0 8, s.defSmp e 9)
  | .port _ => (s.defSmp e 4, false, false)
  | .odu _ => (s.defSmp e 6, false, false)
  | .tcm _ _ => (s.defSmp e 5, s.defSmp e 7, s.defSmp e 8)
  | .none => (false, false, false)

/-- What the sample of a frame adds to the second in progress of a line entity and to its failure timers (R80, R90). -/
def lineSample (s : State) (e : Nat) : State :=
  let far := s.farDefect e
  let near := s.serverFailed e || s.ownDefect e
  let srv := s.serverFailed e
  let s := s.updPm e fun p =>
    { p with neDef := p.neDef || near, feDef := p.feDef || far.1, discardNe := p.discardNe || far.2.1,
             discardFe := p.discardFe || far.2.2 }
  let c := entCodes e
  failEnt s e c.1 c.2 (s.dfs e).smp (fun code => heldCode code && srv) fun _ => false

/-- The samples of the last frame enter the seconds and failure timers of the line entities. -/
def lineSamples (s : State) : State :=
  match s.img with
  | some m => m.pmLine.foldl lineSample s
  | none => s

/-- The counts of a frame that ends become those of the last frame (R252). -/
def Pm.roll (p : Pm) : Pm :=
  { p with prevBlk := p.lastBlk, prevErr := p.lastErr, prevFerr := p.lastFerr, lastBlk := p.fBlk, lastErr := p.fErr, lastFerr := p.fFerr,
           fBlk := 0, fErr := 0, fFerr := 0 }

/-- The frame of every line entity, after the sampling of R75: its sample is still to be taken up, since the boundary cycle
belongs to it (R33). -/
def pmFrame (s : State) : State :=
  let s := { s with smpDue := true }
  match s.img with
  | some m => m.pmLine.foldl (fun s e => s.updPm e Pm.roll) s
  | none => s

/-! Bins and closures (R48, R93 to R97). -/

/-- An empty bin of a series. -/
def newBin (serial first marks : Nat) : Bin :=
  { serial := serial, first := first, marks := marks, frames := 0, cnt := List.replicate 8 0, sat := 0 }

/-- Open the next bin of a series for every defined entity: the open one waits for its record (R93). -/
def binOpen (s : State) (day : Bool) (marks : Nat) : State :=
  let x := if day then s.s24 else s.s15
  let y := { x with serial := x.serial + 1, first := s.fnN, marks := marks, waiting := x.waiting ++ [(x.serial, s.elapsed)] }
  let s := if day then { s with s24 := y } else { s with s15 := y }
  s.pmAll.foldl (fun s e => s.updPm e fun p =>
    if day then { p with bins24 := p.bins24 ++ [newBin y.serial y.first marks] }
    else { p with bins15 := p.bins15 ++ [newBin y.serial y.first marks] }) s

/-- Mark the open bin of a series and every entity's bin of it. -/
def binMark (s : State) (day : Bool) (marks : Nat) : State :=
  let or := fun (a : Nat) => Nat.lor a marks
  let x := if day then s.s24 else s.s15
  let y := { x with marks := or x.marks }
  let s := if day then { s with s24 := y } else { s with s15 := y }
  let mk := fun (bs : List Bin) => bs.map fun b => if b.serial = x.serial then { b with marks := or b.marks } else b
  s.pmAll.foldl (fun s e => s.updPm e fun p =>
    if day then { p with bins24 := mk p.bins24 } else { p with bins15 := mk p.bins15 }) s

/-- DAY_SHIFT as acted upon: values 96 to 127 are taken as 0 (R50). -/
def State.dayShift (s : State) : Nat :=
  let v := s.fld Reg.FT_BIN_CTRL F.FT_BIN_CTRL_DAY_SHIFT
  if 96 ≤ v then 0 else v

/-- FN begins a 15-minute bin (R48). -/
def is15 (fn : Nat) : Bool := fn % 7200000 == 0

/-- FN begins a 24-hour bin under a day shift (R48). -/
def is24 (fn shift : Nat) : Bool := fn % 691200000 == 7200000 * shift

/-- BIN_15_MINUTE_START (R48): a change of DAY_SHIFT takes effect at a 15-minute boundary. -/
def bin15Start (s : State) : State :=
  if s.released && s.ofs = 0 && is15 s.fnN && s.s15.first != s.fnN then
    let s := binOpen s false 0
    let d := s.dayShift
    if s.s24.shift = d then s else { binMark s true 1 with s24 := { (binMark s true 1).s24 with shift := d } }
  else s

/-- BIN_24_HOUR_START (R48). -/
def bin24Start (s : State) : State :=
  if s.released && s.ofs = 0 && is24 s.fnN s.s24.shift && s.s24.first != s.fnN then binOpen s true 0 else s

/-- A 64-byte PM record (R97). -/
def pmRecord (seq ent kind first marks frames : Nat) (cnt : List Nat) (unc : Nat) : List Byte :=
  leBytes seq 4 ++ leBytes (ent + 262144 * kind) 4 ++ leBytes first 6 ++ leBytes marks 2 ++ leBytes frames 4
    ++ (cnt.map fun c => leBytes c 4).flatten ++ leBytes unc 4 ++ [0, 0, 0, 0] ++ leBytes seq 4

/-- The entity number a key shows in records: PM entity, or v of a leaf entity (R92, R173). -/
def keyEnt (k : Nat) : Nat := if leafKey ≤ k then k - leafKey else k

/-- Internal address of the history record of a key for closure `q` (R96, R173). -/
def State.histAddr (s : State) (k q : Nat) (day : Bool) : Nat :=
  if k < leafKey then
    s.base40 Reg.PM_HIST_BASE_LO + (if day then 0x60000000 + (k * 7 + q % 7) * 64 else (k * 96 + q % 96) * 64)
  else
    s.base40 Reg.LEAF_PM_BASE_LO
      + (if day then 0x18300000 + ((k - leafKey) * 7 + q % 7) * 64 else ((k - leafKey) * 96 + q % 96) * 64)

/-- Marks a closed bin's record shows: INCOMPLETE also when its frames differ from the nominal length (R94). -/
def closeMarks (b : Bin) (nominal : Nat) : Nat :=
  Nat.lor b.marks (if b.frames = nominal then 0 else 1) + 16 * b.sat

/-- Write the records of closure `q` of a series, one for every entity that has the bin (R93). -/
def closeWrite (s : State) (day : Bool) (q : Nat) : State :=
  let s := (s.pm.map (·.1)).foldl (fun s k =>
    let p := s.pmx k
    match (if day then p.bins24 else p.bins15).find? (fun b => b.serial == q) with
    | some b =>
      let s := s.memPut (s.histAddr k q day)
        (pmRecord q (keyEnt k) (nat01 day) b.first (closeMarks b (if day then 691200000 else 7200000)) b.frames b.cnt 0)
      s.updPm k fun p =>
        if day then { p with bins24 := p.bins24.filter (·.serial != q) } else { p with bins15 := p.bins15.filter (·.serial != q) }
    | none => s) s
  let s := s.wr (if day then Reg.PM_CLOSE24 else Reg.PM_CLOSE15) q
  s.evt Reg.PM_EVT (if day then F.PM_EVT_CLOSE24 else F.PM_EVT_CLOSE15)

/-- The closures of a series that are due: 72,000 frames after the first frame of the following bin, in order (R93). -/
def closeDue (s : State) (day : Bool) : State :=
  let x := if day then s.s24 else s.s15
  let due := x.waiting.filter fun w => decide (w.2 + 72000 ≤ s.elapsed)
  let s := due.foldl (fun s w => closeWrite s day w.1) s
  if day then { s with s24 := { s.s24 with waiting := s.s24.waiting.filter fun w => !due.contains w } }
  else { s with s15 := { s.s15 with waiting := s.s15.waiting.filter fun w => !due.contains w } }

/-- PM_CLOSURE_WRITE (R93). -/
def closureWrite (s : State) : State := closeDue (closeDue s false) true

/-- The bins that open at release or under INCOMPLETE and RELABEL (R45, R94). -/
def pmStart (s : State) (marks : Nat) : State :=
  let s := { s with s15 := { serial := 0, first := s.fnN, shift := 0 }, s24 := { serial := 0, first := s.fnN, shift := s.dayShift },
                    pm := [], secStart := s.elapsed }
  let s := binOpen (binOpen s false marks) true marks
  { s with s15 := { s.s15 with waiting := [] }, s24 := { s.s24 with waiting := [] } }

/-! Requests (R98). -/

/-- The open bin of a key and series. -/
def State.openBin (s : State) (k : Nat) (day : Bool) : Bin :=
  let x := if day then s.s24 else s.s15
  let p := s.pmx k
  ((if day then p.bins24 else p.bins15).find? fun b => b.serial == x.serial).getD (newBin x.serial x.first x.marks)

/-- A KIND 2 record of the committed counts (R97, R98). -/
def snapRecord (s : State) (k : Nat) (day : Bool) (seq : Nat) : List Byte :=
  let b := s.openBin k day
  pmRecord seq (keyEnt k) 2 b.first (b.marks + 16 * b.sat) b.frames b.cnt (s.pmx k).secs.length

/-- Place 64 bytes in sixteen data registers. -/
def putData (s : State) (a : Nat) (l : List Byte) : State :=
  (List.range 16).foldl (fun s i => s.wr (a + 4 * i) (leAt l (4 * i) 4)) s

/-- PM_RD_REQ (R98): ignored while a result is VALID or a request is pending. -/
def pmRdReq (s : State) (ent sel : Nat) : State :=
  if s.valid Reg.PM_RES || s.pmReq.isSome then s.evt Reg.PM_EVT F.PM_EVT_REQ_IGNORED
  else { s with pmReq := some ⟨ent, sel, s.elapsed, none⟩ }

/-- The snapshot of a request at the boundary after its write (R98): `key` in the counts, `defined` by the image, SEQ of its result. -/
def RdReq.take (r : RdReq) (s : State) (key : Nat) (defined : Bool) (seq : Nat) : RdReq :=
  if s.ofs = 0 && r.since + 1 = s.elapsed then
    { r with shot := some (if r.sel < 2 && defined then snapRecord s key (r.sel == 1) seq else []) }
  else r

/-- The next SEQ of a result register. -/
def State.nextSeq (s : State) (a : Nat) : Nat := (bits (s.rd a) 16 8 + 1) % 256

/-- The snapshot of the PM request is taken, anew after each event of the boundary cycle that changes the counts (R98). -/
def pmShoot (s : State) : State :=
  { s with pmReq := s.pmReq.map fun r => r.take s r.ent ((s.img.map (·.pmLine)).any (·.contains r.ent)) (s.nextSeq Reg.PM_RES) }

/-- A PM request at a frame boundary (R98): the result shows PENDING, and the snapshot is taken. -/
def pmBoundary (s : State) : State := if s.pmReq.isSome then pmShoot (s.pendRes Reg.PM_RES) else s

/-- The result of a request: its snapshot in the data registers, or E_FORMAT. -/
def putShot (s : State) (res data : Nat) (b : List Byte) : State :=
  if b.isEmpty then s.putRes res eFORMAT 0 else (putData s data b).putRes res cOK 0

/-- PM_SNAPSHOT (R98): the snapshot of the boundary that made the request pending is shown. -/
def pmSnapshot (s : State) : State :=
  match s.pmReq.bind (·.shot) with
  | some b => if s.isPending Reg.PM_RES then putShot { s with pmReq := none } Reg.PM_RES (Reg.PM_RES_DATA 0) b else s
  | none => s

/-- PM_RD_REQ (R98). -/
def execPmRdReq (ent sel : Nat) (s : State) : Host.Outcome State Fault Refusal :=
  checked (.pmRdReq ent sel) s (s.host Reg.PM_RD_REQ fun s => pmRdReq s ent sel)
/-- PM_SNAPSHOT (R98). -/
def execPmSnapshot (s : State) : Host.Outcome State Fault Refusal := checked .pmSnapshot s (pmSnapshot s)
/-- PM_RES_ACK (R98). -/
def execPmResAck (seq : Nat) (s : State) : Host.Outcome State Fault Refusal :=
  checked (.pmResAck seq) s (s.host Reg.PM_RES_ACK (·.ackRes Reg.PM_RES seq))
/-- BIN_15_MINUTE_START (R48). -/
def execBin15MinuteStart (s : State) : Host.Outcome State Fault Refusal := checked .bin15MinuteStart s (bin15Start s)
/-- BIN_24_HOUR_START (R48). -/
def execBin24HourStart (s : State) : Host.Outcome State Fault Refusal := checked .bin24HourStart s (bin24Start s)
/-- PM_CLOSURE_WRITE (R93). -/
def execPmClosureWrite (s : State) : Host.Outcome State Fault Refusal := checked .pmClosureWrite s (closureWrite s)

end Sys2Proof.Machine
end

