-- ==== Sys2Proof/Machine/Trunk.lean ====
section
/-! DEFINITION. The trunk switch (spec/05_trunk_switch.md): what its outputs carry frame by frame, selectors, latency, test
words, the patrol of its memories and the collision detector. -/

namespace Sys2Proof.Machine

/-! Connections (R101, R115). -/

/-- `o` is the handle slot of an output object of the image: an egress ODU or a declared leaf carrier (R101). -/
def Image.isOut (m : Image) (o : Nat) : Bool :=
  if o < 40960 then (m.odu? o).isSome else m.carriers.contains (o - 40960)

/-- Every output object of the image (R101). -/
def Image.outputs (m : Image) : List Nat := m.odus.map (·.idx) ++ m.carriers.map (40960 + ·)

/-- The record of output `o`; an output object without one has a record of kind 0 (R101). -/
def Image.outRec (m : Image) (o : Nat) : OutDef :=
  (m.out? o).getD { out := o, a := 0, b := 0, hasB := false, h := 0, kind := 0, init := false }

/-- The core slots of an output object: the tributary slots of its ODU, or the one slot of a leaf carrier (R16, R17). -/
def Image.outSlots (m : Image) (o : Nat) : List Nat := if o < 40960 then m.oduSlots o else [o]

/-- The output object that core slot `o` belongs to, by its handle slot (R16, R101). -/
def Image.outAt (m : Image) (o : Nat) : Option Nat :=
  if o < 40960 then (if m.slotOdu o = 0 then none else some (hIdx (m.slotOdu o))) else if m.isOut o then some o else none

/-- L of an output with a source (R115); 0 without one. -/
def OutDef.lat (d : OutDef) : Nat :=
  if d.kind = 0 then 0 else if 40960 ≤ d.out then 16400 else if 40960 ≤ d.a then 14600 + d.h else 12800 + d.h

/-- TRK_LAT of an output in the layout of R124. -/
def OutDef.latWord (d : OutDef) : Nat :=
  if d.kind = 0 then 0
  else d.lat + 65536 * (if 40960 ≤ d.out then 0 else d.h) + 1073741824 * nat01 (decide (40960 ≤ d.a)) + 2147483648

/-! Selectors (R118, R120). -/

/-- The initial selector bits of an image (R118). -/
def Image.initSel (m : Image) : List (Nat × Bool) :=
  m.outs.foldl (fun l d => if (d.kind = 2 || d.kind = 3) && d.init then tabSet false l d.out true else l) []

/-- A selector write: destination kind 1 - TRK_SEL, 2 - TRK_BRIDGE. A slot without such a selector in the running bank takes
no effect and latches SEL_NOSEL (R120). A write of the boundary cycle governs the frame that begins (R118). -/
def selWrite (s : State) (kind o : Nat) (b : Bool) : State :=
  let d := match s.img with
    | some m => (m.outRec o).kind
    | none => 0
  if (kind = 1 && d = 2) || (kind = 2 && d = 3) then
    lateStat allStat { s with selW := tabSet false s.selW o b, selF := if s.ofs = 0 then tabSet false s.selF o b else s.selF }
  else s.evt Reg.TRK_EVT F.TRK_EVT_SEL_NOSEL

/-! What an output carries (R79, R107 to R109, R113, R114). -/

/-- The bytes an input object has for the frame that ends, and what stays for the next one (R107): those demapped and those of the signals
that replace the ODU (R78, R79), k × 85,952 at most. -/
def State.inputCut (s : State) (m : Image) (demap : List (Nat × Nat)) (i : Nat) : List Piece × Odu :=
  let d := m.odu? i
  let o := (s.oduS i).genTo ((d.map OduDef.bps).getD 0) s.now
  let cap := 85952 * (d.map (·.k)).getD 1
  let n := match demap.find? (·.1 == i) with
    | some x => min x.2 cap
    | none => cap
  let x := cutPieces n o.rx
  (x.1, { o with rx := x.2 })

/-- The words that slot `t` of an input brings in the frame that ends (R107). -/
def State.inputWords (s : State) (m : Image) (demap : List (Nat × Nat)) (t fnLo : Nat) : List Byte :=
  let i := if t < 40960 then hIdx (m.slotOdu t) else t
  let l := m.outSlots i
  let b := (s.inputCut m demap i).1
  objWords l.length (l.takeWhile (· != t)).length fnLo (firstStart 0 b) (b.map Piece.data).flatten

/-- The source of an output under a selector bit (R101, R118). -/
def OutDef.source (d : OutDef) (sel : Bool) : Option Nat :=
  match d.kind with
  | 1 => some d.a
  | 2 => some (if sel then d.b else d.a)
  | 3 => if sel then some d.a else none
  | _ => none

/-- The source of an output object in the frame in progress. -/
def State.srcOf (s : State) (m : Image) (o : Nat) : Option Nat := (m.outRec o).source (tabGet false s.selF o)

/-- The content that the core slots of output `o` bring for the frame that ends: its source's, with the words of another slot in the place
of those a collision dropped (R101, R123). A leaf output behind an uncorrectable entry carries AIS in that frame (R114), and one that had
no carrier waits for an ODU frame start (R113). DESIGN CHOICE (log entry 145): a leaf output whose record has no source any more loses its
carrier at that offset 0. -/
def outFrame (s : State) (m : Image) (demap : List (Nat × Nat)) (o fnLo : Nat) : TrkFrame :=
  match s.srcOf m o with
  | none => { fnLo := fnLo }
  | some i =>
    let l := m.outSlots o
    let alt := (s.trkErr.filter fun x => l.contains x.1).map fun x =>
      ((l.takeWhile (· != x.1)).length, s.inputWords m demap x.2 fnLo)
    let b := (s.inputCut m demap i).1
    if 40960 ≤ o then
      let b := if (tabGet {} s.trkOut o : TrkFrame).kind = 3 then fromStart b else b
      let b := if s.trkAis.contains o then b.map Piece.ais else b
      if b.isEmpty then { fnLo := fnLo } else { kind := if alt.isEmpty then 0 else 4, fnLo := fnLo, body := b, alt := alt }
    else { kind := if alt.isEmpty then 0 else 4, fnLo := fnLo, body := b, alt := alt }

/-- A recentring on a stream (R109): AIS for the one ODU frame that starts next, and how far that has come. -/
def onceStep (once : Nat) (l : List Piece) : List Piece × Nat :=
  match once with
  | 0 => (l, 0)
  | 1 => aisFrame l
  | _ => ((beforeStart l).map Piece.ais ++ fromStart l, if (fromStart l).isEmpty then 2 else 0)

/-- AIS after an uncorrectable entry (R114): from the next frame start to the first frame start after a frame with good entries (DEDUCED, log
entry 52). -/
def badStep (bad : Nat) (now : Bool) (l : List Piece) : List Piece × Nat :=
  if now then ((if bad = 0 then beforeStart l else (beforeStart l).map Piece.ais) ++ (fromStart l).map Piece.ais, 2)
  else if bad = 2 then (l.map Piece.ais, 1)
  else if bad = 1 then ((beforeStart l).map Piece.ais ++ fromStart l, if (fromStart l).isEmpty then 1 else 0)
  else (l, 0)

/-- What the block writes over the frames of an egress ODU that come from the trunk: the field of a terminated TCM level (R86), and the four
APS/PCC bytes of a level (R187). -/
structure Ins where
  tcm : Option (Nat × List Byte × Nat × Bool) := none
  aps : Nat × List Byte := (0, [])
  deriving DecidableEq, Repr

/-- The byte that is written at place `j` of a frame. -/
def Ins.byteAt (x : Ins) (two : Byte) (mfas j : Nat) : Option Byte :=
  if apsPlace ≤ j && j < apsPlace + 4 && !x.aps.2.isEmpty && mfas % 8 = x.aps.1 then x.aps.2[j - apsPlace]?
  else
    match x.tcm with
    | some (level, tti, bei, bdi) =>
      let p := tcmPlace level
      if j = p then tti[mfas % 64]? else if j = p + 1 then some two
      else if j = p + 2 then some (byte (16 * bei + 8 * nat01 bdi + 1)) else none
    | none => none

/-- A frame of the remapper goes out: what it generates, then what comes from the trunk, with what the block writes over it. -/
def Remap.emit (r : Remap) (ins : Ins) (lead sig : List Piece) : Remap :=
  let x := overlayPieces ins.byteAt (r.bip.pieces lead) sig
  { r with out := lead ++ x.1, bip := x.2 }

/-- The remapper sends whole frames of a maintenance signal for the rest of a frame, after the pieces `lead`: 2 - ODU-LCK, 3 - ODU-OCI
(R79); its buffer is empty. -/
def Remap.maint (r : Remap) (ins : Ins) (kind bps t : Nat) (lead : List Piece) : Remap :=
  let g := if r.mode = kind then r.gen else { r.gen with off := 0 }
  let n := bytesBy bps t - bytesBy bps (t - 200000) - pieceLen lead
  let x := genPieces kind (n / oduBytes + 2) g n
  let r := r.emit ins [] lead
  { r with mode := kind, gen := { x.2 with upTo := t }, out := r.out ++ x.1, once := 0, bad := 0, bip := r.bip.pieces x.1, buf := [], fill := 0 }

/-- The remapper in a frame without a source (R113): what it holds of the source it had goes on up to the next ODU frame start, ODU-OCI
follows. -/
def Remap.noSource (r : Remap) (ins : Ins) (bps t : Nat) (tail : List Piece) : Remap :=
  let held := r.buf ++ tail
  if r.mode = 0 && !held.isEmpty && (fromStart held).isEmpty then { r.emit ins [] held with buf := [] }
  else { r.maint ins 3 bps t (if r.mode = 0 then beforeStart held else []) with src := none }

/-- A source begins at its first ODU frame start, after the maintenance signal sent so far (R113): the buffer keeps the hold of `hold` bytes
(R108). -/
def Remap.begin_ (r : Remap) (ins : Ins) (body : List Piece) (hold t : Nat) : Remap :=
  let live := fromStart body
  let x := cutPieces (pieceLen live - hold) live
  let n := pieceLen (beforeStart body) + min hold (pieceLen live)
  let lead := genPieces r.mode (n / oduBytes + 2) r.gen n
  { r.emit ins lead.1 x.1 with mode := 0, buf := x.2, fill := 0, gen := { lead.2 with upTo := t } }

/-- One frame of the remapper of a line output (R79, R108, R109, R113, R114): what its `k` core slots brought enters its buffer, and the bytes
that the rate filter asks for leave it; after LCK or OCI the source begins at an ODU frame start. `tail`: what the source it last had brings in
the frame; `hold`: the bytes of the output's hold. -/
def Remap.step (r : Remap) (ins : Ins) (c : TrkFrame) (tail : List Piece) (k bps hold t : Nat) (lck bad : Bool) : Remap :=
  let data := c.data k
  let body := if c.kind = 4 then [⟨4, 1, 0, data.length, data⟩] else c.body
  let n := pieceLen body
  let f := Config.remapFilter r.f1 r.f2 n
  let r := if c.kind = 3 then r else { r with f1 := f.1.1, f2 := f.1.2 }
  if lck then r.maint ins 2 bps t []
  else if c.kind = 3 then r.noSource ins bps t tail
  else if r.mode ≠ 0 then (if (fromStart body).isEmpty then r.maint ins r.mode bps t [] else r.begin_ ins body hold t)
  else
    let x := cutPieces f.2 (r.buf ++ body)
    let y := onceStep r.once x.1
    let z := badStep r.bad bad y.1
    { r.emit ins [] z.1 with buf := x.2, fill := r.fill + n - pieceLen x.1, once := y.2, bad := z.2 }

/-- ODU-LCK bits in force from this boundary on, of a bit map register of the port groups (R79). -/
def lckBits (s : State) (m : Image) (reg : Nat → Nat → Nat) : List Nat :=
  (m.odus.map (·.idx)).filter fun i => s.bit (reg (i / 640) (i % 640 / 32)) (i % 32)

/-- The words of output `o` pass through an entry of the connection memories (R114): bank, switch or middle position, place. -/
def State.behind (s : State) (m : Image) (e : Nat × Nat × Nat) (o : Nat) : Bool :=
  let d := m.outRec o
  let sel := tabGet false s.selF o
  match d.source sel with
  | some i =>
    e.1 == 3 && e.2.2 == o || ((m.outSlots o).zip (m.outSlots i)).any fun t =>
      let p := slotPlace t.1
      let mid := leAt (m.entry secEGR p.1 p.2) (if d.kind == 2 && sel then 2 else 0) 2
      if e.1 = 0 then slotPlace t.2 == e.2 else if e.1 = 1 then mid == e.2.1 && p.1 == e.2.2 else e.1 == 2 && p == e.2
  | none => false

/-- A connection-memory entry exists in this part (R1, R8): bank 0 - ingress switch, 1 - middle position and egress switch, 2 - egress switch,
each with its place, 3 - output record. -/
def Fuses.connEntry (f : Fuses) (e : Nat × Nat × Nat) : Bool :=
  if e.1 = 1 then decide (e.2.1 < 864) && f.sw e.2.2
  else if e.1 = 3 then decide (e.2.2 < 41472) && f.slot e.2.2
  else decide (e.1 < 3) && f.sw e.2.1 && decide (e.2.2 < 432)

/-- Record one patrol result: corrected errors, and the outputs behind each uncorrectable entry that exists (R114). -/
def patrol (s : State) (cor : Nat) (found : List (Nat × Nat × Nat)) : State :=
  let unc := found.filter s.fuses.connEntry
  let s := if cor = 0 then s
    else (((s.incPair Reg.TRK_ECC_COR_LO Reg.TRK_WRAP 1 cor).evt Reg.TRK_EVT F.TRK_EVT_ECC_COR).count 0x44 0 cor)
  if unc.isEmpty then s
  else
    let s := (((s.incPair Reg.TRK_ECC_UNC_LO Reg.TRK_WRAP 2 unc.length).evt Reg.TRK_EVT F.TRK_EVT_ECC_UNC).count 0x44 0 unc.length)
    match s.img with
    | some m => { s with trkAis := m.outputs.filter fun o => unc.any fun e => s.behind m e o }
    | none => s

/-- What the block writes over egress ODU `i`: its terminated TCM level as R77 and R86 have it, and its APS insertion field. -/
def State.insOf (s : State) (i : Nat) : Ins :=
  { tcm := (s.tcmTerm i).map fun p =>
      let e := entTcm i p
      ((s.ohDef e).level, (s.ohDef e).tx, if s.defNow e 7 then 11 else min 8 (s.ohx e).bei, s.tcmSf e State.defNow),
    aps := tabGet (0, []) s.apsTx i }

/-- The remapper of a line output. -/
def State.remapOf (s : State) (o : Nat) : Remap := tabGet {} s.remaps o

/-- What the outputs carried in the frame that ends (its FN given), and the remappers after it. -/
def trunkOut (s : State) (m : Image) (demap : List (Nat × Nat)) (endedFn : Nat) : State :=
  let t := m.outputs.map fun o => (o, outFrame s m demap o (endedFn % 4294967296))
  let rs := m.odus.foldl (fun l d =>
    match t.find? (·.1 == d.idx) with
    | some c =>
      let r := s.remapOf d.idx
      let src := (s.srcOf m d.idx).orElse fun _ => r.src
      let tail := match src with
        | some i => (s.inputCut m demap i).1
        | none => []
      tabSet {} l d.idx (({ r with src := src } : Remap).step (s.insOf d.idx) c.2 tail d.k d.bps (bytesBy d.bps (m.outRec d.idx).h) s.now (s.lckTx.contains d.idx) (s.trkAis.contains d.idx))
    | none => l) s.remaps
  let ins := m.odus.map (·.idx) ++ m.carriers.map (40960 + ·)
  let od := ins.foldl (fun l i => tabSet {} l i (s.inputCut m demap i).2) s.odus
  { s with trkOut := t.foldl (fun l x => tabSet ({} : TrkFrame) l x.1 x.2) [], remaps := rs, odus := od }

/-- The trunk takes the frame that ends (R107, R114): the patrol's findings, then the content of its outputs. -/
def trunkEnd (s : State) (inp : FrameInput) (endedFn : Nat) : State :=
  let s := patrol s inp.patrolCor inp.patrolUnc
  match s.img with
  | some m => trunkOut s m inp.demap endedFn
  | none => s

/-- The trunk at a frame boundary: the selector bits and LCK bits of the frame that begins, which the ODU status registers show (R118, R79,
R99). -/
def trunkFrame (s : State) : State :=
  let s := match s.img with
    | some (m : Image) =>
      m.odus.foldl (fun (s : State) (d : OduDef) => repSet s d.idx) { s with lckRx := lckBits s m Reg.PG_ODU_LCK_RX, lckTx := lckBits s m Reg.PG_ODU_LCK_TX }
    | none => s
  allStat { s with trkAis := [], trkErr := [], selOld := s.selF, selF := s.selW, injectSw := s.injectSw.filter fun x => decide (s.elapsed ≤ x.2) }

/-! Events (R109, R112, R123). -/

/-- The remapper of an output recentres: its bits latch, and one ODU frame of AIS goes out from the next frame start (R109, R117). -/
def recentre (s : State) (o : Nat) : State :=
  let s := (s.mapBit (Reg.TRK_REMAP_EVT 0) o).evt Reg.TRK_EVT F.TRK_EVT_REMAP
  { s.count 0x43 0 1 with remaps := tabUpd {} s.remaps o fun r => { r with once := 1, fill := 0 } }

/-- The fill of an output's remap buffer has left its window of 1,024 bytes per core slot around the hold (R108). -/
def State.outOfWindow (s : State) (m : Image) (o : Nat) : Bool := decide (1024 * (m.outSlots o).length < (s.remapOf o).fill.natAbs)

/-- REMAP_RECENTRE (R109): only a line output with a source has a remap buffer (R108). -/
def remapRecentre (s : State) (o : Nat) : State :=
  match s.img with
  | some m => if o < 40960 && (m.outRec o).kind ≠ 0 && s.outOfWindow m o then recentre s o else s
  | none => s

/-- INJECT (R112): one word that enters switch `sw` in the next frame; other values have no effect (R124). -/
def inject (s : State) (sw : Nat) : State :=
  if s.fuses.sw sw then { s with injectSw := s.injectSw ++ [(sw, s.elapsed + 1)] } else s

/-- The fixed rotation of the test routing (R112): the word that enters ingress switch `w` at position `p` of the `cyc`-th test cycle of frame
`fn` crosses at a middle position and leaves at an egress switch. In 8 frames every combination occurs. DESIGN CHOICE (log entry 119). -/
def testPlace (fn cyc p w : Nat) : Nat × Nat :=
  let x := (fn % 8 * 42 + cyc) * 432 + p
  (x % 864, (x / 864 + w) % 96)

/-- The ingress switch whose word the rotation brings to egress switch `e`. -/
def testSource (fn cyc p e : Nat) : Nat := (e + 192 - ((fn % 8 * 42 + cyc) * 432 + p) / 864) % 96

/-- FN of the frame an event belongs to (R33). -/
def State.frameFn (s : State) : Nat := if s.ofs = 0 then s.prevFn else s.fnN

/-- A test word differs from the one sent (R112): its header or its body. -/
def testBad (s : State) (sw pos : Nat) (w : TestRx) : Bool :=
  w.sw != sw || w.pos != pos || w.fn != s.frameFn % 65536 || w.body != Config.testBody sw pos (s.frameFn % 65536)

/-- An errored test word is counted at egress switch, or an errored link word of a quadrant at the hub (R112). -/
def testError (s : State) (link : Bool) (unit : Nat) : State :=
  let s := s.evt Reg.TRK_EVT F.TRK_EVT_TEST_ERR
  if link then (s.incPair (Reg.TRK_LINK_ERR_LO unit) Reg.TRK_LINK_WRAP unit 1).count 0x41 unit 1
  else (s.incPair (Reg.TRK_TEST_ERR_LO unit) (Reg.TRK_TEST_WRAP 0) unit 1).count 0x40 unit 1

/-- Links run between quadrant `q` and the hub: one of its time switches is present, as 71 and 95 are in a part without quadrants 2 and 3 but with
the leaf stage (R1). -/
def Fuses.links (f : Fuses) (q : Nat) : Bool := (List.range 24).any fun i => f.sw (24 * q + i)

/-- TEST_WORD_CHECK (R112): a word of a test cycle and an ingress position at egress switch `unit`, or a link word of quadrant `unit` at
the hub. The first word of the injected switch in its frame is errored by the injection. A unit the part lacks checks nothing (R8). -/
def testWord (s : State) (link : Bool) (unit cyc pos : Nat) (w : TestRx) : State :=
  if link then
    (if s.fuses.links unit && (w.sw / 24 != unit || testBad s w.sw pos w) then testError s true unit else s)
  else
    let sw := testSource s.frameFn cyc pos unit
    if !s.fuses.sw unit || !s.fuses.sw sw then s
    else
      let now := if s.ofs = 0 then s.elapsed - 1 else s.elapsed
      let hit := s.injectSw.contains (sw, now)
      let s := if hit then { s with injectSw := s.injectSw.erase (sw, now) } else s
      if testBad s sw pos w || hit then testError s false unit else s

/-- The output slots that read middle position `middle` at egress switch `egress` for a word of ingress switch `ingress`, under the
selector bits in force (R101, R110, R122). -/
def State.readers (s : State) (m : Image) (middle egress ingress : Nat) : List Nat :=
  m.outputs.flatMap fun o =>
    let d := m.outRec o
    let sel := tabGet false s.selF o
    match d.source sel with
    | some i => (((m.outSlots o).zip (m.outSlots i)).filter fun t =>
        let p := slotPlace t.1
        p.1 == egress && leAt (m.entry secEGR egress p.2) (if d.kind == 2 && sel then 2 else 0) 2 == middle
          && (slotPlace t.2).1 == ingress).map (·.1)
    | none => []

/-- The input slot whose word an ingress switch sends to a middle position (R110); an absent slot, whose words read 0, where none does. -/
def Image.midSource (m : Image) (ingress middle : Nat) : Nat :=
  match (List.range 432).find? (fun p => leAt (m.entry secING ingress p) 0 2 == middle && (m.entry? secING ingress p).isSome) with
  | some p => placeSlot ingress p
  | none => 41472

/-- MIDDLE_COLLISION (R123): the lower ingress switch's word passes, the other is dropped; the outputs fed by the dropped
word receive the other one at that position in the frame. Switches that the part lacks address nothing (R8). -/
def collision (s : State) (middle egress low high : Nat) : State :=
  if low = high || !s.fuses.sw egress || !s.fuses.sw low || !s.fuses.sw high then s
  else
    let clear := !s.flag Reg.TRK_EVT F.TRK_EVT_BREACH
    let s := (s.incPair Reg.TRK_BREACH_LO Reg.TRK_WRAP 0 1).count 0x42 0 1
    let s := if clear then s.wr Reg.TRK_BREACH_LOC (middle % 1024 + 1024 * (egress % 128) + 131072 * (max low high % 128)) else s
    let s := s.evt Reg.TRK_EVT F.TRK_EVT_BREACH
    match s.img with
    | some m => { s with trkErr := s.trkErr ++ (s.readers m middle egress (max low high)).map fun t => (t, m.midSource (min low high) middle) }
    | none => s

/-- REMAP_RECENTRE (R109). -/
def execRemapRecentre (output : Nat) (s : State) : Host.Outcome State Fault Refusal := checked (.remapRecentre output) s (remapRecentre s output)
/-- INJECT (R112). -/
def execInject (sw : Nat) (s : State) : Host.Outcome State Fault Refusal :=
  checked (.inject sw) s (s.host Reg.TRK_TEST_CMD fun s => inject s sw)
/-- TEST_WORD_CHECK (R112). -/
def execTestWordCheck (link : Bool) (unit : Nat) (place : Nat × Nat) (word : TestRx) (s : State) : Host.Outcome State Fault Refusal :=
  checked (.testWordCheck link unit place word) s (testWord s link unit place.1 place.2 word)
/-- MIDDLE_COLLISION (R123). -/
def execMiddleCollision (middle egress low high : Nat) (s : State) : Host.Outcome State Fault Refusal :=
  checked (.middleCollision middle egress low high) s (collision s middle egress low high)

end Sys2Proof.Machine
end

