-- ==== Sys2Proof/Machine/Leaf.lean ====
section
/-! DEFINITION. The leaf stage (spec/07_leaf_stage.md): carrier alignment and overhead, elastic stores and slips, the leaf
map's read pass, egress carriers, defects and performance. An ingress leaf is numbered L = carrier × 65,536 + position
(R162), and a slot 512 × position + carrier. -/

namespace Sys2Proof.Machine

/-! Places and settings. -/

/-- Defect and PM key of carrier `c` (R172). -/
def carKey (c : Nat) : Nat := leafKey + 65536 + c

/-- Defect key of the leaf group of handle index `g` (dGAIS). -/
def gaisKey (g : Nat) : Nat := leafKey + 131072 + g

/-- LEAF_CAR entry of a carrier (R274). -/
def Image.car (m : Image) (c : Nat) : List Byte := m.entry secLEAFCAR 0 c

/-- TIM_ACT of a carrier (R146). -/
def Image.carTimAct (m : Image) (c : Nat) : Bool := bitAt (leAt (m.car c) 0 1) 1

/-- Trace compare mode of a carrier (R146). -/
def Image.carCmp (m : Image) (c : Nat) : Bool := bitAt (leAt (m.car c) 0 1) 2

/-- LEAF_CAR_CFG of a carrier (R175). -/
def Image.carCfg (m : Image) (c : Nat) : Nat :=
  if m.carriers.contains c then leAt (m.car c) 1 1 + 256 + 512 * nat01 (m.carTimAct c) + 1024 * nat01 (m.carCmp c) else 0

/-- The leaf stage runs: present, powered, released. -/
def State.leafUp (s : State) : Bool := s.fuses.leaf && s.domOn 64 && s.released

/-- Carrier `c` is declared by the running image. -/
def State.carDeclared (s : State) (c : Nat) : Bool :=
  match s.img with
  | some m => m.carriers.contains c
  | none => false

/-- A carrier. -/
def State.car (s : State) (c : Nat) : Car := tabGet {} s.cars c

/-- Change a carrier. -/
def State.updCar (s : State) (c : Nat) (f : Car → Car) : State := { s with cars := tabUpd {} s.cars c f }

/-- Store a field of LEAF_CAR_STAT; a change latches the carrier's CHG bit (R175). -/
def carStat (s : State) (c : Nat) (f : Fld) (x : Nat) : State :=
  let a := Reg.LEAF_CAR_STAT c
  let t := s.setFld a f x
  if t.rd a = s.rd a then s else t.mapBit (Reg.LEAF_CAR_CHG 0) c

/-- IN_FRAME of a carrier (R151). -/
def State.inFrame (s : State) (c : Nat) : Bool := s.flag (Reg.LEAF_CAR_STAT c) F.LEAF_CAR_STAT_IN_FRAME

/-- RELEASING of a carrier (R155). -/
def State.releasing (s : State) (c : Nat) : Bool := s.flag (Reg.LEAF_CAR_STAT c) F.LEAF_CAR_STAT_RELEASING

/-- A carrier defect with consequent actions, by a reading of defects: codes 0x40 to 0x47, and 0x48 when TIM_ACT is set
(R145, R152). -/
def State.carSf (s : State) (c : Nat) (rd : State → Nat → Nat → Bool) : Bool :=
  ((List.range 8).any fun b => rd s (carKey c) b)
    || (rd s (carKey c) 8 && (match s.img with
        | some m => m.carTimAct c
        | none => false))

/-- Codes 0x40 to 0x44 of a carrier, by a reading of defects (R152). -/
def State.carSsf (s : State) (c : Nat) (rd : State → Nat → Nat → Bool) : Bool := (List.range 5).any fun b => rd s (carKey c) b

/-! Alignment (R151). -/

/-- The alignment word of a leaf carrier frame (R144). -/
def carAW : List Byte := [0xB2, 0x6C, 0x1D, 0xF4, 0x87, 0x3E]

/-- Bytes of a leaf carrier frame (R143). -/
def carBytes : Nat := 66560

/-- The carrier leaves in-frame (R151, R155): its store is emptied and the search starts again. -/
def carLost (s : State) (c : Nat) : State :=
  let s := (carStat s c F.LEAF_CAR_STAT_IN_FRAME 0)
  let s := carStat s c F.LEAF_CAR_STAT_RELEASING 0
  let s := s.setDef (carKey c) 5 true
  s.updCar c fun k => { k with cands := [], miss := 0, store := [], last := (0, []), bipNext := none, awAt := none }

/-- The carrier is confirmed in-frame (R151): no QL has been accepted since (R175). -/
def carFound (s : State) (c : Nat) (mfi : Nat) : State :=
  let s := (carStat s c F.LEAF_CAR_STAT_IN_FRAME 1).setDef (carKey c) 5 false
  let s := (s.wr (Reg.LEAF_CAR_QL c) (s.rd (Reg.LEAF_CAR_QL c) % 256)).setDef (carKey c) 6 false
  s.updCar c fun k => { k with mfi := {}, mfiNext := mfi, ql := {}, fmt := {}, trBuf := [], trRun := 0, bipNext := none }

/-! Received overhead (R145 to R148). -/

/-- dLOM (R151): the expected successor runs on while in multiframe and follows the received MFI while out of it. -/
def carMfi (s : State) (c mfi : Nat) : State :=
  let ok := mfi == (s.car c).mfiNext
  let s := s.updCar c fun k =>
    let f := k.mfi.feed 5 3 (!ok)
    { k with mfi := f, mfiNext := if f.on then (mfi + 1) % 64 else (if ok then mfi + 1 else k.mfiNext + 1) % 64 }
  s.setDef (carKey c) 6 (s.car c).mfi.on

/-- BIP (R145): the violated bits of the frame before, counted when that frame was received. -/
def carBip (s : State) (c : Nat) (bip : Byte) (all : List Byte) : State :=
  let k := s.car c
  let s := match k.bipNext with
    | some b =>
      let n := popCount (b ^^^ bip).toNat 8
      (s.incPair (Reg.LEAF_CAR_BIP_LO c) (Reg.LEAF_BIP_WRAP 0) c n).updCar c fun k => { k with rei := n }
    | none => s
  s.updCar c fun k => { k with bipNext := some (bip8 all) }

/-- dCTIM of a carrier under an image (R83, R146). -/
def State.carTimBad (s : State) (m : Image) (c : Nat) : Bool :=
  !(s.car c).trAcc.isEmpty && m.carCmp c && (s.car c).trAcc != slice (m.car c) 16 64

/-- One trace byte (R146): 64 bytes by MFI, accepted after 3 equal consecutive multiframes, recorded as R84 lays down. -/
def carTrace (s : State) (c mfi : Nat) (x : Byte) : State :=
  let k := s.car c
  let m := mfByte k.trBuf mfi x
  let buf := m.1
  let had := if m.2 then 0 else k.trRun
  if buf.length = 64 then
    let run := if had ≠ 0 && k.trCand == buf then min 3 (had + 1) else 1
    let s := s.updCar c fun k => { k with trBuf := [], trCand := buf, trRun := run }
    if 3 ≤ run && k.trAcc != buf then
      let chg := (k.trChg + 1) % 4294967296
      let s := s.updCar c fun k => { k with trAcc := buf, trChg := chg }
      let s := s.memPut (s.base40 Reg.LEAF_TRACE_BASE_LO + 128 * c) (ttiRecord chg s.fnN buf)
      (match s.img with
       | some m => s.setDef (carKey c) 8 (s.carTimBad m c)
       | none => s)
    else s
  else s.updCar c fun k => { k with trBuf := buf, trRun := had }

/-- QL (R148, R152): 64 equal bytes in a row are accepted; a change of the accepted value is dQLC. -/
def carQl (s : State) (c q : Nat) : State :=
  let s := s.updCar c fun k => { k with ql := k.ql.feed 64 q }
  let k := s.car c
  if 64 ≤ k.ql.run then
    let s := s.wr (Reg.LEAF_CAR_QL c) (k.ql.cand + 256)
    if k.qlOld = some k.ql.cand then s
    else
      let s := if k.qlOld.isSome then s.setDef (carKey c) 12 true else s
      s.updCar c fun k => { k with qlOld := some k.ql.cand, qlAge := s.elapsed }
  else s

/-- The 1,024 statuses of a frame with MFI `mfi`, in position order (R147). -/
def gscStatuses (oh : List Byte) : List Nat := (slice oh 512 512).flatMap fun b => [b.toNat / 16, b.toNat % 16]

/-- GSC (R147, R152): a good GCRC files the statuses with the FN of capture, a bad one leaves them as they were. -/
def carGsc (s : State) (c mfi : Nat) (oh : List Byte) : State :=
  let good := crc16 (slice oh 512 512) == beAt oh 12 2
  let s := if good then
      let p := c * 65536 + 1024 * mfi
      let old := Tab.getRange (fun _ => ({} : Gsc)) s.gscRx p 1024
      { s with gscRx := Tab.setRange (fun _ => ({} : Gsc)) s.gscRx p
                 (List.zipWith (fun v (o : Gsc) => ⟨v, s.fnN, s.now, o.st, o.fn⟩) (gscStatuses oh) old) }
    else (s.evt Reg.LEAF_EVT F.LEAF_EVT_GSC_CRC).count 0x63 c 1
  let s := s.updCar c fun k => { k with gcrc := k.gcrc.feed 8 8 (!good) }
  s.setDef (carKey c) 11 (s.car c).gcrc.on

/-- A frame of an in-frame carrier (R144 to R149, R154): its overhead is read and it enters the elastic store. -/
def carFrame (s : State) (c : Nat) (r : LeafRx) : State :=
  let oh := slice r.oh 0 1024
  let b := fun i => leAt oh i 1
  let mfi := b 6 % 64
  let s := carMfi s c mfi
  let bad := match (s.car c).bipNext with
    | some x => x != byte (b 8)
    | none => false
  let s := carBip s c (byte (b 8)) (oh ++ r.leaves.map (·.2))
  let s := countBlock s (carKey c) bad (beiErr (b 9 / 16))
  let s := s.updCar c fun k => { k with rdi := k.rdi.feed 5 5 (bitAt (b 9) 3), fmt := k.fmt.feed 3 (b 11) }
  let s := s.setDef (carKey c) 9 (s.car c).rdi.on
  let s := match (s.car c).fmt.val with
    | some v => s.setDef (carKey c) 7 (v != 1)
    | none => s
  let s := carTrace s c mfi (byte (b 10))
  let s := carQl s c (b 7)
  let s := carGsc s c mfi oh
  let kept := r.leaves.filter (fun x => decide (x.1 < 65536)) ++ oh.zipIdx.map fun x => (65536 + x.2, x.1)
  s.updCar c fun k => { k with store := k.store ++ [(s.now, kept)], awAt := some r.arr }

/-- What trunk output 40,960 + c brings ingress carrier c now (R17, R101): a source, and whether that source's own bytes and no
maintenance signal (R78, R79). -/
def State.leafIn (s : State) (c : Nat) : Bool × Bool :=
  match s.img.bind (fun m => s.srcOf m (40960 + c)) with
  | some i => (true, (s.oduS i).rep == 0)
  | none => (false, false)

/-- LEAF_CARRIER_FRAME (R151): a frame position of a declared carrier whose trunk output has a source; under a maintenance signal no
alignment word is met. In-frame, a position off the expected one is not a frame; five errored AW in a row end in-frame. -/
def leafCarrier (s : State) (c : Nat) (r : LeafRx) : State :=
  if !s.leafUp || !s.carDeclared c || !(s.leafIn c).1 then s
  else
    let aw := (s.leafIn c).2 && slice r.oh 0 6 == carAW
    let mfi := leAt r.oh 6 1 % 64
    let k := s.car c
    if s.inFrame c then
      if r.pos ≠ k.lockPos + carBytes then s
      else
        let miss := if aw then 0 else k.miss + 1
        let s := s.updCar c fun k => { k with lockPos := r.pos, miss := miss }
        if 5 ≤ miss then carLost s c else carFrame s c r
    else
      let x := frameSearch k.cands carBytes 64 r.pos mfi aw aw
      let s := s.updCar c fun k => { k with cands := x.1, lockPos := r.pos, miss := 0 }
      let s := carStat s c F.LEAF_CAR_STAT_CAND x.1.length
      if x.2 then carFrame (carFound s c mfi) c r else s

/-- DQLC_CLEAR (R152): 8,000 frames without a change of the accepted QL. -/
def dqlcClear (s : State) (c : Nat) : State :=
  if s.defNow (carKey c) 12 && decide ((s.car c).qlAge + 8000 ≤ s.elapsed) then s.setDef (carKey c) 12 false else s

/-! The ODUflex of a carrier in a device frame (R149, R152). -/

/-- PM STAT of a maintenance signal: ODU-AIS, ODU-LCK, ODU-OCI (R76, R152). -/
def maintStat (kind : Nat) : Nat := if kind = 1 then 7 else if kind = 2 then 5 else 6

/-- The PM STAT of the ODUflex frames that started in what a leaf output carried (R17): those of the client's frames are the operand's, and
a maintenance signal brings its own. -/
def odufStats (f : TrkFrame) (src : Bool) (client : List Nat) : List Nat :=
  let gen := (f.body.filter fun p => p.starts && p.kind != 0).map fun p => maintStat p.kind
  let own := if f.body.any (·.kind == 0) || (f.body.isEmpty && src) then client else []
  if (f.body.head?.map (·.kind == 0)).getD true then own ++ gen else gen ++ own

/-- dLOC, and PM STAT and PT acceptance of one carrier in the frame that ends. -/
def carOduf (s : State) (inp : FrameInput) (c : Nat) : State :=
  let x := (inp.oduf.find? (·.carrier == c)).getD ⟨c, [], [], 0⟩
  let f : TrkFrame := tabGet {} s.trkOut (40960 + c)
  let stats := odufStats f (s.leafIn c).1 x.stats
  if stats.isEmpty then (s.setDefEnd (carKey c) 0 true).updCar c fun k => { k with starts := 0, bei := 0 }
  else
    let s := s.updCar c fun k => { k with starts := min 2 (k.starts + 1), stat := stats.foldl (fun a v => a.feed 3 v) k.stat,
                                          pt := x.pts.foldl (fun a v => a.feed 3 v) k.pt, bei := min x.bip 8 }
    let k := s.car c
    let s := if 2 ≤ k.starts then s.setDefEnd (carKey c) 0 false else s
    let s := match k.stat.val with
      | some v => ((s.setDefEnd (carKey c) 1 (v == 7)).setDefEnd (carKey c) 2 (v == 5)).setDefEnd (carKey c) 3 (v == 6)
      | none => s
    match k.pt.val with
    | some v => s.setDefEnd (carKey c) 4 (v != 0x8C)
    | none => s

/-- What the leaf stage finds in the frame that ends, before it is sampled (R75). -/
def leafPre (s : State) (inp : FrameInput) : State :=
  if !s.leafUp then s
  else
    match s.img with
    | some m => m.carriers.foldl (fun s c => carOduf s inp c) s
    | none => s

/-! The write pass (R154 to R156). -/

/-- A controlled slip (R154): 0 - repeat, 1 - delete. -/
def slip (s : State) (c kind : Nat) : State :=
  let s := ((s.incPair (Reg.LEAF_CAR_SLIP_LO c) (Reg.LEAF_SLIP_WRAP 0) c 1).evt Reg.LEAF_EVT F.LEAF_EVT_SLIP).count 0x60 c 1
  let s := carStat s c F.LEAF_CAR_STAT_LAST_SLIP kind
  s.updPm (carKey c) fun p => { p with slips := p.slips + 1 }

/-- Release a frame of the store: `rest` stays, FILL shows the fill (R154). -/
def releaseFrame (s : State) (c : Nat) (f : Nat × List (Nat × Byte)) (rest : List (Nat × List (Nat × Byte))) : State :=
  (s.wr (Reg.LEAF_CAR_FILL c) ((s.now - f.1) % 524288)).updCar c fun k => { k with store := rest, last := f }

/-- The store of one in-frame carrier at offset 0 (R154, R155). -/
def carRelease (s : State) (c : Nat) : State :=
  let k := s.car c
  let fill := fun (f : Nat × List (Nat × Byte)) => s.now - f.1
  if s.releasing c then
    match k.store with
    | [] => slip (releaseFrame s c k.last []) c 0
    | x :: rest =>
      if fill x < 1000 then slip (releaseFrame s c k.last k.store) c 0
      else if fill x < 399000 then releaseFrame s c x rest
      else
        match rest with
        | y :: more => slip (releaseFrame s c y more) c 1
        | [] => slip (releaseFrame s c k.last []) c 0
  else
    match k.store.dropWhile (fun f => decide (300000 ≤ fill f)) with
    | x :: rest =>
      if 100000 ≤ fill x then carStat (releaseFrame s c x rest) c F.LEAF_CAR_STAT_RELEASING 1 else s
    | [] => s

/-- The write pass that offset 0 begins: every declared carrier releases; a carrier that is not releasing or had a defect
with consequent actions in the frame before is written as 0xFF (R156). -/
def writePass (s : State) (m : Image) : State :=
  let s := m.carriers.foldl (fun s c => if s.inFrame c then carRelease s c else s) s
  let live := m.carriers.filter fun c => s.releasing c && !s.carSf c State.defSmp
  let bytes := live.foldl (fun b c => (s.car c).last.2.foldl (fun b x =>
    if x.1 < 65536 then Tab.set memDefault b (c * 65536 + x.1) x.2 else b) b) ([] : List (Nat × Byte))
  { s with leafW := { live := live, bytes := bytes } }

/-- The byte of ingress leaf `l` in a half of the buffer. -/
def LeafHalf.at_ (h : LeafHalf) (l : Nat) : Byte :=
  if h.live.contains (l / 65536) then Tab.get memDefault h.bytes l else 0xFF

/-! The read pass (R162 to R168). -/

/-- The map entry of a slot (R162). -/
def Image.leafEnt (m : Image) (slot : Nat) : Nat := leAt (m.entry secLEAFMAP 0 slot) 0 4

/-- Selector record `r` (R165): A, B. -/
def Image.srec (m : Image) (r : Nat) : Nat × Nat :=
  let e := m.entry secSREC 0 r
  (leAt e 0 4 % 33554432, leAt e 4 4 % 33554432)

/-- The deferred entry that names a slot (R164): its source. -/
def Image.deferred (m : Image) (slot : Nat) : Option Nat :=
  match (m.rows secDEF 0).find? (fun e => bitAt (leAt e 0 4) 31 && leAt e 4 4 % 33554432 == slot) with
  | some e => some (leAt e 0 4 % 33554432)
  | none => none

/-- The ingress leaf an entry reads under selector bits; none for KIND 0 (R162). -/
def Image.leafSrc (m : Image) (sel : List (Nat × Bool)) (slot : Nat) : Option Nat :=
  let e := m.leafEnt slot
  match bits e 30 2 with
  | 1 => some (e % 33554432)
  | 2 =>
    let r := m.srec (e % 65536)
    some ((if tabGet false sel (e % 65536) then r.2 else r.1) + bits e 16 11)
  | 3 => m.deferred slot
  | _ => none

/-- SRAM bank of an ingress leaf (R163). -/
def leafBank (l : Nat) : Nat := (l % 65536 + l / 65536) % 256

/-- The losing reads of a cycle (R168), from its (slot, leaf) pairs in slot or lane order: the first leaf in a bank wins. DESIGN CHOICE (log
entry 140): two slots that name the same losing leaf are two losing reads. -/
def losers : List (Nat × Nat) → List (Nat × Nat) → List (Nat × Nat)
  | [], _ => []
  | x :: r, won =>
    match won.find? (fun w => w.1 == leafBank x.2) with
    | some w => if w.2 = x.2 then losers r won else (x.1, leafBank x.2) :: losers r won
    | none => losers r ((leafBank x.2, x.2) :: won)

/-- The reads of read cycle `r` (R163, R168): KIND 1 and KIND 2 entries. -/
def Image.cycleReads (m : Image) (sel : List (Nat × Bool)) (r : Nat) : List (Nat × Nat) :=
  ((List.range 256).map (· + 256 * r)).filterMap fun slot =>
    if bits (m.leafEnt slot) 30 2 = 3 then none else (m.leafSrc sel slot).map fun l => (slot, l)

/-- The reads of deferred cycle `d` (R164). -/
def Image.defReads (m : Image) (d : Nat) : List (Nat × Nat) :=
  ((List.range 256).map (· + 256 * d)).filterMap fun i =>
    let e := m.entry secDEF 0 i
    if bitAt (leAt e 0 4) 31 then some (leAt e 4 4 % 33554432, leAt e 0 4 % 33554432) else none

/-- Every lost read of a pass (R168): (cycle, deferred), slot, bank. -/
def Image.conflicts (m : Image) (sel : List (Nat × Bool)) : List ((Nat × Bool) × Nat × Nat) :=
  if (m.find secLEAFMAP 0).isNone then []
  else
    ((List.range 131072).flatMap fun r => (losers (m.cycleReads sel r) []).map fun x => ((r, false), x))
      ++ (List.range 1024).flatMap fun d => (losers (m.defReads d) []).map fun x => ((d, true), x)

/-- The egress leaf of slot `slot` lies in a clear-channel group (R158 to R161). -/
def Image.clearLeaf (m : Image) (slot : Nat) : Bool :=
  let l := slot % 512 * 65536 + slot / 512
  m.groups.any fun g => g.ty != 0 && decide (g.idx ≤ l) && decide (l < g.idx + g.n)

/-- The idle code of an egress leaf (R167). -/
def Image.idleCode (m : Image) (slot : Nat) : Byte := if m.clearLeaf slot then 0xFF else byte (leAt (m.car (slot % 512)) 1 1)

/-- The byte of egress leaf `slot` that a read pass gives (R167). -/
def LeafPass.byteOf (p : LeafPass) (slot : Nat) : Byte :=
  match p.img with
  | some m =>
    if p.lost.contains slot then m.idleCode slot
    else
      match m.leafSrc p.sel slot with
      | some l => p.half.at_ l
      | none => m.idleCode slot
  | none => 0xFF

/-- The end of a read pass: its conflicts and errored map entries latch and count, and its slots are settled (R167, R168). -/
def readEnd (s : State) (mapErr : List Nat) : State :=
  match s.leafRd.img with
  | some m =>
    let cs := m.conflicts s.leafRd.sel
    let s := match cs with
      | x :: _ =>
        let s := if s.flag Reg.LEAF_EVT F.LEAF_EVT_CONFLICT then s
          else (s.wr Reg.LEAF_CONFLICT_LOC (x.1.1 + 131072 * nat01 x.1.2 + 262144 * x.2.2)).wr Reg.LEAF_CONFLICT_SLOT x.2.1
        ((s.evt Reg.LEAF_EVT F.LEAF_EVT_CONFLICT).incPair Reg.LEAF_CONFLICT_LO Reg.LEAF_WRAP 0 cs.length).count 0x61 0 cs.length
      | [] => s
    let s := if mapErr.isEmpty then s
      else ((s.evt Reg.LEAF_EVT F.LEAF_EVT_MAPERR).incPair Reg.LEAF_MAPERR_LO Reg.LEAF_WRAP 1 mapErr.length).count 0x62 0 mapErr.length
    let lost := cs.map (·.2.1)
    let hit := m.groups.filter fun g => g.mon.isSome && lost.any fun t =>
      let l := t % 512 * 65536 + t / 512
      decide (g.idx ≤ l) && decide (l < g.idx + g.n)
    let s := hit.foldl (fun s g => s.updPm (leafKey + g.mon.getD 0) fun p => { p with conflicts := p.conflicts + 1 }) s
    { s with leafTx := { s.leafRd with lost := lost ++ mapErr } }
  | none => { s with leafTx := s.leafRd }

/-! Egress carriers (R144, R145, R147, R148, R150). -/

/-- The SSM code sent for a rank in a code set (R204): option I or option II. -/
def sentCode (optII : Bool) (rank : Nat) : Nat :=
  if optII then
    match rank with
    | 1 => 0x1
    | 2 => 0x0
    | 3 => 0x7
    | 4 => 0x4
    | 5 => 0xD
    | 6 | 7 => 0xA
    | 8 => 0xC
    | 9 => 0xE
    | _ => 0xF
  else
    match rank with
    | 1 => 0x2
    | 2 | 3 => 0x4
    | 4 | 5 | 6 => 0x8
    | 7 | 8 => 0xB
    | _ => 0xF

/-- The QL byte of the device's own output (R144, R206, R223): the output rank's code, OPT, QLV = 1. -/
def State.outQl (s : State) : Nat :=
  let o := s.flag Reg.TIM_CTRL F.TIM_CTRL_OUT_OPT
  sentCode o (s.fld Reg.TIM_STAT F.TIM_STAT_OUT_QL) + 16 * nat01 o + 32

/-- The ingress carrier of candidate 8 + k (LEAF_REFMAP, R148). -/
def Image.refCarrier (m : Image) (k : Nat) : Option Nat :=
  match m.entry? secREFMAP 0 k with
  | some e => if leAt e 0 2 = 65535 then none else some (leAt e 0 2)
  | none => none

/-- The QL byte of egress carrier `c` (R148, R206): code 1111 on the carrier the unit is locked to. -/
def State.outQlByte (s : State) (m : Image) (c : Nat) : Nat :=
  let sel := s.timSel
  if 8 ≤ sel && sel < 40 && m.refCarrier (sel - 8) == some c then s.outQl / 16 * 16 + 15 else s.outQl

/-- The GSC bytes of an egress frame (R147). -/
def State.gscBytes (s : State) (c mfi : Nat) : List Byte :=
  (List.range 512).map fun k =>
    let p := c * 65536 + 1024 * mfi + 2 * k
    byte (16 * (tabGet 0 s.gscTx p % 16) + tabGet 0 s.gscTx (p + 1) % 16)

/-- The overhead of the egress frame of carrier `c` that offset 0 begins (R144). -/
def State.carOh (s : State) (m : Image) (c : Nat) : List Byte :=
  let k := s.car c
  let gsc := s.gscBytes c k.mfiTx
  carAW ++ [byte k.mfiTx, byte (s.outQlByte m c), k.bipTx,
    byte (16 * min k.rei 8 + 8 * nat01 (s.carSf c State.defSmp)), byte (leAt (m.car c) (80 + k.mfiTx) 1), 1]
    ++ beBytes (crc16 gsc) 2 ++ List.replicate 498 0 ++ gsc

/-- The 66,560 bytes of the egress frame of carrier `c` (R143): 1,024 blocks of an overhead byte and 64 leaves. -/
def State.carFrameBytes (s : State) (c : Nat) (oh : List Byte) : List Byte :=
  (List.range 1024).flatMap fun b => oh.getD b 0 :: (List.range 64).map fun j => s.leafTx.byteOf (512 * (64 * b + j) + c)

/-- The overhead byte at place `j` of an egress ODUflex frame (R149, R150): FAS, MFAS, PM, PSI; every other one is 0. -/
def flexOh (tti : List Byte) (bei : Nat) (bdi : Bool) (j mfas : Nat) (bip : Byte) : Byte :=
  if j < 6 then fasBytes.getD j 0
  else if j = 6 then byte mfas
  else if j = pmPlace then tti.getD (mfas % 64) 0
  else if j = pmPlace + 1 then bip
  else if j = pmPlace + 2 then byte (16 * bei + 8 * nat01 bdi + 1)
  else if j = psiPlace && mfas = 0 then 0x8C
  else 0

/-- `n` bytes of an ODUflex around carrier bytes (R149): overhead in columns 1 to 16, the carrier's bytes in order in the rest. Answers the
bytes, the parity after them and the carrier bytes left. -/
def flexMap (oh : Nat → Nat → Byte → Byte) : Nat → Gen → OpuBip → List Byte → List Byte × OpuBip × List Byte
  | 0, _, b, pay => ([], b, pay)
  | n + 1, g, b, pay =>
    let own := g.off % oduRow < 16
    let x := if own then oh g.off g.mfas b.two else pay.headD 0
    let last := g.off + 1 == oduBytes
    let r := flexMap oh n { g with off := if last then 0 else g.off + 1, mfas := if last then (g.mfas + 1) % 256 else g.mfas }
      (b.feed g.off x) (if own then pay else pay.tail)
    (x :: r.1, r.2)

/-- Bytes that an egress ODUflex has sent by the start of elapsed frame `e`: 66,560 carrier bytes a frame over 3,808 of 3,824 columns
(R149). -/
def flexBy (e : Nat) : Nat := carBytes * 239 * e / 238

/-- Bytes laid into pieces. -/
def fillPieces : List Piece → List Byte → List Piece
  | [], _ => []
  | p :: r, b => { p with bytes := b.take p.len } :: fillPieces r (b.drop p.len)

/-- The egress frame of a carrier enters its ODUflex at trunk input 40,960 + c (R150); its parity is the next frame's BIP (R145). -/
def carEmit (s : State) (p : CarPre) : State :=
  let body := s.carFrameBytes p.c p.oh
  let n := flexBy (s.elapsed + 1) - flexBy s.elapsed
  let fx := flexMap (flexOh p.tti p.bei p.bdi) n p.gen p.car.parTx (p.car.rdy ++ body)
  let ps := genPieces 0 (n / oduBytes + 2) p.gen n
  let s := s.updOdu (40960 + p.c) fun o => { o with rx := p.rx ++ fillPieces ps.1 fx.1, gen := ps.2 }
  s.updCar p.c fun k => { k with mfiTx := (p.car.mfiTx + 1) % 64, bipTx := bip8 body, rdy := fx.2.2, parTx := fx.2.1 }

/-- Send the egress frame of carrier `c` (R144, R150). -/
def carSend (s : State) (m : Image) (c : Nat) : State :=
  let k := s.car c
  let o := s.oduS (40960 + c)
  let p : CarPre := ⟨c, s.carOh m c, slice (m.car c) 144 64, k.bei, s.carSsf c State.defSmp, k, o.rx, o.gen⟩
  let s := s.send (.leafOh c p.oh)
  let s := s.send (.oh (carKey c) ([byte (nat01 p.bdi), byte p.bei, 0, 1, k.parTx.two, 0x8C] ++ p.tti))
  { carEmit s p with carPre := s.carPre ++ [p] }

/-- The last message to carrier `c` in a list, newest first, with other overhead. -/
def amendOh (c : Nat) (oh : List Byte) : List Sent → List Sent
  | [] => []
  | .leafOh d b :: r => if d = c then .leafOh c oh :: r else .leafOh d b :: amendOh c oh r
  | x :: r => x :: amendOh c oh r

/-- An egress frame with the QL byte that the output rank now gives it. -/
def qlAmend (s : State) (m : Image) (p : CarPre) : State :=
  let oh := p.oh.set 7 (byte (s.outQlByte m p.c))
  if oh = p.oh || !m.carriers.contains p.c then s
  else
    let q := { p with oh := oh }
    { carEmit s q with sent := (amendOh p.c oh s.sent.reverse).reverse, carPre := s.carPre.map fun x => if x.c = p.c then q else x }

/-- An event of offset 0 has changed the output rank or the selection, which the egress frames of this frame carry (R206). -/
def qlReform (s : State) : State :=
  match s.img with
  | some m => if s.ofs = 0 && s.leafUp then s.carPre.foldl (fun s p => qlAmend s m p) s else s
  | none => s

/-! Defects and performance of a frame (R152, R159, R160, R172). -/

/-- The decoded code of a clear-channel group in the frame just written: bits 7, 5, 3 and 6, 4, 2 by majority (R160). -/
def groupCode (h : LeafHalf) (g : GroupDef) : Nat :=
  let b := (h.at_ (g.idx + g.n - 1)).toNat
  let maj := fun (i j k : Nat) => decide (2 ≤ nat01 (bitAt b i) + nat01 (bitAt b j) + nat01 (bitAt b k))
  2 * nat01 (maj 7 5 3) + nat01 (maj 6 4 2)

/-- dGAIS of a monitored group in the frame that begins (R152). -/
def groupFrame (s : State) (g : GroupDef) : State :=
  if g.ty = 0 || !g.gais then s
  else
    let s := { s with gais := tabUpd {} s.gais g.idx fun f => f.feed 3 3 (groupCode s.leafW g == 3) }
    s.setDefNext (gaisKey g.idx) 0 (tabGet {} s.gais g.idx : Flt).on

/-- LEAF_CAR_STAT of a carrier shows the sample of the last frame (R175). -/
def carShow (s : State) (c : Nat) : State :=
  let s := carStat s c F.LEAF_CAR_STAT_DEF ((s.dfs (carKey c)).smp % 8192)
  carStat s c F.LEAF_CAR_STAT_SSF (nat01 (s.carSsf c State.defSmp))

/-- A carrier that a defect of the boundary cycle has taken out, which counts for the frame before (R33, R75), is written as 0xFF by the write
pass that has just begun (R156). -/
def leafLate (s : State) : State :=
  { s with leafW := { s.leafW with live := s.leafW.live.filter fun c => s.releasing c && !s.carSf c State.defSmp } }

/-- LEAF_CAR_STAT of every declared carrier. -/
def leafStat (s : State) : State :=
  match s.img with
  | some m => if s.leafUp then m.carriers.foldl carShow s else s
  | none => s

/-- What the sample of a frame adds to a carrier: the second in progress and the failure timers; those of codes 0x45 to 0x4D stand still while
any of codes 0x40 to 0x44 is present (R152). -/
def carSample (s : State) (c : Nat) : State :=
  let sf := s.carSf c State.defSmp
  let s := s.updPm (carKey c) fun p => { p with neDef := p.neDef || sf, feDef := p.feDef || s.defSmp (carKey c) 9 }
  failEnt s (carKey c) 0x40 13 (s.dfs (carKey c)).smp (fun _ => false) fun code => decide (0x45 ≤ code) && s.carSsf c State.defSmp

/-- What the frame that ended adds to a group: the defect second of code 11 in the frame's write pass (R172), and the failure timer of
dGAIS (R152). -/
def groupSample (s : State) (g : GroupDef) : State :=
  let s := match g.mon with
    | some v => if g.ty ≠ 0 && groupCode s.leafR g == 3 then s.updPm (leafKey + v) fun p => { p with neDef := true } else s
    | none => s
  if g.gais then
    failEnt s (gaisKey g.idx) 0x4D 1 (s.dfs (gaisKey g.idx)).smp (fun _ => false) fun _ => s.carSsf (g.idx / 65536) State.defSmp
  else s

/-- The sample of the frame that ended is taken into seconds and failure timers, once, before the first use of either: the boundary cycle
still belongs to that frame (R33, R75, R80, R90). -/
def settle (s : State) : State :=
  if s.smpDue then
    let s := lineSamples { s with smpDue := false }
    match s.img with
    | some m => if s.leafUp then m.groups.foldl groupSample (m.carriers.foldl carSample s) else s
    | none => s
  else s

/-- The read pass that begins under an image and the selector bits in force (R166, R171). -/
def readBegin (s : State) (m : Image) : State :=
  { s with leafRd := { half := s.leafR, img := some m, sel := s.lselF, lost := [] } }

/-- The leaf stage at a frame boundary, after the sample (R154, R163, R175): the read pass that ends settles and its egress
frames start, samples are taken, the next write and read passes begin under the selector bits now in force (R166). -/
def leafFrame (s : State) (inp : FrameInput) : State :=
  let s := { s with lselOld := s.lselF, lselF := s.lselW }
  if !s.leafUp then s
  else
    match s.img with
    | some m =>
      let s := readEnd s inp.mapErr
      let s := m.carriers.foldl (fun s c => carSend s m c) { s with carPre := [] }
      let s := leafStat (m.carriers.foldl (fun s c => s.updPm (carKey c) Pm.roll) s)
      let s := { s with leafR := s.leafW }
      let s := writePass s m
      let s := m.groups.foldl groupFrame s
      readBegin (s.setFld Reg.LEAF_STAT F.LEAF_STAT_WHALF (s.fnN % 2)) m
    | none => s

/-- The end of a second of every leaf entity (R172): a group's second is that of its carrier, with its own defect second,
its carrier's slips and its own lost reads. -/
def leafSeconds (s : State) : State :=
  match s.img with
  | some m =>
    let s := m.groups.foldl (fun s g =>
      match g.mon with
      | some v =>
        let k := { s.pmx (carKey (g.idx / 65536)) with from_ := (s.pmx (leafKey + v)).from_ }
        let x := { s.secNow k (s.pmx (leafKey + v)).neDef with conflicts := (s.pmx (leafKey + v)).conflicts }
        s.updPm (leafKey + v) fun p => secEnd p true x
      | none => s) s
    m.carriers.foldl (fun s c =>
      let r := degJudge (s.pmx (carKey c)) ohDefault.degm ohDefault.degthr
      let s := s.updPm (carKey c) fun _ => secEnd r.1 false (s.secNow r.1 false)
      match r.2 with
      | some on => s.setDefNext (carKey c) 10 on
      | none => s) s
  | none => s

/-! Failures (R152, R153). -/

/-- The handle in a leaf alarm record (R153): the ODU of a carrier, or the leaf group. -/
def leafAlarmHandle (code ent : Nat) : Nat := if code = 0x4D then handle 3 ent else handle 2 (40960 + ent)

/-- Failure key of a leaf code: `ent` is the carrier, or the group's handle index for dGAIS. -/
def leafFailKey (code ent : Nat) : Nat := if code = 0x4D then gaisKey ent else carKey ent

/-- The failure of a leaf code is neither raised nor timed: one of codes 0x40 to 0x44 is present on its carrier (R152). -/
def State.leafStill (s : State) (ent code : Nat) : Bool :=
  decide (0x45 ≤ code) && s.carSsf (if code = 0x4D then ent / 65536 else ent) State.defSmp

/-- Raise or clear of a leaf failure (R80, R152, R153). -/
def leafRaise (s : State) (ent code : Nat) : State :=
  if s.failDue (leafFailKey code ent) code && !s.leafStill ent code
      && s.dutyUp (leafAlarmHandle code ent) then
    failMove s (leafAlarmHandle code ent) 5 (leafFailKey code ent) code true (alarmRecord (leafAlarmHandle code ent) code 1 s.prevFn)
  else s

def leafClear (s : State) (ent code : Nat) : State :=
  if s.clearDue (leafFailKey code ent) code && !s.leafStill ent code && s.dutyUp (leafAlarmHandle code ent) then
    failMove s (leafAlarmHandle code ent) 5 (leafFailKey code ent) code false (alarmRecord (leafAlarmHandle code ent) code 0 s.prevFn)
  else s

/-! Selectors (R166). -/

/-- A write to a leaf selector record; an index that the running image does not define latches SEL_NOSEL. A write of the boundary cycle
governs the read pass that begins. -/
def lselWrite (s : State) (r : Nat) (b : Bool) : State :=
  if (s.img.bind (·.entry? secSREC 0 r)).isSome then
    let s := { s with lselW := tabSet false s.lselW r b }
    if s.ofs = 0 then { s with lselF := tabSet false s.lselF r b, leafRd := { s.leafRd with sel := tabSet false s.leafRd.sel r b } } else s
  else s.evt Reg.LEAF_EVT F.LEAF_EVT_SEL_NOSEL

/-- INIT of a selector record (R165). -/
def Image.srecInit (m : Image) (r : Nat) : Bool := bitAt (leAt (m.entry secSREC 0 r) 10 2) 0

/-- Number of selector records an image defines. -/
def Image.srecCount (m : Image) : Nat := (m.rows secSREC 0).length

/-- The initial leaf selector bits of an image. -/
def Image.initLsel (m : Image) : List (Nat × Bool) :=
  (List.range m.srecCount).foldl (fun l r => if m.srecInit r then tabSet false l r true else l) []

/-! Requests (R174). -/

/-- LEAF_PM_REQ (R174). -/
def leafPmReq (s : State) (ent sel : Nat) : State :=
  if s.valid Reg.LEAF_PM_RES || s.leafReq.isSome then s.evt Reg.LEAF_EVT F.LEAF_EVT_REQ_IGNORED
  else { s with leafReq := some ⟨ent, sel, s.elapsed, none⟩ }

/-- The snapshot of the leaf PM request is taken (R98, R174). -/
def leafShoot (s : State) : State :=
  { s with leafReq := s.leafReq.map fun r =>
      r.take s (leafKey + r.ent) ((s.img.map (·.pmLeaf)).any (·.contains (leafKey + r.ent))) (s.nextSeq Reg.LEAF_PM_RES) }

/-- The snapshots of both requests are taken anew after an event of the boundary cycle (R98). -/
def shoot (s : State) : State := leafShoot (pmShoot s)

/-- Both requests at a frame boundary (R98, R174). -/
def reqBoundary (s : State) : State :=
  let s := pmBoundary s
  if s.leafReq.isSome then leafShoot (s.pendRes Reg.LEAF_PM_RES) else s

/-- LEAF_PM_SNAPSHOT (R174). -/
def leafPmSnapshot (s : State) : State :=
  match s.leafReq.bind (·.shot) with
  | some b => if s.isPending Reg.LEAF_PM_RES then putShot { s with leafReq := none } Reg.LEAF_PM_RES (Reg.LEAF_PM_DATA 0) b else s
  | none => s

/-- LEAF_CARRIER_FRAME (R151). -/
def execLeafCarrierFrame (carrier : Nat) (rx : LeafRx) (s : State) : Host.Outcome State Fault Refusal :=
  checked (.leafCarrierFrame carrier rx) s (lateStat (fun s => leafStat (leafLate s)) (leafCarrier s carrier rx))
/-- DQLC_CLEAR (R152). -/
def execDqlcClear (carrier : Nat) (s : State) : Host.Outcome State Fault Refusal := checked (.dqlcClear carrier) s (dqlcClear s carrier)
/-- LEAF_PM_REQ (R174). -/
def execLeafPmReq (ent sel : Nat) (s : State) : Host.Outcome State Fault Refusal :=
  checked (.leafPmReq ent sel) s (s.host Reg.LEAF_PM_REQ fun s => leafPmReq s ent sel)
/-- LEAF_PM_SNAPSHOT (R174). -/
def execLeafPmSnapshot (s : State) : Host.Outcome State Fault Refusal := checked .leafPmSnapshot s (leafPmSnapshot s)
/-- LEAF_PM_ACK (R174). -/
def execLeafPmAck (seq : Nat) (s : State) : Host.Outcome State Fault Refusal :=
  checked (.leafPmAck seq) s (s.host Reg.LEAF_PM_ACK (·.ackRes Reg.LEAF_PM_RES seq))

end Sys2Proof.Machine
end

