-- ==== Sys2Proof/Machine/Prot.lean ====
section
/-! DEFINITION. Protection groups (spec/08_protection.md): commands, signals, hold-off, ranking, selection, APS and leaf
status, protection defects, event records and the per-group registers. -/

namespace Sys2Proof.Machine

/-- A protection group. -/
def State.grp (s : State) (g : Nat) : Grp := tabGet {} s.groups g

/-- Change a protection group. -/
def State.updGrp (s : State) (g : Nat) (f : Grp → Grp) : State := { s with groups := tabUpd {} s.groups g f }

/-- The running definition of a group. -/
def State.prot (s : State) (g : Nat) : Option ProtDef := s.img.bind (·.prot? g)

/-- Failure key of a protection group (R191). -/
def protKey (g : Nat) : Nat := leafKey + 131072 + 33554432 + g

/-- A standby or HOLDING unit evaluates but writes no selector, bridge, APS or status (R198, R355). -/
def State.quietRole (s : State) : Bool := s.role == roleSTANDBY || s.role == roleHOLDING

/-- A standby's evaluations serve the comparison only (R198). DESIGN CHOICE (log entry 141): it posts no protection record and latches no event
of them; a unit in HOLDING does. -/
def State.shadowRole (s : State) : Bool := s.role == roleSTANDBY

/-- The initial selection and bridge of a group under the selector bits now in force. -/
def State.groupInit (s : State) (d : ProtDef) (g : Grp) : Grp :=
  { g with sel := if d.ty = 2 then tabGet false s.lselW d.sel else tabGet false s.selW d.sel,
           bridge := d.ty == 1 && tabGet false s.selW d.bridge }

/-! Requests (R181). -/

/-- Rank of a request code: 1 highest; a code the table does not list ranks as NR. -/
def reqRank (code : Nat) : Nat :=
  match code with
  | 0xF => 1
  | 0xE => 2
  | 0xD => 3
  | 0xB => 4
  | 0x9 => 5
  | 0x7 => 6
  | 0x5 => 7
  | 0x1 => 8
  | _ => 9

/-- A request: code, requested signal, and whether it is the far one. -/
structure Req where
  code : Nat
  sig : Bool
  far : Bool
  deriving DecidableEq, Repr

/-- A received code (R181): a code the table does not list is NR with the signal it carries; the codes with one requested
signal have it. -/
def farReq (code : Nat) (sig : Bool) : Req :=
  if reqRank code = 9 then ⟨0, sig, true⟩
  else if code = 0xF || code = 0xE then ⟨code, false, true⟩
  else if code = 0xD || code = 0xB || code = 0x5 || code = 0x1 then ⟨code, true, true⟩
  else ⟨code, sig, true⟩

/-- The request of a leaf status (R189), none for 000. -/
def statusReq (v : Nat) : Option Req :=
  match v with
  | 0 | 1 => none
  | 3 => some ⟨0, true, true⟩
  | 5 => some ⟨0x1, true, true⟩
  | 7 => some ⟨0x5, true, true⟩
  | 8 => some ⟨0x7, false, true⟩
  | 9 => some ⟨0x7, true, true⟩
  | 10 => some ⟨0x9, false, true⟩
  | 11 => some ⟨0x9, true, true⟩
  | 12 => some ⟨0xE, false, true⟩
  | 13 => some ⟨0xB, true, true⟩
  | 14 => some ⟨0xF, false, true⟩
  | 15 => some ⟨0xD, true, true⟩
  | _ => some ⟨0, false, true⟩

/-- The leaf status of a code and requested signal (R189). -/
def reqStatus (code : Nat) (sig : Bool) : Nat :=
  match code with
  | 0xF => 14
  | 0xE => 12
  | 0xD => 15
  | 0xB => 13
  | 0x9 => 10 + nat01 sig
  | 0x7 => 8 + nat01 sig
  | 0x5 => 7
  | 0x1 => 5
  | _ => 2 + nat01 sig

/-! Signals into a group (R179). -/

/-- The leaf group of handle index `i` in the running image. -/
def State.leafGroup (s : State) (i : Nat) : Option GroupDef := s.img.bind fun m => m.groups.find? (·.idx == i)

/-- SF of a leg in the last sample; absent in the first frame of a leg that a graft has just created. -/
def State.legSf (s : State) (h : Nat) : Bool :=
  if s.newObjs.contains h then false
  else if hKind h = 3 then
    s.carSf (hIdx h / 65536) State.defSmp ||
      (match s.leafGroup (hIdx h) with
       | some g => g.gais && s.defSmp (gaisKey (hIdx h)) 0
       | none => false)
  else s.oduSf (hIdx h) State.defSmp

/-- SD of a leg in the last sample. -/
def State.legSd (s : State) (h : Nat) : Bool :=
  if s.newObjs.contains h then false
  else if hKind h = 3 then s.defSmp (carKey (hIdx h / 65536)) 10
  else s.oduSd (hIdx h) State.defSmp

/-- The four conditions of a group, each with its present flag: SF-W, SF-P, SD-W, SD-P. -/
def State.legs4 (s : State) (d : ProtDef) : Bool × Bool × Bool × Bool := (s.legSf d.w, s.legSf d.p, s.legSd d.w, s.legSd d.p)

/-- One request and its hold-off in the evaluation of sample frame `n` (R180): `x` present, `hold` frames. -/
def holdStep (raised : Bool) (h : Option Nat) (x : Bool) (n hold : Nat) : Bool × Option Nat :=
  if raised then (x, none)
  else
    match h with
    | some t => if t ≤ n then (x, none) else (false, some t)
    | none => if x then (if hold = 0 then (true, none) else (false, some (n + hold))) else (false, none)

/-! The far end (R187 to R191). -/

/-- The source leg of a leaf group's far status (R190): protect while its carrier has neither SF nor dGSC, else working
under the same conditions, else none. -/
def State.srcLeg (s : State) (d : ProtDef) : Nat :=
  let ok := fun (h : Nat) => !s.carSf (hIdx h / 65536) State.defSmp && !s.defSmp (carKey (hIdx h / 65536)) 11
  if ok d.p then 2 else if ok d.w then 1 else 0

/-- The status captured at a leaf position, as an engine reads it (R26, R193): value and FN of capture. -/
def State.gscSeen (s : State) (i : Nat) : Nat × Nat :=
  let g : Gsc := tabGet {} s.gscRx i
  if s.seenAt false g.at_ then (g.st, g.fn) else (g.oldSt, g.oldFn)

/-- Accept the far status from the source leg (R190): a new capture of the same leg, or a capture later than the last
accepted one when the leg has changed. Answers the group and whether a status was accepted now. -/
def acceptStatus (s : State) (d : ProtDef) (g : Grp) : Grp × Bool :=
  let src := s.srcLeg d
  let g := { g with src := src }
  if src = 0 then (g, false)
  else
    let c := s.gscSeen (hIdx (if src = 2 then d.p else d.w))
    let new := if src = g.farSrc then c.2 != g.farFn else fnAhead c.2 g.farFn
    if new then ({ g with farSt := some c.1, farFn := c.2, farSrc := src }, true) else (g, false)

/-- The accepted far APS of an ODU group (R187, R188). -/
def State.farAps (s : State) (d : ProtDef) : Option (List Byte) := (s.oduS (hIdx d.p)).apsAcc

/-- The APS accepted on ODU `i` as an engine of quadrant `q` reads it (R26, R193). -/
def State.apsSeen (s : State) (q i : Nat) : Option (List Byte) :=
  ((s.oduS i).apsLog.find? fun x => s.seenAt (slotQuad i == q) x.1).map (·.2)

/-- The accepted far APS of a group as its owner reads it. -/
def State.farSeen (s : State) (d : ProtDef) : Option (List Byte) := s.apsSeen (s.ownerQuad (handle 4 d.idx)) (hIdx d.p)

/-- The frames since the last completed evaluation of a group: those of dropped evaluations elapse for its timers (R194). -/
def Grp.gap (g : Grp) (now : Nat) : Nat := if g.evalAt = 0 then 1 else max 1 (now - g.evalAt)

/-- A run of frames in which a condition holds, `step` frames on. -/
def runOn (run step : Nat) : Nat := if run = 0 then 1 else run + step

/-- Captures of consecutive carrier multiframes lie fewer frames apart than this: a multiframe is 64 carrier frames, within parts per
million of 64 frames, and a lost one makes it 128 (R190, R191; DEDUCED, log entry 121). -/
def multiframeSpan : Nat := 96

/-- dFOP-PM, dFSL and the accepted status of a leaf group (R190, R191): three multiframes in a row of 000 from one source leg. -/
def farLeaf (s : State) (d : ProtDef) (g : Grp) : Grp :=
  let r := acceptStatus s d g
  let h := r.1
  let run := if h.src = 0 || h.src != g.src then 0 else g.pmRun
  let none_ := h.farSt == some 0 || h.farSt == some 1
  let h :=
    if !d.bidir then { h with pmRun := 0, pm := false }
    else if !r.2 then { h with pmRun := run }
    else if none_ then
      let n := if run ≠ 0 && decide (fnDiff h.farFn g.farFn < multiframeSpan) then min 3 (run + 1) else 1
      { h with pmRun := n, pm := h.pm || decide (3 ≤ n) }
    else { h with pmRun := 0, pm := false }
  let h :=
    if h.src = 0 && d.bidir then { h with fslRun := min 8 (runOn h.fslRun (h.gap s.elapsed)) } else { h with fslRun := 0, fsl := false }
  { h with fallback := d.bidir && (h.pm || h.fsl) }

/-- dFOP-PM and dFSL of a group, the fallback they cause (R191), and the far status it accepts (R190). -/
def farStep (s : State) (d : ProtDef) (g : Grp) : Grp :=
  if d.ty = 2 then farLeaf s d g
  else
    match s.farSeen d with
    | some b =>
      let b1 := leAt b 0 1
      let bBad := bitAt b1 2 != (d.ty == 1)
      let dBad := bitAt b1 1 != d.bidir
      { g with pm := !bitAt b1 3 || bBad || dBad, fallback := d.bidir && (bBad || dBad) }
    | none => { g with pm := false, fallback := false }

/-- The accepted far request of a group (R181, R182, R187): none for a unidirectional group, under fallback, while SF-P is
present, or before an acceptance. -/
def State.farRequest (s : State) (d : ProtDef) (g : Grp) (sfp : Bool) : Option Req :=
  if !d.bidir || g.fallback || sfp then none
  else if d.ty = 2 then g.farSt.bind statusReq
  else
    match s.farSeen d with
    | some b => some (farReq (leAt b 0 1 / 16) (leAt b 1 1 == 1))
    | none => none

/-! Records and counters (R194, R195). -/

/-- CMD as shown: LO before FS before MS (R199). -/
def Grp.cmd (g : Grp) : Nat := if g.lo then 1 else if g.fs then 2 else if g.ms = 1 then 3 else if g.ms = 2 then 4 else 0

/-- An event record (R195). -/
def protRecord (n kind fn : Nat) (g : Grp) : List Byte :=
  leBytes (handle 4 n) 4 ++ [byte kind, byte (g.req % 16 + 16 * nat01 g.sig + 32 * nat01 g.far + 64 * nat01 g.sel)]
    ++ leBytes fn 6 ++ [byte g.cmd, 0, 0, 0]

/-- Post an event record of group `n` as it now stands. -/
def protEvent (s : State) (n kind fn : Nat) : State :=
  s.postOwned (handle 4 n) 3 (protRecord n kind fn (s.grp n))

/-- The selection in force for a group: the bits the selector has taken (R118, R166, R199). -/
def State.selNow (s : State) (d : ProtDef) : Bool := if d.ty = 2 then tabGet false s.lselF d.sel else tabGet false s.selF d.sel

/-- The selection that was in force in the frame before. -/
def State.selBefore (s : State) (d : ProtDef) : Bool := if d.ty = 2 then tabGet false s.lselOld d.sel else tabGet false s.selOld d.sel

/-- A change of the selection in force for group `n` counts and latches (R195, R198, R199). -/
def protSwitched (s : State) (n : Nat) : State :=
  let v := (s.grp n).sw + 1
  let s := s.updGrp n fun g => { g with sw := v % 4294967296 }
  let s := if v = 4294967296 then s.mapBit (Reg.PROT_SW_WRAP 0) n else s
  s.evt Reg.PROT_EVT F.PROT_EVT_SWITCH

/-- The count of selection changes of group `n` at offset 0, once what the boundary had put in force (`mid`, `was` before it) has become `now`
(R195, R198, R199): a change counts once, and one that did not stay does not. -/
def selRecount (s : State) (n : Nat) (was mid now : Bool) : State :=
  if now ≠ was && mid = was then protSwitched s n
  else if now = was && mid ≠ was then s.updGrp n fun g => { g with sw := (g.sw + 4294967295) % 4294967296 }
  else s

/-- PROT_EVT.SWITCH after such a count: without a change in force it reads as before the boundary. -/
def switchSettle (s : State) : State :=
  match s.img with
  | some m =>
    if s.switchWas || m.prots.any fun d => s.selNow d != s.selBefore d then s else s.setFlag Reg.PROT_EVT F.PROT_EVT_SWITCH false
  | none => s

/-- A dropped evaluation or write of group `n` (R194, R260): `late` dropped actions. -/
def protLate (s : State) (n : Nat) : State :=
  let s := (s.incPair Reg.PROT_LATE_LO Reg.PROT_WRAP 0 1).evt Reg.PROT_EVT F.PROT_EVT_LATE
  if s.shadowRole then s else protEvent s n 6 s.fnN

/-! Evaluation (R180 to R188). -/

/-- Rank of the highest request, 9 for none above NR. -/
def topRank (l : List Req) : Nat := l.foldl (fun n r => min n (reqRank r.code)) 9

/-- The winner among requests (R182): highest rank; of equal ones that ask for different signals, the signal of the one in force, else the
one selected; of those left the local one, whichever was in force. -/
def pickReq (l : List Req) (force : Req) (sel : Bool) : Req :=
  let tied := l.filter fun r => reqRank r.code == topRank l
  match tied with
  | [] => ⟨0, false, false⟩
  | r :: _ =>
    let sig := if tied.all (fun x => x.sig == r.sig) then r.sig else if tied.contains force then force.sig else sel
    let kept := tied.filter fun x => x.sig == sig
    ((kept.find? fun x => !x.far).orElse fun _ => kept.head?).getD r

/-- One command that enters with this frame (R184, R185, R183): its effect on the group and the event kind, none without one. -/
def cmdOne (d : ProtDef) (g : Grp) (op : Nat) : Grp × List Nat :=
  match op with
  | 1 => ({ g with lo := true }, [3])
  | 2 => ({ g with fs := true }, [3])
  | 3 => ({ g with ms := 1 }, [3])
  | 4 => ({ g with ms := 2 }, [3])
  | 5 =>
    let had := g.cmd != 0
    let prot := g.fs || g.ms == 1
    let stay := prot && !d.rev && g.sel
    let toNr := !stay && ((prot && d.rev) || g.wtr.isSome)
    let h := { g with lo := false, fs := false, ms := 0, wtr := none, dnr := g.dnr || stay }
    (if toNr then { h with req := 0, sig := false, far := false, sel := false } else h, if had then [4] else [])
  | _ => (g, [])

/-- The commands that enter with this frame, in the order they were accepted, with their event kinds. -/
def cmdStep (d : ProtDef) (g : Grp) : Grp × List Nat :=
  g.cmdIn.foldl (fun r op => let x := cmdOne d r.1 op; (x.1, r.2 ++ x.2)) (g, [])

/-- The hold-offs and raised requests of a group from its samples (R180). -/
def raiseStep (d : ProtDef) (g : Grp) (x : Bool × Bool × Bool × Bool) (n : Nat) : Grp :=
  let a := holdStep g.sfw g.hSfw x.1 n d.hold
  let b := holdStep g.sfp g.hSfp x.2.1 n d.hold
  let c := holdStep g.sdw g.hSdw x.2.2.1 n d.hold
  let e := holdStep g.sdp g.hSdp x.2.2.2 n d.hold
  { g with sfw := a.1, hSfw := a.2, sfp := b.1, hSfp := b.2, sdw := c.1, hSdw := c.2, sdp := e.1, hSdp := e.2 }

/-- The local requests of ranks 1 to 5. -/
def Grp.highReqs (g : Grp) : List Req :=
  (if g.lo then [⟨0xF, false, false⟩] else []) ++ (if g.sfp then [⟨0xE, false, false⟩] else [])
    ++ (if g.fs then [⟨0xD, true, false⟩] else []) ++ (if g.sfw then [⟨0xB, true, false⟩] else [])
    ++ (if g.sdp then [⟨0x9, false, false⟩] else []) ++ (if g.sdw then [⟨0x9, true, false⟩] else [])

/-- WTR and DNR of a group (R183): `top` is the rank of the highest request of ranks 1 to 6 and of the far one, `now` the
elapsed frame. -/
def waitStep (d : ProtDef) (g : Grp) (top now : Nat) : Grp :=
  let isOver := match g.wtr with
    | some t => decide (top < 7) || decide (t ≤ now)
    | none => false
  let g :=
    if isOver then
      (if top < 7 then { g with wtr := none } else { g with wtr := none, req := 0, sig := false, far := false, sel := false })
    else g
  let g := if g.dnr && decide (top < 8) then { g with dnr := false } else g
  if g.wtr.isNone && !g.dnr && g.sel && !g.far && (g.req == 0xB || g.req == 0x9) && g.sig && top == 9 then
    (if d.rev then { g with wtr := some (now + d.wtr) } else { g with dnr := true })
  else g

/-- dFOP-NR counting over `step` frames (R191, R194): held while SF-P is present, restarted without a far request, absent from a
unidirectional group. -/
def nrStep (d : ProtDef) (g : Grp) (far : Option Req) (sfp : Bool) (step : Nat) : Grp :=
  if !d.bidir then { g with nrRun := 0, nrOk := 0, nr := false }
  else if sfp then g
  else
    match far with
    | none => { g with nrRun := 0, nrOk := 0 }
    | some f =>
      if f.sig != g.sig then { g with nrRun := min 400 (runOn g.nrRun step), nrOk := 0 }
      else
        let ok := min 8 (runOn g.nrOk step)
        { g with nrRun := 0, nrOk := ok, nr := g.nr && decide (ok < 8) }

/-- What the group sends (R182, R186, R189): NR with the far signal when the far request wins. -/
def Grp.txBytes (g : Grp) (d : ProtDef) : List Byte :=
  let code := if g.far then 0 else g.req
  if d.ty = 2 then [byte (reqStatus code g.sig)]
  else
    [byte (16 * code + 8 + 4 * nat01 (d.ty == 1) + 2 * nat01 d.bidir + nat01 d.rev), byte (nat01 g.sig),
      byte (if d.ty = 1 then nat01 g.bridge else 1), 0]

/-- The group after the evaluation of a frame (R182 to R188), with the event kinds of its commands. -/
def evalGrp (s : State) (d : ProtDef) (g : Grp) : Grp × List Nat :=
  let c := cmdStep d g
  let x := s.legs4 d
  let g := raiseStep d c.1 x (s.elapsed - 1)
  let g := farStep s d g
  let far := s.farRequest d g x.2.1
  let farL := far.toList
  let cancel := g.ms != 0 && decide (topRank (g.highReqs ++ farL) ≤ 5)
  let g := if cancel then { g with ms := 0 } else g
  let high := g.highReqs ++ (if g.ms = 1 then [⟨0x7, true, false⟩] else if g.ms = 2 then [⟨0x7, false, false⟩] else [])
  let g := waitStep d g (topRank (high ++ farL)) s.elapsed
  let local_ := high ++ (if g.wtr.isSome then [⟨0x5, true, false⟩] else []) ++ (if g.dnr then [⟨0x1, true, false⟩] else [])
    ++ [⟨0, false, false⟩]
  let w := pickReq (local_ ++ farL) ⟨g.req, g.sig, g.far⟩ g.sel
  let bridged := match s.farSeen d with
    | some b => leAt b 2 1 == 1
    | none => false
  let g := { g with req := w.code, sig := w.sig, far := w.far }
  let g := if d.ty = 1 then { g with bridge := w.sig, sel := w.sig && bridged } else { g with sel := w.sig }
  let g := nrStep d g far x.2.1 (g.gap s.elapsed)
  ({ g with evald := true, evalAt := s.elapsed, holdW := false, holdP := false }, c.2 ++ (if cancel then [5] else []))

/-- The APS insertion field of an ODU takes a value at a level, which the inserter sends until the next one (R187). -/
def putAps (s : State) (i level : Nat) (b : List Byte) : State :=
  { s with apsTx := tabSet (0, []) s.apsTx i (level, b) }.send (.aps i level b)

/-- Give the insertion fields of a group what it sends (R187, R190): the APS of the protect leg, or the status of both legs. -/
def putTx (s : State) (d : ProtDef) (tx : List Byte) : State :=
  if d.ty = 2 then
    let v := leAt tx 0 1
    { s with gscTx := tabSet 0 (tabSet 0 s.gscTx (hIdx d.w) v) (hIdx d.p) v }
  else putAps s (hIdx d.p) d.level tx

/-- At load, and when a group is created or its legs are moved, it sends NR with requested signal 0 (R186, R197). -/
def nrSend (s : State) (d : ProtDef) : State :=
  let tx := ({ s.grp d.idx with req := 0, sig := false, far := false } : Grp).txBytes d
  (putTx s d tx).updGrp d.idx fun g => { g with tx := tx }

/-- Write the results of an evaluation (R182, R187, R188, R190): selection, bridge, APS or status. -/
def protWrites (s : State) (n : Nat) (d : ProtDef) : State :=
  let g := s.grp n
  let tx := g.txBytes d
  let s :=
    if d.ty = 2 then lselWrite s d.sel g.sel
    else if d.ty = 1 then selWrite (selWrite s 1 d.sel g.sel) 2 d.bridge g.bridge
    else selWrite s 1 d.sel g.sel
  let s := if d.ty ≠ 2 && g.tx == tx then s else putTx s d tx
  s.updGrp n fun g => { g with tx := tx }

/-- An evaluation whose write is dropped leaves no trace (R194): the destinations keep the values in force, what the group sends and its
state are those of the last evaluation that completed, its commands enter with the next one, and its records are not posted. -/
def protUndo (s : State) (n : Nat) (d : ProtDef) : State :=
  let o : Grp := tabGet {} s.groupsChk n
  let g := s.grp n
  let back := fun (s : State) =>
    let s := if d.ty = 2 then { s with lselW := tabSet false s.lselW d.sel (tabGet false s.lselF d.sel) }
      else { s with selW := tabSet false s.selW d.sel (tabGet false s.selF d.sel) }
    let s := if d.ty = 1 then { s with selW := tabSet false s.selW d.bridge (tabGet false s.selF d.bridge) } else s
    if g.tx = o.tx then s else putTx s d o.tx
  let s := if s.quietRole then s else back s
  let mine := fun (x : Posted) => x.kind == 6 && leAt x.bytes 0 4 == handle 4 n && decide (leAt x.bytes 4 1 < 6)
  { s with held := s.held.filter fun x => !mine x }.updGrp n fun g =>
    { o with newCmd := g.newCmd, cmdIn := g.cmdIn, evald := false, dropped := true, was := g.was, sw := g.sw }

/-- The selection last written (R118, R166). -/
def State.written (s : State) (d : ProtDef) : Bool := if d.ty = 2 then tabGet false s.lselW d.sel else tabGet false s.selW d.sel

/-- PROT_EVALUATION (R182): one evaluation of a group in a frame, on the samples of the frame before. A selection that differs from the
one last written is a change, and so is one that an evaluation discarded with its engine had already written (R195, R255); in HOLDING nothing
is written, so no selection changes (R355). -/
def protEval (s : State) (n : Nat) : State :=
  match s.prot n with
  | some d =>
    let old := s.grp n
    if !s.released || old.evald || old.dropped || !s.dutyUp (handle 4 n) then s
    else
      let r := evalGrp s d old
      let was := s.written d
      let s := s.updGrp n fun _ => r.1
      if s.shadowRole then s
      else
        let hold := s.quietRole
        let s := if hold then s else protWrites s n d
        let s := if r.1.pm && !old.pm then s.evt Reg.PROT_EVT F.PROT_EVT_FOP else s
        let s := if r.2.contains 5 then s.evt Reg.PROT_EVT F.PROT_EVT_MS_CANCEL else s
        let s := r.2.foldl (fun s k => protEvent s n k s.fnN) s
        let s := if r.1.req ≠ old.req || r.1.sig ≠ old.sig || r.1.far ≠ old.far then protEvent s n 2 s.fnN else s
        if !hold && (r.1.sel ≠ was || (!old.was && r.1.sel ≠ old.sel)) then protEvent s n 1 (fnPlus s.fnN 1) else s
  | none => s

/-- The sample frame at which the hold-off of one condition of one leg has run, while one runs (R180). -/
def holdOf (g : Grp) (protect sd : Bool) : Option Nat :=
  match protect, sd with
  | false, false => g.hSfw
  | true, false => g.hSfp
  | false, true => g.hSdw
  | true, true => g.hSdp

/-- HOLD_OFF_END (R180): the hold-off of one condition of one leg has run; the request is raised when the defect is present
in that sample frame, and nothing is raised otherwise. -/
def holdEnd (s : State) (n : Nat) (protect sd : Bool) : State :=
  match s.prot n, holdOf (s.grp n) protect sd with
  | some d, some t =>
    if s.elapsed < t + 1 then s
    else
      let x := s.legs4 d
      s.updGrp n fun g =>
        match protect, sd with
        | false, false => { g with sfw := x.1, hSfw := none }
        | true, false => { g with sfp := x.2.1, hSfp := none }
        | false, true => { g with sdw := x.2.2.1, hSdw := none }
        | true, true => { g with sdp := x.2.2.2, hSdp := none }
  | _, _ => s

/-- WTR_EXPIRY (R183): at offset 0 of the frame in which WTR ends, the group goes to NR with selection working; the evaluation of the frame
sends it and writes it (R182). -/
def wtrExpiry (s : State) (n : Nat) : State :=
  match (s.grp n).wtr with
  | some t =>
    if t ≤ s.elapsed && s.dutyUp (handle 4 n) then
      let s := s.updGrp n fun g => { g with wtr := none, req := 0, sig := false, far := false, sel := false }
      if s.shadowRole then s else protEvent s n 2 s.fnN
    else s
  | none => s

/-- DFOP_NR (R191): 400 consecutive frames of disagreement. -/
def dfopNr (s : State) (n : Nat) : State :=
  let g := s.grp n
  if g.nr || g.nrRun < 400 then s
  else
    let s := s.updGrp n fun g => { g with nr := true, nrOk := 0 }
    if s.shadowRole then s else s.evt Reg.PROT_EVT F.PROT_EVT_FOP

/-- DFSL (R191): 8 consecutive frames of a bidirectional leaf group without a source leg; the group falls back. -/
def dfsl (s : State) (n : Nat) : State :=
  match s.prot n with
  | some d =>
    let g := s.grp n
    if g.fsl || g.fslRun < 8 || !d.bidir || d.ty ≠ 2 then s
    else
      let s := s.updGrp n fun g => { g with fsl := true, fallback := true }
      if s.shadowRole then s else s.evt Reg.PROT_EVT F.PROT_EVT_FOP
  | none => s

/-! Commands (R184). -/

/-- PROT_CMD with an operation and a group, judged on the registers, which show the state at offset 0 of the frame (R199): LO is in force
when it wins, locally or from the far end, or is shown as the command. -/
def protCmd (s : State) (op n : Nat) : State :=
  if s.valid Reg.PROT_CMD_RES then s.evt Reg.PROT_EVT F.PROT_EVT_CMD_IGNORED
  else
    let req := s.fld (Reg.PROT_G_STAT n) F.PROT_G_STAT_REQ
    let code :=
      if s.inReturn then eLIFE
      else if s.quietRole then eINUSE
      else if (s.prot n).isNone || op = 0 || 5 < op then eFORMAT
      else if op = 2 && (req = 0xF || s.fld (Reg.PROT_G_STAT n) F.PROT_G_STAT_CMD = 1) then eINUSE
      else if (op = 3 || op = 4) && reqRank req < 6 then eINUSE
      else cOK
    let s := s.wr Reg.PROT_CMD_GRP (n % 65536 + 65536 * (op % 8))
    let s := s.putRes Reg.PROT_CMD_RES code 0
    if code = cOK then s.updGrp n fun g => { g with newCmd := g.newCmd ++ [op] } else s

/-! The frame boundary and the per-group registers (R199). -/

/-- PROT_G_STAT of a group (R199): SEL and BRIDGE show the bits in force. -/
def State.grpStat (s : State) (d : ProtDef) (g : Grp) : Nat :=
  let bridge := d.ty == 1 && tabGet false s.selF d.bridge
  ofBits [s.selNow d, bridge] + 4 * (g.req % 16) + 64 * nat01 g.far + 128 * nat01 g.sig + 256 * g.cmd
    + 2048 * ofBits [g.sfw, g.sfp, g.sdw, g.sdp, g.wtr.isSome, g.pm, g.nr, g.fsl, g.fallback,
        g.hSfw.isSome || g.hSdw.isSome || g.holdW, g.hSfp.isSome || g.hSdp.isSome || g.holdP]

/-- PROT_G_RX of a group (R199). -/
def State.grpRx (s : State) (d : ProtDef) (g : Grp) : Nat :=
  if d.ty = 2 then
    match g.farSt with
    | some v => v + 16777216 + 33554432 * nat01 (g.src == 2)
    | none => 33554432 * nat01 (g.src == 2)
  else
    match s.farAps d with
    | some b => leAt b 0 3 + 16777216
    | none => 0

/-- The registers of group `d` for the frame that begins (R199). -/
def grpRegs (s : State) (d : ProtDef) : State :=
  let g := s.grp d.idx
  let s := putStat s (Reg.PROT_G_STAT d.idx) (s.grpStat d g) (Reg.PROT_G_CHG 0) d.idx
  let s := s.wr (Reg.PROT_G_WTR_LEFT d.idx) (match g.wtr with
    | some t => t - s.elapsed
    | none => 0)
  let s := s.wr (Reg.PROT_G_TX d.idx) (leAt (if g.tx.isEmpty then g.txBytes d else g.tx) 0 3)
  let s := s.wr (Reg.PROT_G_RX d.idx) (s.grpRx d g)
  s.wr (Reg.PROT_G_SW d.idx) g.sw

/-- A group at a frame boundary: a new selection in force, the failure timers of its defects, the commands of the frame before, and its
registers (R185, R191, R195, R199). -/
def protFrame1 (s : State) (d : ProtDef) : State :=
  let g := s.grp d.idx
  let s := if s.selNow d = s.selBefore d then s else protSwitched s d.idx
  let s := failEnt s (protKey d.idx) 0x50 3 (ofBits [g.pm, g.nr, g.fsl]) (fun _ => false) fun _ => false
  let s := s.updGrp d.idx fun g =>
    { g with cmdIn := (if g.evald then [] else g.cmdIn) ++ g.newCmd, cmdLast := g.newCmd.getLastD 0, newCmd := [], was := g.evald, evald := false, dropped := false }
  grpRegs s d

/-- Every group at a frame boundary. -/
def protFrame (s : State) : State :=
  match s.img with
  | some m => { m.prots.foldl protFrame1 { s with switchWas := s.flag Reg.PROT_EVT F.PROT_EVT_SWITCH } with newObjs := [] }
  | none => s

/-- Raise or clear of a protection failure (R191, R80). -/
def protRaise (s : State) (n code : Nat) : State :=
  if s.failDue (protKey n) code && s.dutyUp (handle 4 n) then
    failMove s (handle 4 n) 4 (protKey n) code true (alarmRecord (handle 4 n) code 1 s.prevFn)
  else s

def protClear (s : State) (n code : Nat) : State :=
  if s.clearDue (protKey n) code && s.dutyUp (handle 4 n) then
    failMove s (handle 4 n) 4 (protKey n) code false (alarmRecord (handle 4 n) code 0 s.prevFn)
  else s

/-- FAILURE_RAISE (R80): by defect code, a line PM entity, a leaf carrier or group, or a protection group. -/
def failureRaise (s : State) (ent code : Nat) : State :=
  if code < 0x40 then lineRaise s ent code else if code < 0x50 then leafRaise s ent code else protRaise s ent code

/-- FAILURE_CLEAR (R80). -/
def failureClear (s : State) (ent code : Nat) : State :=
  if code < 0x40 then lineClear s ent code else if code < 0x50 then leafClear s ent code else protClear s ent code

/-- PM_SECOND_END (R90): at the first boundary after a second's last frame, on every entity, line and leaf; its last frame is sampled
first, and a snapshot of this boundary shows the second (R98). -/
def secondEnd (s : State) : State :=
  if s.released && s.ofs = 0 && s.fnN % 8000 = 0 && s.secStart < s.elapsed then
    shoot { leafSeconds (lineSeconds (settle s)) with secStart := s.elapsed }
  else s

/-- The registers of group `n` follow an event of offset 0 (R184, R199). -/
def grpLate (n : Nat) (s : State) : State :=
  lateStat (fun s => match s.prot n with
    | some d => grpRegs s d
    | none => s) s

/-- LO (R184). -/
def execLo (group : Nat) (s : State) : Host.Outcome State Fault Refusal := checked (.lo group) s (s.host Reg.PROT_CMD fun s => protCmd s 1 group)
/-- FS (R184). -/
def execFs (group : Nat) (s : State) : Host.Outcome State Fault Refusal := checked (.fs group) s (s.host Reg.PROT_CMD fun s => protCmd s 2 group)
/-- MS_P (R184). -/
def execMsP (group : Nat) (s : State) : Host.Outcome State Fault Refusal := checked (.msP group) s (s.host Reg.PROT_CMD fun s => protCmd s 3 group)
/-- MS_W (R184). -/
def execMsW (group : Nat) (s : State) : Host.Outcome State Fault Refusal := checked (.msW group) s (s.host Reg.PROT_CMD fun s => protCmd s 4 group)
/-- CLEAR (R184). -/
def execClear (group : Nat) (s : State) : Host.Outcome State Fault Refusal := checked (.clear group) s (s.host Reg.PROT_CMD fun s => protCmd s 5 group)
/-- PROT_CMD_ACK (R184). -/
def execProtCmdAck (seq : Nat) (s : State) : Host.Outcome State Fault Refusal :=
  checked (.protCmdAck seq) s (s.host Reg.PROT_CMD_ACK (·.ackRes Reg.PROT_CMD_RES seq))
/-- PROT_EVALUATION (R182). -/
def execProtEvaluation (group : Nat) (s : State) : Host.Outcome State Fault Refusal := checked (.protEvaluation group) s (protEval s group)
/-- HOLD_OFF_END (R180). -/
def execHoldOffEnd (group : Nat) (protect sd : Bool) (s : State) : Host.Outcome State Fault Refusal :=
  checked (.holdOffEnd group protect sd) s (grpLate group (holdEnd s group protect sd))
/-- WTR_EXPIRY (R183). -/
def execWtrExpiry (group : Nat) (s : State) : Host.Outcome State Fault Refusal := checked (.wtrExpiry group) s (grpLate group (wtrExpiry s group))
/-- DFOP_NR (R191). -/
def execDfopNr (group : Nat) (s : State) : Host.Outcome State Fault Refusal := checked (.dfopNr group) s (grpLate group (dfopNr s group))
/-- DFSL (R191). -/
def execDfsl (group : Nat) (s : State) : Host.Outcome State Fault Refusal := checked (.dfsl group) s (grpLate group (dfsl s group))
/-- FAILURE_RAISE (R80). -/
def execFailureRaise (ent code : Nat) (s : State) : Host.Outcome State Fault Refusal := checked (.failureRaise ent code) s (failureRaise (settle s) ent code)
/-- FAILURE_CLEAR (R80). -/
def execFailureClear (ent code : Nat) (s : State) : Host.Outcome State Fault Refusal := checked (.failureClear ent code) s (failureClear (settle s) ent code)
/-- PM_SECOND_END (R90). -/
def execPmSecondEnd (s : State) : Host.Outcome State Fault Refusal := checked .pmSecondEnd s (secondEnd s)

end Sys2Proof.Machine
end

