-- ==== Sys2Proof/Machine/Timing.lean ====
section
/-! DEFINITION. The timing unit (spec/09_timing_unit.md): candidates, quality levels, selection, disputes, settling, states,
holdover memory, clamps, clock, PPS and time-of-day outputs. Frequencies are in 0.001 ppb, phases in 0.01 ns. -/

namespace Sys2Proof.Machine

/-- A reference candidate. -/
def State.ref (s : State) (n : Nat) : Ref := tabGet {} s.refs n

/-- Change a reference candidate. -/
def State.updRef (s : State) (n : Nat) (f : Ref → Ref) : State := { s with refs := tabUpd {} s.refs n f }

/-- The unit is paired (R225). -/
def State.paired (s : State) : Bool := s.flag Reg.MATE_CFG F.MATE_CFG_MODE

/-- TYPE of a candidate (R224). -/
def State.refTy (s : State) (n : Nat) : Nat := s.fld (Reg.TIM_REF_CFG n) F.TIM_REF_CFG_TYPE
/-- PRI of a candidate (R224). -/
def State.refPri (s : State) (n : Nat) : Nat := s.fld (Reg.TIM_REF_PRI n) F.TIM_REF_PRI_PRI
/-- STATE of a candidate: 0 DISABLED, 1 QUALIFYING, 2 FAILED, 3 WTR, 4 USABLE, 5 DISPUTED (R203). -/
def State.refSt (s : State) (n : Nat) : Nat := s.fld (Reg.TIM_REF_STAT n) F.TIM_REF_STAT_STATE
/-- Enter a candidate state. -/
def setRefSt (s : State) (n st : Nat) : State := s.setFld (Reg.TIM_REF_STAT n) F.TIM_REF_STAT_STATE st
/-- TIM_STAT.STATE: 0 FREERUN, 1 ACQUIRING, 2 LOCKED, 3 HOLDOVER (R215). -/
def State.timSt (s : State) : Nat := s.fld Reg.TIM_STAT F.TIM_STAT_STATE
/-- MEM_VALID (R216). -/
def State.memValid (s : State) : Bool := s.flag Reg.TIM_STAT F.TIM_STAT_MEM_VALID
/-- The holdover memory. -/
def State.hoFreq (s : State) : Int := sext (s.rd Reg.TIM_HO_FREQ) 32

/-- The ingress carrier that is candidate `n` (R200). -/
def State.candCarrier (s : State) (n : Nat) : Option Nat := if 8 ≤ n && n < 40 then s.img.bind (·.refCarrier (n - 8)) else none

/-- Candidate `n` is present, assigned and enabled (R201). -/
def State.refOn (s : State) (n : Nat) : Bool :=
  s.fuses.cand n &&
    (if n = 40 then s.paired
     else s.refTy n != 0 && s.refPri n != 0 && (n < 8 || (s.candCarrier n).isSome))

/-- The loop class of a candidate by its type (R200). -/
def State.loopClass (s : State) (n : Nat) : Nat :=
  match s.refTy n with
  | 4 => 1
  | 5 => 2
  | 6 => 3
  | _ => 0

/-- The loop bandwidth of a class in mHz, 1 mHz to 100 Hz (R212). -/
def State.classBw (s : State) (k : Nat) : Nat := max 1 (min 100000 (s.fld (Reg.TIM_BW_0 + 4 * k) F.TIM_BW_0_MHZ))

/-- The bandwidth in force is that of the selected candidate's class; without one the last stays (R212). -/
def loopSet (s : State) : State :=
  if s.timSel = 63 then s else { s with tim := { s.tim with bw := s.classBw (s.loopClass s.timSel) } }

/-! Quality levels (R204, R205). -/

/-- Rank of a received code of option I. -/
def rankI (c : Nat) : Nat :=
  match c with
  | 0x2 => 1
  | 0x4 => 3
  | 0x8 => 6
  | 0xB => 8
  | _ => 15

/-- Rank of a received code of option II. -/
def rankII (c : Nat) : Nat :=
  match c with
  | 0x1 => 1
  | 0x0 => 2
  | 0x7 => 3
  | 0x4 => 4
  | 0xD => 5
  | 0xA => 7
  | 0xC => 8
  | 0xE => 9
  | _ => 15

/-- The rank of a candidate (R205). -/
def State.refRank (s : State) (n : Nat) : Nat :=
  let cfg := Reg.TIM_REF_CFG n
  let qa := s.fld cfg F.TIM_REF_CFG_QL_ASSIGN
  if s.flag cfg F.TIM_REF_CFG_QL_FIXED then qa
  else
    match s.refTy n with
    | 2 => (match (s.ref n).ssm.val with
        | some c => rankI c
        | none => 15)
    | 3 => (match (s.ref n).ssm.val with
        | some c => rankII c
        | none => 15)
    | 5 => (match s.candCarrier n with
        | some c =>
          let q := s.rd (Reg.LEAF_CAR_QL c)
          if bitAt q 8 && bitAt q 5 then (if bitAt q 4 then rankII (q % 16) else rankI (q % 16)) else qa
        | none => qa)
    | 6 => s.mate.rank
    | _ => qa

/-- SSM_MESSAGE (R205): 3 equal in a row are accepted. The code 16 stands for the loss of the CRC-4 multiframe
alignment of a framed 2.048 Mbit/s input, or for a bit-oriented message that names no level: rank 15. -/
def ssmMessage (s : State) (n code : Nat) : State :=
  if s.refTy n = 2 && 16 ≤ code then s.updRef n fun r => { r with ssm := {} }
  else if s.refTy n = 2 || s.refTy n = 3 then s.updRef n fun r => { r with ssm := r.ssm.feed 3 code }
  else s

/-! Candidate states (R202, R203). -/

/-- PULLIN in 0.001 ppb (R202, R224). -/
def State.pullin (s : State) : Int := 1000 * (min 9200 (s.fld Reg.TIM_PULLIN F.TIM_PULLIN_PULLIN) : Nat)

/-- TIM_WTR in force (R203). -/
def State.timWtr (s : State) : Nat := min 5760000 (s.fld Reg.TIM_WTR F.TIM_WTR_FRAMES)

/-- Candidate 40 has lost the link's timing (R229): no lane locked, or no valid delay. -/
def State.mateTimingLost (s : State) : Bool :=
  !s.flag Reg.MATE_DELAY F.MATE_DELAY_VALID || (List.range 8).all fun l => !s.flag (Reg.MATE_LANE_STAT l) F.MATE_LANE_STAT_LOCK

/-- The signal fault of a candidate in the frame that ends (R202); a leaf stage that does not run has no carrier in-frame (R151). -/
def State.refSig (s : State) (n : Nat) : Bool :=
  if n < 8 then (s.ref n).sigAcc
  else if n = 40 then s.mateTimingLost
  else match s.candCarrier n with
    | some c => !s.leafUp || s.carSf c State.defSmp
    | none => true

/-- A candidate goes to FAILED (R203). -/
def refFail (s : State) (n : Nat) : State :=
  ((setRefSt s n 2).evt (Reg.TIM_REF_EVT n) F.TIM_REF_EVT_FAIL).evt Reg.TIM_EVT F.TIM_EVT_CAND_FAIL

/-- A candidate without a fault leaves FAILED (R203): for WTR when it had been USABLE since it was assigned. -/
def refReturn (s : State) (n : Nat) : State :=
  (setRefSt s n (if (s.ref n).used then 3 else 1)).updRef n fun r => { r with good := 0 }

/-- A candidate becomes USABLE (R203); at this offset 0 it counts for selection as still in its former state (R207). -/
def refUsable (s : State) (n : Nat) : State :=
  (setRefSt s n 4).updRef n fun r => { r with used := true, good := 0, agree := 0, freshAt := s.elapsed, fresh := s.refSt n }

/-- The state of a candidate as the selection of this offset 0 takes it (R207). -/
def State.refSelSt (s : State) (n : Nat) : Nat :=
  if s.refSt n = 4 && (s.ref n).freshAt = s.elapsed && (s.ref n).fresh ≠ 0 then (s.ref n).fresh else s.refSt n

/-- The frames a candidate still has to spend in QUALIFYING or WTR are shown (R224). -/
def refLeft (s : State) (n : Nat) : State :=
  s.wr (Reg.TIM_REF_WTR_LEFT n) (match s.refSt n with
    | 1 => 8000 - (s.ref n).good
    | 3 => s.timWtr - (s.ref n).good
    | _ => 0)

/-- A candidate that is not on: its registers read 0 and nothing of it is kept (R201). -/
def refClear (s : State) (n : Nat) : State :=
  let s := [Reg.TIM_REF_STAT n, Reg.TIM_REF_OFS n, Reg.TIM_REF_PHASE n, Reg.TIM_REF_WTR_LEFT n, Reg.TIM_REF_EVT n].foldl
    (fun s a => if s.rd a = 0 then s else s.wr a 0) s
  { s with refs := tabSet {} s.refs n {} }

/-- Faults of a candidate from the samples of the frame before (R202). -/
def refFaults (s : State) (n : Nat) : State :=
  let sig := s.refSig n
  let s := s.setFlag (Reg.TIM_REF_STAT n) F.TIM_REF_STAT_SIG_FAULT sig
  let a := (s.ref n).ofs800
  if n = 40 then s
  else if (s.pullin : Int) < (a.natAbs : Int) then
    let s := s.updRef n fun r => { r with freqIn := 0 }
    if s.flag (Reg.TIM_REF_STAT n) F.TIM_REF_STAT_FREQ_FAULT then s
    else (s.setFlag (Reg.TIM_REF_STAT n) F.TIM_REF_STAT_FREQ_FAULT true).evt (Reg.TIM_REF_EVT n) F.TIM_REF_EVT_RANGE
  else s.updRef n fun r => { r with freqIn := if (a.natAbs : Int) ≤ s.pullin - 200000 then min 8000 (r.freqIn + 1) else 0 }

/-- A candidate has a fault (R202). -/
def State.refFault (s : State) (n : Nat) : Bool :=
  s.flag (Reg.TIM_REF_STAT n) F.TIM_REF_STAT_SIG_FAULT || s.flag (Reg.TIM_REF_STAT n) F.TIM_REF_STAT_FREQ_FAULT

/-- The offset of a candidate lies within AGREE_WIN of the memory (R210). -/
def State.refAgrees (s : State) (n : Nat) : Bool :=
  decide ((sext (s.rd (Reg.TIM_REF_OFS n)) 32 - s.hoFreq).natAbs ≤ max 100 (s.fld Reg.TIM_AGREE_WIN F.TIM_AGREE_WIN_WIN))

/-- One candidate at offset 0 (R203); the registers of one that is not on read 0 (R201). Its step into USABLE is a command of its own, after the selection (R207). -/
def refFrame (s : State) (n : Nat) : State :=
  if !s.refOn n then refClear s n
  else
    let s := refFaults s n
    let fault := s.refFault n
    let s :=
      match s.refSt n with
      | 0 => (setRefSt s n 1).updRef n fun r => { r with good := 0, used := false }
      | 2 => if fault then s else refReturn s n
      | 1 | 3 => if fault then refFail s n else s.updRef n fun r => { r with good := min 5760000 (r.good + 1) }
      | 5 => if fault then refFail s n
             else s.updRef n fun r => { r with agree := if s.refAgrees n then min 8000 (r.agree + 1) else 0 }
      | _ => if fault then refFail s n else s
    s.updRef n fun r => { r with sigAcc := r.sig }

/-- RANK, LOCKED_OUT and the frames left of a candidate (R224). -/
def refShow (s : State) (n : Nat) : State :=
  let a := Reg.TIM_REF_STAT n
  let r := if s.refOn n then s.refRank n else 0
  let s := if s.refOn n && s.fld a F.TIM_REF_STAT_RANK ≠ r then s.evt (Reg.TIM_REF_EVT n) F.TIM_REF_EVT_QL_CHG else s
  let s := s.setFld a F.TIM_REF_STAT_RANK r
  let s := s.setFlag a F.TIM_REF_STAT_LOCKED_OUT (s.refOn n && s.bit (if n < 32 then Reg.TIM_LOCKOUT_0 else Reg.TIM_LOCKOUT_1) (n % 32))
  refLeft (s.setFlag a F.TIM_REF_STAT_SELECTED (s.timSel == n)) n

/-! Selection (R207 to R211, R213, R214). -/

/-- The peer's role came in a marker of the last 16 frames (R209, R226). -/
def State.peerFresh (s : State) : Bool :=
  match s.mate.peerAt with
  | some t => decide (s.elapsed ≤ t + 16)
  | none => false

/-- Candidate 40 is the only eligible candidate (R209). -/
def State.mateOnly (s : State) : Bool :=
  s.paired && (s.role == roleSTANDBY || s.role == roleDIVERGED) && s.peerFresh
    && (s.mate.peerRole == roleACTIVE || s.mate.peerRole == roleHOLDING)

/-- Candidate `n` is eligible (R207, R209). -/
def State.eligible (s : State) (n : Nat) : Bool :=
  let st := s.refSelSt n
  let rank := s.refRank n
  let minQl := s.fld Reg.TIM_CTRL F.TIM_CTRL_MIN_QL
  let only := s.mateOnly
  (n == 40) == only && (st == 4 || st == 5) && rank != 15
    && (!s.flag Reg.TIM_CTRL F.TIM_CTRL_QL_EN || decide (rank ≤ if minQl = 0 then 14 else minQl))
    && (n == 40 || !s.bit (if n < 32 then Reg.TIM_LOCKOUT_0 else Reg.TIM_LOCKOUT_1) (n % 32))

/-- Rank and priority of a candidate as one key (R207). -/
def State.refKey (s : State) (n : Nat) : Nat :=
  16 * (if s.flag Reg.TIM_CTRL F.TIM_CTRL_QL_EN then s.refRank n else 0) + s.refPri n

/-- The top tie (R207), lowest index first. -/
def State.topTie (s : State) : List Nat :=
  let e := (List.range 41).filter s.eligible
  let best := e.foldl (fun k n => min k (s.refKey n)) 4096
  e.filter fun n => s.refKey n == best

/-- Disputes (R210): judged when the top tie holds two or more and the memory is valid. -/
def dispute (s : State) : State :=
  let tie := s.topTie
  if tie.length < 2 || !s.memValid then s
  else
    (tie.filter fun n => !s.refAgrees n && s.refSelSt n == 4).foldl (fun s n =>
      (((setRefSt s n 5).updRef n fun r => { r with agree := 0 }).evt (Reg.TIM_REF_EVT n) F.TIM_REF_EVT_DISPUTED).evt
        Reg.TIM_EVT F.TIM_EVT_DISPUTE) s

/-- Enter a state of the unit, latching its event (R215). -/
def setTimSt (s : State) (st : Nat) : State :=
  if s.timSt = st then s
  else
    let s := s.setFld Reg.TIM_STAT F.TIM_STAT_STATE st
    match st with
    | 0 => s.evt Reg.TIM_EVT F.TIM_EVT_FREERUN
    | 2 => s.evt Reg.TIM_EVT F.TIM_EVT_LOCKED
    | 3 => s.evt Reg.TIM_EVT F.TIM_EVT_HOLDOVER
    | _ => s

/-- The unit goes on without a selection (R207, R215); an FN to take from the active unit lapses with candidate 40 (R209). -/
def timHold (s : State) : State :=
  let s := (s.setFld Reg.TIM_STAT F.TIM_STAT_SEL 63).dropNewFn
  if s.timSt = 1 || s.timSt = 2 then setTimSt s (if s.memValid then 3 else 0) else s

/-- Switch to candidate `n` (R213, R214): the build-out captures its phase in this cycle, except for candidate 40, which the
unit follows in phase and FN (R209). DESIGN CHOICE (log entry 146): the runs that lead to LOCKED and out of it (R215) start anew at the switch. -/
def timSwitch (s : State) (n : Nat) : State :=
  let s := loopSet (s.setFld Reg.TIM_STAT F.TIM_STAT_SEL n).dropNewFn
  let s := (s.evt Reg.TIM_EVT F.TIM_EVT_SWITCH).count 0xE0 0 1
  let s := s.updRef n fun r => { r with base := if n = 40 then 0 else r.raw }
  let s := if s.timSt = 0 || s.timSt = 3 then setTimSt s 1 else s
  let s := s.setFlag Reg.TIM_STAT F.TIM_STAT_SETTLING true
  { s with tim := { s.tim with settleEnd := some (s.elapsed + max 1 (s.fld Reg.TIM_SETTLE F.TIM_SETTLE_FRAMES)),
                               lockRun := 0, badRun := 0, alignDue := n == 40 } }

/-- The selection at offset 0 (R207). -/
def timSelect (s : State) : State :=
  let sel := s.timSel
  let tie := s.topTie
  let usable := tie.filter fun n => s.refSelSt n == 4
  let settling := s.tim.settleEnd.isSome
  let gone := sel != 63 && !s.eligible sel
  if s.flag Reg.TIM_HCTRL F.TIM_HCTRL_FORCE_HO || (settling && gone) then timHold s
  else if s.role = roleHOLDING then (if gone then timHold s else s)
  else
    match usable with
    | [] => timHold s
    | best :: _ =>
      let rank := fun n => s.refKey n / 16
      if settling then s
      else if sel = 63 then timSwitch s best
      else if gone || s.refSelSt sel ≠ 4 then timSwitch s best
      else if rank best < rank sel then timSwitch s best
      else if s.flag Reg.TIM_CTRL F.TIM_CTRL_REVERT && best ≠ sel then timSwitch s best
      else s

/-! Loop, memory and output (R212, R215 to R217). -/

/-- The limit of the output frequency below and above (R217), wider in the direction of a slew: a step's, or the one onto the active unit's
frame phase (R209). -/
def State.freqLimits (s : State) : Int × Int :=
  let lim : Int := if s.timSel = 40 && s.role = roleSTANDBY then 20000000 else 9200000
  let slow := (s.stepState == 2 && decide (0 < s.stepCyc)) || decide (0 < s.mate.slew)
  let fast := (s.stepState == 2 && decide (s.stepCyc < 0)) || decide (s.mate.slew < 0)
  (-(lim + if slow then 50000000 else 0), lim + if fast then 50000000 else 0)

/-- The output frequency of the frame: memory in HOLDOVER, local scale in FREERUN, the loop's otherwise, held at the limit. DESIGN CHOICE (log
entry 147): without a selected candidate the 50 ppm of a slew (R42) are not part of it; a loop's frequency is taken as given. -/
def timOutput (s : State) : State :=
  let want := if s.timSt = 0 then 0 else if s.timSt = 3 then s.hoFreq else s.tim.freq
  let lim := s.freqLimits
  let f := clampI want lim.1 lim.2
  let s := s.wr Reg.TIM_OUT_FREQ (unsext f 32)
  let outside := f != want
  let s := if outside then (s.evt Reg.TIM_EVT F.TIM_EVT_CLAMP).count 0xE1 0 1 else s
  s.setFlag Reg.TIM_STAT F.TIM_STAT_CLAMP outside

/-- Add a frame of frequency `f` to a history of runs. -/
def histPush (h : List (Int × Nat)) (f : Int) : List (Int × Nat) :=
  match h.reverse with
  | (g, n) :: r => if g = f then (r.reverse ++ [(g, n + 1)]) else h ++ [(f, 1)]
  | [] => [(f, 1)]

/-- Frames a history holds. -/
def histLen (h : List (Int × Nat)) : Nat := h.foldl (fun n x => n + x.2) 0

/-- Drop the `n` oldest frames of a history. -/
def histDrop : Nat → List (Int × Nat) → List (Int × Nat)
  | _, [] => []
  | n, (f, k) :: r => if k ≤ n then histDrop (n - k) r else (f, k - n) :: r

/-- Sum and number of the `n` oldest frames of a history. -/
def histSum : Nat → List (Int × Nat) → Int × Nat
  | _, [] => (0, 0)
  | n, (f, k) :: r =>
    let j := min n k
    let x := histSum (n - j) r
    (f * j + x.1, j + x.2)

/-- The memory after a frame (R216): updated while LOCKED for 480,000 frames, from the window of 480,000 frames that ended
16,000 frames ago. -/
def timMemory (s : State) : State :=
  let h := histPush s.tim.hist (sext (s.rd Reg.TIM_OUT_FREQ) 32)
  let h := histDrop (histLen h - 496000) h
  let n := if s.timSt = 2 then min 480000 (s.tim.lockedFor + 1) else 0
  let s := { s with tim := { s.tim with hist := h, lockedFor := n } }
  if n < 480000 then s
  else
    let x := histSum 480000 h
    (s.wr Reg.TIM_HO_FREQ (unsext (x.1 / (x.2 : Int)) 32)).setFlag Reg.TIM_STAT F.TIM_STAT_MEM_VALID true

/-- Lock runs from the phase error of the frame (R215): ±100 ns and ±1,000 ns. -/
def timRuns (s : State) : State :=
  let e := s.tim.phaseErr.natAbs
  { s with tim := { s.tim with lockRun := if s.timSel = 63 || 10000 < e then 0 else min 8000 (s.tim.lockRun + 1),
                               badRun := if s.timSel ≠ 63 && 100000 < e then min 80 (s.tim.badRun + 1) else 0 } }

/-- The output rank (R206). -/
def State.outRank (s : State) : Nat :=
  match s.timSt with
  | 0 => s.fld Reg.TIM_CTRL F.TIM_CTRL_FR_QL
  | 3 => s.fld Reg.TIM_CTRL F.TIM_CTRL_HO_QL
  | _ => s.refRank s.timSel

/-- Squelch of the clock outputs under the settings and the output rank in force (R219). -/
def squelch (s : State) : State :=
  let r := s.fld Reg.TIM_STAT F.TIM_STAT_OUT_QL
  (List.range 4).foldl (fun s n =>
    let a := Reg.TIM_CLK_OUT n
    let q := s.fld a F.TIM_CLK_OUT_SQ_QL
    s.setFlag a F.TIM_CLK_OUT_SQUELCHED (s.fld a F.TIM_CLK_OUT_FREQ != 0 &&
      ((q != 0 && decide (q < r)) || (s.flag a F.TIM_CLK_OUT_SQ_FR && s.timSt == 0)))) s

/-- Output rank, pins and squelch for the frame that begins (R206, R209, R218, R219). A STANDBY without candidate 40 keeps
its pins and its output rank. -/
def timShow (s : State) : State :=
  let keep := s.role == roleSTANDBY && s.timSel != 40
  let s :=
    if keep then s
    else
      let r := s.outRank
      let s := if s.fld Reg.TIM_STAT F.TIM_STAT_OUT_QL = r then s else s.evt Reg.TIM_EVT F.TIM_EVT_QL_CHG
      let s := s.setFld Reg.TIM_STAT F.TIM_STAT_OUT_QL r
      { s with tim := { s.tim with pinState := s.timSt, pinRef := s.timSel } }
  squelch s

/-- A device frame in 0.01 ns of the core clock. -/
def frameTicks : Int := 12500000

/-- A phase difference taken to the nearest frame. -/
def nearPhase (x : Int) : Int := (x + frameTicks / 2) % frameTicks - frameTicks / 2

/-- Samples of the candidates (R202, R213): frequency averages, and the phase of the reference inputs and of the Nirrin link. -/
def refSample (s : State) (x : Nat × RefSample) : State :=
  let s := s.updRef x.1 fun r => { r with ofs800 := x.2.ofs800, raw := if x.1 < 8 || x.1 = 40 then x.2.phase else r.raw }
  s.wr (Reg.TIM_REF_OFS x.1) (unsext x.2.ofs8000 32)

/-- The phase of a candidate against the output is shown (R224): of a line-derived one from the instant of its carrier's last alignment word
(R148), one frame of the output to one of the carrier. -/
def refPhase (s : State) (n : Nat) : State :=
  let s := match (s.candCarrier n).bind fun c => (s.car c).awAt with
    | some t => s.updRef n fun r => { r with raw := nearPhase t }
    | none => s
  let d := (s.ref n).raw - (s.ref n).base
  s.wr (Reg.TIM_REF_PHASE n) (unsext (if n < 8 || n = 40 then d else nearPhase d) 32)

/-- The timing unit at offset 0 (R203, R207): samples of the frame before, candidate states, disputes, selection, output. It
takes no part before the image has been built. -/
def timFrame (s : State) (inp : FrameInput) : State :=
  if !s.built then s
  else
    let s := (inp.refs.filter fun x => s.refOn x.1).foldl refSample s
    let s := ((List.range 41).filter s.refOn).foldl refPhase s
    let s := { s with tim := { s.tim with freq := inp.outFreq.getD s.tim.freq, phaseErr := inp.phaseErr.getD s.tim.phaseErr } }
    let s := timMemory (timRuns s)
    let s := (List.range 41).foldl refFrame s
    let s := timSelect (dispute s)
    let s := timOutput s
    (List.range 41).foldl refShow (timShow s)

/-- A graft's timing settings are in force (R133): candidates that it leaves without an assignment are gone, the selection, the output and
what is shown follow in the same boundary cycle. -/
def timRedo (s : State) : State :=
  let s := ((List.range 48).filter fun n => !s.refOn n).foldl refClear s
  let t := loopSet (timSelect (dispute s))
  let s := if t.timSt = s.timSt && t.timSel = s.timSel then t else timOutput t
  (List.range 41).foldl refShow (timShow s)

/-! Rows of their own. -/

/-- QUALIFIED (R203). -/
def refQualified (s : State) (n : Nat) : State :=
  if s.refSt n = 1 && 8000 ≤ (s.ref n).good then refLeft (refUsable s n) n else s

/-- CANDIDATE_WTR_END (R203). -/
def refWtrEnd (s : State) (n : Nat) : State :=
  if s.refSt n = 3 && s.timWtr ≤ (s.ref n).good then refLeft (refUsable s n) n else s

/-- FREQUENCY_FAULT_CLEAR (R202): with no other fault, the candidate leaves FAILED (R203). -/
def freqClear (s : State) (n : Nat) : State :=
  if s.flag (Reg.TIM_REF_STAT n) F.TIM_REF_STAT_FREQ_FAULT && 8000 ≤ (s.ref n).freqIn then
    let s := s.setFlag (Reg.TIM_REF_STAT n) F.TIM_REF_STAT_FREQ_FAULT false
    if s.refSt n = 2 && !s.refFault n then refLeft (refReturn s n) n else s
  else s

/-- A signal fault in the boundary cycle belongs to the frame before (R33): the candidate fails at this offset 0, and the selection, the output
rank and what carries it follow (R203, R206, R207). -/
def refLate (s : State) (n : Nat) : State :=
  let s := s.setFlag (Reg.TIM_REF_STAT n) F.TIM_REF_STAT_SIG_FAULT true
  if [1, 3, 4, 5].contains (s.refSt n) then qlReform (timRedo (refFail s n)) else s

/-- REF_SIGNAL_FAULT and REF_SIGNAL_RETURN of a reference input (R202). -/
def refSignal (s : State) (n : Nat) (fault : Bool) : State :=
  if n < 8 && s.refOn n then
    let late := s.ofs == 0 && s.built
    let s := s.updRef n fun r => { r with sig := fault, sigAcc := fault || (r.sigAcc && !late) }
    if late && fault then refLate s n else s
  else s

/-- DISPUTE_RELEASE (R211). -/
def disputeRelease (s : State) (n : Nat) : State :=
  if s.refSt n = 5 && 8000 ≤ (s.ref n).agree then refUsable s n else s

/-- SETTLING_END (R214). -/
def settlingEnd (s : State) : State :=
  match s.tim.settleEnd with
  | some t =>
    if t ≤ s.elapsed then { s.setFlag Reg.TIM_STAT F.TIM_STAT_SETTLING false with tim := { s.tim with settleEnd := none } } else s
  | none => s

/-- TIM_STATE follows the state at offset 0 of a frame, and only there (R218). -/
def timPin (s : State) (st : Nat) : State := if s.ofs = 0 then { s with tim := { s.tim with pinState := st } } else s

/-- LOCKED (R215). -/
def timLocked (s : State) : State := if s.timSt = 1 && 8000 ≤ s.tim.lockRun then timPin (setTimSt s 2) 2 else s

/-- LOCK_LOSS (R215). -/
def timLockLoss (s : State) : State :=
  if s.timSt = 2 && 80 ≤ s.tim.badRun then
    let s := timPin (setTimSt s 1) 1
    { s with tim := { s.tim with lockRun := 0 } }
  else s

/-- PPS_OUT is squelched while TIME_SET = 0 (R220). -/
def State.ppsSquelch (s : State) : Bool :=
  s.flag Reg.TIM_PPS_OUT F.TIM_PPS_OUT_SQ_UNSET && !s.flag Reg.FT_STAT F.FT_STAT_TIME_SET

/-- PPS_OUT_RISE (R220): at offset 0 of a frame with FN mod 8,000 = 0; from boot step 2 on (R349). -/
def ppsOutRise (s : State) : State :=
  if s.clk && 2 ≤ s.bootStep && s.ofs = 0 && s.fnN % 8000 = 0 && !s.ppsSquelch then
    { s with tim := { s.tim with ppsHigh := some s.elapsed }, pins := { s.pins with ppsOut := true } }
  else s

/-- PPS_OUT_FALL (R220): after WIDTH frames. -/
def ppsOutFall (s : State) : State :=
  match s.tim.ppsHigh with
  | some t =>
    if t + max 1 (s.fld Reg.TIM_PPS_OUT F.TIM_PPS_OUT_WIDTH) ≤ s.elapsed then
      { s with tim := { s.tim with ppsHigh := none }, pins := { s.pins with ppsOut := false } }
    else s
  | none => s

/-- The TOD_OUT message of this frame (R221, R223). -/
def State.todOut (s : State) : List Byte :=
  let set := s.flag Reg.FT_STAT F.FT_STAT_TIME_SET
  let aux := s.rd Reg.TIM_TOD_IN_AUX
  let flags := nat01 (set && s.timSt == 2) + 2 * bits aux 1 2 + 8 * nat01 set
  let body := [0x01, 0x10] ++ beBytes (fnPlus s.fnN 4000 / 8000) 6 ++ [byte flags, byte s.outQl] ++ beBytes (aux / 65536) 2
  [0x5A, 0xC3] ++ body ++ beBytes (crc16 body) 2

/-- TOD_OUT_MESSAGE (R223). -/
def todOutMessage (s : State) : State :=
  if s.clk && 2 ≤ s.bootStep && s.ofs = 0 && s.fnN % 8000 = 4000 then
    { s.send (.todOut s.todOut) with tim := { s.tim with tod := some (s.now, s.todOut) } }
  else s

/-- TOD_IN_MESSAGE (R222): a message whose SYNC, TYPE, LEN, CRC, VALID and SEC are right waits for its PPS edge. -/
def todIn (s : State) (b : List Byte) : State := if s.clk && todOk b then { s with tods := s.tods ++ [⟨s.now, b⟩] } else s

/-- QUALIFIED (R203). -/
def execQualified (cand : Nat) (s : State) : Host.Outcome State Fault Refusal := checked (.qualified cand) s (refQualified s cand)
/-- CANDIDATE_WTR_END (R203). -/
def execCandidateWtrEnd (cand : Nat) (s : State) : Host.Outcome State Fault Refusal := checked (.candidateWtrEnd cand) s (refWtrEnd s cand)
/-- FREQUENCY_FAULT_CLEAR (R202). -/
def execFrequencyFaultClear (cand : Nat) (s : State) : Host.Outcome State Fault Refusal := checked (.frequencyFaultClear cand) s (freqClear s cand)
/-- REF_SIGNAL_FAULT (R202). -/
def execRefSignalFault (cand : Nat) (s : State) : Host.Outcome State Fault Refusal := checked (.refSignalFault cand) s (refSignal s cand true)
/-- REF_SIGNAL_RETURN (R202). -/
def execRefSignalReturn (cand : Nat) (s : State) : Host.Outcome State Fault Refusal := checked (.refSignalReturn cand) s (refSignal s cand false)
/-- DISPUTE_RELEASE (R211). -/
def execDisputeRelease (cand : Nat) (s : State) : Host.Outcome State Fault Refusal := checked (.disputeRelease cand) s (disputeRelease s cand)
/-- SETTLING_END (R214). -/
def execSettlingEnd (s : State) : Host.Outcome State Fault Refusal := checked .settlingEnd s (settlingEnd s)
/-- LOCKED (R215). -/
def execLocked (s : State) : Host.Outcome State Fault Refusal := checked .locked s (timLocked s)
/-- LOCK_LOSS (R215). -/
def execLockLoss (s : State) : Host.Outcome State Fault Refusal := checked .lockLoss s (timLockLoss s)
/-- SSM_MESSAGE (R205). -/
def execSsmMessage (cand code : Nat) (s : State) : Host.Outcome State Fault Refusal := checked (.ssmMessage cand code) s (ssmMessage s cand code)
/-- PPS_OUT_RISE (R220). -/
def execPpsOutRise (s : State) : Host.Outcome State Fault Refusal := checked .ppsOutRise s (ppsOutRise s)
/-- PPS_OUT_FALL (R220). -/
def execPpsOutFall (s : State) : Host.Outcome State Fault Refusal := checked .ppsOutFall s (ppsOutFall s)
/-- TOD_OUT_MESSAGE (R223). -/
def execTodOutMessage (s : State) : Host.Outcome State Fault Refusal := checked .todOutMessage s (todOutMessage s)
/-- TOD_IN_MESSAGE (R222). -/
def execTodInMessage (bytes : List Byte) (s : State) : Host.Outcome State Fault Refusal := checked (.todInMessage bytes) s (todIn s bytes)
/-- FORCE_HO_WRITE (R208): a write of TIM_HCTRL; the bit acts from the next frame boundary. -/
def execForceHoWrite (data : Word) (s : State) : Host.Outcome State Fault Refusal :=
  checked (.forceHoWrite data) s (s.host Reg.TIM_HCTRL fun s => s.wr Reg.TIM_HCTRL (data.toNat % 2))
/-- LOCKOUT_WRITE (R208): a write of TIM_LOCKOUT_m; it acts from the next frame boundary. -/
def execLockoutWrite (m : Nat) (data : Word) (s : State) : Host.Outcome State Fault Refusal :=
  checked (.lockoutWrite m data) s (s.host (if m = 0 then Reg.TIM_LOCKOUT_0 else Reg.TIM_LOCKOUT_1) fun s =>
    if m = 0 then s.wr Reg.TIM_LOCKOUT_0 data.toNat else s.wr Reg.TIM_LOCKOUT_1 (data.toNat % 65536))

end Sys2Proof.Machine
end

