-- ==== Sys2Proof/Machine/Mate.lean ====
section
/-! DEFINITION. Mate units (spec/10_mate_units.md): roles, the Nirrin link, full and fallback mirrors, Grinus, the lease,
health. Timers count elapsed frames (R34). -/

namespace Sys2Proof.Machine

/-- The mate unit runs: fused, powered, paired (R225). -/
def State.mateUp (s : State) : Bool := s.fuses.mate && s.domOn 65 && s.paired

/-- Change the mate unit's own record. -/
def State.updMate (s : State) (f : Mate → Mate) : State := { s with mate := f s.mate }

/-- Add `n` to a mate counter: 0 MMISS, 1 FBMISS, 2 SHADOW, 3 GRINUS_ERR (R244). -/
def mateCount (s : State) (i n : Nat) : State := s.incPair (Reg.MATE_MMISS_LO + 8 * i) Reg.MATE_WRAP i n

/-- A mirror that a STANDBY did not apply, or that was discarded (R231, R233). -/
def mirrorMiss (s : State) : State :=
  ((mateCount s 0 1).evt Reg.MATE_EVT F.MATE_EVT_MIRROR_MISS).count 0xF0 0 1

/-- `n` frames or groups with a shadow mismatch (R231, R235). -/
def shadowMiss (s : State) (n : Nat) : State :=
  if n = 0 then s
  else ((mateCount s 2 n).evt Reg.MATE_EVT F.MATE_EVT_SHADOW_MM).updMate fun m => { m with shadowAt := some s.elapsed }

/-! Roles (R226). -/

/-- ROLE_SYNC as the role has it (R226). -/
def roleSync (s : State) : State :=
  let r := s.role
  let b := if r = roleACTIVE then s.peerFresh && bitAt (s.rd Reg.MATE_PEER_HEALTH) 6
    else if r = roleHOLDING then s.flag Reg.MATE_STAT F.MATE_STAT_ROLE_SYNC
    else r == roleSTANDBY
  s.setFlag Reg.MATE_STAT F.MATE_STAT_ROLE_SYNC b

/-- Enter a role, with the reason for DIVERGED: 1 BOOT, 2 LINK, 3 IMAGE, 4 EPOCH, 5 LEASE, 6 RELEASED. ROLE_ACT and ROLE_SYNC follow at
the same offset 0; a unit that becomes active takes nothing more from its peer (R40). -/
def setRole (s : State) (role reason : Nat) : State :=
  let s := if s.role = role then s else s.evt Reg.MATE_EVT F.MATE_EVT_ROLE_CHG
  let s := s.setFld Reg.MATE_STAT F.MATE_STAT_ROLE role
  let s := s.setFld Reg.MATE_STAT F.MATE_STAT_REASON (if role = roleDIVERGED then reason else 0)
  let s := roleSync (s.setFlag Reg.MATE_STAT F.MATE_STAT_ROLE_ACT (role == roleACTIVE || role == roleHOLDING || (role == roleSTANDALONE && s.released)))
  if role = roleACTIVE then s.dropNewFn else s

/-- HOLDING is entered: the first REQUEST is due at once (R226, R237). -/
def toHolding (s : State) : State :=
  ((setRole s roleHOLDING 0).evt Reg.MATE_EVT F.MATE_EVT_LEASE_LOST).updMate fun m => { m with reqNow := true }

/-- STANDBY is entered. -/
def toStandby (s : State) : State :=
  (setRole s roleSTANDBY 0).updMate fun m => { m with mirAt := s.elapsed, hitRun := 0, badRun := 0 }

/-- The lease ends and the unit diverges. DESIGN CHOICE (log entry 148): after a RELEASE no lease is left, so E lies ahead no more, though
MATE_EXP still shows it. -/
def toDiverged (s : State) (reason : Nat) : State :=
  (setRole s roleDIVERGED reason).updMate fun m => { m with lease := none, held := 0, hitRun := 0 }

/-! Grinus (R236). -/

/-- A Grinus frame from its parts. -/
def grinusFrame (ty src seq : Nat) (payload : List Byte) : List Byte :=
  let b := [1, byte ty] ++ beBytes payload.length 2 ++ [byte src, 0] ++ beBytes seq 2 ++ payload
  b ++ beBytes (crc32c b) 4

/-- A received frame is good: version, length and CRC. -/
def grinusOk (b : List Byte) : Bool :=
  let n := beAt b 2 2
  b.length == 12 + n && beAt b 0 1 == 1 && crc32c (b.take (8 + n)) == beAt b (8 + n) 4

/-- A discarded frame (R236). -/
def grinusBad (s : State) : State := (mateCount s 3 1).count 0xF1 0 1

/-- Receive a frame of a type: only in sync; a bad one is discarded and counted. -/
def grinusRx (s : State) (b : List Byte) (ty : Nat) (op : State → List Byte → Nat → State) : State :=
  if !s.mateUp || !s.flag Reg.MATE_STAT F.MATE_STAT_ARB_SYNC then s
  else if !grinusOk b then grinusBad s
  else if beAt b 1 1 = ty then op s (slice b 8 (beAt b 2 2)) (beAt b 6 2)
  else s

/-- UNIT_ID (R225). -/
def State.unitId (s : State) : Nat := s.fld Reg.MATE_CFG F.MATE_CFG_UNIT_ID

/-- A 32-byte digest from its eight registers. -/
def State.digestAt (s : State) (a : Nat) : List Byte := (List.range 8).flatMap fun i => leBytes (s.rd (a + 4 * i)) 4

/-- The REQUEST payload (R236). -/
def State.reqPayload (s : State) (holding : Bool) : List Byte :=
  beBytes (if holding then s.mate.held else 0) 4 ++ [byte (nat01 holding), 0, 0, 0] ++ beBytes (s.rd Reg.MATE_HEALTH) 4
    ++ beBytes s.fnN 6 ++ beBytes (s.rd Reg.MATE_EPOCH) 4 ++ s.digestAt (Reg.GRAFT_RUN_DIGEST 0)

/-- The unit holds the lease or its HOLD window (R237). -/
def State.holder (s : State) : Bool := s.role == roleACTIVE || s.role == roleHOLDING

/-- A Grinus frame goes out on the ARB port (R236): after the frame that is leaving it. A byte takes 64/5 core cycles on the line, and every
frame has its two delimiters. -/
def arbSend (s : State) (b : List Byte) : State :=
  (s.send (.grinus b)).updMate fun m => { m with arbFree := max m.arbFree s.now + ((b.length + 2) * 64 + 4) / 5 }

/-- FALLBACK frames that wait for the ARB port leave it as it comes free, before the instant `t` (R236). -/
def arbDrain (t : Nat) : List (List Byte) → State → State
  | [], s => s.updMate fun m => { m with fbTx := [] }
  | b :: r, s =>
    if s.mate.arbFree < t then
      arbDrain t r ((s.send (.grinus b)).updMate fun m => { m with arbFree := m.arbFree + ((b.length + 2) * 64 + 4) / 5 })
    else s.updMate fun m => { m with fbTx := b :: r }

/-- REQUEST falls due (R237); in QUIET, which ALIGN_WAIT is part of, only idle characters are sent (R334, R349). -/
def State.requestDue (s : State) : Bool :=
  let m := s.mate
  s.mateUp && s.ofs == 0 &&
    (match m.lastReq with
     | none => true
     | some t => m.reqNow || decide (t + (if s.role = roleACTIVE then 64 else 16) ≤ s.elapsed)) &&
    s.running && (s.holder || ((s.role == roleSTANDBY || s.role == roleDIVERGED) && !s.flag Reg.MATE_CTRL F.MATE_CTRL_NO_ACQUIRE))

/-- REQUEST (R237). -/
def mateRequest (s : State) : State :=
  if s.requestDue then
    let m := s.mate
    let h := s.holder
    let s := arbSend s (grinusFrame 1 s.unitId m.seq (s.reqPayload h))
    s.updMate fun m => { m with seq := (m.seq + 1) % 65536, lastReq := some s.elapsed, reqNow := false,
                                out := m.out.filter (fun o => decide (s.elapsed < o.sent + 64)) ++ [⟨m.seq, s.fnN, s.elapsed, if h then m.held else 0⟩] }
  else s

/-- The outstanding REQUEST that a reply's SEQ matches, within 64 frames (R237). -/
def State.reqFor (s : State) (seq : Nat) : Option ReqOut := s.mate.out.find? fun o => o.seq == seq && decide (s.elapsed < o.sent + 64)

/-- The REQUEST of a SEQ has its reply. -/
def reqDone (s : State) (seq : Nat) : State := s.updMate fun m => { m with out := m.out.filter (·.seq != seq) }

/-- GRANT (R237): E := max(E, Fs + D); ACTIVE from the next offset 0 while E lies ahead. -/
def mateGrant (s : State) (p : List Byte) (seq : Nat) : State :=
  match s.reqFor seq with
  | some o =>
    let epoch := beAt p 0 4
    let d := beAt p 4 2
    let s := reqDone s seq
    let s := s.setFld Reg.MATE_ARB F.MATE_ARB_LAST_CODE cOK
    let s := s.wr Reg.MATE_EPOCH (max (s.rd Reg.MATE_EPOCH) epoch)
    let e := o.sent + d
    if e ≤ s.elapsed then s
    else
      let later := match s.mate.lease with
        | some t => decide (t < e)
        | none => true
      let s := if later then
          ((s.updMate fun m => { m with lease := some e, len := d }).wr Reg.MATE_EXP_LO (fnPlus o.fn d % 4294967296)).wr
            Reg.MATE_EXP_HI (fnPlus o.fn d / 4294967296)
        else s
      s.updMate fun m => { m with held := epoch, toActive := s.role != roleACTIVE }
  | none => s

/-- DENY (R237): 0x31 for the unit's epoch ends its lease at the next offset 0. -/
def mateDeny (s : State) (p : List Byte) (seq : Nat) : State :=
  match s.reqFor seq with
  | some o =>
    let s := (reqDone s seq).evt Reg.MATE_EVT F.MATE_EVT_DENIED
    let s := s.wr Reg.MATE_EPOCH (max (s.rd Reg.MATE_EPOCH) (beAt p 4 4))
    let s := (s.setFld Reg.MATE_ARB F.MATE_ARB_LAST_CODE (beAt p 0 1)).setFld Reg.MATE_ARB F.MATE_ARB_HOLDER (beAt p 1 1)
    if beAt p 0 1 = 0x31 && o.epoch ≠ 0 && o.epoch = s.mate.held then s.updMate fun m => { m with toHold := true } else s
  | none => s

/-- RELEASE_ACK (R236). -/
def mateRelAck (s : State) (p : List Byte) (_ : Nat) : State :=
  if s.mate.relEpoch = some (beAt p 0 4) then s.updMate fun m => { m with relEpoch := none } else s

/-- A FALLBACK chunk (R234, R236). -/
def mateChunk (s : State) (p : List Byte) (_ : Nat) : State :=
  let fn := beAt p 0 6
  let k := beAt p 6 2
  if 40 ≤ k then s
  else
    let s := if s.mate.chunkFn = fn then s else s.updMate fun m => { m with chunkFn := fn, chunks := [] }
    s.updMate fun m => { m with chunks := tabSet [] m.chunks k (p.drop 8) }

/-- REPLY_TIMEOUT (R237): REQUESTs of 64 frames ago and more have no reply any more. -/
def replyTimeout (s : State) : State := s.updMate fun m => { m with out := m.out.filter fun o => decide (s.elapsed < o.sent + 64) }

/-- LEASE_EXPIRY (R226, R237). -/
def leaseExpiry (s : State) : State :=
  match s.mate.lease with
  | some t => if s.role = roleACTIVE && decide (t ≤ s.elapsed) then toHolding s else s
  | none => s

/-- HOLD_EXPIRY (R226). -/
def holdExpiry (s : State) : State :=
  match s.mate.lease with
  | some t =>
    if s.role = roleHOLDING && decide (t + s.fld Reg.MATE_CFG F.MATE_CFG_HOLD ≤ s.elapsed) then toDiverged s 5 else s
  | none => s

/-- RELEASE (R243). -/
def mateRelease (s : State) : State :=
  if s.valid Reg.MATE_CMD_RES then s.evt Reg.MATE_EVT F.MATE_EVT_CMD_IGNORED
  else if s.inReturn then s.putRes Reg.MATE_CMD_RES eLIFE 0
  else if s.role ≠ roleACTIVE then s.putRes Reg.MATE_CMD_RES eINUSE 0
  else (s.updMate fun m => { m with toDiv := true }).putRes Reg.MATE_CMD_RES cOK 0

/-! Nirrin (R227 to R229). -/

/-- The marker's alignment word (R227). -/
def nirrinAW : Nat := 0x3A91C6E50B7D

/-- Bits from one marker to the next (R228). -/
def nirrinPeriod : Nat := 26547200

/-- One step of the marker search (R61, R228): each confirming recurrence must carry the next FN. -/
def nirrinSearch (cands : List NCand) (pos fn d : Nat) : List NCand × Bool :=
  let alive := cands.filter fun c => decide (pos ≤ c.pos + nirrinPeriod)
  let rest := alive.filter fun c => c.pos + nirrinPeriod != pos
  match alive.find? (fun c => c.pos + nirrinPeriod == pos) with
  | some c =>
    if d ≤ 3 && fn == fnPlus c.fn 1 then (if 3 ≤ c.conf + 1 then ([], true) else (rest ++ [⟨pos, c.conf + 1, fn⟩], false))
    else if d ≤ 2 then (rest ++ [⟨pos, 0, fn⟩], false) else (rest, false)
  | none => (if d ≤ 2 && alive.length < 8 then alive ++ [⟨pos, 0, fn⟩] else alive, false)

/-- A Nirrin lane. -/
def State.nlane (s : State) (l : Nat) : NLane := tabGet {} s.mate.lanes l

/-- Change a Nirrin lane. -/
def State.updNlane (s : State) (l : Nat) (f : NLane → NLane) : State :=
  s.updMate fun m => { m with lanes := tabUpd {} m.lanes l f }

/-- LOCK of a Nirrin lane. -/
def State.nlock (s : State) (l : Nat) : Bool := s.flag (Reg.MATE_LANE_STAT l) F.MATE_LANE_STAT_LOCK

/-- Locked Nirrin lanes. -/
def State.nlocked (s : State) : Nat := ((List.range 8).filter s.nlock).length

/-- MATE_DELAY (R228): half the mean round trip over the locked lanes that have one; valid up to 3,200 core cycles. -/
def mateDelay (s : State) : State :=
  let r := (List.range 8).filterMap fun l => if s.nlock l then (s.nlane l).rtt else none
  if r.isEmpty then s.setFlag Reg.MATE_DELAY F.MATE_DELAY_VALID false
  else
    let d := r.foldl (· + ·) 0 / (2 * r.length)
    (s.setFld Reg.MATE_DELAY F.MATE_DELAY_CYC (min d 8191)).setFlag Reg.MATE_DELAY F.MATE_DELAY_VALID (decide (d ≤ 3200))

/-- The fields of a marker without uncorrectable codewords (R227, R228): health, role, epoch, echo and round trip. A unit
locked to candidate 40 takes the active unit's FN when it differs (R209, R47). -/
def markerFields (s : State) (l : Nat) (b : List Byte) : State :=
  let p := beAt b 6 6
  let a : Int := (fnDiff s.fnN (beAt b 22 6) * 200000 + s.ofs : Nat)
  let c : Int := (fnDiff p (beAt b 28 6) * 200000 : Nat) - (beAt b 34 4 : Int)
  let rtt := a - c
  let s := s.updNlane l fun n => { n with rtt := if rtt < 0 then none else some rtt.toNat, rxAt := s.now, echoFn := p,
                                          echoRx := s.fnN, echoOfs := s.ofs }
  let s := mateDelay s
  let s := s.wr Reg.MATE_PEER_HEALTH (beAt b 14 4)
  let s := s.wr Reg.MATE_EPOCH (max (s.rd Reg.MATE_EPOCH) (beAt b 18 4))
  let s := s.updMate fun m => { m with peerAt := some s.elapsed, peerRole := beAt b 13 1 % 8 }
  if s.timSel = 40 && !s.tim.alignDue && s.mate.slew = 0 && s.mate.newFn.isNone && p ≠ s.fnN then
    s.updMate fun m => { m with newFn := some p }
  else s

/-- NIRRIN_MARKER (R228). -/
def nirrinMarker (s : State) (l : Nat) (r : MarkerRx) : State :=
  if !s.mateUp then s
  else
    let a := Reg.MATE_LANE_STAT l
    let s := (s.setFlag a F.MATE_LANE_STAT_LIGHT (decide (Config.mateLight < r.power))).setFld a F.MATE_LANE_STAT_RX_PWR (unsext r.power 12)
    let d := awDiff r.bytes nirrinAW 6
    let n := s.nlane l
    let read := fun (s : State) => if r.uncor then s else markerFields s l r.bytes
    if s.nlock l then
      if r.pos ≠ n.lockPos + nirrinPeriod then s
      else if d ≤ 3 then read (s.updNlane l fun n => { n with lockPos := r.pos, miss := 0 })
      else if 5 ≤ n.miss + 1 then
        mateDelay ((s.setFlag a F.MATE_LANE_STAT_LOCK false).updNlane l fun n => { n with cands := [], miss := 0, rtt := none })
      else s.updNlane l fun n => { n with lockPos := r.pos, miss := n.miss + 1 }
    else
      let x := nirrinSearch n.cands r.pos (beAt r.bytes 6 6) d
      let s := s.updNlane l fun n => { n with cands := x.1, lockPos := r.pos, miss := 0 }
      let s := s.setFld a F.MATE_LANE_STAT_CAND x.1.length
      if x.2 then read (s.setFlag a F.MATE_LANE_STAT_LOCK true) else s

/-- NIRRIN_BLOCK (R227, R230): a mirror block of a locked lane stores its piece; a block with an uncorrectable codeword is
lost whole. -/
def nirrinBlock (s : State) (l : Nat) (b : List Byte) (uncor : Bool) : State :=
  let blk := beAt b 1 2
  let i := 8 * (blk - 2318) + l
  if !s.mateUp || uncor || !s.nlock l || beAt b 0 1 ≠ 2 || beAt b 3 1 % 8 ≠ l || blk < 2318 || 421 ≤ i then s
  else s.updMate fun m => { m with pieces := tabSet (256, []) m.pieces i (beAt b 4 1, slice b 5 1280) }

/-- The whole mirror of frame `fn`, when its 421 pieces are there and its header and CRC agree (R230, R231). -/
def mirrorWhole (ps : List (Nat × (Nat × List Byte))) (fn : Nat) : Option (List Byte) :=
  let got := (List.range 421).map fun i => (tabGet (256, []) ps i : Nat × List Byte)
  if got.all (fun p => p.1 == fn % 256) then
    let b := (got.map (·.2)).flatten
    if beAt b 0 2 = 0x4D31 && beAt b 4 6 = fn && crc32c (b.take 538816) = beAt b 538816 4 then some b else none
  else none

/-! Mirrors (R230 to R235). -/

/-- A cell of 64 bytes from its first bytes. -/
def cell (b : List Byte) : List Byte := slice b 0 64

/-- Bit-map words of selector bits, most significant byte first (R230). -/
def selWords (sel : List (Nat × Bool)) (n : Nat) : List Byte :=
  (List.range n).flatMap fun w => beBytes (ofBits ((List.range 32).map fun b => tabGet false sel (32 * w + b))) 4

/-- The group's duty state in the PROT_G_STAT layout, bits [21:0] (R230, R252). -/
def State.dutyWord (s : State) (d : ProtDef) : Nat :=
  let g := s.grp d.idx
  let v := s.grpStat d g
  v / 4 * 4 % 4194304 + nat01 g.sel + 2 * nat01 g.bridge

/-- WTR frames left of a group. -/
def State.wtrLeft (s : State) (g : Grp) : Nat :=
  match g.wtr with
  | some t => t - s.elapsed
  | none => 0

/-- Cells 0 to 226 of either mirror (R230, R234). -/
def State.mirrorHead (s : State) : List Byte :=
  let head := cell ([0x4D, 0x31, byte s.unitId, 0] ++ beBytes s.fnN 6 ++ beBytes s.mate.held 4 ++ s.digestAt (Reg.GRAFT_RUN_DIGEST 0)
    ++ beBytes (s.rdPair Reg.MATE_EXP_LO) 6 ++ beBytes s.mate.len 2)
  let tim := cell (beBytes (s.rd Reg.TIM_STAT) 4 ++ [byte (s.fld Reg.TIM_STAT F.TIM_STAT_OUT_QL), byte s.stepState]
    ++ beBytes s.stepAt.toNat 6 ++ beBytes s.stepNew.toNat 6 ++ beBytes (unsext s.stepCyc 32) 4 ++ beBytes s.slewMoved 4)
  let ents := (List.range 16).flatMap fun n =>
    cell ([byte (s.rd (Reg.GRAFT_E_STAT n) % 8), byte (bits (s.rd (Reg.GRAFT_E_STAT n)) 3 1)]
      ++ beBytes (s.rd48 (Reg.GRAFT_E_TGT_LO n)) 6 ++ s.digestAt (Reg.GRAFT_E_RDIG n 0))
  head ++ tim ++ ents ++ selWords s.selF 1296 ++ selWords s.lselF 2048

/-- The full mirror (R230). -/
def State.fullMirror (s : State) (m : Image) : List Byte :=
  let rec_ := fun n => match m.prot? n with
    | some d => beBytes (s.dutyWord d) 4 ++ beBytes (s.wtrLeft (s.grp n)) 4
    | none => List.replicate 8 0
  let b := s.mirrorHead ++ (List.range 65536).flatMap rec_
  b ++ cell (beBytes (crc32c b) 4)

/-- The fallback mirror (R234). -/
def State.fallbackMirror (s : State) (m : Image) : List Byte :=
  let rec_ := fun n => match m.prot? n with
    | some d => let g := s.grp d.idx
      byte (nat01 g.sel + 2 * nat01 g.bridge + 4 * g.cmd + 32 * nat01 g.wtr.isSome)
    | none => 0
  let b := s.mirrorHead ++ (List.range 65536).map rec_
  b ++ cell (beBytes (crc32c b) 4)

/-- Mate transmit lane `m` sends light: its source is enabled and has not failed (R53, R54, R334). -/
def State.mateLit (s : State) (m : Nat) : Bool :=
  s.running && s.flag (Reg.PG_ELS_STAT (s.mateFibre m)) F.PG_ELS_STAT_DRIVEN && s.elsSt (s.mateFibre m) != 3

/-- The mate transmit lanes that send light. -/
def State.mateLanes (s : State) : List Nat := (List.range 8).filter s.mateLit

/-- The header of block `b` of a lane (R227): TYPE, block number, lane, FN[7:0]. -/
def State.blockHead (s : State) (ty lane b : Nat) : List Byte := [byte ty] ++ beBytes b 2 ++ [byte lane, byte s.fnN]

/-- The 421 pieces of a full mirror in their blocks, from block 2,318 on, on the lanes that send light (R54, R230). -/
def sendPieces (s : State) (lanes : List Nat) (b : List Byte) : State :=
  ((List.range 421).filter fun i => lanes.contains (i % 8)).foldl (fun s i =>
    s.send (.nirrin (i % 8) (2318 + i / 8) (s.blockHead 2 (i % 8) (2318 + i / 8) ++ slice b (1280 * i) 1280))) s

/-- The idle blocks of the lanes up to block `last`; `from_` gives the first by its lane (R227, R230). -/
def sendIdle (s : State) (lanes : List Nat) (from_ : Nat → Nat) (last : Nat) : State :=
  lanes.foldl (fun s l => s.send (.nirrinIdle l (from_ l) last (s.fnN % 256))) s

/-- MIRROR_SNAPSHOT (R230, R234): at offset 190,000 a unit that is ACTIVE captures its decision state and sends it; every other block from
there on is idle. The 40 FALLBACK frames leave the ARB port one after another, lease frames between them (R236). -/
def mirrorSnapshot (s : State) : State :=
  if 190000 < s.ofs || !s.clk then s
  else
    let s := s.toOfs 190000
    match s.img with
    | some m =>
      if !s.mateUp then s
      else if s.role = roleACTIVE then
        let s := sendIdle (sendPieces s s.mateLanes (s.fullMirror m)) s.mateLanes (fun l => if l < 5 then 2371 else 2370) 2439
        if s.fnN % 16 = 0 && s.running then
          let b := s.fallbackMirror m
          let chunk := fun (k : Nat) => grinusFrame 6 s.unitId 0 (beBytes s.fnN 6 ++ beBytes k 2 ++ (b.drop (2048 * k)).take 2048)
          s.updMate fun x => { x with arbFree := max x.arbFree s.now, fbTx := (List.range 40).map chunk }
        else s
      else sendIdle s s.mateLanes (fun _ => 2318) 2439
    | none => s

/-- The checks of R233 on a mirror: 0 passes, 3 IMAGE, 4 EPOCH. -/
def State.mirrorCheck (s : State) (b : List Byte) : Nat :=
  if slice b 14 32 != s.digestAt (Reg.GRAFT_RUN_DIGEST 0) then 3
  else if beAt b 10 4 < s.rd Reg.MATE_EPOCH then 4 else 0

/-- The step of an applied mirror (R47). -/
def mirrorStep (s : State) (b : List Byte) : State :=
  let o := 64
  let at_ := beAt b (o + 6) 6
  let new := beAt b (o + 12) 6
  let cyc := beAt b (o + 18) 4
  let s := ((s.wr Reg.FT_STEP_AT_LO (at_ % 4294967296)).wr Reg.FT_STEP_AT_HI (at_ / 4294967296))
  let s := ((s.wr Reg.FT_STEP_NEWFN_LO (new % 4294967296)).wr Reg.FT_STEP_NEWFN_HI (new / 4294967296)).wr Reg.FT_STEP_CYC cyc
  { s.setFld Reg.FT_STAT F.FT_STAT_STEP_STATE (beAt b (o + 5) 1 % 4) with
    stepAt := BitVec.ofNat 48 at_, stepNew := BitVec.ofNat 48 new, stepCyc := sext cyc 32, slewMoved := beAt b (o + 22) 4 }

/-- The graft entries of a mirror captured in frame `fn` (R140). -/
def mirrorEntries (b : List Byte) (fn : Nat) : MirrorSeen :=
  { fn := fn, entries := (List.range 16).map fun n =>
      let o := 128 + 64 * n
      (beAt b o 1, beAt b (o + 2) 6, slice b (o + 8) 32) }

/-- A selector bit of a mirror: word map at byte `o`. -/
def mirrorSel (b : List Byte) (o i : Nat) : Bool := bitAt (beAt b (o + 4 * (i / 32)) 4) (i % 32)

/-- One group of an applied full mirror (R231): its duty state, its WTR as far on as the active unit's, and the APS or status it implies. -/
def mirrorGroup (s : State) (b : List Byte) (d : ProtDef) : State :=
  let v := beAt b (14528 + 8 * d.idx) 4
  let left := beAt b (14532 + 8 * d.idx) 4 % 8388608
  let cmd := bits v 8 3
  let s := s.updGrp d.idx fun g =>
    { g with sel := bitAt v 0, bridge := bitAt v 1, req := bits v 2 4, far := bitAt v 6, sig := bitAt v 7, lo := cmd == 1,
             fs := cmd == 2, ms := if cmd = 3 then 1 else if cmd = 4 then 2 else 0,
             wtr := if bitAt v 15 then some (s.elapsed - 1 + left) else none, dnr := bits v 2 4 == 1 && !bitAt v 6 }
  let g := s.grp d.idx
  let tx := g.txBytes d
  let s := if d.ty ≠ 2 && g.tx == tx then s else putTx s d tx
  s.updGrp d.idx fun g => { g with tx := tx }

/-- The SEL and REQ of a group's own evaluation differ from a mirror record (R231). -/
def shadowDiffers (s : State) (b : List Byte) (d : ProtDef) : Bool :=
  let v := beAt b (14528 + 8 * d.idx) 4
  let g := s.grp d.idx
  g.was && (g.sel != bitAt v 0 || g.req != bits v 2 4)

/-- Apply a whole, accepted full mirror (R231). `cmp`: the unit was STANDBY and compares its own evaluations. Changes of the selection in
force count, the registers show the mirrored state (R198, R199), and the checkpoints hold it (R253). -/
def mirrorUse (s : State) (m : Image) (b : List Byte) (cmp : Bool) : State :=
  let s := if cmp && m.prots.any (shadowDiffers s b) then shadowMiss s 1 else s
  let before := m.prots.map fun d => (d, s.selBefore d, s.selNow d)
  let sel := (m.outs.filter fun d => d.kind == 2 || d.kind == 3).foldl
    (fun l d => tabSet false l d.out (mirrorSel b 1152 d.out)) ([] : List (Nat × Bool))
  let lsel := (List.range m.srecCount).foldl (fun l r => tabSet false l r (mirrorSel b 6336 r)) ([] : List (Nat × Bool))
  let s := { s with selW := sel, selF := sel, lselW := lsel, lselF := lsel, leafRd := { s.leafRd with sel := lsel } }
  let s := m.prots.foldl (fun s d => mirrorGroup s b d) s
  let s := switchSettle (before.foldl (fun s x => selRecount s x.1.idx x.2.1 x.2.2 (s.selNow x.1)) s)
  let s := lateStat allStat (m.prots.foldl grpRegs { s with groupsChk := s.groups })
  let r := beAt b 68 1 % 16
  let s := if s.fld Reg.TIM_STAT F.TIM_STAT_OUT_QL = r then s
    else qlReform (squelch ((s.evt Reg.TIM_EVT F.TIM_EVT_QL_CHG).setFld Reg.TIM_STAT F.TIM_STAT_OUT_QL r))
  let s := mirrorStep s b
  s.updMate fun x => { x with seen := some (mirrorEntries b (beAt b 4 6)), mirAt := s.elapsed, hitRun := min 64 (x.hitRun + 1) }

/-- A whole mirror that this unit checks (R233, R140): whether its image is refused, which a STANDBY latches for the first mirror with a new
running digest of the active unit. -/
def mirrorImage (s : State) (b : List Byte) : State :=
  let dig := slice b 14 32
  let bad := s.mirrorCheck b == 3
  let s := if bad && s.role = roleSTANDBY && dig ≠ s.mate.peerDig then s.evt Reg.GRAFT_EVT F.GRAFT_EVT_MATE_MISS else s
  s.updMate fun m => { m with imgBad := bad, peerDig := dig }

/-- The unit applies mirror `b` (R231, R233, R235): a STANDBY every one that passes, a DIVERGED unit one that makes it STANDBY. -/
def State.mirrorTakes (s : State) (b : List Byte) : Bool :=
  !s.holder && s.mirrorCheck b == 0
    && (s.role == roleSTANDBY
      || (s.role == roleDIVERGED && s.flag Reg.MATE_STAT F.MATE_STAT_LINK_UP && s.timSel == 40 && s.timSt == 2))

/-- MIRROR_APPLY (R231, R233): the mirror of the frame before, at offset 0. -/
def mirrorApply (s : State) : State :=
  if !s.mateUp || s.ofs ≠ 0 then s
  else
    match s.mate.mirror, s.img with
    | some b, some m =>
      let take := s.mirrorTakes b
      let s := s.updMate fun x => { x with mirror := none, rank := beAt b 68 1 % 16 }
      if s.holder then mirrorMiss s
      else
        let bad := s.mirrorCheck b
        let s := mirrorImage s b
        let s := if bad = 0 then s.wr Reg.MATE_EPOCH (max (s.rd Reg.MATE_EPOCH) (beAt b 10 4)) else s
        if take then (if s.role = roleSTANDBY then mirrorUse s m b true else mirrorUse (toStandby s) m b false)
        else if s.role = roleSTANDBY then setRole (mirrorMiss s) roleDIVERGED bad
        else if s.role = roleDIVERGED && decide (bad ≠ 0) then s.setFld Reg.MATE_STAT F.MATE_STAT_REASON bad
        else s
    | _, _ =>
      if s.role = roleSTANDBY && decide (s.elapsed < s.mate.mirAt + 17) then (mirrorMiss s).updMate fun m => { m with hitRun := 0 } else s

/-- A whole fallback mirror that a DIVERGED unit has found good (R235): the epoch seen, SELs that differ, the operators' commands, the step and the
graft entries. -/
def fallbackUse (s : State) (m : Image) (b : List Byte) (f : Nat) : State :=
  let s := s.wr Reg.MATE_EPOCH (max (s.rd Reg.MATE_EPOCH) (beAt b 10 4))
  let byte_ := fun (d : ProtDef) => beAt b (14528 + d.idx) 1
  let s := shadowMiss s (m.prots.filter fun d => (s.grp d.idx).sel != bitAt (byte_ d) 0).length
  let s := m.prots.foldl (fun s d =>
    let cmd := bits (byte_ d) 2 3
    s.updGrp d.idx fun g => { g with lo := cmd == 1, fs := cmd == 2, ms := if cmd = 3 then 1 else if cmd = 4 then 2 else 0 }) s
  let s := mirrorStep s b
  s.updMate fun x => { x with seen := some (mirrorEntries b f), fbAt := some s.elapsed }

/-- The fallback mirror of capture `f` is whole: its 40 chunks are there, and its header and CRC agree (R234, R235). -/
def fallbackWhole (cs : List (List Byte)) (chunkFn f : Nat) : Bool :=
  let b := cs.flatten
  chunkFn == f && cs.all (fun c => !c.isEmpty) && crc32c (b.take 80064) == beAt b 80064 4 && beAt b 0 2 == 0x4D31 && beAt b 4 6 == f

/-- FALLBACK_APPLY (R235): at offset 0 of F + 16. Every whole fallback mirror is checked as R233 lays down; a DIVERGED unit applies one that
passes, and counts one that it skips. A STANDBY refuses one as it refuses a full mirror (R140, R226). -/
def fallbackApply (s : State) : State :=
  if !s.mateUp || s.ofs ≠ 0 || s.fnN % 16 ≠ 0 then s
  else
    let f := (s.fnN + 2 ^ 48 - 16) % 2 ^ 48
    let cs := (List.range 40).map fun k => (tabGet [] s.mate.chunks k : List Byte)
    let b := cs.flatten
    let whole := fallbackWhole cs s.mate.chunkFn f
    let s := s.updMate fun m => { m with chunks := [] }
    let skip := fun (s : State) => if s.role = roleDIVERGED then mateCount s 1 1 else s
    match s.img with
    | some m =>
      if !whole then skip s
      else if s.holder then mirrorMiss s
      else
        let bad := s.mirrorCheck b
        let s := mirrorImage s b
        if s.role = roleSTANDBY then (if bad = 0 then s else setRole s roleDIVERGED bad)
        else if s.role = roleDIVERGED then (if bad = 0 then fallbackUse s m b f else mateCount (s.setFld Reg.MATE_STAT F.MATE_STAT_REASON bad) 1 1)
        else s
    | none => skip s

/-- MIRROR_LOSS (R226): 16 frames without an applied full mirror. -/
def mirrorLoss (s : State) : State :=
  if s.role = roleSTANDBY && s.mate.mirAt + 17 ≤ s.elapsed then setRole s roleDIVERGED 2 else s

/-- LINK_DOWN (R229). -/
def linkDown (s : State) : State :=
  if s.flag Reg.MATE_STAT F.MATE_STAT_LINK_UP && 16 ≤ s.mate.badRun then
    ((s.setFlag Reg.MATE_STAT F.MATE_STAT_LINK_UP false).evt Reg.MATE_EVT F.MATE_EVT_LINK_DOWN).updMate fun m => { m with goodRun := 0 }
  else s

/-- LINK_UP (R229). -/
def linkUp (s : State) : State :=
  if !s.flag Reg.MATE_STAT F.MATE_STAT_LINK_UP && 64 ≤ s.mate.goodRun then
    ((s.setFlag Reg.MATE_STAT F.MATE_STAT_LINK_UP true).evt Reg.MATE_EVT F.MATE_EVT_LINK_UP).updMate fun m => { m with badRun := 0 }
  else s

/-! The frame boundary (R226, R229, R237, R241). -/

/-- The health word (R241). -/
def State.health (s : State) : Nat :=
  let old := fun (t : Option Nat) => match t with
    | some e => decide (e + 8000 ≤ s.elapsed)
    | none => true
  let sb := s.role == roleSTANDBY
  let patrol := old s.mate.uncorAt
  let lock := !sb || old s.mate.lockstepAt
  let loop := !sb || (s.mate.loopBad.filter fun g => s.domOn g).isEmpty
  let tim := s.timSt != 0
  let img := !s.mate.imgBad && !s.flag Reg.GRAFT_EVT F.GRAFT_EVT_MATE_MISS
  let self := patrol && lock && loop && tim && img && s.released
  let mir := if sb then decide (64 ≤ s.mate.hitRun) else s.role == roleACTIVE
  ofBits [self, patrol, lock, loop, tim, img, mir, !sb || old s.mate.shadowAt, s.released] + 512 * s.role + 4096 * s.nlocked

/-- Roles that change at this offset 0 (R226, R237): a RELEASE, a LEASE_EXPIRED, which ends the lease here, a GRANT. -/
def mateRoles (s : State) : State :=
  let m := s.mate
  let s := s.updMate fun m => { m with toActive := false, toHold := false, toDiv := false }
  if m.toDiv && s.role = roleACTIVE then
    let s := arbSend s (grinusFrame 4 s.unitId m.seq (beBytes m.held 4))
    (toDiverged s 6).updMate fun x => { x with relEpoch := some m.held, seq := (x.seq + 1) % 65536 }
  else if m.toHold && s.role = roleACTIVE then
    (((toHolding s).updMate fun x => { x with lease := some s.elapsed }).wr Reg.MATE_EXP_LO (s.fnN % 4294967296)).wr
      Reg.MATE_EXP_HI (s.fnN / 4294967296)
  else if m.toActive && (match m.lease with
      | some t => decide (s.elapsed < t)
      | none => false) then setRole s roleACTIVE 0
  else s

/-- The lock onto the active unit (R209), when the unit first selects candidate 40 and the delay is known. Before release the frame in
progress is cut at the active unit's next offset 0, where FN takes its value; after it, a relabel now and a slew toward the nearer of the
active unit's boundaries. -/
def mateAlign (s : State) : State :=
  if !s.tim.alignDue || s.timSel ≠ 40 || !s.flag Reg.MATE_DELAY F.MATE_DELAY_VALID then s
  else
    match (List.range 8).find? s.nlock with
    | some l =>
      let n := s.nlane l
      let start : Int := (n.rxAt : Int) - (s.fld Reg.MATE_DELAY F.MATE_DELAY_CYC : Int)
      let phi := (start % 200000).toNat
      let frames := (((s.now : Int) - start) / 200000).toNat
      let s := { s with tim := { s.tim with alignDue := false } }
      if s.released then
        let delta : Int := if 100000 ≤ phi then (phi : Int) - 200000 else phi
        s.updMate fun m => { m with newFn := some (fnPlus n.echoFn (frames + nat01 (decide (0 < delta)))), slew := delta }
      else s.updMate fun m => { m with newFn := some (fnPlus n.echoFn frames), cut := if phi = 0 then none else some phi }
    | none => s

/-- The marker sent on lane `l` in block 0 of a frame (R227): data bytes 0 to 37. -/
def State.markerBytes (s : State) (l : Nat) : List Byte :=
  let n := s.nlane l
  beBytes nirrinAW 6 ++ beBytes s.fnN 6 ++ [byte (l + 8 * s.unitId), byte s.role] ++ beBytes s.health 4 ++ beBytes (s.rd Reg.MATE_EPOCH) 4
    ++ beBytes n.echoFn 6 ++ beBytes n.echoRx 6 ++ beBytes n.echoOfs 4

/-- Block 0 of the frame that begins, on every lane of a paired unit that sends light, and the idle blocks up to offset 190,000 (R54, R227,
R230). -/
def sendMarkers (s : State) : State :=
  if s.mateUp then sendIdle (s.mateLanes.foldl (fun s l => s.send (.marker l (s.markerBytes l))) s) s.mateLanes (fun _ => 1) 2317 else s

/-- The messages of this offset 0 with FN as it now stands: the last `k` markers and idle runs are formed anew (R42, R227). -/
def reform (s : State) : Nat → List Sent → List Sent
  | 0, l => l
  | _, [] => []
  | k + 1, .marker l _ :: r => .marker l (s.markerBytes l) :: reform s k r
  | k + 1, .nirrinIdle l a b _ :: r => .nirrinIdle l a b (s.fnN % 256) :: reform s k r
  | k + 1, x :: r => x :: reform s (k + 1) r

/-- A relabel changes FN at offset 0, which the markers of the frame carry (R42, R227). -/
def remark (s : State) : State := if s.mateUp then { s with sent := (reform s (2 * s.mateLanes.length) s.sent.reverse).reverse } else s

/-- The mate unit at a frame boundary; `unc` says that the frame that ended found an uncorrectable memory error. -/
def mateFrame (s : State) (unc : Bool) : State :=
  let s := if unc then s.updMate fun m => { m with uncorAt := some s.elapsed } else s
  let s :=
    if s.mateUp then
      let s := mateRoles (arbDrain s.now s.mate.fbTx s)
      let mir := mirrorWhole s.mate.pieces s.prevFn
      let good := s.nlocked == 8 && (s.role != roleSTANDBY || mir.isSome)
      let s := s.updMate fun m =>
        { m with mirror := mir, pieces := [], badRun := if good then 0 else min 16 (m.badRun + 1),
                 goodRun := if good then min 64 (m.goodRun + 1) else 0 }
      let s := mateAlign s
      let s := s.setFlag Reg.MATE_STAT F.MATE_STAT_LEASE (match s.mate.lease with
        | some t => decide (s.elapsed < t)
        | none => false)
      let s := s.setFlag Reg.MATE_STAT F.MATE_STAT_FB_VALID (match s.mate.fbAt with
        | some t => decide (s.elapsed < t + 32)
        | none => false)
      let s := s.setFld Reg.MATE_STAT F.MATE_STAT_LANES s.nlocked
      roleSync s
    else s.setFlag Reg.MATE_STAT F.MATE_STAT_ROLE_ACT s.released
  sendMarkers (s.wr Reg.MATE_HEALTH s.health)

/-! Self-test (R242) and sync. -/

/-- A standby with SELFTEST runs the tests of R242. -/
def State.selfTests (s : State) : Bool := s.mateUp && s.role == roleSTANDBY && s.flag Reg.MATE_CTRL F.MATE_CTRL_SELFTEST

/-- The group whose loopback test is next: the powered groups in turn, but those with MODE = 2 (R242). -/
def State.loopNext (s : State) : Option Nat :=
  ((List.range 64).map fun k => (s.mate.loopLast + 1 + k) % 64).find? fun g => s.fuses.group g && s.domOn g && s.spareMode g != 2

/-- The loop of a test ends. -/
def loopEnd (s : State) (g : Nat) : State :=
  (s.setFlag (Reg.PG_LANE_CTRL g 16) F.PG_LANE_CTRL_LOOP false).updMate fun m => { m with loopOn := none }

/-- LOOPBACK_TEST (R242): every 8,000 frames a standby with SELFTEST loops the spare lane of the next group, and 800 frames later the loop
ends with the PRBS31 check's outcome; a test whose unit no longer tests ends with none. -/
def loopbackTest (s : State) (g : Nat) (start errored : Bool) : State :=
  let after_ := fun (n : Nat) => match s.mate.loopAt with
    | some t => decide (t + n ≤ s.elapsed)
    | none => true
  if start then
    if s.selfTests && s.mate.loopOn.isNone && s.loopNext = some g && after_ 8000 then
      (s.setFlag (Reg.PG_LANE_CTRL g 16) F.PG_LANE_CTRL_LOOP true).updMate fun m =>
        { m with loopOn := some g, loopAt := some s.elapsed, loopLast := g }
    else s
  else if s.mate.loopOn ≠ some g then s
  else if !s.selfTests then loopEnd s g
  else if !after_ 800 then s
  else
    let s := (loopEnd s g).updMate fun m =>
      { m with loopBad := if errored then (if m.loopBad.contains g then m.loopBad else m.loopBad ++ [g]) else m.loopBad.filter (· != g) }
    if errored then s.evt Reg.MATE_EVT F.MATE_EVT_LOOPBACK_ERR else s

/-- PEER_HEALTH_TIMEOUT (R226, R209). -/
def peerTimeout (s : State) : State :=
  match s.mate.peerAt with
  | some t =>
    if t + 16 < s.elapsed then
      let s := s.updMate fun m => { m with peerAt := none }
      if s.role = roleACTIVE then s.setFlag Reg.MATE_STAT F.MATE_STAT_ROLE_SYNC false else s
    else s
  | none => s

/-- NIRRIN_MARKER (R228). -/
def execNirrinMarker (lane : Nat) (rx : MarkerRx) (s : State) : Host.Outcome State Fault Refusal := checked (.nirrinMarker lane rx) s (nirrinMarker s lane rx)
/-- NIRRIN_BLOCK (R227). -/
def execNirrinBlock (lane : Nat) (bytes : List Byte) (uncor : Bool) (s : State) : Host.Outcome State Fault Refusal :=
  checked (.nirrinBlock lane bytes uncor) s (nirrinBlock s lane bytes uncor)
/-- MIRROR_SNAPSHOT (R230). -/
def execMirrorSnapshot (s : State) : Host.Outcome State Fault Refusal := checked .mirrorSnapshot s (mirrorSnapshot s)
/-- FALLBACK_APPLY (R235). -/
def execFallbackApply (s : State) : Host.Outcome State Fault Refusal := checked .fallbackApply s (fallbackApply s)
/-- MIRROR_LOSS (R226). -/
def execMirrorLoss (s : State) : Host.Outcome State Fault Refusal := checked .mirrorLoss s (mirrorLoss s)
/-- LINK_DOWN (R229). -/
def execLinkDown (s : State) : Host.Outcome State Fault Refusal := checked .linkDown s (linkDown s)
/-- LINK_UP (R229). -/
def execLinkUp (s : State) : Host.Outcome State Fault Refusal := checked .linkUp s (linkUp s)
/-- REQUEST (R237). -/
def execRequest (s : State) : Host.Outcome State Fault Refusal := checked .request s (mateRequest s)
/-- GRANT (R237). -/
def execGrant (bytes : List Byte) (s : State) : Host.Outcome State Fault Refusal := checked (.grant bytes) s (grinusRx s bytes 2 mateGrant)
/-- DENY (R237). -/
def execDeny (bytes : List Byte) (s : State) : Host.Outcome State Fault Refusal := checked (.deny bytes) s (grinusRx s bytes 3 mateDeny)
/-- RELEASE_ACK (R236). -/
def execReleaseAck (bytes : List Byte) (s : State) : Host.Outcome State Fault Refusal := checked (.releaseAck bytes) s (grinusRx s bytes 5 mateRelAck)
/-- FALLBACK (R236). -/
def execFallback (bytes : List Byte) (s : State) : Host.Outcome State Fault Refusal := checked (.fallback bytes) s (grinusRx s bytes 6 mateChunk)
/-- GRINUS_FRAME_ERROR (R236). -/
def execGrinusFrameError (s : State) : Host.Outcome State Fault Refusal := checked .grinusFrameError s (if s.mateUp then grinusBad s else s)
/-- REPLY_TIMEOUT (R237). -/
def execReplyTimeout (s : State) : Host.Outcome State Fault Refusal := checked .replyTimeout s (replyTimeout s)
/-- LEASE_EXPIRY (R237). -/
def execLeaseExpiry (s : State) : Host.Outcome State Fault Refusal := checked .leaseExpiry s (leaseExpiry s)
/-- HOLD_EXPIRY (R226). -/
def execHoldExpiry (s : State) : Host.Outcome State Fault Refusal := checked .holdExpiry s (holdExpiry s)
/-- RELEASE (R243). -/
def execRelease (s : State) : Host.Outcome State Fault Refusal := checked .release s (s.host Reg.MATE_CMD mateRelease)
/-- MATE_CMD_ACK (R244). -/
def execMateCmdAck (seq : Nat) (s : State) : Host.Outcome State Fault Refusal :=
  checked (.mateCmdAck seq) s (s.host Reg.MATE_CMD_ACK (·.ackRes Reg.MATE_CMD_RES seq))
/-- LOOPBACK_TEST (R242). -/
def execLoopbackTest (g : Nat) (start errored : Bool) (s : State) : Host.Outcome State Fault Refusal :=
  checked (.loopbackTest g start errored) s (loopbackTest s g start errored)
/-- ARB_SYNC (R236). -/
def execArbSync (gained : Bool) (s : State) : Host.Outcome State Fault Refusal :=
  checked (.arbSync gained) s (if s.mateUp then s.setFlag Reg.MATE_STAT F.MATE_STAT_ARB_SYNC gained else s)
/-- PEER_HEALTH_TIMEOUT (R226). -/
def execPeerHealthTimeout (s : State) : Host.Outcome State Fault Refusal := checked .peerHealthTimeout s (peerTimeout s)

end Sys2Proof.Machine
end

