-- ==== Sys2Proof/Machine/Engine.lean ====
section
/-! DEFINITION. Canopy engines: issue, hazards and contract checks (R246 to R252, R258 to R262), commit, failures and spare
takeover (R253 to R257), the lockstep test (R242), the state bus (R26), and the counters (R262 to R267). -/

namespace Sys2Proof.Machine

/-- Engine `e` beside its registers. -/
def State.eng (s : State) (e : Nat) : Eng := tabGet {} s.engs e

/-- Change engine `e`. -/
def State.updEng (s : State) (e : Nat) (f : Eng → Eng) : State := { s with engs := tabUpd {} s.engs e f }

/-- Action words of engine `e`'s program in the running image. -/
def State.progLen (s : State) (e : Nat) : Nat :=
  match s.img.bind (·.find secPROG e) with
  | some x => x.count
  | none => 0

/-- An entry of a section of engine `e`, 0 where there is none; its length says whether there is one. -/
def State.engEntry (s : State) (ty e i : Nat) : Option Nat := (s.img.bind (·.entry? ty e i)).map leNat

/-- The working engine whose program the physical engine `p` issues, and whether it only compares (lockstep, R242). -/
def State.acting (s : State) (p : Nat) : Option (Nat × Bool) :=
  let st := s.engSt p
  if p < 64 then (if st = 1 then some (p, false) else none)
  else if st = 1 && s.flag (Reg.ENG_STAT p) F.ENG_STAT_ACTING then some (s.fld (Reg.ENG_STAT p) F.ENG_STAT_ACTS_FOR, false)
  else if st = 3 then some ((s.eng p).test, true)
  else none

/-! Counters of an engine (R258, R262, R268): 0 RETIRED, 1 WASTED, 2 FRONT_STARVED, 3 BACK_STARVED, 4 LATE, 5 OWN, 6 BUDGET,
7 ECC_COR. -/

/-- Add `n` to counter `i` of engine `p` and to the PMON counters that select it. -/
def engCount (s : State) (p i n : Nat) : State :=
  if n = 0 then s
  else (s.incPair (Reg.ENG_RETIRED_LO p + 8 * i) (Reg.ENG_WRAP p) i n).count (if i = 7 then 0x18 else 0x10 + i) p n

/-- One slot of engine `p` is counted in counter `i` (R262). -/
def engSlot (s : State) (p i : Nat) : State := (engCount s p i 1).updEng p fun e => { e with acts := e.acts + 1 }

/-- The slots of the frame up to `n` that no action was counted for are empty ones (R262). -/
def engFill (s : State) (p n : Nat) : State :=
  (engCount s p 1 (n - (s.eng p).acts)).updEng p fun e => { e with acts := max n e.acts }

/-! Registers and predicates (R246, R248, R259). -/

/-- What a register held at the start of engine cycle `c`. -/
def EReg.at_ (r : EReg) (c : Nat) : EVal := if r.wrAt = some c then r.was else r.now

/-- A write in engine cycle `c`; a register that a drop has poisoned stays so for the rest of the frame, whatever is written (R259). -/
def EReg.put (r : EReg) (c : Nat) (x : EVal) : EReg :=
  { now := { x with poison := x.poison || r.now.poison }, wrAt := some c, was := r.at_ c }

/-- Value register `i` of engine `p` as actions of cycle `c` read it. -/
def State.vAt (s : State) (p i c : Nat) : EVal := (tabGet ({} : EReg) (s.eng p).v i).at_ c

/-- Predicate `i`; P0 reads 1 always (R246). -/
def State.pAt (s : State) (p i c : Nat) : EVal :=
  if i = 0 then { val := 1 } else (tabGet ({} : EReg) (s.eng p).p i).at_ c

/-- Write value register `i`. -/
def setV (s : State) (p i c : Nat) (x : EVal) : State :=
  s.updEng p fun e => { e with v := tabUpd {} e.v i fun r => r.put c x }

/-- Write predicate `i`; P0 cannot be written (R246). -/
def setP (s : State) (p i c : Nat) (x : EVal) : State :=
  if i = 0 then s else s.updEng p fun e => { e with p := tabUpd {} e.p i fun r => r.put c x }

/-- The value may be used in cycle `c` (R248, R259). -/
def EVal.usable (x : EVal) (c : Nat) : Bool := decide (x.ready ≤ c) && !x.poison

/-! The contract checks (R258). -/

/-- What an action uses (R248): registers and predicates it reads beside its guard, the one it writes, state-memory ports,
GET, PUT, POST units, and the table entry of a GET, PUT or POST. `bad`: a reserved condition. -/
structure Use where
  rv : List Nat := []
  rp : List Nat := []
  wv : Option Nat := none
  wp : Option Nat := none
  rd : Nat := 0
  wr : Nat := 0
  get : Option Nat := none
  put : Option Nat := none
  post : Option (Nat × Nat) := none
  bad : Bool := false
  deriving DecidableEq, Repr

/-- The first engine cycle in which word `k` of a program may issue (R247). -/
def fetchCycle (k : Nat) : Nat := if k ≤ 63 then 0 else (k - 63) / 2

/-- KIND of a table entry (R252). -/
def entKind (w : Nat) : Nat := bits w 60 4
/-- INDEX of a table entry. -/
def entIndex (w : Nat) : Nat := bits w 32 28
/-- HANDLE of a table entry. -/
def entObj (w : Nat) : Nat := bits w 0 32

/-- The quadrant a destination of a PUT lies in, 4 for the leaf stage on the hub die, which is always across the bus
(R193); none for the engine's own supervisor (R26, R252). -/
def putQuad (kind index : Nat) : Option Nat :=
  if kind = 1 || kind = 2 then some (slotQuad index)
  else if kind = 4 then some (slotQuad (index / 8))
  else if kind = 3 || kind = 5 then some 4
  else none

/-- The reservation entry `i` of engine `e`: 0 post units, 1 + q bus words toward quadrant q (R261, R274). -/
def State.engRsv (s : State) (e i : Nat) : Nat := (s.engEntry secRSV e i).getD 0

/-- A PUT of engine `p` to another quadrant: that quadrant (R26, R261). -/
def busTo (p w : Nat) : Option Nat :=
  match putQuad (entKind w) (entIndex w) with
  | some q => if q = engQuad p then none else some q
  | none => none

/-- The reason an action of physical engine `p`, program of `e`, is dropped in cycle `c`, after its guard held. -/
def State.dropReason (s : State) (p e c slot : Nat) (u : Use) : Option Nat :=
  let x := s.eng p
  let entry := fun (t : Nat) (i : Option Nat) => i.bind fun i => s.engEntry t e i
  let dst := entry secDST (u.put.orElse fun _ => u.post.map (·.2))
  if !(u.rv.all fun i => (s.vAt p i c).usable c) || !(u.rp.all fun i => (s.pAt p i c).usable c) then some 1
  else if 2 < x.ports.rd + u.rd || 1 < x.ports.wr + u.wr || (u.get.isSome && x.ports.get ≠ 0) || (u.put.isSome && x.ports.put ≠ 0)
      || (u.post.isSome && decide (c < x.postFree)) then some 2
  else if (match u.post with
      | some (n, _) => decide (s.engRsv e 0 < x.postUsed + n)
      | none => false) || (match u.put, dst with
      | some _, some w => (match busTo p w with
        | some q => decide (q < 4) && decide (s.engRsv e (1 + q) < tabGet 0 x.busUsed q + 1)
        | none => false)
      | _, _ => false) then some 3
  else if Config.tailSlot ≤ slot then some 4
  else if (match u.put, dst with
      | some _, some w => s.owner (entObj w) != some e
      | _, _ => false) then some 5
  else if u.bad || (match u.get with
      | some i => (match s.engEntry secSRC e i with
        | some w => entKind w = 0 || 7 < entKind w
        | none => true)
      | none => false) || (u.put.isSome && (match dst with
      | some w => entKind w = 0 || 5 < entKind w && entKind w ≠ 7
      | none => true)) || (u.post.isSome && (match dst with
      | some w => entKind w ≠ 6 && entKind w ≠ 8
      | none => true)) then some 6
  else none

/-- The handle the duty map of engine `e` charges a slot to (R260). -/
def State.charged (s : State) (e slot : Nat) : Nat :=
  let l : List (List Byte) := match s.img with
    | some m => m.rows secDUTY e
    | none => []
  let best := l.foldl (fun (b : Option (Nat × Nat)) x =>
    let f := leAt x 0 4 % 524288
    if slot < f then b
    else match b with
      | some y => if y.1 ≤ f then some (f, leAt x 4 4) else b
      | none => some (f, leAt x 4 4)) none
  match best with
  | some y => y.2
  | none => 0

/-- ACTION_DROP (R258, R259, R260): counted, recorded, its destination poisoned, and charged to its duty. A lockstep drop
touches no duty (R242). -/
def actionDrop (s : State) (p e : Nat) (lock : Bool) (slot op reason : Nat) (u : Use) : State :=
  let c := slot / 4
  let h := s.charged e slot
  let s := engSlot s p (if reason = 0 then 2 else 3)
  let s := if s.flag (Reg.ENG_EVT p) F.ENG_EVT_LATE then s
    else (s.wr (Reg.ENG_LATE_LOC p) (slot + 524288 * op + 33554432 * reason)).wr (Reg.ENG_LATE_OBJ p) h
  let s := engCount (s.evt (Reg.ENG_EVT p) F.ENG_EVT_LATE) p 4 1
  let s := if reason = 5 then engCount (s.evt (Reg.ENG_EVT p) F.ENG_EVT_OWN) p 5 1 else s
  let s := if reason = 3 then engCount (s.evt (Reg.ENG_EVT p) F.ENG_EVT_BUDGET) p 6 1 else s
  let s := match u.wv with
    | some i => setV s p i c { s.vAt p i c with poison := true, ready := 0 }
    | none => s
  let s := match u.wp with
    | some i => setP s p i c { s.pAt p i c with poison := true, ready := 0 }
    | none => s
  if hKind h = 4 && !lock then
    let s := protLate s (hIdx h)
    match s.prot (hIdx h) with
    | some d => if (s.grp (hIdx h)).evald then protUndo s (hIdx h) d else s.updGrp (hIdx h) fun g => { g with dropped := true }
    | none => s
  else s

/-- The ports an action uses (R248, R261); a lockstep spare sends nothing (R242). -/
def usePorts (s : State) (p e c : Nat) (u : Use) : State :=
  let dst := (u.put.bind fun i => s.engEntry secDST e i)
  let s := s.updEng p fun x =>
    { x with ports := { x.ports with rd := x.ports.rd + u.rd, wr := x.ports.wr + u.wr, get := x.ports.get + nat01 u.get.isSome,
                                     put := x.ports.put + nat01 u.put.isSome } }
  let s := match u.post with
    | some (n, _) => (s.updEng p fun x => { x with postFree := c + n, postUsed := x.postUsed + n }).count 0x22 (engQuad p)
        (if s.engSt p = 3 then 0 else n)
    | none => s
  match dst.bind (busTo p) with
  | some q => (s.updEng p fun x => { x with busUsed := tabSet 0 x.busUsed q (tabGet 0 x.busUsed q + 1) }).count 0x20 (engQuad p)
      (if s.engSt p = 3 then 0 else 1)
  | none => s

/-- The ports are free again in a new engine cycle (R248). -/
def portCycle (s : State) (p c : Nat) : State :=
  if (s.eng p).ports.cycle = c then s else s.updEng p fun x => { x with ports := { cycle := c } }

/-! Failure (R254, R256). -/

/-- Spare 64 + q can take a working engine over: present, IDLE or in lockstep, and not promised in this frame. -/
def State.spareFree (s : State) (q : Nat) : Bool :=
  s.fuses.eng (64 + q) && (s.engSt (64 + q) == 0 || s.engSt (64 + q) == 3)
    && (List.range 16).all fun k => !(s.eng (16 * q + k)).due

/-- An uncovered failure in quadrant `q` (R256). -/
def noSpare (s : State) (q : Nat) : State :=
  (s.putBit Reg.ENG_C_STAT (4 + q) true).evt Reg.ENG_C_EVT F.ENG_C_EVT_NO_SPARE

/-- State writes, posts, evaluations and failures of engine `e` in this frame are discarded (R254): the checkpoint stands. PUTs
already performed stand. -/
def engDiscard (s : State) (e : Nat) : State :=
  let mine := s.failBack.filter fun x => x.1 == e
  let s := { s with fails := mine.foldr (fun (x : Nat × Nat × Fail) l => tabSet {} l x.2.1 x.2.2) s.fails,
                    failBack := s.failBack.filter fun x => x.1 != e }
  let s := s.updEng e fun x => { x with smem := x.chk, dirty := [] }
  let own : List ProtDef := match s.img with
    | some m => m.prots.filter fun d => s.owner (handle 4 d.idx) == some e
    | none => []
  let s := own.foldl (fun s d =>
    let o : Grp := tabGet {} s.groupsChk d.idx
    s.updGrp d.idx fun g => { o with newCmd := g.newCmd, cmdIn := g.cmdIn, tx := g.tx, evald := false, was := g.was }) s
  { s with held := s.held.filter fun x => x.eng != e }

/-- Leave LOCKSTEP, or a failed spare's ACTING, and show the new state (R268). -/
def setEngSt (s : State) (p st cause : Nat) : State :=
  (s.setFld (Reg.ENG_STAT p) F.ENG_STAT_STATE st).setFld (Reg.ENG_STAT p) F.ENG_STAT_CAUSE cause

/-- ENGINE_FAIL (R254, R256): physical engine `p` fails with a cause 1 to 4, after slot `n` − 1 was counted; an absent one is no engine (R8). -/
def engFail (s : State) (p cause n : Nat) : State :=
  if s.engSt p = 2 || !s.fuses.eng p then s
  else
    let q := engQuad p
    let act := s.acting p
    let s := if (s.eng p).live then engFill s p n else s
    let s := (setEngSt s p 2 cause).evt (Reg.ENG_EVT p) F.ENG_EVT_FAIL
    let s := s.updEng p fun x => { x with live := false }
    if p < 64 then
      let free := s.spareFree q || ((s.eng p).due && s.engSt (64 + q) != 2)
      let s := (engDiscard s p).wr (Reg.ENG_DIRTY p) 0
      if free then s.updEng p fun x => { x with due := true } else noSpare s q
    else
      match act with
      | some (e, false) =>
        noSpare (engDiscard ((s.setFlag (Reg.ENG_STAT p) F.ENG_STAT_ACTING false).putBit Reg.ENG_C_STAT q false) e) q
      | _ => s

/-! The issue of an action (R247, R248, R258). -/

/-- The opcode an action's word holds, and what it uses: a reserved one uses nothing (R258). -/
def actOp (a : Act) (op : Nat) : Nat := if a.raw = 0 then op else a.raw
def actUse (a : Act) (u : Use) : Use := if a.raw = 0 then u else { bad := true }

/-- A word of engine `p`'s state or program memory was corrected (R268). -/
def eccCor (s : State) (p : Nat) : State := engCount (s.evt (Reg.ENG_EVT p) F.ENG_EVT_ECC_COR) p 7 1

/-- One action at its issue slot (R247, R248, R258): time moves to the slot, the checks are made, and what passes them is
performed. `fx` gets the state, the physical engine, the engine whose program it is, whether it only compares, and the
engine cycle. An engine that runs no program issues nothing; one that meets an error of cause 1 or 3 fails there (R254). -/
def engAct (s : State) (a : Act) (op : Nat) (u : Use) (fx : State → Nat → Nat → Bool → Nat → State) : State :=
  match s.acting a.eng with
  | none => s
  | some (e, lock) =>
    let p := a.eng
    let c := a.slot / 4
    let s := portCycle (s.toOfs (2 * c)) p c
    let op := actOp a op
    let u := actUse a u
    if c < fetchCycle a.k then actionDrop s p e lock a.slot op 0 u
    else if 2 ≤ a.mem then engFail s p (if a.mem = 2 then 1 else 3) a.slot
    else
      let s := if a.mem = 1 then eccCor s p else s
      let g := s.pAt p a.pred c
      if !g.usable c then actionDrop s p e lock a.slot op 1 u
      else if (g.val != 0) == a.pneg then engSlot s p 1
      else
        match s.dropReason p e c a.slot u with
        | some r => actionDrop s p e lock a.slot op r u
        | none => fx (usePorts (engSlot s p (if op = 0 then 1 else 0)) p e c u) p e lock c

/-! The opcodes (R251). -/

/-- An action that writes VX one cycle later from value registers it reads. -/
def alu (s : State) (a : Act) (op x : Nat) (src : List Nat) (f : (Nat → Dword) → Dword) : State :=
  engAct s a op { rv := src, wv := some x } fun s p _ _ c => setV s p x c { val := f fun i => (s.vAt p i c).val, ready := c + 1 }

/-- An action that writes a predicate one cycle later. -/
def pact (s : State) (a : Act) (op pr : Nat) (src psrc : List Nat) (bad : Bool) (f : (Nat → Dword) → (Nat → Bool) → Bool) : State :=
  engAct s a op { rv := src, rp := psrc, wp := some pr, bad := bad } fun s p _ _ c =>
    setP s p pr c { val := BitVec.ofNat 64 (nat01 (f (fun i => (s.vAt p i c).val) fun i => (s.pAt p i c).val != 0)), ready := c + 1 }

/-- Condition codes of CMP and CMPI (R251). -/
def condHolds (cond : Nat) (y z : Dword) : Bool :=
  match cond with
  | 0 => y == z
  | 1 => y != z
  | 2 => y.ult z
  | 3 => !y.ult z
  | 4 => y.slt z
  | 5 => !y.slt z
  | _ => false

/-- MINU, MAXU (R251). -/
def minuV (y z : Dword) : Dword := if z.ult y then z else y
def maxuV (y z : Dword) : Dword := if y.ult z then z else y

/-- SATADD32 (R251). -/
def satadd32V (y z : Dword) : Dword := BitVec.ofNat 64 (min (y.toNat % 4294967296 + z.toNat % 4294967296) 4294967295)

/-- EXT (R251). -/
def extV (y : Dword) (lsb wm1 : Nat) : Dword := BitVec.ofNat 64 (bits y.toNat lsb (wm1 + 1))

/-- INS (R251). -/
def insV (x y : Dword) (lsb wm1 : Nat) : Dword :=
  BitVec.ofNat 64 (x.toNat - bits x.toNat lsb (wm1 + 1) * 2 ^ lsb + bits y.toNat 0 (wm1 + 1) * 2 ^ lsb)

/-- CNTUP (R251): the low half counts up and saturates, the high half is kept. -/
def cntupV (w : Dword) : Dword :=
  BitVec.ofNat 64 (w.toNat / 4294967296 * 4294967296 + min (w.toNat % 4294967296 + 1) 4294967295)

/-- CNTDN (R251). -/
def cntdnV (w : Dword) : Dword := if w = 0 then 0 else w - 1

/-- What an unlisted word of state memory reads as. -/
def smemDefault : Nat → Dword := fun _ => 0

/-- State word `i` of engine `e` as reads of engine cycle `c` find it (R248): a write of the same cycle is not yet seen. `p`:
the physical engine that writes it. -/
def State.smemAt (s : State) (p e i c : Nat) : Dword :=
  let w := fun (o : Eng) => if o.ports.cycle = c then
      (match o.ports.wrote with
       | some y => if y.1 = i then some y.2 else none
       | none => none) else none
  ((w (s.eng p)).orElse fun _ => w (s.eng e)).getD (Tab.get smemDefault (s.eng e).smem i)

/-- Write state word `i` of engine `e`; a lockstep spare's write is never performed (R242). -/
def setSmem (s : State) (p e i : Nat) (lock : Bool) (x : Dword) : State :=
  if lock then s
  else
    let old := Tab.get smemDefault (s.eng e).smem i
    let s := s.updEng e fun o =>
      { o with smem := Tab.set smemDefault o.smem i x, dirty := if o.dirty.contains i then o.dirty else o.dirty ++ [i] }
    s.updEng p fun o => { o with ports := { o.ports with wrote := some (i, old) } }

/-! Takeover (R255, R257). -/

/-- SPARE_TAKEOVER (R255, R257): at offset 0 the spare of quadrant `q` begins to act for the engine that failed, or whose
takeover was ordered, in the frame before. A spare that has failed since takes nothing over (R256). -/
def spareTakeover (s : State) (q : Nat) : State :=
  match ((List.range 16).map (16 * q + ·)).find? fun e => (s.eng e).due with
  | some e =>
    if s.ofs ≠ 0 || q ≥ 4 then s
    else if s.engSt (64 + q) = 2 then
      let s := s.updEng e fun x => { x with due := false }
      if s.engSt e = 2 then noSpare s q else s
    else
      let p := 64 + q
      let s := if s.engSt e = 2 then s else (setEngSt s e 2 5).evt (Reg.ENG_EVT e) F.ENG_EVT_FAIL
      let s := s.updEng e fun x => { x with due := false, live := false }
      let s := ((setEngSt s p 1 0).setFlag (Reg.ENG_STAT p) F.ENG_STAT_ACTING true).setFld (Reg.ENG_STAT p) F.ENG_STAT_ACTS_FOR e
      let s := s.setFlag (Reg.ENG_STAT p) F.ENG_STAT_BANK (s.flag (Reg.ENG_STAT e) F.ENG_STAT_BANK)
      let s := s.updEng p fun x => { x with live := true, testAt := none, v := [], p := [], ports := {}, acts := 0 }
      let s := (s.evt (Reg.ENG_EVT e) F.ENG_EVT_TAKEOVER).evt (Reg.ENG_EVT p) F.ENG_EVT_TAKEOVER
      ((s.putBit Reg.ENG_C_STAT q true).evt Reg.ENG_C_EVT F.ENG_C_EVT_TAKEOVER).count 0x23 q 1
  | none => s

/-- TAKEOVER (R257): the order of refusals, then the takeover at the next boundary. -/
def takeover (s : State) (e : Nat) : State :=
  if s.valid Reg.ENG_CMD_RES then s.evt Reg.ENG_C_EVT F.ENG_C_EVT_CMD_IGNORED
  else if s.inReturn then s.putRes Reg.ENG_CMD_RES eLIFE 0
  else if 64 ≤ e || !s.fuses.eng e then s.putRes Reg.ENG_CMD_RES eFORMAT 0
  else if s.engSt e ≠ 1 || !s.spareFree (engQuad e) then s.putRes Reg.ENG_CMD_RES eINUSE 0
  else (s.putRes Reg.ENG_CMD_RES cOK 0).updEng e fun x => { x with due := true }

/-- A state-memory read met an error (R254, R268): 1 corrected, 2 uncorrectable, which fails the engine. -/
def eccSeen (s : State) (p ecc slot : Nat) (go : State → State) : State :=
  if 2 ≤ ecc then engFail s p 2 (slot + 1)
  else if ecc = 1 then go (eccCor s p)
  else go s

/-- LD, ST, CNTDN and CNTUP (R251). -/
def engLd (s : State) (a : Act) (x i ecc : Nat) : State :=
  engAct s a 0x18 { wv := some x, rd := 1 } fun s p e _ c =>
    eccSeen s p ecc a.slot fun s => setV s p x c { val := s.smemAt p e i c, ready := c + 3 }
def engSt_ (s : State) (a : Act) (x i : Nat) : State :=
  engAct s a 0x19 { rv := [x], wr := 1 } fun s p e lock c => setSmem s p e i lock (s.vAt p x c).val
def engCnt (s : State) (a : Act) (op pr i ecc : Nat) (f : Dword → Dword) (lim : Dword → Bool) : State :=
  engAct s a op { wp := some pr, rd := 1, wr := 1 } fun s p e lock c =>
    eccSeen s p ecc a.slot fun s =>
      let x := f (s.smemAt p e i c)
      setP (setSmem s p e i lock x) p pr c { val := BitVec.ofNat 64 (nat01 (lim x)), ready := c + 3 }

/-! GET (R252). -/

/-- A word that offset 0 of the frame wrote in quadrant `q` (4: the leaf stage) can be read by engine `p` now (R26, R75). -/
def State.seenBy (s : State) (p q : Nat) : Bool := s.seenAt (q == engQuad p) (s.elapsed * 200000)

/-- Samples of a PM entity in quadrant `q` as engine `p` reads them now (R26, R75). -/
def State.sampleRd (s : State) (q p : Nat) : State → Nat → Nat → Bool :=
  if s.seenBy p q then State.defSmp else fun s e b => bitAt (s.dfs e).old b

/-- The quadrant whose hardware counts the PM entity of key `k`, 4 for the leaf stage. -/
def keyQuad (k : Nat) : Nat := if k < leafKey then k / 4096 / 16 else 4

/-- The block counts of the last frame of PM key `k` as engine `p` reads them (R26, R252). -/
def State.countVal (s : State) (p k : Nat) : Nat :=
  let x := s.pmx k
  let pack := fun (b e f : Nat) => b % 65536 + 65536 * (e % 65536) + 4294967296 * (f % 65536)
  if s.seenBy p (keyQuad k) then pack x.lastBlk x.lastErr x.lastFerr else pack x.prevBlk x.prevErr x.prevFerr

/-- The selector bit of output or record `i` in force, as engine `p` reads it (R26, R252). -/
def State.selBit (s : State) (p i : Nat) : Bool :=
  if i < 65536 then (if s.seenBy p (slotQuad i) then tabGet false s.selF i else tabGet false s.selOld i)
  else if s.seenBy p 4 then tabGet false s.lselF (i - 65536)
  else tabGet false s.lselOld (i - 65536)

/-- The summary of PM entity `k` (line number, or 262,144 + leaf number): its defects by code, SF, SD, SSF. -/
def State.sampleVal (s : State) (p k : Nat) : Nat :=
  let pack := fun (first n base : Nat) (rd : State → Nat → Nat → Bool) (key : Nat) =>
    ((List.range n).filter fun b => rd s key b).foldl (fun v b => v + 2 ^ (first + b - base)) 0
  let sig := fun (sf sd ssf : Bool) => 9223372036854775808 * nat01 sf + 4611686018427387904 * nat01 sd + 2305843009213693952 * nat01 ssf
  if k < leafKey then
    let rd := s.sampleRd (keyQuad k) p
    let x := entCodes k
    pack x.1 x.2 0 rd k +
      (match pmEnt k with
       | .odu i => sig (s.oduSf i rd) (s.oduSd i rd) (s.oduSsf i rd)
       | .tcm i _ => sig (s.tcmSf k rd || s.oduSsf i rd) (rd s k 6 || s.serverSd i rd) (s.oduSsf i rd)
       | .port i => (match s.img.bind (·.port? (i / 8) (i % 8)) with
         | some x => sig (s.portSf x rd) (rd s k 5) (s.oducSsf x rd)
         | none => 0)
       | _ => 0)
  else
    let v := k - leafKey
    let group := s.img.bind fun m => m.groups.find? fun g => g.mon == some v
    let car := if 65536 ≤ v then some (v - 65536) else group.map fun g => g.idx / 65536
    match car with
    | some cr =>
      let rd := s.sampleRd 4 p
      let gais := match group with
        | some g => rd s (gaisKey g.idx) 0
        | none => false
      pack 0 13 0 rd (carKey cr) + 8192 * nat01 gais
        + sig (s.carSf cr rd || gais) (rd s (carKey cr) 10) (s.carSsf cr rd)
    | none => 0

/-- Value of a source table entry as engine `p` reads it now (R252): what lies in another quadrant or in the leaf stage is 2,400 core
cycles old (R26). -/
def State.srcVal (s : State) (p w : Nat) : Nat :=
  let i := entIndex w
  match entKind w with
  | 1 => s.sampleVal p i
  | 2 => (match s.apsSeen (engQuad p) (i / 8) with
    | some b => if (s.img.bind (·.groupOfOdu (i / 8))).any (fun d => d.level == i % 8) then leAt b 0 4 + 4294967296 else 0
    | none => 0)
  | 3 => (s.gscSeen i).1 % 16 + 65536 * (s.gscSeen i).2
  | 4 => s.countVal p i
  | 5 => s.fnN
  | 6 => nat01 (s.selBit p i)
  | 7 => (s.grp i).cmdLast
  | _ => 0

/-- GET (R251, R252). -/
def engGet (s : State) (a : Act) (x i : Nat) : State :=
  engAct s a 0x20 { wv := some x, get := some i } fun s p e _ c =>
    setV s p x c { val := BitVec.ofNat 64 (s.srcVal p ((s.engEntry secSRC e i).getD 0)), ready := c + 2 }

/-! PUT, POST and the state bus (R26, R27, R252, R253). -/

/-- The duty state a PUT to PROT_STAT writes (R199, R252); `t`: the frames elapsed. -/
def Grp.load (g : Grp) (v t : Nat) : Grp :=
  let cmd := bits v 8 3
  { g with sel := bitAt v 0, bridge := bitAt v 1, req := bits v 2 4, far := bitAt v 6, sig := bitAt v 7, lo := cmd == 1,
           fs := cmd == 2, ms := if cmd = 3 then 1 else if cmd = 4 then 2 else 0, sfw := bitAt v 11, sfp := bitAt v 12,
           sdw := bitAt v 13, sdp := bitAt v 14, wtr := if bitAt v 15 then some (t + bits v 32 23) else none,
           pm := bitAt v 16, nr := bitAt v 17, fsl := bitAt v 18, fallback := bitAt v 19, holdW := bitAt v 20, holdP := bitAt v 21 }

/-- A PUT to PROT_STAT: it stands, even when the engine fails later in the frame (R254). -/
def grpLoad (s : State) (n v : Nat) : State :=
  let s := s.updGrp n fun g => { g.load v s.elapsed with evald := true }
  { s with groupsChk := tabUpd {} s.groupsChk n fun g => g.load v s.elapsed }

/-- The word of a PUT reaches its destination (R252); no selector, bridge, APS or status is written on a standby or in HOLDING (R198, R355). -/
def busApply (s : State) (kind index : Nat) (v : Dword) : State :=
  let n := v.toNat
  if s.quietRole && decide (kind < 6) then s
  else
  match kind with
  | 1 => selWrite s 1 index (bitAt n 0)
  | 2 => selWrite s 2 index (bitAt n 0)
  | 3 => lselWrite s index (bitAt n 0)
  | 4 =>
    let b := leBytes (n % 4294967296) 4
    let s := putAps s (index / 8) (index % 8) b
    (match s.img.bind fun m => m.prots.find? fun d => d.p == handle 2 (index / 8) && d.level == index % 8 with
     | some d => s.updGrp d.idx fun g => { g with tx := b }
     | none => s)
  | 5 => { s with gscTx := tabSet 0 s.gscTx index (n % 16) }
  | 7 => grpLoad s index n
  | _ => s

/-- PUT (R251, R252): at once within the quadrant, 2,400 core cycles later across the state bus. -/
def engPut (s : State) (a : Act) (x i : Nat) : State :=
  engAct s a 0x21 { rv := [x], put := some i } fun s p e lock c =>
    let w := (s.engEntry secDST e i).getD 0
    let v := (s.vAt p x c).val
    if lock then s
    else
      match busTo p w with
      | some q => { s with bus := s.bus ++ [⟨s.now + Config.busCycles, q, entKind w, entIndex w, v⟩] }
      | none => busApply s (entKind w) (entIndex w) v

/-- The bytes of a posted record: `n` units from VX upward, lower register first (R251). -/
def State.postBytes (s : State) (p x n c : Nat) : List Byte :=
  (List.range (2 * n)).flatMap fun k => leBytes (s.vAt p (x + k) c).val.toNat 8

/-- POST (R251, R252): held back until the commit. -/
def engPost (s : State) (a : Act) (x n i : Nat) : State :=
  engAct s a 0x22 { rv := (List.range (2 * n)).map (x + ·), post := some (n, i) } fun s p e lock c =>
    let w := (s.engEntry secDST e i).getD 0
    if lock then s else { s with held := s.held ++ [⟨e, entKind w, entIndex w, s.postBytes p x n c⟩] }

/-- MARK (R251). -/
def engMark (s : State) (a : Act) (x : Nat) : State :=
  engAct s a 0x30 { rv := [x] } fun s p _ lock c =>
    if lock then s else (s.wr (Reg.ENG_MARK p) ((s.vAt p x c).val.toNat % 4294967296)).evt (Reg.ENG_EVT p) F.ENG_EVT_MARK

/-- STATE_BUS_DELIVERY (R26): the oldest word under way reaches its quadrant; a word of the boundary cycle arrives with the boundary. -/
def busDeliver (s : State) : State :=
  match s.bus with
  | w :: r =>
    if (s.elapsed + 1) * 200000 < w.due || (s.ofs < 199999 && (s.elapsed + 1) * 200000 = w.due) then s
    else
      let s := s.toOfs (w.due - s.elapsed * 200000)
      busApply ({ s with bus := r }.count 0x21 w.quad 1) w.kind w.index w.value
  | [] => s

/-- The words that arrive up to and in the boundary cycle, which are the frame's still (R33, R118). -/
def busDrain (s : State) : State :=
  let run := fun (s : State) => (List.range s.bus.length).foldl (fun s _ => busDeliver s) s
  if s.bus.isEmpty then s else run ((run s).toOfs 199999)

/-! The commit (R253). -/

/-- A PM record is placed by the supervisor (R96, R173, R253). -/
def placeRecord (s : State) (k : Nat) (b : List Byte) : State :=
  s.memPut (s.histAddr k (leAt b 0 4) (bits (leAt b 4 4) 18 2 == 1)) (slice b 0 64)

/-- The physical engine that runs working engine `e`'s program (R25). -/
def State.physical (s : State) (e : Nat) : Nat := if s.actsFor (engQuad e) e then 64 + engQuad e else e

/-- Release one held record. -/
def release1 (s : State) (x : Posted) : State :=
  let s := s.count 0x17 (s.physical x.eng) (x.bytes.length / 16)
  if x.kind = 8 then placeRecord s x.index x.bytes else s.post x.index x.bytes

/-- Commit the state writes of engine `e` (R253); the physical engine shows their count. -/
def commitEng (s : State) (e : Nat) : State :=
  let x := s.eng e
  (s.wr (Reg.ENG_DIRTY (s.physical e)) (min x.dirty.length 8192)).updEng e fun x => { x with chk := x.smem, dirty := [] }

/-- Engines that commit nothing in a frame show no state words committed in it (R268). -/
def dirtyClear (s : State) : State :=
  (List.range 68).foldl (fun s p => if s.rd (Reg.ENG_DIRTY p) = 0 then s else s.wr (Reg.ENG_DIRTY p) 0) s

/-- The working engines whose program runs to the end of this frame. -/
def State.running64 (s : State) : List Nat :=
  (List.range 64).filter fun e => s.engSt e == 1 || s.actsFor (engQuad e) e

/-- ENGINE_COMMIT (R253): engines that failed in this frame are noted first; then, for the engines that have not failed, checkpoints, records in issue order, and the
duty states that the moves of R23 carry. -/
def engineCommit (s : State) (failed : List (Nat × Nat)) : State :=
  if !s.released then s
  else
    let s := s.toOfs 199000
    let s := failed.foldl (fun s f => engFail s f.1 f.2 398000) s
    let s := s.running64.foldl commitEng (dirtyClear s)
    let out := (List.range 68).flatMap fun e =>
      if s.engSt e != 2 || s.actsFor (engQuad e) e then s.held.filter fun x => x.eng == e else []
    let s := out.foldl release1 { s with held := [], failBack := [] }
    let down : List ProtDef := match s.img with
      | some m => m.prots.filter fun d => !s.dutyUp (handle 4 d.idx)
      | none => []
    { s with groupsChk := down.foldl (fun (l : List (Nat × Grp)) d => tabSet {} l d.idx (tabGet {} s.groupsChk d.idx)) s.groups }

/-! The frame boundary. -/

/-- Engine `p` at offset 0 (R246, R261, R262): the frame's empty slots, then registers, ports and budgets anew. -/
def engFrame1 (s : State) (p : Nat) : State :=
  let s := if (s.eng p).live then engFill s p 400000 else s
  let keep := s.engSt p != 3 || (s.role == roleSTANDBY && s.flag Reg.MATE_CTRL F.MATE_CTRL_SELFTEST)
  let s := if keep then s else (setEngSt s p 0 0).updEng p fun x => { x with testAt := none }
  let live := (s.acting p).isSome
  s.updEng p fun x =>
    { x with v := [], p := [], ports := {}, postFree := 0, postUsed := 0, busUsed := [], acts := 0, live := live }

/-- A working engine runs when the image in force gives it a program (R268); a failed one stays FAILED until reset. -/
def engStates (s : State) : State :=
  (List.range 64).foldl (fun s e =>
    if s.engSt e = 2 || !s.fuses.eng e then s else s.setFld (Reg.ENG_STAT e) F.ENG_STAT_STATE (nat01 (s.progLen e != 0))) s

/-- The engines that run a program from here on, after their states changed at offset 0 (R133, R262, R288). -/
def engLive (s : State) : State :=
  (List.range 68).foldl (fun s p =>
    let on := (s.acting p).isSome
    s.updEng p fun e => { e with live := on }) s

/-- Every engine at a frame boundary. -/
def engFrame (s : State) : State :=
  let s := (List.range 68).foldl (fun s p => if s.engs.any (fun x => x.1 == p) || s.engSt p != 0 then engFrame1 s p else s) s
  { s with failBack := [] }

/-- A comparison of the lockstep test in quadrant `q` that fails is noted at once (R241, R242). -/
def lockstepDiffer (s : State) (q : Nat) (differs : Bool) : State :=
  if differs && s.engSt (64 + q) == 3 then
    (s.evt Reg.MATE_EVT F.MATE_EVT_LOCKSTEP_ERR).updMate fun m => { m with lockstepAt := some s.elapsed }
  else s

/-- LOCKSTEP_TEST (R242): a comparison of the running test failed (`differs`); and every 8,000 frames the spare of quadrant `q` of a STANDBY
unit moves on to a further working engine. -/
def lockstepTest (s : State) (q : Nat) (differs : Bool) : State :=
  let p := 64 + q
  let s := lockstepDiffer s q differs
  let x := s.eng p
  let due := match x.testAt with
    | some t => decide (t + 8000 ≤ s.elapsed)
    | none => true
  if s.role ≠ roleSTANDBY || !s.flag Reg.MATE_CTRL F.MATE_CTRL_SELFTEST || s.ofs ≠ 0 || !s.released || !s.spareFree q || !due then s
  else
    let k := if s.engSt p = 3 then (x.test + 1) % 16 else 0
    (setEngSt s p 3 0).updEng p fun x => { x with test := 16 * q + k, testAt := some s.elapsed, live := true }

/-! Top-down captures (R263). -/

/-- SNAP. -/
def tdSnap (s : State) : State :=
  if s.valid Reg.ENG_TD_RES || s.isPending Reg.ENG_TD_RES || s.tdDue then s.evt Reg.ENG_C_EVT F.ENG_C_EVT_TD_IGNORED
  else { s with tdDue := true }

/-- TD_CAPTURE: the four counters of every engine at the boundary. -/
def tdCapture (s : State) : State :=
  if s.tdDue && s.ofs = 0 then
    let s := (List.range 68).foldl (fun s e =>
      (List.range 8).foldl (fun s i => s.wr (Reg.ENG_TD_CAP e i) (s.rd (Reg.ENG_RETIRED_LO e + 4 * i))) s) s
    let s := s.wrPair Reg.ENG_TD_FN_LO s.fnN
    { s.putRes Reg.ENG_TD_RES cOK 0 with tdDue := false }
  else s

/-! PMON (R264 to R266). -/

/-- A write of PMON_SEL_n: the last value before the boundary counts. -/
def pmonSelWrite (s : State) (n : Nat) (data : Word) : State := s.wr (Reg.PMON_SEL n) (data.toNat % 16777216)

/-- PMON_SOURCE_CHANGE: at offset 0, a counter whose source changed; further events of this cycle still belong to the old one (R33, R265). -/
def pmonSourceChange (s : State) (n : Nat) : State :=
  let w := Tab.get regReset s.regs (Reg.PMON_SEL n)
  if s.ofs ≠ 0 || tabGet 0 s.pmonSel n = w then s
  else
    let s := (s.wr (Reg.PMON_LAST_LO n) (s.rd (Reg.PMON_CNT_LO n))).wr (Reg.PMON_LAST_HI n) (s.rd (Reg.PMON_CNT_HI n))
    { s.wrPair (Reg.PMON_CNT_LO n) 0 with pmonSel := tabSet 0 s.pmonSel n w, pmonOld := s.pmonOld ++ [(n, tabGet 0 s.pmonSel n)] }

/-- PMON_CTRL.FREEZE; it governs from offset 1 of the next frame. -/
def pmonFreeze (s : State) (data : Word) : State := s.wr Reg.PMON_CTRL (data.toNat % 2)

/-- PMON_SNAP. -/
def pmonSnap (s : State) : State :=
  if s.valid Reg.PMON_SNAP_RES || s.isPending Reg.PMON_SNAP_RES || s.pmonDue then s.evt Reg.PMON_EVT F.PMON_EVT_SNAP_IGNORED
  else { s with pmonDue := true }

/-- PMON_SNAPSHOT: all 256 counters at the boundary; a counter whose source changes in the same cycle shows its old source's
final value, which equals PMON_LAST (R266). -/
def pmonSnapshot (s : State) : State :=
  if s.pmonDue && s.ofs = 0 then
    let s := (List.range 256).foldl (fun s n =>
      let old := s.pmonOld.any (·.1 == n)
      (s.wr (Reg.PMON_SNAPV_LO n) (s.rd (if old then Reg.PMON_LAST_LO n else Reg.PMON_CNT_LO n))).wr (Reg.PMON_SNAPV_HI n)
        (s.rd (if old then Reg.PMON_LAST_HI n else Reg.PMON_CNT_HI n))) s
    let s := s.wrPair Reg.PMON_SNAP_FN_LO s.fnN
    { s.putRes Reg.PMON_SNAP_RES cOK 0 with pmonDue := false }
  else s

/-- PMON and the top-down capture at a frame boundary: FRAMES counts, and a pending snapshot or capture shows PENDING (R263, R266). -/
def pmonFrame (s : State) : State :=
  let s := s.count 0x001 0 1
  let s := if s.tdDue then s.pendRes Reg.ENG_TD_RES else s
  if s.pmonDue then s.pendRes Reg.PMON_SNAP_RES else s

/-! The commands. -/

/-- NOP (R251). -/
def execNop (a : Act) (s : State) : Host.Outcome State Fault Refusal := checked (.nop a) s (engAct s a 0x00 {} fun s _ _ _ _ => s)
/-- ADD (R251). -/
def execAdd (a : Act) (x y z : Nat) (s : State) : Host.Outcome State Fault Refusal := checked (.add a x y z) s (alu s a 0x01 x [y, z] fun v => v y + v z)
/-- SUB (R251). -/
def execSub (a : Act) (x y z : Nat) (s : State) : Host.Outcome State Fault Refusal := checked (.sub a x y z) s (alu s a 0x02 x [y, z] fun v => v y - v z)
/-- AND (R251). -/
def execAnd (a : Act) (x y z : Nat) (s : State) : Host.Outcome State Fault Refusal := checked (.and a x y z) s (alu s a 0x03 x [y, z] fun v => v y &&& v z)
/-- OR (R251). -/
def execOr (a : Act) (x y z : Nat) (s : State) : Host.Outcome State Fault Refusal := checked (.or a x y z) s (alu s a 0x04 x [y, z] fun v => v y ||| v z)
/-- XOR (R251). -/
def execXor (a : Act) (x y z : Nat) (s : State) : Host.Outcome State Fault Refusal := checked (.xor a x y z) s (alu s a 0x05 x [y, z] fun v => v y ^^^ v z)
/-- SHL (R251). -/
def execShl (a : Act) (x y z : Nat) (s : State) : Host.Outcome State Fault Refusal :=
  checked (.shl a x y z) s (alu s a 0x06 x [y, z] fun v => v y <<< ((v z).toNat % 64))
/-- SHR (R251). -/
def execShr (a : Act) (x y z : Nat) (s : State) : Host.Outcome State Fault Refusal :=
  checked (.shr a x y z) s (alu s a 0x07 x [y, z] fun v => v y >>> ((v z).toNat % 64))
/-- MINU (R251). -/
def execMinu (a : Act) (x y z : Nat) (s : State) : Host.Outcome State Fault Refusal :=
  checked (.minu a x y z) s (alu s a 0x08 x [y, z] fun v => minuV (v y) (v z))
/-- MAXU (R251). -/
def execMaxu (a : Act) (x y z : Nat) (s : State) : Host.Outcome State Fault Refusal :=
  checked (.maxu a x y z) s (alu s a 0x09 x [y, z] fun v => maxuV (v y) (v z))
/-- SATADD32 (R251). -/
def execSatadd32 (a : Act) (x y z : Nat) (s : State) : Host.Outcome State Fault Refusal :=
  checked (.satadd32 a x y z) s (alu s a 0x0A x [y, z] fun v => satadd32V (v y) (v z))
/-- ADDI (R251). -/
def execAddi (a : Act) (x y : Nat) (imm : BitVec 26) (s : State) : Host.Outcome State Fault Refusal :=
  checked (.addi a x y imm) s (alu s a 0x0B x [y] fun v => v y + imm.signExtend 64)
/-- MOVI (R251). -/
def execMovi (a : Act) (x : Nat) (imm : BitVec 26) (s : State) : Host.Outcome State Fault Refusal :=
  checked (.movi a x imm) s (alu s a 0x0C x [] fun _ => imm.signExtend 64)
/-- EXT (R251). -/
def execExt (a : Act) (x y lsb wm1 : Nat) (s : State) : Host.Outcome State Fault Refusal :=
  checked (.ext a x y lsb wm1) s (alu s a 0x0D x [y] fun v => extV (v y) lsb wm1)
/-- INS (R251). -/
def execIns (a : Act) (x y lsb wm1 : Nat) (s : State) : Host.Outcome State Fault Refusal :=
  checked (.ins a x y lsb wm1) s (alu s a 0x0E x [x, y] fun v => insV (v x) (v y) lsb wm1)
/-- SEL (R251). -/
def execSel (a : Act) (x y z p : Nat) (s : State) : Host.Outcome State Fault Refusal :=
  checked (.sel a x y z p) s (engAct s a 0x0F { rv := [y, z], rp := [p], wv := some x } fun s q _ _ c =>
    setV s q x c { val := (s.vAt q (if (s.pAt q p c).val != 0 then y else z) c).val, ready := c + 1 })
/-- CMP (R251). -/
def execCmp (a : Act) (p y z cond : Nat) (s : State) : Host.Outcome State Fault Refusal :=
  checked (.cmp a p y z cond) s (pact s a 0x10 p [y, z] [] (decide (5 < cond)) fun v _ => condHolds cond (v y) (v z))
/-- CMPI (R251). -/
def execCmpi (a : Act) (p y cond : Nat) (imm : BitVec 22) (s : State) : Host.Outcome State Fault Refusal :=
  checked (.cmpi a p y cond imm) s (pact s a 0x11 p [y] [] (decide (5 < cond)) fun v _ => condHolds cond (v y) (imm.signExtend 64))
/-- PSET (R251): 0 AND, 1 OR, 2 AND NOT, 3 XOR, inverted on request. -/
def execPset (a : Act) (p q r f : Nat) (inv : Bool) (s : State) : Host.Outcome State Fault Refusal :=
  checked (.pset a p q r f inv) s (pact s a 0x12 p [] [q, r] false fun _ b =>
    (if f = 0 then b q && b r else if f = 1 then b q || b r else if f = 2 then b q && !b r else b q != b r) != inv)
/-- TESTB (R251). -/
def execTestb (a : Act) (p y bit : Nat) (s : State) : Host.Outcome State Fault Refusal :=
  checked (.testb a p y bit) s (pact s a 0x13 p [y] [] false fun v _ => (v y).getLsbD bit)
/-- LD (R251). -/
def execLd (a : Act) (x addr ecc : Nat) (s : State) : Host.Outcome State Fault Refusal := checked (.ld a x addr ecc) s (engLd s a x addr ecc)
/-- ST (R251). -/
def execSt (a : Act) (x addr : Nat) (s : State) : Host.Outcome State Fault Refusal := checked (.st a x addr) s (engSt_ s a x addr)
/-- CNTDN (R251). -/
def execCntdn (a : Act) (p addr ecc : Nat) (s : State) : Host.Outcome State Fault Refusal :=
  checked (.cntdn a p addr ecc) s (engCnt s a 0x1A p addr ecc cntdnV fun w => w == 0)
/-- CNTUP (R251): the predicate says that the low half has reached its limit. -/
def execCntup (a : Act) (p addr ecc : Nat) (s : State) : Host.Outcome State Fault Refusal :=
  checked (.cntup a p addr ecc) s (engCnt s a 0x1B p addr ecc cntupV fun w => w.toNat % 4294967296 == 4294967295)
/-- GET (R252). -/
def execGet (a : Act) (x entry : Nat) (s : State) : Host.Outcome State Fault Refusal := checked (.get a x entry) s (engGet s a x entry)
/-- PUT (R252). -/
def execPut (a : Act) (x entry : Nat) (s : State) : Host.Outcome State Fault Refusal := checked (.put a x entry) s (engPut s a x entry)
/-- POST (R251). -/
def execPost (a : Act) (x n entry : Nat) (s : State) : Host.Outcome State Fault Refusal := checked (.post a x n entry) s (engPost s a x n entry)
/-- MARK (R251). -/
def execMark (a : Act) (x : Nat) (s : State) : Host.Outcome State Fault Refusal := checked (.mark a x) s (engMark s a x)
/-- ENGINE_COMMIT (R253). -/
def execEngineCommit (failed : List (Nat × Nat)) (s : State) : Host.Outcome State Fault Refusal := checked (.engineCommit failed) s (engineCommit s failed)
/-- SPARE_TAKEOVER (R255). -/
def execSpareTakeover (q : Nat) (s : State) : Host.Outcome State Fault Refusal := checked (.spareTakeover q) s (spareTakeover s q)
/-- TAKEOVER (R257). -/
def execTakeover (eng : Nat) (s : State) : Host.Outcome State Fault Refusal := checked (.takeover eng) s (s.host Reg.ENG_CMD fun s => takeover s eng)
/-- ENG_CMD_ACK (R268). -/
def execEngCmdAck (seq : Nat) (s : State) : Host.Outcome State Fault Refusal :=
  checked (.engCmdAck seq) s (s.host Reg.ENG_CMD_ACK (·.ackRes Reg.ENG_CMD_RES seq))
/-- SNAP (R263). -/
def execSnap (s : State) : Host.Outcome State Fault Refusal := checked .snap s (s.host Reg.ENG_TD_CMD tdSnap)
/-- TD_CAPTURE (R263). -/
def execTdCapture (s : State) : Host.Outcome State Fault Refusal := checked .tdCapture s (tdCapture s)
/-- ENG_TD_ACK (R263). -/
def execEngTdAck (seq : Nat) (s : State) : Host.Outcome State Fault Refusal :=
  checked (.engTdAck seq) s (s.host Reg.ENG_TD_ACK (·.ackRes Reg.ENG_TD_RES seq))
/-- PMON_SEL_WRITE (R265). -/
def execPmonSelWrite (n : Nat) (data : Word) (s : State) : Host.Outcome State Fault Refusal :=
  checked (.pmonSelWrite n data) s (s.host (Reg.PMON_SEL n) fun s => pmonSelWrite s n data)
/-- PMON_SOURCE_CHANGE (R265). -/
def execPmonSourceChange (n : Nat) (s : State) : Host.Outcome State Fault Refusal := checked (.pmonSourceChange n) s (pmonSourceChange s n)
/-- FREEZE (R266). -/
def execFreeze (data : Word) (s : State) : Host.Outcome State Fault Refusal := checked (.freeze data) s (s.host Reg.PMON_CTRL fun s => pmonFreeze s data)
/-- PMON_SNAP (R266). -/
def execPmonSnap (s : State) : Host.Outcome State Fault Refusal := checked .pmonSnap s (s.host Reg.PMON_SNAP_CMD pmonSnap)
/-- PMON_SNAPSHOT (R266). -/
def execPmonSnapshot (s : State) : Host.Outcome State Fault Refusal := checked .pmonSnapshot s (pmonSnapshot s)
/-- PMON_SNAP_ACK (R266). -/
def execPmonSnapAck (seq : Nat) (s : State) : Host.Outcome State Fault Refusal :=
  checked (.pmonSnapAck seq) s (s.host Reg.PMON_SNAP_ACK (·.ackRes Reg.PMON_SNAP_RES seq))
/-- STATE_BUS_DELIVERY (R26). -/
def execStateBusDelivery (s : State) : Host.Outcome State Fault Refusal := checked .stateBusDelivery s (busDeliver s)
/-- LOCKSTEP_TEST (R242). -/
def execLockstepTest (q : Nat) (differs : Bool) (s : State) : Host.Outcome State Fault Refusal := checked (.lockstepTest q differs) s (lockstepTest s q differs)

end Sys2Proof.Machine
end

