-- ==== Sys2Proof/Machine/ImageCheck.lean ====
section
/-! DEFINITION. What the loader checks of an image (R270 to R280, R284, R352, R353): header and blocks, the directory, the
resources, and the format rules the chapters name for each section type. -/

namespace Sys2Proof.Machine

/-! Header, blocks, digest (steps 1 to 4 of R284 and R128). A fault is a code and a DETAIL. -/

/-- MAGIC, VERSION, KIND and size (R271, R284): at most `limit` bytes. -/
def hdrForm (f : Nat → Byte) (kind limit : Nat) : Bool :=
  hdr f 0 4 == 0x3142534F && hdr f 4 2 == 1 && hdr f 6 1 == kind && decide (hdr f 12 4 * 65536 ≤ limit)

/-- CONTENT_LEN (R271): at most the content of the blocks, at least the header (judged in step 7 of R284; log entry 82). -/
def lenForm (f : Nat → Byte) : Bool := decide (256 ≤ hdr f 16 8) && decide (hdr f 16 8 ≤ 65532 * hdr f 12 4)

/-- HDR_CRC, then the header's form. -/
def hdrFault (f : Nat → Byte) (kind limit : Nat) : Option (Nat × Nat) :=
  if !hdrCrcOk f then some (eCRC, 1) else if !hdrForm f kind limit then some (eFORMAT, 0) else none

/-- The digest that the header states, and for a full image RESULT_DIGEST = CONTENT_DIGEST (R272). -/
def digestFault (f : Nat → Byte) (full : Bool) : Option (Nat × Nat) :=
  if contentDigest f != content f 64 32 then some (eCRC, 2)
  else if full && content f 64 32 != content f 128 32 then some (eFORMAT, 0)
  else none

/-- The REQUIRED bits that the part lacks (R6, R353). -/
def Fuses.lacks (x : Fuses) (required : Nat) : Nat :=
  ofBits ((List.range 6).map fun i =>
    bitAt required i && !(if i < 4 then x.quad i else if i = 4 then x.leaf else x.mate))

/-- The variant check (R6). -/
def variantFault (x : Fuses) (required : Nat) : Option (Nat × Nat) :=
  if x.lacks required ≠ 0 then some (eVARIANT, x.lacks required) else none

/-- CONTENT_LEN, bytes of a header that are always 0, and those that are 0 in a full image (R271). -/
def hdrZeros (f : Nat → Byte) (full : Bool) : Bool :=
  lenForm f && hdr f 7 1 == 0 && decide (hdr f 8 4 < 64) && hdr f 44 20 == 0 && hdr f 160 92 == 0
    && (!full || (hdr f 36 4 == 0 && hdr f 96 32 == 0))
    && (List.range (65532 * hdr f 12 4 - hdr f 16 8)).all fun i => f (contPos (hdr f 16 8 + i)) == 0

/-! The directory (R273, R352). -/

/-- Entry size, largest INSTANCE, and whether every full image holds the type (R274). -/
def typeInfo : List (Nat × Nat × Nat × Bool) := [
  (0x00, 64, 0, true), (0x01, 16, 0, true), (0x02, 8, 0, true), (0x03, 16, 0, false), (0x04, 2, 95, false), (0x05, 1, 863, false),
  (0x06, 4, 95, false), (0x07, 1, 0, true), (0x08, 4, 0, false), (0x09, 4, 63, false), (0x0A, 16, 0, false), (0x0B, 4, 63, false),
  (0x0C, 144, 0, false), (0x0D, 208, 0, false), (0x0E, 16, 0, false), (0x0F, 4, 0, false), (0x10, 16, 0, false), (0x11, 8, 0, false),
  (0x12, 2, 0, false), (0x13, 32, 0, false), (0x14, 8, 63, false), (0x15, 8, 63, false), (0x16, 8, 63, false), (0x17, 8, 63, false),
  (0x18, 4, 63, false), (0x19, 16, 63, false), (0x1A, 8, 0, true), (0x1B, 32, 0, false), (0x1C, 128, 0, true), (0x1D, 8, 0, false),
  (0x1E, 16, 0, false), (0x1F, 8, 0, true), (0x20, 4096, 0, true), (0x21, 16, 0, false)]

/-- Most entries that the on-die memory of a type holds; none where R280 or an HBM region limits it instead. -/
def typeMax (ty : Nat) : Option Nat :=
  match ty with
  | 0x00 => some 1
  | 0x01 => some 12
  | 0x02 => some 16
  | 0x04 => some 432
  | 0x05 => some 96
  | 0x06 => some 432
  | 0x07 => some 1386
  | 0x08 => some 41472
  | 0x09 => some 8
  | 0x0A => some 40960
  | 0x0B => some 640
  | 0x0D => some 512
  | 0x0F => some 33554432
  | 0x18 => some 5
  | 0x19 => some 65536
  | 0x1C => some 1
  | 0x1D => some 48
  | 0x1E => some 4
  | 0x1F => some 67
  | 0x20 => some 2048
  | _ => none

/-- The HBM region that holds a section type (R278): two copies of it, the one in force and the other (R162, R164, R165, R276). -/
def typeRegion (ty : Nat) : Option Nat :=
  match ty with
  | 0x0F => some 3
  | 0x10 => some 4
  | 0x11 => some 5
  | 0x1A => some 11
  | _ => none

/-- Strictly rising keys. -/
def rising : List Nat → Bool
  | [] => true
  | [_] => true
  | a :: b :: r => decide (a < b) && rising (b :: r)

/-- Two byte ranges (start, length) meet. -/
def meets (a b : Nat × Nat) : Bool := decide (a.2 ≠ 0) && decide (b.2 ≠ 0) && decide (a.1 < b.1 + b.2) && decide (b.1 < a.1 + a.2)

/-- Some two ranges of a list meet. -/
def anyMeet : List (Nat × Nat) → Bool
  | [] => false
  | a :: r => r.any (meets a) || anyMeet r

/-- One directory entry keeps the rules of R273 for its type; `len` is CONTENT_LEN, `dir` the directory's range. -/
def dirEntOk (len : Nat) (dir : Nat × Nat) (all : List DirEnt) (full : Bool) (regions : List (Nat × Nat)) (d : DirEnt) : Bool :=
  (match typeInfo.find? (·.1 == d.ty) with
   | some t => d.esize == t.2.1 && decide (d.inst ≤ t.2.2.1)
   | none => false)
    && decide (d.ofs + d.len ≤ len) && !meets (d.ofs, d.len) dir && !meets (d.ofs, d.len) (0, 256)
    && (all.all fun x => (x.ty == d.ty && x.inst == d.inst) || !meets (d.ofs, d.len) (x.ofs, x.len))
    && (match typeMax d.ty with
        | some n => decide (d.count ≤ n)
        | none => true)
    && (match (typeRegion d.ty).bind fun r => regions.find? (·.1 == r) with
        | some r => decide (d.count * d.esize ≤ r.2 / 2)
        | none => true)
    && !(full && d.ty == secHITS)

/-- The first fault of the directory (R273, R352), after DIR_COUNT: 0x00 for the directory itself, else the lowest section
type at fault. `regions`: region codes and lengths of the result image. -/
def dirFault (f : Nat → Byte) (full : Bool) (regions : List (Nat × Nat)) : Option (Nat × Nat) :=
  let n := hdr f 32 4
  if 4096 < n then some (eRESOURCE, 0x8E)
  else
    let len := hdr f 16 8
    let dir := (hdr f 24 8, 32 * n)
    let ds := directory f
    let form := decide (1 ≤ n) && decide (dir.1 + dir.2 ≤ len) && !meets dir (0, 256)
      && rising (ds.map fun d => 65536 * d.ty + d.inst) && ds.all fun d => decide (d.ty ≤ 0x21) && decide (d.op ≤ 1) && d.tail == 0
    if !form then some (eFORMAT, 0)
    else
      let missing := (typeInfo.filter fun t => full && t.2.2.2 && !ds.any fun d => d.ty == t.1).map (·.1)
      let bad := (ds.filter fun d => !dirEntOk len dir ds full regions d).map (·.ty)
      match missing ++ bad with
      | [] => none
      | a :: r => some (eFORMAT, r.foldl min a)

/-- Carrier `c` is declared (R274). -/
def Image.carOn (m : Image) (c : Nat) : Bool := decide (c < 512) && bitAt (leAt (m.car c) 0 1) 0

/-- Region codes and lengths that an image's HBM_LAYOUT names; regions 3 to 5, where an image without leaf carriers leaves them out, hold nothing
(R278). -/
def Image.regions (m : Image) : List (Nat × Nat) :=
  ((m.rows secHBM 0).map fun e => (leAt e 0 2, leAt e 8 8))
    ++ if (List.range 512).any m.carOn then [] else [(3, 0), (4, 0), (5, 0)]

/-- Every section that an image keeps in HBM fits twice into its region (R273, R276; log entry 26). -/
def Image.housed (m : Image) : Bool :=
  m.sections.all fun x => match typeRegion x.ty with
    | some r => decide (x.count * x.esize ≤ (m.region r).2 / 2)
    | none => true

/-! Resources (R280), in the table's order. -/

/-- How often each value stands in a list, its largest count. -/
def maxCount (l : List Nat) : Nat := (l.eraseDups).foldl (fun n x => max n (l.filter (· == x)).length) 0

/-- VALID deferred entries as (index, source, slot) (R164). -/
def Image.defs (m : Image) : List (Nat × Nat × Nat) :=
  (((m.rows secDEF 0).zipIdx).filter fun x => bitAt (leAt x.1 0 4) 31).map fun x =>
    (x.2, leAt x.1 0 4 % 33554432, leAt x.1 4 4 % 33554432)

/-- The largest entry count over the engines of a section type. -/
def Image.engMax (m : Image) (ty : Nat) : Nat :=
  (m.sections.filter fun x => x.ty == ty).foldl (fun n x => max n x.count) 0

/-- Entries of a section. -/
def Image.countOf (m : Image) (ty : Nat) : Nat :=
  match m.find ty 0 with
  | some x => x.count
  | none => 0

/-- The first resource that overflows (R280). -/
def resourceFault (m : Image) : Option (Nat × Nat) :=
  let srcs := m.outs.flatMap fun d => (if d.kind = 0 then [] else [d.a]) ++ (if d.kind = 2 then [d.b] else [])
  let counts : List (Nat × Nat × Nat) := [
    (0x81, m.countOf secTRUNKOUT, 41472), (0x82, maxCount srcs, 64), (0x83, m.countOf secPROT, 65536),
    (0x84, m.countOf secLEAFGROUP, 33554432), (0x85, m.countOf secSREC, 65536), (0x86, m.defs.length, 262144),
    (0x87, maxCount (m.defs.map fun x => x.1 / 256), 256), (0x88, (m.groups.filter fun g => g.mon.isSome).length, 65536),
    (0x89, ((m.rows secREFMAP 0).filter fun e => leAt e 0 2 != 65535).length, 32), (0x8A, m.queues.length, 4096),
    (0x8B, m.engMax secPROG, 131072), (0x8C, max (m.engMax secSRC) (m.engMax secDST), 65536), (0x8D, m.engMax secDUTY, 16384),
    (0x8F, m.regions.foldl (fun n x => n + x.2) 0, Config.hbmBytes)]
  match counts.find? fun c => decide (c.2.2 < c.2.1) with
  | some c => some (eRESOURCE, c.1)
  | none => none

/-! Format rules by section type. -/

/-- No two entries of a list are equal. -/
def distinct (l : List Nat) : Bool := l.eraseDups.length == l.length

/-- Quadrant `q` is stated in REQUIRED (R353). -/
def Image.mayQuad (m : Image) (q : Nat) : Bool := decide (q < 4) && bitAt m.required q

/-- The leaf stage is stated in REQUIRED. -/
def Image.mayLeaf (m : Image) : Bool := bitAt m.required 4

/-- The Nirrin link is stated in REQUIRED. -/
def Image.mayMate (m : Image) : Bool := bitAt m.required 5

/-- GLOBAL (R274, R287, R353). -/
def okGlobal (m : Image) : Bool :=
  m.countOf secGLOBAL == 1 && decide (m.global 2 1 ≤ 1) && decide (m.global 3 1 ≤ 1) && decide (m.global 5 1 ≤ 1)
    && decide (m.global 6 4 ≤ 80000) && decide (m.global 10 1 ≤ 95) && m.global 11 53 == 0 && (m.global 2 1 == 0 || m.mayMate)

/-- HBM_LAYOUT (R278). -/
def okHbm (m : Image) : Bool :=
  let l := (m.rows secHBM 0).map fun e => (leAt e 0 2, leAt e 2 6, leAt e 8 8)
  let leaf := (List.range 512).any m.carOn
  let need := [1, 2, 8, 9, 10, 11] ++ (if leaf then [3, 4, 5, 6, 7] else []) ++ (if m.queues.isEmpty then [] else [12])
  let least := fun (r : Nat) => if r = 1 then 0x67000000 else if r = 6 then 0x19F40000 else if r = 8 then 0x40000000 else 0
  distinct (l.map (·.1)) && !anyMeet (l.map (·.2))
    && (l.all fun x => decide (1 ≤ x.1) && decide (x.1 ≤ 12) && decide (x.2.2 ≠ 0) && x.2.1 % 65536 == 0 && x.2.2 % 65536 == 0
      && decide (Config.hbmBase ≤ x.2.1) && decide (x.2.1 + x.2.2 ≤ Config.hbmBase + Config.hbmBytes)
      && !meets x.2 (Config.bootArea, 0x20000000) && decide (least x.1 ≤ x.2.2))
    && (need.all fun r => l.any fun x => x.1 == r) && m.housed

/-- HOST_WIN (R36). -/
def okHostWin (m : Image) : Bool :=
  let l := (m.rows secHOSTWIN 0).map fun e => (leAt e 0 4, leAt e 4 4)
  let gap := fun (a : Nat × Nat) =>
    let e := a.1 + a.2
    l.foldl (fun n b => min n (if e ≤ b.1 then b.1 - e else b.1 + 200000 - e)) 400000
  decide (4 ≤ l.length) && decide (l.length ≤ 16) && !anyMeet l
    && l.all fun w => decide (1000 ≤ w.1) && decide (w.1 + w.2 ≤ 189000) && decide (800 ≤ w.2) && decide (gap w ≤ 40000)

/-- What a trunk object is for R102: type, k, rate. A leaf slot is the leaf carrier ODUflex. -/
def Image.objType (m : Image) (i : Nat) : Option (Nat × Nat × Nat) :=
  if 40960 ≤ i then (if m.carOn (i - 40960) then some (6, 1, 4277738) else none)
  else (m.odu? i).map fun d => (d.ty, d.k, d.rate)

/-- Least hold of an output (R116). -/
def minHold (ty k : Nat) : Nat :=
  if ty = 0 || (ty = 6 && k = 1) then 4800
  else if ty = 1 then 3200
  else if ty = 2 || ty = 3 || (ty = 6 && k < 8) then 2400
  else if ty = 4 || (ty = 6 && k < 20) then 1920
  else 1600

/-- A line ODUflex and a leaf slot, whatever the ODUflex declares: another k or rate than the leaf carrier's is ODU's fault, DETAIL 0x0A (R149). -/
def Image.carrierPair (m : Image) (i o : Nat) : Bool :=
  decide (40960 ≤ i) != decide (40960 ≤ o) && (m.objType i).any (·.1 == 6) && (m.objType o).any (·.1 == 6)

/-- One output record (R101, R102, R116, R353). -/
def okOut (m : Image) (e : List Byte) : Bool :=
  let d := outDef e
  let nsrc := if d.kind = 0 then 0 else if d.kind = 2 then 2 else 1
  let src := (if 1 ≤ nsrc then [d.a] else []) ++ (if nsrc = 2 then [d.b] else [])
  let t := m.objType d.out
  hKind (leAt e 0 4) == 2 && t.isSome && decide (d.kind ≤ 3) && decide (leAt e 15 1 ≤ 1)
    && (if d.out < 40960 then m.mayQuad (d.out / 10240) else m.mayLeaf)
    && (if 1 ≤ nsrc then hKind (leAt e 4 4) == 2 else leAt e 4 4 == 0) && (if nsrc = 2 then hKind (leAt e 8 4) == 2 else leAt e 8 4 == 0)
    && (src.all fun i => (m.objType i == t || m.carrierPair i d.out) && !(decide (40960 ≤ i) && decide (40960 ≤ d.out)))
    && (nsrc != 2 || (d.a != d.b && decide (40960 ≤ d.a) == decide (40960 ≤ d.b)))
    && (if nsrc = 0 || 40960 ≤ d.out then d.h == 0
        else match t with
          | some x => decide (minHold x.1 x.2.1 ≤ d.h) && decide (d.h ≤ if 40960 ≤ d.a then 7800 else 9600)
          | none => false)

/-- TRUNK_OUT. -/
def okTrunkOut (m : Image) : Bool := (m.rows secTRUNKOUT 0).all (okOut m) && distinct (m.outs.map (·.out))

/-- TRUNK_ING: no middle position twice in one ingress switch, and every value in range (R122). -/
def okIng (m : Image) : Bool :=
  (m.sections.filter fun x => x.ty == secING).all fun x =>
    let v := (x.entries.map fun e => leAt e 0 2).filter (· != 65535)
    distinct v && v.all fun p => decide (p < 864)

/-- TRUNK_MID: ingress switches 0 to 95, or none. -/
def okMid (m : Image) : Bool :=
  (m.sections.filter fun x => x.ty == secMID).all fun x =>
    x.entries.all fun e => decide (leAt e 0 1 < 96) || leAt e 0 1 == 255

/-- The egress bank reads source slot `i` for output slot `o` at middle position `p` (R122). -/
def Image.routed (m : Image) (i o p : Nat) : Bool :=
  let a := slotPlace i
  let b := slotPlace o
  decide (p < 864) && (match m.entry? secING a.1 a.2 with
    | some e => leAt e 0 2 == p
    | none => false) && (match m.entry? secMID p b.1 with
    | some e => leAt e 0 1 == a.1
    | none => false)

/-- TRUNK_EGR: every output slot, and every B source, has an entry that reads a word delivered to it (R122). -/
def okEgr (m : Image) : Bool :=
  m.outs.all fun d =>
    let os := m.outSlots d.out
    let reads := fun (at_ : Nat) (x : Nat × Nat) => match m.entry? secEGR (slotPlace x.1).1 (slotPlace x.1).2 with
      | some e => m.routed x.2 x.1 (leAt e at_ 2)
      | none => false
    (d.kind == 0 || (os.zip (m.outSlots d.a)).all (reads 0)) && (d.kind != 2 || (os.zip (m.outSlots d.b)).all (reads 2))

/-- SLOT_CYCLE (R111). -/
def okCycle (m : Image) : Bool :=
  let v := (m.rows secCYCLE 0).map fun e => leAt e 0 1
  v.all (fun x => decide (x ≤ 1)) && (v.filter (· == 1)).length == 1344

/-- LATENCY: each L against R115. -/
def okLat (m : Image) : Bool :=
  (m.find secLAT 0).isNone || (m.outs.filter fun d => d.kind != 0).all fun d => leAt (m.entry secLAT 0 d.out) 0 4 == d.latWord

/-- PORT (R15, R353). -/
def okPort (m : Image) : Bool :=
  (m.sections.filter fun x => x.ty == secPORT).all fun x =>
    let ps := (List.range 8).filterMap (m.port? x.inst)
    (x.entries.all fun e => decide (leAt e 0 1 ≤ 1) && leAt e 3 1 == 0 && (leAt e 0 1 == 0 || decide (leAt e 1 1 ≤ 3)))
      && (ps.all fun p => p.first % p.width == 0 && p.first / 2 == p.p && decide (p.first + p.width ≤ 16))
      && !anyMeet (ps.map fun p => (p.first, p.width)) && (ps.isEmpty || m.mayQuad (x.inst / 16))

/-- k of an ODU type (R16); ODUflex 1 to 640 as declared. -/
def typeK (ty k : Nat) : Bool :=
  match ty with
  | 0 => k == 1
  | 1 => k == 1
  | 2 => k == 2
  | 3 => k == 2
  | 4 => k == 8
  | 5 => k == 20
  | 6 => decide (1 ≤ k) && decide (k ≤ 640)
  | _ => false

/-- A line ODU that feeds a leaf core slot, or is fed by one, is the ODUflex of a leaf carrier (R102, R149). -/
def Image.leafFeed (m : Image) (i : Nat) : Bool :=
  m.outs.any fun d =>
    let src := (if d.kind = 0 then [] else [d.a]) ++ (if d.kind = 2 then [d.b] else [])
    (decide (40960 ≤ d.out) && src.contains i) || (d.out == i && src.any fun x => decide (40960 ≤ x))

/-- ODU (R16, R104, R105, R149, R353). The largest ODUflex rate is the one whose load at +130 ppm fills the 81,887 bytes of R105. -/
def okOdu (m : Image) : Bool :=
  distinct (m.odus.map (·.idx)) && (m.rows secODU 0).all fun e =>
    let d := oduDef e
    let s := m.oduSlots d.idx
    hKind (leAt e 0 4) == 2 && decide (d.idx < 40960) && typeK d.ty d.k && leAt e 5 1 == 0 && leAt e 14 2 == 0
      && (if d.ty = 6 then decide (1 ≤ d.rate) && decide (d.rate * 100013 ≤ d.k * 81887 * 64 * 100000) else d.rate == 0)
      && s.length == d.k && s.head? == some d.idx && m.mayQuad (d.idx / 10240)
      && (d.ty != 6 || !m.leafFeed d.idx || (d.k == 1 && d.rate == 4277738))
      && (match m.portOfOdu d.idx with
          | some p => s.all fun t => p.slices.contains (t / 20)
          | none => false)

/-- TS_MAP (R16, R104): every occupied slot names an ODU of the image, of the same port group: an ODU lies on one port. -/
def okTsMap (m : Image) : Bool :=
  (m.sections.filter fun x => x.ty == secTSMAP).all fun x =>
    x.entries.all fun e => leAt e 0 4 == 0 || (hKind (leAt e 0 4) == 2 && (m.odu? (hIdx (leAt e 0 4))).isSome && hIdx (leAt e 0 4) / 640 == x.inst)

/-- The object of a PM entity is defined by the image (R92). -/
def Image.entDefined (m : Image) (e : Nat) : Bool :=
  match pmEnt e with
  | .otuc v => (m.portOfSlice v).isSome
  | .port i => (m.port? (i / 8) (i % 8)).isSome
  | .odu i => (m.odu? i).isSome
  | .tcm i _ => (m.odu? i).isSome
  | .none => false

/-- One OH entry: fields in range, its level by its kind. -/
def okOhEnt (m : Image) (e : List Byte) : Bool :=
  let tcm := match pmEnt (leAt e 0 4) with
    | .tcm _ _ => true
    | _ => false
  m.entDefined (leAt e 0 4) && decide (leAt e 4 1 ≤ 3) && decide (leAt e 5 1 ≤ 1) && decide (leAt e 7 1 ≤ 1)
    && (if tcm then decide (1 ≤ leAt e 6 1) && decide (leAt e 6 1 ≤ 6) else leAt e 6 1 == 0 && leAt e 7 1 == 0)
    && leAt e 10 6 == 0

/-- OH (R82, R85): one entry per entity, levels distinct in an ODU, at most one position terminated, no position on an ODU of a
leaf carrier. -/
def okOh (m : Image) : Bool :=
  let l := m.rows secOH 0
  l.all (okOhEnt m) && distinct (l.map fun e => leAt e 0 4) && m.odus.all fun d =>
    let t := l.filter fun e => (List.range 3).any fun k => leAt e 0 4 == entTcm d.idx k
    distinct (t.map fun e => leAt e 6 1) && decide ((t.filter fun e => leAt e 7 1 == 1).length ≤ 1) && (t.isEmpty || !m.leafFeed d.idx)

/-- LEAF_CAR (R274, R353). -/
def okLeafCar (m : Image) : Bool :=
  (m.find secLEAFCAR 0).isNone || (m.mayLeaf && (m.rows secLEAFCAR 0).all fun e => decide (leAt e 0 1 ≤ 7) && leAt e 2 14 == 0)

/-- N of a leaf group type (R158 to R160). -/
def groupN (ty n : Nat) : Bool :=
  match ty with
  | 0 => decide (1 ≤ n) && decide (n ≤ 2048)
  | 1 => n == 33
  | 2 => n == 25
  | _ => false

/-- LEAF_GROUP (R19, R161, R274). -/
def okLeafGroup (m : Image) : Bool :=
  (m.find secLEAFGROUP 0).isNone || (m.mayLeaf && distinct (m.groups.map (·.idx)) && distinct (m.groups.filterMap (·.mon))
    && (m.groups.all fun g => m.carOn (g.idx / 65536) && groupN g.ty g.n && decide (g.idx % 65536 + g.n ≤ 65536))
    && (m.rows secLEAFGROUP 0).all fun e => hKind (leAt e 0 4) == 3 && leAt e 5 1 == 0 && decide (leAt e 10 1 ≤ 1) && leAt e 11 5 == 0)

/-- The form of one leaf map entry (R161, R162). -/
def okLeafEnt (m : Image) (w : Nat) : Bool :=
  match bits w 30 2 with
  | 0 => w % 1073741824 == 0
  | 1 => bits w 25 5 == 0 && m.carOn (w % 33554432 / 65536)
  | 2 =>
    bits w 27 3 == 0 && (match m.entry? secSREC 0 (w % 65536) with
      | some e => decide (bits w 16 11 ≤ leAt e 8 2 % 2048) && m.carOn (leAt e 0 4 % 33554432 / 65536) && m.carOn (leAt e 4 4 % 33554432 / 65536)
      | none => false)
  | _ => w % 1073741824 == 0

/-- Ingress leaf that slot `s` names through a KIND 1 or KIND 3 entry. -/
def Image.plainSrc (m : Image) (s : Nat) : Option Nat :=
  let w := m.leafEnt s
  match bits w 30 2 with
  | 1 => some (w % 33554432)
  | 3 => m.deferred s
  | _ => none

/-- What a map entry reads, however it is spelt: nothing, one ingress leaf (KIND 1 or 3), or a record and an offset (KIND 2). -/
def Image.slotSrcs (m : Image) (s : Nat) : Option Nat × Option Nat :=
  let w := m.leafEnt s
  (m.plainSrc s, if bits w 30 2 = 2 then some (w % 134217728) else none)

/-- Slot of leaf index `l` (R162). -/
def leafSlot (l : Nat) : Nat := 512 * (l % 65536) + l / 65536

/-- A clear-channel egress group is unconnected, or fed leaf for leaf from one ingress group of its type (R161). -/
def okClear (m : Image) (g : GroupDef) : Bool :=
  let slots := (List.range g.n).map fun i => leafSlot (g.idx + i)
  let ws := slots.map m.leafEnt
  let same := fun (a : Nat) => m.groups.any fun x => x.idx == a && x.ty == g.ty && x.n == g.n
  g.ty == 0 || (ws.all fun w => bits w 30 2 == 0)
    || (match m.plainSrc (leafSlot g.idx) with
        | some a => same a && ((List.range g.n).all fun i => m.plainSrc (leafSlot (g.idx + i)) == some (a + i))
        | none => false)
    || (match m.entry? secSREC 0 (ws.headD 0 % 65536) with
        | some e => bits (ws.headD 0) 30 2 == 2 && bits (leAt e 8 2) 11 2 == g.ty && leAt e 8 2 % 2048 + 1 == g.n
          && same (leAt e 0 4) && same (leAt e 4 4)
          && ((List.range g.n).all fun i => ws.getD i 0 == ws.headD 0 % 65536 + 65536 * i + 2147483648)
        | none => false)

/-- No two different leaves of a source set in one bank (R163). -/
def bankOk (l : List Nat) : Bool := distinct (l.eraseDups.map leafBank)

/-- The source set of read cycle `r` (R163). -/
def Image.sourceSet (m : Image) (r : Nat) : List Nat :=
  (List.range 256).flatMap fun i =>
    let w := m.leafEnt (256 * r + i)
    match bits w 30 2 with
    | 1 => [w % 33554432]
    | 2 => let x := m.srec (w % 65536); [x.1 + bits w 16 11, x.2 + bits w 16 11]
    | _ => []

/-- LEAF_MAP (R161 to R163, R353). -/
def okLeafMap (m : Image) : Bool :=
  match m.find secLEAFMAP 0 with
  | none => true
  | some x => m.mayLeaf && (x.entries.all fun e => okLeafEnt m (leAt e 0 4)) && m.groups.all (okClear m)
      && (List.range 131072).all fun r => bankOk (m.sourceSet r)

/-- One selector record (R161, R165, R178): it names its group with the group's legs as sources, their N and type, and is the
group's own record. -/
def okSrecEnt (m : Image) (r : Nat) (e : List Byte) : Bool :=
  let a := leAt e 0 4
  let b := leAt e 4 4
  let n := leAt e 8 2 % 2048 + 1
  decide (a < 33554432) && decide (b < 33554432) && a != b && decide (leAt e 8 2 < 8192) && groupN (bits (leAt e 8 2) 11 2) n
    && decide (leAt e 10 2 ≤ 1) && decide (a % 65536 + n ≤ 65536) && decide (b % 65536 + n ≤ 65536)
    && m.carOn (a / 65536) && m.carOn (b / 65536) && hKind (leAt e 12 4) == 4
    && (match m.prot? (hIdx (leAt e 12 4)) with
        | some d => d.ty == 2 && d.sel == r && a == hIdx d.w && b == hIdx d.p
            && m.groups.any fun g => g.idx == a && g.n == n && g.ty == bits (leAt e 8 2) 11 2
        | none => false)

/-- LEAF_SREC: every record keeps the rules; records stand at their index. -/
def okSrec (m : Image) : Bool :=
  (m.find secSREC 0).isNone || (m.mayLeaf && ((m.rows secSREC 0).zipIdx).all fun x => okSrecEnt m x.2 x.1)

/-- LEAF_DEF (R161, R163, R164). -/
def okDef (m : Image) : Bool :=
  match m.find secDEF 0 with
  | none => !((m.rows secLEAFMAP 0).any fun e => bits (leAt e 0 4) 30 2 == 3)
  | some x =>
    let ds := m.defs
    m.mayLeaf && decide (x.count ≤ 262144) && (x.entries.all fun e => bits (leAt e 0 4) 25 6 == 0 && decide (leAt e 4 4 < 33554432))
      && (ds.all fun d => m.carOn (d.2.1 / 65536) && bits (m.leafEnt d.2.2) 30 2 == 3) && distinct (ds.map (·.2.2))
      && ((List.range 1024).all fun c => bankOk ((ds.filter fun d => d.1 / 256 == c).map (·.2.1)))
      && (((m.rows secLEAFMAP 0).zipIdx).all fun y => bits (leAt y.1 0 4) 30 2 != 3 || ds.any fun d => d.2.2 == y.2)

/-- LEAF_REFMAP (R148). -/
def okRefMap (m : Image) : Bool :=
  (m.find secREFMAP 0).isNone || (m.mayLeaf && decide (m.countOf secREFMAP ≤ 32) && (m.rows secREFMAP 0).all fun e => leAt e 0 2 == 65535 || m.carOn (leAt e 0 2))

/-- The objects of a group's legs agree in type, k, rate, or leaf type and N (R178). -/
def sameLegs (m : Image) (d : ProtDef) : Bool :=
  if d.ty = 2 then
    let g := fun (h : Nat) => if hKind h = 3 then m.groups.find? (·.idx == hIdx h) else none
    match g d.w, g d.p with
    | some a, some b => a.ty == b.ty && a.n == b.n && m.carOn (a.idx / 65536) && m.carOn (b.idx / 65536)
    | _, _ => false
  else
    hKind d.w == 2 && hKind d.p == 2 && decide (hIdx d.w < 40960) && decide (hIdx d.p < 40960)
      && (m.objType (hIdx d.w)).isSome && m.objType (hIdx d.w) == m.objType (hIdx d.p)

/-- The ODU has the level (R85). -/
def Image.hasLevel (m : Image) (i level : Nat) : Bool :=
  level == 0 || (List.range 3).any fun k => (m.oh? (entTcm i k)).any fun o => o.level == level

/-- Selector and bridge of a group have the sources and legs of the group (R177, R178). -/
def okBridge (m : Image) (d : ProtDef) : Bool :=
  let w := hIdx d.w
  let p := hIdx d.p
  if d.ty = 2 then
    (match m.entry? secSREC 0 d.sel with
     | some e => leAt e 0 4 == w && leAt e 4 4 == p && leAt e 12 4 == handle 4 d.idx
     | none => false)
      && (match m.groups.find? (·.idx == w) with
          | some g => (List.range g.n).all fun i => m.slotSrcs (leafSlot (w + i)) == m.slotSrcs (leafSlot (p + i))
          | none => false)
  else
    (match m.out? d.sel with
     | some o => o.kind == 2 && o.a == w && o.b == p
     | none => false)
      && (match m.out? w, m.out? p with
          | some a, some b => a.kind == 1 && b.kind == (if d.ty = 1 then 3 else 1) && a.a == b.a && (d.ty != 1 || d.bridge == p)
          | _, _ => false)

/-- PROT (R177, R178). -/
def okProt (m : Image) : Bool :=
  let gs := m.prots
  distinct (gs.map (·.idx)) && distinct (gs.flatMap fun d => [d.w, d.p])
    && distinct ((gs.filter fun d => d.ty == 2).map (·.sel)) && distinct ((gs.filter fun d => d.ty != 2).map (·.sel))
    && ((m.rows secPROT 0).all fun e => hKind (leAt e 0 4) == 4 && decide (hIdx (leAt e 0 4) < 65536) && decide (leAt e 4 1 ≤ 2)
        && decide (leAt e 5 1 ≤ 7) && decide (leAt e 6 1 ≤ 6) && leAt e 7 1 == 0 && leAt e 28 4 == 0)
    && gs.all fun d =>
      d.w != d.p && sameLegs m d && okBridge m d && (d.ty != 1 || d.bidir) && decide (d.hold ≤ 80000) && decide (8000 ≤ d.wtr)
        && decide (d.wtr ≤ 5760000)
        && (d.ty == 2 || d.snci || (m.hasLevel (hIdx d.w) d.level && m.hasLevel (hIdx d.p) d.level))

/-! Programs (R247 to R249, R253, R261). -/

/-- An action word (R250). -/
structure AWord where
  slot : Nat
  pred : Nat
  pneg : Bool
  op : Nat
  x : Nat
  y : Nat
  z : Nat
  deriving DecidableEq, Repr

/-- The fields of an action word. -/
def aWord (w : Nat) : AWord := ⟨bits w 45 19, bits w 41 4, bitAt w 40, bits w 34 6, bits w 30 4, bits w 26 4, bits w 0 26⟩

/-- The command that an action word is when engine `e` issues it as word `k` of its program (R250, R251): a reserved opcode is a dropped action
(R258). -/
def AWord.instr (a : AWord) (e k : Nat) : Instr :=
  let at_ : Act := { eng := e, slot := a.slot, k := k, pred := a.pred, pneg := a.pneg }
  let vz := a.z % 16
  let imm := BitVec.ofNat 26 a.z
  match a.op with
  | 0x00 => .nop at_
  | 0x01 => .add at_ a.x a.y vz
  | 0x02 => .sub at_ a.x a.y vz
  | 0x03 => .and at_ a.x a.y vz
  | 0x04 => .or at_ a.x a.y vz
  | 0x05 => .xor at_ a.x a.y vz
  | 0x06 => .shl at_ a.x a.y vz
  | 0x07 => .shr at_ a.x a.y vz
  | 0x08 => .minu at_ a.x a.y vz
  | 0x09 => .maxu at_ a.x a.y vz
  | 0x0A => .satadd32 at_ a.x a.y vz
  | 0x0B => .addi at_ a.x a.y imm
  | 0x0C => .movi at_ a.x imm
  | 0x0D => .ext at_ a.x a.y (bits a.z 6 6) (bits a.z 0 6)
  | 0x0E => .ins at_ a.x a.y (bits a.z 6 6) (bits a.z 0 6)
  | 0x0F => .sel at_ a.x a.y vz (bits a.z 4 4)
  | 0x10 => .cmp at_ a.x a.y vz (bits a.z 4 4)
  | 0x11 => .cmpi at_ a.x a.y (bits a.z 22 4) (BitVec.ofNat 22 a.z)
  | 0x12 => .pset at_ a.x a.y vz (bits a.z 4 2) (bitAt a.z 6)
  | 0x13 => .testb at_ a.x a.y (bits a.z 0 6)
  | 0x18 => .ld at_ a.x (bits a.z 0 16) 0
  | 0x19 => .st at_ a.x (bits a.z 0 16)
  | 0x1A => .cntdn at_ a.x (bits a.z 0 16) 0
  | 0x1B => .cntup at_ a.x (bits a.z 0 16) 0
  | 0x20 => .get at_ a.x (bits a.z 0 16)
  | 0x21 => .put at_ a.x (bits a.z 0 16)
  | 0x22 => .post at_ a.x (bits a.z 16 2 + 1) (bits a.z 0 16)
  | 0x30 => .mark at_ a.x
  | op => .nop { at_ with raw := op }

/-- Latency of an opcode (R251). -/
def opLat (op : Nat) : Nat := if op = 0x18 || op = 0x1A || op = 0x1B then 3 else if op = 0x20 then 2 else 1

/-- What an action uses, none where its opcode, condition or a field is not valid (R249, R251). DESIGN CHOICE (log entry 149): operand fields that an action does
not use must be 0 in X and Y too, as R250 says of Z. -/
def AWord.use (a : AWord) : Option Use :=
  let vz := a.z % 16
  let noY := a.y == 0
  let u : Option Use :=
    if a.op = 0 then (if a.x = 0 && noY && a.z = 0 then some {} else none)
    else if a.op ≤ 0x0A then (if a.z < 16 then some { rv := [a.y, vz], wv := some a.x } else none)
    else if a.op = 0x0B then some { rv := [a.y], wv := some a.x }
    else if a.op = 0x0C then (if noY then some { wv := some a.x } else none)
    else if a.op = 0x0D || a.op = 0x0E then
      (if a.z < 4096 && bits a.z 6 6 + bits a.z 0 6 ≤ 63 then
        some { rv := if a.op = 0x0E then [a.x, a.y] else [a.y], wv := some a.x } else none)
    else if a.op = 0x0F then (if a.z < 256 then some { rv := [a.y, vz], rp := [bits a.z 4 4], wv := some a.x } else none)
    else if a.op = 0x10 then (if a.z < 256 && bits a.z 4 4 ≤ 5 then some { rv := [a.y, vz], wp := some a.x } else none)
    else if a.op = 0x11 then (if bits a.z 22 4 ≤ 5 then some { rv := [a.y], wp := some a.x } else none)
    else if a.op = 0x12 then (if a.z < 128 then some { rp := [a.y, vz], wp := some a.x } else none)
    else if a.op = 0x13 then (if a.z < 64 then some { rv := [a.y], wp := some a.x } else none)
    else if a.op = 0x18 then (if a.z < 65536 && noY then some { wv := some a.x, rd := 1 } else none)
    else if a.op = 0x19 then (if a.z < 65536 && noY then some { rv := [a.x], wr := 1 } else none)
    else if a.op = 0x1A || a.op = 0x1B then (if a.z < 65536 && noY then some { wp := some a.x, rd := 1, wr := 1 } else none)
    else if a.op = 0x20 then (if a.z < 65536 && noY then some { wv := some a.x, get := some a.z } else none)
    else if a.op = 0x21 then (if a.z < 65536 && noY then some { rv := [a.x], put := some a.z } else none)
    else if a.op = 0x22 then
      (let n := bits a.z 16 2 + 1
       if a.z < 262144 && noY && a.x + 2 * n ≤ 16 then
         some { rv := (List.range (2 * n)).map (a.x + ·), post := some (n, a.z % 65536) } else none)
    else if a.op = 0x30 then (if a.z = 0 && noY then some { rv := [a.x] } else none)
    else none
  match u with
  | some u => if u.wp = some 0 then none else some { u with rp := a.pred :: u.rp }
  | none => none

/-- What a check of a program carries from word to word: the next index, last slot, when each register and predicate is
ready, the engine cycle in hand with its ports and writes, when POST is free, the words written, post units and bus words. -/
structure PChk where
  k : Nat := 0
  last : Option Nat := none
  vr : List (Nat × Nat × Nat) := []
  pr : List (Nat × Nat × Nat) := []
  cyc : Nat := 0
  rd : Nat := 0
  wr : Nat := 0
  get : Nat := 0
  put : Nat := 0
  free : Nat := 0
  wrote : List Nat := []
  units : Nat := 0
  bus : List (Nat × Nat) := []
  ok : Bool := true
  deriving DecidableEq, Repr

/-- Register `i` may be read in cycle `c`: every earlier producer's latency has passed (R248). -/
def ready (l : List (Nat × Nat × Nat)) (i c : Nat) : Bool := l.all fun x => x.1 != i || decide (c ≤ x.2.1) || decide (x.2.2 ≤ c)

/-- Register `i` is written by no other action of cycle `c`. -/
def freeReg (l : List (Nat × Nat × Nat)) (i c : Nat) : Bool := l.all fun x => x.1 != i || x.2.1 != c

/-- A producer that may still matter at cycle `c`: the longest latency is 3. -/
def recent (l : List (Nat × Nat × Nat)) (c : Nat) : List (Nat × Nat × Nat) := l.filter fun x => decide (c < x.2.1 + 4)

/-- A destination table entry of engine `e` in an image. -/
def Image.dst (m : Image) (e i : Nat) : Option Nat := (m.entry? secDST e i).map leNat

/-- One word of engine `e`'s program (R247, R248, R249, R314). -/
def progStep (m : Image) (e : Nat) (s : PChk) (w : Nat) : PChk :=
  let a := aWord w
  let c := a.slot / 4
  let s := if c = s.cyc then s else { s with cyc := c, rd := 0, wr := 0, get := 0, put := 0 }
  match a.use with
  | none => { s with ok := false }
  | some u =>
    let dst := (u.put.orElse fun _ => u.post.map (·.2)).bind (m.dst e)
    let kindOk := (match u.put with
        | some _ => (match dst with
          | some w => decide (1 ≤ entKind w) && (decide (entKind w ≤ 5) || entKind w == 7)
          | none => false)
        | none => true) && (match u.post with
        | some (n, _) => (match dst with
          | some w => entKind w == 8 && n == 4 || entKind w == 6 && (match m.queue? (entIndex w) with
            | some q => !q.fromHost && q.units == n
            | none => false)
          | none => false)
        | none => true) && (match u.get with
        | some i => (m.entry? secSRC e i).isSome
        | none => true)
    let good := decide (a.slot < Config.tailSlot) && (match s.last with
        | some l => decide (l < a.slot)
        | none => true) && decide (fetchCycle s.k ≤ c) && (u.rv.all fun i => ready s.vr i c)
      && (u.rp.all fun i => i == 0 || ready s.pr i c) && decide (s.rd + u.rd ≤ 2) && decide (s.wr + u.wr ≤ 1)
      && !(u.get.isSome && s.get != 0) && !(u.put.isSome && s.put != 0) && !(u.post.isSome && decide (c < s.free)) && kindOk
      && (match u.wv with
        | some i => freeReg s.vr i c
        | none => true) && (match u.wp with
        | some i => freeReg s.pr i c
        | none => true)
    { s with
      k := s.k + 1, last := some a.slot, ok := s.ok && good, rd := s.rd + u.rd, wr := s.wr + u.wr,
      get := s.get + nat01 u.get.isSome, put := s.put + nat01 u.put.isSome,
      vr := (match u.wv with
        | some i => [(i, c, c + opLat a.op)]
        | none => []) ++ recent s.vr c,
      pr := (match u.wp with
        | some i => [(i, c, c + opLat a.op)]
        | none => []) ++ recent s.pr c,
      free := (match u.post with
        | some (n, _) => c + n
        | none => s.free),
      units := s.units + (match u.post with
        | some (n, _) => n
        | none => 0),
      wrote := if u.wr = 0 || s.wrote.contains a.z then s.wrote else s.wrote ++ [a.z],
      bus := (match u.put with
        | some _ => (match dst.bind (busTo e) with
          | some q => tabSet 0 s.bus q (tabGet 0 s.bus q + 1)
          | none => s.bus)
        | none => s.bus) }

/-- The program of engine `e` judged from its first word. -/
def progCheck (m : Image) (e : Nat) : PChk := ((m.rows secPROG e).map leNat).foldl (progStep m e) {}

/-- The reservation entry `i` of engine `e` (R261). -/
def Image.rsv (m : Image) (e i : Nat) : Nat := leAt (m.entry secRSV e i) 0 4

/-- The slots engine `e`'s duty map charges to handle `h` (R260): first slots, each with the first slot after it. -/
def Image.dutySlots (m : Image) (e h : Nat) : List (Nat × Nat) :=
  let l := (m.rows secDUTY e).map fun x => (leAt x 0 4 % 524288, leAt x 4 4)
  (l.filter fun x => x.2 == h).map fun x => (x.1, l.foldl (fun n y => if x.1 < y.1 then min n y.1 else n) 400000)

/-- The slots of the duty of handle `h` in engine `e`, none unless exactly one duty-map entry names it (R193). -/
def Image.duty (m : Image) (e h : Nat) : Option (Nat × Nat) :=
  match m.dutySlots e h with
  | [x] => some x
  | _ => none

/-- The actions of engine `e`'s program in the duty of handle `h`. -/
def Image.dutyActs (m : Image) (e h : Nat) : List AWord :=
  let r := m.dutySlots e h
  if r.isEmpty then [] else ((m.rows secPROG e).map fun x => aWord (leNat x)).filter fun a => r.any fun x => decide (x.1 ≤ a.slot) && decide (a.slot < x.2)

/-- The duty-state words of handle `h` (R23): the state addresses that LD, ST, CNTDN and CNTUP of its duty name, in program order (DEDUCED, log
entry 124). -/
def Image.dutyWords (m : Image) (h : Nat) : List Nat :=
  match m.owner? h with
  | some e => (((m.dutyActs e h).filter fun a => decide (0x18 ≤ a.op) && decide (a.op ≤ 0x1B)).map (·.z)).eraseDups
  | none => []

/-- The duty-state words that a graft carries over for handle `h`: old engine and address, new engine and address (R23, R134). -/
def carried (base result : Image) (h : Nat) : List ((Nat × Nat) × Nat × Nat) :=
  match base.owner? h, result.owner? h with
  | some a, some b => (List.zip (base.dutyWords h) (result.dutyWords h)).map fun x => ((a, x.1), b, x.2)
  | _, _ => []

/-- Every object of an image that has an owner. -/
def Image.owned (m : Image) : List Nat := (m.rows secOWN 0).map fun e => leAt e 0 4

/-- A graft moves at most 14,400 words of duty state into one quadrant (R24). -/
def moveFault (base result : Image) : List Nat :=
  let moves := (result.owned.flatMap (carried base result)).filter fun x => x.1.1 != x.2.1
  if (List.range 4).all fun q => decide ((moves.filter fun x => engQuad x.2.1 == q).length ≤ 14400) then [] else [secOWN]

/-- The quadrant a leg's defects come from; 4 for the leaf stage. -/
def legQuad (h : Nat) : Nat := if hKind h = 3 then 4 else slotQuad (hIdx h)

/-- The writes of a group's evaluation (R177, R187, R190): destination kinds and indices. -/
def evalWrites (d : ProtDef) : List (Nat × Nat) :=
  if d.ty = 2 then [(3, d.sel), (5, hIdx d.w), (5, hIdx d.p)]
  else [(1, d.sel), (4, 8 * hIdx d.p + d.level)] ++ if d.ty = 1 then [(2, d.bridge)] else []

/-- One evaluation of a group in its owner's program, read and written in time (R193; what makes one up: DEDUCED, log entry 125): in the
group's duty a GET and a PUT to each of its destinations, every GET at offset 2,402 or later when a leg lies across the bus (2 otherwise),
and every PUT at 197,599 or earlier when its destination does (197,999 otherwise). -/
def okEval (m : Image) (d : ProtDef) : Bool :=
  match m.owner? (handle 4 d.idx) with
  | none => true
  | some e =>
    let acts := m.dutyActs e (handle 4 d.idx)
    let put := fun (a : AWord) => if a.op = 0x21 then m.dst e a.z else none
    let remote := legQuad d.w != engQuad e || legQuad d.p != engQuad e
    (m.duty e (handle 4 d.idx)).isSome && acts.any (·.op == 0x20)
      && ((evalWrites d).all fun x => acts.any fun a => (put a).any fun w => entKind w == x.1 && entIndex w == x.2)
      && acts.all fun a =>
        let o := 2 * (a.slot / 4)
        if a.op = 0x20 then decide ((if remote then 2402 else 2) ≤ o)
        else
          match put a with
          | some w => decide (o ≤ if (busTo e w).isSome then 197599 else 197999)
          | none => true

/-- ENG_PROG: every program (R247 to R249), at most 8,192 words written (R253), the evaluations (R193), and quadrants (R353). -/
def okProg (m : Image) : Bool :=
  (m.sections.filter fun x => x.ty == secPROG).all (fun x =>
    let c := progCheck m x.inst
    c.ok && decide (c.wrote.length ≤ 8192) && (x.count == 0 || m.mayQuad (engQuad x.inst))) && m.prots.all (okEval m)

/-- ENG_SRC: kinds of R252, no handle of a reserved kind (R9). -/
def okSrc (m : Image) : Bool :=
  (m.sections.filter fun x => x.ty == secSRC).all fun x =>
    x.entries.all fun e => decide (1 ≤ entKind (leNat e)) && decide (entKind (leNat e) ≤ 7) && !hReserved (entObj (leNat e))

/-- ENG_DST: kinds of R252, no handle of a reserved kind (R9). -/
def okDst (m : Image) : Bool :=
  (m.sections.filter fun x => x.ty == secDST).all fun x =>
    x.entries.all fun e => decide (1 ≤ entKind (leNat e)) && decide (entKind (leNat e) ≤ 8) && !hReserved (entObj (leNat e))

/-- ENG_DUTY (R260, R353). -/
def okDuty (m : Image) : Bool :=
  (m.sections.filter fun x => x.ty == secDUTY).all fun x =>
    (x.count == 0 || m.mayQuad (engQuad x.inst)) && x.entries.all fun e => bits (leAt e 0 4) 19 13 == 0 && !hReserved (leAt e 4 4)

/-- The quadrant a source entry reads from, 4 for the leaf stage; none for what the engine has at hand (R252). -/
def srcQuad (kind index : Nat) : Option Nat :=
  if kind = 1 || kind = 4 then some (keyQuad index)
  else if kind = 2 then some (slotQuad (index / 8))
  else if kind = 3 then some 4
  else if kind = 6 then some (if index < 65536 then slotQuad index else 4)
  else none

/-- The state words that quadrant `q` publishes for the engines of quadrant `t` (R26, R193). -/
def Image.inputWords (m : Image) (q t : Nat) : Nat :=
  ((List.range 16).flatMap fun k => (m.rows secSRC (16 * t + k)).filter fun e => srcQuad (entKind (leNat e)) (entIndex (leNat e)) == some q).length

/-- Every remote input and every remote write has a word of its bus: 200,000 a frame for each ordered pair (R26, R193). -/
def okBus (m : Image) : Bool :=
  (List.range 5).all fun q => (List.range 5).all fun t =>
    q == t || decide ((if t < 4 then m.inputWords q t else 0)
      + (if q < 4 then ((List.range 16).map (16 * q + ·)).foldl (fun n e =>
          n + (if t < 4 then m.rsv e (1 + t) else tabGet 0 (progCheck m e).bus 4)) 0 else 0) ≤ 200000)

/-- ENG_RSV (R261). -/
def okRsv (m : Image) : Bool :=
  let es := fun (q : Nat) => (List.range 16).map (16 * q + ·)
  ((List.range 4).all fun q =>
      decide ((es q).foldl (fun n e => n + m.rsv e 0) 0 ≤ 190000)
        && (List.range 4).all fun t => decide ((es q).foldl (fun n e => n + m.rsv e (1 + t)) 0 ≤ 190000)
          && (t != q || (es q).all fun e => m.rsv e (1 + t) == 0))
    && okBus m && (m.sections.filter fun x => x.ty == secPROG).all fun x =>
      let c := progCheck m x.inst
      decide (c.units ≤ m.rsv x.inst 0) && (List.range 4).all fun t => decide (tabGet 0 c.bus t ≤ m.rsv x.inst (1 + t))

/-- ENG_INIT (R274). -/
def okInit (m : Image) : Bool :=
  (m.sections.filter fun x => x.ty == secINIT).all fun x => x.entries.all fun e => leAt e 2 6 == 0

/-- The objects that need an owner (R21): ports, ODUs (with that of each declared leaf carrier, R150), leaf groups, protection
groups, queues, references. DESIGN CHOICE (log entry 111): a reference is declared by a TIM_REF entry with TYPE other than 0,
whatever its priority; a DMA post is no object beside the queue it goes to. -/
def Image.objects (m : Image) : List Nat :=
  (m.ports.map fun p => handle 1 p.idx) ++ (m.odus.map fun d => handle 2 d.idx) ++ (m.carriers.map fun c => handle 2 (40960 + c))
    ++ (m.groups.map fun g => handle 3 g.idx)
    ++ (m.prots.map fun d => handle 4 d.idx) ++ (m.queues.map fun q => handle 5 q.q)
    ++ ((List.range 48).filter fun n => leAt (m.entry secTIMREF 0 n) 0 4 % 16 != 0).map (handle 6)

/-- OWNERSHIP (R21, R276, R353): one owner for every object, and no other entry. -/
def okOwn (m : Image) : Bool :=
  let l := m.rows secOWN 0
  let hs := l.map fun e => leAt e 0 4
  rising hs && (m.objects.all fun h => hs.contains h) && (hs.all fun h => m.objects.contains h)
    && l.all fun e => decide (leAt e 4 1 < 64) && leAt e 5 3 == 0 && m.mayQuad (engQuad (leAt e 4 1))

/-- A queue entry's fields (R314). -/
def okQueueEnt (m : Image) (e : List Byte) : Bool :=
  let d := queDef e
  let r := m.region 12
  let n := 2 ^ d.log2 * d.units * 16
  decide (leAt e 1 1 ≤ 1) && decide (d.q < 4096) && decide (1 ≤ d.units) && decide (d.units ≤ 4) && decide (4 ≤ d.log2)
    && decide (d.log2 ≤ 16) && decide (d.chan < 64) && leAt e 7 1 == 0 && leAt e 28 4 == 0 && d.base % 256 == 0
    && decide (r.1 ≤ d.base) && decide (d.base + n ≤ r.1 + r.2) && (m.chan? d.chan).isSome && decide (d.lo < d.hi)
    && decide (d.hi ≤ 2 ^ d.log2) && decide (d.flush < 65536)

/-- A channel entry's fields (R314). -/
def okChanEnt (e : List Byte) : Bool :=
  decide (leAt e 1 1 ≤ 7) && decide (leAt e 2 2 < 64) && leAt e 4 4 == 0 && leAt e 8 8 % 65536 == 0 && decide (leAt e 8 8 < 1099511627776)
    && decide (leAt e 16 4 < 262144) && decide (leAt e 20 4 < 16777216) && leAt e 24 8 == 0

/-- A role entry (R314, R356). -/
def okRoleEnt (m : Image) (e : List Byte) : Bool :=
  let r := leAt e 1 1
  let gcc := r == 6 || r == 7
  decide (1 ≤ r) && decide (r ≤ 7) && leAt e 6 2 == 0 && leAt e 12 20 == 0
    && (if r ≤ 4 then decide (leAt e 4 1 ≤ 3) else leAt e 4 1 == 0)
    && (if gcc then decide (leAt e 5 1 ≤ 2) else leAt e 5 1 == 0)
    && (if gcc then hKind (leAt e 8 4) == 1 && (m.port? (hIdx (leAt e 8 4) / 8) (hIdx (leAt e 8 4) % 8)).isSome else leAt e 8 4 == 0)
    && (match m.queue? (leAt e 2 2) with
        | some q => if r = 7 then q.fromHost && q.units == 4 else !q.fromHost && q.units == (if r = 6 then 4 else 1)
        | none => false)

/-- The key that at most one role entry may have (R356). -/
def roleKey (e : List Byte) : Nat := leAt e 1 1 + 256 * leAt e 4 1 + 65536 * leAt e 5 1 + 16777216 * leAt e 8 4

/-- QUEUE (R314, R356). -/
def okQueue (m : Image) : Bool :=
  let l := m.rows secQUEUE 0
  let of := fun (k : Nat) => l.filter fun e => leAt e 0 1 == k
  let win := (m.rows secHOSTWIN 0).foldl (fun n e => n + leAt e 4 4) 0
  let tx := (of 3).filter fun e => leAt e 1 1 == 7
  (l.all fun e => decide (1 ≤ leAt e 0 1) && decide (leAt e 0 1 ≤ 3)) && (of 1).all (okQueueEnt m) && (of 2).all okChanEnt
    && (of 3).all (okRoleEnt m) && distinct (m.queues.map (·.q)) && distinct ((of 2).map fun e => leAt e 2 2)
    && distinct ((of 3).map roleKey) && !anyMeet (m.queues.map fun d => (d.base, 2 ^ d.log2 * d.units * 16))
    && decide (((of 2).foldl (fun n e => n + leAt e 16 4) 0) * 8 ≤ win)
    && (((of 3).filter fun e => leAt e 1 1 == 6 || leAt e 1 1 == 7).all fun e =>
        (of 3).any fun x => leAt x 1 1 == 13 - leAt e 1 1 && leAt x 5 1 == leAt e 5 1 && leAt x 8 4 == leAt e 8 4)
    && tx.all fun e => ((of 3).filter fun x => leAt x 2 2 == leAt e 2 2).length == 1

/-- TIM_REF (R201, R353). -/
def okTimRef (m : Image) : Bool :=
  (((m.rows secTIMREF 0).zipIdx).all fun x =>
    let ty := leAt x.1 0 4 % 16
    let n := x.2
    decide (ty ≤ 6) && decide (bits (leAt x.1 0 4) 4 3 ≤ 4)
      && (if ty = 0 then true else if ty ≤ 4 then decide (n < 8) else if ty = 5 then decide (8 ≤ n) && decide (n < 40)
          else n == 40 && m.global 2 1 == 1)
      && (decide (n ≤ 40) || (ty == 0 && leAt x.1 4 4 % 16 == 0)) && (n != 40 || ty == 0 || m.mayMate))

/-- XBAR (R306). -/
def okXbar (m : Image) : Bool :=
  let l := m.rows secXBAR 0
  distinct (l.map fun e => leAt e 0 1) && l.all fun e =>
    decide (1 ≤ leAt e 0 1) && decide (leAt e 0 1 ≤ 4) && decide (leAt e 1 1 ≤ 1)
      && ((List.range 8).all fun k => decide (leAt e (2 + k) 1 ≤ 7)) && decide (16 ≤ leAt e 10 2) && leAt e 12 4 == 0

/-- The plan of a power domain (R330): 0 OFF, 1 ON_IDLE, 2 USED. -/
def Image.plan (m : Image) (d : Nat) : Nat :=
  match (m.rows secPOWER 0).find? fun e => leAt e 0 1 == d with
  | some e => leAt e 1 1
  | none => 0

/-- POWER (R330, R353). -/
def okPower (m : Image) (x : Fuses) : Bool :=
  let l := m.rows secPOWER 0
  distinct (l.map fun e => leAt e 0 1)
    && (l.all fun e =>
      let d := leAt e 0 1
      decide (d ≤ 66) && decide (leAt e 1 1 ≤ 2) && leAt e 2 6 == 0
        && (leAt e 1 1 == 0 || (x.dom d && (if d < 64 then m.mayQuad (d / 16) else if d = 64 then m.mayLeaf else if d = 65 then m.mayMate else true))))
    && ((List.range 64).all fun g => ((List.range 8).all fun p => (m.port? g p).isNone) || m.plan g == 2)
    && (m.carriers.isEmpty || m.plan 64 == 2) && (if m.global 2 1 = 1 then m.plan 65 == 2 else m.plan 65 == 0) && m.plan 66 == 2

/-- Every section's data has the form its OP asks (R275): judged on the container. -/
def badData (f : Nat → Byte) : List Nat :=
  (directory f).filterMap fun d =>
    let r := sectionRuns f d
    if r.2 && (r.1.all fun x => decide (x.first + x.count ≤ d.count)) && !(d.ty == secROOT && d.op == 1) then none else some d.ty

/-- Section types whose format rules the result image breaks (R274 to R278, R353 and the chapters' own), lowest first. -/
def badTypes (m : Image) (x : Fuses) : List Nat :=
  let checks : List (Nat × Bool) := [
    (secGLOBAL, okGlobal m), (secHBM, okHbm m), (secHOSTWIN, okHostWin m), (secTRUNKOUT, okTrunkOut m), (secING, okIng m),
    (secMID, okMid m), (secEGR, okEgr m), (secCYCLE, okCycle m), (secLAT, okLat m), (secPORT, okPort m), (secODU, okOdu m),
    (secTSMAP, okTsMap m), (secOH, okOh m), (secLEAFCAR, okLeafCar m), (secLEAFGROUP, okLeafGroup m), (secLEAFMAP, okLeafMap m),
    (secSREC, okSrec m), (secDEF, okDef m), (secREFMAP, okRefMap m), (secPROT, okProt m), (secPROG, okProg m), (secSRC, okSrc m),
    (secDST, okDst m), (secDUTY, okDuty m), (secRSV, okRsv m), (secINIT, okInit m), (secOWN, okOwn m), (secQUEUE, okQueue m),
    (secTIM, m.countOf secTIM == 1), (secTIMREF, okTimRef m), (secXBAR, okXbar m), (secPOWER, okPower m x),
    (secROOT, decide (1 ≤ m.countOf secROOT))]
  (checks.filter fun c => !c.2).map (·.1)

/-- The lowest type of a list of faults as an E_FORMAT (log entry 25). -/
def lowest (l : List Nat) : Option (Nat × Nat) :=
  match l with
  | [] => none
  | a :: r => some (eFORMAT, r.foldl min a)

/-- Steps 5 to 7 of R284 for a full image. -/
def fullFault (x : Fuses) (f : Nat → Byte) : Option (Nat × Nat) :=
  let m := readImage f
  ((variantFault x m.required).orElse fun _ => dirFault f true m.regions).orElse fun _ =>
    (resourceFault m).orElse fun _ => lowest ((if hdrZeros f true then [] else [0]) ++ badData f ++ badTypes m x)

/-- Step 2 of R284 from the slot record: length and digest the record states, then the header (R284). -/
def slotFault (f : Nat → Byte) (len : Nat) (digest : List Byte) : Option (Nat × Nat) :=
  if len ≠ hdr f 12 4 * 65536 || digest != content f 128 32 then some (eFORMAT, 0) else hdrFault f 1 0x20000000

/-- Step 3 of R284 and step 2 of R128: the first bad block. -/
def blockFault (f : Nat → Byte) : Option Nat := badBlock f (hdr f 12 4)

/-- What a graft must not change (R132): REQUIRED, the fixed GLOBAL fields, the slot-cycle map. -/
def graftKeeps (base delta result : Image) : List Nat :=
  let g := fun (m : Image) => [m.global 2 1, m.global 3 1, m.global 4 1, m.global 5 1, m.global 6 4, m.global 10 1]
  (if delta.required = base.required && g base == g result then [] else [0])
    ++ (if base.rows secCYCLE 0 == result.rows secCYCLE 0 then [] else [secCYCLE])

/-- The checks of a delta (R128): the fault, or the result image. `base` is the base image of the entry, `expect` its
expected base digest. -/
def deltaFault (x : Fuses) (f : Nat → Byte) (base : Image) (expect : List Byte) : Option (Nat × Nat) :=
  let early : Option (Nat × Nat) :=
    (hdrFault f 2 0x4000000).orElse fun _ =>
      (match blockFault f with
       | some _ => some (eCRC, 0)
       | none => none : Option (Nat × Nat)).orElse fun _ =>
        (digestFault f false).orElse fun _ => variantFault x (hdr f 8 4)
  early.orElse fun _ =>
    if content f 96 32 != expect then some (eBASE, 0)
    else
      let delta := readImage f
      let result := mergeImage base delta
      (dirFault f false result.regions).orElse fun _ =>
        (resourceFault result).orElse fun _ =>
          let big := decide (0x4000000 < (directory f).foldl (fun n d => n + d.len) 0)
          let root := (directory f).any fun d => d.ty == secROOT
          lowest ((if hdrZeros f false && !big then [] else [0]) ++ (if root then [secROOT] else []) ++ badData f
            ++ graftKeeps base delta result ++ moveFault base result ++ badTypes result x)

/-- The checks of a rollback (R141): steps 4, 6 and 7. -/
def rollFault (x : Fuses) (base result : Image) : Option (Nat × Nat) :=
  (variantFault x result.required).orElse fun _ =>
    (resourceFault result).orElse fun _ => lowest (graftKeeps base result result ++ moveFault base result ++ badTypes result x)

end Sys2Proof.Machine
end

