-- ==== Sys2Proof/Decode.lean ====
section
/-! DEFINITION. Commands as words. The opcode table gives no row any bits: the block's commands are register accesses, events and operations of its
links (R11, R35, R298). The one word of the spec that spells a command is the action word of an engine program (R250). -/

namespace Sys2Proof

/-- The command that a 64-bit action word is as word `k` of engine `e`'s program (R250, R251); none where a field is out of range. -/
def decodeAction (e k w : Nat) : Option Instr :=
  let i := (Machine.aWord w).instr e k
  if i.wf then some i else none

/-- The command a word spells: an action word, read as the first of engine 0; the table itself gives no row any bits. -/
def decodeTableWord (nbits w : Nat) : Option Instr := if nbits = 64 then decodeAction 0 0 w else none

end Sys2Proof
end

