-- ==== Sys2Proof/Machine/Power.lean ====
section
/-! DEFINITION. Power states and domains (spec/14_lifecycle_power.md): the power state, domains that rise, drain and are
isolated, native and legacy requests. -/

namespace Sys2Proof.Machine

/-- STATE of a domain: 0 OFF, 1 POWERING, 2 ON, 3 DRAIN (R329). -/
def State.domSt (s : State) (d : Nat) : Nat := s.fld (Reg.PWR_DOM_STAT d) F.PWR_DOM_STAT_STATE

/-- PLAN of a domain: 0 OFF, 1 ON_IDLE, 2 USED (R330). -/
def State.domPlan (s : State) (d : Nat) : Nat := s.fld (Reg.PWR_DOM_STAT d) F.PWR_DOM_STAT_PLAN

/-- The power state outside RESET: 0 RUN, 1 TRIM, 2 QUIET (R328). -/
def State.pwrState (s : State) : Nat :=
  if !s.released || s.quiet || s.inReturn then 2
  else if (List.range 67).all fun d => !s.fuses.dom d || s.domOn d then 0 else 1

/-- Show the power state. -/
def pwrShow (s : State) : State := s.setFld Reg.PWR_STAT F.PWR_STAT_STATE s.pwrState

/-- The CSR offsets of a domain's blocks (R301). -/
def domCsr (d : Nat) : Nat × Nat :=
  if d < 64 then (0x1000000 + 0x10000 * d, 0x1010000 + 0x10000 * d)
  else if d = 64 then (0x3000000, 0x4000000)
  else if d = 65 then (0x600000, 0x700000)
  else (0, 0)

/-- The registers of a domain take their reset values (R329); MATE_CFG, the role and the bases of the leaf stage, which the image gives, come
again from the image when boot step 7 ends and at a graft (`domImage`; DEDUCED, log entry 87). -/
def domRegs (s : State) (d : Nat) : State :=
  let r := domCsr d
  let away := fun (a : Nat) => decide (r.1 ≤ a) && decide (a < r.2)
  { s with regs := s.regs.filter fun e => !away e.1, snap := s.snap.filter fun e => !away e.1 }

/-- The unit's pairing as the image declares it (R225, R226): MATE_CFG, and the role that a reset leads to. -/
def mateSettings (s : State) (m : Image) : State :=
  let s := s.wr Reg.MATE_CFG (m.global 2 1 % 2 + 2 * (m.global 3 1 % 2) + 256 * m.global 4 1)
  if s.paired then (s.setFld Reg.MATE_STAT F.MATE_STAT_ROLE roleDIVERGED).setFld Reg.MATE_STAT F.MATE_STAT_REASON 1
  else s.setFld Reg.MATE_STAT F.MATE_STAT_ROLE roleSTANDALONE

/-- The leaf stage's history and trace regions (R173, R278). -/
def leafBases (s : State) (m : Image) : State :=
  (s.wrPair Reg.LEAF_PM_BASE_LO (m.region 6).1).wrPair Reg.LEAF_TRACE_BASE_LO (m.region 7).1

/-- The content of an isolated domain is lost (R332). -/
def domLoss (s : State) (d : Nat) : State :=
  let s := domRegs s d
  if d < 64 then
    { s with lanes := Tab.dropRange s.lanes (17 * d) (17 * d + 17), spares := Tab.dropRange s.spares d (d + 1),
             txSf := Tab.dropRange s.txSf (17 * d) (17 * d + 17), slices := Tab.dropRange s.slices (32 * d) (32 * d + 32) }
  else if d = 64 then
    { s with cars := [], leafW := {}, leafR := {}, leafRd := {}, leafTx := {}, gais := [], gscRx := [], gscTx := [] }
  else if d = 65 then { s with mate := {} }
  else s

/-- A domain changes state. -/
def setDom (s : State) (d st : Nat) : State :=
  if s.domSt d = st then s
  else
    let s := (s.setFld (Reg.PWR_DOM_STAT d) F.PWR_DOM_STAT_STATE st).evt Reg.PWR_EVT F.PWR_EVT_DOM_CHG
    pwrShow { s with domAt := tabSet 0 s.domAt d s.elapsed }

/-- A domain begins to rise (R329). -/
def domRise (s : State) (d : Nat) : State := if s.domSt d = 0 then setDom s d 1 else s

/-- A domain begins to drain (R332). -/
def domDrain (s : State) (d : Nat) : State := if s.domSt d = 2 then setDom s d 3 else s

/-- A queued graft entry uses a domain (R130). -/
def State.graftUses (s : State) (d : Nat) : Bool :=
  s.grafts.any fun x =>
    let st := s.fld (Reg.GRAFT_E_STAT x.1) F.GRAFT_E_STAT_STATE
    decide (2 ≤ st) && decide (st ≤ 4) &&
      (match x.2.result with
       | some m => m.plan d == 2
       | none => false)

/-- Record the code of the last request for a domain, of either kind (R333). -/
def setLast (s : State) (d code : Nat) : State :=
  if d ≤ 66 then s.setFld (Reg.PWR_DOM_STAT d) F.PWR_DOM_STAT_LAST code else s

/-- The code that refuses a request, by R331 4 alone; operations 1 ON, 2 OFF, 3 QUIET, 4 WAKE. `leg`: a legacy request
(R333). -/
def State.pwrBusy (s : State) (op d : Nat) (leg : Bool) : Bool :=
  let moving := s.domSt d == 1 || s.domSt d == 3
  let other := leg && (match s.pwr with
    | some x => decide (x.op ≤ 2) && x.dom == d
    | none => false)
  if op = 1 then moving || other || (d == 65 && !s.paired)
  else if op = 2 then moving || other || s.domPlan d == 2 || d == 66 || s.graftUses d
  else if op = 4 then !s.released
  else false

/-- The first code that refuses a request (R331, R334); `late`: AT lies less than 2 frames ahead. -/
def State.pwrRefusal (s : State) (op d : Nat) (late leg : Bool) : Option Nat :=
  if s.inReturn then some eLIFE
  else if op = 0 || 4 < op || (op ≤ 2 && !s.fuses.dom d) then some eFORMAT
  else if late then some eLATE
  else if s.pwrBusy op d leg then some eINUSE
  else none

/-- Show whether a request for `d` is pending. -/
def domPend (s : State) (d : Nat) : State :=
  if d ≤ 66 then
    s.setFlag (Reg.PWR_DOM_STAT d) F.PWR_DOM_STAT_PEND
      ((match s.pwr with
        | some x => decide (x.op ≤ 2) && x.dom == d
        | none => false) || s.legs.any fun x => x.dom == d)
  else s

/-- The native request completes with a code. -/
def pwrEnd (s : State) (code : Nat) : State :=
  match s.pwr with
  | some x =>
    let s := ({ s with pwr := none }.putRes Reg.PWR_RES code 0).setFlag Reg.PWR_STAT F.PWR_STAT_PEND false
    if x.op ≤ 2 then domPend (setLast s x.dom code) x.dom else s
  | none => s

/-- PWR_REQ_CMD (R331). -/
def pwrRequest (s : State) (op d : Nat) (immed : Bool) : State :=
  if s.pwr.isSome || s.valid Reg.PWR_RES then s.evt Reg.PWR_EVT F.PWR_EVT_CMD_IGNORED
  else
    let at_ := s.rd48 Reg.PWR_REQ_AT_LO
    match s.pwrRefusal op d (!immed && !fnAtLeast at_ s.fnN 2) false with
    | some c =>
      let s := s.putRes Reg.PWR_RES c 0
      if op = 1 || op = 2 then setLast s d c else s
    | none =>
      let s := ({ s with pwr := some ⟨op, d, immed, at_, s.elapsed, false⟩ }.pendRes Reg.PWR_RES).setFlag Reg.PWR_STAT F.PWR_STAT_PEND true
      if op ≤ 2 then domPend s d else s

/-- A legacy request ends with a code: it leaves the list, and a failure latches LEG_REFUSED (R333). -/
def legEnd (s : State) (d code : Nat) : State :=
  let s := if code = cOK then s else s.evt Reg.PWR_EVT F.PWR_EVT_LEG_REFUSED
  domPend (setLast s d code) d

/-- One legacy request (R333). -/
def legRequest (s : State) (on : Bool) (d : Nat) : State :=
  match s.pwrRefusal (if on then 1 else 2) d false true with
  | some c => legEnd s d c
  | none => domPend { s with legs := s.legs ++ [⟨d, on, s.elapsed, false⟩] } d

/-- PWR_LEG_ON_m or PWR_LEG_OFF_m (R333): a request for every bit written as 1. -/
def legWrite (s : State) (on : Bool) (m : Nat) (data : Word) : State :=
  ((List.range (if m = 2 then 3 else 32)).filter fun b => data.getLsbD b).foldl (fun s b => legRequest s on (32 * m + b)) s

/-- ON and OFF at the offset 0 they act in (R331, R332): whether the request is over at once. -/
def domAct (s : State) (on : Bool) (d : Nat) : State × Bool :=
  if on then (if s.domSt d = 2 then (s, true) else (domRise s d, false))
  else (if s.domSt d = 0 then (s, true) else (domDrain s d, false))

/-- QUIET is entered at an offset 0 (R334): an active unit goes to DIVERGED at the next one, with a RELEASE (R226). -/
def quietEnter (s : State) : State :=
  let s := pwrShow { s with quiet := true }
  if s.role = roleACTIVE then s.updMate fun m => { m with toDiv := true } else s

/-- The native request acts (R331, R334). -/
def pwrAct (s : State) (x : PwrReq) : State :=
  let due := !x.acted && (if x.immed then decide (x.since < s.elapsed) else x.at_ == s.fnN)
  if !due then s
  else if (s.pwrRefusal x.op x.dom false false).isSome then pwrEnd s eINUSE
  else if x.op = 3 then pwrEnd (quietEnter s) cOK
  else if x.op = 4 then pwrEnd (pwrShow { s with quiet := false }) cOK
  else
    let r := domAct s (x.op == 1) x.dom
    if r.2 then pwrEnd r.1 cOK else { r.1 with pwr := some { x with acted := true } }

/-- One legacy request acts (R333); the others stay pending. -/
def legAct (s : State) (x : LegReq) : State :=
  if x.acted || s.elapsed ≤ x.since then s
  else
    match s.pwrRefusal (if x.on then 1 else 2) x.dom false true with
    | some _ => legEnd { s with legs := s.legs.erase x } x.dom eINUSE
    | none =>
      let r := domAct s x.on x.dom
      if r.2 then legEnd { r.1 with legs := r.1.legs.erase x } x.dom cOK
      else { r.1 with legs := r.1.legs.replace x { x with acted := true } }

/-- PWR_REQUEST_ACT (R331, R333): at an offset 0, the requests whose time has come; the drive of the lasers follows (R54). -/
def pwrRequestAct (s : State) : State :=
  if s.ofs ≠ 0 || !s.clk then s
  else
    let s := match s.pwr with
      | some x => pwrAct s x
      | none => s
    elsReform (s.legs.foldl legAct s)

/-- The requests that moved domain `d` complete with a code. -/
def domDone (s : State) (on : Bool) (d code : Nat) : State :=
  let s := match s.pwr with
    | some x => if x.acted && x.dom = d && (x.op == 1) == on then pwrEnd s code else s
    | none => s
  let hit := fun (x : LegReq) => x.acted && x.dom == d && x.on == on
  if s.legs.any hit then legEnd { s with legs := s.legs.filter fun x => !hit x } d code else s

/-- DOMAIN_ON (R329): a POWERING domain reaches ON with its registers at their reset values. -/
def domainOn (s : State) (d : Nat) : State :=
  if s.domSt d = 1 then domDone (setDom (domRegs s d) d 2) true d cOK else s

/-- The XBAR_BAR2 register of a window (R296). -/
def bar2Reg (n : Nat) : Nat := 0x200050 + 4 * n

/-- The internal address of a host request's byte at BAR offset `o`; none where its window is disabled (R295, R296). -/
def State.hostAddr (s : State) (bar o : Nat) : Option Nat :=
  if bar = 0 then some (Config.csrBase + o)
  else if s.bit (bar2Reg (o / 268435456)) 31 then some (bits (s.rd (bar2Reg (o / 268435456))) 0 12 * 268435456 + o % 268435456)
  else none

/-- The crossbar address that the burst of a master is for, where the block keeps it: the oldest host request, the held debug access. -/
def State.burstAddr (s : State) (m : Nat) : Option Nat :=
  if m = 0 then
    (match s.hostQ with
     | r :: _ => s.hostAddr r.bar (r.offset + 4 * s.hostPos)
     | [] => none)
  else if m = 3 then s.dbg.held.map (·.2.1)
  else none

/-- A burst in progress is for domain `d` (R303, R332): its master holds the path of CSR space, and the access it has begun lies in the domain's
block. What another master's burst is for, the block's state does not show: a free value (log entry 88). -/
def State.inFlight (s : State) (d : Nat) : Bool :=
  let m := tabGet 8 s.xbHold 2
  m != 8 &&
    (if m = 0 || m = 3 then
      (match s.burstAddr m with
       | some a => decide (Config.csrBase + (domCsr d).1 ≤ a) && decide (a < Config.csrBase + (domCsr d).2)
       | none => false)
     else Config.burstInto s.freeCount d)

/-- A drain is over, one way or the other: a frame has passed since it began (R332). -/
def State.drained (s : State) (d : Nat) : Bool := s.domSt d == 3 && s.ofs == 0 && decide (tabGet 0 s.domAt d < s.elapsed)

/-- DOMAIN_ISOLATE (R332): at the first offset 0 after the drain, when nothing toward the domain is in flight. -/
def domainIsolate (s : State) (d : Nat) : State :=
  if s.drained d && !s.inFlight d then elsReform (domDone (setDom (domLoss s d) d 0) false d cOK) else s

/-- DRAIN_TIMEOUT (R332): something is still in flight there: the domain returns to ON, and its request completes with E_IN_USE. -/
def drainTimeout (s : State) (d : Nat) : State :=
  if s.drained d && s.inFlight d then elsReform (domDone ((setDom s d 2).evt Reg.PWR_EVT F.PWR_EVT_PWR_ERR) false d eINUSE) else s

/-- The bounds of R329 and R332, at a boundary: a domain that has been POWERING for 80 frames is ON, and a drain that neither DOMAIN_ISOLATE
nor DRAIN_TIMEOUT ended in its offset 0 ends as they end it (log entry 88). -/
def powerFrame (s : State) : State :=
  (List.range 67).foldl (fun s d =>
    let t := tabGet 0 s.domAt d
    if s.domSt d = 1 && t + 80 ≤ s.elapsed then domainOn s d
    else if s.domSt d = 3 && t + 2 ≤ s.elapsed then (if s.inFlight d then drainTimeout s d else domainIsolate s d)
    else s) s

/-- PWR_ON (R331). -/
def execPwrOn (d : Nat) (immed : Bool) (s : State) : Host.Outcome State Fault Refusal :=
  checked (.pwrOn d immed) s (s.host Reg.PWR_REQ_CMD fun s => pwrRequest s 1 d immed)
/-- PWR_OFF (R331). -/
def execPwrOff (d : Nat) (immed : Bool) (s : State) : Host.Outcome State Fault Refusal :=
  checked (.pwrOff d immed) s (s.host Reg.PWR_REQ_CMD fun s => pwrRequest s 2 d immed)
/-- QUIET (R334). -/
def execQuiet (immed : Bool) (s : State) : Host.Outcome State Fault Refusal :=
  checked (.quiet immed) s (s.host Reg.PWR_REQ_CMD fun s => pwrRequest s 3 0 immed)
/-- WAKE (R334). -/
def execWake (immed : Bool) (s : State) : Host.Outcome State Fault Refusal :=
  checked (.wake immed) s (s.host Reg.PWR_REQ_CMD fun s => pwrRequest s 4 0 immed)
/-- PWR_REQUEST_ACT (R331). -/
def execPwrRequestAct (s : State) : Host.Outcome State Fault Refusal := checked .pwrRequestAct s (pwrRequestAct s)
/-- DOMAIN_ON (R329). -/
def execDomainOn (d : Nat) (s : State) : Host.Outcome State Fault Refusal := checked (.domainOn d) s (domainOn s d)
/-- DOMAIN_ISOLATE (R332). -/
def execDomainIsolate (d : Nat) (s : State) : Host.Outcome State Fault Refusal := checked (.domainIsolate d) s (domainIsolate s d)
/-- DRAIN_TIMEOUT (R332). -/
def execDrainTimeout (d : Nat) (s : State) : Host.Outcome State Fault Refusal := checked (.drainTimeout d) s (drainTimeout s d)
/-- PWR_ACK (R337). -/
def execPwrAck (seq : Nat) (s : State) : Host.Outcome State Fault Refusal := checked (.pwrAck seq) s (s.host Reg.PWR_ACK (·.ackRes Reg.PWR_RES seq))
/-- PWR_LEG_ON (R333). -/
def execPwrLegOn (m : Nat) (data : Word) (s : State) : Host.Outcome State Fault Refusal :=
  checked (.pwrLegOn m data) s (s.host (Reg.PWR_LEG_ON m) fun s => legWrite s true m data)
/-- PWR_LEG_OFF (R333). -/
def execPwrLegOff (m : Nat) (data : Word) (s : State) : Host.Outcome State Fault Refusal :=
  checked (.pwrLegOff m data) s (s.host (Reg.PWR_LEG_OFF m) fun s => legWrite s false m data)

end Sys2Proof.Machine
end

