-- ==== Sys2Proof/Machine/Boot.lean ====
section
/-! DEFINITION. Images in force, flash and boot (spec/12_images_boot.md): what the device takes from an image, slot choice,
the boot sequence, host load, flash commands and resets. -/

namespace Sys2Proof.Machine

/-! What an image gives the registers and memory. -/

/-- Store the bits of `mask` of an image word in a register. -/
def putMask (s : State) (a mask v : Nat) : State :=
  s.wr a (Nat.lor (s.rd a - Nat.land (s.rd a) mask) (Nat.land v mask))

/-- The settings TIM_GLOBAL carries: register offset and the bits it sets (R224, R274). -/
def timFields : List (Nat × Nat) := [
  (0x00, 0xFFF7), (0x38, 0x3FFF), (0x3C, 0xFFFF), (0x40, 0x7FFFFF), (0x44, 0xFFFF), (0x50, 0x1FFFF), (0x54, 0x1FFFF),
  (0x58, 0x1FFFF), (0x5C, 0x1FFFF), (0x60, 0x3F), (0x64, 0xFFFFFFFF), (0x68, 0x1FFF), (0x70, 0x1F3), (0x74, 0x1F3),
  (0x78, 0x1F3), (0x7C, 0x1F3)]

/-- Timing settings of an image (R201, R274): the TIM registers and the reference table. The registers of a candidate that is
absent, not assigned or of priority 0 read 0. -/
def timSettings (s : State) (m : Image) : State :=
  let g := m.entry secTIM 0 0
  let s := timFields.foldl (fun s x => putMask s (Reg.TIM_CTRL + x.1) x.2 (leAt g x.1 4)) s
  (List.range 48).foldl (fun s n =>
    let e := m.entry secTIMREF 0 n
    let cfg := leAt e 0 4 % 4096
    let pri := leAt e 4 4 % 16
    if !s.fuses.cand n || !(if n = 40 then s.paired else cfg % 16 != 0 && pri != 0 && (n < 8 || (m.refCarrier (n - 8)).isSome)) then
      (s.wr (Reg.TIM_REF_CFG n) 0).wr (Reg.TIM_REF_PRI n) 0
    else (s.wr (Reg.TIM_REF_CFG n) (if n = 40 then cfg / 16 * 16 + 6 else cfg)).wr (Reg.TIM_REF_PRI n) pri) s

/-- Crossbar settings of an image (R306). -/
def xbarSettings (s : State) (m : Image) : State :=
  (List.range 4).foldl (fun s i =>
    match (m.rows secXBAR 0).find? (fun e => leAt e 0 1 == i + 1) with
    | some e =>
      let pri := (List.range 8).foldl (fun n k => n + leAt e (2 + k) 1 % 8 * 8 ^ k) 0
      (s.wr (Reg.XBAR_PRI i) (pri + 16777216 * (leAt e 1 1 % 2))).wr (Reg.XBAR_STARVE i) (leAt e 10 2)
    | none => (s.wr (Reg.XBAR_PRI i) (regReset (Reg.XBAR_PRI i)).toNat).wr (Reg.XBAR_STARVE i) (regReset (Reg.XBAR_STARVE i)).toNat) s

/-- Channel settings of an image (R313, R314): priority, reservation, internal window. -/
def chanSettings (s : State) (m : Image) : State :=
  (List.range 64).foldl (fun s c =>
    let d := (m.chan? c).getD ⟨c, 0, 0, 0, 0⟩
    (((s.setFld (Reg.DMA_CH_CFG c) F.DMA_CH_CFG_PRI d.pri).wr (Reg.DMA_CH_RSV c) (d.rsv % 262144)).wr (Reg.DMA_CH_IWIN c)
      (d.base / 65536 % 16777216)).wr (Reg.DMA_CH_IWIN_LEN c) (d.len % 16777216)) s

/-- The power plan of an image (R330). -/
def planSettings (s : State) (m : Image) : State :=
  (List.range 67).foldl (fun s d => s.setFld (Reg.PWR_DOM_STAT d) F.PWR_DOM_STAT_PLAN (m.plan d)) s

/-- Write the entries of a section to memory from `base` upward; an entry that no run names is 0 (R275). -/
def putTable (s : State) (base : Nat) (x : Section) : State :=
  x.runs.foldl (fun s r =>
    s.memPut (base + r.first * x.esize) (if r.fill then (List.replicate r.count (r.data.take x.esize)).flatten else r.data))
    (s.memZero base (base + x.count * x.esize))

/-- A copy of a section at `base`, when the image has the section. -/
def putCopy (s : State) (m : Image) (ty base : Nat) : State :=
  match m.find ty 0 with
  | some x => putTable s base x
  | none => s

/-- The other of the two copies in a region, half the region apart (log entry 26). -/
def otherCopy (r : Nat × Nat) (now : Nat) : Nat := if now = r.1 then r.1 + r.2 / 2 else r.1

/-- The ownership table of an image becomes the one in force (R276). -/
def ownTable (s : State) (m : Image) (base : Nat) : State :=
  ((putCopy s m secOWN base).wrPair Reg.BOOT_OWN_BASE_LO base).wr Reg.BOOT_OWN_COUNT (m.rows secOWN 0).length

/-- Where the copy of a leaf table goes that is not in force: 0 without the region. -/
def State.leafCopy (s : State) (m : Image) (region base : Nat) : Nat :=
  let r := m.region region
  if r.2 = 0 then 0 else otherCopy r (s.rdPair base)

/-- The leaf tables of an image enter the copies that are not in force, and the three pointers change to them together (R162, R164, R165,
R171). -/
def leafTables (s : State) (m : Image) : State :=
  let l := [(secLEAFMAP, 3, Reg.LEAF_MAP_BASE_LO), (secSREC, 4, Reg.LEAF_SREC_BASE_LO), (secDEF, 5, Reg.LEAF_DEF_BASE_LO)]
  l.foldl (fun s x =>
    let b := s.leafCopy m x.2.1 x.2.2
    (putCopy s m x.1 b).wrPair x.2.2 b) s

/-- PG_ELS_CTRL at load: a fibre that feeds a lane with an assigned use of a powered group, or the mate lanes of a paired unit, is permitted (the
image's port configuration sets it; DEDUCED, log entry 29). -/
def elsSettings (s : State) (m : Image) : State :=
  (List.range 72).foldl (fun s f =>
    let used := if f < 68 then
        (List.range 16).any fun i => s.txUsed (fibreLane f i).1 (fibreLane f i).2 && m.plan (fibreLane f i).1 != 0
      else s.paired
    s.setFlag (Reg.PG_ELS_CTRL f) F.PG_ELS_CTRL_EN used) s

/-- BUILD (R284, R285, R286): the image's settings and tables, ROOT_FW in working memory, REMAP. -/
def build (s : State) (m : Image) : State :=
  let s := { s with img := some m }
  let s := s.memPut Config.wmemBase (m.rows secROOT 0).flatten
  let s := s.setFlag Reg.TOP_CTRL F.TOP_CTRL_REMAP true
  let s := [1, 2, 6, 7].foldl (fun s c => s.memZero (m.region c).1 ((m.region c).1 + (m.region c).2)) s
  let s := ownTable (leafTables s m) m (m.region 11).1
  let s := (s.wrPair Reg.PM_HIST_BASE_LO (m.region 1).1).wrPair Reg.PM_TTI_BASE_LO (m.region 2).1
  let s := leafBases s m
  let s := s.wrPair Reg.GRAFT_STAGE_BASE_LO (m.region 8).1
  let s := s.setFlag Reg.FT_CTRL F.FT_CTRL_INIT_ALIGN (m.global 5 1 != 0)
  let s := s.setFld Reg.FT_BIN_CTRL F.FT_BIN_CTRL_DAY_SHIFT (m.global 10 1)
  let s := mateSettings s m
  planSettings (xbarSettings (timShow (timSettings (elsSettings s m) m)) m) m

/-- The initial state words of engine `e` (R134, R274). -/
def Image.initWords (m : Image) (e : Nat) : List (Nat × Dword) :=
  (m.rows secINIT e).foldl (fun l x => Tab.set smemDefault l (leAt x 0 2) (BitVec.ofNat 64 (leAt x 8 8))) []

/-! Slots (R281 to R283). -/

/-- Device, base and size of slot `i` (0 A, 1 B). -/
def State.slotAt (s : State) (i : Nat) : Option (Nat × Nat × Nat) :=
  if s.nvm0.present && s.nvm1.present then some (i, 0, (s.nor i).size)
  else if s.nvm0.present then some (0, i * (s.nvm0.size / 2), s.nvm0.size / 2)
  else none

/-- Byte `a` of a slot. -/
def State.slotByte (s : State) (i a : Nat) : Byte :=
  match s.slotAt i with
  | some x => (s.nor x.1).byteAt (x.2.1 + a)
  | none => 0xFF

/-- The slot record (R282). -/
def State.slotRec (s : State) (i : Nat) : List Byte := readN (s.slotByte i) 0 64

/-- STATE of a slot record. -/
def State.slotState (s : State) (i : Nat) : Nat := leAt (s.slotRec i) 12 1

/-- GEN of a slot record. -/
def State.slotGen (s : State) (i : Nat) : Nat := leAt (s.slotRec i) 4 4

/-- MAGIC, CRC and IMAGE_LEN of a slot record are good. -/
def State.slotGood (s : State) (i : Nat) : Bool :=
  match s.slotAt i with
  | some x =>
    let r := s.slotRec i
    let len := leAt r 8 4
    leAt r 0 4 == 0x31534C53 && crc32c (slice r 0 12 ++ slice r 16 44) == leAt r 60 4
      && len % 65536 == 0 && decide (65536 ≤ len) && decide (len + 65536 ≤ x.2.2) && decide (len ≤ 0x20000000)
  | none => false

/-- Program STATE of a slot record: programming only clears bits. -/
def slotProgram (s : State) (i v : Nat) : State :=
  match s.slotAt i with
  | some x => s.setNor x.1 ((s.nor x.1).program (x.2.1 + 12) [byte v])
  | none => s

/-- Slots in order of GEN, highest first; equal GEN: slot A first. -/
def State.byGen (s : State) (l : List Nat) : List Nat :=
  if l = [0, 1] && s.slotGen 0 < s.slotGen 1 then [1, 0] else l

/-- The candidates of R283. -/
def State.candidates (s : State) : List Nat :=
  let good := [0, 1].filter s.slotGood
  s.byGen (good.filter fun i => s.slotState i == 0x7F || s.slotState i == 0x1F) ++ s.byGen (good.filter fun i => s.slotState i == 0x3F)

/-- Show a boot step. -/
def setStep (s : State) (st : Nat) : State := s.setFld Reg.BOOT_STAT F.BOOT_STAT_STEP st

/-- The slots as boot finds them (R293), and the candidates. -/
def slotScan (s : State) : State :=
  let s := s.setFlag Reg.BOOT_STAT F.BOOT_STAT_NVM0 s.nvm0.present
  let s := s.setFlag Reg.BOOT_STAT F.BOOT_STAT_NVM1 s.nvm1.present
  let s := s.setFlag Reg.BOOT_STAT F.BOOT_STAT_SPLIT (s.nvm0.present && !s.nvm1.present)
  let s := [0, 1].foldl (fun s i =>
    if (s.slotAt i).isSome then
      (s.setFld (Reg.BOOT_SLOT_RES i) F.BOOT_SLOT_RES_STATE (s.slotState i)).wr (Reg.BOOT_GEN i)
        (if s.slotGood i then s.slotGen i else 0)
    else s) s
  { s with boot := { s.boot with cands := s.candidates } }

/-- NO_IMAGE is entered (R289). -/
def noImage (s : State) : State := (setStep s 9).evt Reg.BOOT_EVT F.BOOT_EVT_NO_IMAGE

/-- Record the outcome of a load from a slot (R293). -/
def slotResult (s : State) (i code detail : Nat) : State :=
  s.wr (Reg.BOOT_SLOT_RES i) (code % 256 + 256 * (detail % 256) + 65536 * s.slotState i + 2147483648)

/-- A load from a slot fails: the next candidate follows (R283). -/
def slotFail (s : State) (i code detail : Nat) : State :=
  setStep ((slotResult s i code detail).evt Reg.BOOT_EVT F.BOOT_EVT_SLOT_FAIL) 3

/-- The first `n` bytes of a slot's image enter the boot load area (R284). -/
def slotRead (s : State) (i n : Nat) : State :=
  s.memPut Config.bootArea (readN (fun a => s.slotByte i (65536 + a)) 0 n)

/-- Steps 1 to 4 of R284 for a slot. -/
def slotTry (s : State) (i : Nat) : State :=
  let f := fun a => s.slotByte i (65536 + a)
  let r := s.slotRec i
  if s.inReturn then slotFail s i eLIFE 0
  else
    match slotFault f (leAt r 8 4) (slice r 16 32) with
    | some x => slotFail (slotRead s i 65536) i x.1 x.2
    | none =>
      match blockFault f with
      | some b => slotFail ((slotRead s i (65536 * (b + 1))).wr (Reg.BOOT_SLOT_BLK i) (b % 8192)) i eCRC 0
      | none =>
        let s := slotRead s i (65536 * hdr f 12 4)
        match digestFault f true with
        | some x => slotFail s i x.1 x.2
        | none => setStep s 4

/-- The next candidate is tried, a PENDING one once (R283); none left: NO_IMAGE. -/
def slotNext (s : State) : State :=
  match s.boot.cands with
  | [] => noImage s
  | i :: rest =>
    let s := { s with boot := { s.boot with cands := rest, slot := i, host := false } }
    slotTry (if s.slotState i = 0x7F then slotProgram s i 0x3F else s) i

/-- A byte of the boot load area. -/
def State.areaByte (s : State) (a : Nat) : Byte := s.memAt (Config.bootArea + a)

/-- A check fails after the image has been read (R283, R290). -/
def bootFail (s : State) (x : Nat × Nat) : State :=
  if s.boot.host then noImage (s.putRes Reg.BOOT_CMD_RES x.1 x.2) else slotFail s s.boot.slot x.1 x.2

/-- HOST_LOAD (R290): steps 1 to 4 of R284 without the slot-record checks. -/
def hostLoad (s : State) : State :=
  let f := s.areaByte
  let fault := (hdrFault f 1 0x20000000).orElse fun _ =>
    (match blockFault f with
     | some _ => some (eCRC, 0)
     | none => none : Option (Nat × Nat)).orElse fun _ => digestFault f true
  match fault with
  | some x => bootFail s x
  | none => setStep s 4

/-- VALIDATE (R284, R285): steps 5 to 7; an image that passes is loaded. -/
def validate (s : State) : State :=
  let f := s.areaByte
  match fullFault s.fuses f with
  | some x => bootFail s x
  | none =>
    let s := { s with boot := { s.boot with loading := some (readImage f) } }
    let s := if s.boot.host then s.putRes Reg.BOOT_CMD_RES cOK 0 else slotResult s s.boot.slot cOK 0
    setStep (s.setFld Reg.BOOT_STAT F.BOOT_STAT_SOURCE (if s.boot.host then 3 else 1 + s.boot.slot)) 5

/-- Zeroisation (R323): one step of ZSTEP; `bad`: its read-back found a mismatch, which repeats the step up to 3 times. -/
def zeroise (s : State) (bad : Bool) : State :=
  let z := s.fld Reg.LC_STAT F.LC_STAT_ZSTEP
  let next := fun (s : State) (n : Nat) => { s.setFld Reg.LC_STAT F.LC_STAT_ZSTEP n with boot := { s.boot with zTries := 0 } }
  if 3 < s.boot.zTries then s
  else if (z = 1 || z = 2) && bad then
    let s := { s with boot := { s.boot with zTries := s.boot.zTries + 1 } }
    if 3 < s.boot.zTries then s.evt Reg.LC_EVT F.LC_EVT_ZFAIL else s
  else if z = 0 then next s 1
  else if z = 1 then
    let zero : LeafHalf := { live := List.range 512, bytes := [] }
    next { s with mem := [], engs := [], selW := [], selF := [], lselW := [], lselF := [], leafW := zero, leafR := zero,
                  leafRd := { half := zero }, leafTx := { half := zero } } 2
  else if z = 2 then next { s with nvm0 := { s.nvm0 with cells := [] }, nvm1 := { s.nvm1 with cells := [] } } 3
  else if z = 3 then noImage (next { s with fuses := { s.fuses with zeroised := true } } 4)
  else s

/-- POWER begins: the domains that the plan marks USED or ON_IDLE rise (R330). -/
def powerUp (s : State) (m : Image) : State :=
  (List.range 67).foldl (fun s d => if m.plan d = 0 then s else domRise s d) s

/-- The pointers to the leaf tables that BUILD wrote (R162). -/
def leafPointers (s : State) (m : Image) : State :=
  [(3, Reg.LEAF_MAP_BASE_LO), (4, Reg.LEAF_SREC_BASE_LO), (5, Reg.LEAF_DEF_BASE_LO)].foldl (fun s x => s.wrPair x.2 (m.region x.1).1) s

/-- Boot step 7 ends: the registers that the image gives in blocks whose domains rose in it are given again (DEDUCED, log entry 87). -/
def domImage (s : State) (m : Image) : State := leafBases (leafPointers (mateSettings s m) m) m

/-- The boot sequence at an offset 0 (R285): one step ends and the next begins (log entry 27). -/
def bootFrame (s : State) (zeroBad : Bool) : State :=
  let st := s.bootStep
  if st = 1 then setStep s 2
  else if st = 2 then slotScan (setStep (s.memZero Config.wmemBase (Config.wmemBase + Config.wmemBytes)) 3)
  else if st = 3 then (if s.inReturn && !s.fuses.zeroised then zeroise s zeroBad else slotNext s)
  else if st = 4 then validate s
  else if st = 5 then
    match s.boot.loading with
    | some m => powerUp (setStep (build { s with boot := { s.boot with loading := none } } m) 6) m
    | none => s
  else if st = 6 then
    if (List.range 67).any fun d => s.domSt d == 1 then s
    else
      let s := match s.img with
        | some m => domImage s m
        | none => s
      { setStep s 7 with boot := { s.boot with alignFrom := s.elapsed } }
  else if st = 10 then hostLoad s
  else s

/-- ALIGN_WAIT_TIMEOUT (R287). -/
def alignTimeout (s : State) : State :=
  let wait := match s.img with
    | some m => m.global 6 4
    | none => 0
  if s.bootStep = 7 && s.boot.relDue.isNone && decide (s.boot.alignFrom + wait ≤ s.elapsed) then
    { s.evt Reg.BOOT_EVT F.BOOT_EVT_ALIGN_TIMEOUT with boot := { s.boot with relDue := some s.elapsed } }
  else s

/-- Step 8 has ended in an earlier cycle than this offset 0 (R288). -/
def State.releaseDue (s : State) : Bool :=
  s.clk && s.bootStep == 7 && s.ofs == 0 &&
    (match s.boot.relDue with
     | some e => decide (e < s.elapsed)
     | none => false)

/-- The graft queue is empty, selectors take their initial values, every engine and duty starts, and the bins open (R94, R288). -/
def dutiesStart (s : State) (m : Image) : State :=
  let s := { s with back := none, grafts := [], selW := m.initSel, selF := m.initSel, selOld := m.initSel, lselW := m.initLsel, lselF := m.initLsel,
                    lselOld := m.initLsel, groups := [] }
  let s := m.prots.foldl (fun s d => nrSend (s.updGrp d.idx fun _ => s.groupInit d {}) d) s
  let s := m.prots.foldl grpRegs { s with groupsChk := s.groups }
  let s := (List.range 64).foldl (fun s e => s.updEng e fun x => { x with smem := m.initWords e, chk := m.initWords e }) (engLive (engStates s))
  let s := (List.range 64).foldl groupEval s
  let s := m.carriers.foldl (fun s c => s.setDef (carKey c) 5 true) s
  chanSettings (pmStart s 1) m

/-- DATA_PLANE_RELEASE (R288): banks, maps and programs in force, the duties at their start, and the registers that show it. -/
def release (s : State) : State :=
  match s.img with
  | some m =>
    let s := setStep (dutiesStart s m) 8
    let s := (s.setFlag Reg.FT_STAT F.FT_STAT_DP_RELEASED true).wrPair Reg.BOOT_REL_FN_LO s.fnN
    let s := (s.wr Reg.BOOT_TIME ((s.now - s.boot.cut) / 1600000 % 16777216)).evt Reg.BOOT_EVT F.BOOT_EVT_RELEASED
    let s := (List.range 16).foldl (fun s n => s.wr (Reg.GRAFT_E_STAT n) 0) (s.putDigest (Reg.GRAFT_RUN_DIGEST 0) m.digest)
    let s := s.setFlag Reg.GRAFT_STAT F.GRAFT_STAT_ROLLBACK_AVAIL false
    let s := if s.paired then s else s.setFlag Reg.MATE_STAT F.MATE_STAT_ROLE_ACT true
    elsReform (pwrShow s)
  | none => s

/-! Commands (R283, R290, R291). -/

/-- BOOT_CMD (R283, R290): OP 1 CONFIRM, 2 LOAD_HOST. -/
def bootCmd (s : State) (op : Nat) : State :=
  let st := s.bootStep
  if op = 0 || op = 3 then s
  else if s.valid Reg.BOOT_CMD_RES then s.evt Reg.BOOT_EVT F.BOOT_EVT_CMD_IGNORED
  else if s.inReturn then s.putRes Reg.BOOT_CMD_RES eLIFE 0
  else if op = 1 then
    let src := s.fld Reg.BOOT_STAT F.BOOT_STAT_SOURCE
    if st ≤ 4 || 8 < st || s.flash.isSome then s.putRes Reg.BOOT_CMD_RES eINUSE 0
    else if src = 3 then s.putRes Reg.BOOT_CMD_RES eFORMAT 0
    else (if s.slotState s.boot.slot = 0x1F then s else slotProgram s s.boot.slot 0x1F).putRes Reg.BOOT_CMD_RES cOK 0
  else if st = 9 then { setStep s 10 with boot := { s.boot with host := true } }
  else s.putRes Reg.BOOT_CMD_RES eINUSE 0

/-- `n` bytes from internal address `a` lie wholly in working memory or in HBM; the key of the first (R291). -/
def State.memSpan (s : State) (a n : Nat) : Option Nat :=
  match s.memKey a, s.memKey (a + n - 1) with
  | some x, some y => if y = x + n - 1 then some x else none
  | _, _ => none

/-- A flash command (R291): OP 1 READ, 2 PROGRAM, 3 ERASE. -/
def flashCmd (s : State) (op dev : Nat) : State :=
  if s.flash.isSome || s.valid Reg.BOOT_FL_RES then s.evt Reg.BOOT_EVT F.BOOT_EVT_FL_IGNORED
  else if op = 0 then s
  else if s.inReturn then s.putRes Reg.BOOT_FL_RES eLIFE 0
  else if !(s.nor dev).present || s.bootStep ≤ 3 then s.putRes Reg.BOOT_FL_RES eINUSE 0
  else
    let a := s.rd Reg.BOOT_FL_ADDR
    let n := s.rd Reg.BOOT_FL_LEN
    let inDev := decide (a + n ≤ (s.nor dev).size)
    let buf := s.rd Reg.BOOT_FL_BUF_LO + 4294967296 * s.rd Reg.BOOT_FL_BUF_HI
    if op = 3 then
      if a % 65536 = 0 && n % 65536 = 0 then { s with flash := some ⟨op, dev, a, n, 0⟩ }.pendRes Reg.BOOT_FL_RES
      else s.putRes Reg.BOOT_FL_RES eFORMAT 0
    else
      match s.memSpan buf n with
      | some k =>
        if 1 ≤ n && n ≤ 16777216 && inDev then { s with flash := some ⟨op, dev, a, n, k⟩ }.pendRes Reg.BOOT_FL_RES
        else s.putRes Reg.BOOT_FL_RES eFORMAT 0
      | none => s.putRes Reg.BOOT_FL_RES eFORMAT 0

/-- The first of `l` that programming over `old` does not reach: a 0 bit cannot become 1 (R291). -/
def firstBad (old l : List Byte) : Option Nat :=
  (List.range l.length).find? fun i => (old.getD i 0 &&& l.getD i 0) != l.getD i 0

/-- A flash command ends (R291); `failAt`: the first address at which the device reports a failure. -/
def flashDone (s : State) (failAt : Option Nat) : State :=
  match s.flash with
  | some j =>
    let s := { s with flash := none }
    let fail := fun (s : State) (a : Nat) => (s.wr Reg.BOOT_FL_ADDR_ERR (a % 536870912)).putRes Reg.BOOT_FL_RES eCRC 0
    if j.op = 1 then
      (s.memPut j.buf (Tab.getRange norDefault (s.nor j.dev).cells j.addr j.len)).putRes Reg.BOOT_FL_RES cOK 0
    else
      let lim := match failAt with
        | some a => if j.addr ≤ a && a < j.addr + j.len then some (a - j.addr) else none
        | none => none
      if j.op = 2 then
        let data := s.memGet j.buf j.len
        let bad := firstBad (Tab.getRange norDefault (s.nor j.dev).cells j.addr j.len) data
        let put := fun (n : Nat) => s.setNor j.dev ((s.nor j.dev).program j.addr (data.take n))
        match lim, bad with
        | none, none => (put j.len).putRes Reg.BOOT_FL_RES cOK 0
        | some x, none => fail (put x) (j.addr + x)
        | none, some y => fail (put (y + 1)) (j.addr + y)
        | some x, some y => fail (put (min x (y + 1))) (j.addr + min x y)
      else
        match lim with
        | none => (s.setNor j.dev ((s.nor j.dev).erase j.addr j.len)).putRes Reg.BOOT_FL_RES cOK 0
        | some x => fail (s.setNor j.dev ((s.nor j.dev).erase j.addr x)) (j.addr + x)
  | none => s

/-! Resets (R292, R346, R349). -/

/-- Everything a reset leaves: fuses, flash, pins, telemetry, and HBM content (log entry 28); what the device sent is history. -/
def resetState (s : State) : State :=
  { pending := s.pending, fuses := s.fuses, pins := { s.pins with ppsOut := false }, nvm0 := s.nvm0, nvm1 := s.nvm1,
    mem := Tab.dropRange s.mem Config.wmemBase (Config.wmemBase + Config.wmemBytes), hostResp := s.hostResp,
    boot := { powered := s.boot.powered }, dbg := { ir := s.dbg.ir, drive := s.dbg.drive }, telem := s.telem, freeCount := s.freeCount,
    sent := s.sent }

/-- The boot sequence starts at step 1 with a cause (R285, R292); the ROM reads the fuses. -/
def startBoot (s : State) (cause : Nat) : State :=
  let s := (resetState s).wr Reg.TOP_RST_CAUSE cause
  let s := { s with boot := { s.boot with powered := false }, fuses := s.fuses.readLc }
  (List.range 67).foldl (fun s d => s.setFlag (Reg.PWR_DOM_STAT d) F.PWR_DOM_STAT_ABSENT (!s.fuses.dom d)) s

/-- A full reset from inside (R292): while RESET holds, nothing follows it. -/
def fullReset (s : State) (cause : Nat) : State := if s.inReset then resetState s else startBoot s cause

/-- RESET_N or PWR_GOOD may have let the device go: boot starts, with power-on recorded when power came up (R292). -/
def leaveReset (s : State) : State := if s.inReset then s else startBoot s (if s.boot.powered then 1 else 2)

/-- TOP_RST_CMD (R292). -/
def rstCmd (s : State) (data : Word) : State :=
  if data.toNat % 256 = 0xA5 && data.getLsbD 8 && s.boot.resetDue.isNone then
    { s with boot := { s.boot with resetDue := some (s.now + 1000, 4) } }
  else s

/-- DEVICE_RESET (R292, R322): 1,000 core cycles after an ordered reset. -/
def deviceReset (s : State) (cause : Nat) : State :=
  match s.boot.resetDue with
  | some x => if x.2 = cause && (x.1 ≤ s.now || !s.clk) then fullReset s cause else s
  | none => s

/-- POWER_GOOD_RISE (R346). -/
def execPowerGoodRise (s : State) : Host.Outcome State Fault Refusal :=
  checked .powerGoodRise s (if s.pins.powerGood then s else leaveReset { s with pins := { s.pins with powerGood := true } })
/-- POWER_GOOD_FALL (R346, R347): the device resets at once; the trip latch ends and the next boot records power-on. -/
def execPowerGoodFall (s : State) : Host.Outcome State Fault Refusal :=
  let t := resetState s
  checked .powerGoodFall s
    { t with pins := { t.pins with powerGood := false, trip := false, alert := false }, telem := {}, dbg := {},
             boot := { t.boot with powered := true } }
/-- RESET_ASSERT (R349). -/
def execResetAssert (s : State) : Host.Outcome State Fault Refusal :=
  let t := resetState s
  checked .resetAssert s { t with pins := { t.pins with resetN := false } }
/-- RESET_RELEASE (R285). -/
def execResetRelease (s : State) : Host.Outcome State Fault Refusal :=
  checked .resetRelease s (if s.pins.resetN then s else leaveReset { s with pins := { s.pins with resetN := true } })
/-- CORE_CLOCK_STABLE (R38, R285). -/
def execCoreClockStable (s : State) : Host.Outcome State Fault Refusal :=
  checked .coreClockStable s (if s.inReset || s.clk then s else setStep { s with clk := true, ofs := 0, fn := 0, elapsed := 0 } 1)
/-- ALIGN_WAIT_TIMEOUT (R287). -/
def execAlignWaitTimeout (s : State) : Host.Outcome State Fault Refusal := checked .alignWaitTimeout s (alignTimeout s)
/-- DATA_PLANE_RELEASE (R288). -/
def execDataPlaneRelease (s : State) : Host.Outcome State Fault Refusal := checked .dataPlaneRelease s (if s.releaseDue then release s else s)
/-- CONFIRM (R283). -/
def execConfirm (s : State) : Host.Outcome State Fault Refusal := checked .confirm s (s.host Reg.BOOT_CMD fun s => bootCmd s 1)
/-- LOAD_HOST (R290). -/
def execLoadHost (s : State) : Host.Outcome State Fault Refusal := checked .loadHost s (s.host Reg.BOOT_CMD fun s => bootCmd s 2)
/-- BOOT_CMD_ACK (R293). -/
def execBootCmdAck (seq : Nat) (s : State) : Host.Outcome State Fault Refusal :=
  checked (.bootCmdAck seq) s (s.host Reg.BOOT_CMD_ACK (·.ackRes Reg.BOOT_CMD_RES seq))
/-- READ (R291). -/
def execRead (dev : Nat) (s : State) : Host.Outcome State Fault Refusal := checked (.read dev) s (s.host Reg.BOOT_FL_CMD fun s => flashCmd s 1 dev)
/-- PROGRAM (R291). -/
def execProgram (dev : Nat) (s : State) : Host.Outcome State Fault Refusal := checked (.program dev) s (s.host Reg.BOOT_FL_CMD fun s => flashCmd s 2 dev)
/-- ERASE (R291). -/
def execErase (dev : Nat) (s : State) : Host.Outcome State Fault Refusal := checked (.erase dev) s (s.host Reg.BOOT_FL_CMD fun s => flashCmd s 3 dev)
/-- FLASH_COMMAND_DONE (R291). -/
def execFlashCommandDone (failAt : Option Nat) (s : State) : Host.Outcome State Fault Refusal := checked (.flashCommandDone failAt) s (flashDone s failAt)
/-- BOOT_FL_ACK (R291). -/
def execBootFlAck (seq : Nat) (s : State) : Host.Outcome State Fault Refusal :=
  checked (.bootFlAck seq) s (s.host Reg.BOOT_FL_ACK (·.ackRes Reg.BOOT_FL_RES seq))
/-- TOP_RST_CMD (R292). -/
def execTopRstCmd (data : Word) (s : State) : Host.Outcome State Fault Refusal := checked (.topRstCmd data) s (s.host Reg.TOP_RST_CMD fun s => rstCmd s data)
/-- DEVICE_RESET (R292). -/
def execDeviceReset (cause : Nat) (s : State) : Host.Outcome State Fault Refusal := checked (.deviceReset cause) s (deviceReset s cause)
/-- WATCHDOG_EXPIRY (R245): 80 frames without service; the watchdog runs with the clock. -/
def execWatchdogExpiry (s : State) : Host.Outcome State Fault Refusal :=
  checked .watchdogExpiry s (if s.clk && 80 ≤ s.elapsed then fullReset s 3 else s)

end Sys2Proof.Machine
end

