-- ==== Sys2Proof/Machine/Dma.lean ====
section
/-! DEFINITION. DMA channels, descriptors and queue runs (spec/13_host_crossbar_dma.md). Beats are in Machine/HostPort.lean,
because a beat may write a register. -/

namespace Sys2Proof.Machine

/-- Channel `c` beside its registers. -/
def State.chan (s : State) (c : Nat) : Chan := tabGet {} s.chans c

/-- Change channel `c`. -/
def State.updChan (s : State) (c : Nat) (f : Chan → Chan) : State := { s with chans := tabUpd {} s.chans c f }

/-- Channel states that are stored: 0 IDLE, 1 RUNNING or WAITING, 3 HALTED, 4 STOPPING (R307, R319). -/
def State.chanSt (s : State) (c : Nat) : Nat := s.fld (Reg.DMA_CH_STAT c) F.DMA_CH_STAT_STATE

/-- Store the state of a channel. -/
def setChanSt (s : State) (c st : Nat) : State := s.setFld (Reg.DMA_CH_STAT c) F.DMA_CH_STAT_STATE st

/-- Descriptor codes (R309). -/
def dInvalid : Nat := 0x20
def dWindow : Nat := 0x21
def dTimeout : Nat := 0x22
def dChainLimit : Nat := 0x23
def dDomainOff : Nat := 0x24
def dTarget : Nat := 0x25

/-- `n` bytes at host address `a` lie in the channel's host window (R309, R319). -/
def State.inHwin (s : State) (c a n : Nat) : Bool :=
  let b := s.rdPair (Reg.DMA_CH_HWIN_LO c)
  decide (b ≤ a) && decide (a + n ≤ b + 4096 * s.rd (Reg.DMA_CH_HWIN_LEN c))

/-- `n` bytes at internal address `a` lie in the channel's internal window: before release the boot load area (R313). -/
def State.inIwin (s : State) (c a n : Nat) : Bool :=
  let b := if s.released then 65536 * s.rd (Reg.DMA_CH_IWIN c) else Config.bootArea
  let l := if s.released then 65536 * s.rd (Reg.DMA_CH_IWIN_LEN c) else 0x20000000
  decide (b ≤ a) && decide (a + n ≤ b + l)

/-- The definition of queue `q` in the running image: none before release, when no image is in force (R313). -/
def State.qdef (s : State) (q : Nat) : Option QueDef := if s.released then s.img.bind (·.queue? q) else none

/-- A run of queue `q` is in progress (R316). -/
def State.queRun (s : State) (q : Nat) : Bool := (s.que q).runHi || (s.que q).runFl

/-- A FROM_HOST queue waits: its fill reached HI and has not yet come down to LO (R316). -/
def State.queHold (s : State) (q : Nat) : Bool :=
  match s.qdef q with
  | some d =>
    let x := s.que q
    if x.fill ≤ d.lo then false else decide (d.hi ≤ x.fill) || x.hold
  | none => false

/-- The channel waits for the pacing condition of its queue descriptor (R307, R316). -/
def State.chanWaits (s : State) (c : Nat) : Bool :=
  match (s.chan c).desc with
  | some d => if d.op = 3 then !s.queRun d.queue else d.op == 4 && s.queHold d.queue
  | none => false

/-- A domain that part of an internal range lies in is not on (R309, R312). HBM lies in HBMD; it answers before that domain rises (R297), so that
only after release its domain counts. -/
def State.rangeOff (s : State) (a n : Nat) : Bool :=
  (decide (Config.csrBase ≤ a) && (List.range 66).any fun d =>
    let r := domCsr d
    decide (Config.csrBase + r.1 < a + n) && decide (a < Config.csrBase + r.2) && !s.domOn d) ||
  (s.released && !s.domOn 66 && decide (Config.hbmBase < a + n) && decide (a < Config.hbmBase + Config.hbmBytes))

/-- The internal side of a descriptor, for QOUT and QIN the ring of its queue, is in a domain that is off or in DRAIN (R309, R312). -/
def State.descOff (s : State) (d : Desc) : Bool :=
  if d.op ≤ 2 then s.rangeOff d.int d.len
  else
    match s.qdef d.queue with
    | some q => s.rangeOff q.base (16 * q.units * 2 ^ q.log2)
    | none => false

/-- A descriptor read from its 32 bytes (R308). -/
def readDesc (a : Nat) (b : List Byte) : Desc :=
  { at_ := a, host := leAt b 0 8, int := leAt b 8 5, op := leAt b 13 1 % 16, irq := bitAt (leAt b 13 1) 4,
    eor := bitAt (leAt b 13 1) 5, queue := leAt b 14 2 % 4096, len := leAt b 16 3, next := leAt b 20 8 }

/-- Steps 1 to 4 of R309 for a fetched descriptor of channel `c`: the code it ends with. -/
def State.descFault (s : State) (c : Nat) (b : List Byte) (d : Desc) : Option Nat :=
  let form := decide (1 ≤ d.op) && decide (d.op ≤ 4) && leAt b 13 1 / 64 == 0 && leAt b 14 2 / 4096 == 0 && leAt b 19 1 == 0
    && decide (1 ≤ d.len)
  let csr := decide (Config.csrBase ≤ d.int) && decide (d.int < Config.csrBase + Config.csrBytes)
  let que := match s.qdef d.queue with
    | some q => q.chan == c && q.fromHost == (d.op == 4) && d.len % (16 * q.units) == 0 && d.host % 16 == 0
    | none => false
  if !form then some dInvalid
  else if (if d.op ≤ 2 then csr && !(d.int % 4 == 0 && d.len % 4 == 0) else !que) then some dInvalid
  else if !(s.inHwin c d.host d.len && (3 ≤ d.op || s.inIwin c d.int d.len)) then some dWindow
  else if s.descOff d then some dDomainOff
  else none

/-- A result of a channel: VALID, the next SEQ, the code; its MSI-X message (R299, R307). -/
def chanResult (s : State) (c code : Nat) : State := (s.putRes (Reg.DMA_CH_RES c) code 0).msi c

/-- Nothing of the descriptor is left; completions of its reads will be discarded. -/
def Chan.clear (x : Chan) : Chan :=
  { reads := x.reads.map fun r => { r with live := false }, used := x.used, won := x.won }

/-- The channel halts (R311): nothing more is issued; the buffer stays until RESET. -/
def chanHalt (s : State) (c code : Nat) : State :=
  let s := match (s.chan c).desc with
    | some d => if 3 ≤ d.op then s.mapBit (Reg.DMA_Q_MARK 0) d.queue else s
    | none => s
  let s := s.updChan c fun x => { x.clear with buf := x.buf }
  chanResult ((setChanSt s c 3).evt Reg.DMA_EVT F.DMA_EVT_HALT) c code

/-- The chain ends with OK. -/
def chanEnd (s : State) (c : Nat) : State :=
  let s := (setChanSt s c 0).setFld (Reg.DMA_CH_STAT c) F.DMA_CH_STAT_QUEUE 0
  chanResult (s.updChan c Chan.clear) c cOK

/-- Fetch the descriptor at host address `a` (R309). -/
def chanFetch (s : State) (c a : Nat) : State :=
  if a % 32 ≠ 0 then chanHalt s c dInvalid
  else if !s.inHwin c a 32 then chanHalt s c dWindow
  else (s.send (.hostRead c a 32)).updChan c fun x => { x with fetching := some (a, s.now) }

/-- Host bytes a channel has asked for and not yet got. -/
def Chan.asked (x : Chan) : Nat := ((x.reads.filter (·.live)).map (·.left)).sum

/-- Ask for host bytes while the 2 KiB buffer has room (R313). -/
def chanAsk (s : State) (c : Nat) : State :=
  let x := s.chan c
  match x.desc with
  | some d =>
    let got := x.buf.length + x.asked
    let n := min (2048 - got) (d.len - x.moved - got)
    if (d.op = 1 || d.op = 4) && x.code.isNone && 0 < n then
      (s.send (.hostRead c (d.host + x.moved + got) n)).updChan c fun x => { x with reads := x.reads ++ [⟨s.now, n, true⟩] }
    else s
  | none => s

/-- DMA_CH_CMD (R307): 1 GO, 2 STOP, 3 RESET. -/
def chanCmd (s : State) (c op : Nat) : State :=
  let st := s.chanSt c
  let ignored := s.evt Reg.DMA_EVT F.DMA_EVT_CMD_IGNORED
  if op = 0 then s
  else if s.valid (Reg.DMA_CH_RES c) then ignored
  else if op = 1 && st = 0 then
    let s := (setChanSt s c 1).setFld (Reg.DMA_CH_STAT c) F.DMA_CH_STAT_HOPS 0
    chanFetch (s.updChan c Chan.clear) c (s.rdPair (Reg.DMA_CH_HEAD_LO c))
  else if op = 2 && st = 1 then setChanSt s c 4
  else if op = 3 && st = 3 then ((setChanSt s c 0).setFld (Reg.DMA_CH_STAT c) F.DMA_CH_STAT_QUEUE 0).updChan c Chan.clear
  else ignored

/-- Registers of a channel that are written only while it does not run (R319), by their offset in its block. -/
def chanConfig : List Nat := [0x04, 0x08, 0x10, 0x14, 0x2C, 0x30, 0x34]

/-- DMA_CONFIG_WRITE (R319). -/
def chanConfigWrite (s : State) (c reg : Nat) (data : Word) : State :=
  if !chanConfig.contains reg then s
  else if s.chanSt c = 1 || s.chanSt c = 4 then s.evt Reg.DMA_EVT F.DMA_EVT_CFG_IGNORED
  else regWrite s (Reg.DMA_CH_STAT c + reg) data

/-- DESCRIPTOR_FETCH (R309): the descriptor arrives and is checked, or the fetch fails. -/
def descFetch (s : State) (c : Nat) (b : List Byte) (error : Bool) : State :=
  match (s.chan c).fetching with
  | some x =>
    let s := s.updChan c fun y => { y with fetching := none }
    if error then chanHalt s c dTarget
    else
      let d := readDesc x.1 b
      let st := Reg.DMA_CH_STAT c
      let s := s.wrPair (Reg.DMA_CH_CUR_LO c) x.1
      let s := s.setFld st F.DMA_CH_STAT_HOPS (s.fld st F.DMA_CH_STAT_HOPS + 1)
      let s := s.setFld st F.DMA_CH_STAT_QUEUE (if 3 ≤ d.op then d.queue else 0)
      let f := s.descFault c b d
      chanAsk (s.updChan c fun y => { y with desc := some d, moved := 0, buf := [], code := f, ranOut := false }) c
  | none => s

/-- The code a descriptor ends with now, if it ends (R307, R310, R312, R316). -/
def State.descDue (s : State) (c : Nat) : Option Nat :=
  let x := s.chan c
  match x.desc with
  | some d =>
    let stop := s.chanSt c == 4 && decide (3 ≤ d.op) && s.chanWaits c
    if x.code.isSome then x.code
    else if d.len ≤ x.moved then some cOK
    else if s.descOff d then some dDomainOff
    else if (d.op = 3 && d.eor && x.ranOut) || stop then some cOK
    else none
  | none => none

/-- DESCRIPTOR_END (R310, R311): the status is written back, then the channel goes on, ends the chain or halts. -/
def descEnd (s : State) (c : Nat) : State :=
  let x := s.chan c
  match x.desc, s.descDue c with
  | some d, some code =>
    let s := s.send (.hostWrite (d.at_ + 28) (byte code :: leBytes x.moved 3))
    let s := if code = cOK then s else s.count 0xA2 c 1
    let hops := s.fld (Reg.DMA_CH_STAT c) F.DMA_CH_STAT_HOPS
    let limit := max 1 (s.fld (Reg.DMA_CH_CFG c) F.DMA_CH_CFG_HOP_LIMIT)
    if code ≠ cOK && code ≠ dDomainOff then chanHalt s c code
    else if s.chanSt c = 4 || d.next = 0 then chanEnd s c
    else if limit ≤ hops then chanHalt s c dChainLimit
    else
      let s := if d.irq then s.msi c else s
      chanFetch (s.updChan c Chan.clear) c d.next
  | _, _ => s

/-- TARGET_TIMEOUT (R311). -/
def targetTimeout (s : State) (c : Nat) : State :=
  let x := s.chan c
  let late := fun (t : Nat) => decide (t + max 1600 (s.rd (Reg.DMA_CH_TMO c)) ≤ s.now)
  match x.fetching with
  | some f => if late f.2 then chanHalt (s.updChan c fun y => { y with fetching := none }) c dTimeout else s
  | none =>
    if x.code.isNone && x.reads.any (fun r => r.live && late r.at_) then s.updChan c fun y => { y with code := some dTimeout } else s

/-- HOST_READ_COMPLETION (R311): completions answer the reads in order; those of reads no longer wanted are discarded. -/
def hostReadDone (s : State) (c : Nat) (b : List Byte) (error : Bool) : State :=
  match (s.chan c).reads with
  | r :: rest =>
    if error then
      s.updChan c fun x => { x with reads := rest, code := if r.live && x.code.isNone then some dTarget else x.code }
    else
      let n := min b.length r.left
      s.updChan c fun x =>
        { x with reads := if n = r.left then rest else { r with left := r.left - n } :: rest,
                 buf := if r.live then x.buf ++ b.take n else x.buf }
  | [] => s

/-! Queue runs (R316). -/

/-- The oldest record of a queue has waited for its FLUSH time. -/
def State.flushDue (s : State) (q : Nat) (d : QueDef) : Bool :=
  d.flush != 0 && (match (s.que q).stamps with
    | t :: _ => decide (t + d.flush ≤ s.elapsed)
    | [] => false)

/-- QUEUE_RUN_START (R316): at a beat slot, by HI or by FLUSH. -/
def runStart (s : State) (q : Nat) : State :=
  match s.qdef q with
  | some d =>
    if d.fromHost || s.queRun q || !s.inWindow s.ofs then s
    else if d.hi ≤ (s.que q).fill then s.setQue q { s.que q with runHi := true }
    else if s.flushDue q d then s.setQue q { s.que q with runFl := true }
    else s
  | none => s

/-- GO (R307). -/
def execGo (ch : Nat) (s : State) : Host.Outcome State Fault Refusal := checked (.go ch) s (s.host (Reg.DMA_CH_CMD ch) fun s => chanCmd s ch 1)
/-- STOP (R307). -/
def execStop (ch : Nat) (s : State) : Host.Outcome State Fault Refusal := checked (.stop ch) s (s.host (Reg.DMA_CH_CMD ch) fun s => chanCmd s ch 2)
/-- RESET (R307). -/
def execReset (ch : Nat) (s : State) : Host.Outcome State Fault Refusal := checked (.reset ch) s (s.host (Reg.DMA_CH_CMD ch) fun s => chanCmd s ch 3)
/-- DMA_CH_ACK (R307). -/
def execDmaChAck (ch seq : Nat) (s : State) : Host.Outcome State Fault Refusal :=
  checked (.dmaChAck ch seq) s (s.host (Reg.DMA_CH_ACK ch) (·.ackRes (Reg.DMA_CH_RES ch) seq))
/-- DMA_CONFIG_WRITE (R319). -/
def execDmaConfigWrite (ch reg : Nat) (data : Word) (s : State) : Host.Outcome State Fault Refusal :=
  checked (.dmaConfigWrite ch reg data) s (s.host (Reg.DMA_CH_STAT ch) fun s => chanConfigWrite s ch reg data)
/-- DESCRIPTOR_FETCH (R309). -/
def execDescriptorFetch (ch : Nat) (bytes : List Byte) (error : Bool) (s : State) : Host.Outcome State Fault Refusal :=
  checked (.descriptorFetch ch bytes error) s (descFetch s ch bytes error)
/-- DESCRIPTOR_END (R310). -/
def execDescriptorEnd (ch : Nat) (s : State) : Host.Outcome State Fault Refusal := checked (.descriptorEnd ch) s (descEnd s ch)
/-- TARGET_TIMEOUT (R311). -/
def execTargetTimeout (ch : Nat) (s : State) : Host.Outcome State Fault Refusal := checked (.targetTimeout ch) s (targetTimeout s ch)
/-- QUEUE_RUN_START (R316). -/
def execQueueRunStart (q : Nat) (s : State) : Host.Outcome State Fault Refusal := checked (.queueRunStart q) s (runStart s q)
/-- HOST_READ_COMPLETION (R311). -/
def execHostReadCompletion (ch : Nat) (bytes : List Byte) (error : Bool) (s : State) : Host.Outcome State Fault Refusal :=
  checked (.hostReadCompletion ch bytes error) s (hostReadDone s ch bytes error)

end Sys2Proof.Machine
end

