-- ==== Sys2Proof/Machine/Graft.lean ====
section
/-! DEFINITION. Grafts (spec/06_grafts.md): the graft queue and its commands, validation and the chain of bases, deadlines,
what flips at offset 0 of the target frame, rollback, relabel and life-cycle rejections. -/

namespace Sys2Proof.Machine

/-! The queue (R126). -/

/-- STATE of an entry: 0 EMPTY, 1 LOADING, 2 VALIDATING, 3 STAGED, 4 ARMED, 5 APPLIED, 6 REJECTED. -/
def State.gSt (s : State) (n : Nat) : Nat := s.fld (Reg.GRAFT_E_STAT n) F.GRAFT_E_STAT_STATE

/-- Enter a state. -/
def setG (s : State) (n st : Nat) : State := s.setFld (Reg.GRAFT_E_STAT n) F.GRAFT_E_STAT_STATE st

/-- Target FN of an entry. -/
def State.gTgt (s : State) (n : Nat) : Nat := s.rd48 (Reg.GRAFT_E_TGT_LO n)

/-- What an entry holds beside its registers. -/
def State.gx (s : State) (n : Nat) : GraftX := tabGet {} s.grafts n

/-- Entries in one of the states of a list. -/
def State.gIn (s : State) (l : List Nat) : List Nat := (List.range 16).filter fun n => l.contains (s.gSt n)

/-- The entry of a list with the earliest target, counted from the frame in progress. -/
def State.gFirst (s : State) (l : List Nat) : Option Nat :=
  l.foldl (fun (b : Option Nat) n =>
    match b with
    | none => some n
    | some k => if fnDiff (s.gTgt n) s.fnN < fnDiff (s.gTgt k) s.fnN then some n else b) none

/-- The entry of a list with the latest target. -/
def State.gLast (s : State) (l : List Nat) : Option Nat :=
  l.foldl (fun (b : Option Nat) n =>
    match b with
    | none => some n
    | some k => if fnDiff (s.gTgt k) s.fnN < fnDiff (s.gTgt n) s.fnN then some n else b) none

/-- The entry's registers and content are those of an entry not yet claimed; its last result stays. -/
def gClear (s : State) (n : Nat) : State :=
  let s := (((s.wr (Reg.GRAFT_E_STAT n) 0).wr (Reg.GRAFT_E_SIZE n) 0).wr (Reg.GRAFT_E_HITS n) 0).wr (Reg.GRAFT_E_GTAG n) 0
  { s.putDigest (Reg.GRAFT_E_RDIG n 0) [] with grafts := tabSet {} s.grafts n {} }

/-- Internal address of an entry's staging area (R125). -/
def State.stageAt (s : State) (n : Nat) : Nat := s.base40 Reg.GRAFT_STAGE_BASE_LO + n * 0x4000000

/-- A byte of an entry's staging area. -/
def State.stageByte (s : State) (n a : Nat) : Byte := s.intByte (s.stageAt n + a)

/-- The checks of the VALIDATING entry with the earliest target begin (R128, R130): GRAFT_E_SIZE shows the declared size. -/
def graftBegin (s : State) : State :=
  match s.gFirst (s.gIn [2]) with
  | some n =>
    if (s.gx n).begun then s
    else
      let size := if s.flag (Reg.GRAFT_E_STAT n) F.GRAFT_E_STAT_ROLLBACK then 0 else hdr (s.stageByte n) 12 4 * 65536
      { s.wr (Reg.GRAFT_E_SIZE n) (if size < 134217728 then size else 134217727) with
        grafts := tabUpd {} s.grafts n fun x => { x with begun := true } }
  | none => s

/-- An entry goes to REJECTED with a code (R126). -/
def reject1 (s : State) (n code detail : Nat) : State :=
  let s := if s.gSt n = 4 then s.setFlag Reg.TRK_BANK_STAT F.TRK_BANK_STAT_SHADOW_READY false else s
  let s := ((setG s n 6).putRes (Reg.GRAFT_E_RES n) code detail).evt Reg.GRAFT_EVT F.GRAFT_EVT_REJECTED
  { s with grafts := tabSet {} s.grafts n {} }

/-- The chain breaks behind an entry with target `t` (R129). -/
def chainBreak (s : State) (t : Nat) : State :=
  graftBegin (((s.gIn [2, 3]).filter fun k => fnAhead (s.gTgt k) t).foldl (fun s k => reject1 s k eBASE 0) s)

/-- An entry is rejected, and the chain behind it breaks (R126, R129). -/
def graftReject (s : State) (n code detail : Nat) : State :=
  let st := s.gSt n
  let t := s.gTgt n
  let s := reject1 s n code detail
  if 2 ≤ st && st ≤ 4 then chainBreak s t else s

/-! Commands (R127). -/

/-- A queued target lies less than 16 frames before `t`. -/
def State.gCrowds (s : State) (t : Nat) : Bool := (s.gIn [2, 3, 4]).any fun n => !fnAtLeast t (s.gTgt n) 16

/-- The target of COMMIT and ROLLBACK. -/
def State.gCmdTgt (s : State) : Nat := s.rd48 Reg.GRAFT_CMD_TGT_LO

/-- The code of a command on `entry`, in the order of precedence; `free`: the lowest EMPTY entry. -/
def State.graftCode (s : State) (op entry : Nat) (free : Option Nat) : Nat :=
  let t := s.gCmdTgt
  let st := s.gSt entry
  if s.inReturn && op ≠ 3 then eLIFE
  else if op = 1 then (if free.isNone then eRESOURCE else cOK)
  else if op = 2 then
    (if st ≠ 1 then eFORMAT else if !fnAtLeast t s.fnN 17 then eLATE else if s.gCrowds t then eINUSE else cOK)
  else if op = 3 then (if 4 ≤ st then eINUSE else if st = 0 then eFORMAT else cOK)
  else if !s.flag Reg.GRAFT_STAT F.GRAFT_STAT_ROLLBACK_AVAIL || !(s.gIn [2, 3, 4]).isEmpty then eINUSE
  else if !fnAtLeast t s.fnN 17 then eLATE
  else if free.isNone then eRESOURCE
  else cOK

/-- The expected base of an entry committed now (R128): the result of the queued entry with the latest target, which becomes
known with that entry's checks, or the running digest. -/
def State.graftBase (s : State) : List Byte :=
  match s.gLast (s.gIn [2, 3, 4]) with
  | some k =>
    (match (s.gx k).result with
     | some m => m.digest
     | none => [])
  | none => s.digestAt (Reg.GRAFT_RUN_DIGEST 0)

/-- An accepted COMMIT or ROLLBACK: the entry is VALIDATING with its target and base. -/
def graftEnter (s : State) (n : Nat) (rollback : Bool) : State :=
  let t := s.gCmdTgt
  let b := s.graftBase
  let s := (s.wrPair (Reg.GRAFT_E_TGT_LO n) t).setFlag (Reg.GRAFT_E_STAT n) F.GRAFT_E_STAT_ROLLBACK rollback
  graftBegin { setG s n 2 with grafts := tabSet {} s.grafts n { base := b } }

/-- GRAFT_CMD (R127): OP 1 CLAIM, 2 COMMIT, 3 CANCEL, 4 ROLLBACK; others have no effect, and are no command that a result not retired would
make ignored (DESIGN CHOICE, log entry 126). -/
def graftCmd (s : State) (op entry : Nat) : State :=
  if op = 0 || 4 < op then s
  else if s.valid Reg.GRAFT_CMD_RES then s.evt Reg.GRAFT_EVT F.GRAFT_EVT_CMD_IGNORED
  else
    let free := (s.gIn [0]).head?
    let n := free.getD 0
    let code := s.graftCode op entry free
    let named := if op = 2 || op = 3 then entry else if code = cOK then n else 0
    let s := s.putRes Reg.GRAFT_CMD_RES code named
    if code ≠ cOK then s
    else if op = 1 then setG s n 1
    else if op = 2 then graftEnter s entry false
    else if op = 3 then
      let st := s.gSt entry
      let t := s.gTgt entry
      let s := gClear s entry
      if 2 ≤ st then chainBreak s t else s
    else graftEnter s n true

/-- GRAFT_E_ACK (R126): the matching SEQ retires the result, and the entry is EMPTY. -/
def graftAck (s : State) (n seq : Nat) : State :=
  let a := Reg.GRAFT_E_RES n
  if s.valid a && bits (s.rd a) 16 8 == seq % 256 then gClear (s.ackRes a seq) n else s

/-! Validation (R128, R130, R141). -/

/-- The image of a digest: the running one or the result of a queued entry. -/
def State.imageOf (s : State) (d : List Byte) : Option Image :=
  match s.img with
  | some m => if m.digest = d then some m else (s.grafts.filterMap fun x => x.2.result).find? fun r => r.digest == d
  | none => none

/-- The checks of an entry: its fault, or its result image with grove tag and number of hit records. -/
def State.graftCheck (s : State) (n : Nat) : (Nat × Nat) ⊕ (Image × Nat × Nat) :=
  let b := (s.gx n).base
  if s.flag (Reg.GRAFT_E_STAT n) F.GRAFT_E_STAT_ROLLBACK then
    match s.imageOf b, s.back with
    | some base, some m =>
      (match rollFault s.fuses base m with
       | some f => .inl f
       | none => .inr (m, 0, 0))
    | _, _ => .inl (eBASE, 0)
  else
    let f := s.stageByte n
    match s.imageOf b, s.img with
    | some base, _ =>
      (match deltaFault s.fuses f base b with
       | some x => .inl x
       | none =>
         let d := readImage f
         .inr (mergeImage base d, d.gtag, d.countOf secHITS))
    | none, some m => .inl ((deltaFault s.fuses f m []).getD (eBASE, 0))
    | none, none => .inl (eBASE, 0)

/-- The checks pass and the shadow copies are built (R128, R130): result digest, hit count and grove tag show, the entry
behind knows its base. -/
def graftPass (s : State) (n : Nat) (m : Image) (gtag hits : Nat) : State :=
  let s := (s.putDigest (Reg.GRAFT_E_RDIG n 0) m.digest).wr (Reg.GRAFT_E_HITS n) (hits % 16777216)
  let s := (s.wr (Reg.GRAFT_E_GTAG n) gtag).setFlag (Reg.GRAFT_E_STAT n) F.GRAFT_E_STAT_GROVE (gtag != 0)
  let s := { s with grafts := tabUpd {} s.grafts n fun x => { x with result := some m } }
  match s.gFirst ((s.gIn [2]).filter fun k => fnAhead (s.gTgt k) (s.gTgt n)) with
  | some k => { s with grafts := tabUpd {} s.grafts k fun x => { x with base := m.digest } }
  | none => s

/-- The domains a result uses that are off are powered on, one in DRAIN once it is off; when all are on, ELS_EN is asserted for the fibres it
needs, and the entry reaches STAGED (R126, R130). -/
def graftStage (s : State) (n : Nat) (m : Image) : State :=
  let s := (List.range 67).foldl (fun s d => if m.plan d = 2 then domRise s d else s) s
  if (List.range 67).all fun d => m.plan d != 2 || s.domOn d then graftBegin (setG (elsDrive s) n 3) else s

/-- GRAFT_VALIDATION_DONE (R128): entries are validated one at a time in target order. -/
def graftValidated (s : State) (n : Nat) : State :=
  if s.gSt n ≠ 2 || s.gFirst (s.gIn [2]) != some n then s
  else
    match (s.gx n).result with
    | some m => graftStage s n m
    | none =>
      match s.graftCheck n with
      | .inl f => graftReject s n f.1 f.2
      | .inr r => graftStage (graftPass s n r.1 r.2.1 r.2.2) n r.1

/-! Deadlines (R131). -/

/-- GRAFT_ARM: at offset 0 of T − 16, STAGED goes to ARMED, and an entry still VALIDATING is too late. -/
def graftArm (s : State) : State :=
  if s.ofs ≠ 0 || !s.clk then s
  else
    match (s.gIn [2, 3]).find? fun n => fnDiff (s.gTgt n) s.fnN == 16 with
    | some n => if s.gSt n = 3 then setG s n 4 else graftReject s n eLATE 0
    | none => s

/-- SHADOW_READY (R131): by offset 0 of T − 1. -/
def shadowReady (s : State) : State :=
  if s.clk && s.ofs == 0 && (s.gIn [4]).any fun n => fnDiff (s.gTgt n) s.fnN == 1 then
    s.setFlag Reg.TRK_BANK_STAT F.TRK_BANK_STAT_SHADOW_READY true
  else s

/-! What flips: failures of removed entities (R81, R134, R153, R191). -/

/-- The failure keys whose failures go on across a graft: those of entities of the new image, but for a port that does not keep its width and
first lane (R136) and a group that changes its type (R196, R197). -/
def failKeys (old m : Image) : List Nat :=
  let same := fun (e : Nat) =>
    match pmEnt e with
    | .otuc v => m.portOfSlice v == old.portOfSlice v
    | .port i => m.port? (i / 8) (i % 8) == old.port? (i / 8) (i % 8)
    | _ => true
  m.pmLine.filter same ++ m.carriers.map carKey ++ (m.groups.filter (·.gais)).map (fun g => gaisKey g.idx)
    ++ (m.prots.filter fun d => (old.prot? d.idx).all (·.ty == d.ty)).map fun d => protKey d.idx

/-- The handle, role and record word of a failure key, judged on the image in force. -/
def State.failOf (s : State) (k : Nat) : Nat × Nat × Nat :=
  if k < leafKey then (s.entHandle k, 1, k)
  else if k < gaisKey 0 then let h := leafAlarmHandle 0 (k - carKey 0); (h, 5, h)
  else if k < protKey 0 then (handle 3 (k - gaisKey 0), 5, handle 3 (k - gaisKey 0))
  else (handle 4 (k - protKey 0), 4, handle 4 (k - protKey 0))

/-- The records marked REMOVED: held for the engine that owned the entity, for the queue the new image names; those of
objects without an owner come second, for posting at once. -/
def removedRecords (s : State) (old m : Image) (fn : Nat) : List Posted × List (Nat × List Byte) :=
  let keep := failKeys old m
  let gone := s.fails.filter fun e => e.2.up && !keep.contains (e.1 / 256)
  gone.foldl (fun (r : List Posted × List (Nat × List Byte)) e =>
    let x := s.failOf (e.1 / 256)
    let rec_ := alarmRecord x.2.2 (e.1 % 256) 2 fn
    match s.owner x.1 with
    | some o =>
      (match m.role? x.2.1 (if x.2.1 = 5 then 0 else engQuad o) 0 0 with
       | some q => (r.1 ++ [⟨o, 6, q, rec_⟩], r.2)
       | none => r)
    | none => (r.1, r.2 ++ [(x.2.1, rec_)])) ([], [])

/-- Failures of entities that are gone leave the table. -/
def dropFails (s : State) (old m : Image) : State :=
  let keep := failKeys old m
  { s with fails := s.fails.filter fun e => keep.contains (e.1 / 256) }

/-! Selectors (R118, R120, R166). -/

/-- The output keeps its kind and its source objects. -/
def sameSources (a b : OutDef) : Bool := a.kind == b.kind && (a.kind == 0 || a.a == b.a) && (a.kind != 2 || a.b == b.b)

/-- The group keeps its number, type and legs, and for an ODU group its SNC mode and level (R196). -/
def sameGroup (a b : ProtDef) : Bool :=
  a.ty == b.ty && a.w == b.w && a.p == b.p && (a.ty == 2 || (a.snci == b.snci && a.level == b.level))

/-- The groups whose legs or levels a graft moves, as they are in both images (R197). -/
def movedGroups (old m : Image) : List (ProtDef × ProtDef) :=
  m.prots.filterMap fun d => (old.prot? d.idx).bind fun o => if o.ty = d.ty && !sameGroup o d then some (o, d) else none

/-- The selectors of moved groups, of ODU groups or of leaf groups. -/
def movedSels (old m : Image) (leaf : Bool) : List Nat :=
  ((movedGroups old m).filter fun x => (x.2.ty == 2) == leaf).map (·.2.sel)

/-- Selector bits after a graft: kept, or the initial ones, which the selector of a moved group takes too (R120, R197). -/
def keepSel (old m : Image) (sel : List (Nat × Bool)) : List (Nat × Bool) :=
  (m.outs.filter fun d => d.kind == 2 || d.kind == 3).foldl (fun l d =>
    let kept := !(movedSels old m false).contains d.out && match old.out? d.out with
      | some x => sameSources x d
      | none => false
    tabSet false l d.out (if kept then tabGet false sel d.out else d.init)) []

/-- A selector record without its INIT bit. -/
def Image.srecKey (m : Image) (r : Nat) : Option (List Byte) :=
  (m.entry? secSREC 0 r).map fun e => e.take 10 ++ [byte (leAt e 10 1 / 2)] ++ e.drop 11

/-- Leaf selector bits after a graft: kept with an unchanged record, or INIT, which the selector of a moved group takes (R166, R197). -/
def keepLsel (old m : Image) (sel : List (Nat × Bool)) : List (Nat × Bool) :=
  (List.range m.srecCount).foldl (fun l r =>
    let kept := !(movedSels old m true).contains r && old.srecKey r == m.srecKey r
    tabSet false l r (if kept then tabGet false sel r else m.srecInit r)) []

/-! Performance (R95). -/

/-- The definition of a PM entity: its type, port, slots, TCM level and terminated position. -/
def Image.entDef (m : Image) (k : Nat) : List Nat :=
  let odu := fun (i : Nat) => match m.odu? i with
    | some d =>
      let x := match m.portOfSlice (i / 20) with
        | some x => [x.idx, x.width, x.first]
        | none => []
      [d.ty, d.k] ++ x ++ m.oduSlots i
    | none => []
  if k < leafKey then
    match pmEnt k with
    | .otuc v => (match m.portOfSlice v with
      | some x => [x.idx, x.width, x.first]
      | none => [])
    | .port i => (match m.port? (i / 8) (i % 8) with
      | some x => [x.width, x.first]
      | none => [])
    | .odu i => odu i
    | .tcm i _ => (match m.oh? k with
      | some o => [o.level, nat01 o.term] ++ odu i
      | none => [])
    | .none => []
  else
    match m.groups.find? fun g => g.mon.map (leafKey + ·) == some k with
    | some g => [g.idx, g.ty, g.n]
    | none => []

/-- Every PM entity of an image. -/
def Image.pmAll (m : Image) : List Nat := m.pmLine ++ m.pmLeaf

/-- The bins of one series across a redefinition or removal: what becomes of the open one, and a bin that loses uncommitted seconds gets
DISCARD and INCOMPLETE (R95). -/
def Series.cut (x : Series) (open_ : Option Bin) (lost : List Nat) (l : List Bin) : List Bin :=
  ((l.filter (·.serial != x.serial)).map fun b => if lost.contains b.serial then { b with marks := Nat.lor b.marks 9 } else b) ++ open_.toList

/-- An empty open bin of a series. -/
def Series.fresh (x : Series) (marks : Nat) : Bin := newBin x.serial x.first (Nat.lor x.marks marks)

/-- The counts, uncommitted seconds and availability of an entity end; the closed bins wait for their records (R93, R95). `go`: it counts on
anew in its open bins, with DEFCHG and INCOMPLETE. -/
def pmCut (s : State) (k : Nat) (go : Bool) : State :=
  s.updPm k fun p =>
    let open_ := fun (x : Series) => if go then some (x.fresh 5) else none
    { from_ := if go then s.elapsed else 0, bins15 := s.s15.cut (open_ s.s15) (p.secs.map (·.bin15)) p.bins15,
      bins24 := s.s24.cut (open_ s.s24) (p.secs.map (·.bin24)) p.bins24 }

/-- PM entities across a graft: removed ones end, redefined ones restart, new ones begin in the open bins. -/
def graftPm (s : State) (old m : Image) : State :=
  let was := old.pmAll
  let now := m.pmAll
  let s := (was.filter fun k => !now.contains k).foldl (fun s k => pmCut s k false) s
  now.foldl (fun s k =>
    if was.contains k then (if old.entDef k == m.entDef k then s else pmCut s k true)
    else s.updPm k fun p => { from_ := s.elapsed, bins15 := p.bins15 ++ [s.s15.fresh 0], bins24 := p.bins24 ++ [s.s24.fresh 0] }) s

/-! Ports and ODUs (R136, R83). -/

/-- What is accepted of the overhead of entities that are gone; the number of their trace acceptances goes on (R84). -/
def ohGone (l : List (Nat × Oh)) (es : List Nat) : List (Nat × Oh) := es.foldl (fun l e => tabUpd {} l e fun o => { chg := o.chg }) l

/-- The receive side of a port that is removed or changed: its slices and their defects are gone. -/
def portGone (s : State) (x : PortDef) : State :=
  let es := entPort x.idx :: x.slices.map entOtuc
  let s := { s with slices := s.slices.filter (fun e => !x.slices.contains e.1), defs := s.defs.filter (fun e => !es.contains e.1),
                    oh := ohGone s.oh es, gcc := s.gcc.filter (fun e => e.1 / 4 != x.idx),
                    downSeen := s.downSeen.filter (· != x.idx) }
  let s := x.slices.foldl (fun s v => putStat s (Reg.PG_OTUC_STAT x.g (v % 32)) 0 (Reg.PG_OH_CHG x.g) (v % 32)) s
  let s := putStat s (Reg.PG_ODUC_STAT x.g x.p) 0 (Reg.PG_OH_CHG2 x.g) x.p
  let s := s.wr (Reg.PG_PORT_STAT x.g x.p) 0
  (List.range x.width).foldl (fun s k =>
    (s.setFlag (Reg.PG_LANE_STAT x.g (x.first + k)) F.PG_LANE_STAT_AM_LOCK false).updLane x.g (x.first + k) fun n =>
      { n with mapErr := false, skewBad := false, skewGood := 0 }) s

/-- Ports across a graft: a port of the same width and first lane is not disturbed; the superframe counts of a new one start
together (R59). -/
def graftPorts (s : State) (old m : Image) : State :=
  let s := (old.ports.filter fun x => m.port? x.g x.p != some x).foldl portGone s
  let s := (m.ports.filter fun x => old.port? x.g x.p != some x).foldl (fun s x =>
    { s with txSf := Tab.dropRange s.txSf (laneIdx x.g x.first) (laneIdx x.g x.first + x.width) }) s
  (List.range 64).foldl groupEval s

/-- ODUs that the new image does not have: nothing of them is left but the number of their trace acceptances. -/
def graftOdus (s : State) (old m : Image) : State :=
  let gone := (old.odus.map (·.idx)).filter fun i => (m.odu? i).isNone
  let lost := old.pmLine.filter fun e => !m.pmLine.contains e
  let s := { s with odus := s.odus.filter (fun e => !gone.contains e.1), defs := s.defs.filter (fun e => !lost.contains e.1),
                    oh := ohGone s.oh lost, trkOut := s.trkOut.filter (fun e => m.outputs.contains e.1),
                    remaps := s.remaps.filter fun e => !gone.contains e.1 }
  gone.foldl (fun s i =>
    putStat (putStat s (Reg.PG_ODU_STAT (i / 640) (i % 640)) 0 (Reg.PG_ODU_CHG (i / 640) 0) (i % 640))
      (Reg.PG_ODU_TCM_STAT (i / 640) (i % 640)) 0 (Reg.PG_ODU_CHG (i / 640) 0) (i % 640)) s

/-- dTIM, dMSIM and dCTIM are judged anew against the settings in force (R77, R83, R146), from the frame that begins. -/
def graftTrace (s : State) (m : Image) : State :=
  let tim := fun (s : State) (e b : Nat) => s.setDefNext e b (s.timBad e)
  let s := m.ports.foldl (fun s x => tim (tim s (entOtuc x.slice0) 5) (entPort x.idx) 3) s
  let s := m.odus.foldl (fun s d =>
    let s := (tim s (entOdu d.idx) 5).setDefNext (entOdu d.idx) 0 (s.msimBad m d)
    (List.range 3).foldl (fun s k => if s.tcmUsed d.idx k then tim s (entTcm d.idx k) 4 else s) s) s
  m.carriers.foldl (fun s c => s.setDefNext (carKey c) 8 (s.carTimBad m c)) s

/-! Queues (R135, R317). -/

/-- The entry of a queue in an image. -/
def Image.queueEnt (m : Image) (q : Nat) : Option (List Byte) :=
  (m.rows secQUEUE 0).find? fun e => leAt e 0 1 == 1 && leAt e 2 2 == q

/-- Queues across a graft: a redefined or removed one loses its records, and a descriptor on it ends with TARGET_ERROR. -/
def graftQueues (s : State) (old m : Image) : State :=
  let hit := (old.queues.map (·.q)).filter fun q => old.queueEnt q != m.queueEnt q
  let s := hit.foldl (fun s q =>
    let n := (s.que q).fill
    let s := if n = 0 then s else s.queDrop q n
    { s with ques := tabSet {} s.ques q {} }) s
  { s with chans := s.chans.map fun e =>
      match e.2.desc with
      | some d => if 3 ≤ d.op && hit.contains d.queue && e.2.code.isNone then (e.1, { e.2 with code := some dTarget }) else e
      | none => e }

/-! Protection groups (R134, R196, R197). -/

/-- A kept group: running timers compare against the new hold-off and WTR; WTR and DNR follow REV. -/
def groupKept (a b : ProtDef) (now : Nat) (g : Grp) : Grp :=
  let mv := fun (t : Option Nat) (o n : Nat) => t.map fun x => x + n - o
  let g := { g with hSfw := mv g.hSfw a.hold b.hold, hSfp := mv g.hSfp a.hold b.hold, hSdw := mv g.hSdw a.hold b.hold,
                    hSdp := mv g.hSdp a.hold b.hold, wtr := mv g.wtr a.wtr b.wtr }
  if a.rev && !b.rev && g.wtr.isSome then { g with wtr := none, dnr := true }
  else if !a.rev && b.rev && g.dnr then { g with wtr := some (now + b.wtr), dnr := false }
  else g

/-- A group whose legs moved: its commands stay, everything it knew of the legs and the far end goes. -/
def groupMoved (g : Grp) (fn : Nat) : Grp :=
  { g with req := 0, sig := false, far := false, sfw := false, sfp := false, sdw := false, sdp := false, hSfw := none, hSfp := none,
           hSdw := none, hSdp := none, wtr := none, dnr := false, pm := false, pmRun := 0, nr := false, nrRun := 0, nrOk := 0,
           fsl := false, fslRun := 0, fallback := false, farSt := none, farFn := fn, farSrc := 0 }

/-- The capture of the far APS of both legs of a group restarts (R89). -/
def apsRestart (s : State) (d : ProtDef) : State :=
  if d.ty = 2 then s
  else [hIdx d.w, hIdx d.p].foldl (fun s i =>
    s.updOdu i fun o => { o with apsCand := [], apsRun := 0, apsAcc := none, apsLog := [], apsFirst := true }) s

/-- A group whose legs a graft moves, in frame T (R197), with its records: its request falls to NR, its selection takes the initial value, and
its legs have moved (R195). -/
def groupMove (pre s : State) (o d : ProtDef) : State :=
  let g := s.grp d.idx
  let s := nrSend ((apsRestart s d).updGrp d.idx fun g => s.groupInit d (groupMoved g s.prevFn)) d
  let s := selRecount s d.idx (pre.selBefore o) (pre.selNow o) (s.selNow d)
  if s.shadowRole then s
  else
    let s := if g.req = 0 && !g.sig && !g.far then s else protEvent s d.idx 2 s.fnN
    let s := if s.selNow d = pre.selNow o then s else protEvent s d.idx 1 s.fnN
    protEvent s d.idx 7 s.fnN

/-- A group of the new image, at the flip: kept (R196), moved (R197) or created. -/
def graftGroup (pre s : State) (old : Image) (d : ProtDef) : State :=
  let new := nrSend ((apsRestart s d).updGrp d.idx fun _ => s.groupInit d { farFn := s.prevFn }) d
  match old.prot? d.idx with
  | some o =>
    if sameGroup o d then s.updGrp d.idx (groupKept o d s.elapsed)
    else if o.ty = d.ty then groupMove pre s o d
    else new
  | none => new

/-- The registers of a group that is gone (R199). -/
def groupGone (s : State) (n : Nat) : State :=
  let s := putStat s (Reg.PROT_G_STAT n) 0 (Reg.PROT_G_CHG 0) n
  let s := (((s.wr (Reg.PROT_G_WTR_LEFT n) 0).wr (Reg.PROT_G_TX n) 0).wr (Reg.PROT_G_RX n) 0).wr (Reg.PROT_G_SW n) 0
  { s with groups := tabSet {} s.groups n {} }

/-- Handles of legs that the new image has and the old one had not (R179). -/
def newLegs (old m : Image) : List Nat :=
  let have_ := (old.odus.map fun d => handle 2 d.idx) ++ old.groups.map fun g => handle 3 g.idx
  (m.prots.flatMap fun d => [d.w, d.p]).filter fun h => !have_.contains h

/-- Protection groups across a graft, from the state `pre` before the flip; statuses sent in positions that no group has any more return to 0, and
APS insertion fields that are no group's any more are empty. -/
def graftGroups (pre s : State) (old m : Image) : State :=
  let s := (old.prots.filter fun d => (m.prot? d.idx).isNone).foldl (fun s d => groupGone s d.idx) s
  let legs := (m.prots.filter fun d => d.ty == 2).flatMap fun d => [hIdx d.w, hIdx d.p]
  let aps := (m.prots.filter fun d => d.ty != 2).map fun d => (hIdx d.p, d.level)
  let s := { s with gscTx := s.gscTx.filter (fun e => legs.contains e.1), apsTx := s.apsTx.filter (fun e => aps.contains (e.1, e.2.1)),
                    newObjs := newLegs old m }
  let s := m.prots.foldl (fun s d => graftGroup pre s old d) s
  m.prots.foldl grpRegs { s with groupsChk := s.groups }

/-! Engines and timing (R133, R134, R203). -/

/-- The words of duties that the new image adds, with their initial values (R134): engine, address, value. -/
def newDuties (old m : Image) : List (Nat × Nat × Dword) :=
  (m.owned.filter fun h => (old.owner? h).isNone).flatMap fun h =>
    match m.owner? h with
    | some e => (m.dutyWords h).map fun a => (e, a, Tab.get smemDefault (m.initWords e) a)
    | none => []

/-- The words that the new image initialises anew. -/
def newInits (old m : Image) : List (Nat × Nat × Dword) :=
  (List.range 64).flatMap fun e => ((m.initWords e).filter fun w => !(old.initWords e).contains w).map fun w => (e, w.1, w.2)

/-- The duty state that the supervisors copy in the tail of the frame before: of kept and moved objects, from the old owner's last commit (R23,
R134). -/
def movedDuties (s : State) (old m : Image) : List (Nat × Nat × Dword) :=
  (m.owned.flatMap (carried old m)).map fun x => (x.2.1, x.2.2, Tab.get smemDefault (s.eng x.1.1).chk x.1.2)

/-- Words of engines take values, in their memory and in the committed copy. -/
def setDuties (s : State) (l : List (Nat × Nat × Dword)) : State :=
  l.foldl (fun s x => s.updEng x.1 fun e =>
    { e with smem := Tab.set smemDefault e.smem x.2.1 x.2.2, chk := Tab.set smemDefault e.chk x.2.1 x.2.2 }) s

/-- Records of a mirror that a unit applies become the words of the groups' duties (R231, R253): which words a record makes is the program's own,
and free (Config). -/
def mirrorDuties (m : Image) (b : List Byte) : List (Nat × Nat × Dword) :=
  m.prots.flatMap fun d =>
    let h := handle 4 d.idx
    match m.owner? h with
    | some e => (m.dutyWords h).zipIdx.map fun x => (e, x.1, Config.dutyWord h x.2 (slice b (14528 + 8 * d.idx) 8))
    | none => []

/-- MIRROR_APPLY with what it writes into the engines' state memory (R231, R253). -/
def mirrorStore (s : State) : State :=
  match s.mate.mirror, s.img with
  | some b, some m => if s.mateUp && s.ofs = 0 && s.mirrorTakes b then setDuties (mirrorApply s) (mirrorDuties m b) else mirrorApply s
  | _, _ => mirrorApply s

/-- MIRROR_APPLY (R231, R233). -/
def execMirrorApply (s : State) : Host.Outcome State Fault Refusal := checked .mirrorApply s (mirrorStore s)

/-- Engine programs across a graft: the banks flip; words that the new image initialises anew and those of new duties take their initial
values, and those of kept and moved duties the values of the old owner (R23, R133, R134). -/
def graftEngines (s : State) (old m : Image) : State :=
  let l := newInits old m ++ newDuties old m ++ movedDuties s old m
  let s := (List.range 68).foldl (fun s p =>
    if s.fuses.eng p && (p < 64 || s.flag (Reg.ENG_STAT p) F.ENG_STAT_ACTING) then
      s.setFlag (Reg.ENG_STAT p) F.ENG_STAT_BANK (!s.flag (Reg.ENG_STAT p) F.ENG_STAT_BANK)
    else s) s
  setDuties (engLive (engStates s)) l

/-- The carrier of candidate `n` in an image (R148, R200). -/
def Image.candCar (m : Image) (n : Nat) : Option Nat := if 8 ≤ n && n < 40 then m.refCarrier (n - 8) else none

/-- Timing settings across a graft: a candidate that the graft assigns, or whose type or carrier it changes, qualifies anew (R203); one whose
messages come from elsewhere accepts anew (R205). -/
def graftTiming (s : State) (old m : Image) : State :=
  let cfg := fun (x : Image) (n : Nat) => leAt (x.entry secTIMREF 0 n) 0 4
  let ty := fun (x : Image) (n : Nat) => cfg x n % 16
  let pri := fun (x : Image) (n : Nat) => leAt (x.entry secTIMREF 0 n) 4 4 % 16
  let new := fun (n : Nat) => n != 40 && (ty old n != ty m n || old.candCar n != m.candCar n)
  let s := timSettings s m
  let s := (List.range 48).foldl (fun s n =>
    if new n || cfg old n / 16 % 8 != cfg m n / 16 % 8 then s.updRef n fun r => { r with ssm := {} } else s) s
  let s := (List.range 48).foldl (fun s n =>
    if s.refOn n && (new n || (n != 40 && (pri old n == 0) != (pri m n == 0))) then
      (setRefSt s n 1).updRef n fun r => { r with good := 0, used := false, agree := 0 }
    else s) s
  timRedo s

/-! The flip (R133). -/

/-- The leaf map, selector records and deferred list across a graft (R171): their pointers flip together, and the read pass of the frame uses
the new ones. -/
def leafMapFlip (s : State) (old m : Image) : State :=
  let s := leafTables s m
  let sel := keepLsel old m s.lselW
  let s := { s with lselW := sel, lselF := sel }
  if s.leafUp then { s with leafRd := { s.leafRd with img := some m, sel := sel } } else s

/-- The registers of a carrier that is not declared read 0 (R175). -/
def carRegsGone (s : State) (c : Nat) : State :=
  let s := if s.rd (Reg.LEAF_CAR_STAT c) = 0 then s else (s.wr (Reg.LEAF_CAR_STAT c) 0).mapBit (Reg.LEAF_CAR_CHG 0) c
  [Reg.LEAF_CAR_FILL c, Reg.LEAF_CAR_SLIP_LO c, Reg.LEAF_CAR_SLIP_HI c, Reg.LEAF_CAR_BIP_LO c, Reg.LEAF_CAR_BIP_HI c, Reg.LEAF_CAR_QL c].foldl
    (fun s a => if s.rd a = 0 then s else s.wr a 0) s

/-- Leaf carriers across a graft: what the device held for a carrier that is gone but for the number of its trace acceptances, the dGAIS of a
group that is gone or defined anew, and the state of a new carrier (R84, R171). -/
def leafCarFlip (s : State) (old m : Image) : State :=
  let gone := old.carriers.filter fun c => !m.carriers.contains c
  let idle := (old.groups.filter fun g => !m.groups.any fun x => x.idx == g.idx && x.ty == g.ty && x.n == g.n && x.gais == g.gais).map (·.idx)
  let s := { s with cars := gone.foldl (fun l c => tabUpd {} l c fun k => { trChg := k.trChg }) s.cars,
                    gais := s.gais.filter fun e => !idle.contains e.1,
                    defs := s.defs.filter fun e => !(gone.map carKey ++ idle.map gaisKey).contains e.1 }
  let s := gone.foldl carRegsGone s
  (m.carriers.filter fun c => !old.carriers.contains c).foldl (fun s c => s.setDefNext (carKey c) 5 true) s

/-- Leaf stage across a graft (R171). -/
def graftLeaf (s : State) (old m : Image) : State := leafCarFlip (leafMapFlip s old m) old m

/-- Trunk across a graft (R113, R117, R120, R124). -/
def graftTrunk (s : State) (old m : Image) : State :=
  let st := Reg.TRK_BANK_STAT
  let s := (s.setFlag st F.TRK_BANK_STAT_ACTIVE (!s.flag st F.TRK_BANK_STAT_ACTIVE)).setFlag st F.TRK_BANK_STAT_SHADOW_READY false
  let s := s.wrPair Reg.TRK_FLIP_FN_LO s.fnN
  let sel := keepSel old m s.selW
  let s := { s with selW := sel, selF := sel }
  let moved := m.outs.filter fun d =>
    match old.out? d.out with
    | some x => decide (d.out < 40960) && d.kind != 0 && x.kind != 0 && x.h != d.h
    | none => false
  moved.foldl (fun s d => recentre s d.out) s

/-- Every item of R133 goes into force. -/
def graftFlip (s : State) (old m : Image) : State :=
  let pre := s
  let rem := removedRecords s old m s.fnN
  let s := graftQueues s old m
  let s := dropFails { s with held := s.held ++ rem.1, img := some m, back := some old } old m
  let s := rem.2.foldl (fun s r => s.postRole r.1 0 0 0 r.2) s
  let s := graftLeaf (graftTrunk s old m) old m
  let s := graftPm (graftOdus (graftPorts s old m) old m) old m
  let s := graftEngines (graftGroups pre s old m) old m
  let s := graftTiming (graftTrace s m) old m
  let o := m.region 11
  let s := ownTable s m (otherCopy o (s.rdPair Reg.BOOT_OWN_BASE_LO))
  let s := (s.wrPair Reg.PM_HIST_BASE_LO (m.region 1).1).wrPair Reg.PM_TTI_BASE_LO (m.region 2).1
  let s := (s.wrPair Reg.LEAF_PM_BASE_LO (m.region 6).1).wrPair Reg.LEAF_TRACE_BASE_LO (m.region 7).1
  let s := s.wrPair Reg.GRAFT_STAGE_BASE_LO (m.region 8).1
  let s := planSettings (chanSettings (xbarSettings s m) m) m
  allStat { s with drainDue := (List.range 67).filter fun d => m.plan d == 0 && s.domOn d }

/-- The unit may apply an ARMED entry at its target (R140, R355): a standby, and a DIVERGED unit, which takes the entries of the fallback mirror
(R235; DEDUCED, log entry 127), only by the latest mirror content it applied. -/
def State.graftMay (s : State) (n : Nat) (m : Image) : Bool :=
  if s.role = roleHOLDING then false
  else if s.role = roleSTANDBY || s.role = roleDIVERGED then
    match s.mate.seen with
    | some x => decide (fnDiff s.fnN x.fn ≤ 16) && x.entries.contains (4, s.gTgt n, m.digest)
    | none => false
  else true

/-- The marks of an entry that applies (R133, R142): APPLIED with OK, the event, the rollback copy, the frame and the running digest. -/
def graftMark (s : State) (n : Nat) (m : Image) : State :=
  let s := (setG s n 5).putRes (Reg.GRAFT_E_RES n) cOK 0
  let s := (s.evt Reg.GRAFT_EVT F.GRAFT_EVT_APPLIED).count 0xD0 0 1
  let s := { s with grafts := tabSet {} s.grafts n {} }
  let s := (s.setFlag Reg.GRAFT_STAT F.GRAFT_STAT_ROLLBACK_AVAIL true).wrPair Reg.GRAFT_LAST_FN_LO s.fnN
  s.putDigest (Reg.GRAFT_RUN_DIGEST 0) m.digest

/-- What the frames before have left to take up at an offset 0, before definitions change: the last sample, the second that ends and the bins
that begin (R33, R48, R90, R95). -/
def catchUp (s : State) : State := bin24Start (bin15Start (secondEnd (settle s)))

/-- GRAFT_APPLY (R133): offset 0 of the target frame of an ARMED entry; `memErr`: an uncorrectable error was found while the
shadow banks loaded. When the mirror condition fails too, the entry is rejected for that (DESIGN CHOICE, log entry 128). -/
def graftApply (s : State) (memErr : Bool) : State :=
  if s.ofs ≠ 0 || !s.clk then s
  else
    match (s.gIn [4]).find? fun n => s.gTgt n == s.fnN with
    | some n =>
      (match (s.gx n).result, s.img with
       | some m, some old =>
         if !s.graftMay n m then graftReject s n eINUSE 0
         else if memErr then graftReject (s.updMate fun x => { x with uncorAt := some s.elapsed }) n eCRC 0
         else
           let grove := s.flag (Reg.GRAFT_E_STAT n) F.GRAFT_E_STAT_GROVE
           let s := graftMark s n m
           let s := if grove && s.fld Reg.FT_STAT F.FT_STAT_ALIGN_STATE ≠ 1 then s.evt Reg.FT_EVT F.FT_EVT_GROVE_ASYNC else s
           elsReform (qlReform (shoot (graftFlip (catchUp s) old m)))
       | _, _ => s)
    | none => s

/-- GRAFT_DOMAIN_DRAIN (R130): offset 0 of T + 1. -/
def graftDrain (s : State) : State :=
  if s.ofs ≠ 0 || !s.clk || fnDiff s.fnN (s.rdPair Reg.GRAFT_LAST_FN_LO) = 0 then s
  else
    let l := s.drainDue
    l.foldl domDrain { s with drainDue := [] }

/-! Relabel and life cycle (R44, R126, R323). -/

/-- Every entry in the states of a list is rejected with a code. -/
def rejectAll (s : State) (l : List Nat) (code : Nat) : State := (s.gIn l).foldl (fun s n => reject1 s n code 0) s

/-- CLAIM (R127). -/
def execClaim (s : State) : Host.Outcome State Fault Refusal := checked .claim s (s.host Reg.GRAFT_CMD fun s => graftCmd s 1 0)
/-- COMMIT (R127). -/
def execCommit (entry : Nat) (s : State) : Host.Outcome State Fault Refusal := checked (.commit entry) s (s.host Reg.GRAFT_CMD fun s => graftCmd s 2 entry)
/-- CANCEL (R127). -/
def execCancel (entry : Nat) (s : State) : Host.Outcome State Fault Refusal := checked (.cancel entry) s (s.host Reg.GRAFT_CMD fun s => graftCmd s 3 entry)
/-- ROLLBACK (R127). -/
def execRollback (s : State) : Host.Outcome State Fault Refusal := checked .rollback s (s.host Reg.GRAFT_CMD fun s => graftCmd s 4 0)
/-- GRAFT_CMD_ACK (R127). -/
def execGraftCmdAck (seq : Nat) (s : State) : Host.Outcome State Fault Refusal :=
  checked (.graftCmdAck seq) s (s.host Reg.GRAFT_CMD_ACK (·.ackRes Reg.GRAFT_CMD_RES seq))
/-- GRAFT_E_ACK (R126). -/
def execGraftEAck (entry seq : Nat) (s : State) : Host.Outcome State Fault Refusal :=
  checked (.graftEAck entry seq) s (s.host (Reg.GRAFT_E_ACK entry) fun s => graftAck s entry seq)
/-- GRAFT_VALIDATION_DONE (R128). -/
def execGraftValidationDone (entry : Nat) (s : State) : Host.Outcome State Fault Refusal := checked (.graftValidationDone entry) s (graftValidated s entry)
/-- GRAFT_ARM (R131). -/
def execGraftArm (s : State) : Host.Outcome State Fault Refusal := checked .graftArm s (graftArm s)
/-- SHADOW_READY (R131). -/
def execShadowReady (s : State) : Host.Outcome State Fault Refusal := checked .shadowReady s (shadowReady s)
/-- GRAFT_APPLY (R133). -/
def execGraftApply (memErr : Bool) (s : State) : Host.Outcome State Fault Refusal := checked (.graftApply memErr) s (graftApply s memErr)
/-- GRAFT_DOMAIN_DRAIN (R130). -/
def execGraftDomainDrain (s : State) : Host.Outcome State Fault Refusal := checked .graftDomainDrain s (graftDrain s)

end Sys2Proof.Machine
end

