-- ==== Sys2Proof/Machine/Relabel.lean ====
section
/-! DEFINITION. The start of a step (R42 to R45, R47): relabel, what it does to grafts and bins, and the slew. -/

namespace Sys2Proof.Machine

/-- A relabel ends the second in progress; the next one starts in this frame (R90). -/
def relabelSecond (s : State) : State :=
  if s.released && s.secStart < s.elapsed then shoot { leafSeconds (lineSeconds (settle s)) with secStart := s.elapsed } else s

/-- The open bins close with INCOMPLETE and RELABEL, and the new ones carry both, unless the new FN begins a bin of the
series (R45). A change of DAY_SHIFT takes effect when the new FN is a 15-minute boundary (R48). -/
def relabelBins (s : State) (fn : Nat) : State :=
  if !s.released then { s with fn := BitVec.ofNat 48 fn }
  else
    let s := binMark (binMark s false 3) true 3
    let s := { s with fn := BitVec.ofNat 48 fn, s24 := { s.s24 with shift := if is15 fn then s.dayShift else s.s24.shift } }
    binOpen (binOpen s false (if is15 fn then 0 else 3)) true (if is24 fn s.s24.shift then 0 else 3)

/-- FN takes a new value at offset 0 of a frame numbered otherwise: grafts are rejected, second and bins end (R42, R44, R45). -/
def relabelTo (s : State) (fn : Nat) : State :=
  if fn = s.fnN then s else remark (relabelBins (relabelSecond (rejectAll s [2, 3, 4] eLATE)) fn)

/-- An ARMED step starts at offset 0 of frame AT (R42). -/
def stepStart (s : State) : State :=
  let s := relabelTo s s.stepNew.toNat
  if s.stepCyc = 0 then stepDone s else { s.setFld Reg.FT_STAT F.FT_STAT_STEP_STATE 2 with slewMoved := 0 }

/-- RELABEL (R42, R47, R209): an ARMED step whose frame has come, carried out by this unit; on a unit that selects candidate 40, which
follows the active unit's FN (R40), the FN of the mirrored step in the same frame (DEDUCED, log entry 123) or the one its lock has found.
DESIGN CHOICE (log entry 122): a mirrored ARMED step whose AT has passed when the unit takes over stays ARMED and does not start. -/
def relabel (s : State) : State :=
  if s.ofs ≠ 0 || !s.clk then s
  else
    let due := s.stepState == 1 && s.stepAt == s.fn
    if due && s.ownStep then stepStart s
    else if !s.released || s.timSel ≠ 40 then s
    else if due then relabelTo (s.updMate fun m => { m with newFn := none }) s.stepNew.toNat
    else
      match s.mate.newFn with
      | some f => relabelTo (s.updMate fun m => { m with newFn := none }) f
      | none => s

/-- RELABEL (R42). -/
def execRelabel (s : State) : Host.Outcome State Fault Refusal := checked .relabel s (relabel s)

end Sys2Proof.Machine
end

