-- ==== Sys2Proof/Machine/RegRead.lean ====
section
/-! DEFINITION. What a register read returns (R11 to R14, R301). -/

namespace Sys2Proof.Machine

/-- ROLE_ACT (R226, R334). -/
def State.roleActPin (s : State) : Bool := !s.inReset && s.running && s.flag Reg.MATE_STAT F.MATE_STAT_ROLE_ACT
/-- ROLE_SYNC (R226, R334). -/
def State.roleSyncPin (s : State) : Bool := !s.inReset && s.running && s.flag Reg.MATE_STAT F.MATE_STAT_ROLE_SYNC

/-- The index of `a` among `n` places `stride` bytes apart from `base`. -/
def idxOf (base stride n a : Nat) : Option Nat :=
  if base ≤ a && a < base + stride * n && (a - base) % stride == 0 then some ((a - base) / stride) else none

/-! Registers that show other state. -/

/-- 32 bits from bit 32·`w` of a row of Booleans. -/
def wordOf (w : Nat) (f : Nat → Bool) : Nat := ofBits ((List.range 32).map fun b => f (32 * w + b))

/-- TOP registers from the fuses (R294). -/
def State.topReg (s : State) (a : Nat) : Option Nat :=
  if a = Reg.TOP_ID then some (s.fuses.part + 65536 * 0x0C5D)
  else if a = Reg.TOP_REV then some (s.fuses.stepping + 256 * s.fuses.rom)
  else if a = Reg.TOP_CAP then some s.fuses.cap
  else if a = Reg.TOP_SERIAL_LO then some (s.fuses.serial % 4294967296)
  else if a = Reg.TOP_SERIAL_HI then some (s.fuses.serial / 4294967296)
  else none

/-- Outstanding non-posted requests (R295). -/
def State.npOut (s : State) : Nat := (s.hostQ.filter fun r => !r.write).length

/-- XBAR registers: the block event summary and the host port status (R318). -/
def State.xbarReg (s : State) (a : Nat) : Option Nat :=
  if a = Reg.XBAR_BLK_EVT then some (ofBits ((List.range 16).map s.blkEvt))
  else if a = Reg.XBAR_HOST_STAT then some (putField (s.rd a) F.XBAR_HOST_STAT_NP_OUT s.npOut)
  else none

/-- A register of queue `q` at offset `o` (R319). -/
def State.queReg (s : State) (q o : Nat) : Option Nat :=
  match s.qdef q with
  | some d =>
    if o = 0x00 then some (1 + 2 * nat01 d.fromHost + 4 * (d.units - 1) + 16 * d.log2 + 512 * d.chan)
    else if o = 0x04 then some ((s.que q).fill + 131072 * nat01 (s.queRun q))
    else if o = 0x08 then some d.hi
    else if o = 0x0C then some d.lo
    else if o = 0x10 then some d.flush
    else if o = 0x1C then some (d.base / 256 % 4294967296)
    else none
  | none => if o ≤ 0x10 || o = 0x1C then some 0 else none

/-- DMA registers: the maps of channels, the state of a channel, the queues (R319). -/
def State.dmaReg (s : State) (a : Nat) : Option Nat :=
  if a < 0x300010 then
    let k := (a - 0x300000) / 4
    some (wordOf (k % 2) fun c => if k < 2 then s.chanSt c == 1 || s.chanSt c == 4 else s.chanSt c == 3)
  else if 0x310000 ≤ a then s.queReg ((a - 0x310000) / 32) (a % 32)
  else
    match idxOf 0x301000 0x40 64 a with
    | some c => some (if s.chanSt c = 1 && s.chanWaits c then s.rd a + 1 else s.rd a)
    | none => none

/-- FT registers: FN, the running host windows, the grove (R50). -/
def State.ftReg (s : State) (a : Nat) : Option Nat :=
  if a = Reg.FT_FN_LO then some (s.fnN % 4294967296)
  else if a = Reg.FT_FN_HI then some (s.fnN / 4294967296)
  else if a = Reg.FT_HWIN_NUM then some s.hostWins.length
  else if a = Reg.FT_GROVE then some (match s.img with
    | some m => m.global 0 2
    | none => 0)
  else if 0x400100 ≤ a && a < 0x400200 then
    let w := s.hostWins.getD ((a - 0x400100) / 8) (0, 0)
    some (if a % 8 = 0 then w.1 else w.2)
  else none

/-- MATE_STAT (R244): ROLE_ACT and ROLE_SYNC show the pins, which are low in QUIET (R334); LEASE, LANES and FB_VALID show how things stand. -/
def State.mateReg (s : State) (a : Nat) : Option Nat :=
  if a = Reg.MATE_STAT then
    let v := putField (putField (s.rd a) F.MATE_STAT_ROLE_ACT (nat01 s.roleActPin)) F.MATE_STAT_ROLE_SYNC (nat01 s.roleSyncPin)
    let v := putField (putField v F.MATE_STAT_LEASE (nat01 (s.mate.lease.any fun t => decide (s.elapsed < t)))) F.MATE_STAT_LANES s.nlocked
    some (putField v F.MATE_STAT_FB_VALID (nat01 (s.mate.fbAt.any fun t => decide (s.elapsed < t + 32))))
  else none

/-- Maker debug is open (R327). -/
def State.makerOpen (s : State) : Bool :=
  s.pins.powerGood && (s.lcState == 0 || (s.inReturn && s.fuses.zeroised))

/-- LC registers from the fuses and the debug state (R336). -/
def State.lcReg (s : State) (a : Nat) : Option Nat :=
  if a = Reg.LC_STAT then some (s.fuses.lc % 4 + 4 * nat01 s.fuses.zeroised + 8 * s.fld a F.LC_STAT_ZSTEP)
  else if a = Reg.LC_DBG then some (ofBits [s.dbg.sess, s.dbg.cap.isSome, s.makerOpen])
  else if a = Reg.LC_IDCODE then some s.fuses.idcode
  else none

/-- GRAFT_STAT (R142): entries in use and the next target beside what is stored. -/
def State.graftReg (s : State) (a : Nat) : Option Nat :=
  if a = Reg.GRAFT_STAT then
    let nx := s.gFirst (s.gIn [2, 3, 4])
    let v := putField (s.rd a) F.GRAFT_STAT_USED (16 - (s.gIn [0]).length)
    some (putField (putField v F.GRAFT_STAT_NEXT (nx.getD 0)) F.GRAFT_STAT_NEXT_VALID (nat01 nx.isSome))
  else none

/-- PG_PORT_CFG (R72). -/
def State.pgReg (s : State) (a : Nat) : Option Nat :=
  match idxOf 0x500 4 8 (a % 0x10000) with
  | some p =>
    if 0x1400000 ≤ a then none
    else
      match s.img.bind (·.port? ((a - 0x1000000) / 0x10000) p) with
      | some x => some (1 + 2 * widthCode x.width + 16 * x.first)
      | none => some 0
  | none => none

/-- TRK definition registers and selector bits in force (R124). -/
def State.trkReg (s : State) (a : Nat) : Option Nat :=
  let rec_ := fun (base : Nat) => s.img.map fun m => (m, (a - base) / 4)
  let slots := fun (m : Image) (o : Nat) => (m.outAt o).map fun h => (m.outRec h, ((m.outSlots h).takeWhile (· != o)).length)
  if 0x2000800 ≤ a && a < 0x20008B0 then
    let w := (a - 0x2000800) / 4
    some (match s.img with
      | some m => wordOf w fun c => leAt (m.entry secCYCLE 0 c) 0 1 == 1
      | none => 0)
  else if 0x2100000 ≤ a && a < 0x2200000 then
    some (match rec_ 0x2100000 with
      | some x => if x.1.isOut x.2 then (x.1.outRec x.2).latWord else 0
      | none => 0)
  else if 0x2200000 ≤ a && a < 0x2280000 then
    some (match rec_ 0x2200000 with
      | some x =>
        (match slots x.1 x.2 with
         | some (d, j) => (if d.kind = 0 then 0 else (x.1.outSlots d.a).getD j 0 % 65536) + 65536 * d.kind + 2147483648
         | none => 0)
      | none => 0)
  else if 0x2280000 ≤ a && a < 0x2300000 then
    some (match rec_ 0x2280000 with
      | some x =>
        (match slots x.1 x.2 with
         | some (d, j) => if d.kind = 2 then (x.1.outSlots d.b).getD j 0 % 65536 + 2147483648 else 0
         | none => 0)
      | none => 0)
  else if 0x2300000 ≤ a && a < 0x2302000 then
    some (wordOf ((a - 0x2300000) / 4) fun o => tabGet false s.selF o)
  else none

/-- LEAF definition registers, and the selector bits in force, not those written since the boundary (R175; DESIGN CHOICE, log entry 129). -/
def State.leafReg (s : State) (a : Nat) : Option Nat :=
  if a = Reg.LEAF_STAT then
    some (putField (s.rd a) F.LEAF_STAT_MAP_VALID (nat01 (s.img.any fun m => (m.find secLEAFMAP 0).isSome)))
  else if 0x3000080 ≤ a && a < 0x3000100 then
    some (match s.img.bind (·.refCarrier ((a - 0x3000080) / 4)) with
      | some c => c + 2147483648
      | none => 0)
  else if 0x3010000 ≤ a && a < 0x3014000 && a % 32 == 0x1C then
    some (match s.img with
      | some m => m.carCfg ((a - 0x3010000) / 32)
      | none => 0)
  else if 0x3020000 ≤ a && a < 0x3022000 then some (wordOf ((a - 0x3020000) / 4) fun r => tabGet false s.lselF r)
  else none

/-- PROT definition registers (R199). -/
def State.protReg (s : State) (a : Nat) : Option Nat :=
  if a = Reg.PROT_STAT then some (match s.img with
    | some m => m.prots.length
    | none => 0)
  else if a < 0x4400000 then none
  else
    let o := a % 64
    let n := (a - 0x4400000) / 64
    if o = 0x00 || (0x08 ≤ o && o ≤ 0x18) then
      match s.prot n with
      | some d =>
        if o = 0x00 then
          some (1 + 2 * d.ty + 8 * nat01 d.bidir + 16 * nat01 d.rev + 32 * nat01 (d.ty != 2 && d.snci) + 64 * (if d.ty = 2 then 0 else d.level)
            + 65536 * (s.owner (handle 4 n)).getD 0)
        else if o = 0x08 then some d.w
        else if o = 0x0C then some d.p
        else if o = 0x10 then some (d.sel + 65536 * (if d.ty = 1 then d.bridge else 0))
        else if o = 0x14 then some d.hold
        else some d.wtr
      | none => some 0
    else none

/-- The program an engine issues: its own, or, for a spare, that of the engine it stands beside (R268). -/
def State.progOf (s : State) (e : Nat) : Option Nat := if e < 64 then some e else (s.acting e).map (·.1)

/-- ENG program length and reservations (R268). -/
def State.engReg (s : State) (a : Nat) : Option Nat :=
  let o := a % 0x100000
  let e := (a - 0x8000000) / 0x100000
  if 0xFF00000 ≤ a || !(o = 0x14 || (0xA0 ≤ o && o < 0xB4)) then none
  else
    match s.progOf e with
    | some w => some (if o = 0x14 then s.progLen w else s.engRsv w ((o - 0xA0) / 4))
    | none => some 0

/-- The value of a register that shows other state; none where the stored word is the value. -/
def State.liveReg (s : State) (a : Nat) : Option Nat :=
  if a < 0x100000 then s.topReg a
  else if a < 0x200000 then none
  else if a < 0x300000 then s.xbarReg a
  else if a < 0x400000 then s.dmaReg a
  else if a < 0x500000 then s.ftReg a
  else if a < 0x600000 then none
  else if a < 0x700000 then s.mateReg a
  else if a < 0x800000 then s.lcReg a
  else if a < 0xA00000 then none
  else if a < 0x1000000 then s.graftReg a
  else if a < 0x2000000 then s.pgReg a
  else if a < 0x3000000 then s.trkReg a
  else if a < 0x4000000 then s.leafReg a
  else if a < 0x8000000 then s.protReg a
  else s.engReg a

/-- What an unlisted snapshot reads: from a reset until the low word is first read, 0 (R12). -/
def snapDefault : Nat → Word := fun _ => 0

/-- The register at `a` is the low word of a pair whose read captures the high word (R12). -/
def pairLow (a : Nat) : Bool :=
  match regRow a with
  | some r => r.pair
  | none => false

/-- The register at `a` is the high word of such a pair. -/
def pairHigh (a : Nat) : Bool := decide (4 ≤ a) && pairLow (a - 4)

/-- The current value of the register at `a`, before the snapshots of R12. -/
def State.regNow (s : State) (a : Nat) : Nat := (s.liveReg a).getD (s.rd a)

/-- The word at CSR offset `a` of a block that answers: engine state memory shows the checkpoint (R253, R268), MSI-X its table
and pending bits (R299), a register its value or snapshot. -/
def State.csrWord (s : State) (a : Nat) : Nat :=
  match engWindow a with
  | some x =>
    let v := match s.progOf x.1 with
      | some w => (tabGet (0 : Dword) (s.eng w).chk x.2).toNat
      | none => 0
    if a % 8 = 0 then v % 4294967296 else v / 4294967296
  | none =>
    match msixWindow a with
    | some k => if k < 1000 then (Tab.get msixDefault s.msix k).toNat else wordOf (k - 1000) fun v => s.msixPend.contains v
    | none => if pairHigh a then (Tab.get snapDefault s.snap a).toNat else s.regNow a

/-- The read of a low word captures the high word (R12). -/
def snapTake (s : State) (a : Nat) : State :=
  if pairLow a then { s with snap := Tab.set snapDefault s.snap (a + 4) (BitVec.ofNat 32 (s.regNow (a + 4))) } else s

/-- The empty slots that an engine has passed in the frame are counted before a read of its counters, or of PMON's (R262). -/
def engCaught (s : State) (a : Nat) : State :=
  let n := 4 * (s.ofs / 2)
  let catch_ := fun (s : State) (p : Nat) => if (s.eng p).live then engFill s p n else s
  if 0x8000000 ≤ a && a < 0xC400000 then catch_ s ((a - 0x8000000) / 0x100000)
  else if Reg.PMON_CNT_LO 0 ≤ a && a < Reg.PMON_CNT_LO 256 then (List.range 68).foldl catch_ s
  else s

/-- A 32-bit register read (R11, R12): the value and the state after it. -/
def csrRead (s : State) (a : Nat) : Nat × State :=
  if s.csrAnswers a then ((engCaught s a).csrWord a, snapTake (engCaught s a) a) else (0, s.defaultTarget)

end Sys2Proof.Machine
end

