-- ==== Sys2Proof/Machine/Life.lean ====
section
/-! DEFINITION. The life cycle (R320 to R324, R336): transitions, retirement, and the end of a debug session (R325, R305). -/

namespace Sys2Proof.Machine

/-- Crossbar master `m` is reset (R305): its bursts in progress are finished on its behalf, which latches MRESET and, when that
was clear, names the master and the target; what it waits for is dropped. -/
def masterReset (s : State) (m : Nat) : State :=
  let s' := (s.xbHold.filter (·.2 == m)).foldl (fun s h =>
    if s.flag Reg.XBAR_EVT F.XBAR_EVT_MRESET then s
    else
      ((s.evt Reg.XBAR_EVT F.XBAR_EVT_MRESET).setFld Reg.XBAR_MRESET_INFO F.XBAR_MRESET_INFO_MASTER m).setFld Reg.XBAR_MRESET_INFO
        F.XBAR_MRESET_INFO_TARGET h.1) s
  { s' with xbHold := s'.xbHold.filter fun h => h.2 != m }

/-- The held debug access whose burst has begun, at the close of its session (R305): a read beat is taken from its target and discarded, the
beat of a write goes out with its byte strobes off. -/
def debugCut (s : State) : State :=
  match s.dbg.held with
  | some (false, a, _) => if tabGet 8 s.xbHold (s.target a) = 3 && inCsr a && a % 4 == 0 then (csrRead s (a - Config.csrBase)).2 else s
  | _ => s

/-- A debug session closes (R325): a held access is dropped, and R305 applies to master 3. -/
def sessionClose (s : State) : State :=
  let s := debugCut s
  masterReset { s with dbg := { s.dbg with sess := false, held := none } } 3

/-- The capture path closes (R327): a capture in progress stops, and the buffer is zeroed. -/
def captureClose (s : State) : State := { s with dbg := { s.dbg with cap := none, capBuf := [], capPos := 0 } }

/-- A life-cycle change closes the session and the capture path, which is open in no state that a command leads to (R325, R327). -/
def pathsClose (s : State) : State := captureClose (sessionClose s)

/-- The life-cycle state a command is judged in: once RETURN is accepted, RETURN (log entry 30). -/
def State.lcNow (s : State) : Nat := if s.lcDue.isSome then 3 else s.fuses.lc

/-- LC_CMD (R321, R322): targets 0 BLANK, 1 DEVELOP, 2 DEPLOY, 3 RETURN. -/
def lcCmd (s : State) (target key : Nat) : State :=
  let st := s.lcNow
  if key ≠ 0x96 then s
  else if s.valid Reg.LC_RES then s.evt Reg.LC_EVT F.LC_EVT_CMD_IGNORED
  else if st = target then s.putRes Reg.LC_RES cOK 0
  else if st = 1 && target = 2 then
    let s := pathsClose (s.putRes Reg.LC_RES cOK 0)
    lcProgram { s with boot := { s.boot with resetDue := (s.boot.resetDue.orElse fun _ => some (s.now + 1000, 5)) } } 2
  else if (st = 1 || st = 2) && target = 3 then { s.putRes Reg.LC_RES cOK 0 with lcDue := some (false, s.elapsed) }
  else s.putRes Reg.LC_RES eLIFE 0

/-- The steps of an accepted RETURN at an offset 0 (R323): QUIET, DIVERGED in a mate pair (an active unit
by R226; log entry 31), grafts rejected, fuses programmed. -/
def lcReturnStep (s : State) : State :=
  match s.lcDue with
  | some (false, e) =>
    if e < s.elapsed then
      let s := quietEnter s
      let s := if s.role = roleSTANDBY || s.role = roleHOLDING then toDiverged s 6 else s
      let s := pathsClose (rejectAll s [1, 2, 3, 4] eLIFE)
      pwrShow { lcProgram s 3 with lcDue := some (true, s.elapsed) }
    else s
  | _ => s

/-- RETURN_RESET (R323): 16 frames after the fuses are programmed. -/
def returnReset (s : State) : State :=
  match s.lcDue with
  | some (true, e) => if e + 16 ≤ s.elapsed then fullReset s 5 else s
  | _ => s

/-- LC_BLANK (R321). -/
def execLcBlank (key : Nat) (s : State) : Host.Outcome State Fault Refusal := checked (.lcBlank key) s (s.host Reg.LC_CMD fun s => lcCmd s 0 key)
/-- LC_DEVELOP (R321). -/
def execLcDevelop (key : Nat) (s : State) : Host.Outcome State Fault Refusal := checked (.lcDevelop key) s (s.host Reg.LC_CMD fun s => lcCmd s 1 key)
/-- LC_DEPLOY (R322). -/
def execLcDeploy (key : Nat) (s : State) : Host.Outcome State Fault Refusal := checked (.lcDeploy key) s (s.host Reg.LC_CMD fun s => lcCmd s 2 key)
/-- LC_RETURN (R323). -/
def execLcReturn (key : Nat) (s : State) : Host.Outcome State Fault Refusal := checked (.lcReturn key) s (s.host Reg.LC_CMD fun s => lcCmd s 3 key)
/-- RETURN_RESET (R323). -/
def execReturnReset (s : State) : Host.Outcome State Fault Refusal := checked .returnReset s (returnReset s)
/-- LC_ACK (R336). -/
def execLcAck (seq : Nat) (s : State) : Host.Outcome State Fault Refusal := checked (.lcAck seq) s (s.host Reg.LC_ACK (·.ackRes Reg.LC_RES seq))

end Sys2Proof.Machine
end

