-- ==== Sys2Proof/Machine/Module.lean ====
section
/-! DEFINITION. Thermal sensors, telemetry and the levels of the output pins (spec/15_module_signals.md). -/

namespace Sys2Proof.Machine

/-! The states of R349. -/

/-- The columns of R349. No command takes the supply away, so that State.outCol never answers `unpowered`; PWR_GOOD low is RESET. -/
inductive OutCol where
  | unpowered | reset | quiet | run
  deriving DecidableEq, Repr

/-- What an output does in a column of R349; `rule`: what the rules that the table names say, which the pin functions below follow. -/
inductive OutLevel where
  | low | high | released | highZ | dark | idle | silent | rule
  deriving DecidableEq, Repr

/-- The outputs of R349 by row. -/
inductive OutPin where
  | optics | elsOe | elsChain | roles | timState | refAct | clkOut | ppsOut | todOut | arbTx | pet | clkReq | nvmCs | nvmRst | nvmSck | nvmData
  | tdo | smb
  deriving DecidableEq, Repr

/-- The table of R349. TIM_STATE is 00, and REF_ACT 63, where it shows `low` and `high`. -/
def OutPin.level : OutPin → OutCol → OutLevel
  | .optics, .run => .rule
  | .optics, _ => .dark
  | .elsOe, .run => .low
  | .elsOe, _ => .high
  | .elsChain, .unpowered => .highZ
  | .elsChain, .reset => .low
  | .elsChain, _ => .rule
  | .roles, .run => .rule
  | .roles, _ => .low
  | .timState, .unpowered | .timState, .reset => .low
  | .timState, _ => .rule
  | .refAct, .unpowered | .refAct, .reset => .high
  | .refAct, _ => .rule
  | .clkOut, .unpowered => .highZ
  | .clkOut, .reset => .low
  | .clkOut, _ => .rule
  | .ppsOut, .unpowered | .ppsOut, .reset => .low
  | .ppsOut, _ => .rule
  | .todOut, .unpowered | .todOut, .reset => .high
  | .todOut, _ => .rule
  | .arbTx, .unpowered => .silent
  | .arbTx, .reset => .idle
  | .arbTx, _ => .rule
  | .pet, .unpowered => .highZ
  | .pet, .reset => .idle
  | .pet, _ => .rule
  | .clkReq, .unpowered => .released
  | .clkReq, _ => .low
  | .nvmCs, .unpowered | .nvmCs, .reset => .high
  | .nvmCs, _ => .rule
  | .nvmRst, .unpowered | .nvmRst, .reset => .low
  | .nvmRst, _ => .rule
  | .nvmSck, .unpowered => .highZ
  | .nvmSck, .reset => .low
  | .nvmSck, _ => .rule
  | .nvmData, .unpowered | .nvmData, .reset => .highZ
  | .nvmData, _ => .rule
  | .tdo, .unpowered => .highZ
  | .tdo, _ => .rule
  | .smb, .unpowered => .released
  | .smb, _ => .rule

/-- The column the device is in (R328, R349); for timing outputs boot steps 0 and 1 belong to RESET (`timCol`). -/
def State.outCol (s : State) : OutCol := if s.inReset then .reset else if s.running then .run else .quiet

/-- The column for timing outputs. -/
def State.timCol (s : State) : OutCol := if s.bootStep < 2 then .reset else s.outCol

/-- The level of an output in the state. -/
def State.outLevel (s : State) (p : OutPin) : OutLevel :=
  if [OutPin.timState, .refAct, .clkOut, .ppsOut, .todOut].contains p then p.level s.timCol else p.level s.outCol

/-! Pins that follow from the state (R349). -/

/-- ELS_LD is high (R343): offsets 9,216 to 9,343 of a frame, outside reset. -/
def State.elsLdPin (s : State) : Bool := !s.inReset && s.clk && decide (9216 ≤ s.ofs) && decide (s.ofs < 9344)
/-- ELS_SCK is high (R343): the core clock divided by 128 while the chain is shifted; the data changes on its falling edge, with which a bit
begins (DEDUCED, log entry 152). -/
def State.elsSckPin (s : State) : Bool := !s.inReset && s.clk && decide (s.ofs < 9216) && decide (64 ≤ s.ofs % 128)
/-- ELS_SDO (R343): ELS_EN[71] first, 128 core cycles to a bit; low once the chain is out (DESIGN CHOICE, log entry 152). -/
def State.elsSdoPin (s : State) : Bool := !s.inReset && s.clk && decide (s.ofs < 9216) && bitAt s.elsCh (71 - s.ofs / 128)
/-- The 72 bits of a frame in the order they are shifted out (R343). -/
def State.elsShift (s : State) : List Bool := (List.range 72).map fun k => bitAt s.elsCh (71 - k)
/-- ELS_OE_N is low (R343). -/
def State.elsOe (s : State) : Bool := !s.inReset && s.running
/-- HEALTH_OK (R241, R334). -/
def State.healthPin (s : State) : Bool := !s.inReset && s.running && s.bit Reg.MATE_HEALTH 0
/-- TIM_STATE[1:0] (R215, R349). -/
def State.timStatePin (s : State) : Nat := if s.inReset || s.bootStep < 2 then 0 else s.tim.pinState
/-- REF_ACT[5:0] (R218, R349). -/
def State.refActPin (s : State) : Nat := if s.inReset || s.bootStep < 2 then 63 else s.tim.pinRef
/-- PPS_OUT (R220, R349): held low while squelched. -/
def State.ppsOutPin (s : State) : Bool := !s.inReset && s.pins.ppsOut && !s.ppsSquelch
/-- CLK_OUTn carries a clock (R219, R349): its frequency code, 0 for off or held low. -/
def State.clkOutPin (s : State) (n : Nat) : Nat :=
  if s.inReset || s.img.isNone || s.flag (Reg.TIM_CLK_OUT n) F.TIM_CLK_OUT_SQUELCHED then 0
  else s.fld (Reg.TIM_CLK_OUT n) F.TIM_CLK_OUT_FREQ
/-- THERM_ALERT_N is low (R347). -/
def State.thermAlertPin (s : State) : Bool := s.pins.powerGood && s.pins.alert
/-- THERM_TRIP_N is low (R347). -/
def State.thermTripPin (s : State) : Bool := s.pins.powerGood && s.pins.trip
/-- SMB_ALERT_N is low (R348). -/
def State.smbAlertPin (s : State) : Bool := s.thermAlertPin || s.thermTripPin
/-- CLKREQ_N is low (R340, R349): whenever the module has power. -/
def State.clkReqPin (s : State) : Bool := s.outLevel .clkReq == .low
/-- TOD_OUT is high (R221, R223): a bit takes 1.6 billion / 115,200 core cycles, a character a start bit, eight bits from bit 7 on and a stop
bit; between messages, and in reset, the line is idle. -/
def State.todOutPin (s : State) : Bool :=
  match s.tim.tod with
  | some x =>
    let n := (s.now - x.1) * 115200 / 1600000000
    let b := (x.2.getD (n / 10) 0).toNat
    s.inReset || decide (160 ≤ n) || (n % 10 == 9) || (n % 10 != 0 && bitAt b (8 - n % 10))
  | none => true
/-- ARB_TX carries a frame and not idle characters (R236, R237). -/
def State.arbTxBusy (s : State) : Bool := !s.inReset && decide (s.now < s.mate.arbFree)
/-- The SMBus target address (R340, R348). -/
def State.smbTarget (_ : State) : Nat := 0x58 + Config.smbStraps.val

/-! Sensors (R347). Temperatures are in 1/16 °C. -/

/-- A die reads 118 °C or more: the alert begins. -/
def alertOn : Int := 1888
/-- Below 113 °C on every die the alert ends. -/
def alertOff : Int := 1808
/-- 125 °C: trip. -/
def tripOn : Int := 2000

/-- THERMAL_SAMPLE (R347): the alert with its hysteresis, and the trip, which holds the device in reset until PWR_GOOD falls. -/
def thermalSample (s : State) (temps : List Int) (currents : List Nat) (power : Nat) : State :=
  if !s.pins.powerGood then s
  else
    let hot := temps.any fun t => decide (alertOn ≤ t)
    let warm := temps.any fun t => decide (alertOff ≤ t)
    let trip := temps.any fun t => decide (tripOn ≤ t)
    let s := { s with telem := { temps := temps, currents := currents, power := power },
                      pins := { s.pins with alert := hot || (s.pins.alert && warm) } }
    if trip && !s.pins.trip then
      let t := resetState s
      { t with pins := { t.pins with trip := true } }
    else s

/-! Telemetry (R348). -/

/-- The highest of a list of samples; 0 before the first sample (log entry 17). -/
def hottest : List Int → Int
  | [] => 0
  | t :: ts => ts.foldl max t

/-- The power state as the telemetry shows it: 3 in reset. -/
def State.pwrShown (s : State) : Nat := if s.inReset then 3 else s.pwrState

/-- The telemetry word of an SMBus command (R348); an unlisted command reads 0. -/
def State.smbWord (s : State) (c : Nat) : Nat :=
  if c = 0x00 then s.fuses.part % 65536
  else if c = 0x01 then unsext (hottest s.telem.temps) 16
  else if 0x02 ≤ c && c ≤ 0x06 then unsext (s.telem.temps.getD (c - 2) 0) 16
  else if 0x10 ≤ c && c ≤ 0x18 then s.telem.currents.getD (c - 0x10) 0 % 65536
  else if c = 0x20 then s.telem.power % 65536
  else if c = 0x30 then
    s.pwrShown + 4 * (s.fuses.lc % 4) + 16 * nat01 s.pins.alert + 32 * nat01 s.pins.trip + 64 * nat01 s.released
  else 0

/-- The packet error code of a Read Word: CRC-8 over the address with its write bit, the command, the address with its read bit and the word
(PRESUMED, log entry 150: as the SMBus specification has it). -/
def smbPec (target c : Nat) (w : List Byte) : Nat := ([byte (2 * target), byte c, byte (2 * target + 1)] ++ w).foldl crc8Byte 0

/-- SMB_READ_WORD (R348): a word at the device's target address, low byte first, is answered while PWR_GOOD is high; a read changes no state of
the device. -/
def smbRead (s : State) (c : Nat) : State :=
  let w := leBytes (s.smbWord c) 2
  if s.pins.powerGood then s.send (.smbus s.smbTarget w (smbPec s.smbTarget c w)) else s

/-- THERMAL_SAMPLE (R347). -/
def execThermalSample (hub q0 q1 q2 q3 : Int) (currents : List Nat) (power : Nat) (s : State) : Host.Outcome State Fault Refusal :=
  checked (.thermalSample hub q0 q1 q2 q3 currents power) s (thermalSample s [hub, q0, q1, q2, q3] currents power)
/-- SMB_READ_WORD (R348). -/
def execSmbReadWord (command : Nat) (s : State) : Host.Outcome State Fault Refusal := checked (.smbReadWord command) s (smbRead s command)

end Sys2Proof.Machine
end

