-- ==== Sys2Proof/Machine/HostPort.lean ====
section
/-! DEFINITION. What a register write does (R11 to R14, R301), accesses by internal address, the host port, the crossbar and the beats of the
DMA engine (spec/13_host_crossbar_dma.md). -/

namespace Sys2Proof.Machine

/-! Register writes: each command register does what its row of the opcode table does. -/

/-- Writes in the TOP, BOOT and XBAR blocks. -/
def writeBoot (s : State) (a : Nat) (w : Word) : State :=
  let d := w.toNat
  if a = Reg.TOP_RST_CMD then rstCmd s w
  else if a = Reg.BOOT_CMD then bootCmd s (d % 4)
  else if a = Reg.BOOT_CMD_ACK then s.ackRes Reg.BOOT_CMD_RES (d % 256)
  else if a = Reg.BOOT_FL_CMD then flashCmd s (d % 4) (bits d 2 1)
  else if a = Reg.BOOT_FL_ACK then s.ackRes Reg.BOOT_FL_RES (d % 256)
  else
    match msixWindow a with
    | some k => if k < 1000 then s.msixWrite k w else s
    | none => regWrite s a w

/-- Writes in the DMA block. -/
def writeDma (s : State) (a : Nat) (w : Word) : State :=
  if 0x301000 ≤ a && a < 0x302000 then
    let c := (a - 0x301000) / 0x40
    let o := a % 0x40
    if o = 0x18 then chanCmd s c (w.toNat % 4)
    else if o = 0x20 then s.ackRes (Reg.DMA_CH_RES c) (w.toNat % 256)
    else if chanConfig.contains o then chanConfigWrite s c o w
    else s
  else regWrite s a w

/-- Writes in the FT, TIM and MATE blocks. -/
def writeTime (s : State) (a : Nat) (w : Word) : State :=
  let d := w.toNat
  if a = Reg.FT_CAP_CMD then (if bitAt d 0 then ftCapture s else s)
  else if a = Reg.FT_STEP_CMD then
    let s := if bitAt d 0 then ftArm s else s
    if bitAt d 1 then ftCancel s else s
  else if a = Reg.FT_STEP_ACK then s.ackRes Reg.FT_STEP_RES (d % 256)
  else if a = Reg.MATE_CMD then (if d % 4 = 1 then mateRelease s else s)
  else if a = Reg.MATE_CMD_ACK then s.ackRes Reg.MATE_CMD_RES (d % 256)
  else regWrite s a w

/-- Writes in the LC, PWR, PMON and GRAFT blocks. -/
def writeSys (s : State) (a : Nat) (w : Word) : State :=
  let d := w.toNat
  if a = Reg.LC_CMD then lcCmd s (d % 4) (bits d 8 8)
  else if a = Reg.LC_ACK then s.ackRes Reg.LC_RES (d % 256)
  else if a = Reg.PWR_REQ_CMD then pwrRequest s (bits d 8 3) (if bits d 8 3 ≤ 2 then bits d 0 7 else 0) (bitAt d 11)
  else if a = Reg.PWR_ACK then s.ackRes Reg.PWR_RES (d % 256)
  else if a = Reg.PMON_CTRL then pmonFreeze s w
  else if a = Reg.PMON_SNAP_CMD then (if bitAt d 0 then pmonSnap s else s)
  else if a = Reg.PMON_SNAP_ACK then s.ackRes Reg.PMON_SNAP_RES (d % 256)
  else if a = Reg.GRAFT_CMD then graftCmd s (bits d 4 3) (bits d 0 4)
  else if a = Reg.GRAFT_CMD_ACK then s.ackRes Reg.GRAFT_CMD_RES (d % 256)
  else
    match idxOf (Reg.PWR_LEG_ON 0) 4 3 a, idxOf (Reg.PWR_LEG_OFF 0) 4 3 a, idxOf (Reg.PMON_SEL 0) 4 256 a, idxOf (Reg.GRAFT_E_ACK 0) 0x40 16 a with
    | some m, _, _, _ => legWrite s true m w
    | _, some m, _, _ => legWrite s false m w
    | _, _, some n, _ => if (regRow a).isSome then pmonSelWrite s n w else s
    | _, _, _, some n => graftAck s n (d % 256)
    | none, none, none, none => regWrite s a w

/-- PG_SPARE_CMD (R72): OP 1 REQUEST, 2 RELEASE, 3 TX_BRIDGE, 4 TX_UNBRIDGE. -/
def spareCmd (s : State) (g op lane : Nat) : State :=
  if op = 1 then spareRequest s g lane
  else if op = 2 then spareRelease s g lane
  else if op = 3 then txBridge s g lane
  else if op = 4 then txUnbridge s g lane
  else s

/-- Writes in the PG block, the PM registers, TRK, LEAF, PROT and ENG. -/
def writeLine (s : State) (a : Nat) (w : Word) : State :=
  let d := w.toNat
  if a < 0x1400000 then
    let g := (a - 0x1000000) / 0x10000
    if a = Reg.PG_SPARE_CMD g then spareCmd s g (bits d 0 3) (bits d 4 4)
    else if a = Reg.PG_SPARE_ACK g then s.ackRes (Reg.PG_SPARE_RES g) (d % 256)
    else regWrite s a w
  else if a = Reg.PM_RD_REQ then pmRdReq s (bits d 0 18) (bits d 18 2)
  else if a = Reg.PM_RES_ACK then s.ackRes Reg.PM_RES (d % 256)
  else if a = Reg.TRK_TEST_CMD then (if bitAt d 0 then inject s (bits d 1 7) else s)
  else if a = Reg.LEAF_PM_REQ then leafPmReq s (bits d 0 17) (bits d 17 2)
  else if a = Reg.LEAF_PM_ACK then s.ackRes Reg.LEAF_PM_RES (d % 256)
  else if a = Reg.PROT_CMD then protCmd s (bits d 16 3) (bits d 0 16)
  else if a = Reg.PROT_CMD_ACK then s.ackRes Reg.PROT_CMD_RES (d % 256)
  else if a = Reg.ENG_CMD then (if bits d 7 2 = 1 then takeover s (bits d 0 7) else s)
  else if a = Reg.ENG_CMD_ACK then s.ackRes Reg.ENG_CMD_RES (d % 256)
  else if a = Reg.ENG_TD_CMD then (if bitAt d 0 then tdSnap s else s)
  else if a = Reg.ENG_TD_ACK then s.ackRes Reg.ENG_TD_RES (d % 256)
  else regWrite s a w

/-- A 32-bit register write. -/
def csrWrite (s : State) (a : Nat) (w : Word) : State :=
  if !s.csrAnswers a then s.defaultTarget
  else if a < 0x300000 then writeBoot s a w
  else if a < 0x400000 then writeDma s a w
  else if a < 0x700000 then writeTime s a w
  else if a < 0x1000000 then writeSys s a w
  else writeLine s a w

/-- The registers whose write is a row of its own of the table, or acts as one: their offsets in CSR space. -/
def commandReg (a : Nat) : Bool :=
  [Reg.TOP_RST_CMD, Reg.BOOT_CMD, Reg.BOOT_CMD_ACK, Reg.BOOT_FL_CMD, Reg.BOOT_FL_ACK, Reg.FT_CAP_CMD, Reg.FT_STEP_CMD, Reg.FT_STEP_ACK,
    Reg.MATE_CMD, Reg.MATE_CMD_ACK, Reg.LC_CMD, Reg.LC_ACK, Reg.PWR_REQ_CMD, Reg.PWR_ACK, Reg.PMON_CTRL, Reg.PMON_SNAP_CMD,
    Reg.PMON_SNAP_ACK, Reg.GRAFT_CMD, Reg.GRAFT_CMD_ACK, Reg.PM_RD_REQ, Reg.PM_RES_ACK, Reg.TRK_TEST_CMD, Reg.LEAF_PM_REQ, Reg.LEAF_PM_ACK,
    Reg.PROT_CMD, Reg.PROT_CMD_ACK, Reg.ENG_CMD, Reg.ENG_CMD_ACK, Reg.ENG_TD_CMD, Reg.ENG_TD_ACK].contains a
    || (msixWindow a).isSome || (decide (0x301000 ≤ a) && decide (a < 0x302000)) || (idxOf (Reg.PWR_LEG_ON 0) 4 3 a).isSome
    || (idxOf (Reg.PWR_LEG_OFF 0) 4 3 a).isSome || (idxOf (Reg.PMON_SEL 0) 4 256 a).isSome || (idxOf (Reg.GRAFT_E_ACK 0) 0x40 16 a).isSome
    || (decide (a < 0x1400000) && (a == Reg.PG_SPARE_CMD ((a - 0x1000000) / 0x10000) || a == Reg.PG_SPARE_ACK ((a - 0x1000000) / 0x10000)))

/-! Accesses by internal address (R300). -/

/-- The address is served by its target and not by the default target (R297, R300). -/
def State.answers (s : State) (a : Nat) : Bool :=
  if inCsr a then s.csrAnswers (a - Config.csrBase) else s.isRom a || ((s.memKey a).isSome && s.memUp)

/-- Read an aligned dword; the default target reads 0. -/
def busRead (s : State) (a : Nat) : Nat × State :=
  if inCsr a then csrRead s (a - Config.csrBase)
  else if s.answers a then (leNat ((List.range 4).map fun i => s.intByte (a + i)), s)
  else (0, s)

/-- Write bytes of an aligned dword where their enables say so: CSR space takes whole dwords only (R14, R298). -/
def busWrite (s : State) (a : Nat) (lanes : List (Bool × Byte)) : State :=
  if inCsr a then
    if lanes.all (·.1) then csrWrite s (a - Config.csrBase) (BitVec.ofNat 32 (leNat (lanes.map (·.2))))
    else if s.answers a then s
    else s.defaultTarget
  else if s.answers a then
    ((List.range 4).zip lanes).foldl (fun s x => if x.2.1 then s.intPut (a + x.1) x.2.2 else s) s
  else s

/-! The host port (R295 to R298). -/

/-- One dword of a host request at BAR offset `o`: what a read returns, and the state. `first`: it begins a transfer, which the
default target counts once (R303, R304; log entry 34). -/
def hostDword (s : State) (r : HostReq) (o : Nat) (lanes : List (Bool × Byte)) (first : Bool) : Nat × State :=
  match s.hostAddr r.bar o with
  | some a =>
    let s := if first && !inCsr a && !s.answers a then s.defaultTarget else s
    if r.write then (0, busWrite s a lanes)
    else if inCsr a && !lanes.all (·.1) then (0, if s.answers a then s else s.defaultTarget)
    else busRead s a
  | none => (0, if first then s.defaultTarget else s)

/-- The dwords of a burst in ascending address order (R298); `n`: the dwords still to be served. Beside the words read, it counts how often the
masked block event summary went from zero to non-zero. -/
def hostDwords (r : HostReq) : Nat → Nat → List (Bool × Byte) → List Nat × Nat → State → (List Nat × Nat) × State
  | 0, _, _, acc, s => (acc, s)
  | n + 1, o, lanes, acc, s =>
    let x := hostDword s r o (lanes.take 4) (o == r.offset || o % 1024 == 0)
    hostDwords r n (o + 4) (lanes.drop 4) (acc.1 ++ [x.1], acc.2 + nat01 (x.2.blkPending && !s.blkPending)) x.2

/-- Every rise of the masked summary within one command sends vector 64 (R299); `after` sends the one that is left at its end. -/
def risesSent (s t : State) (n : Nat) : State :=
  (List.range (n - nat01 (t.blkPending && !s.blkPending))).foldl (fun t _ => t.msi 64) t

/-- The dwords of the next burst of a host request of which `pos` are served (R303): to the next 1 KiB boundary, which is 16 beats of 64 bytes;
a BAR0 access is one beat of 4 bytes. -/
def burstDwords (r : HostReq) (pos : Nat) : Nat :=
  if r.bar = 0 then min 1 (r.lanes.length / 4 - pos)
  else min ((1024 - (r.offset + 4 * pos) % 1024) / 4) (r.lanes.length / 4 - pos)

/-- `n` dwords of the oldest host request, from where it stands. -/
def hostBurst (s : State) (r : HostReq) (n : Nat) : (List Nat × Nat) × State :=
  hostDwords r n (r.offset + 4 * s.hostPos) (r.lanes.drop (4 * s.hostPos)) (s.hostAcc, 0) s

/-- Serve the next burst of the oldest host request, `rest` behind it: a write takes effect, a read returns its words in `hostResp` when its last
burst is served (R298, R303). -/
def hostServe (s : State) (r : HostReq) (rest : List HostReq) : State :=
  let n := burstDwords r s.hostPos
  let x := hostBurst s r n
  let t := risesSent s x.2 x.1.2
  if s.hostPos + n < r.lanes.length / 4 then { t with hostPos := s.hostPos + n, hostAcc := x.1.1, hostSince := s.now }
  else
    let t := { t with hostQ := rest, hostPos := 0, hostAcc := [], hostSince := s.now }
    if r.write then t else { t with hostResp := x.1.1.map (BitVec.ofNat 32) }

/-- A request hits a BAR (R295). -/
def reqInBar (r : HostReq) : Bool :=
  let e := r.offset + r.lanes.length
  (r.bar == 0 && decide (e ≤ 0x10000000)) || (r.bar == 2 && decide (e ≤ 0x40000000))

/-- A request keeps to the limits of the endpoint (R295): 512 bytes of payload, 4,096 bytes of a read. -/
def reqFits (r : HostReq) : Bool := decide (r.lanes.length ≤ if r.write then 512 else 4096)

/-- HOST_REQUEST (R295, R298): a request that hits a BAR waits in arrival order; a further non-posted one beyond 32 waits for credit
outside the device. One that hits no BAR completes as Unsupported Request; one beyond the endpoint's limits is no request (log entry 153). -/
def hostRequest (s : State) (r : HostReq) : State :=
  if !s.flag Reg.XBAR_HOST_STAT F.XBAR_HOST_STAT_LINK_UP || !reqFits r then s
  else if !reqInBar r then s.send (.unsupported r.write)
  else if !r.write && 32 ≤ s.npOut then s
  else { s with hostQ := s.hostQ ++ [r], hostSince := if s.hostQ.isEmpty then s.now else s.hostSince }

/-- The identity of the endpoint (R295): vendor, device, class code, revision. -/
def State.hostIdent (s : State) : Nat × Nat × Nat × Nat := (0x0C5D, s.fuses.part, 0xFF0000, s.fuses.stepping)

/-- The crossbar target of the next burst of the oldest host request. -/
def State.reqTarget (s : State) (r : HostReq) : Nat :=
  match s.hostAddr r.bar (r.offset + 4 * s.hostPos) with
  | some a => s.target a
  | none => 0

/-! The crossbar (R302 to R305). -/

/-- The master whose burst holds a target's path; 8 for none. -/
def State.holder8 (s : State) (t : Nat) : Nat := tabGet 8 s.xbHold t

/-- A master may begin at target `t`: no other master's burst holds the path (R303). -/
def State.pathFree (s : State) (t m : Nat) : Bool := t == 0 || s.holder8 t == 8 || s.holder8 t == m

/-- The burst of master `m` at target `t` has ended. -/
def pathDone (s : State) (t m : Nat) : State := if s.holder8 t = m then { s with xbHold := tabSet 8 s.xbHold t 8 } else s

/-- The waiting masters that come first at target `t`: the supervisors in the tail at the HBM controllers, then those that have
waited at least STARVE, the longest waiting, else those of the highest priority (R302). The flag says that waiting decided. -/
def State.xbFirst (s : State) (t : Nat) (l : List (Nat × Nat)) : List Nat × Bool :=
  let sup := l.filter fun x => decide (4 ≤ x.1)
  let l := if 3 ≤ t && 199000 ≤ s.ofs && !sup.isEmpty then sup else l
  let late := l.filter fun x => decide (s.rd (Reg.XBAR_STARVE (t - 1)) ≤ x.2)
  if late.isEmpty then
    let pri := fun (m : Nat) => bits (s.rd (Reg.XBAR_PRI (t - 1))) (3 * m) 3
    let top := l.foldl (fun n x => max n (pri x.1)) 0
    ((l.filter fun x => pri x.1 == top).map (·.1), false)
  else
    let long := late.foldl (fun n x => max n x.2) 0
    ((late.filter fun x => x.2 == long).map (·.1), true)

/-- Round robin in master order, starting after the last winner; before the first win the order starts at master 0 (R302;
log entry 35). -/
def roundRobin (last : Nat) (l : List Nat) : Option Nat :=
  ((List.range 8).map fun k => (last + 1 + k) % 8).find? l.contains

/-- BURST_GRANT (R302): a burst boundary of target `t`, where the masters of `others` wait, each with the cycles it has waited. -/
def burstGrant (s : State) (t : Nat) (others : List (Nat × Nat)) : State :=
  if t = 0 || 4 < t then s
  else
    let x := s.xbFirst t (others.filter fun x => decide (x.1 < 8))
    match roundRobin (tabGet 7 s.xbLast t) x.1 with
    | some m =>
      let s := if x.2 then s.evt Reg.XBAR_EVT F.XBAR_EVT_STARVE else s
      { s with xbHold := tabSet 8 s.xbHold t m, xbLast := tabSet 7 s.xbLast t m }
    | none => { s with xbHold := tabSet 8 s.xbHold t 8 }

/-- The host port and the debug access where they wait for target `t`, with the core cycles they have waited; `m` itself is none of its
rivals. -/
def State.rivals (s : State) (t m : Nat) : List (Nat × Nat) :=
  let host := match s.hostQ with
    | r :: _ => if m ≠ 0 && s.reqTarget r = t && s.inWindow s.ofs then [(0, s.now - s.hostSince)] else []
    | [] => []
  let dbg := match s.dbg.held with
    | some x => if m ≠ 3 && s.target x.2.1 = t && s.inWindow s.ofs then [(3, s.now - s.dbg.heldAt)] else []
    | none => []
  host ++ dbg

/-- What target `t`, whose path is free, chooses when master `m`, which has waited `w` cycles, and its rivals wait (R302): the winner, and whether
waiting decided. -/
def State.xbChoice (s : State) (t m w : Nat) : Option Nat × Bool :=
  let x := s.xbFirst t ((m, w) :: s.rivals t m)
  (roundRobin (tabGet 7 s.xbLast t) x.1, x.2)

/-- Master `m` may begin a burst at target `t` now (R302, R303): it holds the path, or the path is free and no rival is chosen before it. -/
def State.mayBegin (s : State) (t m w : Nat) : Bool :=
  s.pathFree t m && (t == 0 || s.holder8 t == m || (s.rivals t m).isEmpty || (s.xbChoice t m w).1 == some m)

/-- Master `m` begins and ends a burst at target `t`: the path is free again, and a choice that was made stands. -/
def pathTake (s : State) (t m w : Nat) : State :=
  if t = 0 || s.holder8 t = m || (s.rivals t m).isEmpty then pathDone s t m
  else
    let s := if (s.xbChoice t m w).2 then s.evt Reg.XBAR_EVT F.XBAR_EVT_STARVE else s
    { s with xbLast := tabSet 7 s.xbLast t m }

/-! DMA beats (R313, R316). -/

/-- A descriptor that can still move bytes. -/
def State.chanLive (s : State) (c : Nat) : Option Desc :=
  match (s.chan c).desc with
  | some d => if (s.descDue c).isNone && (s.chanSt c == 1 || s.chanSt c == 4) then some d else none
  | none => none

/-- The internal address of the next beat of a descriptor and the most bytes it may move: to the next 64-byte boundary, the end of the
descriptor, of the ring, and of the records its run or its HI level allows (R303, R313, R316). -/
def State.beatSpan (s : State) (c : Nat) (d : Desc) : Nat × Nat :=
  let x := s.chan c
  if d.op ≤ 2 then
    let a := d.int + x.moved
    (a, min (64 - a % 64) (d.len - x.moved))
  else
    match s.qdef d.queue with
    | some q =>
      let y := s.que d.queue
      let n := 16 * q.units
      let pos := (if d.op = 3 then y.rd else y.wr) * n + y.part
      let recs := if d.op = 4 then q.hi - y.fill else if y.runHi then y.fill - q.lo else y.fill
      let a := q.base + pos
      (a, min (min (64 - a % 64) (d.len - x.moved)) (min (2 ^ q.log2 * n - pos) (recs * n - y.part)))
    | none => (0, 0)

/-- Channel `c` has an internal beat ready: data to write, or a read (R313), and its target serves the DMA engine now (R302, R303; log entry 73). -/
def State.beatReady (s : State) (c : Nat) : Bool :=
  match s.chanLive c with
  | some d =>
    let n := (s.beatSpan c d).2
    let have_ := decide (n ≤ (s.chan c).buf.length)
    s.mayBegin (s.target (s.beatSpan c d).1) 1 0 && decide (0 < n) &&
      (if d.op = 1 then have_ else if d.op = 2 then true else if d.op = 3 then s.queRun d.queue
       else have_ && !s.queHold d.queue)
  | none => false

/-- The channel that wins a beat slot (R313). -/
def State.beatWinner (s : State) (ready : List Nat) : Option Nat :=
  let under := ready.filter fun c => decide ((s.chan c).used < s.rd (Reg.DMA_CH_RSV c))
  let pool := if under.isEmpty then ready else under
  let pri := fun (c : Nat) => s.fld (Reg.DMA_CH_CFG c) F.DMA_CH_CFG_PRI
  let top := pool.foldl (fun n c => max n (pri c)) 0
  pool.find? fun c => pri c == top

/-- The queue after a beat of `n` bytes: records leave when their last byte is read and enter when it is written; runs
end (R315, R316). The flag says that a run ended. -/
def queBeat (q : QueDef) (y : Que) (n now : Nat) : Que × Bool :=
  let size := 16 * q.units
  let k := (y.part + n) / size
  let part := (y.part + n) % size
  if q.fromHost then
    let fill := y.fill + k
    ({ y with fill := fill, wr := (y.wr + k) % 2 ^ q.log2, part := part, stamps := y.stamps ++ List.replicate k now,
              hold := decide (q.hi ≤ fill) }, false)
  else
    let fill := y.fill - k
    let hi := y.runHi && decide (q.lo < fill)
    let fl := y.runFl && decide (0 < fill)
    ({ y with fill := fill, rd := (y.rd + k) % 2 ^ q.log2, part := part, stamps := y.stamps.drop k, runHi := hi, runFl := fl },
      (y.runHi && !hi) || (y.runFl && !fl))

/-- Write the bytes of a beat at an internal address. -/
def beatWrite (s : State) (a : Nat) (l : List Byte) : State :=
  if inCsr a then
    let x := (List.range (l.length / 4)).foldl (fun (x : State × Nat) i =>
      let t := csrWrite x.1 (a - Config.csrBase + 4 * i) (BitVec.ofNat 32 (leAt l (4 * i) 4))
      (t, x.2 + nat01 (t.blkPending && !x.1.blkPending))) (s, 0)
    risesSent s x.1 x.2
  else
    match s.memKey a with
    | some k => s.memPut k l
    | none => s

/-- Read the bytes of a beat at an internal address. -/
def beatRead (s : State) (a n : Nat) : List Byte × State :=
  if inCsr a then
    (List.range (n / 4)).foldl (fun (x : List Byte × State) i =>
      let r := csrRead x.2 (a - Config.csrBase + 4 * i)
      (x.1 ++ leBytes r.1 4, r.2)) ([], s)
  else ((List.range n).map fun i => s.intByte (a + i), s)

/-- One beat of channel `c`; a beat that would reach the default target ends the descriptor with TARGET_ERROR (R304). -/
def beatMove (s : State) (c : Nat) (d : Desc) : State :=
  let x := s.beatSpan c d
  let a := x.1
  let n := x.2
  let ok := (List.range n).all fun i => s.answers ((a + i) / 4 * 4)
  if !ok then s.defaultTarget.updChan c fun y => { y with code := some dTarget }
  else
    let y := s.chan c
    let s :=
      if d.op = 1 || d.op = 4 then (beatWrite s a (y.buf.take n)).updChan c fun y => { y with buf := y.buf.drop n, moved := y.moved + n }
      else
        let r := beatRead s a n
        (r.2.send (.hostWrite (d.host + y.moved) r.1)).updChan c fun y => { y with moved := y.moved + n }
    if d.op ≤ 2 then s
    else
      match s.qdef d.queue with
      | some q =>
        let r := queBeat q (s.que d.queue) n s.elapsed
        let s := s.setQue d.queue r.1
        if r.2 then s.updChan c fun y => { y with ranOut := true } else s
      | none => s

/-- An offset at which the DMA engine has a beat slot: every fourth core cycle, before release at every offset, then inside the running
host windows (R313). -/
def State.beatSlot (s : State) : Bool :=
  s.clk && (if s.released then s.hostWins.any fun w => decide (w.1 ≤ s.ofs) && decide (s.ofs < w.1 + w.2) && (s.ofs - w.1) % 4 == 0
    else s.ofs % 4 == 0)

/-- DMA_BEAT (R313): once per beat slot. -/
def dmaBeat (s : State) : State :=
  if !s.beatSlot || s.beatAt == some s.now then s
  else
    let s := { s with beatAt := some s.now }
    let ready := (List.range 64).filter s.beatReady
    let win := s.beatWinner ready
    let s := ready.foldl (fun s c => if (s.chan c).won && win != some c then s.count 0xA1 c 1 else s) s
    let s := (List.range 64).foldl (fun s c =>
      let w := win == some c
      if (s.chan c).won = w then s else s.updChan c fun y => { y with won := w }) s
    match win with
    | some c =>
      match s.chanLive c with
      | some d =>
        let s := pathTake s (s.target (s.beatSpan c d).1) 1 0
        let s := (s.updChan c fun y => { y with used := y.used + 1 }).count 0xA0 c 1
        chanAsk (beatMove s c d) c
      | none => s
    | none => s

/-! Debug accesses (R325, R327). -/

/-- CDA-M is open: never in reset (R327). -/
def State.cdaM (s : State) : Bool := !s.inReset

/-- CDA-F is open (R327). -/
def State.cdaF (s : State) : Bool :=
  !s.inReset && (s.lcState == 0 || s.lcState == 1 || (s.inReturn && s.fuses.zeroised))

/-- CAPTURE is open (R327). -/
def State.capOpen (s : State) : Bool := !s.inReset && (s.lcState == 0 || s.lcState == 1)

/-- BSCAN-X is accepted (R326, R327). -/
def State.bscanX (s : State) : Bool :=
  s.pins.powerGood && (s.inReset || (s.bootStep == 9 && !(s.inReturn && !s.fuses.zeroised)))

/-- A management address that CDA-M reaches: TOP, BOOT without flash commands, XBAR, FT, TIM, MATE, LC, PWR, PMON (R325). -/
def cdaMgmt (a : Nat) (write : Bool) : Bool :=
  inCsr a &&
    let o := a - Config.csrBase
    (decide (o < 0x300000) || (decide (0x400000 ≤ o) && decide (o < 0xA00000))) && !(write && o == Reg.BOOT_FL_CMD)

/-- R327 allows a debug access to internal address `a`. -/
def State.cdaAllows (s : State) (a : Nat) (write : Bool) : Bool := s.cdaF || (s.cdaM && cdaMgmt a write)

/-- An address of the capture buffer, 4 MiB that only CDA-F reads (R325): where it lies is a free value, and nothing that R300 maps. -/
def State.inCapture (s : State) (a : Nat) : Bool :=
  s.cdaF && decide (Config.captureBase ≤ a) && decide (a < Config.captureBase + 4194304) && !s.answers a

/-- A dword of the capture buffer. -/
def State.capWord (s : State) (a : Nat) : Nat := leNat (Tab.getRange memDefault s.dbg.capBuf (a - Config.captureBase) 4)

/-- A debug access is carried out as one 4-byte beat (R325): data and status 0 OK or 3 DEFAULT. In CSR space one that is not aligned is
completed without effect and reads 0 (R14). -/
def cdaServe (s : State) (write : Bool) (addr : Nat) (w : Word) : State :=
  let a := addr / 4 * 4
  let odd := inCsr a && addr % 4 != 0
  let cap := s.inCapture a
  let st := if s.answers a || cap then 0 else 3
  let s := if st = 3 && (odd || !inCsr a) then s.defaultTarget else s
  let r : Nat × State :=
    if odd then (0, s)
    else if cap then (if write then 0 else s.capWord a, s)
    else if write then (0, busWrite s a ((leBytes w.toNat 4).map fun b => (true, b))) else busRead s a
  let s := { r.2 with dbg := { r.2.dbg with status := st, held := none } }
  s.send (.cda (BitVec.ofNat 32 r.1) st)

/-! Beginning a held access (R37). -/

/-- The power domain of the registers at an internal address (R329). -/
def addrDom (a : Nat) : Option Nat := if inCsr a then csrDom (a - Config.csrBase) else none

/-- A burst that has begun toward a domain that drains meanwhile completes there (R332): the block still answers it. -/
def begun (s : State) (a : Nat) (op : State → State) : State :=
  match addrDom a with
  | some d =>
    if s.domSt d = 3 && s.inFlight d then
      let t := op (s.setFld (Reg.PWR_DOM_STAT d) F.PWR_DOM_STAT_STATE 2)
      t.setFld (Reg.PWR_DOM_STAT d) F.PWR_DOM_STAT_STATE 3
    else op s
  | none => op s

/-- HOST_ACCESS_BEGIN (R37): a burst of the oldest host request, a DMA beat, or the held debug access begins, inside a host window and
when its target chooses it (R302, R303). -/
def accessBegin (s : State) (m : Nat) : State :=
  if m = 0 then
    match s.hostQ with
    | r :: rest =>
      let t := s.reqTarget r
      let w := s.now - s.hostSince
      if s.inWindow s.ofs && s.mayBegin t 0 w then
        begun s ((s.hostAddr r.bar (r.offset + 4 * s.hostPos)).getD 0) fun s => hostServe (pathTake s t 0 w) r rest
      else s
    | [] => s
  else if m = 1 then dmaBeat s
  else if m = 3 then
    match s.dbg.held with
    | some x =>
      let t := s.target x.2.1
      let w := s.now - s.dbg.heldAt
      if s.inWindow s.ofs && s.mayBegin t 3 w then begun s x.2.1 fun s => cdaServe (pathTake s t 3 w) x.1 x.2.1 x.2.2 else s
    | none => s
  else s

/-- The burst of the host port that holds a path when the port is reset (R305): of a write, its first beats, as many as were served, have taken
effect, and the rest go out with their byte strobes off; of a read, every beat is taken from the target and discarded. -/
def hostCut (s : State) : State :=
  match s.hostQ with
  | r :: _ =>
    if s.holder8 (s.reqTarget r) = 0 then
      let b := burstDwords r s.hostPos
      let n := if r.write then min (Config.beatsServed s.freeCount * (if r.bar = 0 then 1 else 16)) b else b
      (hostBurst s.drawn r n).2
    else s
  | [] => s

/-- HOST_PORT_RESET (R292, R295, R299, R305): only the host port is reset; its MSI-X table with it (log entry 15). -/
def hostReset (s : State) : State :=
  let s := masterReset (hostCut s) 0
  { s.wr Reg.XBAR_HOST_STAT 0 with hostQ := [], hostPos := 0, hostAcc := [], msix := [], msixPend := [] }

/-- HOST_LINK_UP (R295, R318). -/
def linkTrained (s : State) (speed width : Nat) : State :=
  if s.inReset then s
  else ((s.setFlag Reg.XBAR_HOST_STAT F.XBAR_HOST_STAT_LINK_UP true).setFld Reg.XBAR_HOST_STAT F.XBAR_HOST_STAT_SPEED speed).setFld
    Reg.XBAR_HOST_STAT F.XBAR_HOST_STAT_WIDTH width

/-- REGISTER_WRITE (R11): a write of the register at a CSR offset; a register with a row of its own acts as that row does. -/
def execRegisterWrite (addr : Nat) (data : Word) (s : State) : Host.Outcome State Fault Refusal := checked (.registerWrite addr data) s (csrWrite s addr data)
/-- PAIR_LOW_READ (R12). -/
def execPairLowRead (addr : Nat) (s : State) : Host.Outcome State Fault Refusal :=
  let r := csrRead s addr
  checked (.pairLowRead addr) s { r.2 with hostResp := [BitVec.ofNat 32 r.1] }
/-- ODD_WIDTH_ACCESS (R14): no effect, and a read returns 0. -/
def execOddWidthAccess (addr bytes : Nat) (write : Bool) (s : State) : Host.Outcome State Fault Refusal :=
  let t := if s.csrAnswers (addr / 4 * 4) then s else s.defaultTarget
  checked (.oddWidthAccess addr bytes write) s (if write then t else { t with hostResp := List.replicate ((bytes + 3) / 4) 0 })
/-- DEFAULT_TARGET_ACCESS (R304): a read returns 0, a write is discarded; only PMON counts it. -/
def execDefaultTargetAccess (addr : Nat) (write : Bool) (s : State) : Host.Outcome State Fault Refusal :=
  checked (.defaultTargetAccess addr write) s (if write then s.defaultTarget else { s.defaultTarget with hostResp := [0] })
/-- HOST_REQUEST (R298). -/
def execHostRequest (r : HostReq) (s : State) : Host.Outcome State Fault Refusal := checked (.hostRequest r) s (hostRequest s r)
/-- HOST_ACCESS_BEGIN (R37). -/
def execHostAccessBegin (master : Nat) (s : State) : Host.Outcome State Fault Refusal := checked (.hostAccessBegin master) s (accessBegin s master)
/-- BURST_GRANT (R302). -/
def execBurstGrant (target : Nat) (others : List (Nat × Nat)) (s : State) : Host.Outcome State Fault Refusal :=
  checked (.burstGrant target others) s (burstGrant s target others)
/-- HOST_PORT_RESET (R292). -/
def execHostPortReset (s : State) : Host.Outcome State Fault Refusal := checked .hostPortReset s (hostReset s)
/-- BLK_MASK_WRITE (R299): vector 64 follows from `after`. -/
def execBlkMaskWrite (data : Word) (s : State) : Host.Outcome State Fault Refusal :=
  checked (.blkMaskWrite data) s (s.host Reg.XBAR_BLK_MASK fun s => regWrite s Reg.XBAR_BLK_MASK data)
/-- DMA_BEAT (R313). -/
def execDmaBeat (s : State) : Host.Outcome State Fault Refusal := checked .dmaBeat s (dmaBeat s)
/-- HOST_LINK_UP (R295). -/
def execHostLinkUp (speed width : Nat) (s : State) : Host.Outcome State Fault Refusal := checked (.hostLinkUp speed width) s (linkTrained s speed width)

end Sys2Proof.Machine
end

