-- ==== Sys2Proof/Machine/Debug.lean ====
section
/-! DEFINITION. The test access port, debug sessions and captures (R325 to R327). -/

namespace Sys2Proof.Machine

/-- An instruction of the test access port is selected: any but CDA_ACCESS closes a session, and any but those of BSCAN-X leaves the
boundary pins (R325). Without power the port does nothing (R327). -/
def tapSelect (s : State) (ir drive : Nat) : State :=
  let s := if s.dbg.sess && ir ≠ 0x20 then sessionClose s else s
  { s with dbg := { s.dbg with ir := ir, drive := drive } }

/-- An instruction that works whenever the module is powered. -/
def tapOp (s : State) (op : State → State) : State := if s.pins.powerGood then op s else s

/-- BSCAN-X (R325, R326): in any other condition than reset or NO_IMAGE it is BYPASS. -/
def tapDrive (s : State) (ir drive : Nat) : State := if s.bscanX then tapSelect s ir drive else tapSelect s 0xFF 0

/-- How the boundary pins are driven now (R326). -/
def State.driving (s : State) : Nat := if s.bscanX then s.dbg.drive else 0

/-- CDA_ACCESS is selected (R325): a session opens, unless a reset holds the path closed (R327). -/
def cdaSelect (s : State) : State :=
  let s := tapSelect s 0x20 0
  if s.dbg.sess || !s.cdaM then s
  else { s with dbg := { s.dbg with sess := true, status := 0 } }.evt Reg.LC_EVT F.LC_EVT_DBG_OPEN

/-- A CDA access that R327 forbids (R325). -/
def cdaDenied (s : State) : State :=
  { s with dbg := { s.dbg with status := 1 } }.evt Reg.LC_EVT F.LC_EVT_DBG_DENIED |>.send (.cda 0 1)

/-- One CDA access (R325): in a session only; denied, begun at once, or held until a host window opens and its target is free. While
one is held, a further one is not taken (log entry 36). -/
def cdaAccess (s : State) (write : Bool) (addr : Nat) (data : Word) : State :=
  let a := addr / 4 * 4
  if !s.pins.powerGood || !s.dbg.sess then s
  else if !s.cdaAllows a write then cdaDenied s
  else if s.dbg.held.isSome then s.send (.cda 0 2)
  else if s.inWindow s.ofs && s.mayBegin (s.target a) 3 0 then cdaServe (pathTake s (s.target a) 3 0) write addr data
  else { s with dbg := { s.dbg with held := some (write, addr, data), heldAt := s.now, status := 2 } }.send (.cda 0 2)

/-- The domain of a captured object: LEAFD for a leaf carrier and its core slot, the group's for a line core slot (log entry 37). -/
def capDomain (leaf : Bool) (i : Nat) : Nat := if leaf || 40960 ≤ i then 64 else i / 640

/-- CDA_CAPTURE (R325, R327): from the next frame on; an object in a domain that is off gives an empty capture with status
DEFAULT. -/
def capStart (s : State) (leaf : Bool) (i n : Nat) : State :=
  let s := tapSelect s 0x21 0
  if !s.capOpen then cdaDenied s
  else
    let s := captureClose s
    if s.domOn (capDomain leaf i) then
      { s with dbg := { s.dbg with cap := some ⟨leaf, i, n, s.elapsed⟩, status := 0 } }
    else { s with dbg := { s.dbg with status := 3 } }.send (.cda 0 3)

/-- MAKER (R325): instructions 0x30 to 0x3F where maker debug is open (R327), else BYPASS. In BLANK one of them orders DEVELOP
(R321); what else they do, the spec does not say (log entry 10). -/
def makerOp (s : State) (code : Nat) : State :=
  if !s.makerOpen then tapSelect s 0xFF 0
  else
    let s := (tapSelect s code 0).send (.tap (Config.makerData s.freeCount).toNat)
    let t := if s.lcState = 0 && Config.makerDevelops s.freeCount then pathsClose (lcProgram s 1) else s
    t.drawn

/-! The capture buffer. -/

/-- The words of core slot `t` of the frame that ended, as its object brings them to the trunk (R107, R325). -/
def State.slotWords (s : State) (demap : List (Nat × Nat)) (t fnLo : Nat) : List Byte :=
  match s.img with
  | some m => if 40960 ≤ t || hKind (m.slotOdu t) = 2 then s.inputWords m demap t fnLo else []
  | none => []

/-- The bytes of a captured leaf carrier's frame that the elastic store released last, by frame byte (R143): overhead and leaves. -/
def State.carWords (s : State) (c : Nat) : List (Nat × Byte) :=
  (s.car c).last.2.map fun x => (if x.1 < 65536 then 65 * (x.1 / 64) + 1 + x.1 % 64 else 65 * (x.1 - 65536), x.2)

/-- A capture in progress takes the frame that ended (R325): frames follow each other in the buffer. It ends with status DEFAULT when its
object's domain is not on any more (R327). -/
def captureFrame (s : State) (demap : List (Nat × Nat)) (fnLo : Nat) : State :=
  match s.dbg.cap with
  | some c =>
    if !s.domOn (capDomain c.leaf c.index) then { s with dbg := { s.dbg with cap := none, status := 3 } }
    else if s.elapsed ≤ c.since + 1 then s
    else
      let p := s.dbg.capPos
      let buf :=
        if c.leaf then (s.carWords c.index).foldl (fun b x => Tab.set memDefault b (p + x.1) x.2) s.dbg.capBuf
        else Tab.setRange memDefault s.dbg.capBuf p (s.slotWords demap c.index (fnLo % 4294967296))
      { s with dbg := { s.dbg with capBuf := buf, capPos := p + (if c.leaf then 66560 else 86016),
                                   cap := if c.left ≤ 1 then none else some { c with left := c.left - 1 } } }
  | none => s

/-- CDA_READ (R325). -/
def execCdaRead (addr : Nat) (s : State) : Host.Outcome State Fault Refusal := checked (.cdaRead addr) s (cdaAccess s false addr 0)
/-- CDA_WRITE (R325). -/
def execCdaWrite (addr : Nat) (data : Word) (s : State) : Host.Outcome State Fault Refusal := checked (.cdaWrite addr data) s (cdaAccess s true addr data)
/-- CDA_CAPTURE (R325). -/
def execCdaCapture (leaf : Bool) (index frames : Nat) (s : State) : Host.Outcome State Fault Refusal :=
  checked (.cdaCapture leaf index frames) s (tapOp s fun s => capStart s leaf index frames)
/-- DEBUG_SESSION_CLOSE (R325): TRST_N, which also selects IDCODE (IEEE 1149.1; log entry 16). -/
def execDebugSessionClose (s : State) : Host.Outcome State Fault Refusal := checked .debugSessionClose s (tapOp s fun s => tapSelect s 0x01 0)
/-- BYPASS (R325). -/
def execBypass (s : State) : Host.Outcome State Fault Refusal := checked .bypass s (tapOp s fun s => tapSelect s 0xFF 0)
/-- IDCODE (R325). -/
def execIdcode (s : State) : Host.Outcome State Fault Refusal :=
  checked .idcode s (tapOp s fun s => (tapSelect s 0x01 0).send (.tap s.fuses.idcode))
/-- SAMPLE/PRELOAD (R325): the boundary register is a free value. -/
def execSamplePreload (s : State) : Host.Outcome State Fault Refusal :=
  checked .samplePreload s (tapOp s fun s => ((tapSelect s 0x02 0).send (.tap (Config.boundarySample s.freeCount).toNat)).drawn)
/-- EXTEST (R326). -/
def execExtest (s : State) : Host.Outcome State Fault Refusal := checked .extest s (tapOp s fun s => tapDrive s 0x03 1)
/-- CLAMP (R326). -/
def execClamp (s : State) : Host.Outcome State Fault Refusal := checked .clamp s (tapOp s fun s => tapDrive s 0x04 2)
/-- HIGHZ (R326). -/
def execHighz (s : State) : Host.Outcome State Fault Refusal := checked .highz s (tapOp s fun s => tapDrive s 0x05 3)
/-- MAKER (R325). -/
def execMaker (code : Nat) (s : State) : Host.Outcome State Fault Refusal := checked (.maker code) s (tapOp s fun s => makerOp s code)
/-- CDA_ACCESS (R325). -/
def execCdaAccess (s : State) : Host.Outcome State Fault Refusal := checked .cdaAccess s (tapOp s cdaSelect)

end Sys2Proof.Machine
end

