-- ==== Sys2Proof/Machine/Boundary.lean ====
section
/-! DEFINITION. The frame boundary (R33, R35): everything that happens of itself at offset 0, and the passing of time while no command
waits. What the table lists as a command of its own (RELABEL, GRAFT_APPLY, PM_SECOND_END and the like) is not done here. -/

namespace Sys2Proof.Machine

/-- No sample changes. -/
def noInput : FrameInput :=
  { els := [], refs := [], outFreq := none, phaseErr := none, patrolCor := 0, patrolUnc := [], demap := [], mapErr := [], ramUnc := false, oduf := [], lanePwr := [],
    prbs := [], zeroBad := false }

/-- One frame of the slew onto the active unit: 10 core cycles toward 0, once the FN has been taken (R42, R209). -/
def mateSlew (s : State) : State :=
  if s.mate.newFn.isNone && s.mate.slew ≠ 0 then
    s.updMate fun m => { m with slew := if 0 < m.slew then max 0 (m.slew - 10) else min 0 (m.slew + 10) }
  else s

/-- The FN of the frame that begins: FN + 1, or, before release, the one that follows the active unit's (R35, R209). -/
def State.nextFn (s : State) : Nat := fnPlus ((if s.released then none else s.mate.newFn).getD s.fnN) 1

/-- What a lock onto the active unit waits for, in the frame that begins (R209): a relabel to the FN that the active unit then has. -/
def mateNext (s : State) : State :=
  let rel := s.released
  s.updMate fun m => { m with newFn := if rel then m.newFn.map (fnPlus · 1) else none, cut := none }

/-- The counters of time at offset 0 (R33 to R35): the bus words of the frame arrive, its cycles are counted, FN, offset and elapsed
frames advance, and what governs from a boundary on is taken over (R80, R265, R266). -/
def timeFrame (s : State) : State :=
  let s := busDrain s
  let last := s.frameEnd
  let s := mateSlew (slewFrame (s.passCycles s.ofs last))
  let f := s.nextFn
  let s := failTimes (mateNext s)
  { s with pmonWas := s.pmonFrozen, pmonFrozen := s.flag Reg.PMON_CTRL F.PMON_CTRL_FREEZE, pmonOld := [], fn := BitVec.ofNat 48 f, ofs := 0,
           elapsed := s.elapsed + 1, ppsAge := s.ppsAge + 1, boot := { s.boot with cut := s.boot.cut + (200000 - last) } }

/-- The summaries of the frame that ended cross the state bus: every quadrant sends a word for each input of an engine of another one (R26, R193,
R267; log entry 78). -/
def busPublish (s : State) : State :=
  match s.img with
  | some m =>
    (List.range 4).foldl (fun s q =>
      let others := fun (f : Nat → Nat) => ((List.range 5).filter (· != q)).foldl (fun n t => n + f t) 0
      (s.count 0x20 q (others fun t => if t < 4 then m.inputWords q t else 0)).count 0x21 q (others fun t => m.inputWords t q)) s
  | none => s

/-- The data plane and the timing unit at a boundary (R75, R113, R163, R199, R203, R261): what the frame that ended brought is taken and
sampled, then the next one begins. -/
def planeFrame (s : State) (inp : FrameInput) (ended : Nat) : State :=
  let s := captureFrame (settle s) inp.demap ended
  if s.released then
    let s := leafPre (trunkEnd s inp ended) inp
    let s := timFrame (pmFrame (opticalFrame (defectSample s) inp)) inp
    busPublish (engFrame (protFrame (leafFrame (trunkFrame s) inp)))
  else timFrame (opticalFrame s inp) inp

/-- The DMA engine's beat counts start anew (R313). -/
def dmaFrame (s : State) : State :=
  (s.chans.map (·.1)).foldl (fun s c => s.updChan c fun x => { x with used := 0 }) s

/-- FRAME_BOUNDARY (R35) with the physical samples of the frame that ended. -/
def boundary (s : State) (inp : FrameInput) : State :=
  if !s.clk then s
  else
    let ended := s.fnN
    let unc := !inp.patrolUnc.isEmpty || !inp.mapErr.isEmpty || inp.ramUnc
    let s := reqBoundary (planeFrame (timeFrame s) inp ended)
    let s := pmonFrame (mateFrame s unc)
    elsReform (bootFrame (lcReturnStep (powerFrame (dmaFrame s))) inp.zeroBad)

/-- No command waits: one core cycle passes, which at the last offset of the frame is the boundary (log entry 1). -/
def tick (s : State) : State :=
  if !s.clk then s else if s.ofs + 1 < s.frameEnd then s.toOfs (s.ofs + 1) else boundary s noInput

/-- The state after a core cycle with no command. -/
def idle (s : State) : State := after s (tick s)

/-- FRAME_BOUNDARY (R35). -/
def execFrameBoundary (inp : FrameInput) (s : State) : Host.Outcome State Fault Refusal := checked (.frameBoundary inp) s (boundary s inp)

end Sys2Proof.Machine
end

