-- ==== Sys2Proof/Machine/Dispatch.lean ====
section
/-! DEFINITION. The meaning of each command: one arm per constructor of `Instr`, one direct call of its meaning. -/

namespace Sys2Proof.Machine

/-- What command `i` does to everything but the queue. -/
def exec (i : Instr) (s : State) : Host.Outcome State Fault Refusal :=
  match i with
  | .registerWrite addr data => Sys2Proof.Machine.execRegisterWrite addr data s
  | .pairLowRead addr => Sys2Proof.Machine.execPairLowRead addr s
  | .oddWidthAccess addr bytes write => Sys2Proof.Machine.execOddWidthAccess addr bytes write s
  | .defaultTargetAccess addr write => Sys2Proof.Machine.execDefaultTargetAccess addr write s
  | .hostRequest r => Sys2Proof.Machine.execHostRequest r s
  | .hostAccessBegin master => Sys2Proof.Machine.execHostAccessBegin master s
  | .burstGrant target others => Sys2Proof.Machine.execBurstGrant target others s
  | .hostPortReset => Sys2Proof.Machine.execHostPortReset s
  | .blkMaskWrite data => Sys2Proof.Machine.execBlkMaskWrite data s
  | .powerGoodRise => Sys2Proof.Machine.execPowerGoodRise s
  | .powerGoodFall => Sys2Proof.Machine.execPowerGoodFall s
  | .resetAssert => Sys2Proof.Machine.execResetAssert s
  | .resetRelease => Sys2Proof.Machine.execResetRelease s
  | .coreClockStable => Sys2Proof.Machine.execCoreClockStable s
  | .alignWaitTimeout => Sys2Proof.Machine.execAlignWaitTimeout s
  | .dataPlaneRelease => Sys2Proof.Machine.execDataPlaneRelease s
  | .frameBoundary inp => Sys2Proof.Machine.execFrameBoundary inp s
  | .elsStateChange fibre => Sys2Proof.Machine.execElsStateChange fibre s
  | .mateLaserMove lane biasOk => Sys2Proof.Machine.execMateLaserMove lane biasOk s
  | .stateBusDelivery => Sys2Proof.Machine.execStateBusDelivery s
  | .ppsEdge => Sys2Proof.Machine.execPpsEdge s
  | .ppsLoss => Sys2Proof.Machine.execPpsLoss s
  | .todInMessage bytes => Sys2Proof.Machine.execTodInMessage bytes s
  | .capture => Sys2Proof.Machine.execCapture s
  | .arm => Sys2Proof.Machine.execArm s
  | .cancelStep => Sys2Proof.Machine.execCancelStep s
  | .stepAck seq => Sys2Proof.Machine.execStepAck seq s
  | .relabel => Sys2Proof.Machine.execRelabel s
  | .stepApplied => Sys2Proof.Machine.execStepApplied s
  | .bin15MinuteStart => Sys2Proof.Machine.execBin15MinuteStart s
  | .bin24HourStart => Sys2Proof.Machine.execBin24HourStart s
  | .pmClosureWrite => Sys2Proof.Machine.execPmClosureWrite s
  | .laneSuperframeSend g lane => Sys2Proof.Machine.execLaneSuperframeSend g lane s
  | .laneTagReceive g lane tag => Sys2Proof.Machine.execLaneTagReceive g lane tag s
  | .spareAction g => Sys2Proof.Machine.execSpareAction g s
  | .laneLightLoss g lane => Sys2Proof.Machine.execLaneLightLoss g lane s
  | .laneDegraded g lane => Sys2Proof.Machine.execLaneDegraded g lane s
  | .spareTimeout g => Sys2Proof.Machine.execSpareTimeout g s
  | .spareVerifyEnd g pass => Sys2Proof.Machine.execSpareVerifyEnd g pass s
  | .autoRequestPauseEnd g => Sys2Proof.Machine.execAutoRequestPauseEnd g s
  | .spareRequest g lane => Sys2Proof.Machine.execSpareRequest g lane s
  | .spareRelease g lane => Sys2Proof.Machine.execSpareRelease g lane s
  | .txBridge g lane => Sys2Proof.Machine.execTxBridge g lane s
  | .txUnbridge g lane => Sys2Proof.Machine.execTxUnbridge g lane s
  | .spareAck g seq => Sys2Proof.Machine.execSpareAck g seq s
  | .otucFrameReceive slice rx => Sys2Proof.Machine.execOtucFrameReceive slice rx s
  | .oduFrameReceive odu rx => Sys2Proof.Machine.execOduFrameReceive odu rx s
  | .oduAisInsert odu => Sys2Proof.Machine.execOduAisInsert odu s
  | .oduAisRemove odu => Sys2Proof.Machine.execOduAisRemove odu s
  | .failureRaise ent code => Sys2Proof.Machine.execFailureRaise ent code s
  | .failureClear ent code => Sys2Proof.Machine.execFailureClear ent code s
  | .gccFlush port ch => Sys2Proof.Machine.execGccFlush port ch s
  | .gccTxRecord port ch => Sys2Proof.Machine.execGccTxRecord port ch s
  | .pmSecondEnd => Sys2Proof.Machine.execPmSecondEnd s
  | .pmRdReq ent sel => Sys2Proof.Machine.execPmRdReq ent sel s
  | .pmSnapshot => Sys2Proof.Machine.execPmSnapshot s
  | .pmResAck seq => Sys2Proof.Machine.execPmResAck seq s
  | .remapRecentre output => Sys2Proof.Machine.execRemapRecentre output s
  | .inject sw => Sys2Proof.Machine.execInject sw s
  | .testWordCheck link unit place word => Sys2Proof.Machine.execTestWordCheck link unit place word s
  | .middleCollision middle egress low high => Sys2Proof.Machine.execMiddleCollision middle egress low high s
  | .claim => Sys2Proof.Machine.execClaim s
  | .commit entry => Sys2Proof.Machine.execCommit entry s
  | .cancel entry => Sys2Proof.Machine.execCancel entry s
  | .rollback => Sys2Proof.Machine.execRollback s
  | .graftCmdAck seq => Sys2Proof.Machine.execGraftCmdAck seq s
  | .graftEAck entry seq => Sys2Proof.Machine.execGraftEAck entry seq s
  | .graftValidationDone entry => Sys2Proof.Machine.execGraftValidationDone entry s
  | .graftArm => Sys2Proof.Machine.execGraftArm s
  | .shadowReady => Sys2Proof.Machine.execShadowReady s
  | .graftApply memErr => Sys2Proof.Machine.execGraftApply memErr s
  | .graftDomainDrain => Sys2Proof.Machine.execGraftDomainDrain s
  | .leafCarrierFrame carrier rx => Sys2Proof.Machine.execLeafCarrierFrame carrier rx s
  | .dqlcClear carrier => Sys2Proof.Machine.execDqlcClear carrier s
  | .leafPmReq ent sel => Sys2Proof.Machine.execLeafPmReq ent sel s
  | .leafPmSnapshot => Sys2Proof.Machine.execLeafPmSnapshot s
  | .leafPmAck seq => Sys2Proof.Machine.execLeafPmAck seq s
  | .lo group => Sys2Proof.Machine.execLo group s
  | .fs group => Sys2Proof.Machine.execFs group s
  | .msP group => Sys2Proof.Machine.execMsP group s
  | .msW group => Sys2Proof.Machine.execMsW group s
  | .clear group => Sys2Proof.Machine.execClear group s
  | .protCmdAck seq => Sys2Proof.Machine.execProtCmdAck seq s
  | .protEvaluation group => Sys2Proof.Machine.execProtEvaluation group s
  | .holdOffEnd group protect sd => Sys2Proof.Machine.execHoldOffEnd group protect sd s
  | .wtrExpiry group => Sys2Proof.Machine.execWtrExpiry group s
  | .dfopNr group => Sys2Proof.Machine.execDfopNr group s
  | .dfsl group => Sys2Proof.Machine.execDfsl group s
  | .qualified cand => Sys2Proof.Machine.execQualified cand s
  | .candidateWtrEnd cand => Sys2Proof.Machine.execCandidateWtrEnd cand s
  | .frequencyFaultClear cand => Sys2Proof.Machine.execFrequencyFaultClear cand s
  | .refSignalFault cand => Sys2Proof.Machine.execRefSignalFault cand s
  | .disputeRelease cand => Sys2Proof.Machine.execDisputeRelease cand s
  | .settlingEnd => Sys2Proof.Machine.execSettlingEnd s
  | .locked => Sys2Proof.Machine.execLocked s
  | .lockLoss => Sys2Proof.Machine.execLockLoss s
  | .ssmMessage cand code => Sys2Proof.Machine.execSsmMessage cand code s
  | .ppsOutRise => Sys2Proof.Machine.execPpsOutRise s
  | .ppsOutFall => Sys2Proof.Machine.execPpsOutFall s
  | .todOutMessage => Sys2Proof.Machine.execTodOutMessage s
  | .forceHoWrite data => Sys2Proof.Machine.execForceHoWrite data s
  | .lockoutWrite m data => Sys2Proof.Machine.execLockoutWrite m data s
  | .nirrinMarker lane rx => Sys2Proof.Machine.execNirrinMarker lane rx s
  | .nirrinBlock lane bytes uncor => Sys2Proof.Machine.execNirrinBlock lane bytes uncor s
  | .mirrorSnapshot => Sys2Proof.Machine.execMirrorSnapshot s
  | .mirrorApply => Sys2Proof.Machine.execMirrorApply s
  | .fallbackApply => Sys2Proof.Machine.execFallbackApply s
  | .mirrorLoss => Sys2Proof.Machine.execMirrorLoss s
  | .linkDown => Sys2Proof.Machine.execLinkDown s
  | .linkUp => Sys2Proof.Machine.execLinkUp s
  | .request => Sys2Proof.Machine.execRequest s
  | .grant bytes => Sys2Proof.Machine.execGrant bytes s
  | .deny bytes => Sys2Proof.Machine.execDeny bytes s
  | .releaseAck bytes => Sys2Proof.Machine.execReleaseAck bytes s
  | .fallback bytes => Sys2Proof.Machine.execFallback bytes s
  | .grinusFrameError => Sys2Proof.Machine.execGrinusFrameError s
  | .replyTimeout => Sys2Proof.Machine.execReplyTimeout s
  | .leaseExpiry => Sys2Proof.Machine.execLeaseExpiry s
  | .holdExpiry => Sys2Proof.Machine.execHoldExpiry s
  | .release => Sys2Proof.Machine.execRelease s
  | .mateCmdAck seq => Sys2Proof.Machine.execMateCmdAck seq s
  | .loopbackTest g start errored => Sys2Proof.Machine.execLoopbackTest g start errored s
  | .lockstepTest q differs => Sys2Proof.Machine.execLockstepTest q differs s
  | .watchdogExpiry => Sys2Proof.Machine.execWatchdogExpiry s
  | .nop a => Sys2Proof.Machine.execNop a s
  | .add a x y z => Sys2Proof.Machine.execAdd a x y z s
  | .sub a x y z => Sys2Proof.Machine.execSub a x y z s
  | .and a x y z => Sys2Proof.Machine.execAnd a x y z s
  | .or a x y z => Sys2Proof.Machine.execOr a x y z s
  | .xor a x y z => Sys2Proof.Machine.execXor a x y z s
  | .shl a x y z => Sys2Proof.Machine.execShl a x y z s
  | .shr a x y z => Sys2Proof.Machine.execShr a x y z s
  | .minu a x y z => Sys2Proof.Machine.execMinu a x y z s
  | .maxu a x y z => Sys2Proof.Machine.execMaxu a x y z s
  | .satadd32 a x y z => Sys2Proof.Machine.execSatadd32 a x y z s
  | .addi a x y imm => Sys2Proof.Machine.execAddi a x y imm s
  | .movi a x imm => Sys2Proof.Machine.execMovi a x imm s
  | .ext a x y lsb wm1 => Sys2Proof.Machine.execExt a x y lsb wm1 s
  | .ins a x y lsb wm1 => Sys2Proof.Machine.execIns a x y lsb wm1 s
  | .sel a x y z p => Sys2Proof.Machine.execSel a x y z p s
  | .cmp a p y z cond => Sys2Proof.Machine.execCmp a p y z cond s
  | .cmpi a p y cond imm => Sys2Proof.Machine.execCmpi a p y cond imm s
  | .pset a p q r f inv => Sys2Proof.Machine.execPset a p q r f inv s
  | .testb a p y bit => Sys2Proof.Machine.execTestb a p y bit s
  | .ld a x addr ecc => Sys2Proof.Machine.execLd a x addr ecc s
  | .st a x addr => Sys2Proof.Machine.execSt a x addr s
  | .cntdn a p addr ecc => Sys2Proof.Machine.execCntdn a p addr ecc s
  | .cntup a p addr ecc => Sys2Proof.Machine.execCntup a p addr ecc s
  | .get a x entry => Sys2Proof.Machine.execGet a x entry s
  | .put a x entry => Sys2Proof.Machine.execPut a x entry s
  | .post a x n entry => Sys2Proof.Machine.execPost a x n entry s
  | .mark a x => Sys2Proof.Machine.execMark a x s
  | .engineCommit failed => Sys2Proof.Machine.execEngineCommit failed s
  | .spareTakeover q => Sys2Proof.Machine.execSpareTakeover q s
  | .takeover eng => Sys2Proof.Machine.execTakeover eng s
  | .engCmdAck seq => Sys2Proof.Machine.execEngCmdAck seq s
  | .snap => Sys2Proof.Machine.execSnap s
  | .tdCapture => Sys2Proof.Machine.execTdCapture s
  | .engTdAck seq => Sys2Proof.Machine.execEngTdAck seq s
  | .pmonSelWrite n data => Sys2Proof.Machine.execPmonSelWrite n data s
  | .pmonSourceChange n => Sys2Proof.Machine.execPmonSourceChange n s
  | .freeze data => Sys2Proof.Machine.execFreeze data s
  | .pmonSnap => Sys2Proof.Machine.execPmonSnap s
  | .pmonSnapshot => Sys2Proof.Machine.execPmonSnapshot s
  | .pmonSnapAck seq => Sys2Proof.Machine.execPmonSnapAck seq s
  | .confirm => Sys2Proof.Machine.execConfirm s
  | .loadHost => Sys2Proof.Machine.execLoadHost s
  | .bootCmdAck seq => Sys2Proof.Machine.execBootCmdAck seq s
  | .read dev => Sys2Proof.Machine.execRead dev s
  | .program dev => Sys2Proof.Machine.execProgram dev s
  | .erase dev => Sys2Proof.Machine.execErase dev s
  | .flashCommandDone failAt => Sys2Proof.Machine.execFlashCommandDone failAt s
  | .bootFlAck seq => Sys2Proof.Machine.execBootFlAck seq s
  | .topRstCmd data => Sys2Proof.Machine.execTopRstCmd data s
  | .deviceReset cause => Sys2Proof.Machine.execDeviceReset cause s
  | .go ch => Sys2Proof.Machine.execGo ch s
  | .stop ch => Sys2Proof.Machine.execStop ch s
  | .reset ch => Sys2Proof.Machine.execReset ch s
  | .dmaChAck ch seq => Sys2Proof.Machine.execDmaChAck ch seq s
  | .dmaConfigWrite ch reg data => Sys2Proof.Machine.execDmaConfigWrite ch reg data s
  | .descriptorFetch ch bytes error => Sys2Proof.Machine.execDescriptorFetch ch bytes error s
  | .dmaBeat => Sys2Proof.Machine.execDmaBeat s
  | .descriptorEnd ch => Sys2Proof.Machine.execDescriptorEnd ch s
  | .targetTimeout ch => Sys2Proof.Machine.execTargetTimeout ch s
  | .queueRunStart q => Sys2Proof.Machine.execQueueRunStart q s
  | .lcBlank key => Sys2Proof.Machine.execLcBlank key s
  | .lcDevelop key => Sys2Proof.Machine.execLcDevelop key s
  | .lcDeploy key => Sys2Proof.Machine.execLcDeploy key s
  | .lcReturn key => Sys2Proof.Machine.execLcReturn key s
  | .returnReset => Sys2Proof.Machine.execReturnReset s
  | .lcAck seq => Sys2Proof.Machine.execLcAck seq s
  | .pwrOn d immed => Sys2Proof.Machine.execPwrOn d immed s
  | .pwrOff d immed => Sys2Proof.Machine.execPwrOff d immed s
  | .quiet immed => Sys2Proof.Machine.execQuiet immed s
  | .wake immed => Sys2Proof.Machine.execWake immed s
  | .pwrRequestAct => Sys2Proof.Machine.execPwrRequestAct s
  | .domainOn d => Sys2Proof.Machine.execDomainOn d s
  | .domainIsolate d => Sys2Proof.Machine.execDomainIsolate d s
  | .drainTimeout d => Sys2Proof.Machine.execDrainTimeout d s
  | .pwrAck seq => Sys2Proof.Machine.execPwrAck seq s
  | .pwrLegOn m data => Sys2Proof.Machine.execPwrLegOn m data s
  | .pwrLegOff m data => Sys2Proof.Machine.execPwrLegOff m data s
  | .cdaRead addr => Sys2Proof.Machine.execCdaRead addr s
  | .cdaWrite addr data => Sys2Proof.Machine.execCdaWrite addr data s
  | .cdaCapture leaf index frames => Sys2Proof.Machine.execCdaCapture leaf index frames s
  | .debugSessionClose => Sys2Proof.Machine.execDebugSessionClose s
  | .bypass => Sys2Proof.Machine.execBypass s
  | .idcode => Sys2Proof.Machine.execIdcode s
  | .samplePreload => Sys2Proof.Machine.execSamplePreload s
  | .extest => Sys2Proof.Machine.execExtest s
  | .clamp => Sys2Proof.Machine.execClamp s
  | .highz => Sys2Proof.Machine.execHighz s
  | .maker code => Sys2Proof.Machine.execMaker code s
  | .thermalSample hub q0 q1 q2 q3 currents power => Sys2Proof.Machine.execThermalSample hub q0 q1 q2 q3 currents power s
  | .smbReadWord command => Sys2Proof.Machine.execSmbReadWord command s
  | .laneLightReturn g lane => Sys2Proof.Machine.execLaneLightReturn g lane s
  | .refSignalReturn cand => Sys2Proof.Machine.execRefSignalReturn cand s
  | .arbSync gained => Sys2Proof.Machine.execArbSync gained s
  | .hostLinkUp speed width => Sys2Proof.Machine.execHostLinkUp speed width s
  | .peerHealthTimeout => Sys2Proof.Machine.execPeerHealthTimeout s
  | .hostReadCompletion ch bytes error => Sys2Proof.Machine.execHostReadCompletion ch bytes error s
  | .cdaAccess => Sys2Proof.Machine.execCdaAccess s

end Sys2Proof.Machine
end

