-- ==== Sys2Proof/Safety.lean ====
section
/-! DEFINITION. What a safe state is, and what no command may undo. -/

namespace Sys2Proof.Machine

/-- What every state of the block satisfies: the offset lies in the frame (R32), the life-cycle fuses hold one of the four states, and
none behind the one last read (R320), and registers, memory and both flash devices are in the canonical form of Machine/Tab.lean. -/
def Safe (s : State) : Prop :=
  s.ofs < 200000 ∧ (s.fuses.lc ≤ s.fuses.majority ∧ s.fuses.majority ≤ 3) ∧ Tab.wf regReset s.regs = true ∧ Tab.wf memDefault s.mem = true ∧
    Tab.wf norDefault s.nvm0.cells = true ∧ Tab.wf norDefault s.nvm1.cells = true

/-- How fuses may change (R5, R285, R320): the fuses that say which part this is never do, the life cycle never goes back, and a
zeroised device stays zeroised. -/
def FuseLe (a b : Fuses) : Prop :=
  b = { a with lc := b.lc, lcA := b.lcA, lcB := b.lcB, lcC := b.lcC, zeroised := b.zeroised } ∧ a.lc ≤ b.lc ∧ (a.zeroised = true → b.zeroised = true)

/-- A safe state whose fuses came from `f`. -/
def Kept (f : Fuses) (s : State) : Prop := FuseLe f s.fuses ∧ Safe s

end Sys2Proof.Machine
end

