-- ==== Sys2Proof/Certificates/Slice0/Obligations.lean ====
section
/-! DEFINITION. The statements for the provers. `exec i s = .next (after s t)` says that command `i` completes and what it makes of
`s`: `t` is its own effect, and `after` (its rules: Obligations.Vector64FollowsTheMaskedSummary) adds what follows every command. A premise
`s.csrAnswers a = true` says that the register at `a` is in reach of the host (R297, R301). -/

open Sys2Proof Sys2Proof.Machine

/-- For every command c, every queue rest and every state s, a step of s with c at the front of its queue is exec of c on s with
the queue's rest. The queue is the model's form of commands that arrive one by one (log entry 1). (95_what_each_step_holds) -/
def Obligations.StepRunsTheFrontCommand : Prop :=
  ∀ (c : Instr) (rest : List Instr) (s : State), step { s with pending := c :: rest } = exec c { s with pending := rest }

/-- For every command and every state: when the operands name objects of the hardware (Instr.wf), exec answers a next state
whose queue of waiting commands is the one it was given; when they do not, exec answers the fault noSuchObject, the model's own
(WellFormed.lean). No command is refused. (95_what_each_step_holds, R8, R11) -/
def Obligations.EveryCommandAnswers : Prop :=
  ∀ (i : Instr) (s : State),
    (i.wf = true → ∃ t : State, exec i s = .next t ∧ t.pending = s.pending) ∧ (i.wf = false → exec i s = .fault .noSuchObject)

/-- Model's choice (log entry 1): on an empty queue a step is one core cycle. Without a core clock nothing changes. Inside a
frame the offset rises by one; FN, the elapsed frames, memory, the image, fuses and everything but the registers (the counters
of R266 count the cycle) stay. At the last offset of the frame (199,999, but for a frame that a lock onto the active mate unit
cuts before release, R209) the next cycle is the frame boundary with no new samples. (R33, R35, R266) -/
def Obligations.EmptyQueueIdles : Prop :=
  ∀ s : State, s.pending = [] →
    (s.clk = false → step s = .next (after s s)) ∧
    (s.clk = true → s.ofs + 1 < s.frameEnd → ∃ t : State, step s = .next (after s t) ∧ t = { s with ofs := s.ofs + 1, regs := t.regs }) ∧
    (s.clk = true → s.frameEnd ≤ s.ofs + 1 → step s = .next (after s (boundary s noInput))) ∧
    (s.released = true ∨ s.mate.cut = none → s.frameEnd = 200000)

/-- From every safe state, a step that answers a next state leads to a safe state: the offset lies in the frame of 200,000 core
cycles (R29, R30, R35), the life-cycle fuses hold one of their four states by majority of their three copies and none behind the
one last read (R320; how copies can differ is the model's, log entry 135), and the tables of registers, memory and both flash
devices are in the model's canonical form. The fuses that say which part this is are unchanged, the life cycle never goes back,
and a zeroised device stays zeroised. It holds of every command. (R5, R29, R30, R35, R285, R320) -/
def Obligations.EveryStepKeepsSafe : Prop :=
  ∀ s t : State, Safe s → step s = .next t → Safe t ∧ FuseLe s.fuses t.fuses

/-- State.reset, the state before power, satisfies the invariant Safe of Sys2Proof/Safety.lean: its offset lies in the frame,
its life-cycle fuses are legal, and its tables of registers, memory and flash are in canonical form. What State.reset holds
where the spec gives no value is the model's choice (log entries 3, 4 and 5). (R30, R285, R320) -/
def Obligations.ResetIsSafe : Prop :=
  Safe State.reset

/-- after s t, the state left by a command that made t from s, has t's registers, memory and clock, and s's queue. While MSI-X
is enabled, vector 64 is raised exactly when (XBAR_BLK_EVT AND XBAR_BLK_MASK) was zero in s and is not in t: as a message with
the address and data of its table entry when neither the vector nor the function is masked, else it becomes pending. MSI-X comes
up enabled with every vector masked (log entry 15). Outside boot step 8 (BOOT_STAT.STEP 7) nothing else differs from t. (R299,
R287, R318) -/
def Obligations.Vector64FollowsTheMaskedSummary : Prop :=
  ∀ s t : State,
    (after s t).regs = t.regs ∧ (after s t).mem = t.mem ∧ (after s t).ofs = t.ofs ∧ (after s t).fn = t.fn ∧
      (after s t).pending = s.pending ∧
    (t.blkPending = true → s.blkPending = false → t.msixOn = true → t.msixMask = false → bitAt (t.msixAt 259) 0 = false →
      (after s t).sent = t.sent ++ [.msix 64 (t.msixAt 256 + 4294967296 * t.msixAt 257) (t.msixAt 258)] ∧ (after s t).msixPend = t.msixPend) ∧
    (t.blkPending = true → s.blkPending = false → t.msixOn = true → (t.msixMask = true ∨ bitAt (t.msixAt 259) 0 = true) →
      (after s t).sent = t.sent ∧ 64 ∈ (after s t).msixPend) ∧
    ((t.blkPending = false ∨ s.blkPending = true ∨ t.msixOn = false) → (after s t).sent = t.sent ∧ (after s t).msixPend = t.msixPend) ∧
    (t.bootStep ≠ 7 → after s t = { t with msixPend := (after s t).msixPend, sent := (after s t).sent, pending := s.pending })

/-- The write of a command register acts as the row of that command does, with the operands of the written word (that it does is
log entry 6): listed for every command register, op by op. For every register a without a command row of its own (commandReg),
in reach of the host: REGISTER_WRITE completes. Bit k of the register afterwards is the written bit where the field is RW; where
it is W1C, the old bit unless a 1 was written; RO and reserved bits keep their value. Every other register, and all state beside
the registers, is unchanged. (R11, R13, R301) -/
def Obligations.PlainRegisterWrite : Prop :=
  (∀ (a : Nat) (w : Word) (s : State) (r : RegRow), regRow a = some r → csrOk a = true → commandReg a = false → s.csrAnswers a = true →
    Tab.wf regReset s.regs = true →
    ∃ t : State, exec (.registerWrite a w) s = .next (after s t) ∧ t = { s with regs := t.regs } ∧ (∀ b, b ≠ a → t.rd b = s.rd b) ∧
      ∀ k, k < 32 → t.bit a k = if bitAt r.rw k then w.getLsbD k else s.bit a k && !(bitAt r.w1c k && w.getLsbD k)) ∧
  (∀ (w : Word) (s : State),
    let d := w.toNat
    let ack := d % 256
    ∀ x ∈ ([(Reg.TOP_RST_CMD, .topRstCmd w), (Reg.BOOT_CMD_ACK, .bootCmdAck ack), (Reg.BOOT_FL_ACK, .bootFlAck ack),
        (Reg.FT_STEP_ACK, .stepAck ack), (Reg.MATE_CMD_ACK, .mateCmdAck ack), (Reg.LC_ACK, .lcAck ack), (Reg.PWR_ACK, .pwrAck ack),
        (Reg.PMON_CTRL, .freeze w), (Reg.PMON_SNAP_ACK, .pmonSnapAck ack), (Reg.GRAFT_CMD_ACK, .graftCmdAck ack),
        (Reg.PM_RD_REQ, .pmRdReq (bits d 0 18) (bits d 18 2)), (Reg.PM_RES_ACK, .pmResAck ack),
        (Reg.LEAF_PM_REQ, .leafPmReq (bits d 0 17) (bits d 17 2)), (Reg.LEAF_PM_ACK, .leafPmAck ack), (Reg.PROT_CMD_ACK, .protCmdAck ack),
        (Reg.ENG_CMD_ACK, .engCmdAck ack), (Reg.ENG_TD_ACK, .engTdAck ack),
        (Reg.LC_CMD, if d % 4 = 0 then .lcBlank (bits d 8 8) else if d % 4 = 1 then .lcDevelop (bits d 8 8)
          else if d % 4 = 2 then .lcDeploy (bits d 8 8) else .lcReturn (bits d 8 8))]
      ++ (if d % 4 = 1 then [(Reg.BOOT_CMD, .confirm), (Reg.MATE_CMD, .release), (Reg.FT_STEP_CMD, .arm), (Reg.BOOT_FL_CMD, .read (bits d 2 1))]
          else if d % 4 = 2 then [(Reg.BOOT_CMD, .loadHost), (Reg.FT_STEP_CMD, .cancelStep), (Reg.BOOT_FL_CMD, .program (bits d 2 1))]
          else if d % 4 = 3 then [(Reg.BOOT_FL_CMD, .erase (bits d 2 1))] else [])
      ++ (if bitAt d 0 then [(Reg.FT_CAP_CMD, .capture), (Reg.PMON_SNAP_CMD, .pmonSnap), (Reg.ENG_TD_CMD, .snap),
            (Reg.TRK_TEST_CMD, .inject (bits d 1 7))] else [])
      ++ (if bits d 8 3 = 1 then [(Reg.PWR_REQ_CMD, .pwrOn (bits d 0 7) (bitAt d 11))]
          else if bits d 8 3 = 2 then [(Reg.PWR_REQ_CMD, .pwrOff (bits d 0 7) (bitAt d 11))]
          else if bits d 8 3 = 3 then [(Reg.PWR_REQ_CMD, .quiet (bitAt d 11))]
          else if bits d 8 3 = 4 then [(Reg.PWR_REQ_CMD, .wake (bitAt d 11))] else [])
      ++ (if bits d 4 3 = 1 then [(Reg.GRAFT_CMD, .claim)] else if bits d 4 3 = 2 then [(Reg.GRAFT_CMD, .commit (bits d 0 4))]
          else if bits d 4 3 = 3 then [(Reg.GRAFT_CMD, .cancel (bits d 0 4))] else if bits d 4 3 = 4 then [(Reg.GRAFT_CMD, .rollback)] else [])
      ++ (if bits d 16 3 = 1 then [(Reg.PROT_CMD, .lo (bits d 0 16))] else if bits d 16 3 = 2 then [(Reg.PROT_CMD, .fs (bits d 0 16))]
          else if bits d 16 3 = 3 then [(Reg.PROT_CMD, .msP (bits d 0 16))] else if bits d 16 3 = 4 then [(Reg.PROT_CMD, .msW (bits d 0 16))]
          else if bits d 16 3 = 5 then [(Reg.PROT_CMD, .clear (bits d 0 16))] else [])
      ++ (if bits d 7 2 = 1 then [(Reg.ENG_CMD, .takeover (bits d 0 7))] else []) : List (Nat × Instr)),
      s.csrAnswers x.1 = true → exec (.registerWrite x.1 w) s = exec x.2 s) ∧
  (∀ (n : Nat) (w : Word) (s : State),
    let d := w.toNat
    ∀ x ∈ ((if n < 64 then [(Reg.DMA_CH_ACK n, .dmaChAck n (d % 256)), (Reg.PG_SPARE_ACK n, .spareAck n (d % 256))]
          ++ (if d % 4 = 1 then [(Reg.DMA_CH_CMD n, .go n)] else if d % 4 = 2 then [(Reg.DMA_CH_CMD n, .stop n)]
              else if d % 4 = 3 then [(Reg.DMA_CH_CMD n, .reset n)] else [])
          ++ (if bits d 0 3 = 1 then [(Reg.PG_SPARE_CMD n, .spareRequest n (bits d 4 4))]
              else if bits d 0 3 = 2 then [(Reg.PG_SPARE_CMD n, .spareRelease n (bits d 4 4))]
              else if bits d 0 3 = 3 then [(Reg.PG_SPARE_CMD n, .txBridge n (bits d 4 4))]
              else if bits d 0 3 = 4 then [(Reg.PG_SPARE_CMD n, .txUnbridge n (bits d 4 4))] else []) else [])
      ++ (if n < 3 then [(Reg.PWR_LEG_ON n, .pwrLegOn n w), (Reg.PWR_LEG_OFF n, .pwrLegOff n w)] else [])
      ++ (if n < 16 then [(Reg.GRAFT_E_ACK n, .graftEAck n (d % 256))] else [])
      ++ (if n < 256 then [(Reg.PMON_SEL n, .pmonSelWrite n w)] else []) : List (Nat × Instr)),
      s.csrAnswers x.1 = true → exec (.registerWrite x.1 w) s = exec x.2 s)

/-- PAIR_LOW_READ in reach answers the word of the register; where that is the low word of a pair (which are pairs: log entry
12) it captures the high word, and of any other register it captures nothing (R12). A read in an engine's window or of a PMON
counter first counts the empty slots passed (R262); any other counts nothing. A read of a pair's high word returns what was
captured. ODD_WIDTH_ACCESS to a register in reach has no effect, and a read of that kind returns 0 (R14). Out of reach both are
served by the default target. DEFAULT_TARGET_ACCESS counts PMON event 0xC1 of unit 0 once, at every address (log entry 102), and
changes no state but registers; a read returns 0 (R304). HOST_REQUEST over a trained link waits behind the earlier ones when it
hits a BAR (R298), a non-posted one only while fewer than 32 wait (a further one is not taken: log entry 104), and completes as
Unsupported Request when it hits none; one beyond the endpoint's limits, or without a link, has no effect (log entry 153). (R12,
R14, R262, R295, R298, R304) -/
def Obligations.HostReadsAndRequests : Prop :=
  (∀ (a : Nat) (s : State), csrOk a = true → s.csrAnswers a = true →
    exec (.pairLowRead a) s = .next (after s
      { engCaught s a with
        snap := if pairLow a then Tab.set snapDefault (engCaught s a).snap (a + 4) (BitVec.ofNat 32 ((engCaught s a).regNow (a + 4)))
          else (engCaught s a).snap,
        hostResp := [BitVec.ofNat 32 ((engCaught s a).csrWord a)] })) ∧
  (∀ (a : Nat) (s : State), ¬(0x8000000 ≤ a ∧ a < 0xC400000) → ¬(Reg.PMON_CNT_LO 0 ≤ a ∧ a < Reg.PMON_CNT_LO 256) → engCaught s a = s) ∧
  (∀ (a : Nat) (s : State), csrOk a = true → s.csrAnswers a = false →
    exec (.pairLowRead a) s = .next (after s { s.count 0xC1 0 1 with hostResp := [0] })) ∧
  (∀ (b : Nat) (s : State), pairHigh b = true → engWindow b = none → msixWindow b = none →
    s.csrWord b = (Tab.get snapDefault s.snap b).toNat) ∧
  (∀ (a n : Nat) (s : State), a < 0x10000000 → s.csrAnswers (a / 4 * 4) = true →
    exec (.oddWidthAccess a n true) s = .next (after s s) ∧
    exec (.oddWidthAccess a n false) s = .next (after s { s with hostResp := List.replicate ((n + 3) / 4) 0 })) ∧
  (∀ (a n : Nat) (s : State), a < 0x10000000 → s.csrAnswers (a / 4 * 4) = false →
    exec (.oddWidthAccess a n true) s = .next (after s (s.count 0xC1 0 1)) ∧
    exec (.oddWidthAccess a n false) s = .next (after s { s.count 0xC1 0 1 with hostResp := List.replicate ((n + 3) / 4) 0 })) ∧
  (∀ (a : Nat) (s : State), a < 0x10000000000 → s.count 0xC1 0 1 = { s with regs := (s.count 0xC1 0 1).regs } ∧
    exec (.defaultTargetAccess a true) s = .next (after s (s.count 0xC1 0 1)) ∧
    exec (.defaultTargetAccess a false) s = .next (after s { s.count 0xC1 0 1 with hostResp := [0] })) ∧
  (∀ (r : HostReq) (s : State), r.ok = true → exec (.hostRequest r) s = .next (after s
    (if s.flag Reg.XBAR_HOST_STAT F.XBAR_HOST_STAT_LINK_UP = true ∧ r.lanes.length ≤ (if r.write then 512 else 4096) then
      (if reqInBar r = false then s.send (.unsupported r.write)
       else if r.write = true ∨ s.npOut < 32 then
         { s with hostQ := s.hostQ ++ [r], hostSince := if s.hostQ = [] then s.now else s.hostSince }
       else s)
     else s)))

/-- HOST_ACCESS_BEGIN of the host port, in a host window, with the path free and no rival waiting, serves the next burst of the
oldest request (R303): to the next 1 KiB boundary through BAR2, one dword through BAR0. To working memory or HBM, through its
window (R296): a write stores each byte of the burst whose enable is set, and every other byte of memory is unchanged; a read
changes no memory and answers all the words read, lowest address first, with its last burst. The request leaves the queue with
its last burst; registers are unchanged. A whole dword to a register in reach is a register write or read; one with a byte
disabled has no effect and reads 0 (R14, R298). Out of reach, or through a disabled window, the default target serves it: it
counts once and reads 0 (R304). (R14, R37, R296, R298, R300, R303, R304) -/
def Obligations.HostAccessReachesMemory : Prop :=
  (∀ (s : State) (r : HostReq) (rest : List HostReq) (a k m n : Nat), s.hostQ = r :: rest → r.bar = 2 → r.offset % 4 = 0 →
    r.lanes.length = 4 * m → s.hostPos < m → n = min ((1024 - (r.offset + 4 * s.hostPos) % 1024) / 4) (m - s.hostPos) →
    s.inWindow s.ofs = true → s.holder8 (s.reqTarget r) = 8 → s.rivals (s.reqTarget r) 0 = [] →
    (∀ i, i < n → s.hostAddr 2 (r.offset + 4 * (s.hostPos + i)) = some (a + 4 * i) ∧ s.memKey (a + 4 * i) = some (k + 4 * i) ∧
      inCsr (a + 4 * i) = false ∧ s.isRom (a + 4 * i) = false) →
    (∀ j, j < 4 * n → s.memKey (a + j) = some (k + j) ∧ s.isRom (a + j) = false) →
    s.memUp = true → Tab.wf memDefault s.mem = true →
    ∃ t : State, exec (.hostAccessBegin 0) s = .next (after s t) ∧ t.regs = s.regs ∧
      (s.hostPos + n < m → t.hostQ = s.hostQ ∧ t.hostPos = s.hostPos + n) ∧ (s.hostPos + n = m → t.hostQ = rest ∧ t.hostPos = 0) ∧
      (r.write = true →
        (∀ i (h : 4 * s.hostPos + i < r.lanes.length), i < 4 * n →
          t.memAt (k + i) = if (r.lanes[4 * s.hostPos + i]).1 then (r.lanes[4 * s.hostPos + i]).2 else s.memAt (k + i)) ∧
        (∀ j, ¬(k ≤ j ∧ j < k + 4 * n) → t.memAt j = s.memAt j)) ∧
      (r.write = false →
        (∀ j, t.memAt j = s.memAt j) ∧
        (s.hostPos + n = m →
          t.hostResp = (s.hostAcc ++ (List.range n).map fun i => leNat (s.memGet (k + 4 * i) 4)).map (BitVec.ofNat 32)))) ∧
  (∀ (s : State) (r : HostReq) (rest : List HostReq), s.hostQ = r :: rest → r.bar = 0 → r.offset % 4 = 0 → r.offset < 0x10000000 →
    r.lanes.length = 4 → s.hostPos = 0 → s.hostAcc = [] → s.inWindow s.ofs = true → s.holder8 2 = 8 → s.rivals 2 0 = [] →
    (∀ d, csrDom r.offset = some d → s.domSt d ≠ 3) →
    let whole := r.lanes.all (·.1)
    let u := if s.csrAnswers r.offset = false then s.defaultTarget
      else if whole = false then s
      else if r.write then csrWrite s r.offset (BitVec.ofNat 32 (leNat (r.lanes.map (·.2))))
      else (csrRead s r.offset).2
    ∃ t : State, exec (.hostAccessBegin 0) s = .next (after s t) ∧
      t = { u with hostQ := rest, hostPos := 0, hostAcc := [], hostSince := t.hostSince, hostResp := t.hostResp } ∧
      (r.write = true → t.hostResp = u.hostResp) ∧
      (r.write = false → t.hostResp = [if s.csrAnswers r.offset = true ∧ whole = true then BitVec.ofNat 32 (csrRead s r.offset).1 else 0])) ∧
  (∀ (s : State) (r : HostReq) (rest : List HostReq), s.hostQ = r :: rest → r.bar = 2 → r.offset % 4 = 0 → r.lanes.length = 4 →
    s.hostPos = 0 → s.hostAcc = [] → s.inWindow s.ofs = true → s.hostAddr 2 r.offset = none →
    ∃ t : State, exec (.hostAccessBegin 0) s = .next (after s t) ∧
      t = { s.defaultTarget with hostQ := rest, hostPos := 0, hostAcc := [], hostSince := t.hostSince, hostResp := t.hostResp } ∧
      (r.write = false → t.hostResp = [0]))

/-- BURST_GRANT at a target with masters waiting gives the path to one of them and notes it as the last winner (that the first
turn starts at master 0 is log entry 35). Candidates are the supervisors alone in the tail of the frame at the HBM controllers
while one waits. If one has waited at least XBAR_STARVE cycles, the longest waiting comes first and STARVE latches, else the
highest priority; ties go in master order after the last winner. An empty list frees the path (log entry 73). HOST_PORT_RESET
drops the queued requests and the MSI-X state and clears XBAR_HOST_STAT; of the burst it holds a path with, what was served of a
write stays (a free number of beats, log entry 13), and a read takes every beat; a path the host port holds is freed and latches
MRESET, with master and target when it was clear. HOST_LINK_UP shows link, speed and width, and nothing in reset. BLK_MASK_WRITE
writes the mask as any register in reach. (R292, R295, R299, R302, R305) -/
def Obligations.CrossbarAndLink : Prop :=
  (∀ (t : Nat) (l : List (Nat × Nat)) (s : State), 1 ≤ t → t ≤ 4 → l ≠ [] → (∀ x ∈ l, x.1 < 8) →
    let l' := if 3 ≤ t && 199000 ≤ s.ofs && l.any (fun x => decide (4 ≤ x.1)) then l.filter (fun x => decide (4 ≤ x.1)) else l
    let starve := s.rd (Reg.XBAR_STARVE (t - 1))
    let pri := fun (m : Nat) => bits (s.rd (Reg.XBAR_PRI (t - 1))) (3 * m) 3
    let late := l'.any fun x => decide (starve ≤ x.2)
    let first : Nat → Prop := fun m =>
      if late then ∃ w, (m, w) ∈ l' ∧ starve ≤ w ∧ ∀ x ∈ l', x.2 ≤ w else (∃ w, (m, w) ∈ l') ∧ ∀ x ∈ l', pri x.1 ≤ pri m
    let turn := fun (k : Nat) => (tabGet 7 s.xbLast t + 1 + k) % 8
    ∃ k, k < 8 ∧ first (turn k) ∧ (∀ j, j < k → ¬ first (turn j)) ∧
      exec (.burstGrant t l) s = .next (after s
        { (if late then s.evt Reg.XBAR_EVT F.XBAR_EVT_STARVE else s) with
          xbHold := tabSet 8 s.xbHold t (turn k), xbLast := tabSet 7 s.xbLast t (turn k) })) ∧
  (∀ (t : Nat) (s : State), 1 ≤ t → t ≤ 4 → exec (.burstGrant t []) s = .next (after s { s with xbHold := tabSet 8 s.xbHold t 8 })) ∧
  (∀ (l : List (Nat × Nat)) (s : State), (∀ x ∈ l, x.1 < 8) → exec (.burstGrant 0 l) s = .next (after s s)) ∧
  (∀ s : State, exec .hostPortReset s = .next (after s
    { (masterReset (hostCut s) 0).wr Reg.XBAR_HOST_STAT 0 with hostQ := [], hostPos := 0, hostAcc := [], msix := [], msixPend := [] })) ∧
  (∀ s : State, (∀ r ∈ s.hostQ.head?, s.holder8 (s.reqTarget r) ≠ 0) → hostCut s = s) ∧
  (∀ (s : State) (r : HostReq) (rest : List HostReq), s.hostQ = r :: rest → s.holder8 (s.reqTarget r) = 0 →
    hostCut s = (hostBurst { s with freeCount := s.freeCount + 1 } r
      (if r.write then min (Config.beatsServed s.freeCount * (if r.bar = 0 then 1 else 16)) (burstDwords r s.hostPos) else burstDwords r s.hostPos)).2) ∧
  (∀ s : State, (∀ h ∈ s.xbHold, h.2 ≠ 0) → masterReset s 0 = s) ∧
  (∀ (s : State) (g : Nat), s.xbHold = [(g, 0)] →
    masterReset s 0 = { (if s.flag Reg.XBAR_EVT F.XBAR_EVT_MRESET then s else
      ((s.evt Reg.XBAR_EVT F.XBAR_EVT_MRESET).setFld Reg.XBAR_MRESET_INFO F.XBAR_MRESET_INFO_MASTER 0).setFld Reg.XBAR_MRESET_INFO
          F.XBAR_MRESET_INFO_TARGET g) with xbHold := [] }) ∧
  (∀ (v w : Nat) (s : State), 1 ≤ v → v ≤ 5 → (w = 1 ∨ w = 2 ∨ w = 4) →
    exec (.hostLinkUp v w) s = .next (after s (if s.inReset then s else
      ((s.setFlag Reg.XBAR_HOST_STAT F.XBAR_HOST_STAT_LINK_UP true).setFld Reg.XBAR_HOST_STAT F.XBAR_HOST_STAT_SPEED v).setFld
        Reg.XBAR_HOST_STAT F.XBAR_HOST_STAT_WIDTH w))) ∧
  (∀ (d : Word) (s : State), exec (.blkMaskWrite d) s = .next (after s
    (if s.csrAnswers Reg.XBAR_BLK_MASK then regWrite s Reg.XBAR_BLK_MASK d else s.count 0xC1 0 1)))

/-- POWER_GOOD_FALL and RESET_ASSERT put every register at its reset value, drop the image and stop the clock; fuses and flash
stay; the fall also ends a thermal trip, debug and telemetry. POWER_GOOD_RISE with RESET_N low only raises the pin.
RESET_RELEASE with power good and no trip, and POWER_GOOD_RISE with RESET_N high, start a boot whose TOP_RST_CAUSE is 1 after
power-on and else 2. CORE_CLOCK_STABLE outside reset starts frame time at FN 0, offset 0 with boot step 2 (code 1). (R285, R292,
R346, R347, R349) -/
def Obligations.PowerAndResetPins : Prop :=
  (∀ s : State, ∃ t : State, exec .powerGoodFall s = .next (after s t) ∧ t.pins.powerGood = false ∧ t.pins.trip = false ∧ t.regs = [] ∧
    t.img = none ∧ t.clk = false ∧ t.fuses = s.fuses ∧ t.nvm0 = s.nvm0 ∧ t.nvm1 = s.nvm1 ∧ t.dbg = {} ∧ t.telem = {} ∧
    t.boot.powered = true) ∧
  (∀ s : State, ∃ t : State, exec .resetAssert s = .next (after s t) ∧ t.pins = { s.pins with ppsOut := false, resetN := false } ∧ t.regs = [] ∧
    t.img = none ∧ t.clk = false ∧ t.fuses = s.fuses ∧ t.nvm0 = s.nvm0 ∧ t.nvm1 = s.nvm1 ∧ t.telem = s.telem) ∧
  (∀ s : State, s.pins.powerGood = false → (s.pins.resetN = false ∨ s.pins.trip = true) →
    exec .powerGoodRise s = .next (after s { s with pins := { s.pins with powerGood := true } })) ∧
  (∀ s : State, s.pins.trip = false →
    (s.pins.powerGood = false ∧ s.pins.resetN = true → ∃ t : State, exec .powerGoodRise s = .next (after s t) ∧ t.inReset = false ∧
      t.rd Reg.TOP_RST_CAUSE = (if s.boot.powered then 1 else 2) ∧ t.clk = false ∧ t.img = none ∧ t.fuses = s.fuses ∧ t.nvm0 = s.nvm0) ∧
    (s.pins.powerGood = true ∧ s.pins.resetN = false → ∃ t : State, exec .resetRelease s = .next (after s t) ∧ t.inReset = false ∧
      t.rd Reg.TOP_RST_CAUSE = (if s.boot.powered then 1 else 2) ∧ t.clk = false ∧ t.img = none ∧ t.fuses = s.fuses ∧ t.nvm0 = s.nvm0)) ∧
  (∀ s : State, s.inReset = false → s.clk = false → exec .coreClockStable s = .next (after s
    (({ s with clk := true, ofs := 0, fn := 0, elapsed := 0 } : State).setFld Reg.BOOT_STAT F.BOOT_STAT_STEP 1)))

/-- TOP_RST_CMD with key 0xA5 and RESET = 1 orders a reset 1,000 core cycles later, when none is ordered. DEVICE_RESET of the
ordered cause at that instant, WATCHDOG_EXPIRY once 80 frames have elapsed, and RETURN_RESET 16 frames after the RETURN fuses
were programmed start a boot: TOP_RST_CAUSE reads 4 (or the ordered cause), 3 and 5, the clock stops, image and mate state are
dropped, fuses and flash stay. A wrong key has no effect. (R245, R292, R323) -/
def Obligations.ResetsFromInside : Prop :=
  (∀ (d : Word) (s : State), s.csrAnswers Reg.TOP_RST_CMD = true → s.boot.resetDue = none →
    (d.toNat % 256 = 0xA5 ∧ d.getLsbD 8 = true →
      exec (.topRstCmd d) s = .next (after s { s with boot := { s.boot with resetDue := some (s.now + 1000, 4) } })) ∧
    (d.toNat % 256 ≠ 0xA5 → exec (.topRstCmd d) s = .next (after s s))) ∧
  (∀ (c n : Nat) (s : State), c < 8 → s.boot.resetDue = some (n, c) → n ≤ s.now → s.inReset = false →
    ∃ t : State, exec (.deviceReset c) s = .next (after s t) ∧ t.rd Reg.TOP_RST_CAUSE = c ∧ t.clk = false ∧ t.img = none ∧ t.mate = {} ∧
      t.fuses = s.fuses ∧ t.nvm0 = s.nvm0 ∧ t.nvm1 = s.nvm1) ∧
  (∀ s : State, s.clk = true → 80 ≤ s.elapsed → s.inReset = false →
    ∃ t : State, exec .watchdogExpiry s = .next (after s t) ∧ t.rd Reg.TOP_RST_CAUSE = 3 ∧ t.clk = false ∧ t.img = none ∧ t.fuses = s.fuses ∧
      t.nvm0 = s.nvm0 ∧ t.nvm1 = s.nvm1) ∧
  (∀ (n : Nat) (s : State), s.lcDue = some (true, n) → n + 16 ≤ s.elapsed → s.inReset = false →
    ∃ t : State, exec .returnReset s = .next (after s t) ∧ t.rd Reg.TOP_RST_CAUSE = 5 ∧ t.clk = false ∧ t.img = none ∧ t.fuses = s.fuses ∧
      t.nvm0 = s.nvm0 ∧ t.nvm1 = s.nvm1)

/-- ALIGN_WAIT_TIMEOUT in boot step 8 (code 7), ALIGN_WAIT frames after the wait began, latches BOOT_EVT.ALIGN_TIMEOUT and ends
the step. DATA_PLANE_RELEASE at offset 0 after the frame in which step 8 ended completes, and leaves: boot step code 8,
FT_STAT.DP_RELEASED set, BOOT_REL_FN with the FN, BOOT_EVT.RELEASED latched; every selector of trunk and leaf at the image's
initial value, in the write bank and in force; every engine's state memory and checkpoint at the image's initial words; the
graft queue empty and no rollback copy; and a standalone unit with ROLE_ACT. The image, FN and the frame's offset stay. (That a
command marks the end of step 8 is the model's form of the wait, log entry 27.) (R287, R288, R94, R118, R120, R166, R225) -/
def Obligations.BootEndsInRelease : Prop :=
  (∀ (m : Image) (s : State), s.bootStep = 7 → s.img = some m → s.boot.relDue = none → s.boot.alignFrom + m.global 6 4 ≤ s.elapsed →
    exec .alignWaitTimeout s = .next (after s
      { s.evt Reg.BOOT_EVT F.BOOT_EVT_ALIGN_TIMEOUT with boot := { s.boot with relDue := some s.elapsed } })) ∧
  (∀ (m : Image) (n : Nat) (s : State), s.clk = true → s.bootStep = 7 → s.ofs = 0 → s.boot.relDue = some n → n < s.elapsed →
    s.img = some m → Tab.wf regReset s.regs = true →
    ∃ t : State, exec .dataPlaneRelease s = .next (after s t) ∧
      t.bootStep = 8 ∧ t.released = true ∧ t.rd Reg.BOOT_REL_FN_LO = s.fnN % 4294967296 ∧ t.rd Reg.BOOT_REL_FN_HI = s.fnN / 4294967296 ∧
      t.flag Reg.BOOT_EVT F.BOOT_EVT_RELEASED = true ∧ t.flag Reg.GRAFT_STAT F.GRAFT_STAT_ROLLBACK_AVAIL = false ∧
      (s.flag Reg.MATE_CFG F.MATE_CFG_MODE = false → t.flag Reg.MATE_STAT F.MATE_STAT_ROLE_ACT = true) ∧
      t.selW = m.initSel ∧ t.selF = m.initSel ∧ t.lselW = m.initLsel ∧ t.lselF = m.initLsel ∧ t.grafts = [] ∧ t.back = none ∧
      (∀ e, e < 64 → (t.eng e).smem = m.initWords e ∧ (t.eng e).chk = m.initWords e) ∧
      t.s15.first = s.fnN ∧ t.s15.marks = 1 ∧ t.s24.first = s.fnN ∧ t.s24.marks = 1 ∧
      t.img = some m ∧ t.fn = s.fn ∧ t.ofs = 0 ∧ t.mem = s.mem)

/-- With no result waiting and outside RETURN: CONFIRM after VALIDATE, with an image from a flash slot and no flash command
running, programs the slot CONFIRMED (0x1F) unless it is, and answers OK in the same command (the model's choice, log entry 86);
LOAD_HOST in NO_IMAGE starts a host load and writes no result yet (log entry 82), else it answers E_IN_USE. (R283, R290, R279)
-/
def Obligations.BootCommands : Prop :=
  (∀ s : State, s.csrAnswers Reg.BOOT_CMD = true → s.valid Reg.BOOT_CMD_RES = false → s.inReturn = false →
    (4 < s.bootStep → s.bootStep ≤ 8 → s.flash = none → s.fld Reg.BOOT_STAT F.BOOT_STAT_SOURCE ≠ 3 →
      exec .confirm s = .next (after s
        ((if s.slotState s.boot.slot = 0x1F then s else slotProgram s s.boot.slot 0x1F).putRes Reg.BOOT_CMD_RES cOK 0))) ∧
    (s.bootStep = 9 → exec .loadHost s = .next (after s
      { s.setFld Reg.BOOT_STAT F.BOOT_STAT_STEP 10 with boot := { s.boot with host := true } })) ∧
    (s.bootStep ≠ 9 → exec .loadHost s = .next (after s (s.putRes Reg.BOOT_CMD_RES eINUSE 0))))

/-- With no command running and no result waiting, outside RETURN, after boot step 4 and on a present device: READ and PROGRAM
with 1 to 16,777,216 bytes inside the device and a buffer wholly in working memory or HBM, and ERASE on 64 KiB boundaries, start
and show PENDING. Model's choice (log entry 84): the bytes move at FLASH_COMMAND_DONE, between memory and device as they stand
then. FLASH_COMMAND_DONE of a read copies the device's bytes to the buffer and no other byte of memory changes; of a program
that only clears bits, and of an erase, the bytes of the range become the data, or 0xFF, and no other byte of the device
changes. Each answers OK. (R281, R291, R279) -/
def Obligations.FlashCommands : Prop :=
  (∀ (o v k : Nat) (s : State), v < 2 → s.csrAnswers Reg.BOOT_FL_CMD = true → s.flash = none → s.valid Reg.BOOT_FL_RES = false →
    s.inReturn = false → (s.nor v).present = true → 3 < s.bootStep →
    (1 ≤ s.rd Reg.BOOT_FL_LEN → s.rd Reg.BOOT_FL_LEN ≤ 16777216 → s.rd Reg.BOOT_FL_ADDR + s.rd Reg.BOOT_FL_LEN ≤ (s.nor v).size →
      s.memSpan (s.rd Reg.BOOT_FL_BUF_LO + 4294967296 * s.rd Reg.BOOT_FL_BUF_HI) (s.rd Reg.BOOT_FL_LEN) = some k → (o = 1 ∨ o = 2) →
      exec (if o = 1 then .read v else .program v) s = .next (after s
        (({ s with flash := some ⟨o, v, s.rd Reg.BOOT_FL_ADDR, s.rd Reg.BOOT_FL_LEN, k⟩ } : State).pendRes Reg.BOOT_FL_RES))) ∧
    (s.rd Reg.BOOT_FL_ADDR % 65536 = 0 → s.rd Reg.BOOT_FL_LEN % 65536 = 0 →
      exec (.erase v) s = .next (after s
        (({ s with flash := some ⟨3, v, s.rd Reg.BOOT_FL_ADDR, s.rd Reg.BOOT_FL_LEN, 0⟩ } : State).pendRes Reg.BOOT_FL_RES)))) ∧
  (∀ (j : FlashJob) (s : State), s.flash = some j → Tab.wf memDefault s.mem = true → Tab.wf norDefault (s.nor j.dev).cells = true →
    (j.op = 1 → ∃ t : State, exec (.flashCommandDone none) s = .next (after s (t.putRes Reg.BOOT_FL_RES cOK 0)) ∧ t.flash = none ∧
      (∀ i, i < j.len → t.memAt (j.buf + i) = (s.nor j.dev).byteAt (j.addr + i)) ∧
      (∀ i, ¬(j.buf ≤ i ∧ i < j.buf + j.len) → t.memAt i = s.memAt i)) ∧
    (j.op = 2 → (∀ i, i < j.len → (s.nor j.dev).byteAt (j.addr + i) &&& s.memAt (j.buf + i) = s.memAt (j.buf + i)) →
      ∃ t : State, exec (.flashCommandDone none) s = .next (after s (t.putRes Reg.BOOT_FL_RES cOK 0)) ∧ t.flash = none ∧ t.mem = s.mem ∧
      (∀ i, i < j.len → (t.nor j.dev).byteAt (j.addr + i) = s.memAt (j.buf + i)) ∧
      (∀ i, ¬(j.addr ≤ i ∧ i < j.addr + j.len) → (t.nor j.dev).byteAt i = (s.nor j.dev).byteAt i)) ∧
    (j.op = 3 → ∃ t : State, exec (.flashCommandDone none) s = .next (after s (t.putRes Reg.BOOT_FL_RES cOK 0)) ∧ t.flash = none ∧ t.mem = s.mem ∧
      (∀ i, j.addr ≤ i → i < j.addr + j.len → (t.nor j.dev).byteAt i = 0xFF) ∧
      (∀ i, ¬(j.addr ≤ i ∧ i < j.addr + j.len) → (t.nor j.dev).byteAt i = (s.nor j.dev).byteAt i)))

/-- For each of the acknowledge commands, when the register is in reach of the host: with the sequence number of a waiting
result, only bit 31 (VALID) of the result register changes, to 0; with another number, or no waiting result, nothing changes.
GRAFT_E_ACK in addition returns its entry to EMPTY. That a retired result keeps its code and number is the model's reading (log
entry 21). (R41, R98, R126, R174, R279, R293, R319, R336, R337) -/
def Obligations.Acknowledgements : Prop :=
  ∀ (n : Nat) (s : State), n < 256 →
    (∀ x ∈ [(Instr.stepAck n, Reg.FT_STEP_ACK, Reg.FT_STEP_RES), (.pmResAck n, Reg.PM_RES_ACK, Reg.PM_RES),
        (.graftCmdAck n, Reg.GRAFT_CMD_ACK, Reg.GRAFT_CMD_RES), (.leafPmAck n, Reg.LEAF_PM_ACK, Reg.LEAF_PM_RES),
        (.protCmdAck n, Reg.PROT_CMD_ACK, Reg.PROT_CMD_RES), (.mateCmdAck n, Reg.MATE_CMD_ACK, Reg.MATE_CMD_RES),
        (.engCmdAck n, Reg.ENG_CMD_ACK, Reg.ENG_CMD_RES), (.engTdAck n, Reg.ENG_TD_ACK, Reg.ENG_TD_RES),
        (.pmonSnapAck n, Reg.PMON_SNAP_ACK, Reg.PMON_SNAP_RES), (.bootCmdAck n, Reg.BOOT_CMD_ACK, Reg.BOOT_CMD_RES),
        (.bootFlAck n, Reg.BOOT_FL_ACK, Reg.BOOT_FL_RES), (.lcAck n, Reg.LC_ACK, Reg.LC_RES), (.pwrAck n, Reg.PWR_ACK, Reg.PWR_RES)],
      s.csrAnswers x.2.1 = true →
      (s.valid x.2.2 = true ∧ bits (s.rd x.2.2) 16 8 = n → exec x.1 s = .next (after s (s.putBit x.2.2 31 false))) ∧
      (s.valid x.2.2 = false ∨ bits (s.rd x.2.2) 16 8 ≠ n → exec x.1 s = .next (after s s))) ∧
    (∀ k, k < 64 →
      (s.csrAnswers (Reg.PG_SPARE_ACK k) = true →
        (s.valid (Reg.PG_SPARE_RES k) = true ∧ bits (s.rd (Reg.PG_SPARE_RES k)) 16 8 = n →
          exec (.spareAck k n) s = .next (after s (s.putBit (Reg.PG_SPARE_RES k) 31 false))) ∧
        (s.valid (Reg.PG_SPARE_RES k) = false ∨ bits (s.rd (Reg.PG_SPARE_RES k)) 16 8 ≠ n →
          exec (.spareAck k n) s = .next (after s s))) ∧
      (s.csrAnswers (Reg.DMA_CH_ACK k) = true →
        (s.valid (Reg.DMA_CH_RES k) = true ∧ bits (s.rd (Reg.DMA_CH_RES k)) 16 8 = n →
          exec (.dmaChAck k n) s = .next (after s (s.putBit (Reg.DMA_CH_RES k) 31 false))) ∧
        (s.valid (Reg.DMA_CH_RES k) = false ∨ bits (s.rd (Reg.DMA_CH_RES k)) 16 8 ≠ n →
          exec (.dmaChAck k n) s = .next (after s s)))) ∧
    (∀ k, k < 16 → s.csrAnswers (Reg.GRAFT_E_ACK k) = true →
      (s.valid (Reg.GRAFT_E_RES k) = true ∧ bits (s.rd (Reg.GRAFT_E_RES k)) 16 8 = n →
        exec (.graftEAck k n) s = .next (after s (gClear (s.putBit (Reg.GRAFT_E_RES k) 31 false) k)) ∧
        (Tab.wf regReset s.regs = true → (gClear (s.putBit (Reg.GRAFT_E_RES k) 31 false) k).fld (Reg.GRAFT_E_STAT k) F.GRAFT_E_STAT_STATE = 0)) ∧
      (s.valid (Reg.GRAFT_E_RES k) = false ∨ bits (s.rd (Reg.GRAFT_E_RES k)) 16 8 ≠ n →
        exec (.graftEAck k n) s = .next (after s s)))

/-- With no native request waiting and no result to retire, outside RETURN: PWR_ON, PWR_OFF, QUIET and WAKE at once or at least
2 frames ahead of AT are accepted when R331's conditions hold: the request waits, PWR_RES shows PENDING and PEND is set. One
that comes too late completes with E_EPOCH_LATE. In RETURN each completes with E_LIFECYCLE. PWR_LEG_ON_m and PWR_LEG_OFF_m with
one bit set start a legacy request for that domain, or end it with the code that refuses it. (R331, R333, R334) -/
def Obligations.PowerRequests : Prop :=
  (∀ (o d : Nat) (im : Bool) (s : State), s.csrAnswers Reg.PWR_REQ_CMD = true → s.pwr = none → s.valid Reg.PWR_RES = false →
    (o = 1 ∨ o = 2 → d < 128) → (o = 3 ∨ o = 4 → d = 0) → 1 ≤ o → o ≤ 4 → (o ≤ 2 → s.fuses.dom d = true) →
    (s.inReturn = true → exec (if o = 1 then .pwrOn d im else if o = 2 then .pwrOff d im else if o = 3 then .quiet im else .wake im) s =
      .next (after s (if o ≤ 2 then setLast (s.putRes Reg.PWR_RES eLIFE 0) d eLIFE else s.putRes Reg.PWR_RES eLIFE 0))) ∧
    (s.inReturn = false → im = false → fnAtLeast (s.rd48 Reg.PWR_REQ_AT_LO) s.fnN 2 = false →
      exec (if o = 1 then .pwrOn d im else if o = 2 then .pwrOff d im else if o = 3 then .quiet im else .wake im) s =
      .next (after s (if o ≤ 2 then setLast (s.putRes Reg.PWR_RES eLATE 0) d eLATE else s.putRes Reg.PWR_RES eLATE 0))) ∧
    (s.inReturn = false → (im = true ∨ fnAtLeast (s.rd48 Reg.PWR_REQ_AT_LO) s.fnN 2 = true) → s.pwrBusy o d false = false →
      exec (if o = 1 then .pwrOn d im else if o = 2 then .pwrOff d im else if o = 3 then .quiet im else .wake im) s =
      .next (after s
        (let u := (({ s with pwr := some ⟨o, d, im, s.rd48 Reg.PWR_REQ_AT_LO, s.elapsed, false⟩ } : State).pendRes Reg.PWR_RES).setFlag
            Reg.PWR_STAT F.PWR_STAT_PEND true
         if o ≤ 2 then domPend u d else u)))) ∧
  (∀ (on : Bool) (m b : Nat) (s : State), m < 3 → b < 32 → 32 * m + b < 67 →
    s.csrAnswers (if on then Reg.PWR_LEG_ON m else Reg.PWR_LEG_OFF m) = true →
    (∀ c, s.pwrRefusal (if on then 1 else 2) (32 * m + b) false true = some c →
      exec (if on then .pwrLegOn m (BitVec.ofNat 32 (2 ^ b)) else .pwrLegOff m (BitVec.ofNat 32 (2 ^ b))) s =
        .next (after s (legEnd s (32 * m + b) c))) ∧
    (s.pwrRefusal (if on then 1 else 2) (32 * m + b) false true = none →
      exec (if on then .pwrLegOn m (BitVec.ofNat 32 (2 ^ b)) else .pwrLegOff m (BitVec.ofNat 32 (2 ^ b))) s =
        .next (after s (domPend { s with legs := s.legs ++ [⟨32 * m + b, on, s.elapsed, false⟩] } (32 * m + b)))))

/-- PWR_REQUEST_ACT at offset 0, with one immediate native request accepted in an earlier frame that nothing refuses: ON of an
OFF domain starts its rise, OFF of an ON domain its drain, QUIET and WAKE change the power state and complete OK; the laser
drive follows at once (elsReform). DOMAIN_ON makes a rising domain ON with every register of its blocks at its reset value and
every other register as it was (which registers those are is log entry 87). At the first offset 0 after a drain began: with
nothing toward the domain in flight DOMAIN_ISOLATE makes it OFF with its content lost, and DRAIN_TIMEOUT does nothing; with a
burst in flight DRAIN_TIMEOUT makes it ON again with PWR_ERR, and DOMAIN_ISOLATE does nothing (what is in flight: log entry 88).
The request that moved it completes: here none waits. (R329, R331, R332, R334) -/
def Obligations.DomainsMove : Prop :=
  (∀ (x : PwrReq) (s : State), s.clk = true → s.ofs = 0 → s.legs = [] → s.pwr = some x → x.acted = false → x.immed = true →
    x.since < s.elapsed → s.pwrRefusal x.op x.dom false false = none →
    (x.op = 1 → s.domSt x.dom = 0 → exec .pwrRequestAct s = .next (after s (elsReform
      { setDom s x.dom 1 with pwr := some { x with acted := true } }))) ∧
    (x.op = 2 → s.domSt x.dom = 2 → exec .pwrRequestAct s = .next (after s (elsReform
      { setDom s x.dom 3 with pwr := some { x with acted := true } }))) ∧
    (x.op = 3 → exec .pwrRequestAct s = .next (after s (elsReform (pwrEnd (quietEnter s) cOK)))) ∧
    (x.op = 4 → exec .pwrRequestAct s = .next (after s (elsReform (pwrEnd (pwrShow { s with quiet := false }) cOK))))) ∧
  (∀ (d : Nat) (s : State), d < 67 → s.pwr = none → s.legs = [] →
    (s.domSt d = 1 → exec (.domainOn d) s = .next (after s (setDom (domRegs s d) d 2)) ∧
      (Tab.wf regReset s.regs = true → ∀ a, (domRegs s d).rd a =
        if (domCsr d).1 ≤ a ∧ a < (domCsr d).2 then (regReset a).toNat else s.rd a)) ∧
    (s.domSt d = 3 → s.ofs = 0 → tabGet 0 s.domAt d < s.elapsed →
      (s.inFlight d = false →
        exec (.domainIsolate d) s = .next (after s (elsReform (setDom (domLoss s d) d 0))) ∧ exec (.drainTimeout d) s = .next (after s s)) ∧
      (s.inFlight d = true →
        exec (.drainTimeout d) s = .next (after s (elsReform ((setDom s d 2).evt Reg.PWR_EVT F.PWR_EVT_PWR_ERR))) ∧
        exec (.domainIsolate d) s = .next (after s s))))

/-- With key 0x96 and no result waiting, and no RETURN accepted: the command of the present state answers OK and changes nothing
else; DEVELOP to DEPLOY programs the fuse copies at once (that a copy can fail its verify, and which, is a free value, log entry
135), closes the debug paths and orders a reset 1,000 core cycles later with cause 5, unless one is ordered (log entry 91);
DEVELOP or DEPLOY to RETURN is accepted and waits for the next frame; every other command answers E_LIFECYCLE. Another key has
no effect. (R320, R321, R322, R323, R336) -/
def Obligations.LifeCycleCommands : Prop :=
  ∀ (c k : Nat) (s : State), c < 4 → k < 256 → s.csrAnswers Reg.LC_CMD = true →
    (k ≠ 0x96 → ∀ i ∈ [Instr.lcBlank k, .lcDevelop k, .lcDeploy k, .lcReturn k], exec i s = .next (after s s)) ∧
    (k = 0x96 → s.valid Reg.LC_RES = false → s.lcDue = none →
      ∀ i, [Instr.lcBlank k, .lcDevelop k, .lcDeploy k, .lcReturn k][c]? = some i →
      exec i s = .next (after s
        (if s.fuses.lc = c then s.putRes Reg.LC_RES cOK 0
         else if s.fuses.lc = 1 ∧ c = 2 then
           lcProgram { pathsClose (s.putRes Reg.LC_RES cOK 0) with
             boot := { s.boot with resetDue := (s.boot.resetDue.orElse fun _ => some (s.now + 1000, 5)) } } 2
         else if (s.fuses.lc = 1 ∨ s.fuses.lc = 2) ∧ c = 3 then { s.putRes Reg.LC_RES cOK 0 with lcDue := some (false, s.elapsed) }
         else s.putRes Reg.LC_RES eLIFE 0)))

/-- THERMAL_SAMPLE with power good stores the samples; the alert begins when a die reads 118 °C (1,888 sixteenths) or more and,
once begun, lasts until every die reads below 113 °C (1,808). Below 125 °C (2,000) nothing else changes. At 125 °C on a die the
device trips: it is held in reset with every register at its reset value. SMB_READ_WORD answers, at the target address 0x58 plus
the straps, the two bytes of the telemetry word, low byte first, which for 0x01 is the highest die temperature, with the packet
error code over them (the straps are a free constant, the code's form the SMBus specification's: log entry 150), and changes
nothing else. (R347, R348) -/
def Obligations.SensorsAndTelemetry : Prop :=
  (∀ (h a b c d : Int) (l : List Nat) (p : Nat) (s : State), l.length = 9 → s.pins.powerGood = true →
    ((∀ t ∈ [h, a, b, c, d], t < 2000) ∨ s.pins.trip = true → exec (.thermalSample h a b c d l p) s = .next (after s
      { s with telem := { temps := [h, a, b, c, d], currents := l, power := p },
               pins := { s.pins with alert := decide (∃ t ∈ [h, a, b, c, d], (1888 : Int) ≤ t) ||
                 (s.pins.alert && decide (∃ t ∈ [h, a, b, c, d], (1808 : Int) ≤ t)) } })) ∧
    ((∃ t ∈ [h, a, b, c, d], (2000 : Int) ≤ t) → s.pins.trip = false → ∃ t : State,
      exec (.thermalSample h a b c d l p) s = .next (after s t) ∧ t.pins.trip = true ∧ t.pins.alert = true ∧ t.inReset = true ∧
        t.regs = [] ∧ t.clk = false ∧ t.img = none ∧ t.fuses = s.fuses ∧ t.telem.temps = [h, a, b, c, d])) ∧
  (∀ (c : Nat) (s : State), c < 256 → s.pins.powerGood = true →
    exec (.smbReadWord c) s = .next (after s { s with sent := s.sent ++ [.smbus (0x58 + Config.smbStraps.val)
      [byte (s.smbWord c), byte (s.smbWord c / 256)]
      ([byte (2 * (0x58 + Config.smbStraps.val)), byte c, byte (2 * (0x58 + Config.smbStraps.val) + 1), byte (s.smbWord c),
        byte (s.smbWord c / 256)].foldl crc8Byte 0)] })) ∧
  (∀ (t : Int) (l : List Int) (s : State), s.telem.temps = t :: l → s.smbWord 1 = unsext (l.foldl max t) 16)

/-- Without power an instruction of the test access port has no effect. With power good and no debug session open: BYPASS and
DEBUG_SESSION_CLOSE select their instruction; IDCODE also answers the part's code; SAMPLE/PRELOAD answers the boundary register,
a free value (log entry 11). EXTEST, CLAMP and HIGHZ drive the boundary pins in reset, and in NO_IMAGE but for RETURN before
zeroisation, else they are BYPASS (R326, R327). CDA_ACCESS opens a session outside reset and latches LC_EVT.DBG_OPEN; in reset
it opens none. A MAKER instruction where maker debug is closed is BYPASS; open, it answers free data, and in BLANK it may, which
is free too, order DEVELOP (log entry 10), which programs the fuse copies (log entry 135). With a session open, BYPASS closes
it. (R325, R326, R327) -/
def Obligations.TestAccessPort : Prop :=
  (∀ (s : State) (c : Nat), s.pins.powerGood = false → 0x30 ≤ c → c ≤ 0x3F →
    ∀ i ∈ [Instr.bypass, .debugSessionClose, .idcode, .samplePreload, .extest, .clamp, .highz, .cdaAccess, .maker c],
      exec i s = .next (after s s)) ∧
  ∀ s : State, s.pins.powerGood = true →
    (s.dbg.sess = false →
      exec .bypass s = .next (after s { s with dbg := { s.dbg with ir := 0xFF, drive := 0 } }) ∧
      exec .debugSessionClose s = .next (after s { s with dbg := { s.dbg with ir := 0x01, drive := 0 } }) ∧
      exec .idcode s = .next (after s { s with dbg := { s.dbg with ir := 0x01, drive := 0 }, sent := s.sent ++ [.tap s.fuses.idcode] }) ∧
      exec .samplePreload s = .next (after s
        { s with dbg := { s.dbg with ir := 0x02, drive := 0 }, sent := s.sent ++ [.tap (Config.boundarySample s.freeCount).toNat],
                 freeCount := s.freeCount + 1 }) ∧
      (s.inReset = true ∨ (s.bootStep = 9 ∧ (s.inReturn = false ∨ s.fuses.zeroised = true)) →
        exec .extest s = .next (after s { s with dbg := { s.dbg with ir := 0x03, drive := 1 } }) ∧
        exec .clamp s = .next (after s { s with dbg := { s.dbg with ir := 0x04, drive := 2 } }) ∧
        exec .highz s = .next (after s { s with dbg := { s.dbg with ir := 0x05, drive := 3 } })) ∧
      (s.inReset = false → s.bootStep ≠ 9 ∨ (s.inReturn = true ∧ s.fuses.zeroised = false) → ∀ i ∈ [Instr.extest, .clamp, .highz],
        exec i s = .next (after s { s with dbg := { s.dbg with ir := 0xFF, drive := 0 } })) ∧
      (s.inReset = false → exec .cdaAccess s = .next (after s
        (({ s with dbg := { s.dbg with ir := 0x20, drive := 0, sess := true, status := 0 } } : State).evt Reg.LC_EVT F.LC_EVT_DBG_OPEN))) ∧
      (s.inReset = true → exec .cdaAccess s = .next (after s { s with dbg := { s.dbg with ir := 0x20, drive := 0 } })) ∧
      (∀ c, 0x30 ≤ c → c ≤ 0x3F →
        (s.makerOpen = false → exec (.maker c) s = .next (after s { s with dbg := { s.dbg with ir := 0xFF, drive := 0 } })) ∧
        (s.makerOpen = true →
          let u : State := { s with dbg := { s.dbg with ir := c, drive := 0 }, sent := s.sent ++ [.tap (Config.makerData s.freeCount).toNat] }
          (s.lcState ≠ 0 ∨ Config.makerDevelops s.freeCount = false →
            exec (.maker c) s = .next (after s { u with freeCount := s.freeCount + 1 })) ∧
          (s.lcState = 0 → Config.makerDevelops s.freeCount = true → ∃ t : State, exec (.maker c) s = .next (after s t) ∧
            t.fuses = s.fuses.burn 1 (Config.fuseVerifies s.freeCount) ∧ t.dbg.sess = false ∧ t.sent = u.sent ∧
            t.freeCount = s.freeCount + 2)))) ∧
    (s.dbg.sess = true → s.dbg.held = none → s.xbHold = [] → exec .bypass s = .next (after s
      { s with dbg := { s.dbg with ir := 0xFF, drive := 0, sess := false, held := none } }))

/-- In a session with power good and no access held: CDA_READ and CDA_WRITE to an address R327 closes are DENIED (status 1,
LC_EVT.DBG_DENIED, no access); outside a host window, or where the target's path is taken or a rival chosen, the access is held
and answers PENDING (2); else it is carried out at once: a read of memory at a dword address that answers returns its four bytes
with status OK (0), and a write changes exactly those four bytes; in CSR space an address that is no multiple of 4 has no effect
and reads 0 (R14). CDA_CAPTURE, where capture is open, captures an object whose domain is ON (which domain: log entry 37) from
the next frame, with an empty buffer (log entry 100); where it is closed, it is DENIED. (R325, R327, R37, R304) -/
def Obligations.DebugAccess : Prop :=
  (∀ (w : Bool) (a : Nat) (v : Word) (s : State), a < 0x10000000000 → s.pins.powerGood = true → s.dbg.sess = true → s.dbg.held = none →
    (s.cdaAllows (a / 4 * 4) w = false →
      exec (if w then .cdaWrite a v else .cdaRead a) s = .next (after s
        ((({ s with dbg := { s.dbg with status := 1 } } : State).evt Reg.LC_EVT F.LC_EVT_DBG_DENIED).send (.cda 0 1)))) ∧
    (s.cdaAllows (a / 4 * 4) w = true → (s.inWindow s.ofs = false ∨ s.mayBegin (s.target (a / 4 * 4)) 3 0 = false) →
      exec (if w then .cdaWrite a v else .cdaRead a) s = .next (after s
        (({ s with dbg := { s.dbg with held := some (w, a, if w then v else 0), heldAt := s.now, status := 2 } } : State).send (.cda 0 2)))) ∧
    (s.cdaAllows a w = true → a % 4 = 0 → s.inWindow s.ofs = true → s.mayBegin (s.target a) 3 0 = true → s.memUp = true →
      Tab.wf memDefault s.mem = true → ∀ k, s.memKey a = some k → inCsr a = false → s.isRom a = false →
      s.rivals (s.target a) 3 = [] →
      ∃ t : State, exec (if w then .cdaWrite a v else .cdaRead a) s = .next (after s t) ∧ t.dbg.status = 0 ∧ t.dbg.held = none ∧
        t.regs = s.regs ∧
        (w = false → t.mem = s.mem ∧ t.sent = s.sent ++ [.cda (BitVec.ofNat 32 (leNat (s.memGet k 4))) 0]) ∧
        (w = true → (∀ i, i < 4 → t.memAt (k + i) = byte (v.toNat / 256 ^ i)) ∧ ∀ j, ¬(k ≤ j ∧ j < k + 4) → t.memAt j = s.memAt j)) ∧
    (s.cdaAllows (a / 4 * 4) w = true → a % 4 ≠ 0 → s.inWindow s.ofs = true → inCsr a = true → s.csrAnswers ((a - Config.csrBase) / 4 * 4) = true →
      s.holder8 2 = 8 → s.rivals 2 3 = [] →
      ∃ t : State, exec (if w then .cdaWrite a v else .cdaRead a) s = .next (after s t) ∧ t.regs = s.regs ∧ t.mem = s.mem ∧ t.dbg.held = none ∧
        (w = false → t.sent = s.sent ++ [.cda 0 0]))) ∧
  (∀ (lf : Bool) (i n : Nat) (s : State), i < (if lf then 512 else 41472) → 1 ≤ n → n ≤ 16 → s.pins.powerGood = true → s.dbg.sess = false →
    (s.capOpen = true → s.domOn (capDomain lf i) = true → exec (.cdaCapture lf i n) s = .next (after s
      { s with dbg := { s.dbg with ir := 0x21, drive := 0, cap := some ⟨lf, i, n, s.elapsed⟩, capBuf := [], capPos := 0, status := 0 } })) ∧
    (s.capOpen = false → exec (.cdaCapture lf i n) s = .next (after s
      ((({ s with dbg := { s.dbg with ir := 0x21, drive := 0, status := 1 } } : State).evt Reg.LC_EVT F.LC_EVT_DBG_DENIED).send (.cda 0 1)))))

/-- CAPTURE stores FN and offset in FT_CAP. ARM with no result waiting, outside STANDBY, HOLDING and candidate 40, in IDLE, with
a step within its limits and AT at least 16 frames ahead, goes to ARMED and takes the registers; a step out of limits answers
E_FORMAT, too late E_EPOCH_LATE, while a step runs E_IN_USE. CANCEL_STEP ends an ARMED step with OK and has no effect in any
other state. STEP_APPLIED at offset 0 after the slew returns to IDLE, latches STEP_APPLIED and answers OK. PPS_LOSS after 16,000
frames without an edge shows NO_PPS. (R41, R42, R50, R39) -/
def Obligations.FrameTimeCommands : Prop :=
  (∀ s : State, s.csrAnswers Reg.FT_CAP_CMD = true → exec .capture s = .next (after s
    (((s.wr Reg.FT_CAP_FN_LO (s.fnN % 4294967296)).wr Reg.FT_CAP_FN_HI (s.fnN / 4294967296)).wr Reg.FT_CAP_OFS s.ofs))) ∧
  (∀ s : State, s.csrAnswers Reg.FT_STEP_CMD = true → s.valid Reg.FT_STEP_RES = false → s.role ≠ roleSTANDBY → s.role ≠ roleHOLDING →
    s.timSel ≠ 40 →
    (s.stepState ≠ 0 → exec .arm s = .next (after s (s.putRes Reg.FT_STEP_RES eINUSE 0))) ∧
    (s.stepState = 0 → (sext (s.rd Reg.FT_STEP_CYC) 32 < -100000 ∨ 99999 < sext (s.rd Reg.FT_STEP_CYC) 32) →
      exec .arm s = .next (after s (s.putRes Reg.FT_STEP_RES eFORMAT 0))) ∧
    (s.stepState = 0 → -100000 ≤ sext (s.rd Reg.FT_STEP_CYC) 32 → sext (s.rd Reg.FT_STEP_CYC) 32 ≤ 99999 →
      (fnAtLeast (s.rd48 Reg.FT_STEP_AT_LO) s.fnN 16 = false →
        exec .arm s = .next (after s (s.putRes Reg.FT_STEP_RES eLATE 0))) ∧
      (fnAtLeast (s.rd48 Reg.FT_STEP_AT_LO) s.fnN 16 = true → exec .arm s = .next (after s
        { s.setFld Reg.FT_STAT F.FT_STAT_STEP_STATE 1 with
          stepAt := BitVec.ofNat 48 (s.rd48 Reg.FT_STEP_AT_LO), stepNew := BitVec.ofNat 48 (s.rd48 Reg.FT_STEP_NEWFN_LO),
          stepCyc := sext (s.rd Reg.FT_STEP_CYC) 32, slewMoved := 0 })))) ∧
  (∀ s : State, s.csrAnswers Reg.FT_STEP_CMD = true →
    (s.stepState = 1 → exec .cancelStep s = .next (after s ((s.setFld Reg.FT_STAT F.FT_STAT_STEP_STATE 0).putRes Reg.FT_STEP_RES cOK 0))) ∧
    (s.stepState ≠ 1 → exec .cancelStep s = .next (after s s))) ∧
  (∀ s : State, s.stepState = 2 → s.stepCyc.natAbs ≤ s.slewMoved → s.ofs = 0 → s.role ≠ roleSTANDBY → s.timSel ≠ 40 →
    exec .stepApplied s = .next (after s
      (((s.setFld Reg.FT_STAT F.FT_STAT_STEP_STATE 0).evt Reg.FT_EVT F.FT_EVT_STEP_APPLIED).putRes Reg.FT_STEP_RES cOK 0))) ∧
  (∀ s : State, s.fld Reg.FT_STAT F.FT_STAT_ALIGN_STATE ≠ 0 → 16000 ≤ s.ppsAge → exec .ppsLoss s = .next (after s
    { (s.setFld Reg.FT_STAT F.FT_STAT_ALIGN_STATE 0).evt Reg.FT_EVT F.FT_EVT_PPS_LOSS with ppsBad := 0 }))

/-- RELABEL at offset 0 of frame AT, with a step ARMED that this unit carries out itself. With NEWFN = AT no number changes:
without a slew the step ends at once (IDLE, STEP_APPLIED, OK), with one STEP_STATE is SLEWING. With another NEWFN before
release, FN is NEWFN and every queued graft that has a target is rejected with E_EPOCH_LATE (rejectAll). In every case FN
afterwards is NEWFN. (R42, R47, R44, R45) -/
def Obligations.StepRelabelsAtItsFrame : Prop :=
  ∀ s : State, Safe s → s.clk = true → s.ofs = 0 → s.stepState = 1 → s.stepAt = s.fn → s.role ≠ roleSTANDBY → s.timSel ≠ 40 →
    (s.stepNew = s.fn → s.stepCyc = 0 → exec .relabel s = .next (after s
      (((s.setFld Reg.FT_STAT F.FT_STAT_STEP_STATE 0).evt Reg.FT_EVT F.FT_EVT_STEP_APPLIED).putRes Reg.FT_STEP_RES cOK 0))) ∧
    (s.stepNew = s.fn → s.stepCyc ≠ 0 → exec .relabel s = .next (after s
      { s.setFld Reg.FT_STAT F.FT_STAT_STEP_STATE 2 with slewMoved := 0 })) ∧
    (s.stepNew ≠ s.fn → s.stepCyc ≠ 0 → s.released = false → ∃ t : State, exec .relabel s = .next (after s t) ∧
      t = { (({ rejectAll s [2, 3, 4] eLATE with fn := s.stepNew } : State).setFld Reg.FT_STAT F.FT_STAT_STEP_STATE 2) with slewMoved := 0 }) ∧
    (∃ t : State, exec .relabel s = .next (after s t) ∧ t.fn = s.stepNew)

/-- PPS_EDGE, which is the edge that FT_CTRL.PPS_POL selects (log entry 132), without the core clock changes nothing; with it
and after release: FT_PPS_OFS is the distance in core cycles from the nearest frame with FN mod 8,000 = 0 (R39: (FN mod 8,000) ×
200,000 + offset back to the last such frame, to the one midway included, else forward to the next; that the numbering in force
counts is log entry 112), FN and offset do not change (R40), and the stored messages are used up. With a message that names the
edge, FT_PPS_SEC is the difference of its second from that frame's, limited to 32 bits, and ALIGN_STATE is ALIGNED when the
distance is within the window (at least 1) and the seconds agree; without one FT_EVT.TOD_BAD latches. (R38, R39, R40, R222) -/
def Obligations.PpsEdgeIsMeasured : Prop :=
  ∀ s : State, (s.clk = false → exec .ppsEdge s = .next (after s s)) ∧
   (Safe s → s.clk = true → s.released = true →
    ∃ t : State, exec .ppsEdge s = .next (after s t) ∧
    t.fn = s.fn ∧ t.ofs = s.ofs ∧ t.tods = [] ∧ t.rd Reg.FT_PPS_OFS = unsext s.ppsPlace.1 32 ∧
    (∀ b, s.todFor = some b →
      t.rd Reg.FT_PPS_SEC = unsext (clampI ((beAt b 4 6 : Int) - (s.ppsPlace.2 / 8000 : Nat)) (-2147483647) 2147483647) 32 ∧
      ((s.ppsPlace.1.natAbs ≤ max 1 (s.fld Reg.FT_ALIGN_WIN F.FT_ALIGN_WIN_WIN) ∧ beAt b 4 6 = s.ppsPlace.2 / 8000) →
        t.fld Reg.FT_STAT F.FT_STAT_ALIGN_STATE = 1 ∧ t.flag Reg.FT_STAT F.FT_STAT_TIME_SET = true)) ∧
    (s.todFor = none → t.flag Reg.FT_EVT F.FT_EVT_TOD_BAD = true)) ∧
   (s.fnN + 8000 ≤ 281474976710656 → s.ofs < 200000 →
    let back := s.fnN % 8000 * 200000 + s.ofs
    (back ≤ 800000000 → s.ppsPlace = ((back : Int), s.fnN - s.fnN % 8000)) ∧
    (800000000 < back → s.ppsPlace.1 = (back : Int) - 1600000000 ∧
      s.ppsPlace.2 = (s.fnN - s.fnN % 8000 + 8000) % 281474976710656 / 8000 * 8000))

/-- FRAME_BOUNDARY with the core clock running: time advances first (timeFrame): offset 0, one more frame elapsed, FN one
higher, but for the frame before release in which a lock onto the active unit set an FN, which that FN + 1 follows (R209). Then
the data plane and the timing unit take what the frame that ended brought (planeFrame), and pending requests, the mate unit,
PMON, the DMA slots, power domains that are due, a RETURN in progress, the boot sequence and the laser chain follow. That order
is the model's choice (log entries 2 and 65; Machine/Boundary.lean). The trunk's and the leaf stage's selector bits in force
become those written, and a write in mid-frame leaves the bit in force as it is, one in the boundary cycle changes it at once
(R118, R166). Without a clock nothing happens. (R30, R33, R35, R118, R166, R209, R329, R332) -/
def Obligations.TheFrameBoundary : Prop :=
  ∀ (x : FrameInput) (s : State), x.ok = true →
    (s.clk = true → exec (.frameBoundary x) s = .next (after s
      (let a := reqBoundary (planeFrame (timeFrame s) x s.fnN)
       let b := pmonFrame (mateFrame a (!x.patrolUnc.isEmpty || !x.mapErr.isEmpty || x.ramUnc))
       elsReform (bootFrame (lcReturnStep (powerFrame (dmaFrame b))) x.zeroBad))) ∧
      (timeFrame s).ofs = 0 ∧ (timeFrame s).elapsed = s.elapsed + 1 ∧
      (s.released = true ∨ s.mate.newFn = none → (timeFrame s).fn = s.fn + 1) ∧
      (∀ n, s.released = false → s.mate.newFn = some n → (timeFrame s).fnN = (n + 1) % 281474976710656)) ∧
    (s.clk = false → exec (.frameBoundary x) s = .next (after s s)) ∧
    ((trunkFrame s).selF = s.selW ∧ (trunkFrame s).selW = s.selW ∧ (leafFrame s x).lselF = s.lselW ∧ (leafFrame s x).lselW = s.lselW) ∧
    (∀ (k o : Nat) (b : Bool) (m : Image), s.img = some m → (k = 1 ∧ (m.outRec o).kind = 2) ∨ (k = 2 ∧ (m.outRec o).kind = 3) →
      tabGet false (selWrite s k o b).selW o = b ∧ (s.ofs ≠ 0 → (selWrite s k o b).selF = s.selF) ∧
      (s.ofs = 0 → tabGet false (selWrite s k o b).selF o = b)) ∧
    (∀ (r : Nat) (b : Bool) (m : Image), s.img = some m → (m.entry? secSREC 0 r).isSome = true →
      tabGet false (lselWrite s r b).lselW r = b ∧ (s.ofs ≠ 0 → (lselWrite s r b).lselF = s.lselF) ∧
      (s.ofs = 0 → tabGet false (lselWrite s r b).lselF r = b))

/-- PM_SECOND_END at offset 0 of a frame with FN mod 8,000 = 0, in a released device whose second began earlier, ends the second
of every line and leaf entity and begins the next; else it changes nothing. The sample of the last frame is taken in first
(settle), and snapshots of that boundary are taken anew (shoot; both log entry 65). A second is an SES when it is a defect
second or its errored blocks are at least 15 per cent of its blocks (not when there is none: log entry 45), unless discarded
(which are: log entry 44). When ten seconds are uncommitted, the first is committed: an available direction becomes unavailable
when all ten are SES, an unavailable one available when none is, and the counters of the bin the first second lies in grow by
its increments. BIN_15_MINUTE_START at offset 0 of a frame with FN mod 7,200,000 = 0, and BIN_24_HOUR_START at 691,200,000 k +
7,200,000 times DAY_SHIFT, in a released device whose bin began earlier, open the next bin: serial one higher, first FN this
frame's, no marks; at a 15-minute start a changed DAY_SHIFT comes into force and marks the open 24-hour bin. PM_CLOSURE_WRITE
with no closure 72,000 frames old changes nothing. PM_RD_REQ with no result and no request waiting is kept, else it latches
REQ_IGNORED; the next boundary shows PENDING and takes the snapshot of a defined entity's bin, for another or for SEL 2 and 3 an
empty one (pmBoundary); PM_SNAPSHOT of a pending request answers that snapshot with OK, or E_FORMAT for the empty one. (R48,
R90, R91, R93, R98) -/
def Obligations.BinsAndClosures : Prop :=
  (∀ s : State,
    (s.released = false ∨ s.ofs ≠ 0 ∨ s.fnN % 8000 ≠ 0 ∨ s.elapsed ≤ s.secStart → exec .pmSecondEnd s = .next (after s s)) ∧
    (s.released = true → s.ofs = 0 → s.fnN % 8000 = 0 → s.secStart < s.elapsed →
      (s.img = none → s.pmReq = none → s.leafReq = none →
        exec .pmSecondEnd s = .next (after s { s with secStart := s.elapsed, smpDue := false })) ∧
      exec .pmSecondEnd s = .next (after s (shoot { leafSeconds (lineSeconds (settle s)) with secStart := s.elapsed })))) ∧
  (∀ (blk err : Nat) (dfct discard : Bool), (classify blk err dfct discard).2.1 = true ↔
    dfct = true ∨ (0 < blk ∧ (15 * blk ≤ 100 * err ∧ discard = false))) ∧
  (∀ (p : Pm) (g : Bool) (x j : Sec) (rest : List Sec), p.secs ++ [x] = j :: rest →
    (p.secs.length < 9 → (secEnd p g x).secs = p.secs ++ [x] ∧ (secEnd p g x).neAvail = p.neAvail ∧ (secEnd p g x).bins15 = p.bins15) ∧
    (9 ≤ p.secs.length → (secEnd p g x).secs = rest ∧
      (secEnd p g x).neAvail = (if p.neAvail = true then !((j :: rest).all (·.neSes)) else (j :: rest).all (fun y => !y.neSes)) ∧
      (secEnd p g x).feAvail = (if p.feAvail = true then !((j :: rest).all (·.feSes)) else (j :: rest).all (fun y => !y.feSes)) ∧
      (∀ b ∈ p.bins15, b.serial = j.bin15 →
        b.add (secInc g j (secEnd p g x).neAvail (secEnd p g x).feAvail) j.frames ∈ (secEnd p g x).bins15) ∧
      (∀ b ∈ p.bins15, b.serial ≠ j.bin15 → b ∈ (secEnd p g x).bins15))) ∧
  (∀ s : State, s.released = true → s.ofs = 0 →
    (s.fnN % 7200000 = 0 → s.s15.first ≠ s.fnN →
      ∃ t : State, exec .bin15MinuteStart s = .next (after s t) ∧ t.s15.serial = s.s15.serial + 1 ∧ t.s15.first = s.fnN ∧ t.s15.marks = 0 ∧
        t.s15.waiting = s.s15.waiting ++ [(s.s15.serial, s.elapsed)] ∧
        t.s24 = (if s.s24.shift = s.dayShift then s.s24 else { s.s24 with marks := Nat.lor s.s24.marks 1, shift := s.dayShift }) ∧
        t = { s with s15 := t.s15, s24 := t.s24, pm := t.pm }) ∧
    (s.fnN % 691200000 = 7200000 * s.s24.shift → s.s24.first ≠ s.fnN →
      ∃ t : State, exec .bin24HourStart s = .next (after s t) ∧ t.s24.serial = s.s24.serial + 1 ∧ t.s24.first = s.fnN ∧ t.s24.marks = 0 ∧
        t.s24.waiting = s.s24.waiting ++ [(s.s24.serial, s.elapsed)] ∧ t = { s with s24 := t.s24, pm := t.pm })) ∧
  (∀ s : State, (∀ w ∈ s.s15.waiting ++ s.s24.waiting, s.elapsed < w.2 + 72000) → exec .pmClosureWrite s = .next (after s s)) ∧
  (∀ (q e : Nat) (s : State), s.s15.waiting = [(q, e)] → s.s24.waiting = [] → e + 72000 ≤ s.elapsed →
    exec .pmClosureWrite s = .next (after s { closeWrite s false q with s15 := { (closeWrite s false q).s15 with waiting := [] } })) ∧
  (∀ (e k : Nat) (s : State), e < 262144 → k < 4 → s.csrAnswers Reg.PM_RD_REQ = true →
    (s.valid Reg.PM_RES = false → s.pmReq = none → exec (.pmRdReq e k) s = .next (after s { s with pmReq := some ⟨e, k, s.elapsed, none⟩ })) ∧
    (s.valid Reg.PM_RES = true ∨ s.pmReq.isSome = true → exec (.pmRdReq e k) s = .next (after s (s.evt Reg.PM_EVT F.PM_EVT_REQ_IGNORED)))) ∧
  (∀ (r : RdReq) (m : Image) (s : State), s.pmReq = some r → s.ofs = 0 → s.elapsed = r.since + 1 → s.img = some m →
    pmBoundary s = { s.pendRes Reg.PM_RES with pmReq := some { r with
        shot := some (if r.sel < 2 ∧ r.ent ∈ m.pmLine then
          snapRecord (s.pendRes Reg.PM_RES) r.ent (r.sel == 1) ((s.pendRes Reg.PM_RES).nextSeq Reg.PM_RES) else []) } }) ∧
  (∀ (r : RdReq) (b : List Byte) (s : State), s.pmReq = some r → r.shot = some b → s.isPending Reg.PM_RES = true →
    exec .pmSnapshot s = .next (after s (if b = [] then ({ s with pmReq := none } : State).putRes Reg.PM_RES eFORMAT 0
      else (putData { s with pmReq := none } (Reg.PM_RES_DATA 0) b).putRes Reg.PM_RES cOK 0)))

/-- For a candidate in reach of its rule: QUALIFIED after 8,000 good frames, CANDIDATE_WTR_END after TIM_WTR good frames and
DISPUTE_RELEASE after 8,000 frames in agreement make it USABLE, with no frames left to show; the selection of that boundary
still counts its former state (R207); FREQUENCY_FAULT_CLEAR after 8,000 frames well inside the range clears the fault and, with
no other fault, a FAILED candidate leaves for QUALIFYING, or WTR when it had been USABLE. REF_SIGNAL_FAULT and REF_SIGNAL_RETURN
of an enabled reference input in mid-frame are noted for the frame, of any other they have no effect; a fault in the boundary
cycle fails a candidate in that boundary (R33; refLate). SSM_MESSAGE of a framed input feeds the acceptance filter of 3; code 16
(model's choice: loss of CRC-4 alignment) empties it. (R202, R203, R205, R211) -/
def Obligations.CandidateStates : Prop :=
  ∀ (n : Nat) (s : State), n < 41 →
    (s.refSt n = 1 → 8000 ≤ (s.ref n).good → exec (.qualified n) s = .next (after s (refLeft
      ((s.setFld (Reg.TIM_REF_STAT n) F.TIM_REF_STAT_STATE 4).updRef n fun r =>
        { r with used := true, good := 0, agree := 0, freshAt := s.elapsed, fresh := 1 }) n))) ∧
    (s.refSt n = 3 → s.timWtr ≤ (s.ref n).good → exec (.candidateWtrEnd n) s = .next (after s (refLeft
      ((s.setFld (Reg.TIM_REF_STAT n) F.TIM_REF_STAT_STATE 4).updRef n fun r =>
        { r with used := true, good := 0, agree := 0, freshAt := s.elapsed, fresh := 3 }) n))) ∧
    (s.refSt n = 5 → 8000 ≤ (s.ref n).agree → exec (.disputeRelease n) s = .next (after s (((s.setFld (Reg.TIM_REF_STAT n) F.TIM_REF_STAT_STATE 4).updRef n fun r =>
        { r with used := true, good := 0, agree := 0, freshAt := s.elapsed, fresh := 5 })))) ∧
    (Tab.wf regReset s.regs = true → s.flag (Reg.TIM_REF_STAT n) F.TIM_REF_STAT_FREQ_FAULT = true → 8000 ≤ (s.ref n).freqIn →
      s.flag (Reg.TIM_REF_STAT n) F.TIM_REF_STAT_SIG_FAULT = false →
      (s.refSt n ≠ 2 → exec (.frequencyFaultClear n) s = .next (after s
        (s.setFlag (Reg.TIM_REF_STAT n) F.TIM_REF_STAT_FREQ_FAULT false))) ∧
      (s.refSt n = 2 → exec (.frequencyFaultClear n) s = .next (after s (refLeft
        (((s.setFlag (Reg.TIM_REF_STAT n) F.TIM_REF_STAT_FREQ_FAULT false).setFld (Reg.TIM_REF_STAT n) F.TIM_REF_STAT_STATE
          (if (s.ref n).used then 3 else 1)).updRef n fun r => { r with good := 0 }) n)))) ∧
    (n < 8 → s.refOn n = true → s.ofs = 0 → s.built = true → exec (.refSignalFault n) s = .next (after s
      (refLate (s.updRef n fun r => { r with sig := true, sigAcc := true }) n))) ∧
    (n < 8 → s.refOn n = true → s.ofs ≠ 0 →
      exec (.refSignalFault n) s = .next (after s (s.updRef n fun r => { r with sig := true, sigAcc := true })) ∧
      exec (.refSignalReturn n) s = .next (after s (s.updRef n fun r => { r with sig := false }))) ∧
    (¬(n < 8 ∧ s.refOn n = true) → exec (.refSignalFault n) s = .next (after s s) ∧ exec (.refSignalReturn n) s = .next (after s s)) ∧
    (∀ c, c ≤ 16 →
      (s.refTy n = 2 ∨ s.refTy n = 3 → c < 16 → exec (.ssmMessage n c) s = .next (after s
        (s.updRef n fun r => { r with ssm := r.ssm.feed 3 c }))) ∧
      (s.refTy n = 2 → c = 16 → exec (.ssmMessage n c) s = .next (after s (s.updRef n fun r => { r with ssm := {} }))))

/-- SETTLING_END once the settling time is over clears SETTLING. LOCKED in ACQUIRING after 8,000 frames within limits makes the
unit LOCKED and latches it; LOCK_LOSS in LOCKED after 80 frames out of limits returns it to ACQUIRING; the pin TIM_STATE follows
at offset 0 only. FORCE_HO_WRITE stores its one RW bit, LOCKOUT_WRITE the bits of candidates 0 to 31 or 32 to 47; both act from
the next boundary. At each boundary of a built device (timFrame) FORCE_HO leaves no candidate selected, in HOLDOVER or FREERUN,
and a locked-out candidate is not the selected one (R208). TOD_IN_MESSAGE keeps a formally valid message for the edge it names,
and TOD_OUT_MESSAGE sends the message of R223 at offset 0 of a frame with FN mod 8,000 = 4,000. (R208, R214, R215, R218, R222,
R223) -/
def Obligations.TimingUnitEvents : Prop :=
  (∀ (n : Nat) (s : State), s.tim.settleEnd = some n → n ≤ s.elapsed → exec .settlingEnd s = .next (after s
    { s.setFlag Reg.TIM_STAT F.TIM_STAT_SETTLING false with tim := { s.tim with settleEnd := none } })) ∧
  (∀ s : State, s.timSt = 1 → 8000 ≤ s.tim.lockRun → exec .locked s = .next (after s
    (timPin ((s.setFld Reg.TIM_STAT F.TIM_STAT_STATE 2).evt Reg.TIM_EVT F.TIM_EVT_LOCKED) 2))) ∧
  (∀ (n : Nat) (s : State), (s.ofs = 0 → timPin s n = { s with tim := { s.tim with pinState := n } }) ∧ (s.ofs ≠ 0 → timPin s n = s)) ∧
  (∀ s : State, s.timSt = 2 → 80 ≤ s.tim.badRun → exec .lockLoss s = .next (after s
    { timPin (s.setFld Reg.TIM_STAT F.TIM_STAT_STATE 1) 1 with
      tim := { (timPin (s.setFld Reg.TIM_STAT F.TIM_STAT_STATE 1) 1).tim with lockRun := 0 } })) ∧
  (∀ (d : Word) (s : State), (s.csrAnswers Reg.TIM_HCTRL = true →
      exec (.forceHoWrite d) s = .next (after s (s.wr Reg.TIM_HCTRL (d.toNat % 2)))) ∧
    (s.csrAnswers Reg.TIM_LOCKOUT_0 = true → exec (.lockoutWrite 0 d) s = .next (after s (s.wr Reg.TIM_LOCKOUT_0 d.toNat))) ∧
    (s.csrAnswers Reg.TIM_LOCKOUT_1 = true → exec (.lockoutWrite 1 d) s = .next (after s (s.wr Reg.TIM_LOCKOUT_1 (d.toNat % 65536))))) ∧
  (∀ (x : FrameInput) (s : State), x.ok = true → s.built = true → Tab.wf regReset s.regs = true →
    (s.flag Reg.TIM_HCTRL F.TIM_HCTRL_FORCE_HO = true → (timFrame s x).timSel = 63 ∧ ((timFrame s x).timSt = 0 ∨ (timFrame s x).timSt = 3)) ∧
    (∀ n, n < 40 → s.bit (if n < 32 then Reg.TIM_LOCKOUT_0 else Reg.TIM_LOCKOUT_1) (n % 32) = true → (timFrame s x).timSel ≠ n)) ∧
  (∀ (b : List Byte) (s : State), s.clk = true →
    (todOk b = true → exec (.todInMessage b) s = .next (after s { s with tods := s.tods ++ [⟨s.now, b⟩] })) ∧
    (todOk b = false → exec (.todInMessage b) s = .next (after s s))) ∧
  (∀ s : State, s.clk = true → 2 ≤ s.bootStep → s.ofs = 0 → s.fnN % 8000 = 4000 →
    exec .todOutMessage s = .next (after s { s with sent := s.sent ++ [.todOut s.todOut] }))

/-- In boot step 2 or later with the clock running: PPS_OUT_RISE at offset 0 of a frame with FN mod 8,000 = 0 raises the pin and
notes the frame, unless SQ_UNSET = 1 and TIME_SET = 0, when the pin stays as it is. PPS_OUT_FALL lowers the pin once WIDTH
frames (R354: 0 is taken as 1) have elapsed since, and before that changes nothing. While SQ_UNSET = 1 and TIME_SET = 0 the pin
is low whatever is noted. WIDTH is 800 after reset. (R220) -/
def Obligations.PpsOutput : Prop :=
  (∀ s : State, s.clk = true → 2 ≤ s.bootStep → s.ofs = 0 → s.fnN % 8000 = 0 →
    (s.flag Reg.TIM_PPS_OUT F.TIM_PPS_OUT_SQ_UNSET = false ∨ s.flag Reg.FT_STAT F.FT_STAT_TIME_SET = true →
      exec .ppsOutRise s = .next (after s
        { s with tim := { s.tim with ppsHigh := some s.elapsed }, pins := { s.pins with ppsOut := true } })) ∧
    (s.flag Reg.TIM_PPS_OUT F.TIM_PPS_OUT_SQ_UNSET = true → s.flag Reg.FT_STAT F.FT_STAT_TIME_SET = false →
      s.ppsOutPin = false ∧ exec .ppsOutRise s = .next (after s s))) ∧
  (∀ (n : Nat) (s : State), s.tim.ppsHigh = some n →
    (n + max 1 (s.fld Reg.TIM_PPS_OUT F.TIM_PPS_OUT_WIDTH) ≤ s.elapsed → exec .ppsOutFall s = .next (after s
      { s with tim := { s.tim with ppsHigh := none }, pins := { s.pins with ppsOut := false } })) ∧
    (s.elapsed < n + max 1 (s.fld Reg.TIM_PPS_OUT F.TIM_PPS_OUT_WIDTH) → exec .ppsOutFall s = .next (after s s))) ∧
  State.reset.fld Reg.TIM_PPS_OUT F.TIM_PPS_OUT_WIDTH = 800

/-- A REQUEST that is due is sent with the next sequence number and becomes an outstanding one, until it has its reply or is 64
frames old. In sync, a good GRANT that answers one and ends later than now and than the lease held becomes the lease: E = sent +
duration, its epoch is held, and the unit goes ACTIVE at the next offset 0. A DENY ends its wait and, with 0x31 for the held
epoch, the lease. A RELEASE_ACK ends the RELEASE of its epoch. A bad frame is counted. REPLY_TIMEOUT drops the REQUESTs of 64
frames ago. LEASE_EXPIRY leads to HOLDING, HOLD_EXPIRY to DIVERGED with reason LEASE, RELEASE of an ACTIVE unit to a release at
the next offset 0. ARB_SYNC shows the port's sync. (R236, R237, R243, R226, R244) -/
def Obligations.LeaseProtocol : Prop :=
  (∀ s : State, s.requestDue = true → exec .request s = .next (after s
    (let b := grinusFrame 1 s.unitId s.mate.seq (s.reqPayload s.holder)
     (s.send (.grinus b)).updMate fun m =>
      { m with seq := (m.seq + 1) % 65536, lastReq := some s.elapsed, reqNow := false,
               arbFree := max m.arbFree s.now + ((b.length + 2) * 64 + 4) / 5,
               out := m.out.filter (fun o => decide (s.elapsed < o.sent + 64)) ++
                 [⟨s.mate.seq, s.fnN, s.elapsed, if s.holder then s.mate.held else 0⟩] }))) ∧
  (∀ (b : List Byte) (o : ReqOut) (s : State), s.mateUp = true → s.flag Reg.MATE_STAT F.MATE_STAT_ARB_SYNC = true → grinusOk b = true →
    Tab.wf regReset s.regs = true → s.reqFor (beAt b 6 2) = some o →
    (beAt b 1 1 = 2 → s.elapsed < o.sent + beAt (slice b 8 (beAt b 2 2)) 4 2 →
      (∀ n, s.mate.lease = some n → n < o.sent + beAt (slice b 8 (beAt b 2 2)) 4 2) →
      ∃ t : State, exec (.grant b) s = .next (after s t) ∧ t.mate.lease = some (o.sent + beAt (slice b 8 (beAt b 2 2)) 4 2) ∧
        t.mate.held = beAt (slice b 8 (beAt b 2 2)) 0 4 ∧ t.mate.toActive = (s.role != roleACTIVE) ∧
        t.mate.out = s.mate.out.filter (fun x => x.seq != beAt b 6 2) ∧
        t.fld Reg.MATE_ARB F.MATE_ARB_LAST_CODE = 0 ∧ t.role = s.role ∧
        t.rd Reg.MATE_EPOCH = max (s.rd Reg.MATE_EPOCH) (beAt (slice b 8 (beAt b 2 2)) 0 4)) ∧
    (beAt b 1 1 = 3 → ∃ t : State, exec (.deny b) s = .next (after s t) ∧
      t.mate.out = s.mate.out.filter (fun x => x.seq != beAt b 6 2) ∧
      t.flag Reg.MATE_EVT F.MATE_EVT_DENIED = true ∧ t.mate.lease = s.mate.lease ∧
      (t.mate.toHold = true ↔ s.mate.toHold = true ∨
        (beAt (slice b 8 (beAt b 2 2)) 0 1 = 0x31 ∧ o.epoch ≠ 0 ∧ o.epoch = s.mate.held)))) ∧
  (∀ (b : List Byte) (s : State), s.mateUp = true → s.flag Reg.MATE_STAT F.MATE_STAT_ARB_SYNC = true →
    (grinusOk b = true → beAt b 1 1 = 5 → s.mate.relEpoch = some (beAt (slice b 8 (beAt b 2 2)) 0 4) →
      exec (.releaseAck b) s = .next (after s (s.updMate fun m => { m with relEpoch := none }))) ∧
    (grinusOk b = true → beAt b 1 1 = 6 → beAt (slice b 8 (beAt b 2 2)) 6 2 < 40 → s.mate.chunkFn = beAt (slice b 8 (beAt b 2 2)) 0 6 →
      exec (.fallback b) s = .next (after s (s.updMate fun m =>
        { m with chunks := tabSet [] m.chunks (beAt (slice b 8 (beAt b 2 2)) 6 2) ((slice b 8 (beAt b 2 2)).drop 8) }))) ∧
    (grinusOk b = false → ∀ i ∈ [Instr.grant b, .deny b, .releaseAck b, .fallback b, .grinusFrameError],
      exec i s = .next (after s ((mateCount s 3 1).count 0xF1 0 1)))) ∧
  (∀ s : State, ∃ t : State, exec .replyTimeout s = .next (after s t) ∧ t = { s with mate := { s.mate with out := t.mate.out } } ∧
    ∀ o, o ∈ t.mate.out ↔ o ∈ s.mate.out ∧ s.elapsed < o.sent + 64) ∧
  (∀ (n : Nat) (s : State), s.mate.lease = some n →
    (s.role = roleACTIVE → n ≤ s.elapsed → exec .leaseExpiry s = .next (after s
      (((setRole s roleHOLDING 0).evt Reg.MATE_EVT F.MATE_EVT_LEASE_LOST).updMate fun m => { m with reqNow := true }))) ∧
    (s.role = roleHOLDING → n + s.fld Reg.MATE_CFG F.MATE_CFG_HOLD ≤ s.elapsed → exec .holdExpiry s = .next (after s
      ((setRole s roleDIVERGED 5).updMate fun m => { m with lease := none, held := 0, hitRun := 0 })))) ∧
  (∀ s : State, s.csrAnswers Reg.MATE_CMD = true → s.valid Reg.MATE_CMD_RES = false → s.inReturn = false →
    (s.role = roleACTIVE → exec .release s = .next (after s
      ((s.updMate fun m => { m with toDiv := true }).putRes Reg.MATE_CMD_RES cOK 0))) ∧
    (s.role ≠ roleACTIVE → exec .release s = .next (after s (s.putRes Reg.MATE_CMD_RES eINUSE 0)))) ∧
  (∀ (g : Bool) (s : State), s.mateUp = true →
    exec (.arbSync g) s = .next (after s (s.setFlag Reg.MATE_STAT F.MATE_STAT_ARB_SYNC g)))

/-- On a locked lane a marker at its place with at most 3 bit errors keeps the lock and is read unless a codeword was
uncorrectable; its reading shows the peer's health and role, and LIGHT whether its power exceeds the threshold (a free value,
log entry 133). A mirror block of a locked lane stores its piece; one with an uncorrectable codeword is lost. LINK_DOWN after 16
bad frames and LINK_UP after 64 good ones change LINK_UP and latch. MIRROR_LOSS after 16 frames without an applied mirror makes
a STANDBY DIVERGED with reason LINK. PEER_HEALTH_TIMEOUT forgets the peer, and an ACTIVE unit's ROLE_SYNC falls. LOOPBACK_TEST
starts a loop of the next group (the first is the model's choice, log entry 136) on a standby that tests, 8,000 frames after the
last one, and 800 frames later its end records the outcome; the loop of a unit that no longer tests ends with none (log entry
136). At a boundary a paired unit sends on each of its lanes that is lit a marker of 38 bytes, carrying its FN, and the idle
blocks 1 to 2,317; a lane is lit in RUN and TRIM while its source is driven and has not failed (log entry 134). (R226, R227,
R228, R229, R242) -/
def Obligations.NirrinLink : Prop :=
  (∀ (l : Nat) (r : MarkerRx) (s : State), l < 8 → s.mateUp = true → s.nlock l = true → Tab.wf regReset s.regs = true →
    r.pos = (s.nlane l).lockPos + nirrinPeriod → awDiff r.bytes nirrinAW 6 ≤ 3 →
    (r.uncor = true → exec (.nirrinMarker l r) s = .next (after s
      (((s.setFlag (Reg.MATE_LANE_STAT l) F.MATE_LANE_STAT_LIGHT (decide (Config.mateLight < r.power))).setFld (Reg.MATE_LANE_STAT l) F.MATE_LANE_STAT_RX_PWR
        (unsext r.power 12)).updNlane l fun n => { n with lockPos := r.pos, miss := 0 }))) ∧
    (r.uncor = false → ∃ t : State, exec (.nirrinMarker l r) s = .next (after s t) ∧ t.rd Reg.MATE_PEER_HEALTH = beAt r.bytes 14 4 ∧
      t.mate.peerAt = some s.elapsed ∧ t.mate.peerRole = beAt r.bytes 13 1 % 8 ∧
      t.rd Reg.MATE_EPOCH = max (s.rd Reg.MATE_EPOCH) (beAt r.bytes 18 4))) ∧
  (∀ (l : Nat) (b : List Byte) (s : State), l < 8 → s.mateUp = true → s.nlock l = true →
    (beAt b 0 1 = 2 → beAt b 3 1 % 8 = l → 2318 ≤ beAt b 1 2 → 8 * (beAt b 1 2 - 2318) + l < 421 →
      exec (.nirrinBlock l b false) s = .next (after s (s.updMate fun m =>
        { m with pieces := tabSet (256, []) m.pieces (8 * (beAt b 1 2 - 2318) + l) (beAt b 4 1, slice b 5 1280) }))) ∧
    exec (.nirrinBlock l b true) s = .next (after s s)) ∧
  (∀ s : State,
    (s.flag Reg.MATE_STAT F.MATE_STAT_LINK_UP = true → 16 ≤ s.mate.badRun → exec .linkDown s = .next (after s
      (((s.setFlag Reg.MATE_STAT F.MATE_STAT_LINK_UP false).evt Reg.MATE_EVT F.MATE_EVT_LINK_DOWN).updMate fun m => { m with goodRun := 0 }))) ∧
    (s.flag Reg.MATE_STAT F.MATE_STAT_LINK_UP = false → 64 ≤ s.mate.goodRun → exec .linkUp s = .next (after s
      (((s.setFlag Reg.MATE_STAT F.MATE_STAT_LINK_UP true).evt Reg.MATE_EVT F.MATE_EVT_LINK_UP).updMate fun m => { m with badRun := 0 }))) ∧
    (s.role = roleSTANDBY → s.mate.mirAt + 17 ≤ s.elapsed → Tab.wf regReset s.regs = true → ∃ t : State,
      exec .mirrorLoss s = .next (after s t) ∧ t.role = roleDIVERGED ∧ t.fld Reg.MATE_STAT F.MATE_STAT_REASON = 2 ∧
        t.flag Reg.MATE_EVT F.MATE_EVT_ROLE_CHG = true ∧ t = { s with regs := t.regs }) ∧
    (∀ n, s.mate.peerAt = some n → n + 16 < s.elapsed → exec .peerHealthTimeout s = .next (after s
      (let u := s.updMate fun m => { m with peerAt := none }
       if s.role = roleACTIVE then u.setFlag Reg.MATE_STAT F.MATE_STAT_ROLE_SYNC false else u)))) ∧
  (∀ (g : Nat) (e : Bool) (s : State), g < 64 →
    let stop := s.setFlag (Reg.PG_LANE_CTRL g 16) F.PG_LANE_CTRL_LOOP false
    (s.mateUp = true → s.role = roleSTANDBY → s.flag Reg.MATE_CTRL F.MATE_CTRL_SELFTEST = true → s.mate.loopOn = none →
      s.loopNext = some g → (∀ n, s.mate.loopAt = some n → n + 8000 ≤ s.elapsed) → exec (.loopbackTest g true e) s = .next (after s
        ((s.setFlag (Reg.PG_LANE_CTRL g 16) F.PG_LANE_CTRL_LOOP true).updMate fun m =>
          { m with loopOn := some g, loopAt := some s.elapsed, loopLast := g }))) ∧
    (s.loopNext = some g → s.fuses.group g = true ∧ s.domOn g = true ∧ s.spareMode g ≠ 2) ∧
    (s.mate.loopOn = some g → s.selfTests = false → exec (.loopbackTest g false e) s = .next (after s (stop.updMate fun m => { m with loopOn := none }))) ∧
    (s.mate.loopOn = some g → s.selfTests = true → (∀ n, s.mate.loopAt = some n → n + 800 ≤ s.elapsed) →
      exec (.loopbackTest g false false) s = .next (after s
        (stop.updMate fun m => { m with loopOn := none, loopBad := m.loopBad.filter (· != g) })))) ∧
  (∀ s : State, s.mateUp = true →
    sendMarkers s = { s with sent := s.sent ++ (s.mateLanes.map fun l => .marker l (s.markerBytes l)) ++
      (s.mateLanes.map fun l => .nirrinIdle l 1 2317 (s.fnN % 256)) }) ∧
  (∀ (s : State) (l : Nat), l ∈ s.mateLanes ↔ l < 8 ∧ s.running = true ∧ s.flag (Reg.PG_ELS_STAT (s.mateFibre l)) F.PG_ELS_STAT_DRIVEN = true ∧
    s.elsSt (s.mateFibre l) ≠ 3) ∧
  (∀ (s : State) (l : Nat), (s.markerBytes l).length = 38 ∧ beAt (s.markerBytes l) 6 6 = s.fnN)

/-- MIRROR_SNAPSHOT in a frame up to offset 190,000 moves time there, beyond it changes nothing. An ACTIVE unit sends on its lit
lanes the full mirror of that instant, piece i of 421 in lane i mod 8, block 2,318 + i / 8, with the header of its block, idle
blocks everywhere else from 2,318 to 2,439, and in frames with FN mod 16 = 0 in RUN or TRIM queues the fallback mirror in 40
FALLBACK frames of 2,048 bytes and SEQ 0 (log entry 72) for its ARB port, which they leave in order (arbDrain); any other paired
unit sends idle blocks. MIRROR_APPLY at offset 0 on a STANDBY: without a mirror it counts a miss (unless its 16 frames without
one are over, log entry 108); a mirror for another image, or of an older epoch, is discarded with a miss and the unit diverges
with reason IMAGE (3) or EPOCH (4); one that passes is applied (mirrorUse), and the engines' state memory takes its duty words.
FALLBACK_APPLY on a DIVERGED unit in a frame with FN mod 16 = 0: without a whole fallback mirror of 16 frames before it counts
FBMISS; one that fails R233 counts too and its reason shows; one that passes is applied: each group takes its operator's command
and keeps its own selection, the step and the graft entries are taken, and no selector changes. (R230, R231, R233, R234, R235)
-/
def Obligations.Mirrors : Prop :=
  (∀ s : State, (s.clk = false ∨ 190000 < s.ofs → exec .mirrorSnapshot s = .next (after s s)) ∧
    (s.clk = true → s.ofs < 190000 → (s.toOfs 190000).ofs = 190000 ∧
      exec .mirrorSnapshot s = .next (after s (mirrorSnapshot (s.toOfs 190000))))) ∧
  (∀ (m : Image) (s : State), s.clk = true → s.ofs = 190000 → s.img = some m →
    (s.mateUp = false → exec .mirrorSnapshot s = .next (after s s)) ∧
    (s.mateUp = true → s.role ≠ roleACTIVE → exec .mirrorSnapshot s = .next (after s
      { s with sent := s.sent ++ s.mateLanes.map fun l => .nirrinIdle l 2318 2439 (s.fnN % 256) })) ∧
    (s.mateUp = true → s.role = roleACTIVE → exec .mirrorSnapshot s = .next (after s
      { s with
        sent := s.sent ++
          (((List.range 421).filter fun i => s.mateLanes.contains (i % 8)).map fun i => .nirrin (i % 8) (2318 + i / 8)
            ([2] ++ beBytes (2318 + i / 8) 2 ++ [byte (i % 8), byte s.fnN] ++ slice (s.fullMirror m) (1280 * i) 1280)) ++
          (s.mateLanes.map fun l => .nirrinIdle l (if l < 5 then 2371 else 2370) 2439 (s.fnN % 256)),
        mate := if s.fnN % 16 = 0 ∧ s.running = true then
            { s.mate with arbFree := max s.mate.arbFree s.now,
                          fbTx := (List.range 40).map fun k => grinusFrame 6 s.unitId 0
                            (beBytes s.fnN 6 ++ beBytes k 2 ++ ((s.fallbackMirror m).drop (2048 * k)).take 2048) }
          else s.mate }))) ∧
  (∀ (n : Nat) (s : State), ∃ k, (arbDrain n s.mate.fbTx s).sent = s.sent ++ (s.mate.fbTx.take k).map .grinus ∧
    (arbDrain n s.mate.fbTx s).mate.fbTx = s.mate.fbTx.drop k) ∧
  (∀ (m : Image) (s : State), s.mateUp = true → s.ofs = 0 → s.role = roleSTANDBY → s.img = some m →
    (s.mate.mirror = none → s.elapsed < s.mate.mirAt + 17 → exec .mirrorApply s = .next (after s ((mirrorMiss s).updMate fun x => { x with hitRun := 0 }))) ∧
    (∀ b, s.mate.mirror = some b →
      let u := s.updMate fun x => { x with mirror := none, rank := beAt b 68 1 % 16 }
      let dig := slice b 14 32
      (s.mirrorCheck b = 4 → exec .mirrorApply s = .next (after s
        (setRole (mirrorMiss (u.updMate fun x => { x with imgBad := false, peerDig := dig })) roleDIVERGED 4))) ∧
      (s.mirrorCheck b = 3 → exec .mirrorApply s = .next (after s
        (setRole (mirrorMiss ((if dig = s.mate.peerDig then u else u.evt Reg.GRAFT_EVT F.GRAFT_EVT_MATE_MISS).updMate fun x =>
          { x with imgBad := true, peerDig := dig })) roleDIVERGED 3))) ∧
      (s.mirrorCheck b = 0 → exec .mirrorApply s = .next (after s
        (setDuties (mirrorUse ((u.updMate fun x => { x with imgBad := false, peerDig := dig }).wr Reg.MATE_EPOCH
          (max (s.rd Reg.MATE_EPOCH) (beAt b 10 4))) m b true) (mirrorDuties m b)))))) ∧
  (∀ (m : Image) (s : State), s.mateUp = true → s.ofs = 0 → s.role = roleDIVERGED → s.fnN % 16 = 0 → s.img = some m →
    let f := (s.fnN + 281474976710656 - 16) % 281474976710656
    let cs := (List.range 40).map fun k => tabGet [] s.mate.chunks k
    let b := cs.flatten
    let u := s.updMate fun x => { x with chunks := [] }
    (fallbackWhole cs s.mate.chunkFn f = false → exec .fallbackApply s = .next (after s (mateCount u 1 1))) ∧
    (fallbackWhole cs s.mate.chunkFn f = true → s.mirrorCheck b ≠ 0 → exec .fallbackApply s = .next (after s
      (mateCount ((u.updMate fun x => { x with imgBad := s.mirrorCheck b == 3, peerDig := slice b 14 32 }).setFld Reg.MATE_STAT
        F.MATE_STAT_REASON (s.mirrorCheck b)) 1 1))) ∧
    (fallbackWhole cs s.mate.chunkFn f = true → s.mirrorCheck b = 0 →
      ∃ t : State, exec .fallbackApply s = .next (after s t) ∧ t.mate.fbAt = some s.elapsed ∧ t.mate.seen = some (mirrorEntries b f) ∧
        t.stepAt = BitVec.ofNat 48 (beAt b 70 6) ∧ t.selW = s.selW ∧ t.selF = s.selF ∧ t.lselF = s.lselF ∧ t.img = some m ∧
        ∀ d ∈ m.prots, (t.grp d.idx).sel = (s.grp d.idx).sel ∧
          let c := bits (beAt b (14528 + d.idx) 1) 2 3
          (t.grp d.idx).lo = (c == 1) ∧ (t.grp d.idx).fs = (c == 2) ∧ (t.grp d.idx).ms = (if c = 3 then 1 else if c = 4 then 2 else 0)))

/-- Fibre f < 68 feeds lane (k + i) mod 17 of group 16q + i (fibreLane); read the other way, lane l of group g is fed by fibre
17 (g / 16) + ((l - g mod 16) mod 17) (laneFibre). Each of the 1,088 lanes has exactly one feeding fibre. Fibre 17q feeds no
spare lane; fibre 17q + k, for k = 1 to 16, feeds the spare lane of group 16q + 16 - k. (R52) -/
def Obligations.LaserFibres : Prop :=
  (∀ f i, f < 68 → i < 16 → fibreLane f i = (16 * (f / 17) + i, (f % 17 + i) % 17)) ∧
  (∀ g l, g < 64 → l < 17 → ((laneFibre g l : Nat) : Int) = 17 * ((g / 16 : Nat) : Int) + (((l : Int) - ((g % 16 : Nat) : Int)) % 17)) ∧
  (∀ g l, g < 64 → l < 17 → laneFibre g l < 68 ∧ fibreLane (laneFibre g l) (g % 16) = (g, l) ∧
    ∀ f i, f < 68 → i < 16 → fibreLane f i = (g, l) → f = laneFibre g l) ∧
  (∀ q i, q < 4 → i < 16 → (fibreLane (17 * q) i).2 ≠ 16) ∧
  (∀ q k, q < 4 → 1 ≤ k → k ≤ 16 → fibreLane (17 * q + k) (16 - k) = (16 * q + 16 - k, 16))

/-- In a powered group, LANE_LIGHT_LOSS of a lit lane with an assigned use that is not looped back clears LIGHT, latches
LIGHT_LOSS and is a need for the fail reason (3); of a lane without assigned use it only clears LIGHT (R51); LANE_LIGHT_RETURN
sets LIGHT, but for a looped lane; LANE_DEGRADED after 100 frames over the threshold or 3 with an uncorrectable codeword marks
the lane degraded and is a need for the degrade reason (2). A need makes a request only with its AUTO bit set, sparing in force,
a working lane of a port, and outside the pause; with the receive spare free it goes to REQUESTED for that lane and reason.
(R51, R61, R66, R70, R72) -/
def Obligations.LaneEvents : Prop :=
  (∀ (g l : Nat) (s : State), g < 64 → l < 17 → s.domOn g = true →
    (s.flag (Reg.PG_LANE_STAT g l) F.PG_LANE_STAT_LIGHT = true → s.looped g l = false →
      (s.rxUsed g l = true → exec (.laneLightLoss g l) s = .next (after s
        (autoNeed ((s.setFlag (Reg.PG_LANE_STAT g l) F.PG_LANE_STAT_LIGHT false).evt (Reg.PG_LANE_EVT g l) F.PG_LANE_EVT_LIGHT_LOSS) g l 3))) ∧
      (s.rxUsed g l = false → exec (.laneLightLoss g l) s = .next (after s (s.setFlag (Reg.PG_LANE_STAT g l) F.PG_LANE_STAT_LIGHT false)))) ∧
    (exec (.laneLightReturn g l) s = .next (after s (if s.looped g l then s else s.setFlag (Reg.PG_LANE_STAT g l) F.PG_LANE_STAT_LIGHT true))) ∧
    ((s.lane g l).degraded = false → (100 ≤ (s.lane g l).corRun ∨ 3 ≤ (s.lane g l).uncRun) →
      exec (.laneDegraded g l) s = .next (after s (autoNeed (s.updLane g l fun n => { n with degraded := true }) g l 2)))) ∧
  (∀ (g l : Nat) (s : State),
    (s.flag (Reg.PG_SPARE_CTRL g) F.PG_SPARE_CTRL_AUTO_FAIL = false ∨ s.sparing g = false ∨ s.spareable g l = false ∨
      (s.spare g).pauseTo ≠ 0 → autoNeed s g l 3 = s) ∧
    (s.flag (Reg.PG_SPARE_CTRL g) F.PG_SPARE_CTRL_AUTO_DEG = false ∨ s.sparing g = false ∨ s.spareable g l = false ∨
      (s.spare g).pauseTo ≠ 0 → autoNeed s g l 2 = s) ∧
    (∀ r, r = 2 ∨ r = 3 → s.flag (Reg.PG_SPARE_CTRL g) F.PG_SPARE_CTRL_AUTO_FAIL = true →
      s.flag (Reg.PG_SPARE_CTRL g) F.PG_SPARE_CTRL_AUTO_DEG = true → s.sparing g = true → s.spareable g l = true →
      (s.spare g).pauseTo = 0 → s.rxSt g = 0 →
      autoNeed s g l r = (setRx s g 1 l).updSpare g fun x => { x with reason := r, deny := none }))

/-- In a powered group, on a lane with an assigned use (which lanes: log entry 131) that is not looped back (any other is
ignored, R51, R72): a locked lane's tag at its place with at most 3 bit errors in its alignment word keeps the lock; with more
it is missed, and the fifth miss in a row drops the lock (loseLock): TAG_LOCK clears, and AM_LOCK with it (log entry 107),
TAG_LOSS is latched, the lane's place is forgotten. A tag that keeps the lock is read by its CRC (log entry 114): with a good
one its fields are taken (tagFields), with a bad one TAG_CRC is latched and counted and the messages' acceptance starts again. A
word elsewhere changes nothing. A lane without lock opens a candidate with at most 2 bit errors, and one that recurs a third
time at its place sets TAG_LOCK and is read. At offset 0 the status registers follow (lateStat, R33). (R60, R61, R63, R68, R70)
-/
def Obligations.LaneTags : Prop :=
  (∀ (g l : Nat) (t : TagRx) (s : State), g < 64 → l < 17 → s.domOn g = true → s.rxUsed g l = false ∨ s.looped g l = true →
    exec (.laneTagReceive g l t) s = .next (after s (lateStat allStat s))) ∧
  (∀ (g l : Nat) (t : TagRx) (s : State), g < 64 → l < 17 → s.domOn g = true → s.rxUsed g l = true → s.looped g l = false →
    s.locked g l = true →
    (t.pos ≠ (s.lane g l).lockPos + tagPeriod → exec (.laneTagReceive g l t) s = .next (after s (lateStat allStat s))) ∧
    (t.pos = (s.lane g l).lockPos + tagPeriod →
      (∀ n, (awDiff t.bytes tagAW 6 ≤ 3 ∧ n = 0) ∨ (3 < awDiff t.bytes tagAW 6 ∧ (s.lane g l).miss < 4 ∧ n = (s.lane g l).miss + 1) →
        (crc16 (slice t.bytes 6 24) = beAt t.bytes 30 2 → exec (.laneTagReceive g l t) s = .next (after s (lateStat allStat
          (tagFields (s.updLane g l fun y => { y with lockPos := t.pos, miss := n }) g l t)))) ∧
        (crc16 (slice t.bytes 6 24) ≠ beAt t.bytes 30 2 → exec (.laneTagReceive g l t) s = .next (after s (lateStat allStat
          ((((s.updLane g l fun y => { y with lockPos := t.pos, miss := n }).evt (Reg.PG_LANE_EVT g l) F.PG_LANE_EVT_TAG_CRC).count 0x82
            (17 * g + l) 1).updLane g l fun y => { y with rxm := { y.rxm with run := 0 }, txm := { y.txm with run := 0 } }))))) ∧
      (3 < awDiff t.bytes tagAW 6 → 4 ≤ (s.lane g l).miss → exec (.laneTagReceive g l t) s = .next (after s (lateStat allStat
        (groupEval (loseLock s g l) g)))))) ∧
  (∀ (g l : Nat) (s : State), g < 64 → l < 17 → Tab.wf regReset s.regs = true → Tab.wf (fun _ => ({} : Lane)) s.lanes = true →
    (loseLock s g l).locked g l = false ∧ (loseLock s g l).flag (Reg.PG_LANE_STAT g l) F.PG_LANE_STAT_AM_LOCK = false ∧
      (loseLock s g l).flag (Reg.PG_LANE_EVT g l) F.PG_LANE_EVT_TAG_LOSS = true ∧ ((loseLock s g l).lane g l).placed = false) ∧
  (∀ (g l : Nat) (t : TagRx) (s : State), g < 64 → l < 17 → s.domOn g = true → s.rxUsed g l = true → s.looped g l = false →
    s.locked g l = false → (s.lane g l).cands = [] →
    (awDiff t.bytes tagAW 6 ≤ 2 → exec (.laneTagReceive g l t) s = .next (after s (lateStat allStat
      ((s.updLane g l fun n => { n with cands := [⟨t.pos, 0⟩], lockPos := t.pos, miss := 0 }).setFld (Reg.PG_LANE_STAT g l)
        F.PG_LANE_STAT_CAND 1)))) ∧
    (2 < awDiff t.bytes tagAW 6 → exec (.laneTagReceive g l t) s = .next (after s (lateStat allStat
      ((s.updLane g l fun n => { n with cands := [], lockPos := t.pos, miss := 0 }).setFld (Reg.PG_LANE_STAT g l)
        F.PG_LANE_STAT_CAND 0))))) ∧
  (∀ (g l c : Nat) (t : TagRx) (s : State), g < 64 → l < 17 → s.domOn g = true → s.rxUsed g l = true → s.looped g l = false →
    s.locked g l = false → (s.lane g l).cands = [⟨c, 2⟩] → t.pos = c + tagPeriod → awDiff t.bytes tagAW 6 ≤ 3 →
    crc16 (slice t.bytes 6 24) = beAt t.bytes 30 2 →
    exec (.laneTagReceive g l t) s = .next (after s (lateStat allStat (tagFields (((s.updLane g l fun n =>
      { n with cands := [], lockPos := t.pos, miss := 0 }).setFld (Reg.PG_LANE_STAT g l) F.PG_LANE_STAT_CAND 0).setFlag
        (Reg.PG_LANE_STAT g l) F.PG_LANE_STAT_TAG_LOCK true) g l t))))

/-- With the group's window in reach: REQUEST and TX_BRIDGE with sparing off, or for a lane of no port, answer outcome 2.
REQUEST goes to REQUESTED (reason manual) when the receive spare is free; a failed lane waits to pre-empt a selection made for
another reason, unless another lane waits for that already; else outcome 1. TX_BRIDGE with the transmit spare idle and the far
RX_MSG NONE is kept for the next frame; else outcome 1. RELEASE of the SELECTED lane reverts, of another answers 2. TX_UNBRIDGE
of the bridged lane sends UNBRIDGE_REQ, of another answers 2. (Model's choice, log entry 115: outcome 1 of TX_BRIDGE with a far
message, outcome 2 of the last two.) (R66, R69, R70, R71, R72) -/
def Obligations.SparingCommands : Prop :=
  ∀ (g l : Nat) (s : State), g < 64 → l < 16 → s.csrAnswers (Reg.PG_SPARE_CMD g) = true →
    (s.sparing g = false ∨ s.spareable g l = false →
      ∀ i ∈ [Instr.spareRequest g l, .txBridge g l], exec i s = .next (after s (spareRes s g 2 l))) ∧
    (s.sparing g = true → s.spareable g l = true →
      (s.rxSt g = 0 → exec (.spareRequest g l) s = .next (after s
        ((setRx s g 1 l).updSpare g fun x => { x with reason := 1, deny := none }))) ∧
      (s.rxSt g = 3 → s.rxLane g ≠ l → s.laneFailed g l = true → (s.spare g).reason ≠ 3 → (∀ w, (s.spare g).wantLane = some w → w = l) →
        exec (.spareRequest g l) s = .next (after s (s.updSpare g fun x => { x with wantLane := some l }))) ∧
      (s.rxSt g ≠ 0 → (s.rxSt g ≠ 3 ∨ s.rxLane g = l ∨ s.laneFailed g l = false ∨ (s.spare g).reason = 3 ∨ ∃ w, (s.spare g).wantLane = some w ∧ w ≠ l) →
        exec (.spareRequest g l) s = .next (after s (spareRes s g 1 l))) ∧
      (s.txSt g = 0 → msgCode (s.farRx g) = 0 → (s.spare g).txWant = none →
        exec (.txBridge g l) s = .next (after s (s.updSpare g fun y => { y with txWant := some l }))) ∧
      (s.txSt g ≠ 0 ∨ msgCode (s.farRx g) ≠ 0 ∨ (s.spare g).txWant.isSome = true →
        exec (.txBridge g l) s = .next (after s (spareRes s g 1 l)))) ∧
    (s.rxSt g = 3 ∧ s.rxLane g = l → exec (.spareRelease g l) s = .next (after s (setRx s g 4 l))) ∧
    (s.rxSt g ≠ 3 ∨ s.rxLane g ≠ l → exec (.spareRelease g l) s = .next (after s (spareRes s g 2 l))) ∧
    (s.txSt g ≠ 0 ∧ s.txSt g ≠ 4 ∧ s.txLane g = l → exec (.txUnbridge g l) s = .next (after s (setTx s g 4 l))) ∧
    (s.txSt g = 0 ∨ s.txSt g = 4 ∨ s.txLane g ≠ l → exec (.txUnbridge g l) s = .next (after s (spareRes s g 2 l)))

/-- SPARE_ACTION at offset 0 takes the transmitting end (spareTxAction), its denial of a far REQUEST (txDenial), the receiving
end (spareRxAction), denials and automatic needs (log entry 41), and judges the ports. An idle transmit spare bridges the lane
of a far REQUEST or SELECTED, refusing a TX_BRIDGE that waits with outcome 1 (log entry 115); far NONE ends a bridge on request.
At the receiving end BRIDGED of the requested lane leads to VERIFYING, DENY to NONE with outcome 4; a group that no longer
spares ends with outcome 2 (log entry 64). SPARE_TIMEOUT ends REQUESTED with outcome 3. SPARE_VERIFY_END after the period:
VERIFYING goes to SELECTED on a pass, else to NONE with outcome 5 and a pause of 8,000 frames; REVERTING goes to NONE with
outcome 0 on a pass, else back to SELECTED with outcome 5; a pass needs equal contents (not asked in VERIFYING while the lane
served has failed), the lane in place (verifyOk), no frame that failed, and sparing; the lane that takes over counts as aligned
(amTake, log entry 107). AUTO_REQUEST_PAUSE_END ends the pause; with the receive spare free a failed lane is then a need again.
At offset 0 the status registers follow (lateStat). (R66, R68, R69, R70, R71, R34) -/
def Obligations.SparingStates : Prop :=
  (∀ (g : Nat) (s : State), g < 64 → s.domOn g = true → s.ofs = 0 →
    exec (.spareAction g) s = .next (after s (allStat (groupEval (autoNeeds (spareDeny (spareRxAction (txDenial (spareTxAction s g) g) g) g) g) g)))) ∧
  (∀ (g l k : Nat) (s : State), s.sparing g = true → s.spareable g l = true → s.txSt g = 0 → msgLane (s.farRx g) = l →
    (msgCode (s.farRx g) = 1 ∧ k = 1) ∨ (msgCode (s.farRx g) = 2 ∧ k = 3) →
    ((s.spare g).txWant = none → spareTxAction s g = (setTx s g k l).updSpare g fun y => { y with txSelf := false }) ∧
    (∀ w, (s.spare g).txWant = some w → spareTxAction s g =
      (setTx ((spareRes s g 1 w).updSpare g fun y => { y with txWant := none }) g k l).updSpare g fun y => { y with txSelf := false })) ∧
  (∀ (g : Nat) (s : State), s.sparing g = true → s.txSt g = 1 → msgCode (s.farRx g) = 0 → (s.spare g).txSelf = false →
    spareTxAction s g = (setTx s g 0 0).updSpare g fun y => { y with txSelf := false }) ∧
  (∀ (g : Nat) (s : State),
    (s.rxSt g = 1 → s.sparing g = true →
      (msgCode (s.farTx g) = 1 → msgLane (s.farTx g) = s.rxLane g → spareRxAction s g = setRx s g 2 (s.rxLane g)) ∧
      (msgCode (s.farTx g) = 3 → spareRxAction s g = spareRes (setRx s g 0 0) g 4 (s.rxLane g))) ∧
    (s.rxSt g ≠ 0 → s.sparing g = false → spareRxAction s g = spareRes (setRx s g 0 0) g 2 (s.rxLane g))) ∧
  (∀ (g : Nat) (s : State), g < 64 → s.domOn g = true →
    (s.rxSt g = 1 → (s.spare g).since + max 16 (s.fld (Reg.PG_SPARE_TMR g) F.PG_SPARE_TMR_TIMEOUT) ≤ s.elapsed →
      exec (.spareTimeout g) s = .next (after s (spareRes (setRx s g 0 0) g 3 (s.rxLane g)))) ∧
    ((s.spare g).since + max 8 (s.fld (Reg.PG_SPARE_TMR g) F.PG_SPARE_TMR_VERIFY) ≤ s.elapsed →
      (s.rxSt g = 2 →
        (s.verifyOk g = true → (s.spare g).bad = false → s.sparing g = true → (∀ p, p = true ∨ s.laneFailed g (s.rxLane g) = true → exec (.spareVerifyEnd g p) s =
          .next (after s (lateStat allStat (groupEval (amTake (setRx s g 3 (s.rxLane g)) g 16) g))))) ∧
        (∀ p, (p = false ∧ s.laneFailed g (s.rxLane g) = false) ∨ s.verifyOk g = false ∨ (s.spare g).bad = true ∨ s.sparing g = false → exec (.spareVerifyEnd g p) s =
          .next (after s (lateStat allStat ((spareRes (setRx s g 0 0) g 5 (s.rxLane g)).updSpare g fun y =>
            { y with pauseTo := s.elapsed + 8000 }))))) ∧
      (s.rxSt g = 4 →
        (s.verifyOk g = true → (s.spare g).bad = false → s.sparing g = true → exec (.spareVerifyEnd g true) s = .next (after s
          (lateStat allStat (groupEval (amTake (spareRes (setRx s g 0 0) g 0 (s.rxLane g)) g (s.rxLane g)) g)))) ∧
        (∀ p, p = false ∨ s.verifyOk g = false ∨ (s.spare g).bad = true ∨ s.sparing g = false → exec (.spareVerifyEnd g p) s =
          .next (after s (lateStat allStat (spareRes (setRx s g 3 (s.rxLane g)) g 5 (s.rxLane g)))))))) ∧
  (∀ (g : Nat) (s : State), g < 64 → (s.spare g).pauseTo ≠ 0 → (s.spare g).pauseTo ≤ s.elapsed →
    (s.rxSt g ≠ 0 → exec (.autoRequestPauseEnd g) s = .next (after s (s.updSpare g fun x => { x with pauseTo := 0 }))) ∧
    (∀ l, s.rxSt g = 0 → s.flag (Reg.PG_SPARE_CTRL g) F.PG_SPARE_CTRL_AUTO_FAIL = true →
      (List.range 16).find? (fun l => s.spareable g l && s.laneFailed g l) = some l →
      exec (.autoRequestPauseEnd g) s = .next (after s (autoNeed (s.updSpare g fun x => { x with pauseTo := 0 }) g l 3))))

/-- ELS_STATE_CHANGE of a driven fibre: OFF and LOW_WARN go to OK after 80 frames above the rising limit, OK to LOW_WARN after
80 frames below WARN, LOW_FAIL to LOW_WARN after 800 above its limit; an undriven fibre does not move. MATE_LASER_MOVE at offset
0 changes nothing while the lane's fibre is OK and its modulator passes the bias check, or while none serves; else the lane
takes the first modulator that does, two to a fibre from 68 to 71 (that first means in this order, and that a lane stays: log
entry 137). LANE_SUPERFRAME_SEND: every lit lane of the port, and the spare that bridges one, sends its tag (place, SF_CNT, the
group's two messages) in one instant, SF_CNT advances, and the overhead of each lane that is lit, or that a lit spare bridges,
follows; a lit idle spare sends its tag and PRBS31; any other lane sends nothing. (R53, R54, R55, R56, R59, R60, R69) -/
def Obligations.LasersAndLaneTagsSent : Prop :=
  (∀ (f : Nat) (s : State), f < 72 →
    (s.flag (Reg.PG_ELS_STAT f) F.PG_ELS_STAT_DRIVEN = false → exec (.elsStateChange f) s = .next (after s s)) ∧
    (s.flag (Reg.PG_ELS_STAT f) F.PG_ELS_STAT_DRIVEN = true → Tab.wf regReset s.regs = true →
      ((s.elsSt f = 0 ∨ s.elsSt f = 2) → 80 ≤ (s.elsRuns f).1 →
        exec (.elsStateChange f) s = .next (after s ((s.setFld (Reg.PG_ELS_STAT f) F.PG_ELS_STAT_STATE 1).setElsRuns f (0, 0)))) ∧
      (s.elsSt f = 1 → 80 ≤ (s.elsRuns f).2 → ∃ t : State, exec (.elsStateChange f) s = .next (after s t) ∧ t.elsSt f = 2 ∧
        t.elsRun = tabSet (0, 0) s.elsRun f (0, 0) ∧ t = setEls s f 2) ∧
      (s.elsSt f = 3 → 800 ≤ (s.elsRuns f).1 → ∃ t : State, exec (.elsStateChange f) s = .next (after s t) ∧ t.elsSt f = 2 ∧
        t.elsRun = tabSet (0, 0) s.elsRun f (0, 0) ∧ t = setEls s f 2))) ∧
  (∀ (m : Nat) (ok : List Nat) (s : State), m < 8 → (∀ x ∈ ok, x < 8) → s.ofs = 0 →
    (s.elsSt (s.mateFibre m) = 1 → 2 * (s.mateFibre m - 68) + tabGet 0 s.mateMods m ∈ ok → tabGet 0 s.mateMods m < 2 →
      exec (.mateLaserMove m ok) s = .next (after s s)) ∧
    ((s.elsSt (s.mateFibre m) ≠ 1 ∨ 2 * (s.mateFibre m - 68) + tabGet 0 s.mateMods m ∉ ok) → tabGet 0 s.mateMods m < 2 →
      Tab.wf regReset s.regs = true →
      (∀ i, i < 8 → s.elsSt (68 + i / 2) = 1 → i ∈ ok → (∀ x, x < i → s.elsSt (68 + x / 2) ≠ 1 ∨ x ∉ ok) →
        ∃ t : State, exec (.mateLaserMove m ok) s = .next (after s t) ∧ t.mateFibre m = 68 + i / 2 ∧
          (∀ k, k ≠ m → t.mateFibre k = s.mateFibre k) ∧
          t = { s.wr Reg.PG_ELS_MATE (t.rd Reg.PG_ELS_MATE) with mateMods := tabSet 0 s.mateMods m (i % 2) }) ∧
      ((∀ x, x < 8 → s.elsSt (68 + x / 2) ≠ 1 ∨ x ∉ ok) → exec (.mateLaserMove m ok) s = .next (after s s)))) ∧
  (∀ (g l : Nat) (s : State), g < 64 → l < 17 →
    (s.sendPort g l = none →
      (l ≠ 16 ∨ s.spareMode g = 0 ∨ s.txSt g ≠ 0 ∨ s.lit g 16 = false → exec (.laneSuperframeSend g l) s = .next (after s s)) ∧
      (l = 16 → s.spareMode g ≠ 0 → s.txSt g = 0 → s.lit g 16 = true → s.looped g 16 = false → exec (.laneSuperframeSend g l) s =
        .next (after s (({ s with txSf := tabSet 0 s.txSf (17 * g + 16) ((tabGet 0 s.txSf (17 * g + 16) + 1) % 65536) } : State).send
          (.laneTag g 16 (tagBytes 15 0 16 (tabGet 0 s.txSf (17 * g + 16)) (s.rxMsg g) (s.txMsg g)) (.prbs31 (2 ^ 31 - 1))))))) ∧
    (∀ x, s.sendPort g l = some x → (∀ n ∈ s.portLanes x, s.looped x.g n = false) → exec (.laneSuperframeSend g l) s = .next (after s
      (((List.range x.width).filter fun k => (s.portLanes x).any fun n =>
          s.lit g n && ((if n = 16 then s.txLane g else n) == x.first + k)).foldl
        (fun t k => sendOverhead t x (Config.txSection s.freeCount) k) (portSend s x).drawn)))) ∧
  (∀ (x : PortDef) (s : State), (∀ l ∈ s.portLanes x, s.looped x.g l = false) → portSend s x =
    { s with txSf := tabSet 0 s.txSf (17 * x.g + x.first) ((tabGet 0 s.txSf (17 * x.g + x.first) + 1) % 65536),
             sent := s.sent ++ ((s.portLanes x).filter (s.lit x.g)).map fun l =>
               let k := (if l = 16 then s.txLane x.g else l) - x.first
               .laneTag x.g l (tagBytes (widthCode x.width) k l (tabGet 0 s.txSf (17 * x.g + x.first)) (s.rxMsg x.g) (s.txMsg x.g))
                 (.symbols (x.slice0 + 2 * k) (x.slice0 + 2 * k + 1)) })

/-- In a powered group OTUC_FRAME_RECEIVE and ODU_FRAME_RECEIVE complete; at offset 0 the status registers follow (lateStat,
R33). A frame on a looped lane (R72), of a slice of no port, on a lane without TAG_LOCK (R61), or of an undefined ODU changes
nothing else. A frame of a slice counts the FEC results of its lane (fecCount, R65); without a marker in it, it is read
(otucSlice) only when its lane is the one that serves the slice's port lane. A frame at its place of a slice in frame with at
most 3 errored bits in its FAS (the model's choice, log entry 138) counts one block of the slice, errored when its BIP shows
violations. A frame of a defined ODU counts one block, errored when its BIP shows violations, with a far-end errored block when
BEI is 1 to 8. The filter of BDI: the defect is set by the fifth 1 in a row and cleared by the fifth 0 in a row, and stays in
between. (R33, R61, R62, R65, R74, R76, R77, R90) -/
def Obligations.ReceivedFrames : Prop :=
  (∀ (v : Nat) (r : OtucRx) (s : State), v < 2048 → r.lane < 17 → s.domOn (v / 32) = true →
    exec (.otucFrameReceive v r) s = .next (after s (lateStat allStat (otucFrame s v r)))) ∧
  (∀ (v : Nat) (r : OtucRx) (s : State), s.looped (v / 32) r.lane = true → otucFrame s v r = s) ∧
  (∀ (v : Nat) (r : OtucRx) (s : State), s.looped (v / 32) r.lane = false →
    (s.img.bind (·.portOfSlice v) = none → otucFrame s v r = s) ∧
    (∀ x, s.img.bind (·.portOfSlice v) = some x →
      (s.locked x.g r.lane = false → otucFrame s v r = s) ∧
      (s.locked x.g r.lane = true → r.am = none →
        let u := fecCount s x.g r.lane r.cor r.unc
        (u.portSource x ((v - x.slice0) / 2) = some r.lane → otucFrame s v r = otucSlice u x v r) ∧
        (u.portSource x ((v - x.slice0) / 2) ≠ some r.lane → otucFrame s v r = u)))) ∧
  (∀ (x : PortDef) (v : Nat) (r : OtucRx) (s : State), v < 2048 → x.g < 64 → x.p < 8 → (s.slc v).fas.on = true →
    r.pos = (s.slc v).fasPos + oduBytes → r.fas ≤ 3 →
    ∃ t : State, otucSlice s x v r = t ∧ (t.slc v).fas.on = true ∧ (t.pmx (entOtuc v)).blk = (s.pmx (entOtuc v)).blk + 1 ∧
      (t.pmx (entOtuc v)).err = (s.pmx (entOtuc v)).err + (if r.smBip = 0 then 0 else 1)) ∧
  (∀ (i : Nat) (r : OduRx) (s : State), i < 40960 → s.domOn (i / 640) = true →
    exec (.oduFrameReceive i r) s = .next (after s (lateStat allStat (oduFrame s i r)))) ∧
  (∀ (i : Nat) (r : OduRx) (s : State),
    (s.img.bind (·.odu? i) = none → oduFrame s i r = s) ∧
    (i < 40960 → (s.img.bind (·.odu? i)).isSome = true → (∀ x ∈ r.tcm, x.m < 3) → ∃ t : State, oduFrame s i r = t ∧
      (t.pmx (entOdu i)).blk = (s.pmx (entOdu i)).blk + 1 ∧
      (t.pmx (entOdu i)).err = (s.pmx (entOdu i)).err + (if r.bip = 0 then 0 else 1) ∧
      (t.pmx (entOdu i)).ferr = (s.pmx (entOdu i)).ferr + (if 1 ≤ r.bei ∧ r.bei ≤ 8 then 1 else 0))) ∧
  (∀ (e b : Nat) (x : Bool) (s : State),
    ((if x then (s.ohx e).bdi.ones else (s.ohx e).bdi.zeros) = 4 → bdiAccept s e b x =
      (s.updOh e fun o => { o with bdi := o.bdi.feed 5 5 x }).setDef e b x) ∧
    ((if x then (s.ohx e).bdi.ones else (s.ohx e).bdi.zeros) < 4 → bdiAccept s e b x =
      (s.updOh e fun o => { o with bdi := o.bdi.feed 5 5 x }).setDef e b (s.ohx e).bdi.on))

/-- ODU_AIS_INSERT while such a defect is active and none is inserted starts the replacement, and ODU_AIS_REMOVE without one
ends it: toward the trunk goes ODU-LCK while the ODU is locked (R79), else ODU-AIS while replaced, else the ODU; PG_ODU_STAT of
the ODU follows, its bit 12 showing a replacement not hidden by LCK and bit 0 the ODU in the image. Only the ODU's record and
registers change. In every other case nothing changes. (R77, R78, R79, R99) -/
def Obligations.AisReplacement : Prop :=
  ∀ (i : Nat) (s : State), i < 40960 → Tab.wf regReset s.regs = true → Tab.wf (fun _ => ({} : Odu)) s.odus = true →
    (s.img.bind (·.odu? i)).isSome = true →
    (s.aisCause i = true → (s.oduS i).aisIns = false → ∃ t : State, exec (.oduAisInsert i) s = .next (after s t) ∧
      (t.oduS i).aisIns = true ∧ (t.oduS i).rep = (if i ∈ s.lckRx then 2 else 1) ∧
      t.bit (Reg.PG_ODU_STAT (i / 640) (i % 640)) 12 = !s.lckRx.contains i ∧
      t.bit (Reg.PG_ODU_STAT (i / 640) (i % 640)) 0 = true ∧ t = { s with regs := t.regs, odus := t.odus }) ∧
    (s.aisCause i = false ∨ (s.oduS i).aisIns = true → exec (.oduAisInsert i) s = .next (after s s)) ∧
    (s.aisCause i = false → (s.oduS i).aisIns = true → ∃ t : State, exec (.oduAisRemove i) s = .next (after s t) ∧
      (t.oduS i).aisIns = false ∧ (t.oduS i).rep = (if i ∈ s.lckRx then 2 else 0) ∧
      t.bit (Reg.PG_ODU_STAT (i / 640) (i % 640)) 12 = false ∧
      t.bit (Reg.PG_ODU_STAT (i / 640) (i % 640)) 0 = true ∧ t = { s with regs := t.regs, odus := t.odus }) ∧
    (s.aisCause i = true ∨ (s.oduS i).aisIns = false → exec (.oduAisRemove i) s = .next (after s s))

/-- The last sample is taken up first (settle). FAILURE_RAISE of a line code whose set timer has run, of a failure not yet
raised, and not held by a failed server, marks it raised and posts its record through the owner of the object (flags 1);
FAILURE_CLEAR of a raised failure whose clear timer has run removes it and posts flags 0. A leaf code (0x40 to 0x4F), neither
raised nor cleared from 0x45 up while the carrier's server signal fail stands (R152), and a protection code (0x50 and more) do
the same for their objects. Otherwise, and while the owner has failed with no spare acting, nothing changes. The record names
the frame before (log entry 49). What the failure was is kept until the owner's commit, and a failed owner without a spare
raises nothing (log entry 109; settle: 65). A record of an object with an owner waits for the owner's commit as one more held
action; the fields of every other command stay. (R80, R81, R253) -/
def Obligations.FailuresAndTheirRecords : Prop :=
  (∀ (e c : Nat) (s : State), e < 0x10000000 → c < 0x40 → let u := settle s;
    (u.failDue e c = true → (heldCode c = false ∨ u.serverFailed e = false) → u.dutyUp (u.entHandle e) = true → exec (.failureRaise e c) s = .next (after s
      (failMove u (u.entHandle e) 1 e c true (alarmRecord e c 1 u.prevFn))) ∧
      (Tab.wf (fun _ => ({} : Fail)) u.fails = true → (tabGet {} (setFail u e c true).fails (256 * e + c) : Fail).up = true)) ∧
    (u.failDue e c = false ∨ (heldCode c = true ∧ u.serverFailed e = true) ∨ u.dutyUp (u.entHandle e) = false → exec (.failureRaise e c) s = .next (after s u)) ∧
    (u.clearDue e c = true → u.dutyUp (u.entHandle e) = true → exec (.failureClear e c) s = .next (after s
      (failMove u (u.entHandle e) 1 e c false (alarmRecord e c 0 u.prevFn)))) ∧
    (u.clearDue e c = false ∨ u.dutyUp (u.entHandle e) = false → exec (.failureClear e c) s = .next (after s u))) ∧
  (∀ (v c : Nat) (s : State), v < 0x10000000 → 0x40 ≤ c → c < 0x50 →
    let u := settle s; let k := leafFailKey c v; let h := leafAlarmHandle c v; let f := u.carSsf (if c = 0x4D then v / 65536 else v) State.defSmp;
    (u.failDue k c = true → (c < 0x45 ∨ f = false) → u.dutyUp h = true → exec (.failureRaise v c) s = .next (after s
      (failMove u h 5 k c true (alarmRecord h c 1 u.prevFn)))) ∧
    (u.failDue k c = false ∨ (0x45 ≤ c ∧ f = true) ∨ u.dutyUp h = false → exec (.failureRaise v c) s = .next (after s u)) ∧
    (u.clearDue k c = true → (c < 0x45 ∨ f = false) → u.dutyUp h = true → exec (.failureClear v c) s = .next (after s
      (failMove u h 5 k c false (alarmRecord h c 0 u.prevFn)))) ∧
    (u.clearDue k c = false ∨ (0x45 ≤ c ∧ f = true) ∨ u.dutyUp h = false → exec (.failureClear v c) s = .next (after s u))) ∧
  (∀ (n c : Nat) (s : State), n < 0x10000000 → 0x50 ≤ c → c < 256 → let u := settle s;
    (u.failDue (protKey n) c = true → u.dutyUp (handle 4 n) = true → exec (.failureRaise n c) s = .next (after s
      (failMove u (handle 4 n) 4 (protKey n) c true (alarmRecord (handle 4 n) c 1 u.prevFn)))) ∧
    (u.failDue (protKey n) c = false ∨ u.dutyUp (handle 4 n) = false → exec (.failureRaise n c) s = .next (after s u)) ∧
    (u.clearDue (protKey n) c = true → u.dutyUp (handle 4 n) = true → exec (.failureClear n c) s = .next (after s
      (failMove u (handle 4 n) 4 (protKey n) c false (alarmRecord (handle 4 n) c 0 u.prevFn)))) ∧
    (u.clearDue (protKey n) c = false ∨ u.dutyUp (handle 4 n) = false → exec (.failureClear n c) s = .next (after s u))) ∧
  (∀ s : State, s.smpDue = false → settle s = s) ∧
  (∀ (h role e q : Nat) (rec : List Byte) (s : State), s.owner h = some e → role ≠ 5 →
    s.img.bind (·.role? role (engQuad e) 0 0) = some q → s.postOwned h role rec = { s with held := s.held ++ [⟨e, 6, q, rec⟩] }) ∧
  (∀ (h role e code : Nat) (up : Bool) (rec : List Byte) (s : State), failMove s h role e code up rec =
    (setFail { s with failBack := match s.owner h with
      | some g => s.failBack ++ [(g, 256 * e + code, tabGet {} s.fails (256 * e + code))]
      | none => s.failBack } e code up).postOwned h role rec)

/-- GCC_FLUSH with bytes waiting past their frame posts a record of them to the channel's receive queue and empties the channel;
with nothing waiting nothing changes. GCC_TX_RECORD of a channel with no transmit queue, or an empty one, changes nothing; else
it takes the oldest record: one that names the port and channel and holds 1 to 56 bytes is sent, another is counted as dropped.
The queue's fill falls by one. (R88, R315, R356) -/
def Obligations.GccChannels : Prop :=
  (∀ (p ch : Nat) (s : State), p < 512 → ch < 3 →
    let x : Gcc := tabGet {} s.gcc (4 * p + ch)
    (x.rx = [] → exec (.gccFlush p ch) s = .next (after s s)) ∧
    (x.rx ≠ [] → x.since + 2 ≤ s.elapsed → ∃ t : State, exec (.gccFlush p ch) s = .next (after s t) ∧
      t = { s.postRole 6 0 ch (handle 1 p) (gccRecord p ch x.rx) with
        gcc := tabSet {} (s.postRole 6 0 ch (handle 1 p) (gccRecord p ch x.rx)).gcc (4 * p + ch) { x with rx := [] } })) ∧
  (∀ (p ch : Nat) (s : State), p < 512 → ch < 3 →
    (s.img.bind (·.role? 7 0 ch (handle 1 p)) = none → exec (.gccTxRecord p ch) s = .next (after s s)) ∧
    (∀ q d, s.img.bind (·.role? 7 0 ch (handle 1 p)) = some q → s.img.bind (·.queue? q) = some d → d.fromHost = true →
      ((s.que q).fill = 0 → exec (.gccTxRecord p ch) s = .next (after s s)) ∧
      ((s.que q).fill ≠ 0 →
        let r := s.memGet (d.base + (s.que q).rd * (16 * d.units)) (16 * d.units)
        let u := s.setQue q { s.que q with
          fill := (s.que q).fill - 1, rd := ((s.que q).rd + 1) % 2 ^ d.log2, stamps := (s.que q).stamps.drop 1 }
        (leAt r 0 4 = handle 1 p → leAt r 4 1 = ch → 1 ≤ leAt r 5 1 → leAt r 5 1 ≤ 56 →
          exec (.gccTxRecord p ch) s = .next (after s (u.send (.gcc p ch (slice r 8 (leAt r 5 1)))))) ∧
        (leAt r 0 4 ≠ handle 1 p ∨ leAt r 4 1 ≠ ch ∨ leAt r 5 1 < 1 ∨ 56 < leAt r 5 1 →
          exec (.gccTxRecord p ch) s = .next (after s (u.queDrop q 1))))))

/-- REMAP_RECENTRE of a line output with a source, whose remap buffer has left its window, latches its bit and REMAP, counts,
and centres the buffer, with one ODU frame of AIS to come (once, R109); of any other output it changes nothing. INJECT marks the
next frame of a present switch. TEST_WORD_CHECK of a position of a test cycle: the rotation names the ingress switch
(testSource, log entry 119); a word that differs from the one sent (testBad), or that switch's first one in its injected frame
(log entry 51), latches TEST_ERR and counts for the egress switch; a link word that differs, or comes from another quadrant's
switch, counts for the link; a good word, or one of an absent unit, changes nothing. MIDDLE_COLLISION between present switches
counts a breach, latches BREACH and, when it was clear, its place (the higher ingress switch), and the output slots that read
that middle for a word of the higher switch receive the lower one's word in the frame (that of an absent slot when it sends none
there: log entry 67); one that names an absent switch changes nothing (R8). (R109, R112, R114, R117, R123, R124, R1, R8) -/
def Obligations.TrunkSwitchEvents : Prop :=
  (∀ (o : Nat) (m : Image) (s : State), o < 41472 → s.img = some m →
    (o < 40960 → (m.outRec o).kind ≠ 0 → s.outOfWindow m o = true → exec (.remapRecentre o) s = .next (after s
      { ((s.mapBit (Reg.TRK_REMAP_EVT 0) o).evt Reg.TRK_EVT F.TRK_EVT_REMAP).count 0x43 0 1 with
        remaps := tabUpd {} s.remaps o fun r => { r with once := 1, fill := 0 } })) ∧
    (40960 ≤ o ∨ (m.outRec o).kind = 0 ∨ s.outOfWindow m o = false → exec (.remapRecentre o) s = .next (after s s))) ∧
  (∀ (w : Nat) (s : State), w < 128 → s.csrAnswers Reg.TRK_TEST_CMD = true →
    (s.fuses.sw w = true → exec (.inject w) s = .next (after s { s with injectSw := s.injectSw ++ [(w, s.elapsed + 1)] })) ∧
    (s.fuses.sw w = false → exec (.inject w) s = .next (after s s))) ∧
  (∀ (u c p i now : Nat) (w : TestRx) (s : State), u < 96 → c < 42 → p < 432 → testSource s.frameFn c p u = i →
    (if s.ofs = 0 then s.elapsed - 1 else s.elapsed) = now →
    let err := fun (z : State) => ((z.evt Reg.TRK_EVT F.TRK_EVT_TEST_ERR).incPair (Reg.TRK_TEST_ERR_LO u) (Reg.TRK_TEST_WRAP 0) u 1).count 0x40 u 1
    (s.fuses.sw u = false ∨ s.fuses.sw i = false → exec (.testWordCheck false u (c, p) w) s = .next (after s s)) ∧
    (s.fuses.sw u = true → s.fuses.sw i = true →
      ((i, now) ∉ s.injectSw → exec (.testWordCheck false u (c, p) w) s = .next (after s (if testBad s i p w then err s else s))) ∧
      ((i, now) ∈ s.injectSw → exec (.testWordCheck false u (c, p) w) s =
        .next (after s (err { s with injectSw := s.injectSw.erase (i, now) }))))) ∧
  (∀ (u c p : Nat) (w : TestRx) (s : State), u < 4 → c < 42 → p < 432 →
    (s.fuses.links u = false ∨ (w.sw / 24 = u ∧ testBad s w.sw p w = false) → exec (.testWordCheck true u (c, p) w) s = .next (after s s)) ∧
    (s.fuses.links u = true → (w.sw / 24 ≠ u ∨ testBad s w.sw p w = true) → exec (.testWordCheck true u (c, p) w) s = .next (after s
      (((s.evt Reg.TRK_EVT F.TRK_EVT_TEST_ERR).incPair (Reg.TRK_LINK_ERR_LO u) Reg.TRK_LINK_WRAP u 1).count 0x41 u 1)))) ∧
  (∀ (mid e lo hi : Nat) (m : Image) (s : State), mid < 864 → e < 96 → lo < hi → hi < 96 → s.img = some m →
    let c := (s.incPair Reg.TRK_BREACH_LO Reg.TRK_WRAP 0 1).count 0x42 0 1
    let errs := s.trkErr ++ (s.readers m mid e hi).map fun t => (t, m.midSource lo mid)
    ∀ i ∈ [Instr.middleCollision mid e lo hi, .middleCollision mid e hi lo],
      (s.fuses.sw e = false ∨ s.fuses.sw lo = false ∨ s.fuses.sw hi = false → exec i s = .next (after s s)) ∧
      (s.fuses.sw e = true → s.fuses.sw lo = true → s.fuses.sw hi = true → s.flag Reg.TRK_EVT F.TRK_EVT_BREACH = false → exec i s = .next (after s
        { (c.wr Reg.TRK_BREACH_LOC (mid + 1024 * e + 131072 * hi)).evt Reg.TRK_EVT F.TRK_EVT_BREACH with trkErr := errs })) ∧
      (s.fuses.sw e = true → s.fuses.sw lo = true → s.fuses.sw hi = true → s.flag Reg.TRK_EVT F.TRK_EVT_BREACH = true → exec i s = .next (after s
        { c.evt Reg.TRK_EVT F.TRK_EVT_BREACH with trkErr := errs })))

/-- A frame position of a carrier that is not declared, whose trunk output has no source, or of a leaf stage that does not run,
changes nothing, nor does one off the expected place of a carrier in frame. At its place a frame is read (carFrame), also with
an errored alignment word, until the fifth errored one in a row ends in-frame (carLost: IN_FRAME and RELEASING 0, dLOF set);
under a maintenance signal no alignment word is met. Out of frame an exact word opens a candidate; the third recurrence with MFI
advancing by 1 confirms it and that frame is read. At offset 0 the status registers follow, and a carrier lost there is not live
in the write pass that began (leafLate; R33, R156). A good GCRC files the 1,024 statuses with the FN of capture, a bad one files
none and latches GSC_CRC. DQLC_CLEAR ends dQLC 8,000 frames after the last change of the accepted QL, not before. (R33, R144,
R147, R148, R151, R152, R154, R155, R156) -/
def Obligations.LeafCarrierFrames : Prop :=
  (∀ (c : Nat) (r : LeafRx) (s : State), c < 512 → r.oh.length = 1024 → (∀ x ∈ r.leaves, x.1 < 65536) →
    let late := lateStat fun s => leafStat (leafLate s)
    (s.leafUp = false ∨ s.carDeclared c = false ∨ (s.leafIn c).1 = false →
      exec (.leafCarrierFrame c r) s = .next (after s (late s))) ∧
    (∀ aw : Bool, s.leafUp = true → s.carDeclared c = true → (s.leafIn c).1 = true →
      ((s.leafIn c).2 && slice r.oh 0 6 == carAW) = aw →
      (s.inFrame c = true →
        (r.pos ≠ (s.car c).lockPos + carBytes → exec (.leafCarrierFrame c r) s = .next (after s (late s))) ∧
        (r.pos = (s.car c).lockPos + carBytes →
          (aw = true → exec (.leafCarrierFrame c r) s = .next (after s (late
            (carFrame (s.updCar c fun k => { k with lockPos := r.pos, miss := 0 }) c r)))) ∧
          (aw = false → (s.car c).miss < 4 → exec (.leafCarrierFrame c r) s = .next (after s (late
            (carFrame (s.updCar c fun k => { k with lockPos := r.pos, miss := (s.car c).miss + 1 }) c r)))) ∧
          (aw = false → 4 ≤ (s.car c).miss → exec (.leafCarrierFrame c r) s = .next (after s (late
            (carLost (s.updCar c fun k => { k with lockPos := r.pos, miss := (s.car c).miss + 1 }) c)))))) ∧
      (s.inFrame c = false → aw = true →
        ((s.car c).cands = [] → exec (.leafCarrierFrame c r) s = .next (after s (late
          (carStat (s.updCar c fun k => { k with cands := [⟨r.pos, 0, leAt r.oh 6 1 % 64⟩], lockPos := r.pos, miss := 0 }) c
            F.LEAF_CAR_STAT_CAND 1)))) ∧
        (∀ p n, (s.car c).cands = [⟨p, 2, n⟩] → r.pos = p + carBytes → leAt r.oh 6 1 % 64 = (n + 1) % 64 →
          exec (.leafCarrierFrame c r) s = .next (after s (late (carFrame (carFound (carStat (s.updCar c fun k =>
            { k with cands := [], lockPos := r.pos, miss := 0 }) c F.LEAF_CAR_STAT_CAND 0) c (leAt r.oh 6 1 % 64)) c r))))))) ∧
  (∀ s : State, leafLate s = { s with leafW := (leafLate s).leafW } ∧
    ∀ c, c ∈ (leafLate s).leafW.live ↔ c ∈ s.leafW.live ∧ s.releasing c = true ∧ s.carSf c State.defSmp = false) ∧
  (∀ (c : Nat) (s : State), c < 512 → Tab.wf regReset s.regs = true →
    (carLost s c).inFrame c = false ∧ (carLost s c).releasing c = false ∧ (carLost s c).defNow (carKey c) 5 = true) ∧
  (∀ (c n : Nat) (oh : List Byte) (s : State), c < 512 → n < 64 →
    (crc16 (slice oh 512 512) = beAt oh 12 2 → ∃ t : State, carGsc s c n oh = t ∧ t.regs = s.regs ∧ t.gscRx =
      Tab.setRange (fun _ => ({} : Gsc)) s.gscRx (65536 * c + 1024 * n) (List.zipWith (fun v (o : Gsc) => ⟨v, s.fnN, s.now, o.st, o.fn⟩)
        (gscStatuses oh) (Tab.getRange (fun _ => ({} : Gsc)) s.gscRx (65536 * c + 1024 * n) 1024))) ∧
    (crc16 (slice oh 512 512) ≠ beAt oh 12 2 → ∃ t : State, carGsc s c n oh = t ∧ t.gscRx = s.gscRx ∧
      t.regs = ((s.evt Reg.LEAF_EVT F.LEAF_EVT_GSC_CRC).count 0x63 c 1).regs)) ∧
  (∀ (c : Nat) (s : State), c < 512 →
    (s.defNow (carKey c) 12 = true → (s.car c).qlAge + 8000 ≤ s.elapsed →
      exec (.dqlcClear c) s = .next (after s (s.setDef (carKey c) 12 false))) ∧
    (s.defNow (carKey c) 12 = false ∨ s.elapsed < (s.car c).qlAge + 8000 → exec (.dqlcClear c) s = .next (after s s)))

/-- LEAF_PM_REQ with no result and no request waiting is kept, else it latches REQ_IGNORED. The next boundary shows PENDING and
takes the snapshot of a defined entity's bin, for another entity or SEL 2 and 3 an empty one (reqBoundary). LEAF_PM_SNAPSHOT of
a pending request answers with that snapshot and OK, or E_FORMAT for the empty one; without a request nothing changes. (R174,
R98) -/
def Obligations.LeafPmRequests : Prop :=
  (∀ (e k : Nat) (s : State), e < 131072 → k < 4 → s.csrAnswers Reg.LEAF_PM_REQ = true →
    (s.valid Reg.LEAF_PM_RES = false → s.leafReq = none →
      exec (.leafPmReq e k) s = .next (after s { s with leafReq := some ⟨e, k, s.elapsed, none⟩ })) ∧
    (s.valid Reg.LEAF_PM_RES = true ∨ s.leafReq.isSome = true →
      exec (.leafPmReq e k) s = .next (after s (s.evt Reg.LEAF_EVT F.LEAF_EVT_REQ_IGNORED)))) ∧
  (∀ s : State, s.leafReq = none → exec .leafPmSnapshot s = .next (after s s)) ∧
  (∀ (r : RdReq) (m : Image) (s : State), s.pmReq = none → s.leafReq = some r → s.ofs = 0 → s.elapsed = r.since + 1 → s.img = some m →
    reqBoundary s = { s.pendRes Reg.LEAF_PM_RES with leafReq := some { r with
        shot := some (if r.sel < 2 ∧ leafKey + r.ent ∈ m.pmLeaf then
          snapRecord (s.pendRes Reg.LEAF_PM_RES) (leafKey + r.ent) (r.sel == 1) ((s.pendRes Reg.LEAF_PM_RES).nextSeq Reg.LEAF_PM_RES) else []) } }) ∧
  (∀ (r : RdReq) (b : List Byte) (s : State), s.leafReq = some r → r.shot = some b → s.isPending Reg.LEAF_PM_RES = true →
    exec .leafPmSnapshot s = .next (after s (if b = [] then ({ s with leafReq := none } : State).putRes Reg.LEAF_PM_RES eFORMAT 0
      else (putData { s with leafReq := none } (Reg.LEAF_PM_DATA 0) b).putRes Reg.LEAF_PM_RES cOK 0)))

/-- With a result waiting a command latches CMD_IGNORED. Else the group and the operation show in PROT_CMD_GRP and the answer is
E_LIFECYCLE in RETURN, E_IN_USE on a STANDBY or HOLDING unit, E_FORMAT for a group the image does not define, E_IN_USE for FS
while LO is in force, as PROT_G_STAT shows it by its REQ or its CMD, and for MS while a request above MS is in force, and OK
otherwise; only with OK the group keeps the command for the next frame. (R184, R185, R181, R199, R355) -/
def Obligations.ProtectionCommands : Prop :=
  ∀ (n : Nat) (s : State), n < 65536 → s.csrAnswers Reg.PROT_CMD = true →
    ∀ x ∈ [(Instr.lo n, 1), (.fs n, 2), (.msP n, 3), (.msW n, 4), (.clear n, 5)],
      (s.valid Reg.PROT_CMD_RES = true → exec x.1 s = .next (after s (s.evt Reg.PROT_EVT F.PROT_EVT_CMD_IGNORED))) ∧
      (s.valid Reg.PROT_CMD_RES = false →
        let ans := fun (code : Nat) => (s.wr Reg.PROT_CMD_GRP (n + 65536 * x.2)).putRes Reg.PROT_CMD_RES code 0
        let req := s.fld (Reg.PROT_G_STAT n) F.PROT_G_STAT_REQ
        let cmd := s.fld (Reg.PROT_G_STAT n) F.PROT_G_STAT_CMD
        (s.inReturn = true → exec x.1 s = .next (after s (ans eLIFE))) ∧
        (s.inReturn = false → s.quietRole = true → exec x.1 s = .next (after s (ans eINUSE))) ∧
        (s.inReturn = false → s.quietRole = false → s.prot n = none → exec x.1 s = .next (after s (ans eFORMAT))) ∧
        (∀ d, s.inReturn = false → s.quietRole = false → s.prot n = some d →
          ((x.2 = 2 ∧ (req = 0xF ∨ cmd = 1)) ∨ ((x.2 = 3 ∨ x.2 = 4) ∧ reqRank req < 6) → exec x.1 s = .next (after s (ans eINUSE))) ∧
          ((x.2 = 1 ∨ (x.2 = 2 ∧ req ≠ 0xF ∧ cmd ≠ 1) ∨ ((x.2 = 3 ∨ x.2 = 4) ∧ 6 ≤ reqRank req) ∨ x.2 = 5) →
            exec x.1 s = .next (after s ((ans cOK).updGrp n fun g => { g with newCmd := g.newCmd ++ [x.2] })))))

/-- PROT_EVALUATION of an undefined group, in a device not released, of a group already evaluated or dropped in the frame, or
whose owner is down, changes nothing. A STANDBY takes the result of the evaluation and writes nothing else (that it posts no
record and latches no event is the model's choice, log entry 141). Any other unit takes it too: request, signal, selection and
bridge of the group are those of the evaluation, and no other group changes; in mid-frame no selector bit in force changes, and
in HOLDING no bit written, APS or status either (R355). LO in force wins with selection working; FS without LO, without SF-P, in
a unidirectional group wins with signal protect. A condition without hold-off is raised at once; with one it waits so many
frames. (R180, R181, R182, R183, R188, R198, R355) -/
def Obligations.ProtectionEvaluation : Prop :=
  (∀ (n : Nat) (s : State), n < 65536 →
    (s.prot n = none ∨ s.released = false ∨ (s.grp n).evald = true ∨ (s.grp n).dropped = true ∨ s.dutyUp (handle 4 n) = false →
      exec (.protEvaluation n) s = .next (after s s)) ∧
    (∀ d, s.prot n = some d → s.released = true → (s.grp n).evald = false → (s.grp n).dropped = false → s.dutyUp (handle 4 n) = true →
      let r := (evalGrp s d (s.grp n)).1
      (s.shadowRole = true → exec (.protEvaluation n) s = .next (after s (s.updGrp n fun _ => r))) ∧
      (s.shadowRole = false → ∃ t : State, exec (.protEvaluation n) s = .next (after s t) ∧ (t.grp n).evald = true ∧
        (t.grp n).req = r.req ∧ (t.grp n).sig = r.sig ∧ (t.grp n).far = r.far ∧ (t.grp n).sel = r.sel ∧ (t.grp n).bridge = r.bridge ∧
        (∀ k, k ≠ n → t.grp k = s.grp k) ∧ (s.ofs ≠ 0 → t.selF = s.selF ∧ t.lselF = s.lselF) ∧
        (s.quietRole = true → t.selW = s.selW ∧ t.lselW = s.lselW ∧ t.apsTx = s.apsTx ∧ t.gscTx = s.gscTx)))) ∧
  (∀ (d : ProtDef) (g : Grp) (s : State),
    let r := (evalGrp s d g).1
    ((cmdStep d g).1.lo = true → r.req = 0xF ∧ r.sig = false ∧ r.far = false ∧ r.sel = false) ∧
    ((cmdStep d g).1.lo = false → (cmdStep d g).1.fs = true → d.bidir = false → d.ty ≠ 1 →
      (raiseStep d (cmdStep d g).1 (s.legs4 d) (s.elapsed - 1)).sfp = false → r.req = 0xD ∧ r.sig = true ∧ r.far = false ∧ r.sel = true)) ∧
  (∀ n h, holdStep false none true n 0 = (true, none) ∧ (0 < h → holdStep false none true n h = (false, some (n + h))) ∧
    holdStep false none false n h = (false, none) ∧ holdStep true none false n h = (false, none))

/-- HOLD_OFF_END of a condition whose hold-off frame is past raises its request when the condition is present in the sample, and
none otherwise; before that, and without a hold-off, it raises and ends nothing. WTR_EXPIRY at its frame, with the owner up,
ends the wait and goes to NR with selection working, with an event record; before its frame, or without WTR, the group does not
change. DFOP_NR after 400 frames of disagreement and DFSL after 8 frames without a source leg of a bidirectional leaf group mark
the defect and latch FOP, not before; dFSL makes the group fall back. A STANDBY records and latches none of them (the model's
choice, log entry 141). At offset 0 the registers of the group follow (grpLate, R199; that a command of the boundary cycle shows
there is log entry 65), else they stay. (R180, R183, R191, R195, R199) -/
def Obligations.ProtectionTimersAndDefects : Prop :=
  (∀ (n : Nat) (s : State), (s.ofs ≠ 0 → grpLate n s = s) ∧ (∀ d, s.ofs = 0 → s.prot n = some d → grpLate n s = grpRegs s d)) ∧
  (∀ (n t : Nat) (d : ProtDef) (s : State), n < 65536 → s.prot n = some d → t + 1 ≤ s.elapsed →
    ((s.grp n).hSfw = some t → exec (.holdOffEnd n false false) s = .next (after s
      (grpLate n (s.updGrp n fun g => { g with sfw := s.legSf d.w, hSfw := none })))) ∧
    ((s.grp n).hSfp = some t → exec (.holdOffEnd n true false) s = .next (after s
      (grpLate n (s.updGrp n fun g => { g with sfp := s.legSf d.p, hSfp := none })))) ∧
    ((s.grp n).hSdw = some t → exec (.holdOffEnd n false true) s = .next (after s
      (grpLate n (s.updGrp n fun g => { g with sdw := s.legSd d.w, hSdw := none })))) ∧
    ((s.grp n).hSdp = some t → exec (.holdOffEnd n true true) s = .next (after s
      (grpLate n (s.updGrp n fun g => { g with sdp := s.legSd d.p, hSdp := none }))))) ∧
  (∀ (n : Nat) (p sd : Bool) (s : State), n < 65536 →
    (∀ t, holdOf (s.grp n) p sd = some t → s.elapsed < t + 1) ∨ s.prot n = none →
    exec (.holdOffEnd n p sd) s = .next (after s (grpLate n s))) ∧
  (∀ (n t : Nat) (s : State), n < 65536 → (s.grp n).wtr = some t →
    (t ≤ s.elapsed → s.dutyUp (handle 4 n) = true →
      let u := s.updGrp n fun g => { g with wtr := none, req := 0, sig := false, far := false, sel := false }
      (s.shadowRole = true → exec (.wtrExpiry n) s = .next (after s (grpLate n u))) ∧
      (s.shadowRole = false → exec (.wtrExpiry n) s = .next (after s (grpLate n (protEvent u n 2 s.fnN))))) ∧
    (s.elapsed < t ∨ s.dutyUp (handle 4 n) = false → exec (.wtrExpiry n) s = .next (after s (grpLate n s)))) ∧
  (∀ (n : Nat) (s : State), n < 65536 →
    ((s.grp n).wtr = none → exec (.wtrExpiry n) s = .next (after s (grpLate n s))) ∧
    ((s.grp n).nr = false → 400 ≤ (s.grp n).nrRun →
      let u := s.updGrp n fun g => { g with nr := true, nrOk := 0 }
      exec (.dfopNr n) s = .next (after s (grpLate n (if s.shadowRole then u else u.evt Reg.PROT_EVT F.PROT_EVT_FOP)))) ∧
    ((s.grp n).nr = true ∨ (s.grp n).nrRun < 400 → exec (.dfopNr n) s = .next (after s (grpLate n s))) ∧
    (∀ d, s.prot n = some d → (s.grp n).fsl = false → 8 ≤ (s.grp n).fslRun → d.bidir = true → d.ty = 2 →
      let u := s.updGrp n fun g => { g with fsl := true, fallback := true }
      exec (.dfsl n) s = .next (after s (grpLate n (if s.shadowRole then u else u.evt Reg.PROT_EVT F.PROT_EVT_FOP)))) ∧
    ((s.grp n).fslRun < 8 → exec (.dfsl n) s = .next (after s (grpLate n s))))

/-- With a result waiting, each latches CMD_IGNORED. In RETURN all but CANCEL answer E_LIFECYCLE. CLAIM takes the lowest EMPTY
entry to LOADING, or answers E_RESOURCE. COMMIT needs a LOADING entry, else E_FORMAT; a target at least 17 frames ahead, else
E_EPOCH_LATE; and 16 frames to every queued target, else E_IN_USE; it enters VALIDATING with the target of GRAFT_CMD_TGT. CANCEL
of an ARMED or later entry answers E_IN_USE, of an EMPTY one E_FORMAT; it empties the entry, and the chain behind a queued one
breaks. ROLLBACK needs a rollback copy and an empty queue, else E_IN_USE, the same lead, and an EMPTY entry, else E_RESOURCE.
(R126, R127, R128, R129, R141, R320) -/
def Obligations.GraftCommands : Prop :=
  (∀ s : State, s.csrAnswers Reg.GRAFT_CMD = true → s.valid Reg.GRAFT_CMD_RES = true →
    ∀ e, e < 16 → ∀ i ∈ [Instr.claim, .commit e, .cancel e, .rollback],
      exec i s = .next (after s (s.evt Reg.GRAFT_EVT F.GRAFT_EVT_CMD_IGNORED))) ∧
  (∀ (e : Nat) (s : State), e < 16 → s.csrAnswers Reg.GRAFT_CMD = true → s.valid Reg.GRAFT_CMD_RES = false →
    let no := fun (code : Nat) => s.putRes Reg.GRAFT_CMD_RES code 0
    let res := fun (code : Nat) => s.putRes Reg.GRAFT_CMD_RES code e
    (s.inReturn = true → exec .claim s = .next (after s (no eLIFE)) ∧ exec .rollback s = .next (after s (no eLIFE)) ∧
      exec (.commit e) s = .next (after s (res eLIFE))) ∧
    (s.inReturn = false →
      (s.gIn [0] = [] → exec .claim s = .next (after s (no eRESOURCE))) ∧
      (∀ n, (s.gIn [0]).head? = some n → exec .claim s = .next (after s (setG (s.putRes Reg.GRAFT_CMD_RES cOK n) n 1))) ∧
      (s.gSt e ≠ 1 → exec (.commit e) s = .next (after s (res eFORMAT))) ∧
      (s.gSt e = 1 → fnAtLeast s.gCmdTgt s.fnN 17 = false → exec (.commit e) s = .next (after s (res eLATE))) ∧
      (s.gSt e = 1 → fnAtLeast s.gCmdTgt s.fnN 17 = true → s.gCrowds s.gCmdTgt = true →
        exec (.commit e) s = .next (after s (res eINUSE))) ∧
      (s.gSt e = 1 → fnAtLeast s.gCmdTgt s.fnN 17 = true → s.gCrowds s.gCmdTgt = false →
        exec (.commit e) s = .next (after s (graftEnter (res cOK) e false))) ∧
      (s.flag Reg.GRAFT_STAT F.GRAFT_STAT_ROLLBACK_AVAIL = false ∨ s.gIn [2, 3, 4] ≠ [] →
        exec .rollback s = .next (after s (no eINUSE))) ∧
      (s.flag Reg.GRAFT_STAT F.GRAFT_STAT_ROLLBACK_AVAIL = true → s.gIn [2, 3, 4] = [] →
        (fnAtLeast s.gCmdTgt s.fnN 17 = false → exec .rollback s = .next (after s (no eLATE))) ∧
        (fnAtLeast s.gCmdTgt s.fnN 17 = true → s.gIn [0] = [] → exec .rollback s = .next (after s (no eRESOURCE))) ∧
        (∀ n, fnAtLeast s.gCmdTgt s.fnN 17 = true → (s.gIn [0]).head? = some n →
          exec .rollback s = .next (after s (graftEnter (s.putRes Reg.GRAFT_CMD_RES cOK n) n true))))) ∧
    (4 ≤ s.gSt e → exec (.cancel e) s = .next (after s (res eINUSE))) ∧
    (s.gSt e = 0 → exec (.cancel e) s = .next (after s (res eFORMAT))) ∧
    (Tab.wf regReset s.regs = true →
      (s.gSt e = 1 → exec (.cancel e) s = .next (after s (gClear (res cOK) e))) ∧
      (s.gSt e = 2 ∨ s.gSt e = 3 → exec (.cancel e) s = .next (after s (chainBreak (gClear (res cOK) e) (s.gTgt e)))))) ∧
  (∀ (n : Nat) (r : Bool) (s : State), n < 16 → Tab.wf regReset s.regs = true →
    (graftEnter s n r).gSt n = 2 ∧ (graftEnter s n r).gTgt n = s.gCmdTgt ∧
      (graftEnter s n r).flag (Reg.GRAFT_E_STAT n) F.GRAFT_E_STAT_ROLLBACK = r)

/-- GRAFT_VALIDATION_DONE of an entry that is not VALIDATING, or not the first in target order, changes nothing; a fault rejects
it with that code (graftReject: REJECTED, the result, REJECTED latched, the chain behind it breaks); a pass shows its result;
the domains it uses are powered on, and it reaches STAGED, with the lasers of its fibres enabled, once all are on. GRAFT_ARM at
offset 0 arms the STAGED entry whose target is 16 frames ahead and rejects one still VALIDATING with E_EPOCH_LATE; without such
an entry, or at another offset, nothing changes. SHADOW_READY at offset 0 of the frame before the target shows the shadow banks
loaded. (R126, R128, R129, R130, R131) -/
def Obligations.GraftValidationAndArming : Prop :=
  (∀ (n : Nat) (s : State), n < 16 →
    (s.gSt n ≠ 2 ∨ s.gFirst (s.gIn [2]) ≠ some n → exec (.graftValidationDone n) s = .next (after s s)) ∧
    (s.gSt n = 2 → s.gFirst (s.gIn [2]) = some n → (s.gx n).result = none →
      (∀ f, s.graftCheck n = .inl f → exec (.graftValidationDone n) s = .next (after s (graftReject s n f.1 f.2))) ∧
      (∀ m k h, s.graftCheck n = .inr (m, k, h) → exec (.graftValidationDone n) s = .next (after s
        (graftStage (graftPass s n m k h) n m)))) ∧
    (∀ m, s.gSt n = 2 → s.gFirst (s.gIn [2]) = some n → (s.gx n).result = some m →
      let up := (List.range 67).foldl (fun s d => if m.plan d = 2 then domRise s d else s) s
      ((∀ d, d < 67 → m.plan d = 2 → up.domOn d = true) →
        exec (.graftValidationDone n) s = .next (after s (graftBegin (setG (elsDrive up) n 3)))) ∧
      ((∃ d, d < 67 ∧ m.plan d = 2 ∧ up.domOn d = false) → exec (.graftValidationDone n) s = .next (after s up)))) ∧
  (∀ (d : Nat) (s : State), s.domOn d = true → domRise s d = s) ∧
  (∀ (n c d : Nat) (s : State), n < 16 → Tab.wf regReset s.regs = true →
    (reject1 s n c d).gSt n = 6 ∧ (reject1 s n c d).valid (Reg.GRAFT_E_RES n) = true ∧
      (reject1 s n c d).flag Reg.GRAFT_EVT F.GRAFT_EVT_REJECTED = true ∧ (reject1 s n c d).img = s.img) ∧
  (∀ s : State, s.clk = true →
    (s.ofs ≠ 0 → exec .graftArm s = .next (after s s)) ∧
    (s.ofs = 0 → (∀ n, n < 16 → s.gSt n = 2 ∨ s.gSt n = 3 → fnDiff (s.gTgt n) s.fnN ≠ 16) → exec .graftArm s = .next (after s s)) ∧
    (∀ n, s.ofs = 0 → (s.gIn [2, 3]).find? (fun k => fnDiff (s.gTgt k) s.fnN == 16) = some n →
      (s.gSt n = 3 → exec .graftArm s = .next (after s (setG s n 4))) ∧
      (s.gSt n = 2 → exec .graftArm s = .next (after s (graftReject s n eLATE 0)))) ∧
    (∀ n, s.ofs = 0 → n < 16 → s.gSt n = 4 → fnDiff (s.gTgt n) s.fnN = 1 → exec .shadowReady s = .next (after s
      (s.setFlag Reg.TRK_BANK_STAT F.TRK_BANK_STAT_SHADOW_READY true))))

/-- GRAFT_APPLY where no ARMED entry is due (another offset, another target) changes nothing. A due entry that the unit may not
apply is rejected with E_IN_USE (HOLDING, or a STANDBY without the active unit's entry, R140; a DIVERGED one alike by log entry
127; before E_CRC by log entry 128), one whose shadow banks showed an uncorrectable error with E_CRC, and image and rollback
copy stay. Otherwise the entry is APPLIED with OK, APPLIED latches, the frame, second and bins that ended are taken up (catchUp;
that order is log entry 65), everything flips (graftFlip), snapshots of that boundary are taken anew (shoot), and egress QL
bytes and laser drive follow (qlReform, elsReform): the result is the image in force, the old one the rollback copy. A selector
of an output that keeps kind 2 or 3 and its sources keeps its bit, unless it is a moved group's; any other takes its initial
value, and an output without one has none (R120); a leaf record's bit stays with the record, else takes INIT (R166).
GRAFT_DOMAIN_DRAIN at offset 0 of a later frame drains the domains that the new image does not use, and only then. (R120, R129,
R130, R133, R136, R140, R141, R166) -/
def Obligations.GraftApplies : Prop :=
  (∀ (e : Bool) (s : State),
    (s.ofs ≠ 0 ∨ s.clk = false ∨ (∀ n, n < 16 → s.gSt n = 4 → s.gTgt n ≠ s.fnN) → exec (.graftApply e) s = .next (after s s)) ∧
    (∀ n m old, s.ofs = 0 → s.clk = true → (s.gIn [4]).find? (fun n => s.gTgt n == s.fnN) = some n → (s.gx n).result = some m →
      s.img = some old →
      (s.graftMay n m = false → ∃ t : State, exec (.graftApply e) s = .next (after s t) ∧ t = graftReject s n eINUSE 0 ∧ t.img = some old ∧
        t.back = s.back) ∧
      (s.graftMay n m = true → e = true → ∃ t : State, exec (.graftApply e) s = .next (after s t) ∧
        t = graftReject (s.updMate fun x => { x with uncorAt := some s.elapsed }) n eCRC 0 ∧ t.img = some old ∧ t.back = s.back) ∧
      (s.graftMay n m = true → e = false →
        ∃ t : State, exec (.graftApply e) s = .next (after s t) ∧ t.img = some m ∧ t.back = some old ∧ t.fn = s.fn ∧ t.fuses = s.fuses ∧
          t.selW = keepSel old m s.selW ∧ t.selF = t.selW ∧ t.lselW = keepLsel old m s.lselW ∧ t.lselF = t.lselW ∧
          (s.flag (Reg.GRAFT_E_STAT n) F.GRAFT_E_STAT_GROVE = false →
            t = elsReform (qlReform (shoot (graftFlip (catchUp (graftMark s n m)) old m)))) ∧
          (s.flag (Reg.GRAFT_E_STAT n) F.GRAFT_E_STAT_GROVE = true → t = elsReform (qlReform (shoot (graftFlip (catchUp
            (if (graftMark s n m).fld Reg.FT_STAT F.FT_STAT_ALIGN_STATE ≠ 1 then (graftMark s n m).evt Reg.FT_EVT F.FT_EVT_GROVE_ASYNC
             else graftMark s n m)) old m))))))) ∧
  (∀ (old m : Image) (l : List (Nat × Bool)), (m.outs.map (·.out)).Nodup →
    (∀ d ∈ m.outs, d.kind = 2 ∨ d.kind = 3 →
      (d.out ∉ movedSels old m false → (∃ x, old.out? d.out = some x ∧ x.kind = d.kind ∧ x.a = d.a ∧ x.b = d.b) →
        tabGet false (keepSel old m l) d.out = tabGet false l d.out) ∧
      (d.out ∈ movedSels old m false ∨ (∀ x, old.out? d.out = some x → x.kind ≠ d.kind ∨ x.a ≠ d.a ∨ d.kind = 2 ∧ x.b ≠ d.b) →
        tabGet false (keepSel old m l) d.out = d.init)) ∧
    (∀ o, (∀ d ∈ m.outs, d.out = o → d.kind ≠ 2 ∧ d.kind ≠ 3) → tabGet false (keepSel old m l) o = false)) ∧
  (∀ (old m : Image) (l : List (Nat × Bool)) (r : Nat),
    (r < m.srecCount → r ∉ movedSels old m true → old.srecKey r = m.srecKey r →
      tabGet false (keepLsel old m l) r = tabGet false l r) ∧
    (r < m.srecCount → r ∈ movedSels old m true ∨ old.srecKey r ≠ m.srecKey r → tabGet false (keepLsel old m l) r = m.srecInit r) ∧
    (m.srecCount ≤ r → tabGet false (keepLsel old m l) r = false)) ∧
  (∀ (n : Nat) (m : Image) (s : State), n < 16 → Tab.wf regReset s.regs = true →
    (graftMark s n m).gSt n = 5 ∧ (graftMark s n m).valid (Reg.GRAFT_E_RES n) = true ∧
      (graftMark s n m).flag Reg.GRAFT_EVT F.GRAFT_EVT_APPLIED = true ∧ (graftMark s n m).rdPair Reg.GRAFT_LAST_FN_LO = s.fnN ∧
      (graftMark s n m).flag Reg.GRAFT_STAT F.GRAFT_STAT_ROLLBACK_AVAIL = true ∧
      ((List.range 8).all fun i => (graftMark s n m).rd (Reg.GRAFT_RUN_DIGEST i) == leAt m.digest (4 * i) 4) = true) ∧
  (∀ s : State,
    (s.ofs ≠ 0 ∨ s.clk = false ∨ fnDiff s.fnN (s.rdPair Reg.GRAFT_LAST_FN_LO) = 0 → exec .graftDomainDrain s = .next (after s s)) ∧
    (s.ofs = 0 → s.clk = true → fnDiff s.fnN (s.rdPair Reg.GRAFT_LAST_FN_LO) ≠ 0 → exec .graftDomainDrain s = .next (after s
      (s.drainDue.foldl domDrain { s with drainDue := [] }))))

/-- An action of an engine that runs a program, fetched in time, with no uncorrectable program word or register (mem below 2; a
corrected word counts first) and a defined opcode, whose guard predicate is usable and holds, and that no check of R258 drops
(dropReason), takes its slot and ports (did) and writes VX, usable one cycle later: ADD, SUB, AND, OR, XOR, SHL and SHR (by the
low 6 bits), MINU, MAXU, SATADD32 (low 32 bits, saturating), ADDI and MOVI (immediate sign-extended), EXT (wm1 + 1 bits from bit
lsb), INS (the low wm1 + 1 bits of VY put there, every other bit of VX kept) and SEL. NOP takes its slot, as a wasted one, and
writes nothing. A value register written in a cycle reads its old value in that cycle and the new one in every later one
(poisoned still where a drop had poisoned it; that a second write of one cycle, which R248 forbids, stays is log entry 76), and
no other register or engine changes; P0 reads 1 and a write of it changes nothing. (R246, R247, R248, R251, R258, R259) -/
def Obligations.EngineArithmetic : Prop :=
  (∀ (a : Act) (x y z q lsb wm1 e : Nat) (imm : BitVec 26) (lock : Bool) (s : State), a.ok = true → x < 16 → y < 16 → z < 16 → q < 16 →
    lsb + wm1 < 64 → s.acting a.eng = some (e, lock) → fetchCycle a.k ≤ a.slot / 4 → a.mem < 2 → a.raw = 0 →
    let p := a.eng
    let c := a.slot / 4
    let t := portCycle (s.toOfs (2 * c)) p c
    let st := if a.mem = 1 then engCount (t.evt (Reg.ENG_EVT p) F.ENG_EVT_ECC_COR) p 7 1 else t
    (st.pAt p a.pred c).usable c = true → ((st.pAt p a.pred c).val != 0) ≠ a.pneg →
    let did := fun (u : Use) (n : Nat) => usePorts (engSlot st p n) p e c u
    (st.dropReason p e c a.slot {} = none → exec (.nop a) s = .next (after s (did {} 1))) ∧
    (∀ i ∈ ([(.add a x y z, fun v w => v + w), (.sub a x y z, fun v w => v - w), (.and a x y z, fun v w => v &&& w),
        (.or a x y z, fun v w => v ||| w), (.xor a x y z, fun v w => v ^^^ w), (.shl a x y z, fun v w => v <<< (w.toNat % 64)),
        (.shr a x y z, fun v w => v >>> (w.toNat % 64)), (.minu a x y z, fun v w => if w.ult v then w else v),
        (.maxu a x y z, fun v w => if v.ult w then w else v),
        (.satadd32 a x y z, fun v w => BitVec.ofNat 64 (min (v.toNat % 2 ^ 32 + w.toNat % 2 ^ 32) (2 ^ 32 - 1)))] :
          List (Instr × (Dword → Dword → Dword))),
      let u : Use := { rv := [y, z], wv := some x }
      st.dropReason p e c a.slot u = none → exec i.1 s = .next (after s (setV (did u 0) p x c
        { val := i.2 ((did u 0).vAt p y c).val ((did u 0).vAt p z c).val, ready := c + 1 }))) ∧
    (∀ i ∈ ([(.addi a x y imm, [y], fun v _ => v + imm.signExtend 64), (.movi a x imm, [], fun _ _ => imm.signExtend 64),
        (.ext a x y lsb wm1, [y], fun v _ => BitVec.ofNat 64 (v.toNat / 2 ^ lsb % 2 ^ (wm1 + 1))),
        (.ins a x y lsb wm1, [x, y], fun v o => (o &&& ~~~((BitVec.ofNat 64 (2 ^ (wm1 + 1) - 1)) <<< lsb)) ||| ((v &&& BitVec.ofNat 64 (2 ^ (wm1 + 1) - 1)) <<< lsb))] : List (Instr × List Nat × (Dword → Dword → Dword))),
      let u : Use := { rv := i.2.1, wv := some x }
      st.dropReason p e c a.slot u = none → exec i.1 s = .next (after s (setV (did u 0) p x c
        { val := i.2.2 ((did u 0).vAt p y c).val ((did u 0).vAt p x c).val, ready := c + 1 }))) ∧
    (let u : Use := { rv := [y, z], rp := [q], wv := some x }
     st.dropReason p e c a.slot u = none → exec (.sel a x y z q) s = .next (after s (setV (did u 0) p x c
       { val := ((did u 0).vAt p (if ((did u 0).pAt p q c).val != 0 then y else z) c).val, ready := c + 1 })))) ∧
  (∀ (p i c d : Nat) (v : EVal) (s : State), (setV s p i c v).vAt p i c = s.vAt p i c ∧ (c < d → (setV s p i c v).vAt p i d = { v with poison := v.poison || (tabGet ({} : EReg) (s.eng p).v i).now.poison }) ∧
    (∀ o j k, o ≠ p ∨ j ≠ i → (setV s p i c v).vAt o j k = s.vAt o j k) ∧ (∀ o j k, (setV s p i c v).pAt o j k = s.pAt o j k) ∧
    setP s p 0 c v = s ∧ (s.pAt p 0 c).val = 1)

/-- Under the conditions of Obligations.EngineArithmetic: CMP and CMPI write whether the comparison of their condition (equal,
not equal, unsigned below, not below, signed below, not below) holds, PSET the chosen function of two predicates, TESTB a bit,
each usable one cycle later; a condition above 5 is dropped for reason 6 (log entry 75). LD gives a state word three cycles
later and ST writes one, but for a spare in lockstep. CNTDN counts a word down to 0, CNTUP its low half up to its limit, and
each shows in a predicate, three cycles later, whether the end is reached. A read of these three that meets a corrected error
(ecc 1) counts it and goes on; an uncorrectable one (ecc 2) fails the engine and writes nothing. (R248, R251, R253, R254) -/
def Obligations.EnginePredicatesAndMemory : Prop :=
  ∀ (a : Act) (x y z pr q r f cond bit i ecc e : Nat) (imm : BitVec 22) (inv lock : Bool) (s : State), a.ok = true → x < 16 → y < 16 → z < 16 →
    pr < 16 → q < 16 → r < 16 → f < 4 → cond < 16 → bit < 64 → i < 65536 → ecc < 2 → s.acting a.eng = some (e, lock) → fetchCycle a.k ≤ a.slot / 4 →
    a.mem < 2 → a.raw = 0 →
    let p := a.eng
    let c := a.slot / 4
    let t := portCycle (s.toOfs (2 * c)) p c
    let st := if a.mem = 1 then engCount (t.evt (Reg.ENG_EVT p) F.ENG_EVT_ECC_COR) p 7 1 else t
    (st.pAt p a.pred c).usable c = true → ((st.pAt p a.pred c).val != 0) ≠ a.pneg →
    let did := fun (u : Use) => usePorts (engSlot st p 0) p e c u
    let truth := fun (v w : Dword) => decide ((cond = 0 ∧ v = w) ∨ (cond = 1 ∧ v ≠ w) ∨ (cond = 2 ∧ v.toNat < w.toNat) ∨
      (cond = 3 ∧ w.toNat ≤ v.toNat) ∨ (cond = 4 ∧ v.toInt < w.toInt) ∨ (cond = 5 ∧ w.toInt ≤ v.toInt))
    let seen := fun (t : State) => if ecc = 1 then engCount (t.evt (Reg.ENG_EVT p) F.ENG_EVT_ECC_COR) p 7 1 else t
    (let u : Use := { rv := [y, z], wp := some pr }
     st.dropReason p e c a.slot u = none →
     (cond ≤ 5 → exec (.cmp a pr y z cond) s = .next (after s (setP (did u) p pr c
       { val := BitVec.ofNat 64 (nat01 (truth ((did u).vAt p y c).val ((did u).vAt p z c).val)), ready := c + 1 }))) ∧
     (5 < cond → exec (.cmp a pr y z cond) s = .next (after s (actionDrop st p e lock a.slot 0x10 6 { u with bad := true })))) ∧
    (let u : Use := { rv := [y], wp := some pr }
     st.dropReason p e c a.slot u = none →
     (cond ≤ 5 → exec (.cmpi a pr y cond imm) s = .next (after s (setP (did u) p pr c
       { val := BitVec.ofNat 64 (nat01 (truth ((did u).vAt p y c).val (imm.signExtend 64))), ready := c + 1 }))) ∧
     (5 < cond → exec (.cmpi a pr y cond imm) s = .next (after s (actionDrop st p e lock a.slot 0x11 6 { u with bad := true }))) ∧
     exec (.testb a pr y bit) s = .next (after s (setP (did u) p pr c
       { val := BitVec.ofNat 64 (nat01 (((did u).vAt p y c).val.getLsbD bit)), ready := c + 1 }))) ∧
    (let u : Use := { rp := [q, r], wp := some pr }
     let b := fun (k : Nat) => ((did u).pAt p k c).val != 0
     st.dropReason p e c a.slot u = none → exec (.pset a pr q r f inv) s = .next (after s (setP (did u) p pr c
       { val := BitVec.ofNat 64 (nat01 ((if f = 0 then b q && b r else if f = 1 then b q || b r else if f = 2 then b q && !b r
           else b q != b r) != inv)), ready := c + 1 }))) ∧
    (let u : Use := { wv := some x, rd := 1 }
     st.dropReason p e c a.slot u = none →
     exec (.ld a x i ecc) s = .next (after s (setV (seen (did u)) p x c { val := (seen (did u)).smemAt p e i c, ready := c + 3 })) ∧
     exec (.ld a x i 2) s = .next (after s (engFail (did u) p 2 (a.slot + 1)))) ∧
    (let u : Use := { rv := [x], wr := 1 }
     st.dropReason p e c a.slot u = none →
     exec (.st a x i) s = .next (after s (if lock then did u else setSmem (did u) p e i false ((did u).vAt p x c).val))) ∧
    (let u : Use := { wp := some pr, rd := 1, wr := 1 }
     let t := seen (did u)
     let w := t.smemAt p e i c
     let dn : Dword := if w = 0 then 0 else w - 1
     let up : Dword := BitVec.ofNat 64 (w.toNat / 2 ^ 32 * 2 ^ 32 + min (w.toNat % 2 ^ 32 + 1) (2 ^ 32 - 1))
     let put := fun (v : Dword) => if lock then t else setSmem t p e i false v
     st.dropReason p e c a.slot u = none →
     exec (.cntdn a pr i ecc) s = .next (after s (setP (put dn) p pr c { val := BitVec.ofNat 64 (nat01 (dn == 0)), ready := c + 3 })) ∧
     exec (.cntup a pr i ecc) s = .next (after s (setP (put up) p pr c
       { val := BitVec.ofNat 64 (nat01 (up.toNat % 2 ^ 32 == 2 ^ 32 - 1)), ready := c + 3 })) ∧
     exec (.cntdn a pr i 2) s = .next (after s (engFail (did u) p 2 (a.slot + 1))) ∧
     exec (.cntup a pr i 2) s = .next (after s (engFail (did u) p 2 (a.slot + 1))))

/-- Every action of the table, of an engine that runs no program, changes nothing; one that arrives before it is fetched is
dropped for reason 0, one that meets an uncorrectable program word or register (mem 2, 3) fails the engine there with cause 1 or
3 (log entry 78), one whose guard is not usable is dropped for reason 1, one that a check of R258 stops for that reason
(dropReason, in the order of log entry 74; what it does to a group is log entry 77), a reserved opcode (raw) for reason 6 or, in
the tail, 4; one whose guard does not hold takes a wasted slot. A drop poisons the register it would have written, and reading a
poisoned register is reason 1. Otherwise GET reads its source entry, usable two cycles later; PUT acts at once within the
quadrant (log entry 81) and 2,400 core cycles later across the bus; POST holds its record until the commit; MARK shows VX and
latches. A lockstep spare sends nothing. STATE_BUS_DELIVERY brings the oldest word under way to its destination at its instant,
when that lies in the frame. (R26, R247, R251, R252, R253, R254, R258, R259, R260, R262) -/
def Obligations.EngineDropsAndTransfers : Prop :=
  (∀ (a : Act) (x y z pr q r n i lsb wm1 f cond bit ecc : Nat) (imm : BitVec 26) (im2 : BitVec 22) (inv : Bool) (s : State), a.ok = true →
    x < 16 → y < 16 → z < 16 → pr < 16 → q < 16 → r < 16 → 1 ≤ n → n ≤ 4 → x + 2 * n ≤ 16 → i < 65536 → lsb + wm1 < 64 → f < 4 → cond < 16 →
    bit < 64 → ecc < 3 →
    let p := a.eng
    let c := a.slot / 4
    let t := portCycle (s.toOfs (2 * c)) p c
    let st := if a.mem = 1 then engCount (t.evt (Reg.ENG_EVT p) F.ENG_EVT_ECC_COR) p 7 1 else t
    let opc := fun (k : Nat) => if a.raw = 0 then k else a.raw
    let us := fun (u : Use) => if a.raw = 0 then u else { bad := true }
    let yz : Use := { rv := [y, z], wv := some x }
    let ops : List (Instr × Nat × Use) := [(.nop a, 0, {}), (.add a x y z, 1, yz), (.sub a x y z, 2, yz), (.and a x y z, 3, yz),
      (.or a x y z, 4, yz), (.xor a x y z, 5, yz), (.shl a x y z, 6, yz), (.shr a x y z, 7, yz), (.minu a x y z, 8, yz), (.maxu a x y z, 9, yz),
      (.satadd32 a x y z, 0xA, yz), (.addi a x y imm, 0xB, { rv := [y], wv := some x }), (.movi a x imm, 0xC, { wv := some x }),
      (.ext a x y lsb wm1, 0xD, { rv := [y], wv := some x }), (.ins a x y lsb wm1, 0xE, { rv := [x, y], wv := some x }),
      (.sel a x y z q, 0xF, { rv := [y, z], rp := [q], wv := some x }),
      (.cmp a pr y z cond, 0x10, { rv := [y, z], wp := some pr, bad := decide (5 < cond) }),
      (.cmpi a pr y cond im2, 0x11, { rv := [y], wp := some pr, bad := decide (5 < cond) }),
      (.pset a pr q r f inv, 0x12, { rp := [q, r], wp := some pr }), (.testb a pr y bit, 0x13, { rv := [y], wp := some pr }),
      (.ld a x i ecc, 0x18, { wv := some x, rd := 1 }), (.st a x i, 0x19, { rv := [x], wr := 1 }),
      (.cntdn a pr i ecc, 0x1A, { wp := some pr, rd := 1, wr := 1 }), (.cntup a pr i ecc, 0x1B, { wp := some pr, rd := 1, wr := 1 }),
      (.get a x i, 0x20, { wv := some x, get := some i }),
      (.put a x i, 0x21, { rv := [x], put := some i }), (.post a x n i, 0x22, { rv := (List.range (2 * n)).map (x + ·), post := some (n, i) }),
      (.mark a x, 0x30, { rv := [x] })]
    (s.acting a.eng = none → ∀ o ∈ ops, exec o.1 s = .next (after s s)) ∧
    (∀ e lock, s.acting a.eng = some (e, lock) →
    (c < fetchCycle a.k → ∀ o ∈ ops, exec o.1 s = .next (after s (actionDrop t p e lock a.slot (opc o.2.1) 0 (us o.2.2)))) ∧
    (fetchCycle a.k ≤ c → 2 ≤ a.mem → ∀ o ∈ ops, exec o.1 s = .next (after s (engFail t p (if a.mem = 2 then 1 else 3) a.slot))) ∧
    (fetchCycle a.k ≤ c → a.mem < 2 →
      ((st.pAt p a.pred c).usable c = false → ∀ o ∈ ops, exec o.1 s = .next (after s (actionDrop st p e lock a.slot (opc o.2.1) 1 (us o.2.2)))) ∧
      ((st.pAt p a.pred c).usable c = true →
        (((st.pAt p a.pred c).val != 0) = a.pneg → ∀ o ∈ ops, exec o.1 s = .next (after s (engSlot st p 1))) ∧
        (((st.pAt p a.pred c).val != 0) ≠ a.pneg →
          (∀ o ∈ ops, ∀ r, st.dropReason p e c a.slot (us o.2.2) = some r →
            exec o.1 s = .next (after s (actionDrop st p e lock a.slot (opc o.2.1) r (us o.2.2)))) ∧
          (let u : Use := { wv := some x, get := some i }
           let d := usePorts (engSlot st p 0) p e c u
           a.raw = 0 → st.dropReason p e c a.slot u = none → exec (.get a x i) s = .next (after s (setV d p x c
             { val := BitVec.ofNat 64 (d.srcVal p ((d.engEntry secSRC e i).getD 0)), ready := c + 2 }))) ∧
          (let u : Use := { rv := [x], put := some i }
           let d := usePorts (engSlot st p 0) p e c u
           let w := (d.engEntry secDST e i).getD 0
           a.raw = 0 → st.dropReason p e c a.slot u = none →
           (lock = true → exec (.put a x i) s = .next (after s d)) ∧
           (lock = false → busTo p w = none → exec (.put a x i) s = .next (after s
             (busApply d (entKind w) (entIndex w) (d.vAt p x c).val))) ∧
           (∀ q, lock = false → busTo p w = some q → exec (.put a x i) s = .next (after s
             { d with bus := d.bus ++ [⟨d.now + 2400, q, entKind w, entIndex w, (d.vAt p x c).val⟩] }))) ∧
          (let u : Use := { rv := (List.range (2 * n)).map (x + ·), post := some (n, i) }
           let d := usePorts (engSlot st p 0) p e c u
           let w := (d.engEntry secDST e i).getD 0
           a.raw = 0 → st.dropReason p e c a.slot u = none → exec (.post a x n i) s = .next (after s (if lock then d else
             { d with held := d.held ++ [⟨e, entKind w, entIndex w, d.postBytes p x n c⟩] }))) ∧
          (let u : Use := { rv := [x] }
           let d := usePorts (engSlot st p 0) p e c u
           a.raw = 0 → st.dropReason p e c a.slot u = none → exec (.mark a x) s = .next (after s (if lock then d else
             (d.wr (Reg.ENG_MARK p) ((d.vAt p x c).val.toNat % 2 ^ 32)).evt (Reg.ENG_EVT p) F.ENG_EVT_MARK)))))))) ∧
  (∀ (p e c slot : Nat) (s : State), (s.eng p).ports.rd ≤ 2 → (s.eng p).ports.wr ≤ 1 →
    s.dropReason p e c slot { bad := true } = some (if slot < Config.tailSlot then 6 else 4)) ∧
  (∀ (p e slot op r i : Nat) (lock : Bool) (s : State),
    ((actionDrop s p e lock slot op r { wv := some i }).vAt p i (slot / 4 + 1)).poison = true) ∧
  (∀ (p e c slot i : Nat) (u : Use) (s : State), i ∈ u.rv → (s.vAt p i c).poison = true → s.dropReason p e c slot u = some 1) ∧
  (∀ (w : BusWord) (r : List BusWord) (s : State), (s.bus = [] → exec .stateBusDelivery s = .next (after s s)) ∧
    (s.bus = w :: r →
      (w.due < (s.elapsed + 1) * 200000 ∨ (w.due = (s.elapsed + 1) * 200000 ∧ 199999 ≤ s.ofs) → exec .stateBusDelivery s = .next (after s
        (let t := s.toOfs (w.due - s.elapsed * 200000)
         busApply (({ t with bus := r } : State).count 0x21 w.quad 1) w.kind w.index w.value))) ∧
      ((s.elapsed + 1) * 200000 < w.due ∨ (w.due = (s.elapsed + 1) * 200000 ∧ s.ofs < 199999) →
        exec .stateBusDelivery s = .next (after s s))))

/-- ENGINE_COMMIT in a device that is not released changes nothing; else it moves time to offset 199,000, notes the failures
given that no action met (log entry 78), commits every running engine, whose ENG_DIRTY alone shows a count, and releases the
held records of engines that have not failed in engine order. SPARE_TAKEOVER at offset 0 with an engine due makes the spare of
its quadrant, unless that has failed, act for it: the engine shows FAILED, the spare RUNNING, ACTING, whom it acts for and that
engine's BANK; a spare that has failed takes nothing over (log entry 110); with none due nothing changes. TAKEOVER answers
E_LIFECYCLE, E_FORMAT, E_IN_USE in that order, else OK, and the engine is due; a waiting result makes it ignored. LOCKSTEP_TEST
records a comparison that failed in a running test at once, and on a standby that tests it puts a free spare into LOCKSTEP on
the next engine every 8,000 frames; else it changes nothing more. (R241, R242, R253, R254, R255, R256, R257, R268) -/
def Obligations.EngineCommitAndTakeover : Prop :=
  (∀ (l : List (Nat × Nat)) (s : State), (∀ x ∈ l, x.1 < 68) →
    (s.released = false → exec (.engineCommit l) s = .next (after s s)) ∧
    (s.released = true → ∃ t : State, exec (.engineCommit l) s = .next (after s t) ∧
      (l = [] → s.held = [] → s.img = none → t = { (s.toOfs 199000).running64.foldl commitEng (dirtyClear (s.toOfs 199000)) with
        groupsChk := s.groups, held := [], failBack := [] }) ∧
      (s.clk = true → s.ofs ≤ 199000 → t.ofs = 199000) ∧ t.held = [])) ∧
  (∀ (e : Nat) (s : State), commitEng s e = { s.wr (Reg.ENG_DIRTY (s.physical e)) (min (s.eng e).dirty.length 8192) with
    engs := tabSet {} s.engs e { s.eng e with chk := (s.eng e).smem, dirty := [] } }) ∧
  (∀ (q : Nat) (s : State), q < 4 →
    ((∀ k, k < 16 → (s.eng (16 * q + k)).due = false) → exec (.spareTakeover q) s = .next (after s s)) ∧
    (s.ofs ≠ 0 → exec (.spareTakeover q) s = .next (after s s)) ∧
    (∀ e, ((List.range 16).map (16 * q + ·)).find? (fun e => (s.eng e).due) = some e → s.ofs = 0 → s.engSt (64 + q) ≠ 2 → Tab.wf regReset s.regs = true →
      ∃ t : State, exec (.spareTakeover q) s = .next (after s t) ∧ t.engSt e = 2 ∧ t.actsFor q e = true ∧
        t.bit Reg.ENG_C_STAT q = true ∧ t.flag (Reg.ENG_STAT (64 + q)) F.ENG_STAT_BANK = s.flag (Reg.ENG_STAT e) F.ENG_STAT_BANK ∧ t.flag Reg.ENG_C_EVT F.ENG_C_EVT_TAKEOVER = true ∧ t.flag (Reg.ENG_EVT e) F.ENG_EVT_TAKEOVER = true ∧
        t = { s with regs := t.regs, engs := t.engs }) ∧
    (∀ e, ((List.range 16).map (16 * q + ·)).find? (fun e => (s.eng e).due) = some e → s.ofs = 0 → s.engSt (64 + q) = 2 →
      exec (.spareTakeover q) s = .next (after s (if s.engSt e = 2 then noSpare (s.updEng e fun x => { x with due := false }) q
        else s.updEng e fun x => { x with due := false })))) ∧
  (∀ (e : Nat) (s : State), e < 128 → s.csrAnswers Reg.ENG_CMD = true →
    (s.valid Reg.ENG_CMD_RES = true → exec (.takeover e) s = .next (after s (s.evt Reg.ENG_C_EVT F.ENG_C_EVT_CMD_IGNORED))) ∧
    (s.valid Reg.ENG_CMD_RES = false →
      (s.inReturn = true → exec (.takeover e) s = .next (after s (s.putRes Reg.ENG_CMD_RES eLIFE 0))) ∧
      (s.inReturn = false →
        (64 ≤ e ∨ s.fuses.eng e = false → exec (.takeover e) s = .next (after s (s.putRes Reg.ENG_CMD_RES eFORMAT 0))) ∧
        (e < 64 → s.fuses.eng e = true →
          (s.engSt e ≠ 1 ∨ s.spareFree (engQuad e) = false → exec (.takeover e) s = .next (after s (s.putRes Reg.ENG_CMD_RES eINUSE 0))) ∧
          (s.engSt e = 1 → s.spareFree (engQuad e) = true → exec (.takeover e) s = .next (after s
            ((s.putRes Reg.ENG_CMD_RES cOK 0).updEng e fun x => { x with due := true }))))))) ∧
  (∀ (q : Nat) (d : Bool) (s : State), q < 4 →
    let u := if d = true ∧ s.engSt (64 + q) = 3 then (s.evt Reg.MATE_EVT F.MATE_EVT_LOCKSTEP_ERR).updMate fun m =>
      { m with lockstepAt := some s.elapsed } else s
    (s.role ≠ roleSTANDBY ∨ s.flag Reg.MATE_CTRL F.MATE_CTRL_SELFTEST = false ∨ s.ofs ≠ 0 ∨ s.released = false ∨ s.spareFree q = false ∨
      (∃ t, (s.eng (64 + q)).testAt = some t ∧ s.elapsed < t + 8000) → exec (.lockstepTest q d) s = .next (after s u)) ∧
    (s.role = roleSTANDBY → s.flag Reg.MATE_CTRL F.MATE_CTRL_SELFTEST = true → s.ofs = 0 → s.released = true → s.spareFree q = true →
      (s.engSt (64 + q) = 0 → (s.eng (64 + q)).testAt = none → exec (.lockstepTest q d) s = .next (after s
        ((setEngSt s (64 + q) 3 0).updEng (64 + q) fun x => { x with test := 16 * q, testAt := some s.elapsed, live := true }))) ∧
      (∀ t, s.engSt (64 + q) = 3 → (s.eng (64 + q)).testAt = some t → t + 8000 ≤ s.elapsed →
        exec (.lockstepTest q d) s = .next (after s ((setEngSt u (64 + q) 3 0).updEng (64 + q) fun x =>
            { x with test := 16 * q + ((s.eng (64 + q)).test + 1) % 16, testAt := some s.elapsed, live := true })))))

/-- SNAP and PMON_SNAP with no result waiting, pending or due ask for a capture, else they latch that they were ignored;
TD_CAPTURE and PMON_SNAPSHOT at offset 0 answer one that is due with OK and FN, copying the engines' four counters or all 256
PMON counters (of one whose source has just changed, what the old source counted), and nothing is due any more; without one they
change nothing. PMON_SEL_WRITE stores the selection; PMON_SOURCE_CHANGE at offset 0 shows the old count in PMON_LAST and counts
the new source from 0, the rest of that cycle still counting the old one; at another offset, or for an unchanged source, it
changes nothing. FREEZE stores its bit. (R263, R264, R265, R266) -/
def Obligations.CountersAndCaptures : Prop :=
  (∀ s : State,
    (s.csrAnswers Reg.ENG_TD_CMD = true →
      (s.valid Reg.ENG_TD_RES = false → s.isPending Reg.ENG_TD_RES = false → s.tdDue = false →
        exec .snap s = .next (after s { s with tdDue := true })) ∧
      (s.valid Reg.ENG_TD_RES = true ∨ s.isPending Reg.ENG_TD_RES = true ∨ s.tdDue = true →
        exec .snap s = .next (after s (s.evt Reg.ENG_C_EVT F.ENG_C_EVT_TD_IGNORED)))) ∧
    (s.csrAnswers Reg.PMON_SNAP_CMD = true →
      (s.valid Reg.PMON_SNAP_RES = false → s.isPending Reg.PMON_SNAP_RES = false → s.pmonDue = false →
        exec .pmonSnap s = .next (after s { s with pmonDue := true })) ∧
      (s.valid Reg.PMON_SNAP_RES = true ∨ s.isPending Reg.PMON_SNAP_RES = true ∨ s.pmonDue = true →
        exec .pmonSnap s = .next (after s (s.evt Reg.PMON_EVT F.PMON_EVT_SNAP_IGNORED)))) ∧
    (s.tdDue = false ∨ s.ofs ≠ 0 → exec .tdCapture s = .next (after s s)) ∧
    (s.pmonDue = false ∨ s.ofs ≠ 0 → exec .pmonSnapshot s = .next (after s s)) ∧
    (s.ofs = 0 → Tab.wf regReset s.regs = true →
      (s.tdDue = true → ∃ t : State, exec .tdCapture s = .next (after s t) ∧ t.tdDue = false ∧ t.valid Reg.ENG_TD_RES = true ∧
        t.rd48 Reg.ENG_TD_FN_LO = s.fnN ∧ (∀ e i, e < 68 → i < 8 → t.rd (Reg.ENG_TD_CAP e i) = s.rd (Reg.ENG_RETIRED_LO e + 4 * i)) ∧
        t = { s with regs := t.regs, tdDue := false }) ∧
      (s.pmonDue = true → ∃ t : State, exec .pmonSnapshot s = .next (after s t) ∧ t.pmonDue = false ∧ t.valid Reg.PMON_SNAP_RES = true ∧
        t.rd48 Reg.PMON_SNAP_FN_LO = s.fnN ∧ (∀ n, n < 256 → t.rdPair (Reg.PMON_SNAPV_LO n) =
          s.rdPair (if s.pmonOld.any (·.1 == n) then Reg.PMON_LAST_LO n else Reg.PMON_CNT_LO n)) ∧
        t = { s with regs := t.regs, pmonDue := false }))) ∧
  (∀ (n : Nat) (d : Word) (s : State), n < 256 →
    (s.csrAnswers (Reg.PMON_SEL n) = true → exec (.pmonSelWrite n d) s = .next (after s (s.wr (Reg.PMON_SEL n) (d.toNat % 2 ^ 24)))) ∧
    (s.csrAnswers Reg.PMON_CTRL = true → exec (.freeze d) s = .next (after s (s.wr Reg.PMON_CTRL (d.toNat % 2)))) ∧
    (s.ofs ≠ 0 ∨ tabGet 0 s.pmonSel n = Tab.get regReset s.regs (Reg.PMON_SEL n) → exec (.pmonSourceChange n) s = .next (after s s)) ∧
    (s.ofs = 0 → tabGet 0 s.pmonSel n ≠ Tab.get regReset s.regs (Reg.PMON_SEL n) → Tab.wf regReset s.regs = true →
      ∃ t : State, exec (.pmonSourceChange n) s = .next (after s t) ∧ t.rdPair (Reg.PMON_LAST_LO n) = s.rdPair (Reg.PMON_CNT_LO n) ∧
        t.rdPair (Reg.PMON_CNT_LO n) = 0 ∧ t.pmonSel = tabSet 0 s.pmonSel n (Tab.get regReset s.regs (Reg.PMON_SEL n)) ∧
        t = { s with regs := t.regs, pmonSel := t.pmonSel, pmonOld := s.pmonOld ++ [(n, tabGet 0 s.pmonSel n)] }))

/-- While a channel's result waits, or in a state that does not accept the command, GO, STOP and RESET only latch
DMA_EVT.CMD_IGNORED. GO of an idle channel sets HOPS to 0 and asks the host for the 32 bytes of the descriptor at DMA_CH_HEAD,
the channel running; a misaligned head, or one outside the host window, halts it with DESC_INVALID or WINDOW_VIOLATION. STOP of
a running channel makes it stop (4); RESET of a halted one discards its buffer and reads and makes it idle, with QUEUE 0. A
write of DMA_CH_CFG, TMO, HEAD or HWIN is that register's write (R11) in an idle or halted channel; in a running or stopping one
it only latches CFG_IGNORED; of another register of the channel it has no effect here. (R307, R309, R319) -/
def Obligations.DmaChannelCommands : Prop :=
  (∀ (c : Nat) (s : State), c < 64 → s.csrAnswers (Reg.DMA_CH_CMD c) = true →
    (s.valid (Reg.DMA_CH_RES c) = true ∨ s.chanSt c ≠ 0 → exec (.go c) s = .next (after s (s.evt Reg.DMA_EVT F.DMA_EVT_CMD_IGNORED))) ∧
    (s.valid (Reg.DMA_CH_RES c) = true ∨ s.chanSt c ≠ 1 → exec (.stop c) s = .next (after s (s.evt Reg.DMA_EVT F.DMA_EVT_CMD_IGNORED))) ∧
    (s.valid (Reg.DMA_CH_RES c) = true ∨ s.chanSt c ≠ 3 → exec (.reset c) s = .next (after s (s.evt Reg.DMA_EVT F.DMA_EVT_CMD_IGNORED))) ∧
    (s.valid (Reg.DMA_CH_RES c) = false →
      (s.chanSt c = 1 → exec (.stop c) s = .next (after s (s.setFld (Reg.DMA_CH_STAT c) F.DMA_CH_STAT_STATE 4))) ∧
      (s.chanSt c = 3 → exec (.reset c) s = .next (after s (((s.setFld (Reg.DMA_CH_STAT c) F.DMA_CH_STAT_STATE 0).setFld (Reg.DMA_CH_STAT c) F.DMA_CH_STAT_QUEUE 0).updChan c Chan.clear))) ∧
      (s.chanSt c = 0 → Tab.wf regReset s.regs = true → ∃ t : State, exec (.go c) s = .next (after s t) ∧
        (s.rdPair (Reg.DMA_CH_HEAD_LO c) % 32 = 0 → s.inHwin c (s.rdPair (Reg.DMA_CH_HEAD_LO c)) 32 = true →
          t = { (s.updChan c Chan.clear).updChan c (fun x => { x with fetching := some (s.rdPair (Reg.DMA_CH_HEAD_LO c), s.now) }) with
            regs := t.regs, sent := s.sent ++ [.hostRead c (s.rdPair (Reg.DMA_CH_HEAD_LO c)) 32] } ∧
          t.chanSt c = 1 ∧ t.fld (Reg.DMA_CH_STAT c) F.DMA_CH_STAT_HOPS = 0 ∧ ∀ b, b ≠ Reg.DMA_CH_STAT c → t.rd b = s.rd b) ∧
        (s.rdPair (Reg.DMA_CH_HEAD_LO c) % 32 ≠ 0 ∨ s.inHwin c (s.rdPair (Reg.DMA_CH_HEAD_LO c)) 32 = false →
          t.chanSt c = 3 ∧ t.flag Reg.DMA_EVT F.DMA_EVT_HALT = true ∧ t.valid (Reg.DMA_CH_RES c) = true ∧
          bits (t.rd (Reg.DMA_CH_RES c)) 0 8 = (if s.rdPair (Reg.DMA_CH_HEAD_LO c) % 32 ≠ 0 then 0x20 else 0x21) ∧
          t = { s with regs := t.regs, chans := t.chans, sent := t.sent, msixPend := t.msixPend })))) ∧
  (∀ (c reg : Nat) (d : Word) (s : State), c < 64 → reg < 64 → s.csrAnswers (Reg.DMA_CH_STAT c) = true →
    (reg ∉ [0x04, 0x08, 0x10, 0x14, 0x2C, 0x30, 0x34] → exec (.dmaConfigWrite c reg d) s = .next (after s s)) ∧
    (reg ∈ [0x04, 0x08, 0x10, 0x14, 0x2C, 0x30, 0x34] →
      (s.chanSt c = 1 ∨ s.chanSt c = 4 → exec (.dmaConfigWrite c reg d) s = .next (after s (s.evt Reg.DMA_EVT F.DMA_EVT_CFG_IGNORED))) ∧
      (s.chanSt c ≠ 1 → s.chanSt c ≠ 4 → exec (.dmaConfigWrite c reg d) s = .next (after s (regWrite s (Reg.DMA_CH_STAT c + reg) d)))))

/-- A descriptor that arrives is taken with its code from the checks of R309, CUR holds its address and HOPS counts it; a fetch
that fails halts the channel with TARGET_ERROR. A descriptor that is due to end sends its 4-byte status (code, bytes moved) to
byte 28 of itself; then a code other than OK and DOMAIN_OFF halts the channel with that code; with NEXT 0, or stopping, the
chain ends with OK and the channel is idle; at the hop limit it halts with CHAIN_LIMIT; else the next descriptor is asked for. A
fetch or a wanted read older than max(1600, TMO) cycles times out. A completion of the oldest read adds its bytes to the buffer
when they are wanted and is discarded when not; an error gives the descriptor TARGET_ERROR. Without a fetch, a due end, a late
read or a read they change nothing. (R307, R308, R309, R310, R311, R312) -/
def Obligations.DmaDescriptors : Prop :=
  (∀ (c : Nat) (b : List Byte) (e : Bool) (s : State), c < 64 → (e = true ∨ b.length = 32) →
    ((s.chan c).fetching = none → exec (.descriptorFetch c b e) s = .next (after s s)) ∧
    (∀ x, (s.chan c).fetching = some x → Tab.wf regReset s.regs = true → Tab.wf (fun _ => ({} : Chan)) s.chans = true →
      (e = true → exec (.descriptorFetch c b e) s = .next (after s (chanHalt (s.updChan c fun y => { y with fetching := none }) c 0x25))) ∧
      (e = false → ∃ t : State, exec (.descriptorFetch c b e) s = .next (after s t) ∧
        t = { s with regs := t.regs, chans := t.chans, sent := t.sent } ∧ t.rdPair (Reg.DMA_CH_CUR_LO c) = x.1 % 2 ^ 64 ∧
        t.fld (Reg.DMA_CH_STAT c) F.DMA_CH_STAT_HOPS = (s.fld (Reg.DMA_CH_STAT c) F.DMA_CH_STAT_HOPS + 1) % 65536 ∧
        (t.chan c).fetching = none ∧ (t.chan c).desc = some (readDesc x.1 b) ∧ (t.chan c).moved = 0 ∧ (t.chan c).buf = [] ∧
        (t.chan c).code = ({ t with chans := s.chans } : State).descFault c b (readDesc x.1 b)))) ∧
  (∀ (c : Nat) (s : State), c < 64 →
    (s.descDue c = none → exec (.descriptorEnd c) s = .next (after s s)) ∧
    (∀ d code, (s.chan c).desc = some d → s.descDue c = some code → code < 256 → Tab.wf regReset s.regs = true →
      ∃ t : State, exec (.descriptorEnd c) s = .next (after s t) ∧
        s.sent ++ [.hostWrite (d.at_ + 28) (byte code :: leBytes (s.chan c).moved 3)] <+: t.sent ∧
        t = { s with regs := t.regs, chans := t.chans, sent := t.sent, msixPend := t.msixPend } ∧
        (code ≠ 0 → code ≠ 0x24 → t.chanSt c = 3 ∧ t.valid (Reg.DMA_CH_RES c) = true ∧ bits (t.rd (Reg.DMA_CH_RES c)) 0 8 = code ∧
          t.flag Reg.DMA_EVT F.DMA_EVT_HALT = true) ∧
        (code = 0 ∨ code = 0x24 →
          (s.chanSt c = 4 ∨ d.next = 0 → t.chanSt c = 0 ∧ t.valid (Reg.DMA_CH_RES c) = true ∧ bits (t.rd (Reg.DMA_CH_RES c)) 0 8 = 0) ∧
          (s.chanSt c ≠ 4 → d.next ≠ 0 →
            (max 1 (s.fld (Reg.DMA_CH_CFG c) F.DMA_CH_CFG_HOP_LIMIT) ≤ s.fld (Reg.DMA_CH_STAT c) F.DMA_CH_STAT_HOPS →
              t.chanSt c = 3 ∧ t.valid (Reg.DMA_CH_RES c) = true ∧ bits (t.rd (Reg.DMA_CH_RES c)) 0 8 = 0x23) ∧
            (s.fld (Reg.DMA_CH_STAT c) F.DMA_CH_STAT_HOPS < max 1 (s.fld (Reg.DMA_CH_CFG c) F.DMA_CH_CFG_HOP_LIMIT) →
              d.next % 32 = 0 → s.inHwin c d.next 32 = true →
              t.chanSt c = s.chanSt c ∧ [Sent.hostRead c d.next 32] <:+ t.sent ∧
              (Tab.wf (fun _ => ({} : Chan)) s.chans = true → (t.chan c).fetching = some (d.next, s.now))))))) ∧
  (∀ (c : Nat) (s : State), c < 64 →
    (∀ x, (s.chan c).fetching = some x →
      (x.2 + max 1600 (s.rd (Reg.DMA_CH_TMO c)) ≤ s.now → exec (.targetTimeout c) s = .next (after s
        (chanHalt (s.updChan c fun y => { y with fetching := none }) c 0x22))) ∧
      (s.now < x.2 + max 1600 (s.rd (Reg.DMA_CH_TMO c)) → exec (.targetTimeout c) s = .next (after s s))) ∧
    ((s.chan c).fetching = none → (s.chan c).code = none →
      ((∃ r ∈ (s.chan c).reads, r.live = true ∧ r.at_ + max 1600 (s.rd (Reg.DMA_CH_TMO c)) ≤ s.now) →
        exec (.targetTimeout c) s = .next (after s (s.updChan c fun y => { y with code := some 0x22 }))) ∧
      ((∀ r ∈ (s.chan c).reads, r.live = true → s.now < r.at_ + max 1600 (s.rd (Reg.DMA_CH_TMO c))) →
        exec (.targetTimeout c) s = .next (after s s)))) ∧
  (∀ (c : Nat) (b : List Byte) (s : State), c < 64 →
    ((s.chan c).reads = [] → ∀ e, exec (.hostReadCompletion c b e) s = .next (after s s)) ∧
    (∀ r rest, (s.chan c).reads = r :: rest →
      exec (.hostReadCompletion c b true) s = .next (after s (s.updChan c fun x =>
        { x with reads := rest, code := if r.live = true ∧ x.code = none then some 0x25 else x.code })) ∧
      (b.length = r.left → exec (.hostReadCompletion c b false) s = .next (after s (s.updChan c fun x =>
        { x with reads := rest, buf := x.buf ++ if r.live = true then b else [] }))) ∧
      (b.length < r.left → exec (.hostReadCompletion c b false) s = .next (after s (s.updChan c fun x =>
        { x with reads := { r with left := r.left - b.length } :: rest, buf := x.buf ++ if r.live = true then b else [] })))))

/-- The winner of a slot is ready, and its target serves the DMA engine then: no other master holds the target's path or is
chosen before it (R302, R303; served burst by burst, log entry 73); it is under its reservation when any ready channel is; no
ready channel of its pool has a higher priority, and one of equal priority has no lower number. Outside a slot, or a second time
in one, DMA_BEAT changes nothing; in a slot with no ready channel it changes only counters and who won. A beat of H2I to memory
writes exactly the bytes at the front of the channel's buffer; one of I2H from memory changes no memory and sends the bytes read
to their host addresses; both advance MOVED and the beats used by that beat; a beat that would reach the default target gives
the descriptor TARGET_ERROR (a beat meets no uncorrectable error, log entry 136). QUEUE_RUN_START begins a run of a TO_HOST
queue by HI, else by FLUSH, in a beat window and only when no run is in progress; else it changes nothing. (R302, R303, R304,
R313, R316) -/
def Obligations.DmaBeatsAndQueueRuns : Prop :=
  (∀ (s : State) (c : Nat), s.beatWinner ((List.range 64).filter s.beatReady) = some c →
    c < 64 ∧ s.beatReady c = true ∧ (∃ d, s.chanLive c = some d ∧ 0 < (s.beatSpan c d).2 ∧
      s.mayBegin (s.target (s.beatSpan c d).1) 1 0 = true) ∧
    (∀ x, x < 64 → s.beatReady x = true → (s.chan x).used < s.rd (Reg.DMA_CH_RSV x) → (s.chan c).used < s.rd (Reg.DMA_CH_RSV c)) ∧
    (∀ x, x < 64 → s.beatReady x = true → ((s.chan x).used < s.rd (Reg.DMA_CH_RSV x) ∨ s.rd (Reg.DMA_CH_RSV c) ≤ (s.chan c).used) →
      s.fld (Reg.DMA_CH_CFG x) F.DMA_CH_CFG_PRI ≤ s.fld (Reg.DMA_CH_CFG c) F.DMA_CH_CFG_PRI ∧
      (s.fld (Reg.DMA_CH_CFG x) F.DMA_CH_CFG_PRI = s.fld (Reg.DMA_CH_CFG c) F.DMA_CH_CFG_PRI → c ≤ x))) ∧
  (∀ s : State,
    (s.beatSlot = false ∨ s.beatAt = some s.now → exec .dmaBeat s = .next (after s s)) ∧
    (s.beatSlot = true → s.beatAt ≠ some s.now →
      (s.beatWinner ((List.range 64).filter s.beatReady) = none → ∃ t : State, exec .dmaBeat s = .next (after s t) ∧
        t = { s with beatAt := some s.now, regs := t.regs, chans := t.chans }) ∧
      (∀ c d, s.beatWinner ((List.range 64).filter s.beatReady) = some c → s.chanLive c = some d → d.op ≤ 2 →
        Tab.wf (fun _ => ({} : Chan)) s.chans = true → Tab.wf memDefault s.mem = true →
        ∃ t : State, exec .dmaBeat s = .next (after s t) ∧ (t.chan c).used = (s.chan c).used + 1 ∧ (t.chan c).won = true ∧
          ((∃ i, i < (s.beatSpan c d).2 ∧ s.answers ((d.int + (s.chan c).moved + i) / 4 * 4) = false) →
            (t.chan c).code = some 0x25 ∧ (t.chan c).moved = (s.chan c).moved ∧ t.mem = s.mem ∧ t.sent = s.sent) ∧
          (∀ k, inCsr (d.int + (s.chan c).moved) = false → s.memKey (d.int + (s.chan c).moved) = some k →
            (∀ i, i < (s.beatSpan c d).2 → s.answers ((d.int + (s.chan c).moved + i) / 4 * 4) = true) →
            (t.chan c).moved = (s.chan c).moved + (s.beatSpan c d).2 ∧
            (d.op = 1 → (t.chan c).buf = (s.chan c).buf.drop (s.beatSpan c d).2 ∧
              ∀ j, t.memAt j = if k ≤ j ∧ j < k + (s.beatSpan c d).2 then (s.chan c).buf.getD (j - k) 0 else s.memAt j) ∧
            (d.op = 2 → t.mem = s.mem ∧ t.sent = s.sent ++ [.hostWrite (d.host + (s.chan c).moved)
              ((List.range (s.beatSpan c d).2).map fun i => s.intByte (d.int + (s.chan c).moved + i))]))))) ∧
  (∀ (q : Nat) (s : State), q < 4096 →
    (s.qdef q = none → exec (.queueRunStart q) s = .next (after s s)) ∧
    (∀ d, s.qdef q = some d →
      (d.fromHost = true ∨ s.queRun q = true ∨ s.inWindow s.ofs = false → exec (.queueRunStart q) s = .next (after s s)) ∧
      (d.fromHost = false → s.queRun q = false → s.inWindow s.ofs = true →
        (d.hi ≤ (s.que q).fill → exec (.queueRunStart q) s = .next (after s (s.setQue q { s.que q with runHi := true }))) ∧
        ((s.que q).fill < d.hi → s.flushDue q d = true →
          exec (.queueRunStart q) s = .next (after s (s.setQue q { s.que q with runFl := true }))) ∧
        ((s.que q).fill < d.hi → s.flushDue q d = false → exec (.queueRunStart q) s = .next (after s s)))))
end

