-- ==== Sys2Proof/Laws/Engine.lean ====
section
/-! SUPPORT. Laws of the engine's arithmetic (R251). -/

namespace Sys2Proof.Machine

/-- INS puts the low `wm1` + 1 bits of `y` into `x` at bit `lsb` and keeps every other bit. -/
theorem insV_masks (x y : Dword) (lsb wm1 : Nat) (h : lsb + wm1 < 64) : insV x y lsb wm1 =
    (x &&& ~~~((BitVec.ofNat 64 (2 ^ (wm1 + 1) - 1)) <<< lsb)) ||| ((y &&& BitVec.ofNat 64 (2 ^ (wm1 + 1) - 1)) <<< lsb) := by
  have e : x.toNat - bits x.toNat lsb (wm1 + 1) * 2 ^ lsb + bits y.toNat 0 (wm1 + 1) * 2 ^ lsb =
      2 ^ lsb * (2 ^ (wm1 + 1) * (x.toNat / 2 ^ lsb / 2 ^ (wm1 + 1)) + y.toNat % 2 ^ (wm1 + 1)) + x.toNat % 2 ^ lsb := by
    have h1 := Nat.div_add_mod x.toNat (2 ^ lsb)
    have h2 := Nat.div_add_mod (x.toNat / 2 ^ lsb) (2 ^ (wm1 + 1))
    simp only [bits, Nat.pow_zero, Nat.div_one]
    generalize x.toNat / 2 ^ lsb = q at *
    generalize x.toNat % 2 ^ lsb = r at *
    generalize q % 2 ^ (wm1 + 1) = b at *
    generalize y.toNat % 2 ^ (wm1 + 1) = z at *
    generalize 2 ^ (wm1 + 1) * (q / 2 ^ (wm1 + 1)) = c at *
    have h3 : x.toNat = 2 ^ lsb * c + 2 ^ lsb * b + r := by rw [← h1, ← h2, Nat.mul_add]
    rw [h3, Nat.mul_add, Nat.mul_comm b, Nat.mul_comm z]
    omega
  apply BitVec.eq_of_getLsbD_eq
  intro k hk
  have hlo : x.toNat % 2 ^ lsb < 2 ^ lsb := Nat.mod_lt _ (Nat.two_pow_pos _)
  have hz : y.toNat % 2 ^ (wm1 + 1) < 2 ^ (wm1 + 1) := Nat.mod_lt _ (Nat.two_pow_pos _)
  unfold insV
  rw [e, BitVec.getLsbD_ofNat, Nat.testBit_two_pow_mul_add _ hlo]
  simp only [BitVec.getLsbD_or, BitVec.getLsbD_and, BitVec.getLsbD_not, BitVec.getLsbD_shiftLeft, BitVec.getLsbD_ofNat, Nat.testBit_two_pow_sub_one, hk, decide_true, Bool.true_and]
  by_cases h1 : k < lsb
  · simp [h1, BitVec.getLsbD, Nat.testBit_mod_two_pow]
  · have h64 : k - lsb < 64 := by omega
    simp only [h1, if_false, decide_false, Bool.not_false, Bool.true_and, h64, decide_true]
    rw [Nat.testBit_two_pow_mul_add _ hz]
    by_cases h2 : k - lsb < wm1 + 1
    · simp [h2, BitVec.getLsbD, Nat.testBit_mod_two_pow]
    · have e2 : lsb + (k - lsb) = k := by omega
      have e3 : (k - lsb) = (wm1 + 1) + (k - lsb - (wm1 + 1)) := by omega
      simp only [h2, if_false, decide_false, Bool.not_false, Bool.and_false, Bool.or_false, Bool.and_true]
      rw [Nat.testBit_div_two_pow, Nat.testBit_div_two_pow, BitVec.getLsbD]
      congr 1
      omega

end Sys2Proof.Machine
end

