-- ==== Sys2Proof/Laws/State.lean ====
section
/-! SUPPORT. One lemma per field per named update of State, so that no proof unfolds a record update. -/

namespace Sys2Proof.Machine

@[simp] theorem State.wr_pending (s : State) (a v : Nat) : (s.wr a v).pending = s.pending := rfl
@[simp] theorem State.wr_fuses (s : State) (a v : Nat) : (s.wr a v).fuses = s.fuses := rfl
@[simp] theorem State.wr_pins (s : State) (a v : Nat) : (s.wr a v).pins = s.pins := rfl
@[simp] theorem State.wr_clk (s : State) (a v : Nat) : (s.wr a v).clk = s.clk := rfl
@[simp] theorem State.wr_ofs (s : State) (a v : Nat) : (s.wr a v).ofs = s.ofs := rfl
@[simp] theorem State.wr_fn (s : State) (a v : Nat) : (s.wr a v).fn = s.fn := rfl
@[simp] theorem State.wr_elapsed (s : State) (a v : Nat) : (s.wr a v).elapsed = s.elapsed := rfl
@[simp] theorem State.wr_regs (s : State) (a v : Nat) : (s.wr a v).regs = Tab.set regReset s.regs a (BitVec.ofNat 32 v) := rfl
@[simp] theorem State.wr_snap (s : State) (a v : Nat) : (s.wr a v).snap = s.snap := rfl
@[simp] theorem State.wr_mem (s : State) (a v : Nat) : (s.wr a v).mem = s.mem := rfl
@[simp] theorem State.wr_nvm0 (s : State) (a v : Nat) : (s.wr a v).nvm0 = s.nvm0 := rfl
@[simp] theorem State.wr_nvm1 (s : State) (a v : Nat) : (s.wr a v).nvm1 = s.nvm1 := rfl
@[simp] theorem State.wr_boot (s : State) (a v : Nat) : (s.wr a v).boot = s.boot := rfl
@[simp] theorem State.wr_flash (s : State) (a v : Nat) : (s.wr a v).flash = s.flash := rfl
@[simp] theorem State.wr_img (s : State) (a v : Nat) : (s.wr a v).img = s.img := rfl
@[simp] theorem State.wr_back (s : State) (a v : Nat) : (s.wr a v).back = s.back := rfl
@[simp] theorem State.wr_stepAt (s : State) (a v : Nat) : (s.wr a v).stepAt = s.stepAt := rfl
@[simp] theorem State.wr_stepNew (s : State) (a v : Nat) : (s.wr a v).stepNew = s.stepNew := rfl
@[simp] theorem State.wr_stepCyc (s : State) (a v : Nat) : (s.wr a v).stepCyc = s.stepCyc := rfl
@[simp] theorem State.wr_slewMoved (s : State) (a v : Nat) : (s.wr a v).slewMoved = s.slewMoved := rfl
@[simp] theorem State.wr_ppsAge (s : State) (a v : Nat) : (s.wr a v).ppsAge = s.ppsAge := rfl
@[simp] theorem State.wr_ppsBad (s : State) (a v : Nat) : (s.wr a v).ppsBad = s.ppsBad := rfl
@[simp] theorem State.wr_tods (s : State) (a v : Nat) : (s.wr a v).tods = s.tods := rfl
@[simp] theorem State.wr_hostQ (s : State) (a v : Nat) : (s.wr a v).hostQ = s.hostQ := rfl
@[simp] theorem State.wr_hostResp (s : State) (a v : Nat) : (s.wr a v).hostResp = s.hostResp := rfl
@[simp] theorem State.wr_hostPos (s : State) (a v : Nat) : (s.wr a v).hostPos = s.hostPos := rfl
@[simp] theorem State.wr_hostAcc (s : State) (a v : Nat) : (s.wr a v).hostAcc = s.hostAcc := rfl
@[simp] theorem State.wr_hostSince (s : State) (a v : Nat) : (s.wr a v).hostSince = s.hostSince := rfl
@[simp] theorem State.wr_xbHold (s : State) (a v : Nat) : (s.wr a v).xbHold = s.xbHold := rfl
@[simp] theorem State.wr_xbLast (s : State) (a v : Nat) : (s.wr a v).xbLast = s.xbLast := rfl
@[simp] theorem State.wr_msix (s : State) (a v : Nat) : (s.wr a v).msix = s.msix := rfl
@[simp] theorem State.wr_msixPend (s : State) (a v : Nat) : (s.wr a v).msixPend = s.msixPend := rfl
@[simp] theorem State.wr_msixOn (s : State) (a v : Nat) : (s.wr a v).msixOn = s.msixOn := rfl
@[simp] theorem State.wr_msixMask (s : State) (a v : Nat) : (s.wr a v).msixMask = s.msixMask := rfl
@[simp] theorem State.wr_elsRun (s : State) (a v : Nat) : (s.wr a v).elsRun = s.elsRun := rfl
@[simp] theorem State.wr_lanes (s : State) (a v : Nat) : (s.wr a v).lanes = s.lanes := rfl
@[simp] theorem State.wr_spares (s : State) (a v : Nat) : (s.wr a v).spares = s.spares := rfl
@[simp] theorem State.wr_txSf (s : State) (a v : Nat) : (s.wr a v).txSf = s.txSf := rfl
@[simp] theorem State.wr_mateMods (s : State) (a v : Nat) : (s.wr a v).mateMods = s.mateMods := rfl
@[simp] theorem State.wr_txDark (s : State) (a v : Nat) : (s.wr a v).txDark = s.txDark := rfl
@[simp] theorem State.wr_txDarkWas (s : State) (a v : Nat) : (s.wr a v).txDarkWas = s.txDarkWas := rfl
@[simp] theorem State.wr_elsIn (s : State) (a v : Nat) : (s.wr a v).elsIn = s.elsIn := rfl
@[simp] theorem State.wr_elsCh (s : State) (a v : Nat) : (s.wr a v).elsCh = s.elsCh := rfl
@[simp] theorem State.wr_slices (s : State) (a v : Nat) : (s.wr a v).slices = s.slices := rfl
@[simp] theorem State.wr_oh (s : State) (a v : Nat) : (s.wr a v).oh = s.oh := rfl
@[simp] theorem State.wr_defs (s : State) (a v : Nat) : (s.wr a v).defs = s.defs := rfl
@[simp] theorem State.wr_fails (s : State) (a v : Nat) : (s.wr a v).fails = s.fails := rfl
@[simp] theorem State.wr_downSeen (s : State) (a v : Nat) : (s.wr a v).downSeen = s.downSeen := rfl
@[simp] theorem State.wr_smpDue (s : State) (a v : Nat) : (s.wr a v).smpDue = s.smpDue := rfl
@[simp] theorem State.wr_failSet (s : State) (a v : Nat) : (s.wr a v).failSet = s.failSet := rfl
@[simp] theorem State.wr_failClr (s : State) (a v : Nat) : (s.wr a v).failClr = s.failClr := rfl
@[simp] theorem State.wr_odus (s : State) (a v : Nat) : (s.wr a v).odus = s.odus := rfl
@[simp] theorem State.wr_gcc (s : State) (a v : Nat) : (s.wr a v).gcc = s.gcc := rfl
@[simp] theorem State.wr_pm (s : State) (a v : Nat) : (s.wr a v).pm = s.pm := rfl
@[simp] theorem State.wr_s15 (s : State) (a v : Nat) : (s.wr a v).s15 = s.s15 := rfl
@[simp] theorem State.wr_s24 (s : State) (a v : Nat) : (s.wr a v).s24 = s.s24 := rfl
@[simp] theorem State.wr_pmReq (s : State) (a v : Nat) : (s.wr a v).pmReq = s.pmReq := rfl
@[simp] theorem State.wr_leafReq (s : State) (a v : Nat) : (s.wr a v).leafReq = s.leafReq := rfl
@[simp] theorem State.wr_secStart (s : State) (a v : Nat) : (s.wr a v).secStart = s.secStart := rfl
@[simp] theorem State.wr_selW (s : State) (a v : Nat) : (s.wr a v).selW = s.selW := rfl
@[simp] theorem State.wr_selF (s : State) (a v : Nat) : (s.wr a v).selF = s.selF := rfl
@[simp] theorem State.wr_lselW (s : State) (a v : Nat) : (s.wr a v).lselW = s.lselW := rfl
@[simp] theorem State.wr_lselF (s : State) (a v : Nat) : (s.wr a v).lselF = s.lselF := rfl
@[simp] theorem State.wr_selOld (s : State) (a v : Nat) : (s.wr a v).selOld = s.selOld := rfl
@[simp] theorem State.wr_lselOld (s : State) (a v : Nat) : (s.wr a v).lselOld = s.lselOld := rfl
@[simp] theorem State.wr_trkOut (s : State) (a v : Nat) : (s.wr a v).trkOut = s.trkOut := rfl
@[simp] theorem State.wr_trkAis (s : State) (a v : Nat) : (s.wr a v).trkAis = s.trkAis := rfl
@[simp] theorem State.wr_trkErr (s : State) (a v : Nat) : (s.wr a v).trkErr = s.trkErr := rfl
@[simp] theorem State.wr_remaps (s : State) (a v : Nat) : (s.wr a v).remaps = s.remaps := rfl
@[simp] theorem State.wr_lckRx (s : State) (a v : Nat) : (s.wr a v).lckRx = s.lckRx := rfl
@[simp] theorem State.wr_lckTx (s : State) (a v : Nat) : (s.wr a v).lckTx = s.lckTx := rfl
@[simp] theorem State.wr_injectSw (s : State) (a v : Nat) : (s.wr a v).injectSw = s.injectSw := rfl
@[simp] theorem State.wr_grafts (s : State) (a v : Nat) : (s.wr a v).grafts = s.grafts := rfl
@[simp] theorem State.wr_drainDue (s : State) (a v : Nat) : (s.wr a v).drainDue = s.drainDue := rfl
@[simp] theorem State.wr_cars (s : State) (a v : Nat) : (s.wr a v).cars = s.cars := rfl
@[simp] theorem State.wr_leafW (s : State) (a v : Nat) : (s.wr a v).leafW = s.leafW := rfl
@[simp] theorem State.wr_leafR (s : State) (a v : Nat) : (s.wr a v).leafR = s.leafR := rfl
@[simp] theorem State.wr_leafRd (s : State) (a v : Nat) : (s.wr a v).leafRd = s.leafRd := rfl
@[simp] theorem State.wr_leafTx (s : State) (a v : Nat) : (s.wr a v).leafTx = s.leafTx := rfl
@[simp] theorem State.wr_carPre (s : State) (a v : Nat) : (s.wr a v).carPre = s.carPre := rfl
@[simp] theorem State.wr_gais (s : State) (a v : Nat) : (s.wr a v).gais = s.gais := rfl
@[simp] theorem State.wr_gscRx (s : State) (a v : Nat) : (s.wr a v).gscRx = s.gscRx := rfl
@[simp] theorem State.wr_gscTx (s : State) (a v : Nat) : (s.wr a v).gscTx = s.gscTx := rfl
@[simp] theorem State.wr_groups (s : State) (a v : Nat) : (s.wr a v).groups = s.groups := rfl
@[simp] theorem State.wr_groupsChk (s : State) (a v : Nat) : (s.wr a v).groupsChk = s.groupsChk := rfl
@[simp] theorem State.wr_apsTx (s : State) (a v : Nat) : (s.wr a v).apsTx = s.apsTx := rfl
@[simp] theorem State.wr_switchWas (s : State) (a v : Nat) : (s.wr a v).switchWas = s.switchWas := rfl
@[simp] theorem State.wr_newObjs (s : State) (a v : Nat) : (s.wr a v).newObjs = s.newObjs := rfl
@[simp] theorem State.wr_refs (s : State) (a v : Nat) : (s.wr a v).refs = s.refs := rfl
@[simp] theorem State.wr_tim (s : State) (a v : Nat) : (s.wr a v).tim = s.tim := rfl
@[simp] theorem State.wr_mate (s : State) (a v : Nat) : (s.wr a v).mate = s.mate := rfl
@[simp] theorem State.wr_engs (s : State) (a v : Nat) : (s.wr a v).engs = s.engs := rfl
@[simp] theorem State.wr_bus (s : State) (a v : Nat) : (s.wr a v).bus = s.bus := rfl
@[simp] theorem State.wr_held (s : State) (a v : Nat) : (s.wr a v).held = s.held := rfl
@[simp] theorem State.wr_failBack (s : State) (a v : Nat) : (s.wr a v).failBack = s.failBack := rfl
@[simp] theorem State.wr_tdDue (s : State) (a v : Nat) : (s.wr a v).tdDue = s.tdDue := rfl
@[simp] theorem State.wr_pmonSel (s : State) (a v : Nat) : (s.wr a v).pmonSel = s.pmonSel := rfl
@[simp] theorem State.wr_pmonOld (s : State) (a v : Nat) : (s.wr a v).pmonOld = s.pmonOld := rfl
@[simp] theorem State.wr_pmonFrozen (s : State) (a v : Nat) : (s.wr a v).pmonFrozen = s.pmonFrozen := rfl
@[simp] theorem State.wr_pmonWas (s : State) (a v : Nat) : (s.wr a v).pmonWas = s.pmonWas := rfl
@[simp] theorem State.wr_pmonDue (s : State) (a v : Nat) : (s.wr a v).pmonDue = s.pmonDue := rfl
@[simp] theorem State.wr_chans (s : State) (a v : Nat) : (s.wr a v).chans = s.chans := rfl
@[simp] theorem State.wr_beatAt (s : State) (a v : Nat) : (s.wr a v).beatAt = s.beatAt := rfl
@[simp] theorem State.wr_ques (s : State) (a v : Nat) : (s.wr a v).ques = s.ques := rfl
@[simp] theorem State.wr_pwr (s : State) (a v : Nat) : (s.wr a v).pwr = s.pwr := rfl
@[simp] theorem State.wr_legs (s : State) (a v : Nat) : (s.wr a v).legs = s.legs := rfl
@[simp] theorem State.wr_domAt (s : State) (a v : Nat) : (s.wr a v).domAt = s.domAt := rfl
@[simp] theorem State.wr_quiet (s : State) (a v : Nat) : (s.wr a v).quiet = s.quiet := rfl
@[simp] theorem State.wr_lcDue (s : State) (a v : Nat) : (s.wr a v).lcDue = s.lcDue := rfl
@[simp] theorem State.wr_dbg (s : State) (a v : Nat) : (s.wr a v).dbg = s.dbg := rfl
@[simp] theorem State.wr_telem (s : State) (a v : Nat) : (s.wr a v).telem = s.telem := rfl
@[simp] theorem State.wr_freeCount (s : State) (a v : Nat) : (s.wr a v).freeCount = s.freeCount := rfl
@[simp] theorem State.wr_sent (s : State) (a v : Nat) : (s.wr a v).sent = s.sent := rfl

@[simp] theorem State.send_pending (s : State) (x : Sent) : (s.send x).pending = s.pending := rfl
@[simp] theorem State.send_fuses (s : State) (x : Sent) : (s.send x).fuses = s.fuses := rfl
@[simp] theorem State.send_pins (s : State) (x : Sent) : (s.send x).pins = s.pins := rfl
@[simp] theorem State.send_clk (s : State) (x : Sent) : (s.send x).clk = s.clk := rfl
@[simp] theorem State.send_ofs (s : State) (x : Sent) : (s.send x).ofs = s.ofs := rfl
@[simp] theorem State.send_fn (s : State) (x : Sent) : (s.send x).fn = s.fn := rfl
@[simp] theorem State.send_elapsed (s : State) (x : Sent) : (s.send x).elapsed = s.elapsed := rfl
@[simp] theorem State.send_regs (s : State) (x : Sent) : (s.send x).regs = s.regs := rfl
@[simp] theorem State.send_snap (s : State) (x : Sent) : (s.send x).snap = s.snap := rfl
@[simp] theorem State.send_mem (s : State) (x : Sent) : (s.send x).mem = s.mem := rfl
@[simp] theorem State.send_nvm0 (s : State) (x : Sent) : (s.send x).nvm0 = s.nvm0 := rfl
@[simp] theorem State.send_nvm1 (s : State) (x : Sent) : (s.send x).nvm1 = s.nvm1 := rfl
@[simp] theorem State.send_boot (s : State) (x : Sent) : (s.send x).boot = s.boot := rfl
@[simp] theorem State.send_flash (s : State) (x : Sent) : (s.send x).flash = s.flash := rfl
@[simp] theorem State.send_img (s : State) (x : Sent) : (s.send x).img = s.img := rfl
@[simp] theorem State.send_back (s : State) (x : Sent) : (s.send x).back = s.back := rfl
@[simp] theorem State.send_stepAt (s : State) (x : Sent) : (s.send x).stepAt = s.stepAt := rfl
@[simp] theorem State.send_stepNew (s : State) (x : Sent) : (s.send x).stepNew = s.stepNew := rfl
@[simp] theorem State.send_stepCyc (s : State) (x : Sent) : (s.send x).stepCyc = s.stepCyc := rfl
@[simp] theorem State.send_slewMoved (s : State) (x : Sent) : (s.send x).slewMoved = s.slewMoved := rfl
@[simp] theorem State.send_ppsAge (s : State) (x : Sent) : (s.send x).ppsAge = s.ppsAge := rfl
@[simp] theorem State.send_ppsBad (s : State) (x : Sent) : (s.send x).ppsBad = s.ppsBad := rfl
@[simp] theorem State.send_tods (s : State) (x : Sent) : (s.send x).tods = s.tods := rfl
@[simp] theorem State.send_hostQ (s : State) (x : Sent) : (s.send x).hostQ = s.hostQ := rfl
@[simp] theorem State.send_hostResp (s : State) (x : Sent) : (s.send x).hostResp = s.hostResp := rfl
@[simp] theorem State.send_hostPos (s : State) (x : Sent) : (s.send x).hostPos = s.hostPos := rfl
@[simp] theorem State.send_hostAcc (s : State) (x : Sent) : (s.send x).hostAcc = s.hostAcc := rfl
@[simp] theorem State.send_hostSince (s : State) (x : Sent) : (s.send x).hostSince = s.hostSince := rfl
@[simp] theorem State.send_xbHold (s : State) (x : Sent) : (s.send x).xbHold = s.xbHold := rfl
@[simp] theorem State.send_xbLast (s : State) (x : Sent) : (s.send x).xbLast = s.xbLast := rfl
@[simp] theorem State.send_msix (s : State) (x : Sent) : (s.send x).msix = s.msix := rfl
@[simp] theorem State.send_msixPend (s : State) (x : Sent) : (s.send x).msixPend = s.msixPend := rfl
@[simp] theorem State.send_msixOn (s : State) (x : Sent) : (s.send x).msixOn = s.msixOn := rfl
@[simp] theorem State.send_msixMask (s : State) (x : Sent) : (s.send x).msixMask = s.msixMask := rfl
@[simp] theorem State.send_elsRun (s : State) (x : Sent) : (s.send x).elsRun = s.elsRun := rfl
@[simp] theorem State.send_lanes (s : State) (x : Sent) : (s.send x).lanes = s.lanes := rfl
@[simp] theorem State.send_spares (s : State) (x : Sent) : (s.send x).spares = s.spares := rfl
@[simp] theorem State.send_txSf (s : State) (x : Sent) : (s.send x).txSf = s.txSf := rfl
@[simp] theorem State.send_mateMods (s : State) (x : Sent) : (s.send x).mateMods = s.mateMods := rfl
@[simp] theorem State.send_txDark (s : State) (x : Sent) : (s.send x).txDark = s.txDark := rfl
@[simp] theorem State.send_txDarkWas (s : State) (x : Sent) : (s.send x).txDarkWas = s.txDarkWas := rfl
@[simp] theorem State.send_elsIn (s : State) (x : Sent) : (s.send x).elsIn = s.elsIn := rfl
@[simp] theorem State.send_elsCh (s : State) (x : Sent) : (s.send x).elsCh = s.elsCh := rfl
@[simp] theorem State.send_slices (s : State) (x : Sent) : (s.send x).slices = s.slices := rfl
@[simp] theorem State.send_oh (s : State) (x : Sent) : (s.send x).oh = s.oh := rfl
@[simp] theorem State.send_defs (s : State) (x : Sent) : (s.send x).defs = s.defs := rfl
@[simp] theorem State.send_fails (s : State) (x : Sent) : (s.send x).fails = s.fails := rfl
@[simp] theorem State.send_downSeen (s : State) (x : Sent) : (s.send x).downSeen = s.downSeen := rfl
@[simp] theorem State.send_smpDue (s : State) (x : Sent) : (s.send x).smpDue = s.smpDue := rfl
@[simp] theorem State.send_failSet (s : State) (x : Sent) : (s.send x).failSet = s.failSet := rfl
@[simp] theorem State.send_failClr (s : State) (x : Sent) : (s.send x).failClr = s.failClr := rfl
@[simp] theorem State.send_odus (s : State) (x : Sent) : (s.send x).odus = s.odus := rfl
@[simp] theorem State.send_gcc (s : State) (x : Sent) : (s.send x).gcc = s.gcc := rfl
@[simp] theorem State.send_pm (s : State) (x : Sent) : (s.send x).pm = s.pm := rfl
@[simp] theorem State.send_s15 (s : State) (x : Sent) : (s.send x).s15 = s.s15 := rfl
@[simp] theorem State.send_s24 (s : State) (x : Sent) : (s.send x).s24 = s.s24 := rfl
@[simp] theorem State.send_pmReq (s : State) (x : Sent) : (s.send x).pmReq = s.pmReq := rfl
@[simp] theorem State.send_leafReq (s : State) (x : Sent) : (s.send x).leafReq = s.leafReq := rfl
@[simp] theorem State.send_secStart (s : State) (x : Sent) : (s.send x).secStart = s.secStart := rfl
@[simp] theorem State.send_selW (s : State) (x : Sent) : (s.send x).selW = s.selW := rfl
@[simp] theorem State.send_selF (s : State) (x : Sent) : (s.send x).selF = s.selF := rfl
@[simp] theorem State.send_lselW (s : State) (x : Sent) : (s.send x).lselW = s.lselW := rfl
@[simp] theorem State.send_lselF (s : State) (x : Sent) : (s.send x).lselF = s.lselF := rfl
@[simp] theorem State.send_selOld (s : State) (x : Sent) : (s.send x).selOld = s.selOld := rfl
@[simp] theorem State.send_lselOld (s : State) (x : Sent) : (s.send x).lselOld = s.lselOld := rfl
@[simp] theorem State.send_trkOut (s : State) (x : Sent) : (s.send x).trkOut = s.trkOut := rfl
@[simp] theorem State.send_trkAis (s : State) (x : Sent) : (s.send x).trkAis = s.trkAis := rfl
@[simp] theorem State.send_trkErr (s : State) (x : Sent) : (s.send x).trkErr = s.trkErr := rfl
@[simp] theorem State.send_remaps (s : State) (x : Sent) : (s.send x).remaps = s.remaps := rfl
@[simp] theorem State.send_lckRx (s : State) (x : Sent) : (s.send x).lckRx = s.lckRx := rfl
@[simp] theorem State.send_lckTx (s : State) (x : Sent) : (s.send x).lckTx = s.lckTx := rfl
@[simp] theorem State.send_injectSw (s : State) (x : Sent) : (s.send x).injectSw = s.injectSw := rfl
@[simp] theorem State.send_grafts (s : State) (x : Sent) : (s.send x).grafts = s.grafts := rfl
@[simp] theorem State.send_drainDue (s : State) (x : Sent) : (s.send x).drainDue = s.drainDue := rfl
@[simp] theorem State.send_cars (s : State) (x : Sent) : (s.send x).cars = s.cars := rfl
@[simp] theorem State.send_leafW (s : State) (x : Sent) : (s.send x).leafW = s.leafW := rfl
@[simp] theorem State.send_leafR (s : State) (x : Sent) : (s.send x).leafR = s.leafR := rfl
@[simp] theorem State.send_leafRd (s : State) (x : Sent) : (s.send x).leafRd = s.leafRd := rfl
@[simp] theorem State.send_leafTx (s : State) (x : Sent) : (s.send x).leafTx = s.leafTx := rfl
@[simp] theorem State.send_carPre (s : State) (x : Sent) : (s.send x).carPre = s.carPre := rfl
@[simp] theorem State.send_gais (s : State) (x : Sent) : (s.send x).gais = s.gais := rfl
@[simp] theorem State.send_gscRx (s : State) (x : Sent) : (s.send x).gscRx = s.gscRx := rfl
@[simp] theorem State.send_gscTx (s : State) (x : Sent) : (s.send x).gscTx = s.gscTx := rfl
@[simp] theorem State.send_groups (s : State) (x : Sent) : (s.send x).groups = s.groups := rfl
@[simp] theorem State.send_groupsChk (s : State) (x : Sent) : (s.send x).groupsChk = s.groupsChk := rfl
@[simp] theorem State.send_apsTx (s : State) (x : Sent) : (s.send x).apsTx = s.apsTx := rfl
@[simp] theorem State.send_switchWas (s : State) (x : Sent) : (s.send x).switchWas = s.switchWas := rfl
@[simp] theorem State.send_newObjs (s : State) (x : Sent) : (s.send x).newObjs = s.newObjs := rfl
@[simp] theorem State.send_refs (s : State) (x : Sent) : (s.send x).refs = s.refs := rfl
@[simp] theorem State.send_tim (s : State) (x : Sent) : (s.send x).tim = s.tim := rfl
@[simp] theorem State.send_mate (s : State) (x : Sent) : (s.send x).mate = s.mate := rfl
@[simp] theorem State.send_engs (s : State) (x : Sent) : (s.send x).engs = s.engs := rfl
@[simp] theorem State.send_bus (s : State) (x : Sent) : (s.send x).bus = s.bus := rfl
@[simp] theorem State.send_held (s : State) (x : Sent) : (s.send x).held = s.held := rfl
@[simp] theorem State.send_failBack (s : State) (x : Sent) : (s.send x).failBack = s.failBack := rfl
@[simp] theorem State.send_tdDue (s : State) (x : Sent) : (s.send x).tdDue = s.tdDue := rfl
@[simp] theorem State.send_pmonSel (s : State) (x : Sent) : (s.send x).pmonSel = s.pmonSel := rfl
@[simp] theorem State.send_pmonOld (s : State) (x : Sent) : (s.send x).pmonOld = s.pmonOld := rfl
@[simp] theorem State.send_pmonFrozen (s : State) (x : Sent) : (s.send x).pmonFrozen = s.pmonFrozen := rfl
@[simp] theorem State.send_pmonWas (s : State) (x : Sent) : (s.send x).pmonWas = s.pmonWas := rfl
@[simp] theorem State.send_pmonDue (s : State) (x : Sent) : (s.send x).pmonDue = s.pmonDue := rfl
@[simp] theorem State.send_chans (s : State) (x : Sent) : (s.send x).chans = s.chans := rfl
@[simp] theorem State.send_beatAt (s : State) (x : Sent) : (s.send x).beatAt = s.beatAt := rfl
@[simp] theorem State.send_ques (s : State) (x : Sent) : (s.send x).ques = s.ques := rfl
@[simp] theorem State.send_pwr (s : State) (x : Sent) : (s.send x).pwr = s.pwr := rfl
@[simp] theorem State.send_legs (s : State) (x : Sent) : (s.send x).legs = s.legs := rfl
@[simp] theorem State.send_domAt (s : State) (x : Sent) : (s.send x).domAt = s.domAt := rfl
@[simp] theorem State.send_quiet (s : State) (x : Sent) : (s.send x).quiet = s.quiet := rfl
@[simp] theorem State.send_lcDue (s : State) (x : Sent) : (s.send x).lcDue = s.lcDue := rfl
@[simp] theorem State.send_dbg (s : State) (x : Sent) : (s.send x).dbg = s.dbg := rfl
@[simp] theorem State.send_telem (s : State) (x : Sent) : (s.send x).telem = s.telem := rfl
@[simp] theorem State.send_freeCount (s : State) (x : Sent) : (s.send x).freeCount = s.freeCount := rfl
@[simp] theorem State.send_sent (s : State) (x : Sent) : (s.send x).sent = s.sent ++ [x] := rfl

@[simp] theorem State.drawn_pending (s : State) : (s.drawn).pending = s.pending := rfl
@[simp] theorem State.drawn_fuses (s : State) : (s.drawn).fuses = s.fuses := rfl
@[simp] theorem State.drawn_pins (s : State) : (s.drawn).pins = s.pins := rfl
@[simp] theorem State.drawn_clk (s : State) : (s.drawn).clk = s.clk := rfl
@[simp] theorem State.drawn_ofs (s : State) : (s.drawn).ofs = s.ofs := rfl
@[simp] theorem State.drawn_fn (s : State) : (s.drawn).fn = s.fn := rfl
@[simp] theorem State.drawn_elapsed (s : State) : (s.drawn).elapsed = s.elapsed := rfl
@[simp] theorem State.drawn_regs (s : State) : (s.drawn).regs = s.regs := rfl
@[simp] theorem State.drawn_snap (s : State) : (s.drawn).snap = s.snap := rfl
@[simp] theorem State.drawn_mem (s : State) : (s.drawn).mem = s.mem := rfl
@[simp] theorem State.drawn_nvm0 (s : State) : (s.drawn).nvm0 = s.nvm0 := rfl
@[simp] theorem State.drawn_nvm1 (s : State) : (s.drawn).nvm1 = s.nvm1 := rfl
@[simp] theorem State.drawn_boot (s : State) : (s.drawn).boot = s.boot := rfl
@[simp] theorem State.drawn_flash (s : State) : (s.drawn).flash = s.flash := rfl
@[simp] theorem State.drawn_img (s : State) : (s.drawn).img = s.img := rfl
@[simp] theorem State.drawn_back (s : State) : (s.drawn).back = s.back := rfl
@[simp] theorem State.drawn_stepAt (s : State) : (s.drawn).stepAt = s.stepAt := rfl
@[simp] theorem State.drawn_stepNew (s : State) : (s.drawn).stepNew = s.stepNew := rfl
@[simp] theorem State.drawn_stepCyc (s : State) : (s.drawn).stepCyc = s.stepCyc := rfl
@[simp] theorem State.drawn_slewMoved (s : State) : (s.drawn).slewMoved = s.slewMoved := rfl
@[simp] theorem State.drawn_ppsAge (s : State) : (s.drawn).ppsAge = s.ppsAge := rfl
@[simp] theorem State.drawn_ppsBad (s : State) : (s.drawn).ppsBad = s.ppsBad := rfl
@[simp] theorem State.drawn_tods (s : State) : (s.drawn).tods = s.tods := rfl
@[simp] theorem State.drawn_hostQ (s : State) : (s.drawn).hostQ = s.hostQ := rfl
@[simp] theorem State.drawn_hostResp (s : State) : (s.drawn).hostResp = s.hostResp := rfl
@[simp] theorem State.drawn_hostPos (s : State) : (s.drawn).hostPos = s.hostPos := rfl
@[simp] theorem State.drawn_hostAcc (s : State) : (s.drawn).hostAcc = s.hostAcc := rfl
@[simp] theorem State.drawn_hostSince (s : State) : (s.drawn).hostSince = s.hostSince := rfl
@[simp] theorem State.drawn_xbHold (s : State) : (s.drawn).xbHold = s.xbHold := rfl
@[simp] theorem State.drawn_xbLast (s : State) : (s.drawn).xbLast = s.xbLast := rfl
@[simp] theorem State.drawn_msix (s : State) : (s.drawn).msix = s.msix := rfl
@[simp] theorem State.drawn_msixPend (s : State) : (s.drawn).msixPend = s.msixPend := rfl
@[simp] theorem State.drawn_msixOn (s : State) : (s.drawn).msixOn = s.msixOn := rfl
@[simp] theorem State.drawn_msixMask (s : State) : (s.drawn).msixMask = s.msixMask := rfl
@[simp] theorem State.drawn_elsRun (s : State) : (s.drawn).elsRun = s.elsRun := rfl
@[simp] theorem State.drawn_lanes (s : State) : (s.drawn).lanes = s.lanes := rfl
@[simp] theorem State.drawn_spares (s : State) : (s.drawn).spares = s.spares := rfl
@[simp] theorem State.drawn_txSf (s : State) : (s.drawn).txSf = s.txSf := rfl
@[simp] theorem State.drawn_mateMods (s : State) : (s.drawn).mateMods = s.mateMods := rfl
@[simp] theorem State.drawn_txDark (s : State) : (s.drawn).txDark = s.txDark := rfl
@[simp] theorem State.drawn_txDarkWas (s : State) : (s.drawn).txDarkWas = s.txDarkWas := rfl
@[simp] theorem State.drawn_elsIn (s : State) : (s.drawn).elsIn = s.elsIn := rfl
@[simp] theorem State.drawn_elsCh (s : State) : (s.drawn).elsCh = s.elsCh := rfl
@[simp] theorem State.drawn_slices (s : State) : (s.drawn).slices = s.slices := rfl
@[simp] theorem State.drawn_oh (s : State) : (s.drawn).oh = s.oh := rfl
@[simp] theorem State.drawn_defs (s : State) : (s.drawn).defs = s.defs := rfl
@[simp] theorem State.drawn_fails (s : State) : (s.drawn).fails = s.fails := rfl
@[simp] theorem State.drawn_downSeen (s : State) : (s.drawn).downSeen = s.downSeen := rfl
@[simp] theorem State.drawn_smpDue (s : State) : (s.drawn).smpDue = s.smpDue := rfl
@[simp] theorem State.drawn_failSet (s : State) : (s.drawn).failSet = s.failSet := rfl
@[simp] theorem State.drawn_failClr (s : State) : (s.drawn).failClr = s.failClr := rfl
@[simp] theorem State.drawn_odus (s : State) : (s.drawn).odus = s.odus := rfl
@[simp] theorem State.drawn_gcc (s : State) : (s.drawn).gcc = s.gcc := rfl
@[simp] theorem State.drawn_pm (s : State) : (s.drawn).pm = s.pm := rfl
@[simp] theorem State.drawn_s15 (s : State) : (s.drawn).s15 = s.s15 := rfl
@[simp] theorem State.drawn_s24 (s : State) : (s.drawn).s24 = s.s24 := rfl
@[simp] theorem State.drawn_pmReq (s : State) : (s.drawn).pmReq = s.pmReq := rfl
@[simp] theorem State.drawn_leafReq (s : State) : (s.drawn).leafReq = s.leafReq := rfl
@[simp] theorem State.drawn_secStart (s : State) : (s.drawn).secStart = s.secStart := rfl
@[simp] theorem State.drawn_selW (s : State) : (s.drawn).selW = s.selW := rfl
@[simp] theorem State.drawn_selF (s : State) : (s.drawn).selF = s.selF := rfl
@[simp] theorem State.drawn_lselW (s : State) : (s.drawn).lselW = s.lselW := rfl
@[simp] theorem State.drawn_lselF (s : State) : (s.drawn).lselF = s.lselF := rfl
@[simp] theorem State.drawn_selOld (s : State) : (s.drawn).selOld = s.selOld := rfl
@[simp] theorem State.drawn_lselOld (s : State) : (s.drawn).lselOld = s.lselOld := rfl
@[simp] theorem State.drawn_trkOut (s : State) : (s.drawn).trkOut = s.trkOut := rfl
@[simp] theorem State.drawn_trkAis (s : State) : (s.drawn).trkAis = s.trkAis := rfl
@[simp] theorem State.drawn_trkErr (s : State) : (s.drawn).trkErr = s.trkErr := rfl
@[simp] theorem State.drawn_remaps (s : State) : (s.drawn).remaps = s.remaps := rfl
@[simp] theorem State.drawn_lckRx (s : State) : (s.drawn).lckRx = s.lckRx := rfl
@[simp] theorem State.drawn_lckTx (s : State) : (s.drawn).lckTx = s.lckTx := rfl
@[simp] theorem State.drawn_injectSw (s : State) : (s.drawn).injectSw = s.injectSw := rfl
@[simp] theorem State.drawn_grafts (s : State) : (s.drawn).grafts = s.grafts := rfl
@[simp] theorem State.drawn_drainDue (s : State) : (s.drawn).drainDue = s.drainDue := rfl
@[simp] theorem State.drawn_cars (s : State) : (s.drawn).cars = s.cars := rfl
@[simp] theorem State.drawn_leafW (s : State) : (s.drawn).leafW = s.leafW := rfl
@[simp] theorem State.drawn_leafR (s : State) : (s.drawn).leafR = s.leafR := rfl
@[simp] theorem State.drawn_leafRd (s : State) : (s.drawn).leafRd = s.leafRd := rfl
@[simp] theorem State.drawn_leafTx (s : State) : (s.drawn).leafTx = s.leafTx := rfl
@[simp] theorem State.drawn_carPre (s : State) : (s.drawn).carPre = s.carPre := rfl
@[simp] theorem State.drawn_gais (s : State) : (s.drawn).gais = s.gais := rfl
@[simp] theorem State.drawn_gscRx (s : State) : (s.drawn).gscRx = s.gscRx := rfl
@[simp] theorem State.drawn_gscTx (s : State) : (s.drawn).gscTx = s.gscTx := rfl
@[simp] theorem State.drawn_groups (s : State) : (s.drawn).groups = s.groups := rfl
@[simp] theorem State.drawn_groupsChk (s : State) : (s.drawn).groupsChk = s.groupsChk := rfl
@[simp] theorem State.drawn_apsTx (s : State) : (s.drawn).apsTx = s.apsTx := rfl
@[simp] theorem State.drawn_switchWas (s : State) : (s.drawn).switchWas = s.switchWas := rfl
@[simp] theorem State.drawn_newObjs (s : State) : (s.drawn).newObjs = s.newObjs := rfl
@[simp] theorem State.drawn_refs (s : State) : (s.drawn).refs = s.refs := rfl
@[simp] theorem State.drawn_tim (s : State) : (s.drawn).tim = s.tim := rfl
@[simp] theorem State.drawn_mate (s : State) : (s.drawn).mate = s.mate := rfl
@[simp] theorem State.drawn_engs (s : State) : (s.drawn).engs = s.engs := rfl
@[simp] theorem State.drawn_bus (s : State) : (s.drawn).bus = s.bus := rfl
@[simp] theorem State.drawn_held (s : State) : (s.drawn).held = s.held := rfl
@[simp] theorem State.drawn_failBack (s : State) : (s.drawn).failBack = s.failBack := rfl
@[simp] theorem State.drawn_tdDue (s : State) : (s.drawn).tdDue = s.tdDue := rfl
@[simp] theorem State.drawn_pmonSel (s : State) : (s.drawn).pmonSel = s.pmonSel := rfl
@[simp] theorem State.drawn_pmonOld (s : State) : (s.drawn).pmonOld = s.pmonOld := rfl
@[simp] theorem State.drawn_pmonFrozen (s : State) : (s.drawn).pmonFrozen = s.pmonFrozen := rfl
@[simp] theorem State.drawn_pmonWas (s : State) : (s.drawn).pmonWas = s.pmonWas := rfl
@[simp] theorem State.drawn_pmonDue (s : State) : (s.drawn).pmonDue = s.pmonDue := rfl
@[simp] theorem State.drawn_chans (s : State) : (s.drawn).chans = s.chans := rfl
@[simp] theorem State.drawn_beatAt (s : State) : (s.drawn).beatAt = s.beatAt := rfl
@[simp] theorem State.drawn_ques (s : State) : (s.drawn).ques = s.ques := rfl
@[simp] theorem State.drawn_pwr (s : State) : (s.drawn).pwr = s.pwr := rfl
@[simp] theorem State.drawn_legs (s : State) : (s.drawn).legs = s.legs := rfl
@[simp] theorem State.drawn_domAt (s : State) : (s.drawn).domAt = s.domAt := rfl
@[simp] theorem State.drawn_quiet (s : State) : (s.drawn).quiet = s.quiet := rfl
@[simp] theorem State.drawn_lcDue (s : State) : (s.drawn).lcDue = s.lcDue := rfl
@[simp] theorem State.drawn_dbg (s : State) : (s.drawn).dbg = s.dbg := rfl
@[simp] theorem State.drawn_telem (s : State) : (s.drawn).telem = s.telem := rfl
@[simp] theorem State.drawn_freeCount (s : State) : (s.drawn).freeCount = s.freeCount + 1 := rfl
@[simp] theorem State.drawn_sent (s : State) : (s.drawn).sent = s.sent := rfl

@[simp] theorem State.memPut_pending (s : State) (k : Nat) (l : List Byte) : (s.memPut k l).pending = s.pending := rfl
@[simp] theorem State.memPut_fuses (s : State) (k : Nat) (l : List Byte) : (s.memPut k l).fuses = s.fuses := rfl
@[simp] theorem State.memPut_pins (s : State) (k : Nat) (l : List Byte) : (s.memPut k l).pins = s.pins := rfl
@[simp] theorem State.memPut_clk (s : State) (k : Nat) (l : List Byte) : (s.memPut k l).clk = s.clk := rfl
@[simp] theorem State.memPut_ofs (s : State) (k : Nat) (l : List Byte) : (s.memPut k l).ofs = s.ofs := rfl
@[simp] theorem State.memPut_fn (s : State) (k : Nat) (l : List Byte) : (s.memPut k l).fn = s.fn := rfl
@[simp] theorem State.memPut_elapsed (s : State) (k : Nat) (l : List Byte) : (s.memPut k l).elapsed = s.elapsed := rfl
@[simp] theorem State.memPut_regs (s : State) (k : Nat) (l : List Byte) : (s.memPut k l).regs = s.regs := rfl
@[simp] theorem State.memPut_snap (s : State) (k : Nat) (l : List Byte) : (s.memPut k l).snap = s.snap := rfl
@[simp] theorem State.memPut_mem (s : State) (k : Nat) (l : List Byte) : (s.memPut k l).mem = Tab.setRange memDefault s.mem k l := rfl
@[simp] theorem State.memPut_nvm0 (s : State) (k : Nat) (l : List Byte) : (s.memPut k l).nvm0 = s.nvm0 := rfl
@[simp] theorem State.memPut_nvm1 (s : State) (k : Nat) (l : List Byte) : (s.memPut k l).nvm1 = s.nvm1 := rfl
@[simp] theorem State.memPut_boot (s : State) (k : Nat) (l : List Byte) : (s.memPut k l).boot = s.boot := rfl
@[simp] theorem State.memPut_flash (s : State) (k : Nat) (l : List Byte) : (s.memPut k l).flash = s.flash := rfl
@[simp] theorem State.memPut_img (s : State) (k : Nat) (l : List Byte) : (s.memPut k l).img = s.img := rfl
@[simp] theorem State.memPut_back (s : State) (k : Nat) (l : List Byte) : (s.memPut k l).back = s.back := rfl
@[simp] theorem State.memPut_stepAt (s : State) (k : Nat) (l : List Byte) : (s.memPut k l).stepAt = s.stepAt := rfl
@[simp] theorem State.memPut_stepNew (s : State) (k : Nat) (l : List Byte) : (s.memPut k l).stepNew = s.stepNew := rfl
@[simp] theorem State.memPut_stepCyc (s : State) (k : Nat) (l : List Byte) : (s.memPut k l).stepCyc = s.stepCyc := rfl
@[simp] theorem State.memPut_slewMoved (s : State) (k : Nat) (l : List Byte) : (s.memPut k l).slewMoved = s.slewMoved := rfl
@[simp] theorem State.memPut_ppsAge (s : State) (k : Nat) (l : List Byte) : (s.memPut k l).ppsAge = s.ppsAge := rfl
@[simp] theorem State.memPut_ppsBad (s : State) (k : Nat) (l : List Byte) : (s.memPut k l).ppsBad = s.ppsBad := rfl
@[simp] theorem State.memPut_tods (s : State) (k : Nat) (l : List Byte) : (s.memPut k l).tods = s.tods := rfl
@[simp] theorem State.memPut_hostQ (s : State) (k : Nat) (l : List Byte) : (s.memPut k l).hostQ = s.hostQ := rfl
@[simp] theorem State.memPut_hostResp (s : State) (k : Nat) (l : List Byte) : (s.memPut k l).hostResp = s.hostResp := rfl
@[simp] theorem State.memPut_hostPos (s : State) (k : Nat) (l : List Byte) : (s.memPut k l).hostPos = s.hostPos := rfl
@[simp] theorem State.memPut_hostAcc (s : State) (k : Nat) (l : List Byte) : (s.memPut k l).hostAcc = s.hostAcc := rfl
@[simp] theorem State.memPut_hostSince (s : State) (k : Nat) (l : List Byte) : (s.memPut k l).hostSince = s.hostSince := rfl
@[simp] theorem State.memPut_xbHold (s : State) (k : Nat) (l : List Byte) : (s.memPut k l).xbHold = s.xbHold := rfl
@[simp] theorem State.memPut_xbLast (s : State) (k : Nat) (l : List Byte) : (s.memPut k l).xbLast = s.xbLast := rfl
@[simp] theorem State.memPut_msix (s : State) (k : Nat) (l : List Byte) : (s.memPut k l).msix = s.msix := rfl
@[simp] theorem State.memPut_msixPend (s : State) (k : Nat) (l : List Byte) : (s.memPut k l).msixPend = s.msixPend := rfl
@[simp] theorem State.memPut_msixOn (s : State) (k : Nat) (l : List Byte) : (s.memPut k l).msixOn = s.msixOn := rfl
@[simp] theorem State.memPut_msixMask (s : State) (k : Nat) (l : List Byte) : (s.memPut k l).msixMask = s.msixMask := rfl
@[simp] theorem State.memPut_elsRun (s : State) (k : Nat) (l : List Byte) : (s.memPut k l).elsRun = s.elsRun := rfl
@[simp] theorem State.memPut_lanes (s : State) (k : Nat) (l : List Byte) : (s.memPut k l).lanes = s.lanes := rfl
@[simp] theorem State.memPut_spares (s : State) (k : Nat) (l : List Byte) : (s.memPut k l).spares = s.spares := rfl
@[simp] theorem State.memPut_txSf (s : State) (k : Nat) (l : List Byte) : (s.memPut k l).txSf = s.txSf := rfl
@[simp] theorem State.memPut_mateMods (s : State) (k : Nat) (l : List Byte) : (s.memPut k l).mateMods = s.mateMods := rfl
@[simp] theorem State.memPut_txDark (s : State) (k : Nat) (l : List Byte) : (s.memPut k l).txDark = s.txDark := rfl
@[simp] theorem State.memPut_txDarkWas (s : State) (k : Nat) (l : List Byte) : (s.memPut k l).txDarkWas = s.txDarkWas := rfl
@[simp] theorem State.memPut_elsIn (s : State) (k : Nat) (l : List Byte) : (s.memPut k l).elsIn = s.elsIn := rfl
@[simp] theorem State.memPut_elsCh (s : State) (k : Nat) (l : List Byte) : (s.memPut k l).elsCh = s.elsCh := rfl
@[simp] theorem State.memPut_slices (s : State) (k : Nat) (l : List Byte) : (s.memPut k l).slices = s.slices := rfl
@[simp] theorem State.memPut_oh (s : State) (k : Nat) (l : List Byte) : (s.memPut k l).oh = s.oh := rfl
@[simp] theorem State.memPut_defs (s : State) (k : Nat) (l : List Byte) : (s.memPut k l).defs = s.defs := rfl
@[simp] theorem State.memPut_fails (s : State) (k : Nat) (l : List Byte) : (s.memPut k l).fails = s.fails := rfl
@[simp] theorem State.memPut_downSeen (s : State) (k : Nat) (l : List Byte) : (s.memPut k l).downSeen = s.downSeen := rfl
@[simp] theorem State.memPut_smpDue (s : State) (k : Nat) (l : List Byte) : (s.memPut k l).smpDue = s.smpDue := rfl
@[simp] theorem State.memPut_failSet (s : State) (k : Nat) (l : List Byte) : (s.memPut k l).failSet = s.failSet := rfl
@[simp] theorem State.memPut_failClr (s : State) (k : Nat) (l : List Byte) : (s.memPut k l).failClr = s.failClr := rfl
@[simp] theorem State.memPut_odus (s : State) (k : Nat) (l : List Byte) : (s.memPut k l).odus = s.odus := rfl
@[simp] theorem State.memPut_gcc (s : State) (k : Nat) (l : List Byte) : (s.memPut k l).gcc = s.gcc := rfl
@[simp] theorem State.memPut_pm (s : State) (k : Nat) (l : List Byte) : (s.memPut k l).pm = s.pm := rfl
@[simp] theorem State.memPut_s15 (s : State) (k : Nat) (l : List Byte) : (s.memPut k l).s15 = s.s15 := rfl
@[simp] theorem State.memPut_s24 (s : State) (k : Nat) (l : List Byte) : (s.memPut k l).s24 = s.s24 := rfl
@[simp] theorem State.memPut_pmReq (s : State) (k : Nat) (l : List Byte) : (s.memPut k l).pmReq = s.pmReq := rfl
@[simp] theorem State.memPut_leafReq (s : State) (k : Nat) (l : List Byte) : (s.memPut k l).leafReq = s.leafReq := rfl
@[simp] theorem State.memPut_secStart (s : State) (k : Nat) (l : List Byte) : (s.memPut k l).secStart = s.secStart := rfl
@[simp] theorem State.memPut_selW (s : State) (k : Nat) (l : List Byte) : (s.memPut k l).selW = s.selW := rfl
@[simp] theorem State.memPut_selF (s : State) (k : Nat) (l : List Byte) : (s.memPut k l).selF = s.selF := rfl
@[simp] theorem State.memPut_lselW (s : State) (k : Nat) (l : List Byte) : (s.memPut k l).lselW = s.lselW := rfl
@[simp] theorem State.memPut_lselF (s : State) (k : Nat) (l : List Byte) : (s.memPut k l).lselF = s.lselF := rfl
@[simp] theorem State.memPut_selOld (s : State) (k : Nat) (l : List Byte) : (s.memPut k l).selOld = s.selOld := rfl
@[simp] theorem State.memPut_lselOld (s : State) (k : Nat) (l : List Byte) : (s.memPut k l).lselOld = s.lselOld := rfl
@[simp] theorem State.memPut_trkOut (s : State) (k : Nat) (l : List Byte) : (s.memPut k l).trkOut = s.trkOut := rfl
@[simp] theorem State.memPut_trkAis (s : State) (k : Nat) (l : List Byte) : (s.memPut k l).trkAis = s.trkAis := rfl
@[simp] theorem State.memPut_trkErr (s : State) (k : Nat) (l : List Byte) : (s.memPut k l).trkErr = s.trkErr := rfl
@[simp] theorem State.memPut_remaps (s : State) (k : Nat) (l : List Byte) : (s.memPut k l).remaps = s.remaps := rfl
@[simp] theorem State.memPut_lckRx (s : State) (k : Nat) (l : List Byte) : (s.memPut k l).lckRx = s.lckRx := rfl
@[simp] theorem State.memPut_lckTx (s : State) (k : Nat) (l : List Byte) : (s.memPut k l).lckTx = s.lckTx := rfl
@[simp] theorem State.memPut_injectSw (s : State) (k : Nat) (l : List Byte) : (s.memPut k l).injectSw = s.injectSw := rfl
@[simp] theorem State.memPut_grafts (s : State) (k : Nat) (l : List Byte) : (s.memPut k l).grafts = s.grafts := rfl
@[simp] theorem State.memPut_drainDue (s : State) (k : Nat) (l : List Byte) : (s.memPut k l).drainDue = s.drainDue := rfl
@[simp] theorem State.memPut_cars (s : State) (k : Nat) (l : List Byte) : (s.memPut k l).cars = s.cars := rfl
@[simp] theorem State.memPut_leafW (s : State) (k : Nat) (l : List Byte) : (s.memPut k l).leafW = s.leafW := rfl
@[simp] theorem State.memPut_leafR (s : State) (k : Nat) (l : List Byte) : (s.memPut k l).leafR = s.leafR := rfl
@[simp] theorem State.memPut_leafRd (s : State) (k : Nat) (l : List Byte) : (s.memPut k l).leafRd = s.leafRd := rfl
@[simp] theorem State.memPut_leafTx (s : State) (k : Nat) (l : List Byte) : (s.memPut k l).leafTx = s.leafTx := rfl
@[simp] theorem State.memPut_carPre (s : State) (k : Nat) (l : List Byte) : (s.memPut k l).carPre = s.carPre := rfl
@[simp] theorem State.memPut_gais (s : State) (k : Nat) (l : List Byte) : (s.memPut k l).gais = s.gais := rfl
@[simp] theorem State.memPut_gscRx (s : State) (k : Nat) (l : List Byte) : (s.memPut k l).gscRx = s.gscRx := rfl
@[simp] theorem State.memPut_gscTx (s : State) (k : Nat) (l : List Byte) : (s.memPut k l).gscTx = s.gscTx := rfl
@[simp] theorem State.memPut_groups (s : State) (k : Nat) (l : List Byte) : (s.memPut k l).groups = s.groups := rfl
@[simp] theorem State.memPut_groupsChk (s : State) (k : Nat) (l : List Byte) : (s.memPut k l).groupsChk = s.groupsChk := rfl
@[simp] theorem State.memPut_apsTx (s : State) (k : Nat) (l : List Byte) : (s.memPut k l).apsTx = s.apsTx := rfl
@[simp] theorem State.memPut_switchWas (s : State) (k : Nat) (l : List Byte) : (s.memPut k l).switchWas = s.switchWas := rfl
@[simp] theorem State.memPut_newObjs (s : State) (k : Nat) (l : List Byte) : (s.memPut k l).newObjs = s.newObjs := rfl
@[simp] theorem State.memPut_refs (s : State) (k : Nat) (l : List Byte) : (s.memPut k l).refs = s.refs := rfl
@[simp] theorem State.memPut_tim (s : State) (k : Nat) (l : List Byte) : (s.memPut k l).tim = s.tim := rfl
@[simp] theorem State.memPut_mate (s : State) (k : Nat) (l : List Byte) : (s.memPut k l).mate = s.mate := rfl
@[simp] theorem State.memPut_engs (s : State) (k : Nat) (l : List Byte) : (s.memPut k l).engs = s.engs := rfl
@[simp] theorem State.memPut_bus (s : State) (k : Nat) (l : List Byte) : (s.memPut k l).bus = s.bus := rfl
@[simp] theorem State.memPut_held (s : State) (k : Nat) (l : List Byte) : (s.memPut k l).held = s.held := rfl
@[simp] theorem State.memPut_failBack (s : State) (k : Nat) (l : List Byte) : (s.memPut k l).failBack = s.failBack := rfl
@[simp] theorem State.memPut_tdDue (s : State) (k : Nat) (l : List Byte) : (s.memPut k l).tdDue = s.tdDue := rfl
@[simp] theorem State.memPut_pmonSel (s : State) (k : Nat) (l : List Byte) : (s.memPut k l).pmonSel = s.pmonSel := rfl
@[simp] theorem State.memPut_pmonOld (s : State) (k : Nat) (l : List Byte) : (s.memPut k l).pmonOld = s.pmonOld := rfl
@[simp] theorem State.memPut_pmonFrozen (s : State) (k : Nat) (l : List Byte) : (s.memPut k l).pmonFrozen = s.pmonFrozen := rfl
@[simp] theorem State.memPut_pmonWas (s : State) (k : Nat) (l : List Byte) : (s.memPut k l).pmonWas = s.pmonWas := rfl
@[simp] theorem State.memPut_pmonDue (s : State) (k : Nat) (l : List Byte) : (s.memPut k l).pmonDue = s.pmonDue := rfl
@[simp] theorem State.memPut_chans (s : State) (k : Nat) (l : List Byte) : (s.memPut k l).chans = s.chans := rfl
@[simp] theorem State.memPut_beatAt (s : State) (k : Nat) (l : List Byte) : (s.memPut k l).beatAt = s.beatAt := rfl
@[simp] theorem State.memPut_ques (s : State) (k : Nat) (l : List Byte) : (s.memPut k l).ques = s.ques := rfl
@[simp] theorem State.memPut_pwr (s : State) (k : Nat) (l : List Byte) : (s.memPut k l).pwr = s.pwr := rfl
@[simp] theorem State.memPut_legs (s : State) (k : Nat) (l : List Byte) : (s.memPut k l).legs = s.legs := rfl
@[simp] theorem State.memPut_domAt (s : State) (k : Nat) (l : List Byte) : (s.memPut k l).domAt = s.domAt := rfl
@[simp] theorem State.memPut_quiet (s : State) (k : Nat) (l : List Byte) : (s.memPut k l).quiet = s.quiet := rfl
@[simp] theorem State.memPut_lcDue (s : State) (k : Nat) (l : List Byte) : (s.memPut k l).lcDue = s.lcDue := rfl
@[simp] theorem State.memPut_dbg (s : State) (k : Nat) (l : List Byte) : (s.memPut k l).dbg = s.dbg := rfl
@[simp] theorem State.memPut_telem (s : State) (k : Nat) (l : List Byte) : (s.memPut k l).telem = s.telem := rfl
@[simp] theorem State.memPut_freeCount (s : State) (k : Nat) (l : List Byte) : (s.memPut k l).freeCount = s.freeCount := rfl
@[simp] theorem State.memPut_sent (s : State) (k : Nat) (l : List Byte) : (s.memPut k l).sent = s.sent := rfl

@[simp] theorem State.memZero_pending (s : State) (lo hi : Nat) : (s.memZero lo hi).pending = s.pending := rfl
@[simp] theorem State.memZero_fuses (s : State) (lo hi : Nat) : (s.memZero lo hi).fuses = s.fuses := rfl
@[simp] theorem State.memZero_pins (s : State) (lo hi : Nat) : (s.memZero lo hi).pins = s.pins := rfl
@[simp] theorem State.memZero_clk (s : State) (lo hi : Nat) : (s.memZero lo hi).clk = s.clk := rfl
@[simp] theorem State.memZero_ofs (s : State) (lo hi : Nat) : (s.memZero lo hi).ofs = s.ofs := rfl
@[simp] theorem State.memZero_fn (s : State) (lo hi : Nat) : (s.memZero lo hi).fn = s.fn := rfl
@[simp] theorem State.memZero_elapsed (s : State) (lo hi : Nat) : (s.memZero lo hi).elapsed = s.elapsed := rfl
@[simp] theorem State.memZero_regs (s : State) (lo hi : Nat) : (s.memZero lo hi).regs = s.regs := rfl
@[simp] theorem State.memZero_snap (s : State) (lo hi : Nat) : (s.memZero lo hi).snap = s.snap := rfl
@[simp] theorem State.memZero_mem (s : State) (lo hi : Nat) : (s.memZero lo hi).mem = Tab.dropRange s.mem lo hi := rfl
@[simp] theorem State.memZero_nvm0 (s : State) (lo hi : Nat) : (s.memZero lo hi).nvm0 = s.nvm0 := rfl
@[simp] theorem State.memZero_nvm1 (s : State) (lo hi : Nat) : (s.memZero lo hi).nvm1 = s.nvm1 := rfl
@[simp] theorem State.memZero_boot (s : State) (lo hi : Nat) : (s.memZero lo hi).boot = s.boot := rfl
@[simp] theorem State.memZero_flash (s : State) (lo hi : Nat) : (s.memZero lo hi).flash = s.flash := rfl
@[simp] theorem State.memZero_img (s : State) (lo hi : Nat) : (s.memZero lo hi).img = s.img := rfl
@[simp] theorem State.memZero_back (s : State) (lo hi : Nat) : (s.memZero lo hi).back = s.back := rfl
@[simp] theorem State.memZero_stepAt (s : State) (lo hi : Nat) : (s.memZero lo hi).stepAt = s.stepAt := rfl
@[simp] theorem State.memZero_stepNew (s : State) (lo hi : Nat) : (s.memZero lo hi).stepNew = s.stepNew := rfl
@[simp] theorem State.memZero_stepCyc (s : State) (lo hi : Nat) : (s.memZero lo hi).stepCyc = s.stepCyc := rfl
@[simp] theorem State.memZero_slewMoved (s : State) (lo hi : Nat) : (s.memZero lo hi).slewMoved = s.slewMoved := rfl
@[simp] theorem State.memZero_ppsAge (s : State) (lo hi : Nat) : (s.memZero lo hi).ppsAge = s.ppsAge := rfl
@[simp] theorem State.memZero_ppsBad (s : State) (lo hi : Nat) : (s.memZero lo hi).ppsBad = s.ppsBad := rfl
@[simp] theorem State.memZero_tods (s : State) (lo hi : Nat) : (s.memZero lo hi).tods = s.tods := rfl
@[simp] theorem State.memZero_hostQ (s : State) (lo hi : Nat) : (s.memZero lo hi).hostQ = s.hostQ := rfl
@[simp] theorem State.memZero_hostResp (s : State) (lo hi : Nat) : (s.memZero lo hi).hostResp = s.hostResp := rfl
@[simp] theorem State.memZero_hostPos (s : State) (lo hi : Nat) : (s.memZero lo hi).hostPos = s.hostPos := rfl
@[simp] theorem State.memZero_hostAcc (s : State) (lo hi : Nat) : (s.memZero lo hi).hostAcc = s.hostAcc := rfl
@[simp] theorem State.memZero_hostSince (s : State) (lo hi : Nat) : (s.memZero lo hi).hostSince = s.hostSince := rfl
@[simp] theorem State.memZero_xbHold (s : State) (lo hi : Nat) : (s.memZero lo hi).xbHold = s.xbHold := rfl
@[simp] theorem State.memZero_xbLast (s : State) (lo hi : Nat) : (s.memZero lo hi).xbLast = s.xbLast := rfl
@[simp] theorem State.memZero_msix (s : State) (lo hi : Nat) : (s.memZero lo hi).msix = s.msix := rfl
@[simp] theorem State.memZero_msixPend (s : State) (lo hi : Nat) : (s.memZero lo hi).msixPend = s.msixPend := rfl
@[simp] theorem State.memZero_msixOn (s : State) (lo hi : Nat) : (s.memZero lo hi).msixOn = s.msixOn := rfl
@[simp] theorem State.memZero_msixMask (s : State) (lo hi : Nat) : (s.memZero lo hi).msixMask = s.msixMask := rfl
@[simp] theorem State.memZero_elsRun (s : State) (lo hi : Nat) : (s.memZero lo hi).elsRun = s.elsRun := rfl
@[simp] theorem State.memZero_lanes (s : State) (lo hi : Nat) : (s.memZero lo hi).lanes = s.lanes := rfl
@[simp] theorem State.memZero_spares (s : State) (lo hi : Nat) : (s.memZero lo hi).spares = s.spares := rfl
@[simp] theorem State.memZero_txSf (s : State) (lo hi : Nat) : (s.memZero lo hi).txSf = s.txSf := rfl
@[simp] theorem State.memZero_mateMods (s : State) (lo hi : Nat) : (s.memZero lo hi).mateMods = s.mateMods := rfl
@[simp] theorem State.memZero_txDark (s : State) (lo hi : Nat) : (s.memZero lo hi).txDark = s.txDark := rfl
@[simp] theorem State.memZero_txDarkWas (s : State) (lo hi : Nat) : (s.memZero lo hi).txDarkWas = s.txDarkWas := rfl
@[simp] theorem State.memZero_elsIn (s : State) (lo hi : Nat) : (s.memZero lo hi).elsIn = s.elsIn := rfl
@[simp] theorem State.memZero_elsCh (s : State) (lo hi : Nat) : (s.memZero lo hi).elsCh = s.elsCh := rfl
@[simp] theorem State.memZero_slices (s : State) (lo hi : Nat) : (s.memZero lo hi).slices = s.slices := rfl
@[simp] theorem State.memZero_oh (s : State) (lo hi : Nat) : (s.memZero lo hi).oh = s.oh := rfl
@[simp] theorem State.memZero_defs (s : State) (lo hi : Nat) : (s.memZero lo hi).defs = s.defs := rfl
@[simp] theorem State.memZero_fails (s : State) (lo hi : Nat) : (s.memZero lo hi).fails = s.fails := rfl
@[simp] theorem State.memZero_downSeen (s : State) (lo hi : Nat) : (s.memZero lo hi).downSeen = s.downSeen := rfl
@[simp] theorem State.memZero_smpDue (s : State) (lo hi : Nat) : (s.memZero lo hi).smpDue = s.smpDue := rfl
@[simp] theorem State.memZero_failSet (s : State) (lo hi : Nat) : (s.memZero lo hi).failSet = s.failSet := rfl
@[simp] theorem State.memZero_failClr (s : State) (lo hi : Nat) : (s.memZero lo hi).failClr = s.failClr := rfl
@[simp] theorem State.memZero_odus (s : State) (lo hi : Nat) : (s.memZero lo hi).odus = s.odus := rfl
@[simp] theorem State.memZero_gcc (s : State) (lo hi : Nat) : (s.memZero lo hi).gcc = s.gcc := rfl
@[simp] theorem State.memZero_pm (s : State) (lo hi : Nat) : (s.memZero lo hi).pm = s.pm := rfl
@[simp] theorem State.memZero_s15 (s : State) (lo hi : Nat) : (s.memZero lo hi).s15 = s.s15 := rfl
@[simp] theorem State.memZero_s24 (s : State) (lo hi : Nat) : (s.memZero lo hi).s24 = s.s24 := rfl
@[simp] theorem State.memZero_pmReq (s : State) (lo hi : Nat) : (s.memZero lo hi).pmReq = s.pmReq := rfl
@[simp] theorem State.memZero_leafReq (s : State) (lo hi : Nat) : (s.memZero lo hi).leafReq = s.leafReq := rfl
@[simp] theorem State.memZero_secStart (s : State) (lo hi : Nat) : (s.memZero lo hi).secStart = s.secStart := rfl
@[simp] theorem State.memZero_selW (s : State) (lo hi : Nat) : (s.memZero lo hi).selW = s.selW := rfl
@[simp] theorem State.memZero_selF (s : State) (lo hi : Nat) : (s.memZero lo hi).selF = s.selF := rfl
@[simp] theorem State.memZero_lselW (s : State) (lo hi : Nat) : (s.memZero lo hi).lselW = s.lselW := rfl
@[simp] theorem State.memZero_lselF (s : State) (lo hi : Nat) : (s.memZero lo hi).lselF = s.lselF := rfl
@[simp] theorem State.memZero_selOld (s : State) (lo hi : Nat) : (s.memZero lo hi).selOld = s.selOld := rfl
@[simp] theorem State.memZero_lselOld (s : State) (lo hi : Nat) : (s.memZero lo hi).lselOld = s.lselOld := rfl
@[simp] theorem State.memZero_trkOut (s : State) (lo hi : Nat) : (s.memZero lo hi).trkOut = s.trkOut := rfl
@[simp] theorem State.memZero_trkAis (s : State) (lo hi : Nat) : (s.memZero lo hi).trkAis = s.trkAis := rfl
@[simp] theorem State.memZero_trkErr (s : State) (lo hi : Nat) : (s.memZero lo hi).trkErr = s.trkErr := rfl
@[simp] theorem State.memZero_remaps (s : State) (lo hi : Nat) : (s.memZero lo hi).remaps = s.remaps := rfl
@[simp] theorem State.memZero_lckRx (s : State) (lo hi : Nat) : (s.memZero lo hi).lckRx = s.lckRx := rfl
@[simp] theorem State.memZero_lckTx (s : State) (lo hi : Nat) : (s.memZero lo hi).lckTx = s.lckTx := rfl
@[simp] theorem State.memZero_injectSw (s : State) (lo hi : Nat) : (s.memZero lo hi).injectSw = s.injectSw := rfl
@[simp] theorem State.memZero_grafts (s : State) (lo hi : Nat) : (s.memZero lo hi).grafts = s.grafts := rfl
@[simp] theorem State.memZero_drainDue (s : State) (lo hi : Nat) : (s.memZero lo hi).drainDue = s.drainDue := rfl
@[simp] theorem State.memZero_cars (s : State) (lo hi : Nat) : (s.memZero lo hi).cars = s.cars := rfl
@[simp] theorem State.memZero_leafW (s : State) (lo hi : Nat) : (s.memZero lo hi).leafW = s.leafW := rfl
@[simp] theorem State.memZero_leafR (s : State) (lo hi : Nat) : (s.memZero lo hi).leafR = s.leafR := rfl
@[simp] theorem State.memZero_leafRd (s : State) (lo hi : Nat) : (s.memZero lo hi).leafRd = s.leafRd := rfl
@[simp] theorem State.memZero_leafTx (s : State) (lo hi : Nat) : (s.memZero lo hi).leafTx = s.leafTx := rfl
@[simp] theorem State.memZero_carPre (s : State) (lo hi : Nat) : (s.memZero lo hi).carPre = s.carPre := rfl
@[simp] theorem State.memZero_gais (s : State) (lo hi : Nat) : (s.memZero lo hi).gais = s.gais := rfl
@[simp] theorem State.memZero_gscRx (s : State) (lo hi : Nat) : (s.memZero lo hi).gscRx = s.gscRx := rfl
@[simp] theorem State.memZero_gscTx (s : State) (lo hi : Nat) : (s.memZero lo hi).gscTx = s.gscTx := rfl
@[simp] theorem State.memZero_groups (s : State) (lo hi : Nat) : (s.memZero lo hi).groups = s.groups := rfl
@[simp] theorem State.memZero_groupsChk (s : State) (lo hi : Nat) : (s.memZero lo hi).groupsChk = s.groupsChk := rfl
@[simp] theorem State.memZero_apsTx (s : State) (lo hi : Nat) : (s.memZero lo hi).apsTx = s.apsTx := rfl
@[simp] theorem State.memZero_switchWas (s : State) (lo hi : Nat) : (s.memZero lo hi).switchWas = s.switchWas := rfl
@[simp] theorem State.memZero_newObjs (s : State) (lo hi : Nat) : (s.memZero lo hi).newObjs = s.newObjs := rfl
@[simp] theorem State.memZero_refs (s : State) (lo hi : Nat) : (s.memZero lo hi).refs = s.refs := rfl
@[simp] theorem State.memZero_tim (s : State) (lo hi : Nat) : (s.memZero lo hi).tim = s.tim := rfl
@[simp] theorem State.memZero_mate (s : State) (lo hi : Nat) : (s.memZero lo hi).mate = s.mate := rfl
@[simp] theorem State.memZero_engs (s : State) (lo hi : Nat) : (s.memZero lo hi).engs = s.engs := rfl
@[simp] theorem State.memZero_bus (s : State) (lo hi : Nat) : (s.memZero lo hi).bus = s.bus := rfl
@[simp] theorem State.memZero_held (s : State) (lo hi : Nat) : (s.memZero lo hi).held = s.held := rfl
@[simp] theorem State.memZero_failBack (s : State) (lo hi : Nat) : (s.memZero lo hi).failBack = s.failBack := rfl
@[simp] theorem State.memZero_tdDue (s : State) (lo hi : Nat) : (s.memZero lo hi).tdDue = s.tdDue := rfl
@[simp] theorem State.memZero_pmonSel (s : State) (lo hi : Nat) : (s.memZero lo hi).pmonSel = s.pmonSel := rfl
@[simp] theorem State.memZero_pmonOld (s : State) (lo hi : Nat) : (s.memZero lo hi).pmonOld = s.pmonOld := rfl
@[simp] theorem State.memZero_pmonFrozen (s : State) (lo hi : Nat) : (s.memZero lo hi).pmonFrozen = s.pmonFrozen := rfl
@[simp] theorem State.memZero_pmonWas (s : State) (lo hi : Nat) : (s.memZero lo hi).pmonWas = s.pmonWas := rfl
@[simp] theorem State.memZero_pmonDue (s : State) (lo hi : Nat) : (s.memZero lo hi).pmonDue = s.pmonDue := rfl
@[simp] theorem State.memZero_chans (s : State) (lo hi : Nat) : (s.memZero lo hi).chans = s.chans := rfl
@[simp] theorem State.memZero_beatAt (s : State) (lo hi : Nat) : (s.memZero lo hi).beatAt = s.beatAt := rfl
@[simp] theorem State.memZero_ques (s : State) (lo hi : Nat) : (s.memZero lo hi).ques = s.ques := rfl
@[simp] theorem State.memZero_pwr (s : State) (lo hi : Nat) : (s.memZero lo hi).pwr = s.pwr := rfl
@[simp] theorem State.memZero_legs (s : State) (lo hi : Nat) : (s.memZero lo hi).legs = s.legs := rfl
@[simp] theorem State.memZero_domAt (s : State) (lo hi : Nat) : (s.memZero lo hi).domAt = s.domAt := rfl
@[simp] theorem State.memZero_quiet (s : State) (lo hi : Nat) : (s.memZero lo hi).quiet = s.quiet := rfl
@[simp] theorem State.memZero_lcDue (s : State) (lo hi : Nat) : (s.memZero lo hi).lcDue = s.lcDue := rfl
@[simp] theorem State.memZero_dbg (s : State) (lo hi : Nat) : (s.memZero lo hi).dbg = s.dbg := rfl
@[simp] theorem State.memZero_telem (s : State) (lo hi : Nat) : (s.memZero lo hi).telem = s.telem := rfl
@[simp] theorem State.memZero_freeCount (s : State) (lo hi : Nat) : (s.memZero lo hi).freeCount = s.freeCount := rfl
@[simp] theorem State.memZero_sent (s : State) (lo hi : Nat) : (s.memZero lo hi).sent = s.sent := rfl

@[simp] theorem State.setQue_pending (s : State) (q : Nat) (x : Que) : (s.setQue q x).pending = s.pending := rfl
@[simp] theorem State.setQue_fuses (s : State) (q : Nat) (x : Que) : (s.setQue q x).fuses = s.fuses := rfl
@[simp] theorem State.setQue_pins (s : State) (q : Nat) (x : Que) : (s.setQue q x).pins = s.pins := rfl
@[simp] theorem State.setQue_clk (s : State) (q : Nat) (x : Que) : (s.setQue q x).clk = s.clk := rfl
@[simp] theorem State.setQue_ofs (s : State) (q : Nat) (x : Que) : (s.setQue q x).ofs = s.ofs := rfl
@[simp] theorem State.setQue_fn (s : State) (q : Nat) (x : Que) : (s.setQue q x).fn = s.fn := rfl
@[simp] theorem State.setQue_elapsed (s : State) (q : Nat) (x : Que) : (s.setQue q x).elapsed = s.elapsed := rfl
@[simp] theorem State.setQue_regs (s : State) (q : Nat) (x : Que) : (s.setQue q x).regs = s.regs := rfl
@[simp] theorem State.setQue_snap (s : State) (q : Nat) (x : Que) : (s.setQue q x).snap = s.snap := rfl
@[simp] theorem State.setQue_mem (s : State) (q : Nat) (x : Que) : (s.setQue q x).mem = s.mem := rfl
@[simp] theorem State.setQue_nvm0 (s : State) (q : Nat) (x : Que) : (s.setQue q x).nvm0 = s.nvm0 := rfl
@[simp] theorem State.setQue_nvm1 (s : State) (q : Nat) (x : Que) : (s.setQue q x).nvm1 = s.nvm1 := rfl
@[simp] theorem State.setQue_boot (s : State) (q : Nat) (x : Que) : (s.setQue q x).boot = s.boot := rfl
@[simp] theorem State.setQue_flash (s : State) (q : Nat) (x : Que) : (s.setQue q x).flash = s.flash := rfl
@[simp] theorem State.setQue_img (s : State) (q : Nat) (x : Que) : (s.setQue q x).img = s.img := rfl
@[simp] theorem State.setQue_back (s : State) (q : Nat) (x : Que) : (s.setQue q x).back = s.back := rfl
@[simp] theorem State.setQue_stepAt (s : State) (q : Nat) (x : Que) : (s.setQue q x).stepAt = s.stepAt := rfl
@[simp] theorem State.setQue_stepNew (s : State) (q : Nat) (x : Que) : (s.setQue q x).stepNew = s.stepNew := rfl
@[simp] theorem State.setQue_stepCyc (s : State) (q : Nat) (x : Que) : (s.setQue q x).stepCyc = s.stepCyc := rfl
@[simp] theorem State.setQue_slewMoved (s : State) (q : Nat) (x : Que) : (s.setQue q x).slewMoved = s.slewMoved := rfl
@[simp] theorem State.setQue_ppsAge (s : State) (q : Nat) (x : Que) : (s.setQue q x).ppsAge = s.ppsAge := rfl
@[simp] theorem State.setQue_ppsBad (s : State) (q : Nat) (x : Que) : (s.setQue q x).ppsBad = s.ppsBad := rfl
@[simp] theorem State.setQue_tods (s : State) (q : Nat) (x : Que) : (s.setQue q x).tods = s.tods := rfl
@[simp] theorem State.setQue_hostQ (s : State) (q : Nat) (x : Que) : (s.setQue q x).hostQ = s.hostQ := rfl
@[simp] theorem State.setQue_hostResp (s : State) (q : Nat) (x : Que) : (s.setQue q x).hostResp = s.hostResp := rfl
@[simp] theorem State.setQue_hostPos (s : State) (q : Nat) (x : Que) : (s.setQue q x).hostPos = s.hostPos := rfl
@[simp] theorem State.setQue_hostAcc (s : State) (q : Nat) (x : Que) : (s.setQue q x).hostAcc = s.hostAcc := rfl
@[simp] theorem State.setQue_hostSince (s : State) (q : Nat) (x : Que) : (s.setQue q x).hostSince = s.hostSince := rfl
@[simp] theorem State.setQue_xbHold (s : State) (q : Nat) (x : Que) : (s.setQue q x).xbHold = s.xbHold := rfl
@[simp] theorem State.setQue_xbLast (s : State) (q : Nat) (x : Que) : (s.setQue q x).xbLast = s.xbLast := rfl
@[simp] theorem State.setQue_msix (s : State) (q : Nat) (x : Que) : (s.setQue q x).msix = s.msix := rfl
@[simp] theorem State.setQue_msixPend (s : State) (q : Nat) (x : Que) : (s.setQue q x).msixPend = s.msixPend := rfl
@[simp] theorem State.setQue_msixOn (s : State) (q : Nat) (x : Que) : (s.setQue q x).msixOn = s.msixOn := rfl
@[simp] theorem State.setQue_msixMask (s : State) (q : Nat) (x : Que) : (s.setQue q x).msixMask = s.msixMask := rfl
@[simp] theorem State.setQue_elsRun (s : State) (q : Nat) (x : Que) : (s.setQue q x).elsRun = s.elsRun := rfl
@[simp] theorem State.setQue_lanes (s : State) (q : Nat) (x : Que) : (s.setQue q x).lanes = s.lanes := rfl
@[simp] theorem State.setQue_spares (s : State) (q : Nat) (x : Que) : (s.setQue q x).spares = s.spares := rfl
@[simp] theorem State.setQue_txSf (s : State) (q : Nat) (x : Que) : (s.setQue q x).txSf = s.txSf := rfl
@[simp] theorem State.setQue_mateMods (s : State) (q : Nat) (x : Que) : (s.setQue q x).mateMods = s.mateMods := rfl
@[simp] theorem State.setQue_txDark (s : State) (q : Nat) (x : Que) : (s.setQue q x).txDark = s.txDark := rfl
@[simp] theorem State.setQue_txDarkWas (s : State) (q : Nat) (x : Que) : (s.setQue q x).txDarkWas = s.txDarkWas := rfl
@[simp] theorem State.setQue_elsIn (s : State) (q : Nat) (x : Que) : (s.setQue q x).elsIn = s.elsIn := rfl
@[simp] theorem State.setQue_elsCh (s : State) (q : Nat) (x : Que) : (s.setQue q x).elsCh = s.elsCh := rfl
@[simp] theorem State.setQue_slices (s : State) (q : Nat) (x : Que) : (s.setQue q x).slices = s.slices := rfl
@[simp] theorem State.setQue_oh (s : State) (q : Nat) (x : Que) : (s.setQue q x).oh = s.oh := rfl
@[simp] theorem State.setQue_defs (s : State) (q : Nat) (x : Que) : (s.setQue q x).defs = s.defs := rfl
@[simp] theorem State.setQue_fails (s : State) (q : Nat) (x : Que) : (s.setQue q x).fails = s.fails := rfl
@[simp] theorem State.setQue_downSeen (s : State) (q : Nat) (x : Que) : (s.setQue q x).downSeen = s.downSeen := rfl
@[simp] theorem State.setQue_smpDue (s : State) (q : Nat) (x : Que) : (s.setQue q x).smpDue = s.smpDue := rfl
@[simp] theorem State.setQue_failSet (s : State) (q : Nat) (x : Que) : (s.setQue q x).failSet = s.failSet := rfl
@[simp] theorem State.setQue_failClr (s : State) (q : Nat) (x : Que) : (s.setQue q x).failClr = s.failClr := rfl
@[simp] theorem State.setQue_odus (s : State) (q : Nat) (x : Que) : (s.setQue q x).odus = s.odus := rfl
@[simp] theorem State.setQue_gcc (s : State) (q : Nat) (x : Que) : (s.setQue q x).gcc = s.gcc := rfl
@[simp] theorem State.setQue_pm (s : State) (q : Nat) (x : Que) : (s.setQue q x).pm = s.pm := rfl
@[simp] theorem State.setQue_s15 (s : State) (q : Nat) (x : Que) : (s.setQue q x).s15 = s.s15 := rfl
@[simp] theorem State.setQue_s24 (s : State) (q : Nat) (x : Que) : (s.setQue q x).s24 = s.s24 := rfl
@[simp] theorem State.setQue_pmReq (s : State) (q : Nat) (x : Que) : (s.setQue q x).pmReq = s.pmReq := rfl
@[simp] theorem State.setQue_leafReq (s : State) (q : Nat) (x : Que) : (s.setQue q x).leafReq = s.leafReq := rfl
@[simp] theorem State.setQue_secStart (s : State) (q : Nat) (x : Que) : (s.setQue q x).secStart = s.secStart := rfl
@[simp] theorem State.setQue_selW (s : State) (q : Nat) (x : Que) : (s.setQue q x).selW = s.selW := rfl
@[simp] theorem State.setQue_selF (s : State) (q : Nat) (x : Que) : (s.setQue q x).selF = s.selF := rfl
@[simp] theorem State.setQue_lselW (s : State) (q : Nat) (x : Que) : (s.setQue q x).lselW = s.lselW := rfl
@[simp] theorem State.setQue_lselF (s : State) (q : Nat) (x : Que) : (s.setQue q x).lselF = s.lselF := rfl
@[simp] theorem State.setQue_selOld (s : State) (q : Nat) (x : Que) : (s.setQue q x).selOld = s.selOld := rfl
@[simp] theorem State.setQue_lselOld (s : State) (q : Nat) (x : Que) : (s.setQue q x).lselOld = s.lselOld := rfl
@[simp] theorem State.setQue_trkOut (s : State) (q : Nat) (x : Que) : (s.setQue q x).trkOut = s.trkOut := rfl
@[simp] theorem State.setQue_trkAis (s : State) (q : Nat) (x : Que) : (s.setQue q x).trkAis = s.trkAis := rfl
@[simp] theorem State.setQue_trkErr (s : State) (q : Nat) (x : Que) : (s.setQue q x).trkErr = s.trkErr := rfl
@[simp] theorem State.setQue_remaps (s : State) (q : Nat) (x : Que) : (s.setQue q x).remaps = s.remaps := rfl
@[simp] theorem State.setQue_lckRx (s : State) (q : Nat) (x : Que) : (s.setQue q x).lckRx = s.lckRx := rfl
@[simp] theorem State.setQue_lckTx (s : State) (q : Nat) (x : Que) : (s.setQue q x).lckTx = s.lckTx := rfl
@[simp] theorem State.setQue_injectSw (s : State) (q : Nat) (x : Que) : (s.setQue q x).injectSw = s.injectSw := rfl
@[simp] theorem State.setQue_grafts (s : State) (q : Nat) (x : Que) : (s.setQue q x).grafts = s.grafts := rfl
@[simp] theorem State.setQue_drainDue (s : State) (q : Nat) (x : Que) : (s.setQue q x).drainDue = s.drainDue := rfl
@[simp] theorem State.setQue_cars (s : State) (q : Nat) (x : Que) : (s.setQue q x).cars = s.cars := rfl
@[simp] theorem State.setQue_leafW (s : State) (q : Nat) (x : Que) : (s.setQue q x).leafW = s.leafW := rfl
@[simp] theorem State.setQue_leafR (s : State) (q : Nat) (x : Que) : (s.setQue q x).leafR = s.leafR := rfl
@[simp] theorem State.setQue_leafRd (s : State) (q : Nat) (x : Que) : (s.setQue q x).leafRd = s.leafRd := rfl
@[simp] theorem State.setQue_leafTx (s : State) (q : Nat) (x : Que) : (s.setQue q x).leafTx = s.leafTx := rfl
@[simp] theorem State.setQue_carPre (s : State) (q : Nat) (x : Que) : (s.setQue q x).carPre = s.carPre := rfl
@[simp] theorem State.setQue_gais (s : State) (q : Nat) (x : Que) : (s.setQue q x).gais = s.gais := rfl
@[simp] theorem State.setQue_gscRx (s : State) (q : Nat) (x : Que) : (s.setQue q x).gscRx = s.gscRx := rfl
@[simp] theorem State.setQue_gscTx (s : State) (q : Nat) (x : Que) : (s.setQue q x).gscTx = s.gscTx := rfl
@[simp] theorem State.setQue_groups (s : State) (q : Nat) (x : Que) : (s.setQue q x).groups = s.groups := rfl
@[simp] theorem State.setQue_groupsChk (s : State) (q : Nat) (x : Que) : (s.setQue q x).groupsChk = s.groupsChk := rfl
@[simp] theorem State.setQue_apsTx (s : State) (q : Nat) (x : Que) : (s.setQue q x).apsTx = s.apsTx := rfl
@[simp] theorem State.setQue_switchWas (s : State) (q : Nat) (x : Que) : (s.setQue q x).switchWas = s.switchWas := rfl
@[simp] theorem State.setQue_newObjs (s : State) (q : Nat) (x : Que) : (s.setQue q x).newObjs = s.newObjs := rfl
@[simp] theorem State.setQue_refs (s : State) (q : Nat) (x : Que) : (s.setQue q x).refs = s.refs := rfl
@[simp] theorem State.setQue_tim (s : State) (q : Nat) (x : Que) : (s.setQue q x).tim = s.tim := rfl
@[simp] theorem State.setQue_mate (s : State) (q : Nat) (x : Que) : (s.setQue q x).mate = s.mate := rfl
@[simp] theorem State.setQue_engs (s : State) (q : Nat) (x : Que) : (s.setQue q x).engs = s.engs := rfl
@[simp] theorem State.setQue_bus (s : State) (q : Nat) (x : Que) : (s.setQue q x).bus = s.bus := rfl
@[simp] theorem State.setQue_held (s : State) (q : Nat) (x : Que) : (s.setQue q x).held = s.held := rfl
@[simp] theorem State.setQue_failBack (s : State) (q : Nat) (x : Que) : (s.setQue q x).failBack = s.failBack := rfl
@[simp] theorem State.setQue_tdDue (s : State) (q : Nat) (x : Que) : (s.setQue q x).tdDue = s.tdDue := rfl
@[simp] theorem State.setQue_pmonSel (s : State) (q : Nat) (x : Que) : (s.setQue q x).pmonSel = s.pmonSel := rfl
@[simp] theorem State.setQue_pmonOld (s : State) (q : Nat) (x : Que) : (s.setQue q x).pmonOld = s.pmonOld := rfl
@[simp] theorem State.setQue_pmonFrozen (s : State) (q : Nat) (x : Que) : (s.setQue q x).pmonFrozen = s.pmonFrozen := rfl
@[simp] theorem State.setQue_pmonWas (s : State) (q : Nat) (x : Que) : (s.setQue q x).pmonWas = s.pmonWas := rfl
@[simp] theorem State.setQue_pmonDue (s : State) (q : Nat) (x : Que) : (s.setQue q x).pmonDue = s.pmonDue := rfl
@[simp] theorem State.setQue_chans (s : State) (q : Nat) (x : Que) : (s.setQue q x).chans = s.chans := rfl
@[simp] theorem State.setQue_beatAt (s : State) (q : Nat) (x : Que) : (s.setQue q x).beatAt = s.beatAt := rfl
@[simp] theorem State.setQue_ques (s : State) (q : Nat) (x : Que) : (s.setQue q x).ques = Tab.set queDefault s.ques q x := rfl
@[simp] theorem State.setQue_pwr (s : State) (q : Nat) (x : Que) : (s.setQue q x).pwr = s.pwr := rfl
@[simp] theorem State.setQue_legs (s : State) (q : Nat) (x : Que) : (s.setQue q x).legs = s.legs := rfl
@[simp] theorem State.setQue_domAt (s : State) (q : Nat) (x : Que) : (s.setQue q x).domAt = s.domAt := rfl
@[simp] theorem State.setQue_quiet (s : State) (q : Nat) (x : Que) : (s.setQue q x).quiet = s.quiet := rfl
@[simp] theorem State.setQue_lcDue (s : State) (q : Nat) (x : Que) : (s.setQue q x).lcDue = s.lcDue := rfl
@[simp] theorem State.setQue_dbg (s : State) (q : Nat) (x : Que) : (s.setQue q x).dbg = s.dbg := rfl
@[simp] theorem State.setQue_telem (s : State) (q : Nat) (x : Que) : (s.setQue q x).telem = s.telem := rfl
@[simp] theorem State.setQue_freeCount (s : State) (q : Nat) (x : Que) : (s.setQue q x).freeCount = s.freeCount := rfl
@[simp] theorem State.setQue_sent (s : State) (q : Nat) (x : Que) : (s.setQue q x).sent = s.sent := rfl

end Sys2Proof.Machine
end

