-- ==== Sys2Proof/Laws/Tab.lean ====
section
/-! SUPPORT. Laws of sparse tables: a read after a write, and every operation keeps the canonical form. -/

namespace Sys2Proof.Machine

variable {α : Type}

theorem Tab.above_mono {j k : Nat} (h : j ≤ k) : ∀ {m : List (Nat × α)}, Tab.above k m = true → Tab.above j m = true
  | [], _ => rfl
  | (i, v) :: r, hm => by
    simp only [Tab.above, Bool.and_eq_true, decide_eq_true_eq] at hm ⊢
    exact ⟨by omega, Tab.above_mono h hm.2⟩

theorem Tab.above_iff {k : Nat} : ∀ {m : List (Nat × α)}, Tab.above k m = true ↔ ∀ e ∈ m, k < e.1
  | [] => by simp [Tab.above]
  | (i, v) :: r => by simp [Tab.above, Tab.above_iff (m := r)]

theorem Tab.above_insert {j k : Nat} {v : α} (h : j < k) : ∀ {m : List (Nat × α)}, Tab.above j m = true → Tab.above j (Tab.insert k v m) = true
  | [], _ => by simp [Tab.insert, Tab.above, h]
  | (i, w) :: r, hm => by
    simp only [Tab.above, Bool.and_eq_true, decide_eq_true_eq] at hm
    unfold Tab.insert
    split
    · simp [Tab.above, h, hm]
    · split
      · simp [Tab.above, h, hm]
      · simp [Tab.above, hm, Tab.above_insert h hm.2]

theorem Tab.above_erase {j k : Nat} : ∀ {m : List (Nat × α)}, Tab.above j m = true → Tab.above j (Tab.erase k m) = true
  | [], _ => rfl
  | (i, w) :: r, hm => by
    simp only [Tab.above, Bool.and_eq_true, decide_eq_true_eq] at hm
    unfold Tab.erase
    split
    · simp [Tab.above, hm]
    · split
      · exact hm.2
      · simp [Tab.above, hm, Tab.above_erase hm.2]

/-- A key below every entry reads its default. -/
theorem Tab.get_above (d : Nat → α) {k : Nat} : ∀ {m : List (Nat × α)}, Tab.above k m = true → Tab.get d m k = d k
  | [], _ => rfl
  | (i, v) :: r, hm => by
    simp only [Tab.above, Bool.and_eq_true, decide_eq_true_eq] at hm
    unfold Tab.get
    rw [if_neg (by omega), if_pos hm.1]

theorem Tab.get_insert (d : Nat → α) (k j : Nat) (v : α) :
    ∀ m : List (Nat × α), Tab.get d (Tab.insert k v m) j = if j = k then v else Tab.get d m j
  | [] => by
    simp only [Tab.insert, Tab.get]
    grind
  | (i, w) :: r => by
    have ih := Tab.get_insert d k j v r
    unfold Tab.insert
    split
    · simp only [Tab.get]; grind
    · split
      · simp only [Tab.get]; grind
      · simp only [Tab.get, ih]; grind

section canonical

variable [DecidableEq α] (d : Nat → α)

theorem Tab.get_erase (k j : Nat) :
    ∀ {m : List (Nat × α)}, Tab.wf d m = true → Tab.get d (Tab.erase k m) j = if j = k then d k else Tab.get d m j
  | [], _ => by simp only [Tab.erase, Tab.get]; grind
  | (i, w) :: r, hm => by
    simp only [Tab.wf, Bool.and_eq_true, decide_eq_true_eq] at hm
    have ih := Tab.get_erase k j hm.2
    have ha : ∀ x, x ≤ i → Tab.get d r x = d x := fun x hx => Tab.get_above d (Tab.above_mono hx hm.1.1)
    unfold Tab.erase
    split
    · simp only [Tab.get]; grind
    · split
      · simp only [Tab.get]; grind
      · simp only [Tab.get, ih]; grind

/-- A read after a write (of a table in canonical form): the value written, and every other key as before. -/
theorem Tab.get_set {m : List (Nat × α)} (h : Tab.wf d m = true) (k j : Nat) (v : α) :
    Tab.get d (Tab.set d m k v) j = if j = k then v else Tab.get d m j := by
  unfold Tab.set
  split
  · next e => rw [Tab.get_erase d k j h, e]
  · exact Tab.get_insert d k j v m

theorem Tab.get_set_self {m : List (Nat × α)} (h : Tab.wf d m = true) (k : Nat) (v : α) : Tab.get d (Tab.set d m k v) k = v := by
  rw [Tab.get_set d h, if_pos rfl]

theorem Tab.get_set_other {m : List (Nat × α)} (h : Tab.wf d m = true) {k j : Nat} (hj : j ≠ k) (v : α) :
    Tab.get d (Tab.set d m k v) j = Tab.get d m j := by
  rw [Tab.get_set d h, if_neg hj]

theorem Tab.wf_nil : Tab.wf d [] = true := rfl

theorem Tab.wf_insert {k : Nat} {v : α} (hv : v ≠ d k) : ∀ {m : List (Nat × α)}, Tab.wf d m = true → Tab.wf d (Tab.insert k v m) = true
  | [], _ => by simp [Tab.insert, Tab.wf, Tab.above, hv]
  | (i, w) :: r, hm => by
    simp only [Tab.wf, Bool.and_eq_true, decide_eq_true_eq] at hm
    unfold Tab.insert
    split
    · next h => simp [Tab.wf, Tab.above, h, hv, hm, Tab.above_mono (Nat.le_of_lt h) hm.1.1]
    · split
      · next h => simp [Tab.wf, ← h, hm]; simpa [h] using hv
      · next h1 h2 => simp [Tab.wf, hm, Tab.wf_insert hv hm.2, Tab.above_insert (by omega : i < k) hm.1.1]

theorem Tab.wf_erase {k : Nat} : ∀ {m : List (Nat × α)}, Tab.wf d m = true → Tab.wf d (Tab.erase k m) = true
  | [], _ => rfl
  | (i, w) :: r, hm => by
    have hm' := hm
    simp only [Tab.wf, Bool.and_eq_true, decide_eq_true_eq] at hm
    unfold Tab.erase
    split
    · exact hm'
    · split
      · exact hm.2
      · simp [Tab.wf, hm, Tab.wf_erase hm.2, Tab.above_erase hm.1.1]

/-- A write keeps the canonical form. -/
theorem Tab.wf_set {m : List (Nat × α)} (h : Tab.wf d m = true) (k : Nat) (v : α) : Tab.wf d (Tab.set d m k v) = true := by
  unfold Tab.set
  split
  · exact Tab.wf_erase d h
  · next e => exact Tab.wf_insert d e h

/-- Leaving entries out keeps the canonical form. -/
theorem Tab.wf_filter (p : Nat × α → Bool) : ∀ {m : List (Nat × α)}, Tab.wf d m = true → Tab.wf d (m.filter p) = true
  | [], _ => rfl
  | (i, w) :: r, hm => by
    simp only [Tab.wf, Bool.and_eq_true, decide_eq_true_eq] at hm
    rw [List.filter_cons]
    split
    · simp only [Tab.wf, Bool.and_eq_true, decide_eq_true_eq]
      refine ⟨⟨Tab.above_iff.mpr fun e he => ?_, hm.1.2⟩, Tab.wf_filter p hm.2⟩
      exact Tab.above_iff.mp hm.1.1 e (List.mem_filter.mp he).1
    · exact Tab.wf_filter p hm.2

/-- Making a range read its defaults keeps the canonical form. -/
theorem Tab.wf_dropRange {m : List (Nat × α)} (h : Tab.wf d m = true) (lo hi : Nat) : Tab.wf d (Tab.dropRange m lo hi) = true :=
  Tab.wf_filter d _ h

theorem Tab.ofList_keys : ∀ {l : List α} {k : Nat} {e : Nat × α}, e ∈ Tab.ofList d k l → k ≤ e.1 ∧ e.1 < k + l.length
  | [], _, _, h => by simp [Tab.ofList] at h
  | v :: vs, k, e, h => by
    unfold Tab.ofList at h
    simp only [List.length_cons]
    split at h
    · have := Tab.ofList_keys h; omega
    · rcases List.mem_cons.mp h with rfl | h
      · simp
      · have := Tab.ofList_keys h; omega

theorem Tab.wf_ofList : ∀ (l : List α) (k : Nat), Tab.wf d (Tab.ofList d k l) = true
  | [], _ => rfl
  | v :: vs, k => by
    unfold Tab.ofList
    split
    · exact Tab.wf_ofList vs (k + 1)
    · next e =>
      simp only [Tab.wf, Bool.and_eq_true, decide_eq_true_eq]
      refine ⟨⟨Tab.above_iff.mpr fun x hx => ?_, e⟩, Tab.wf_ofList vs (k + 1)⟩
      have := Tab.ofList_keys d hx
      omega

theorem Tab.wf_append : ∀ {a b : List (Nat × α)}, Tab.wf d a = true → Tab.wf d b = true → (∀ x ∈ a, ∀ y ∈ b, x.1 < y.1) →
    Tab.wf d (a ++ b) = true
  | [], _, _, hb, _ => hb
  | (i, w) :: r, b, ha, hb, h => by
    simp only [Tab.wf, Bool.and_eq_true, decide_eq_true_eq, List.cons_append] at ha ⊢
    refine ⟨⟨Tab.above_iff.mpr fun x hx => ?_, ha.1.2⟩, Tab.wf_append ha.2 hb fun x hx => h x (List.mem_cons_of_mem _ hx)⟩
    rcases List.mem_append.mp hx with hx | hx
    · exact Tab.above_iff.mp ha.1.1 x hx
    · exact h _ List.mem_cons_self x hx

/-- Writing a range keeps the canonical form. -/
theorem Tab.wf_setRange {m : List (Nat × α)} (h : Tab.wf d m = true) (k : Nat) (l : List α) : Tab.wf d (Tab.setRange d m k l) = true := by
  unfold Tab.setRange
  refine Tab.wf_append d (Tab.wf_append d (Tab.wf_filter d _ h) (Tab.wf_ofList d l k) fun x hx y hy => ?_) (Tab.wf_filter d _ h)
    fun x hx y hy => ?_
  · have h1 := (List.mem_filter.mp hx).2
    have h2 := Tab.ofList_keys d hy
    simp at h1
    omega
  · have h2 := (List.mem_filter.mp hy).2
    simp at h2
    rcases List.mem_append.mp hx with hx | hx
    · have h1 := (List.mem_filter.mp hx).2
      simp at h1
      omega
    · have h1 := Tab.ofList_keys d hx
      omega

theorem Tab.get_filter (p : Nat × α → Bool) (j : Nat) :
    ∀ {m : List (Nat × α)}, Tab.wf d m = true → (∀ v, p (j, v) = true) → Tab.get d (m.filter p) j = Tab.get d m j
  | [], _, _ => rfl
  | (i, w) :: r, hm, hp => by
    have ih := Tab.get_filter p j (Bool.and_eq_true _ _ ▸ hm : _ ∧ _).2 hp
    simp only [Tab.wf, Bool.and_eq_true, decide_eq_true_eq] at hm
    have ha : ∀ x, x ≤ i → Tab.get d r x = d x := fun x hx => Tab.get_above d (Tab.above_mono hx hm.1.1)
    rw [List.filter_cons]
    split
    · simp only [Tab.get, ih]
    · simp only [Tab.get, ih]; grind

/-- What a read finds after a range of keys was made to read its defaults. -/
theorem Tab.get_dropRange {m : List (Nat × α)} (h : Tab.wf d m = true) (lo hi j : Nat) :
    Tab.get d (Tab.dropRange m lo hi) j = if lo ≤ j ∧ j < hi then d j else Tab.get d m j := by
  split
  · next hj =>
    unfold Tab.dropRange
    have key : ∀ m : List (Nat × α), (∀ e ∈ m, e.1 ≠ j) → Tab.get d m j = d j := by
      intro m
      induction m with
      | nil => intro _; rfl
      | cons e r ih =>
        intro hm
        have h1 := hm e List.mem_cons_self
        have h2 := ih fun x hx => hm x (List.mem_cons_of_mem _ hx)
        simp only [Tab.get, h2]
        grind
    refine key _ fun e he => ?_
    have := (List.mem_filter.mp he).2
    simp at this
    omega
  · next hj =>
    refine Tab.get_filter d _ j h fun v => ?_
    simp
    omega

theorem Tab.get_append_left {b : List (Nat × α)} {j : Nat} : ∀ {a : List (Nat × α)}, Tab.wf d a = true → (∀ y ∈ b, j < y.1) →
    Tab.get d (a ++ b) j = Tab.get d a j
  | [], _, h => Tab.get_above d (Tab.above_iff.mpr h)
  | (i, w) :: r, ha, h => by
    simp only [Tab.wf, Bool.and_eq_true, decide_eq_true_eq] at ha
    simp only [List.cons_append, Tab.get, Tab.get_append_left ha.2 h]

omit [DecidableEq α] in
theorem Tab.get_append_right {j : Nat} {b : List (Nat × α)} : ∀ {a : List (Nat × α)}, (∀ x ∈ a, x.1 < j) →
    Tab.get d (a ++ b) j = Tab.get d b j
  | [], _ => rfl
  | (i, w) :: r, h => by
    have h1 := h (i, w) List.mem_cons_self
    have h2 := Tab.get_append_right (b := b) fun x hx => h x (List.mem_cons_of_mem _ hx)
    simp only [List.cons_append, Tab.get, h2]
    simp only at h1
    rw [if_neg (by omega), if_neg (by omega)]

theorem Tab.get_ofList : ∀ (l : List α) (k j : Nat), (_ : k ≤ j) → (_ : j < k + l.length) → Tab.get d (Tab.ofList d k l) j = l[j - k]'(by omega)
  | [], k, j, _, h => by simp at h; omega
  | v :: vs, k, j, hk, h => by
    simp only [List.length_cons] at h
    have habove : Tab.get d (Tab.ofList d (k + 1) vs) k = d k := by
      refine Tab.get_above d (Tab.above_iff.mpr fun e he => ?_)
      have := Tab.ofList_keys d he
      omega
    rcases Nat.eq_or_lt_of_le hk with rfl | hlt
    · unfold Tab.ofList
      split
      · next e => simp [habove, e]
      · simp [Tab.get]
    · have ih := Tab.get_ofList vs (k + 1) j hlt (by omega)
      have hi : (v :: vs)[j - k]'(by simp; omega) = vs[j - (k + 1)]'(by omega) := by
        have : j - k = (j - (k + 1)) + 1 := by omega
        simp [this]
      unfold Tab.ofList
      split
      · rw [ih, hi]
      · rw [hi, ← ih]
        simp only [Tab.get]
        rw [if_neg (by omega), if_neg (by omega)]

/-- What a read of a written range finds: the value written to its key. -/
theorem Tab.get_setRange_in {m : List (Nat × α)} (k : Nat) (l : List α) (j : Nat) (hk : k ≤ j) (hl : j < k + l.length) :
    Tab.get d (Tab.setRange d m k l) j = l[j - k]'(by omega) := by
  unfold Tab.setRange
  rw [List.append_assoc]
  rw [Tab.get_append_right d fun x hx => by have := (List.mem_filter.mp hx).2; simp at this; omega]
  rw [Tab.get_append_left d (Tab.wf_ofList d l k) fun y hy => by have := (List.mem_filter.mp hy).2; simp at this; omega]
  exact Tab.get_ofList d l k j hk hl

/-- A write of a range leaves every key outside it as it was. -/
theorem Tab.get_setRange_out {m : List (Nat × α)} (h : Tab.wf d m = true) (k : Nat) (l : List α) (j : Nat)
    (hj : ¬ (k ≤ j ∧ j < k + l.length)) : Tab.get d (Tab.setRange d m k l) j = Tab.get d m j := by
  have hmid : ∀ x ∈ Tab.ofList d k l, k ≤ x.1 ∧ x.1 < k + l.length := fun x hx => Tab.ofList_keys d hx
  unfold Tab.setRange
  rw [List.append_assoc]
  by_cases h1 : j < k
  · rw [Tab.get_append_left d (Tab.wf_filter d _ h) fun y hy => ?_]
    · exact Tab.get_filter d _ j h fun v => by simpa using h1
    · rcases List.mem_append.mp hy with hy | hy
      · have := hmid y hy; omega
      · have := (List.mem_filter.mp hy).2; simp at this; omega
  · rw [Tab.get_append_right d fun x hx => by have := (List.mem_filter.mp hx).2; simp at this; omega]
    rw [Tab.get_append_right d fun x hx => by have := hmid x hx; omega]
    exact Tab.get_filter d _ j h fun v => by simp; omega

end canonical

end Sys2Proof.Machine
end

