-- ==== Sys2Proof/Laws/KeepFlags.lean ====
section
/-! SUPPORT. What Machine/Flags.lean keeps: each operation, and each command, leads from a safe state to a safe state, and no fuse goes back (Safety.lean). -/

namespace Sys2Proof.Machine

theorem FuseLe.refl (f : Fuses) : FuseLe f f := ⟨rfl, Nat.le_refl _, id⟩

theorem FuseLe.trans {a b c : Fuses} (h1 : FuseLe a b) (h2 : FuseLe b c) : FuseLe a c := by
  refine ⟨?_, Nat.le_trans h1.2.1 h2.2.1, fun h => h2.2.2 (h1.2.2 h)⟩
  rw [h2.1, h1.1]

variable {F : Fuses}

theorem Kept.ite {c : Prop} [Decidable c] {a b : State} (ha : Kept F a) (hb : Kept F b) : Kept F (if c then a else b) := by
  split
  · exact ha
  · exact hb

theorem Kept.ite_snd {α : Type} {c : Prop} [Decidable c] {a b : α × State} (ha : Kept F a.2) (hb : Kept F b.2) :
    Kept F (if c then a else b).2 := by
  split
  · exact ha
  · exact hb

theorem Kept.ite_fst {α : Type} {c : Prop} [Decidable c] {a b : State × α} (ha : Kept F a.1) (hb : Kept F b.1) :
    Kept F (if c then a else b).1 := by
  split
  · exact ha
  · exact hb

/-- An update of other fields keeps it. -/
theorem Kept.of {s t : State} (h : Kept F s) (h1 : t.fuses = s.fuses) (h2 : t.ofs = s.ofs) (h3 : t.regs = s.regs) (h4 : t.mem = s.mem)
    (h5 : t.nvm0 = s.nvm0) (h6 : t.nvm1 = s.nvm1) : Kept F t := by
  unfold Kept Safe at *
  rw [h1, h2, h3, h4, h5, h6]
  exact h

/-- What every pass of a loop keeps, the loop keeps. -/
theorem Kept.foldl {β : Type} {g : State → β → State} {l : List β} {s : State} (hg : ∀ x b, Kept F x → Kept F (g x b)) (hs : Kept F s) :
    Kept F (l.foldl g s) := by
  induction l generalizing s with
  | nil => exact hs
  | cons b l ih => exact ih (hg s b hs)

theorem Kept.readLc {s : State} (h : Kept F s) : Kept F { s with fuses := s.fuses.readLc } :=
  ⟨⟨congrArg (fun f : Fuses => { f with lc := s.fuses.majority }) h.1.1, Nat.le_trans h.1.2.1 h.2.2.1.1, h.1.2.2⟩, h.2.1,
    ⟨Nat.le_refl _, h.2.2.1.2⟩, h.2.2.2⟩

theorem Kept.zeroised {s : State} (h : Kept F s) : Kept F { s with fuses := { s.fuses with zeroised := true } } := by
  refine ⟨⟨?_, h.1.2.1, fun _ => rfl⟩, h.2⟩
  exact congrArg (fun f : Fuses => { f with zeroised := true }) h.1.1

theorem State.wr_kept {s : State} {a : Nat} {v : Nat} (h1 : Kept F s) : Kept F (State.wr s a v) := by
  unfold State.wr
  exact ⟨h1.1, h1.2.1, h1.2.2.1, Tab.wf_set _ h1.2.2.2.1 _ _, h1.2.2.2.2⟩

theorem State.setFld_kept {s : State} {a : Nat} {f : Fld} {y2 : Nat} (h1 : Kept F s) : Kept F (State.setFld s a f y2) := by
  unfold State.setFld
  exact (State.wr_kept h1)

theorem State.setFlag_kept {s : State} {a : Nat} {f : Fld} {b : Bool} (h1 : Kept F s) : Kept F (State.setFlag s a f b) := by
  unfold State.setFlag
  exact (State.setFld_kept h1)

theorem State.putBit_kept {s : State} {a : Nat} {i : Nat} {b : Bool} (h1 : Kept F s) : Kept F (State.putBit s a i b) := by
  unfold State.putBit
  exact (State.wr_kept h1)

theorem State.evt_kept {s : State} {a : Nat} {f : Fld} (h1 : Kept F s) : Kept F (State.evt s a f) := by
  unfold State.evt
  exact (State.putBit_kept h1)

theorem State.mapBit_kept {s : State} {a : Nat} {i : Nat} (h1 : Kept F s) : Kept F (State.mapBit s a i) := by
  unfold State.mapBit
  exact (State.putBit_kept h1)

theorem State.wrPair_kept {s : State} {lo : Nat} {v : Nat} (h1 : Kept F s) : Kept F (State.wrPair s lo v) := by
  unfold State.wrPair
  exact (State.wr_kept (State.wr_kept h1))

theorem State.incPair_kept {s : State} {lo : Nat} {wrapReg : Nat} {wrapBit : Nat} {n : Nat} (h1 : Kept F s) :
    Kept F (State.incPair s lo wrapReg wrapBit n) := by
  unfold State.incPair
  extract_lets +onlyGivenNames -underBinder -merge -useContext k2
  clear_value k2
  extract_lets +onlyGivenNames -underBinder -merge -useContext s3
  have h4 : Kept F s3 := by
    unfold s3
    exact (State.wrPair_kept h1)
  clear_value s3
  exact (Kept.ite (State.mapBit_kept h4) h4)

theorem State.putRes_kept {s : State} {a : Nat} {code : Nat} {detail : Nat} (h1 : Kept F s) : Kept F (State.putRes s a code detail) := by
  unfold State.putRes
  exact (State.wr_kept h1)

theorem State.pendRes_kept {s : State} {a : Nat} (h1 : Kept F s) : Kept F (State.pendRes s a) := by
  unfold State.pendRes
  exact (State.wr_kept h1)

theorem State.ackRes_kept {s : State} {a : Nat} {seq : Nat} (h1 : Kept F s) : Kept F (State.ackRes s a seq) := by
  unfold State.ackRes
  exact (Kept.ite (State.putBit_kept h1) h1)

end Sys2Proof.Machine
end

