-- ==== Sys2Proof/Laws/KeepOps.lean ====
section
/-! SUPPORT. What Machine/Ops.lean keeps: each operation, and each command, leads from a safe state to a safe state, and no fuse goes back (Safety.lean). -/

namespace Sys2Proof.Machine

variable {F : Fuses}

theorem State.send_kept {s : State} {y2 : Sent} (h1 : Kept F s) : Kept F (State.send s y2) := by
  unfold State.send
  exact (Kept.of h1 rfl rfl rfl rfl rfl rfl)

theorem State.drawn_kept {s : State} (h1 : Kept F s) : Kept F (State.drawn s) := by
  unfold State.drawn
  exact (Kept.of h1 rfl rfl rfl rfl rfl rfl)

theorem State.memPut_kept {s : State} {k : Nat} {l : List Byte} (h1 : Kept F s) : Kept F (State.memPut s k l) :=
  ⟨h1.1, h1.2.1, h1.2.2.1, h1.2.2.2.1, Tab.wf_setRange _ h1.2.2.2.2.1 _ _, h1.2.2.2.2.2⟩

theorem State.memZero_kept {s : State} {lo : Nat} {hi : Nat} (h1 : Kept F s) : Kept F (State.memZero s lo hi) :=
  ⟨h1.1, h1.2.1, h1.2.2.1, h1.2.2.2.1, Tab.wf_dropRange _ h1.2.2.2.2.1 _ _, h1.2.2.2.2.2⟩

theorem State.intPut_kept {s : State} {a : Nat} {b : BitVec 8} (h1 : Kept F s) : Kept F (State.intPut s a b) := by
  unfold State.intPut
  split
  · exact (State.memPut_kept h1)
  · exact h1

theorem State.nor_kept {s : State} {dev : Nat} (h1 : Kept F s) : Tab.wf norDefault (s.nor dev).cells = true := by
  unfold State.nor
  split
  · exact h1.2.2.2.2.2.1
  · exact h1.2.2.2.2.2.2

theorem Nor.program_kept {s : State} {dev a : Nat} {l : List Byte} (h1 : Kept F s) :
    Tab.wf norDefault ((s.nor dev).program a l).cells = true :=
  Tab.wf_setRange _ (State.nor_kept h1) _ _

theorem Nor.erase_kept {s : State} {dev a n : Nat} (h1 : Kept F s) : Tab.wf norDefault ((s.nor dev).erase a n).cells = true :=
  Tab.wf_dropRange _ (State.nor_kept h1) _ _

theorem State.setNor_kept {s : State} {dev : Nat} {n : Nor} (h1 : Kept F s) (hn : Tab.wf norDefault n.cells = true) :
    Kept F (State.setNor s dev n) := by
  unfold State.setNor
  split
  · exact ⟨h1.1, h1.2.1, h1.2.2.1, h1.2.2.2.1, h1.2.2.2.2.1, hn, h1.2.2.2.2.2.2⟩
  · exact ⟨h1.1, h1.2.1, h1.2.2.1, h1.2.2.2.1, h1.2.2.2.2.1, h1.2.2.2.2.2.1, hn⟩

theorem regWrite_kept {s : State} {a : Nat} {w : BitVec 32} (h1 : Kept F s) : Kept F (regWrite s a w) := by
  unfold regWrite
  split
  · exact ⟨h1.1, h1.2.1, h1.2.2.1, Tab.wf_set _ h1.2.2.2.1 _ _, h1.2.2.2.2⟩
  · exact h1

theorem State.countIf_kept {s : State} {frozen : Bool} {bnd : Bool} {ev : Nat} {u : Nat} {n2 : Nat} (h1 : Kept F s) :
    Kept F (State.countIf s frozen bnd ev u n2) := by
  unfold State.countIf
  refine Kept.ite ?_ ?_
  · exact h1
  · extract_lets +onlyGivenNames -underBinder -merge -useContext k3
    clear_value k3
    extract_lets +onlyGivenNames -underBinder -merge -useContext s4
    have h5 : Kept F s4 := by
      unfold s4
      exact (Kept.foldl (fun _ _ h6 => (Kept.ite (State.incPair_kept h6) h6)) h1)
    clear_value s4
    exact (Kept.foldl (fun _ _ h7 => (Kept.ite (State.incPair_kept h7) h7)) h5)

theorem State.count_kept {s : State} {ev : Nat} {u : Nat} {n : Nat} (h1 : Kept F s) : Kept F (State.count s ev u n) := by
  unfold State.count
  exact (State.countIf_kept h1)

theorem State.defaultTarget_kept {s : State} (h1 : Kept F s) : Kept F (State.defaultTarget s) := by
  unfold State.defaultTarget
  exact (State.count_kept h1)

theorem State.msiSend_kept {s : State} {v : Nat} (h1 : Kept F s) : Kept F (State.msiSend s v) := by
  unfold State.msiSend
  exact (State.send_kept h1)

theorem State.msi_kept {s : State} {v : Nat} (h1 : Kept F s) : Kept F (State.msi s v) := by
  unfold State.msi
  exact (Kept.ite h1 (Kept.ite (Kept.ite h1 (Kept.of h1 rfl rfl rfl rfl rfl rfl)) (State.msiSend_kept h1)))

theorem State.msixWrite_kept {s : State} {k : Nat} {w : BitVec 32} (h1 : Kept F s) : Kept F (State.msixWrite s k w) := by
  unfold State.msixWrite
  extract_lets +onlyGivenNames -underBinder -merge -useContext s2
  have h3 : Kept F s2 := by
    unfold s2
    exact (Kept.of h1 rfl rfl rfl rfl rfl rfl)
  clear_value s2
  extract_lets +onlyGivenNames -underBinder -merge -useContext k4
  clear_value k4
  refine Kept.ite ?_ ?_
  · refine State.msiSend_kept ?_
    exact (Kept.of h3 rfl rfl rfl rfl rfl rfl)
  · exact h3

theorem alignSettle_kept {s : State} (h1 : Kept F s) : Kept F (alignSettle s) := by
  unfold alignSettle
  extract_lets +onlyGivenNames -underBinder -merge -useContext k2
  clear_value k2
  refine Kept.ite ?_ ?_
  · extract_lets +onlyGivenNames -underBinder -merge -useContext k3
    clear_value k3
    exact (Kept.of h1 rfl rfl rfl rfl rfl rfl)
  · exact h1

theorem after_kept {s t : State} (_ : Kept F s) (h2 : Kept F t) : Kept F (after s t) := by
  have h3 : Kept F (alignSettle t) := alignSettle_kept h2
  have h4 : Kept F (if (alignSettle t).blkPending && !s.blkPending then (alignSettle t).msi 64 else alignSettle t) :=
    Kept.ite (State.msi_kept h3) h3
  exact h4

theorem checked_kept {i : Instr} {s t u : State} (h1 : Kept F s) (h2 : Kept F t) (hu : checked i s t = .next u) : Kept F u := by
  unfold checked at hu
  split at hu
  · cases hu
    exact after_kept h1 h2
  · cases hu

theorem State.setQue_kept {s : State} {q : Nat} {y2 : Que} (h1 : Kept F s) : Kept F (State.setQue s q y2) := by
  unfold State.setQue
  exact (Kept.of h1 rfl rfl rfl rfl rfl rfl)

theorem State.queDrop_kept {s : State} {q : Nat} {n : Nat} (h1 : Kept F s) : Kept F (State.queDrop s q n) := by
  unfold State.queDrop
  exact (State.count_kept (State.evt_kept (State.incPair_kept h1)))

theorem State.post_kept {s : State} {q : Nat} {rec : List Byte} (h1 : Kept F s) : Kept F (State.post s q rec) := by
  unfold State.post
  split
  · refine Kept.ite ?_ ?_
    · exact h1
    · extract_lets +onlyGivenNames -underBinder -merge -useContext k2
      clear_value k2
      refine Kept.ite ?_ ?_
      · exact (State.queDrop_kept h1)
      · extract_lets +onlyGivenNames -underBinder -merge -useContext k3
        clear_value k3
        exact (State.setQue_kept (State.memPut_kept h1))
  · exact h1

theorem State.postRole_kept {s : State} {role : Nat} {quad : Nat} {chan : Nat} {port : Nat} {rec : List Byte} (h1 : Kept F s) :
    Kept F (State.postRole s role quad chan port rec) := by
  unfold State.postRole
  split
  · exact (State.post_kept h1)
  · exact h1

theorem State.postOwned_kept {s : State} {h : Nat} {role : Nat} {rec : List Byte} (h1 : Kept F s) : Kept F (State.postOwned s h role rec) := by
  unfold State.postOwned
  split
  · split
    · exact (Kept.of h1 rfl rfl rfl rfl rfl rfl)
    · exact h1
  · exact (State.postRole_kept h1)

theorem Fuses.burn_majority {f : Fuses} {n : Nat} (ok : Nat → Bool) (hn : n ≤ 3) (h : f.majority ≤ 3) :
    f.majority ≤ (f.burn n ok).majority ∧ (f.burn n ok).majority ≤ 3 := by
  simp only [Fuses.burn, Fuses.majority] at *
  split <;> split <;> split <;> omega

theorem lcProgram_kept {s : State} {n : Nat} (h1 : Kept F s) (hn : n ≤ 3 := by decide) : Kept F (lcProgram s n) := by
  have key := Fuses.burn_majority (Config.fuseVerifies s.freeCount) hn h1.2.2.1.2
  refine ⟨⟨?_, h1.1.2.1, h1.1.2.2⟩, h1.2.1, ⟨Nat.le_trans h1.2.2.1.1 key.1, key.2⟩, h1.2.2.2⟩
  exact congrArg (fun f : Fuses => { f with lcA := (lcProgram s n).fuses.lcA, lcB := (lcProgram s n).fuses.lcB,
                                            lcC := (lcProgram s n).fuses.lcC }) h1.1.1

theorem State.putDigest_kept {s : State} {a : Nat} {d : List Byte} (h1 : Kept F s) : Kept F (State.putDigest s a d) := by
  unfold State.putDigest
  exact (Kept.foldl (fun _ _ h2 => (State.wr_kept h2)) h1)

end Sys2Proof.Machine
end

