-- ==== Sys2Proof/Laws/KeepFrameTime.lean ====
section
/-! SUPPORT. What Machine/FrameTime.lean keeps: each operation, and each command, leads from a safe state to a safe state, and no fuse goes back (Safety.lean). -/

namespace Sys2Proof.Machine

variable {F : Fuses}

theorem State.passCycles_kept {s : State} {a : Nat} {b : Nat} (h1 : Kept F s) : Kept F (State.passCycles s a b) := by
  unfold State.passCycles
  extract_lets +onlyGivenNames -underBinder -merge -useContext s2
  have h3 : Kept F s2 := by
    unfold s2
    exact (State.countIf_kept h1)
  clear_value s2
  exact (Kept.ite h3 (State.countIf_kept h3))

theorem State.toOfs_kept {s : State} {o : Nat} (h1 : Kept F s) : Kept F (State.toOfs s o) := by
  have h3 : Kept F (s.passCycles s.ofs o) := State.passCycles_kept h1
  unfold State.toOfs
  split
  · next hc =>
    simp only [Bool.and_eq_true, decide_eq_true_eq] at hc
    exact ⟨h3.1, hc.2, h3.2.2⟩
  · exact h1

theorem State.host_kept {s : State} {a : Nat} {op : State → State} (h1 : Kept F s) (h2 : ∀ a3, Kept F a3 → Kept F (op a3)) :
    Kept F (State.host s a op) := by
  unfold State.host
  exact (Kept.ite (h2 _ h1) (State.defaultTarget_kept h1))

theorem State.dropNewFn_kept {s : State} (h1 : Kept F s) : Kept F (State.dropNewFn s) := by
  unfold State.dropNewFn
  extract_lets +onlyGivenNames -underBinder -merge -useContext k2
  clear_value k2
  exact (Kept.of h1 rfl rfl rfl rfl rfl rfl)

theorem ftCapture_kept {s : State} (h1 : Kept F s) : Kept F (ftCapture s) := by
  unfold ftCapture
  exact (State.wr_kept (State.wr_kept (State.wr_kept h1)))

theorem ftArm_kept {s : State} (h1 : Kept F s) : Kept F (ftArm s) := by
  unfold ftArm
  refine Kept.ite ?_ ?_
  · exact (State.evt_kept h1)
  · extract_lets +onlyGivenNames -underBinder -merge -useContext k2 k3
    clear_value k2 k3
    refine Kept.ite ?_ ?_
    · exact (State.putRes_kept h1)
    · refine Kept.ite ?_ ?_
      · exact (State.putRes_kept h1)
      · refine Kept.ite ?_ ?_
        · exact (State.putRes_kept h1)
        · extract_lets +onlyGivenNames -underBinder -merge -useContext s4
          have h5 : Kept F s4 := by
            unfold s4
            exact (State.setFld_kept h1)
          clear_value s4
          exact (Kept.of h5 rfl rfl rfl rfl rfl rfl)

theorem ftCancel_kept {s : State} (h1 : Kept F s) : Kept F (ftCancel s) := by
  unfold ftCancel
  exact (Kept.ite (State.putRes_kept (State.setFld_kept h1)) h1)

theorem stepDone_kept {s : State} (h1 : Kept F s) : Kept F (stepDone s) := by
  unfold stepDone
  exact (State.putRes_kept (State.evt_kept (State.setFld_kept h1)))

theorem slewFrame_kept {s : State} (h1 : Kept F s) : Kept F (slewFrame s) := by
  unfold slewFrame
  exact (Kept.ite (Kept.of h1 rfl rfl rfl rfl rfl rfl) h1)

theorem storeTod_kept {s : State} {b : List Byte} (h1 : Kept F s) : Kept F (storeTod s b) := by
  unfold storeTod
  exact (State.wr_kept (State.wr_kept (State.wr_kept h1)))

theorem initAlign_kept {s : State} {sec : Option Nat} (h1 : Kept F s) : Kept F (initAlign s sec) := by
  unfold initAlign
  split
  · refine Kept.ite ?_ ?_
    · extract_lets +onlyGivenNames -underBinder -merge -useContext s2
      have h3 : Kept F s2 := by
        unfold s2
        exact (State.evt_kept (State.setFlag_kept h1))
      clear_value s2
      extract_lets +onlyGivenNames -underBinder -merge -useContext k4
      clear_value k4
      exact ⟨h3.1, by show 0 < 200000; omega, h3.2.2⟩
    · exact h1
  · exact h1

theorem ppsJudge_kept {s : State} {agree : Bool} (h1 : Kept F s) : Kept F (ppsJudge s agree) := by
  unfold ppsJudge
  extract_lets +onlyGivenNames -underBinder -merge -useContext k2 k3 k4
  clear_value k2 k3 k4
  extract_lets +onlyGivenNames -underBinder -merge -useContext s5
  have h6 : Kept F s5 := by
    unfold s5
    exact (Kept.of h1 rfl rfl rfl rfl rfl rfl)
  clear_value s5
  exact (Kept.ite (State.setFlag_kept (State.setFld_kept h6)) (Kept.ite (State.evt_kept (State.setFld_kept h6)) (State.setFld_kept h6)))

theorem ppsEdge_kept {s : State} (h1 : Kept F s) : Kept F (ppsEdge s) := by
  unfold ppsEdge
  extract_lets +onlyGivenNames -underBinder -merge -useContext k2
  clear_value k2
  extract_lets +onlyGivenNames -underBinder -merge -useContext s3
  have h4 : Kept F s3 := by
    unfold s3
    exact (Kept.of h1 rfl rfl rfl rfl rfl rfl)
  clear_value s3
  extract_lets +onlyGivenNames -underBinder -merge -useContext s5
  have h6 : Kept F s5 := by
    unfold s5
    split
    · exact (storeTod_kept h4)
    · exact (State.evt_kept h4)
  clear_value s5
  extract_lets +onlyGivenNames -underBinder -merge -useContext k7
  clear_value k7
  extract_lets +onlyGivenNames -underBinder -merge -useContext s8
  have h9 : Kept F s8 := by
    unfold s8
    exact (initAlign_kept h6)
  clear_value s8
  extract_lets +onlyGivenNames -underBinder -merge -useContext k10
  clear_value k10
  extract_lets +onlyGivenNames -underBinder -merge -useContext s11
  have h12 : Kept F s11 := by
    unfold s11
    exact (State.wr_kept h9)
  clear_value s11
  split
  · extract_lets +onlyGivenNames -underBinder -merge -useContext k13
    clear_value k13
    extract_lets +onlyGivenNames -underBinder -merge -useContext s14
    have h15 : Kept F s14 := by
      unfold s14
      exact (State.wr_kept h12)
    clear_value s14
    exact (ppsJudge_kept h15)
  · exact (ppsJudge_kept h12)

theorem ppsLoss_kept {s : State} (h1 : Kept F s) : Kept F (ppsLoss s) := by
  unfold ppsLoss
  refine Kept.ite ?_ ?_
  · extract_lets +onlyGivenNames -underBinder -merge -useContext s2
    have h3 : Kept F s2 := by
      unfold s2
      exact (State.evt_kept (State.setFld_kept h1))
    clear_value s2
    exact (Kept.of h3 rfl rfl rfl rfl rfl rfl)
  · exact h1

theorem execCapture_kept {s : State} {t : State} (h : Kept F s) (ht : execCapture s = .next t) : Kept F t :=
  checked_kept h (State.host_kept h (fun _ h1 => (ftCapture_kept h1))) ht

theorem execArm_kept {s : State} {t : State} (h : Kept F s) (ht : execArm s = .next t) : Kept F t :=
  checked_kept h (State.host_kept h (fun _ h1 => (ftArm_kept h1))) ht

theorem execCancelStep_kept {s : State} {t : State} (h : Kept F s) (ht : execCancelStep s = .next t) : Kept F t :=
  checked_kept h (State.host_kept h (fun _ h1 => (ftCancel_kept h1))) ht

theorem execStepAck_kept {seq : Nat} {s : State} {t : State} (h : Kept F s) (ht : execStepAck seq s = .next t) : Kept F t :=
  checked_kept h (State.host_kept h (fun _ h1 => (State.ackRes_kept h1))) ht

theorem execPpsEdge_kept {s : State} {t : State} (h : Kept F s) (ht : execPpsEdge s = .next t) : Kept F t :=
  checked_kept h (Kept.ite (ppsEdge_kept h) h) ht

theorem execPpsLoss_kept {s : State} {t : State} (h : Kept F s) (ht : execPpsLoss s = .next t) : Kept F t :=
  checked_kept h (ppsLoss_kept h) ht

theorem execStepApplied_kept {s : State} {t : State} (h : Kept F s) (ht : execStepApplied s = .next t) : Kept F t :=
  checked_kept h (Kept.ite (stepDone_kept h) h) ht

end Sys2Proof.Machine
end

