-- ==== Sys2Proof/Laws/KeepDefects.lean ====
section
/-! SUPPORT. What Machine/Defects.lean keeps: each operation, and each command, leads from a safe state to a safe state, and no fuse goes back (Safety.lean). -/

namespace Sys2Proof.Machine

variable {F : Fuses}

theorem State.setDef_kept {s : State} {e : Nat} {b : Nat} {on : Bool} (h1 : Kept F s) : Kept F (State.setDef s e b on) := by
  unfold State.setDef
  exact (Kept.of h1 rfl rfl rfl rfl rfl rfl)

theorem State.setDefNext_kept {s : State} {e : Nat} {b : Nat} {on : Bool} (h1 : Kept F s) : Kept F (State.setDefNext s e b on) := by
  unfold State.setDefNext
  exact (Kept.of h1 rfl rfl rfl rfl rfl rfl)

theorem State.setDefEnd_kept {s : State} {e : Nat} {b : Nat} {on : Bool} (h1 : Kept F s) : Kept F (State.setDefEnd s e b on) := by
  unfold State.setDefEnd
  exact (Kept.of h1 rfl rfl rfl rfl rfl rfl)

theorem portDown_kept {s : State} {y2 : PortDef} (h1 : Kept F s) : Kept F (portDown s y2) := by
  unfold portDown
  extract_lets +onlyGivenNames -underBinder -merge -useContext s3
  have h4 : Kept F s3 := by
    unfold s3
    exact (Kept.foldl (fun _ _ h5 => (State.setDef_kept h5)) h1)
  clear_value s3
  exact (Kept.ite h4 (Kept.of h4 rfl rfl rfl rfl rfl rfl))

end Sys2Proof.Machine
end

