-- ==== Sys2Proof/Laws/KeepOptical.lean ====
section
/-! SUPPORT. What Machine/Optical.lean keeps: each operation, and each command, leads from a safe state to a safe state, and no fuse goes back (Safety.lean). -/

namespace Sys2Proof.Machine

variable {F : Fuses}

theorem State.setElsRuns_kept {s : State} {f : Nat} {r : Nat × Nat} (h1 : Kept F s) : Kept F (State.setElsRuns s f r) := by
  unfold State.setElsRuns
  exact (Kept.of h1 rfl rfl rfl rfl rfl rfl)

theorem spareRes_kept {s : State} {g : Nat} {outcome : Nat} {lane : Nat} (h1 : Kept F s) : Kept F (spareRes s g outcome lane) := by
  unfold spareRes
  extract_lets +onlyGivenNames -underBinder -merge -useContext k2
  clear_value k2
  exact (State.wr_kept h1)

theorem State.updSpare_kept {s : State} {g : Nat} {f : Spare → Spare} (h1 : Kept F s) : Kept F (State.updSpare s g f) := by
  unfold State.updSpare
  exact (Kept.of h1 rfl rfl rfl rfl rfl rfl)

theorem setRx_kept {s : State} {g : Nat} {st : Nat} {lane : Nat} (h1 : Kept F s) : Kept F (setRx s g st lane) := by
  unfold setRx
  extract_lets +onlyGivenNames -underBinder -merge -useContext s2
  have h3 : Kept F s2 := by
    unfold s2
    exact (State.setFld_kept (State.setFld_kept h1))
  clear_value s2
  exact (State.updSpare_kept h3)

theorem setTx_kept {s : State} {g : Nat} {st : Nat} {lane : Nat} (h1 : Kept F s) : Kept F (setTx s g st lane) := by
  unfold setTx
  exact (State.setFld_kept (State.setFld_kept h1))

theorem State.updLane_kept {s : State} {g : Nat} {l : Nat} {f : Lane → Lane} (h1 : Kept F s) : Kept F (State.updLane s g l f) := by
  unfold State.updLane
  exact (Kept.of h1 rfl rfl rfl rfl rfl rfl)

theorem portEval_kept {s : State} {y2 : PortDef} (h1 : Kept F s) : Kept F (portEval s y2) := by
  unfold portEval
  extract_lets +onlyGivenNames -underBinder -merge -useContext k3 k4 k5 k6 k7 k8 k9 k10 k11 k12 k13
  clear_value k3 k4 k5 k6 k7 k8 k9 k10 k11 k12 k13
  extract_lets +onlyGivenNames -underBinder -merge -useContext s14
  have h15 : Kept F s14 := by
    unfold s14
    exact (State.wr_kept h1)
  clear_value s14
  extract_lets +onlyGivenNames -underBinder -merge -useContext s16
  have h17 : Kept F s16 := by
    unfold s16
    exact (Kept.foldl (fun _ _ h18 => (State.setDef_kept h18)) h15)
  clear_value s16
  exact (Kept.ite h17 (portDown_kept h17))

theorem skewClear_kept {s : State} {g : Nat} {src : List Nat} (h1 : Kept F s) : Kept F (skewClear s g src) := by
  unfold skewClear
  exact (Kept.foldl (fun _ _ h2 => (Kept.ite h2 (State.wr_kept h2))) h1)

theorem groupEval_kept {s : State} {g : Nat} (h1 : Kept F s) : Kept F (groupEval s g) := by
  unfold groupEval
  split
  · extract_lets +onlyGivenNames -underBinder -merge -useContext k2
    clear_value k2
    exact (Kept.foldl (fun _ _ h3 => (portEval_kept h3)) (skewClear_kept h1))
  · exact h1

theorem amTake_kept {s : State} {g : Nat} {n : Nat} (h1 : Kept F s) : Kept F (amTake s g n) := by
  unfold amTake
  extract_lets +onlyGivenNames -underBinder -merge -useContext s2
  have h3 : Kept F s2 := by
    unfold s2
    exact (State.setFlag_kept h1)
  clear_value s2
  exact (State.updLane_kept h3)

theorem laneSkew_kept {s : State} {y2 : PortDef} {l : Nat} (h1 : Kept F s) : Kept F (laneSkew s y2 l) := by
  unfold laneSkew
  extract_lets +onlyGivenNames -underBinder -merge -useContext k3
  clear_value k3
  refine Kept.ite ?_ ?_
  · refine Kept.foldl (fun _ _ h4 => ?_) h1
    split
    · extract_lets +onlyGivenNames -underBinder -merge -useContext s5
      have h6 : Kept F s5 := by
        unfold s5
        exact (State.wr_kept h4)
      clear_value s5
      exact (Kept.ite (State.evt_kept (State.updLane_kept h6)) (Kept.ite (State.updLane_kept h6) h6))
    · exact h4
  · exact (State.wr_kept h1)

theorem laneMap_kept {s : State} {y2 : PortDef} {l : Nat} (h1 : Kept F s) : Kept F (laneMap s y2 l) := by
  unfold laneMap
  extract_lets +onlyGivenNames -underBinder -merge -useContext k3 k4 k5 k6
  clear_value k3 k4 k5 k6
  extract_lets +onlyGivenNames -underBinder -merge -useContext s7
  have h8 : Kept F s7 := by
    unfold s7
    exact (State.updLane_kept h1)
  clear_value s7
  extract_lets +onlyGivenNames -underBinder -merge -useContext s9
  have h10 : Kept F s9 := by
    unfold s9
    exact (Kept.ite (State.evt_kept h8) h8)
  clear_value s9
  exact (Kept.foldl (fun _ _ h11 => (State.evt_kept (State.updLane_kept h11))) h10)

theorem spareNeed_kept {s : State} {g : Nat} {l : Nat} {reason : Nat} (h1 : Kept F s) : Kept F (spareNeed s g l reason) := by
  unfold spareNeed
  exact (Kept.ite (State.updSpare_kept (setRx_kept h1)) (Kept.ite (State.updSpare_kept h1) (spareRes_kept h1)))

theorem autoNeed_kept {s : State} {g : Nat} {l : Nat} {reason : Nat} (h1 : Kept F s) : Kept F (autoNeed s g l reason) := by
  unfold autoNeed
  extract_lets +onlyGivenNames -underBinder -merge -useContext k2
  clear_value k2
  exact (Kept.ite (spareNeed_kept h1) h1)

theorem slicesLost_kept {s : State} {g : Nat} {l : Nat} (h1 : Kept F s) : Kept F (slicesLost s g l) := by
  unfold slicesLost
  split
  · refine Kept.foldl (fun _ _ h2 => ?_) h1
    refine State.setDef_kept ?_
    exact (Kept.of h2 rfl rfl rfl rfl rfl rfl)
  · exact h1

theorem loseLock_kept {s : State} {g : Nat} {l : Nat} (h1 : Kept F s) : Kept F (loseLock s g l) := by
  unfold loseLock
  extract_lets +onlyGivenNames -underBinder -merge -useContext s2
  have h3 : Kept F s2 := by
    unfold s2
    exact (Kept.ite (State.updSpare_kept h1) h1)
  clear_value s2
  extract_lets +onlyGivenNames -underBinder -merge -useContext s4
  have h5 : Kept F s4 := by
    unfold s4
    exact (State.setFlag_kept (slicesLost_kept h3))
  clear_value s4
  extract_lets +onlyGivenNames -underBinder -merge -useContext s6
  have h7 : Kept F s6 := by
    unfold s6
    exact (State.evt_kept (State.setFlag_kept h5))
  clear_value s6
  extract_lets +onlyGivenNames -underBinder -merge -useContext s8
  have h9 : Kept F s8 := by
    unfold s8
    exact (State.setFld_kept h7)
  clear_value s8
  extract_lets +onlyGivenNames -underBinder -merge -useContext s10
  have h11 : Kept F s10 := by
    unfold s10
    exact (State.updLane_kept h9)
  clear_value s10
  exact (autoNeed_kept h11)

theorem verifySkew_kept {s : State} {g : Nat} {l : Nat} (h1 : Kept F s) : Kept F (verifySkew s g l) := by
  unfold verifySkew
  extract_lets +onlyGivenNames -underBinder -merge -useContext k2 k3
  clear_value k2 k3
  split
  · exact (Kept.ite (State.updSpare_kept h1) h1)
  · exact h1

theorem tagFields_kept {s : State} {g : Nat} {l : Nat} {t : TagRx} (h1 : Kept F s) : Kept F (tagFields s g l t) := by
  unfold tagFields
  extract_lets +onlyGivenNames -underBinder -merge -useContext k2 k3 k4 k5
  clear_value k2 k3 k4 k5
  extract_lets +onlyGivenNames -underBinder -merge -useContext s6
  have h7 : Kept F s6 := by
    unfold s6
    exact (State.setFld_kept (State.setFld_kept h1))
  clear_value s6
  extract_lets +onlyGivenNames -underBinder -merge -useContext s8
  have h9 : Kept F s8 := by
    unfold s8
    exact (State.updLane_kept h7)
  clear_value s8
  extract_lets +onlyGivenNames -underBinder -merge -useContext s10
  have h11 : Kept F s10 := by
    unfold s10
    exact (Kept.ite h9 (State.evt_kept h9))
  clear_value s10
  extract_lets +onlyGivenNames -underBinder -merge -useContext s12
  have h13 : Kept F s12 := by
    unfold s12
    exact (State.updLane_kept h11)
  clear_value s12
  extract_lets +onlyGivenNames -underBinder -merge -useContext k14
  clear_value k14
  extract_lets +onlyGivenNames -underBinder -merge -useContext s15
  have h16 : Kept F s15 := by
    unfold s15
    exact (Kept.ite (State.setFld_kept h13) h13)
  clear_value s15
  extract_lets +onlyGivenNames -underBinder -merge -useContext s17
  have h18 : Kept F s17 := by
    unfold s17
    exact (Kept.ite (State.updLane_kept h11) (Kept.ite (State.setFld_kept h16) h16))
  clear_value s17
  extract_lets +onlyGivenNames -underBinder -merge -useContext s19
  have h20 : Kept F s19 := by
    unfold s19
    split
    · exact (laneSkew_kept (laneMap_kept h18))
    · refine Kept.ite ?_ ?_
      · split
        · exact (laneSkew_kept h18)
        · exact h18
      · exact h18
  clear_value s19
  exact (groupEval_kept (verifySkew_kept h20))

theorem tagIn_kept {s : State} {g : Nat} {l : Nat} {t : TagRx} (h1 : Kept F s) : Kept F (tagIn s g l t) := by
  unfold tagIn
  extract_lets +onlyGivenNames -underBinder -merge -useContext k2 k3
  clear_value k2 k3
  extract_lets +onlyGivenNames -underBinder -merge -useContext f4
  have h5 : ∀ (a6 : State) (h7 : Kept F a6), Kept F (f4 a6) := by
    intro a6 h7
    unfold f4
    refine Kept.ite ?_ ?_
    · exact (tagFields_kept h7)
    · extract_lets +onlyGivenNames -underBinder -merge -useContext s8
      have h9 : Kept F s8 := by
        unfold s8
        exact (State.count_kept (State.evt_kept h7))
      clear_value s8
      exact (State.updLane_kept h9)
  clear_value f4
  refine Kept.ite ?_ ?_
  · exact (Kept.ite (Kept.ite (h5 _ (State.updLane_kept h1)) (Kept.ite (groupEval_kept (loseLock_kept h1)) (h5 _ (State.updLane_kept h1)))) h1)
  · extract_lets +onlyGivenNames -underBinder -merge -useContext k10
    clear_value k10
    extract_lets +onlyGivenNames -underBinder -merge -useContext s11
    have h12 : Kept F s11 := by
      unfold s11
      exact (State.updLane_kept h1)
    clear_value s11
    extract_lets +onlyGivenNames -underBinder -merge -useContext s13
    have h14 : Kept F s13 := by
      unfold s13
      exact (State.setFld_kept h12)
    clear_value s13
    exact (Kept.ite (h5 _ (State.setFlag_kept h14)) h14)

theorem laneTag_kept {s : State} {g : Nat} {l : Nat} {t : TagRx} (h1 : Kept F s) : Kept F (laneTag s g l t) := by
  unfold laneTag
  exact (Kept.ite (tagIn_kept h1) h1)

theorem spareDeny_kept {s : State} {g : Nat} (h1 : Kept F s) : Kept F (spareDeny s g) := by
  unfold spareDeny
  extract_lets +onlyGivenNames -underBinder -merge -useContext k2 k3 k4
  clear_value k2 k3 k4
  exact (Kept.ite h1 (State.updSpare_kept h1))

theorem spareRxAction_kept {s : State} {g : Nat} (h1 : Kept F s) : Kept F (spareRxAction s g) := by
  unfold spareRxAction
  extract_lets +onlyGivenNames -underBinder -merge -useContext k2 k3 k4 k5 k6 k7
  clear_value k2 k3 k4 k5 k6 k7
  exact (Kept.ite (spareRes_kept (setRx_kept h1)) (Kept.ite (State.updSpare_kept (setRx_kept h1)) (Kept.ite (setRx_kept h1) (Kept.ite (spareRes_kept (setRx_kept h1)) (Kept.ite (Kept.ite (State.updSpare_kept (setRx_kept h1)) (State.updSpare_kept h1)) (Kept.ite (setRx_kept h1) (Kept.ite (spareRes_kept (setRx_kept h1)) (Kept.ite (State.updSpare_kept h1) h1))))))))

theorem autoNeeds_kept {s : State} {g : Nat} (h1 : Kept F s) : Kept F (autoNeeds s g) := by
  unfold autoNeeds
  refine Kept.ite ?_ ?_
  · exact h1
  · split
    · exact (autoNeed_kept h1)
    · exact (autoNeed_kept h1)
    · exact h1

theorem spareTxAction_kept {s : State} {g : Nat} (h1 : Kept F s) : Kept F (spareTxAction s g) := by
  unfold spareTxAction
  extract_lets +onlyGivenNames -underBinder -merge -useContext k2 k3 k4 k5 k6 k7 k8 k9
  clear_value k2 k3 k4 k5 k6 k7 k8 k9
  extract_lets +onlyGivenNames -underBinder -merge -useContext f10
  have h11 : ∀ (a12 : State) (h13 : Kept F a12), Kept F (f10 a12) := by
    intro a12 h13
    unfold f10
    split
    · exact (State.updSpare_kept (spareRes_kept h13))
    · exact h13
  clear_value f10
  refine Kept.ite ?_ ?_
  · extract_lets +onlyGivenNames -underBinder -merge -useContext s14
    have h15 : Kept F s14 := by
      unfold s14
      exact (setTx_kept h1)
    clear_value s14
    extract_lets +onlyGivenNames -underBinder -merge -useContext s16
    have h17 : Kept F s16 := by
      unfold s16
      exact (Kept.ite (spareRes_kept h15) h15)
    clear_value s16
    exact (State.updSpare_kept h17)
  · refine Kept.ite ?_ ?_
    · refine Kept.ite ?_ ?_
      · exact h1
      · extract_lets +onlyGivenNames -underBinder -merge -useContext s18
        have h19 : Kept F s18 := by
          unfold s18
          refine h11 _ ?_
          exact (Kept.ite (spareRes_kept h1) h1)
        clear_value s18
        extract_lets +onlyGivenNames -underBinder -merge -useContext s20
        have h21 : Kept F s20 := by
          unfold s20
          exact (setTx_kept h19)
        clear_value s20
        exact (State.updSpare_kept h21)
    · refine Kept.ite ?_ ?_
      · extract_lets +onlyGivenNames -underBinder -merge -useContext s22
        have h23 : Kept F s22 := by
          unfold s22
          exact (setTx_kept h1)
        clear_value s22
        extract_lets +onlyGivenNames -underBinder -merge -useContext s24
        have h25 : Kept F s24 := by
          unfold s24
          exact (Kept.ite (spareRes_kept h23) h23)
        clear_value s24
        exact (State.updSpare_kept h25)
      · refine Kept.ite ?_ ?_
        · exact (State.updSpare_kept (spareRes_kept (setTx_kept h1)))
        · split
          · exact (Kept.ite (State.updSpare_kept (spareRes_kept h1)) (Kept.ite (State.updSpare_kept (setTx_kept h1)) (h11 _ h1)))
          · exact h1

theorem txDenial_kept {s : State} {g : Nat} (h1 : Kept F s) : Kept F (txDenial s g) := by
  unfold txDenial
  extract_lets +onlyGivenNames -underBinder -merge -useContext k2
  clear_value k2
  exact (State.updSpare_kept h1)

theorem spareAction_kept {s : State} {g : Nat} (h1 : Kept F s) : Kept F (spareAction s g) := by
  unfold spareAction
  exact (Kept.ite (groupEval_kept (autoNeeds_kept (spareDeny_kept (spareRxAction_kept (txDenial_kept (spareTxAction_kept h1)))))) h1)

theorem verifyFrame_kept {s : State} {g : Nat} (h1 : Kept F s) : Kept F (verifyFrame s g) := by
  unfold verifyFrame
  exact (Kept.ite h1 (State.updSpare_kept h1))

theorem spareVerifyEnd_kept {s : State} {g : Nat} {pass : Bool} (h1 : Kept F s) : Kept F (spareVerifyEnd s g pass) := by
  unfold spareVerifyEnd
  extract_lets +onlyGivenNames -underBinder -merge -useContext k2 k3 k4 k5
  clear_value k2 k3 k4 k5
  exact (Kept.ite (Kept.ite (groupEval_kept (amTake_kept (setRx_kept h1))) (State.updSpare_kept (spareRes_kept (setRx_kept h1)))) (Kept.ite (Kept.ite (groupEval_kept (amTake_kept (spareRes_kept (setRx_kept h1)))) (spareRes_kept (setRx_kept h1))) h1))

theorem spareTimeout_kept {s : State} {g : Nat} (h1 : Kept F s) : Kept F (spareTimeout s g) := by
  unfold spareTimeout
  exact (Kept.ite (spareRes_kept (setRx_kept h1)) h1)

theorem pauseEnd_kept {s : State} {g : Nat} (h1 : Kept F s) : Kept F (pauseEnd s g) := by
  unfold pauseEnd
  exact (Kept.ite (autoNeeds_kept (State.updSpare_kept h1)) h1)

theorem spareRequest_kept {s : State} {g : Nat} {l : Nat} (h1 : Kept F s) : Kept F (spareRequest s g l) := by
  unfold spareRequest
  exact (Kept.ite (spareRes_kept h1) (spareNeed_kept h1))

theorem spareRelease_kept {s : State} {g : Nat} {l : Nat} (h1 : Kept F s) : Kept F (spareRelease s g l) := by
  unfold spareRelease
  exact (Kept.ite (setRx_kept h1) (spareRes_kept h1))

theorem txBridge_kept {s : State} {g : Nat} {l : Nat} (h1 : Kept F s) : Kept F (txBridge s g l) := by
  unfold txBridge
  exact (Kept.ite (spareRes_kept h1) (Kept.ite (spareRes_kept h1) (State.updSpare_kept h1)))

theorem txUnbridge_kept {s : State} {g : Nat} {l : Nat} (h1 : Kept F s) : Kept F (txUnbridge s g l) := by
  unfold txUnbridge
  exact (Kept.ite (setTx_kept h1) (spareRes_kept h1))

theorem laserBridges_kept {s : State} {f : Nat} (h1 : Kept F s) : Kept F (laserBridges s f) := by
  unfold laserBridges
  refine Kept.ite ?_ ?_
  · refine Kept.foldl (fun _ _ h2 => ?_) h1
    extract_lets +onlyGivenNames -underBinder -merge -useContext k3
    clear_value k3
    refine Kept.ite ?_ ?_
    · extract_lets +onlyGivenNames -underBinder -merge -useContext s4
      have h5 : Kept F s4 := by
        unfold s4
        split
        · exact (spareRes_kept h2)
        · exact h2
      clear_value s4
      exact (State.updSpare_kept (setTx_kept h5))
    · exact h2
  · exact h1

theorem setEls_kept {s : State} {f : Nat} {st : Nat} (h1 : Kept F s) : Kept F (setEls s f st) := by
  unfold setEls
  extract_lets +onlyGivenNames -underBinder -merge -useContext s2
  have h3 : Kept F s2 := by
    unfold s2
    exact (State.setElsRuns_kept (State.setFld_kept h1))
  clear_value s2
  extract_lets +onlyGivenNames -underBinder -merge -useContext s4
  have h5 : Kept F s4 := by
    unfold s4
    exact (Kept.ite (State.mapBit_kept h3) h3)
  clear_value s4
  exact (Kept.ite (laserBridges_kept h5) h5)

theorem elsStateChange_kept {s : State} {f : Nat} (h1 : Kept F s) : Kept F (elsStateChange s f) := by
  unfold elsStateChange
  extract_lets +onlyGivenNames -underBinder -merge -useContext k2 k3
  clear_value k2 k3
  exact (Kept.ite h1 (Kept.ite (setEls_kept h1) (Kept.ite (setEls_kept h1) (Kept.ite (setEls_kept h1) (Kept.ite (setEls_kept h1) h1)))))

theorem elsSample_kept {s : State} {f : Nat} {pw : Int} (h1 : Kept F s) : Kept F (elsSample s f pw) := by
  unfold elsSample
  extract_lets +onlyGivenNames -underBinder -merge -useContext s2
  have h3 : Kept F s2 := by
    unfold s2
    exact (State.setFld_kept h1)
  clear_value s2
  extract_lets +onlyGivenNames -underBinder -merge -useContext k4
  clear_value k4
  extract_lets +onlyGivenNames -underBinder -merge -useContext s5
  have h6 : Kept F s5 := by
    unfold s5
    exact (Kept.ite (State.mapBit_kept h3) h3)
  clear_value s5
  extract_lets +onlyGivenNames -underBinder -merge -useContext s7
  have h8 : Kept F s7 := by
    unfold s7
    exact (State.setFlag_kept h6)
  clear_value s7
  extract_lets +onlyGivenNames -underBinder -merge -useContext k9
  clear_value k9
  refine Kept.ite ?_ ?_
  · exact h8
  · refine Kept.ite ?_ ?_
    · exact (setEls_kept h8)
    · extract_lets +onlyGivenNames -underBinder -merge -useContext k10 k11
      clear_value k10 k11
      exact (State.setElsRuns_kept h8)

theorem elsDrive_kept {s : State} (h1 : Kept F s) : Kept F (elsDrive s) := by
  unfold elsDrive
  extract_lets +onlyGivenNames -underBinder -merge -useContext k2
  clear_value k2
  refine Kept.foldl (fun _ _ h3 => ?_) h1
  extract_lets +onlyGivenNames -underBinder -merge -useContext k4
  clear_value k4
  refine Kept.ite ?_ ?_
  · exact h3
  · extract_lets +onlyGivenNames -underBinder -merge -useContext s5
    have h6 : Kept F s5 := by
      unfold s5
      exact (State.setElsRuns_kept (State.setFlag_kept h3))
    clear_value s5
    exact (Kept.ite h6 (State.setFld_kept h6))

theorem elsChain_kept {s : State} (h1 : Kept F s) : Kept F (elsChain s) := by
  unfold elsChain
  exact (Kept.of h1 rfl rfl rfl rfl rfl rfl)

theorem elsReform_kept {s : State} (h1 : Kept F s) : Kept F (elsReform s) := by
  unfold elsReform
  exact (Kept.ite (elsChain_kept (elsDrive_kept h1)) h1)

theorem mateLaserMove_kept {s : State} {m : Nat} {biasOk : List Nat} (h1 : Kept F s) : Kept F (mateLaserMove s m biasOk) := by
  unfold mateLaserMove
  extract_lets +onlyGivenNames -underBinder -merge -useContext k2
  clear_value k2
  refine Kept.ite ?_ ?_
  · exact h1
  · split
    · extract_lets +onlyGivenNames -underBinder -merge -useContext s3
      have h4 : Kept F s3 := by
        unfold s3
        exact (State.wr_kept h1)
      clear_value s3
      exact (Kept.of h4 rfl rfl rfl rfl rfl rfl)
    · exact h1

theorem portSend_kept {s : State} {y2 : PortDef} (h1 : Kept F s) : Kept F (portSend s y2) := by
  unfold portSend
  extract_lets +onlyGivenNames -underBinder -merge -useContext k3 k4
  clear_value k3 k4
  extract_lets +onlyGivenNames -underBinder -merge -useContext s5
  have h6 : Kept F s5 := by
    unfold s5
    refine Kept.foldl (fun _ _ h7 => ?_) h1
    refine Kept.ite ?_ ?_
    · extract_lets +onlyGivenNames -underBinder -merge -useContext k8
      clear_value k8
      extract_lets +onlyGivenNames -underBinder -merge -useContext s9
      have h10 : Kept F s9 := by
        unfold s9
        exact (State.send_kept h7)
      clear_value s9
      exact (Kept.ite (tagIn_kept h10) h10)
    · exact h7
  clear_value s5
  exact (Kept.of h6 rfl rfl rfl rfl rfl rfl)

theorem idleSend_kept {s : State} {g : Nat} (h1 : Kept F s) : Kept F (idleSend s g) := by
  unfold idleSend
  refine Kept.ite ?_ ?_
  · extract_lets +onlyGivenNames -underBinder -merge -useContext k2 k3
    clear_value k2 k3
    extract_lets +onlyGivenNames -underBinder -merge -useContext s4
    have h5 : Kept F s4 := by
      unfold s4
      refine State.send_kept ?_
      exact (Kept.of h1 rfl rfl rfl rfl rfl rfl)
    clear_value s4
    exact (Kept.ite (tagIn_kept h5) h5)
  · exact h1

theorem laneSend_kept {s : State} {g : Nat} {l : Nat} (h1 : Kept F s) : Kept F (laneSend s g l) := by
  unfold laneSend
  split
  · exact (portSend_kept h1)
  · exact (Kept.ite (idleSend_kept h1) h1)

theorem lightLoss_kept {s : State} {g : Nat} {l : Nat} (h1 : Kept F s) : Kept F (lightLoss s g l) := by
  unfold lightLoss
  refine Kept.ite ?_ ?_
  · extract_lets +onlyGivenNames -underBinder -merge -useContext s2
    have h3 : Kept F s2 := by
      unfold s2
      exact (State.setFlag_kept h1)
    clear_value s2
    exact (Kept.ite (autoNeed_kept (State.evt_kept h3)) h3)
  · exact h1

theorem lightReturn_kept {s : State} {g : Nat} {l : Nat} (h1 : Kept F s) : Kept F (lightReturn s g l) := by
  unfold lightReturn
  exact (Kept.ite h1 (State.setFlag_kept h1))

theorem laneUnused_kept {s : State} {g : Nat} {l : Nat} (h1 : Kept F s) : Kept F (laneUnused s g l) := by
  unfold laneUnused
  refine Kept.ite ?_ ?_
  · exact h1
  · extract_lets +onlyGivenNames -underBinder -merge -useContext s2
    have h3 : Kept F s2 := by
      unfold s2
      exact (State.setFlag_kept (State.setFlag_kept h1))
    clear_value s2
    exact (State.updLane_kept (State.setFld_kept h3))

theorem laneDegraded_kept {s : State} {g : Nat} {l : Nat} (h1 : Kept F s) : Kept F (laneDegraded s g l) := by
  unfold laneDegraded
  extract_lets +onlyGivenNames -underBinder -merge -useContext k2
  clear_value k2
  exact (Kept.ite (autoNeed_kept (State.updLane_kept h1)) h1)

theorem laneFrame_kept {s : State} {g : Nat} {l : Nat} (h1 : Kept F s) : Kept F (laneFrame s g l) := by
  unfold laneFrame
  extract_lets +onlyGivenNames -underBinder -merge -useContext k2
  clear_value k2
  exact (State.updLane_kept h1)

theorem opticalFrame_kept {s : State} {inp : FrameInput} (h1 : Kept F s) : Kept F (opticalFrame s inp) := by
  unfold opticalFrame
  extract_lets +onlyGivenNames -underBinder -merge -useContext s2
  have h3 : Kept F s2 := by
    unfold s2
    exact (Kept.of h1 rfl rfl rfl rfl rfl rfl)
  clear_value s2
  extract_lets +onlyGivenNames -underBinder -merge -useContext s4
  have h5 : Kept F s4 := by
    unfold s4
    exact (Kept.foldl (fun _ _ h6 => (State.setFld_kept h6)) h3)
  clear_value s4
  extract_lets +onlyGivenNames -underBinder -merge -useContext s7
  have h8 : Kept F s7 := by
    unfold s7
    exact (Kept.foldl (fun _ _ h9 => (laneUnused_kept (laneFrame_kept h9))) h5)
  clear_value s7
  extract_lets +onlyGivenNames -underBinder -merge -useContext s10
  have h11 : Kept F s10 := by
    unfold s10
    exact (Kept.foldl (fun _ _ h12 => (verifyFrame_kept h12)) h8)
  clear_value s10
  extract_lets +onlyGivenNames -underBinder -merge -useContext s13
  have h14 : Kept F s13 := by
    unfold s13
    split
    · exact (Kept.foldl (fun _ _ h15 => (Kept.ite h15 (State.count_kept h15))) h11)
    · exact h11
  clear_value s13
  extract_lets +onlyGivenNames -underBinder -merge -useContext s16
  have h17 : Kept F s16 := by
    unfold s16
    refine Kept.foldl (fun _ _ h18 => ?_) h14
    split
    · exact (elsSample_kept h18)
    · exact (elsSample_kept h18)
  clear_value s16
  extract_lets +onlyGivenNames -underBinder -merge -useContext s19
  have h20 : Kept F s19 := by
    unfold s19
    exact (elsDrive_kept h17)
  clear_value s19
  exact (Kept.foldl (fun _ _ h21 => (Kept.ite (State.wrPair_kept h21) h21)) h20)

theorem State.inGroup_kept {s : State} {g : Nat} {op : State → State} (h1 : Kept F s) (h2 : ∀ a3, Kept F a3 → Kept F (op a3)) :
    Kept F (State.inGroup s g op) := by
  unfold State.inGroup
  exact (Kept.ite (h2 _ h1) h1)

theorem execLaneLightLoss_kept {g : Nat} {lane : Nat} {s : State} {t : State} (h : Kept F s) (ht : execLaneLightLoss g lane s = .next t) :
    Kept F t :=
  checked_kept h (State.inGroup_kept h (fun _ h1 => (lightLoss_kept h1))) ht

theorem execLaneLightReturn_kept {g : Nat} {lane : Nat} {s : State} {t : State} (h : Kept F s) (ht : execLaneLightReturn g lane s = .next t) :
    Kept F t :=
  checked_kept h (State.inGroup_kept h (fun _ h1 => (lightReturn_kept h1))) ht

theorem execLaneDegraded_kept {g : Nat} {lane : Nat} {s : State} {t : State} (h : Kept F s) (ht : execLaneDegraded g lane s = .next t) : Kept F t :=
  checked_kept h (State.inGroup_kept h (fun _ h1 => (laneDegraded_kept h1))) ht

theorem execSpareTimeout_kept {g : Nat} {s : State} {t : State} (h : Kept F s) (ht : execSpareTimeout g s = .next t) : Kept F t :=
  checked_kept h (State.inGroup_kept h (fun _ h1 => (spareTimeout_kept h1))) ht

theorem execAutoRequestPauseEnd_kept {g : Nat} {s : State} {t : State} (h : Kept F s) (ht : execAutoRequestPauseEnd g s = .next t) : Kept F t :=
  checked_kept h (pauseEnd_kept h) ht

theorem execSpareRequest_kept {g : Nat} {lane : Nat} {s : State} {t : State} (h : Kept F s) (ht : execSpareRequest g lane s = .next t) : Kept F t :=
  checked_kept h (State.host_kept h (fun _ h1 => (spareRequest_kept h1))) ht

theorem execSpareRelease_kept {g : Nat} {lane : Nat} {s : State} {t : State} (h : Kept F s) (ht : execSpareRelease g lane s = .next t) : Kept F t :=
  checked_kept h (State.host_kept h (fun _ h1 => (spareRelease_kept h1))) ht

theorem execTxBridge_kept {g : Nat} {lane : Nat} {s : State} {t : State} (h : Kept F s) (ht : execTxBridge g lane s = .next t) : Kept F t :=
  checked_kept h (State.host_kept h (fun _ h1 => (txBridge_kept h1))) ht

theorem execTxUnbridge_kept {g : Nat} {lane : Nat} {s : State} {t : State} (h : Kept F s) (ht : execTxUnbridge g lane s = .next t) : Kept F t :=
  checked_kept h (State.host_kept h (fun _ h1 => (txUnbridge_kept h1))) ht

theorem execSpareAck_kept {g : Nat} {seq : Nat} {s : State} {t : State} (h : Kept F s) (ht : execSpareAck g seq s = .next t) : Kept F t :=
  checked_kept h (State.host_kept h (fun _ h1 => (State.ackRes_kept h1))) ht

theorem execElsStateChange_kept {fibre : Nat} {s : State} {t : State} (h : Kept F s) (ht : execElsStateChange fibre s = .next t) : Kept F t :=
  checked_kept h (elsStateChange_kept h) ht

theorem execMateLaserMove_kept {lane : Nat} {biasOk : List Nat} {s : State} {t : State} (h : Kept F s) (ht : execMateLaserMove lane biasOk s = .next t) :
    Kept F t :=
  checked_kept h (mateLaserMove_kept h) ht

end Sys2Proof.Machine
end

