-- ==== Sys2Proof/Laws/KeepOverhead.lean ====
section
/-! SUPPORT. What Machine/Overhead.lean keeps: each operation, and each command, leads from a safe state to a safe state, and no fuse goes back (Safety.lean). -/

namespace Sys2Proof.Machine

variable {F : Fuses}

theorem State.updOh_kept {s : State} {e : Nat} {f : Oh → Oh} (h1 : Kept F s) : Kept F (State.updOh s e f) := by
  unfold State.updOh
  exact (Kept.of h1 rfl rfl rfl rfl rfl rfl)

theorem State.updSlc_kept {s : State} {v : Nat} {f : Slice → Slice} (h1 : Kept F s) : Kept F (State.updSlc s v f) := by
  unfold State.updSlc
  exact (Kept.of h1 rfl rfl rfl rfl rfl rfl)

theorem State.updPm_kept {s : State} {e : Nat} {f : Pm → Pm} (h1 : Kept F s) : Kept F (State.updPm s e f) := by
  unfold State.updPm
  exact (Kept.of h1 rfl rfl rfl rfl rfl rfl)

theorem State.updOdu_kept {s : State} {i : Nat} {f : Odu → Odu} (h1 : Kept F s) : Kept F (State.updOdu s i f) := by
  unfold State.updOdu
  exact (Kept.of h1 rfl rfl rfl rfl rfl rfl)

theorem ttiByte_kept {s : State} {e : Nat} {b : Nat} {mfas : Nat} {y2 : BitVec 8} (h1 : Kept F s) : Kept F (ttiByte s e b mfas y2) := by
  unfold ttiByte
  extract_lets +onlyGivenNames -underBinder -merge -useContext k3 k4 k5 k6
  clear_value k3 k4 k5 k6
  refine Kept.ite ?_ ?_
  · extract_lets +onlyGivenNames -underBinder -merge -useContext k7
    clear_value k7
    extract_lets +onlyGivenNames -underBinder -merge -useContext s8
    have h9 : Kept F s8 := by
      unfold s8
      exact (State.updOh_kept h1)
    clear_value s8
    refine Kept.ite ?_ ?_
    · extract_lets +onlyGivenNames -underBinder -merge -useContext k10
      clear_value k10
      extract_lets +onlyGivenNames -underBinder -merge -useContext s11
      have h12 : Kept F s11 := by
        unfold s11
        exact (State.updOh_kept h9)
      clear_value s11
      extract_lets +onlyGivenNames -underBinder -merge -useContext s13
      have h14 : Kept F s13 := by
        unfold s13
        exact (State.memPut_kept h12)
      clear_value s13
      exact (State.setDef_kept h14)
    · exact h9
  · exact (State.updOh_kept h1)

theorem countBlock_kept {s : State} {e : Nat} {err : Bool} {ferr : Bool} (h1 : Kept F s) : Kept F (countBlock s e err ferr) := by
  unfold countBlock
  exact (State.updPm_kept h1)

theorem statAccept_kept {s : State} {e : Nat} {v : Nat} {codes : List (Nat × Nat)} (h1 : Kept F s) : Kept F (statAccept s e v codes) := by
  unfold statAccept
  extract_lets +onlyGivenNames -underBinder -merge -useContext s2
  have h3 : Kept F s2 := by
    unfold s2
    exact (State.updOh_kept h1)
  clear_value s2
  split
  · exact (Kept.foldl (fun _ _ h4 => (State.setDef_kept h4)) h3)
  · exact h3

theorem bdiAccept_kept {s : State} {e : Nat} {b : Nat} {y2 : Bool} (h1 : Kept F s) : Kept F (bdiAccept s e b y2) := by
  unfold bdiAccept
  extract_lets +onlyGivenNames -underBinder -merge -useContext s3
  have h4 : Kept F s3 := by
    unfold s3
    exact (State.updOh_kept h1)
  clear_value s3
  exact (State.setDef_kept h4)

theorem biaeAccept_kept {s : State} {e : Nat} {b : Nat} {bei : Nat} (h1 : Kept F s) : Kept F (biaeAccept s e b bei) := by
  unfold biaeAccept
  extract_lets +onlyGivenNames -underBinder -merge -useContext s2
  have h3 : Kept F s2 := by
    unfold s2
    exact (State.updOh_kept h1)
  clear_value s2
  exact (State.setDef_kept h3)

theorem gccFull_kept {port ch : Nat} : ∀ {n : Nat} {s : State}, Kept F s → Kept F (gccFull port ch n s)
  | 0, _, h => h
  | n + 1, s, h => by
    unfold gccFull
    extract_lets +onlyGivenNames -underBinder -merge -useContext x
    clear_value x
    split
    · exact h
    · extract_lets +onlyGivenNames -underBinder -merge -useContext s1
      have h1 : Kept F s1 := State.postRole_kept h
      clear_value s1
      exact gccFull_kept (n := n) h1

theorem gccCapture_kept {s : State} {port : Nat} {ch : Nat} {bytes : List Byte} (h1 : Kept F s) : Kept F (gccCapture s port ch bytes) := by
  unfold gccCapture
  refine Kept.ite ?_ ?_
  · exact h1
  · extract_lets +onlyGivenNames -underBinder -merge -useContext k2 k3
    clear_value k2 k3
    extract_lets +onlyGivenNames -underBinder -merge -useContext s4
    have h5 : Kept F s4 := by
      unfold s4
      exact (Kept.of h1 rfl rfl rfl rfl rfl rfl)
    clear_value s4
    exact (gccFull_kept h5)

theorem gccFlush_kept {s : State} {port : Nat} {ch : Nat} (h1 : Kept F s) : Kept F (gccFlush s port ch) := by
  unfold gccFlush
  extract_lets +onlyGivenNames -underBinder -merge -useContext k2 k3
  clear_value k2 k3
  refine Kept.ite ?_ ?_
  · exact h1
  · extract_lets +onlyGivenNames -underBinder -merge -useContext s4
    have h5 : Kept F s4 := by
      unfold s4
      exact (State.postRole_kept h1)
    clear_value s4
    exact (Kept.of h5 rfl rfl rfl rfl rfl rfl)

theorem gccTx_kept {s : State} {port : Nat} {ch : Nat} (h1 : Kept F s) : Kept F (gccTx s port ch) := by
  unfold gccTx
  split
  · split
    · extract_lets +onlyGivenNames -underBinder -merge -useContext k2
      clear_value k2
      refine Kept.ite ?_ ?_
      · exact h1
      · extract_lets +onlyGivenNames -underBinder -merge -useContext k3 k4
        clear_value k3 k4
        extract_lets +onlyGivenNames -underBinder -merge -useContext s5
        have h6 : Kept F s5 := by
          unfold s5
          exact (State.setQue_kept h1)
        clear_value s5
        extract_lets +onlyGivenNames -underBinder -merge -useContext k7
        clear_value k7
        exact (Kept.ite (State.send_kept h6) (State.queDrop_kept h6))
    · exact h1
  · exact h1

theorem fecCount_kept {s : State} {g : Nat} {l : Nat} {cor : Nat} {unc : Nat} (h1 : Kept F s) : Kept F (fecCount s g l cor unc) := by
  unfold fecCount
  extract_lets +onlyGivenNames -underBinder -merge -useContext s2
  have h3 : Kept F s2 := by
    unfold s2
    exact (State.incPair_kept h1)
  clear_value s2
  extract_lets +onlyGivenNames -underBinder -merge -useContext s4
  have h5 : Kept F s4 := by
    unfold s4
    exact (State.incPair_kept h3)
  clear_value s4
  extract_lets +onlyGivenNames -underBinder -merge -useContext s6
  have h7 : Kept F s6 := by
    unfold s6
    exact (State.count_kept (State.count_kept h5))
  clear_value s6
  extract_lets +onlyGivenNames -underBinder -merge -useContext s8
  have h9 : Kept F s8 := by
    unfold s8
    exact (Kept.ite (State.updSpare_kept h7) h7)
  clear_value s8
  exact (State.updLane_kept h9)

theorem amCheck_kept {s : State} {y2 : PortDef} {l : Nat} {v : Nat} {good : Bool} (h1 : Kept F s) : Kept F (amCheck s y2 l v good) := by
  unfold amCheck
  extract_lets +onlyGivenNames -underBinder -merge -useContext k3
  clear_value k3
  extract_lets +onlyGivenNames -underBinder -merge -useContext s4
  have h5 : Kept F s4 := by
    unfold s4
    exact (State.updLane_kept h1)
  clear_value s4
  extract_lets +onlyGivenNames -underBinder -merge -useContext k6 k7 k8 k9
  clear_value k6 k7 k8 k9
  extract_lets +onlyGivenNames -underBinder -merge -useContext s10
  have h11 : Kept F s10 := by
    unfold s10
    exact (State.setFlag_kept h5)
  clear_value s10
  extract_lets +onlyGivenNames -underBinder -merge -useContext s12
  have h13 : Kept F s12 := by
    unfold s12
    exact (Kept.ite (State.evt_kept h11) h11)
  clear_value s12
  exact (Kept.ite h13 (groupEval_kept h13))

theorem fasCheck_kept {s : State} {v : Nat} {pos : Nat} {wrong : Nat} {mfas : Nat} (h1 : Kept F s) : Kept F (fasCheck s v pos wrong mfas) := by
  unfold fasCheck
  extract_lets +onlyGivenNames -underBinder -merge -useContext k2 k3
  clear_value k2 k3
  extract_lets +onlyGivenNames -underBinder -merge -useContext s4
  have h5 : Kept F s4 := by
    unfold s4
    exact (Kept.ite (State.updSlc_kept h1) (State.updSlc_kept h1))
  clear_value s4
  exact (State.setDef_kept h5)

theorem mfasCheck_kept {s : State} {v : Nat} {mfas : Nat} (h1 : Kept F s) : Kept F (mfasCheck s v mfas) := by
  unfold mfasCheck
  extract_lets +onlyGivenNames -underBinder -merge -useContext k2 k3
  clear_value k2 k3
  extract_lets +onlyGivenNames -underBinder -merge -useContext s4
  have h5 : Kept F s4 := by
    unfold s4
    exact (State.updSlc_kept h1)
  clear_value s4
  exact (State.setDef_kept h5)

theorem flexoCheck_kept {s : State} {y2 : PortDef} {v : Nat} {f : Bool × Nat × Nat × Nat} (h1 : Kept F s) : Kept F (flexoCheck s y2 v f) := by
  unfold flexoCheck
  refine Kept.ite ?_ ?_
  · extract_lets +onlyGivenNames -underBinder -merge -useContext s3
    have h4 : Kept F s3 := by
      unfold s3
      exact (State.updSlc_kept h1)
    clear_value s3
    extract_lets +onlyGivenNames -underBinder -merge -useContext k5 k6 k7
    clear_value k5 k6 k7
    exact (Kept.ite (State.setDef_kept h4) h4)
  · exact h1

theorem msimEval_kept {s : State} {i : Nat} (h1 : Kept F s) : Kept F (msimEval s i) := by
  unfold msimEval
  split
  · split
    · exact (State.setDef_kept h1)
    · exact h1
  · exact h1

theorem msiAccept_kept {s : State} {v : Nat} {l : List (Nat × Nat × Nat)} (h1 : Kept F s) : Kept F (msiAccept s v l) := by
  unfold msiAccept
  refine Kept.foldl (fun _ _ h2 => ?_) h1
  extract_lets +onlyGivenNames -underBinder -merge -useContext s3
  have h4 : Kept F s3 := by
    unfold s3
    exact (State.updSlc_kept h2)
  clear_value s3
  split
  · extract_lets +onlyGivenNames -underBinder -merge -useContext k5
    clear_value k5
    exact (Kept.ite h4 (msimEval_kept h4))
  · exact h4

theorem portOverhead_kept {s : State} {y2 : PortDef} {v : Nat} {r : OtucRx} (h1 : Kept F s) : Kept F (portOverhead s y2 v r) := by
  unfold portOverhead
  extract_lets +onlyGivenNames -underBinder -merge -useContext k3 k4
  clear_value k3 k4
  extract_lets +onlyGivenNames -underBinder -merge -useContext s5
  have h6 : Kept F s5 := by
    unfold s5
    exact (ttiByte_kept h1)
  clear_value s5
  extract_lets +onlyGivenNames -underBinder -merge -useContext s7
  have h8 : Kept F s7 := by
    unfold s7
    exact (bdiAccept_kept h6)
  clear_value s7
  extract_lets +onlyGivenNames -underBinder -merge -useContext s9
  have h10 : Kept F s9 := by
    unfold s9
    exact (State.updSlc_kept h8)
  clear_value s9
  extract_lets +onlyGivenNames -underBinder -merge -useContext s11
  have h12 : Kept F s11 := by
    unfold s11
    exact (State.setDef_kept h10)
  clear_value s11
  extract_lets +onlyGivenNames -underBinder -merge -useContext s13
  have h14 : Kept F s13 := by
    unfold s13
    exact (statAccept_kept h12)
  clear_value s13
  extract_lets +onlyGivenNames -underBinder -merge -useContext s15
  have h16 : Kept F s15 := by
    unfold s15
    exact (ttiByte_kept h14)
  clear_value s15
  extract_lets +onlyGivenNames -underBinder -merge -useContext s17
  have h18 : Kept F s17 := by
    unfold s17
    exact (bdiAccept_kept h16)
  clear_value s17
  extract_lets +onlyGivenNames -underBinder -merge -useContext s19
  have h20 : Kept F s19 := by
    unfold s19
    exact (statAccept_kept h18)
  clear_value s19
  extract_lets +onlyGivenNames -underBinder -merge -useContext s21
  have h22 : Kept F s21 := by
    unfold s21
    split
    · extract_lets +onlyGivenNames -underBinder -merge -useContext s23
      have h24 : Kept F s23 := by
        unfold s23
        exact (State.updSlc_kept h20)
      clear_value s23
      split
      · exact (State.setDef_kept h24)
      · exact h24
    · exact h20
  clear_value s21
  exact (gccCapture_kept (gccCapture_kept (gccCapture_kept h22)))

theorem otucSlice_kept {s : State} {y2 : PortDef} {v : Nat} {r : OtucRx} (h1 : Kept F s) : Kept F (otucSlice s y2 v r) := by
  unfold otucSlice
  extract_lets +onlyGivenNames -underBinder -merge -useContext k3
  clear_value k3
  refine Kept.ite ?_ ?_
  · exact h1
  · extract_lets +onlyGivenNames -underBinder -merge -useContext s4
    have h5 : Kept F s4 := by
      unfold s4
      exact (fasCheck_kept h1)
    clear_value s4
    extract_lets +onlyGivenNames -underBinder -merge -useContext s6
    have h7 : Kept F s6 := by
      unfold s6
      exact (Kept.ite (mfasCheck_kept h5) (State.updSlc_kept h5))
    clear_value s6
    refine Kept.ite ?_ ?_
    · exact h7
    · extract_lets +onlyGivenNames -underBinder -merge -useContext k8
      clear_value k8
      extract_lets +onlyGivenNames -underBinder -merge -useContext s9
      have h10 : Kept F s9 := by
        unfold s9
        split
        · exact (flexoCheck_kept h7)
        · exact h7
      clear_value s9
      extract_lets +onlyGivenNames -underBinder -merge -useContext s11
      have h12 : Kept F s11 := by
        unfold s11
        exact (countBlock_kept h10)
      clear_value s11
      extract_lets +onlyGivenNames -underBinder -merge -useContext s13
      have h14 : Kept F s13 := by
        unfold s13
        exact (Kept.ite (State.count_kept h12) h12)
      clear_value s13
      extract_lets +onlyGivenNames -underBinder -merge -useContext s15
      have h16 : Kept F s15 := by
        unfold s15
        exact (State.updOh_kept h14)
      clear_value s15
      extract_lets +onlyGivenNames -underBinder -merge -useContext s17
      have h18 : Kept F s17 := by
        unfold s17
        exact (biaeAccept_kept h16)
      clear_value s17
      extract_lets +onlyGivenNames -underBinder -merge -useContext s19
      have h20 : Kept F s19 := by
        unfold s19
        exact (countBlock_kept h18)
      clear_value s19
      extract_lets +onlyGivenNames -underBinder -merge -useContext s21
      have h22 : Kept F s21 := by
        unfold s21
        exact (State.updSlc_kept h20)
      clear_value s21
      extract_lets +onlyGivenNames -underBinder -merge -useContext s23
      have h24 : Kept F s23 := by
        unfold s23
        exact (msiAccept_kept h22)
      clear_value s23
      exact (Kept.ite (portOverhead_kept h24) h24)

theorem lateStat_kept {show_ : State → State} {s : State} (h1 : ∀ a2, Kept F a2 → Kept F (show_ a2)) (h3 : Kept F s) :
    Kept F (lateStat show_ s) := by
  unfold lateStat
  exact (Kept.ite (h1 _ h3) h3)

theorem otucIn_kept {s : State} {v : Nat} {r : OtucRx} (h1 : Kept F s) : Kept F (otucIn s v r) := by
  unfold otucIn
  split
  · refine Kept.ite ?_ ?_
    · exact h1
    · extract_lets +onlyGivenNames -underBinder -merge -useContext s2
      have h3 : Kept F s2 := by
        unfold s2
        exact (fecCount_kept h1)
      extract_lets +onlyGivenNames -underBinder -merge -useContext s4
      have h5 : Kept F s4 := by
        unfold s4
        split
        · exact (amCheck_kept h3)
        · exact h3
      exact (Kept.ite (otucSlice_kept h5) h5)
  · exact h1

theorem otucFrame_kept {s : State} {v : Nat} {r : OtucRx} (h1 : Kept F s) : Kept F (otucFrame s v r) := by
  unfold otucFrame
  exact (Kept.ite h1 (otucIn_kept h1))

theorem apsAccept_kept {s : State} {i : Nat} {a : Nat × List Byte} (h1 : Kept F s) : Kept F (apsAccept s i a) := by
  unfold apsAccept
  split
  · refine Kept.ite ?_ ?_
    · exact h1
    · extract_lets +onlyGivenNames -underBinder -merge -useContext k2 k3 k4
      clear_value k2 k3 k4
      extract_lets +onlyGivenNames -underBinder -merge -useContext s5
      have h6 : Kept F s5 := by
        unfold s5
        exact (State.updOdu_kept h1)
      clear_value s5
      refine Kept.ite ?_ ?_
      · extract_lets +onlyGivenNames -underBinder -merge -useContext s7
        have h8 : Kept F s7 := by
          unfold s7
          exact (State.updOdu_kept h6)
        clear_value s7
        exact (State.postRole_kept h8)
      · exact h6
  · exact h1

theorem tcmFrame_kept {s : State} {i : Nat} {mfas : Nat} {t : TcmRx} (h1 : Kept F s) : Kept F (tcmFrame s i mfas t) := by
  unfold tcmFrame
  refine Kept.ite ?_ ?_
  · extract_lets +onlyGivenNames -underBinder -merge -useContext k2
    clear_value k2
    extract_lets +onlyGivenNames -underBinder -merge -useContext s3
    have h4 : Kept F s3 := by
      unfold s3
      exact (countBlock_kept h1)
    clear_value s3
    extract_lets +onlyGivenNames -underBinder -merge -useContext s5
    have h6 : Kept F s5 := by
      unfold s5
      exact (State.updOh_kept h4)
    clear_value s5
    extract_lets +onlyGivenNames -underBinder -merge -useContext s7
    have h8 : Kept F s7 := by
      unfold s7
      exact (statAccept_kept h6)
    clear_value s7
    extract_lets +onlyGivenNames -underBinder -merge -useContext s9
    have h10 : Kept F s9 := by
      unfold s9
      exact (bdiAccept_kept h8)
    clear_value s9
    extract_lets +onlyGivenNames -underBinder -merge -useContext s11
    have h12 : Kept F s11 := by
      unfold s11
      exact (biaeAccept_kept h10)
    clear_value s11
    exact (ttiByte_kept h12)
  · exact h1

theorem oduFrame_kept {s : State} {i : Nat} {r : OduRx} (h1 : Kept F s) : Kept F (oduFrame s i r) := by
  unfold oduFrame
  split
  · extract_lets +onlyGivenNames -underBinder -merge -useContext k2
    clear_value k2
    extract_lets +onlyGivenNames -underBinder -merge -useContext s3
    have h4 : Kept F s3 := by
      unfold s3
      exact (countBlock_kept h1)
    clear_value s3
    extract_lets +onlyGivenNames -underBinder -merge -useContext s5
    have h6 : Kept F s5 := by
      unfold s5
      exact (statAccept_kept h4)
    clear_value s5
    extract_lets +onlyGivenNames -underBinder -merge -useContext s7
    have h8 : Kept F s7 := by
      unfold s7
      exact (bdiAccept_kept h6)
    clear_value s7
    extract_lets +onlyGivenNames -underBinder -merge -useContext s9
    have h10 : Kept F s9 := by
      unfold s9
      exact (ttiByte_kept h8)
    clear_value s9
    extract_lets +onlyGivenNames -underBinder -merge -useContext s11
    have h12 : Kept F s11 := by
      unfold s11
      exact (State.updOdu_kept h10)
    clear_value s11
    extract_lets +onlyGivenNames -underBinder -merge -useContext s13
    have h14 : Kept F s13 := by
      unfold s13
      exact (State.setDef_kept h12)
    clear_value s13
    extract_lets +onlyGivenNames -underBinder -merge -useContext s15
    have h16 : Kept F s15 := by
      unfold s15
      exact (Kept.foldl (fun _ _ h17 => (tcmFrame_kept h17)) h14)
    clear_value s15
    extract_lets +onlyGivenNames -underBinder -merge -useContext s18
    have h19 : Kept F s18 := by
      unfold s18
      split
      · exact (apsAccept_kept h16)
      · exact h16
    clear_value s18
    exact (State.updOdu_kept h19)
  · exact h1

theorem putStat_kept {s : State} {a : Nat} {v : Nat} {chg : Nat} {bit : Nat} (h1 : Kept F s) : Kept F (putStat s a v chg bit) := by
  unfold putStat
  exact (Kept.ite h1 (State.mapBit_kept (State.wr_kept h1)))

theorem oduStat_kept {s : State} {i : Nat} (h1 : Kept F s) : Kept F (oduStat s i) := by
  unfold oduStat
  extract_lets +onlyGivenNames -underBinder -merge -useContext k2 k3 k4 k5
  clear_value k2 k3 k4 k5
  extract_lets +onlyGivenNames -underBinder -merge -useContext s6
  have h7 : Kept F s6 := by
    unfold s6
    exact (putStat_kept h1)
  clear_value s6
  extract_lets +onlyGivenNames -underBinder -merge -useContext k8 k9
  clear_value k8 k9
  exact (putStat_kept h7)

theorem portStat_kept {s : State} {y2 : PortDef} (h1 : Kept F s) : Kept F (portStat s y2) := by
  unfold portStat
  extract_lets +onlyGivenNames -underBinder -merge -useContext s3
  have h4 : Kept F s3 := by
    unfold s3
    exact (Kept.foldl (fun _ _ h5 => (putStat_kept h5)) h1)
  clear_value s3
  exact (putStat_kept h4)

theorem allStat_kept {s : State} (h1 : Kept F s) : Kept F (allStat s) := by
  unfold allStat
  split
  · refine Kept.foldl (fun _ _ h2 => ?_) ?_
    · exact (oduStat_kept h2)
    · exact (Kept.foldl (fun _ _ h3 => (portStat_kept h3)) h1)
  · exact h1

theorem pdFrame_kept {s : State} {y2 : PortDef} (h1 : Kept F s) : Kept F (pdFrame s y2) := by
  unfold pdFrame
  exact (Kept.ite (Kept.foldl (fun _ _ h3 => (Kept.of h3 rfl rfl rfl rfl rfl rfl)) h1) (portDown_kept h1))

theorem defectSample_kept {s : State} (h1 : Kept F s) : Kept F (defectSample s) := by
  unfold defectSample
  extract_lets +onlyGivenNames -underBinder -merge -useContext k2
  clear_value k2
  extract_lets +onlyGivenNames -underBinder -merge -useContext s3
  have h4 : Kept F s3 := by
    unfold s3
    exact (Kept.foldl (fun _ _ h5 => (pdFrame_kept h5)) h1)
  clear_value s3
  refine allStat_kept ?_
  exact (Kept.of h4 rfl rfl rfl rfl rfl rfl)

theorem repSet_kept {s : State} {i : Nat} (h1 : Kept F s) : Kept F (repSet s i) := by
  unfold repSet
  split
  · exact (State.updOdu_kept h1)
  · exact h1

theorem aisInsert_kept {s : State} {i : Nat} (h1 : Kept F s) : Kept F (aisInsert s i) := by
  unfold aisInsert
  exact (Kept.ite (oduStat_kept (repSet_kept (State.updOdu_kept h1))) h1)

theorem aisRemove_kept {s : State} {i : Nat} (h1 : Kept F s) : Kept F (aisRemove s i) := by
  unfold aisRemove
  refine Kept.ite ?_ ?_
  · extract_lets +onlyGivenNames -underBinder -merge -useContext s2
    have h3 : Kept F s2 := by
      unfold s2
      exact (repSet_kept (State.updOdu_kept h1))
    clear_value s2
    exact (Kept.ite (oduStat_kept h3) h3)
  · exact h1

theorem sendOdus_kept {s : State} {m : Image} {v : Nat} (h1 : Kept F s) : Kept F (sendOdus s m v) := by
  unfold sendOdus
  refine Kept.foldl (fun _ _ h2 => ?_) h1
  split
  · extract_lets +onlyGivenNames -underBinder -merge -useContext k3
    clear_value k3
    extract_lets +onlyGivenNames -underBinder -merge -useContext s4
    have h5 : Kept F s4 := by
      unfold s4
      exact (State.send_kept h2)
    clear_value s4
    split
    · extract_lets +onlyGivenNames -underBinder -merge -useContext k6
      clear_value k6
      exact (State.send_kept h5)
    · exact h5
  · exact h2

theorem sendOverhead_kept {s : State} {y2 : PortDef} {sec : Nat × Bool} {k : Nat} (h1 : Kept F s) : Kept F (sendOverhead s y2 sec k) := by
  unfold sendOverhead
  refine Kept.foldl (fun _ _ h3 => ?_) h1
  extract_lets +onlyGivenNames -underBinder -merge -useContext k4 k5 k6
  clear_value k4 k5 k6
  extract_lets +onlyGivenNames -underBinder -merge -useContext s7
  have h8 : Kept F s7 := by
    unfold s7
    exact (State.send_kept (State.send_kept (State.drawn_kept h3)))
  clear_value s7
  extract_lets +onlyGivenNames -underBinder -merge -useContext s9
  have h10 : Kept F s9 := by
    unfold s9
    exact (State.send_kept h8)
  clear_value s9
  extract_lets +onlyGivenNames -underBinder -merge -useContext s11
  have h12 : Kept F s11 := by
    unfold s11
    exact (State.send_kept h10)
  clear_value s11
  extract_lets +onlyGivenNames -underBinder -merge -useContext s13
  have h14 : Kept F s13 := by
    unfold s13
    exact (Kept.ite (Kept.foldl (fun _ _ h15 => (Kept.ite (State.send_kept h15) h15)) h12) h12)
  clear_value s13
  split
  · exact (sendOdus_kept (State.send_kept h14))
  · exact h14

theorem loopBack_kept {s : State} {y2 : PortDef} {iae : Bool} {l : Nat} {k : Nat} (h1 : Kept F s) : Kept F (loopBack s y2 iae l k) := by
  unfold loopBack
  exact (Kept.ite (Kept.foldl (fun _ _ h3 => (Kept.foldl (fun _ _ h4 => (otucIn_kept h4)) h3)) (State.drawn_kept h1)) h1)

theorem superframeSend_kept {s : State} {g : Nat} {l : Nat} (h1 : Kept F s) : Kept F (superframeSend s g l) := by
  unfold superframeSend
  extract_lets +onlyGivenNames -underBinder -merge -useContext s2
  have h3 : Kept F s2 := by
    unfold s2
    exact (laneSend_kept h1)
  clear_value s2
  split
  · extract_lets +onlyGivenNames -underBinder -merge -useContext k4 k5
    clear_value k4 k5
    extract_lets +onlyGivenNames -underBinder -merge -useContext s6
    have h7 : Kept F s6 := by
      unfold s6
      exact (Kept.foldl (fun _ _ h8 => (sendOverhead_kept h8)) (State.drawn_kept h3))
    clear_value s6
    exact (Kept.foldl (fun _ _ h9 => (Kept.foldl (fun _ _ h10 => (loopBack_kept h10)) h9)) h7)
  · exact h3

theorem execLaneTagReceive_kept {g : Nat} {lane : Nat} {tag : TagRx} {s : State} {t : State} (h : Kept F s) (ht : execLaneTagReceive g lane tag s = .next t) :
    Kept F t :=
  checked_kept h (State.inGroup_kept h (fun _ h1 => (lateStat_kept (fun _ h2 => (allStat_kept h2)) (laneTag_kept h1)))) ht

theorem execSpareAction_kept {g : Nat} {s : State} {t : State} (h : Kept F s) (ht : execSpareAction g s = .next t) : Kept F t :=
  checked_kept h (State.inGroup_kept h (fun _ h1 => (lateStat_kept (fun _ h2 => (allStat_kept h2)) (spareAction_kept h1)))) ht

theorem execSpareVerifyEnd_kept {g : Nat} {pass : Bool} {s : State} {t : State} (h : Kept F s) (ht : execSpareVerifyEnd g pass s = .next t) :
    Kept F t :=
  checked_kept h (State.inGroup_kept h (fun _ h1 => (lateStat_kept (fun _ h2 => (allStat_kept h2)) (spareVerifyEnd_kept h1)))) ht

theorem execLaneSuperframeSend_kept {g : Nat} {lane : Nat} {s : State} {t : State} (h : Kept F s) (ht : execLaneSuperframeSend g lane s = .next t) :
    Kept F t :=
  checked_kept h (superframeSend_kept h) ht

theorem execOtucFrameReceive_kept {slice : Nat} {rx : OtucRx} {s : State} {t : State} (h : Kept F s) (ht : execOtucFrameReceive slice rx s = .next t) :
    Kept F t :=
  checked_kept h (State.inGroup_kept h (fun _ h1 => (lateStat_kept (fun _ h2 => (allStat_kept h2)) (otucFrame_kept h1)))) ht

theorem execOduFrameReceive_kept {odu : Nat} {rx : OduRx} {s : State} {t : State} (h : Kept F s) (ht : execOduFrameReceive odu rx s = .next t) :
    Kept F t :=
  checked_kept h (State.inGroup_kept h (fun _ h1 => (lateStat_kept (fun _ h2 => (allStat_kept h2)) (oduFrame_kept h1)))) ht

theorem execOduAisInsert_kept {odu : Nat} {s : State} {t : State} (h : Kept F s) (ht : execOduAisInsert odu s = .next t) : Kept F t :=
  checked_kept h (aisInsert_kept h) ht

theorem execOduAisRemove_kept {odu : Nat} {s : State} {t : State} (h : Kept F s) (ht : execOduAisRemove odu s = .next t) : Kept F t :=
  checked_kept h (aisRemove_kept h) ht

theorem execGccFlush_kept {port : Nat} {ch : Nat} {s : State} {t : State} (h : Kept F s) (ht : execGccFlush port ch s = .next t) : Kept F t :=
  checked_kept h (gccFlush_kept h) ht

theorem execGccTxRecord_kept {port : Nat} {ch : Nat} {s : State} {t : State} (h : Kept F s) (ht : execGccTxRecord port ch s = .next t) : Kept F t :=
  checked_kept h (gccTx_kept h) ht

end Sys2Proof.Machine
end

