-- ==== Sys2Proof/Laws/KeepPm.lean ====
section
/-! SUPPORT. What Machine/Pm.lean keeps: each operation, and each command, leads from a safe state to a safe state, and no fuse goes back (Safety.lean). -/

namespace Sys2Proof.Machine

variable {F : Fuses}

theorem failEnt_kept {s : State} {e : Nat} {base : Nat} {n : Nat} {mask : Nat} {hold : Nat → Bool} {still : Nat → Bool} (h1 : Kept F s) :
    Kept F (failEnt s e base n mask hold still) := by
  unfold failEnt
  exact (Kept.foldl (fun _ _ h2 => (Kept.of h2 rfl rfl rfl rfl rfl rfl)) h1)

theorem failTimes_kept {s : State} (h1 : Kept F s) : Kept F (failTimes s) := by
  unfold failTimes
  exact (Kept.of h1 rfl rfl rfl rfl rfl rfl)

theorem setFail_kept {s : State} {e : Nat} {code : Nat} {up : Bool} (h1 : Kept F s) : Kept F (setFail s e code up) := by
  unfold setFail
  exact (Kept.of h1 rfl rfl rfl rfl rfl rfl)

theorem failMove_kept {s : State} {h : Nat} {role : Nat} {e2 : Nat} {code : Nat} {up : Bool} {rec : List Byte} (h1 : Kept F s) :
    Kept F (failMove s h role e2 code up rec) := by
  unfold failMove
  extract_lets +onlyGivenNames -underBinder -merge -useContext s3
  have h4 : Kept F s3 := by
    unfold s3
    split
    · exact (Kept.of h1 rfl rfl rfl rfl rfl rfl)
    · exact h1
  clear_value s3
  exact (State.postOwned_kept (setFail_kept h4))

theorem lineRaise_kept {s : State} {e : Nat} {code : Nat} (h1 : Kept F s) : Kept F (lineRaise s e code) := by
  unfold lineRaise
  exact (Kept.ite (failMove_kept h1) h1)

theorem lineClear_kept {s : State} {e : Nat} {code : Nat} (h1 : Kept F s) : Kept F (lineClear s e code) := by
  unfold lineClear
  exact (Kept.ite (failMove_kept h1) h1)

theorem lineSecond_kept {s : State} {e : Nat} (h1 : Kept F s) : Kept F (lineSecond s e) := by
  unfold lineSecond
  extract_lets +onlyGivenNames -underBinder -merge -useContext k2 k3
  clear_value k2 k3
  extract_lets +onlyGivenNames -underBinder -merge -useContext s4
  have h5 : Kept F s4 := by
    unfold s4
    exact (State.updPm_kept h1)
  clear_value s4
  split
  · exact (State.setDefNext_kept h5)
  · exact h5

theorem lineSeconds_kept {s : State} (h1 : Kept F s) : Kept F (lineSeconds s) := by
  unfold lineSeconds
  split
  · exact (Kept.foldl (fun _ _ h2 => (lineSecond_kept h2)) h1)
  · exact h1

theorem lineSample_kept {s : State} {e : Nat} (h1 : Kept F s) : Kept F (lineSample s e) := by
  unfold lineSample
  extract_lets +onlyGivenNames -underBinder -merge -useContext k2 k3 k4
  clear_value k2 k3 k4
  extract_lets +onlyGivenNames -underBinder -merge -useContext s5
  have h6 : Kept F s5 := by
    unfold s5
    exact (State.updPm_kept h1)
  clear_value s5
  extract_lets +onlyGivenNames -underBinder -merge -useContext k7
  clear_value k7
  exact (failEnt_kept h6)

theorem lineSamples_kept {s : State} (h1 : Kept F s) : Kept F (lineSamples s) := by
  unfold lineSamples
  split
  · exact (Kept.foldl (fun _ _ h2 => (lineSample_kept h2)) h1)
  · exact h1

theorem pmFrame_kept {s : State} (h1 : Kept F s) : Kept F (pmFrame s) := by
  unfold pmFrame
  extract_lets +onlyGivenNames -underBinder -merge -useContext s2
  have h3 : Kept F s2 := by
    unfold s2
    exact (Kept.of h1 rfl rfl rfl rfl rfl rfl)
  clear_value s2
  split
  · exact (Kept.foldl (fun _ _ h4 => (State.updPm_kept h4)) h3)
  · exact h3

theorem binOpen_kept {s : State} {day : Bool} {marks : Nat} (h1 : Kept F s) : Kept F (binOpen s day marks) := by
  unfold binOpen
  extract_lets +onlyGivenNames -underBinder -merge -useContext k2 k3
  clear_value k2 k3
  extract_lets +onlyGivenNames -underBinder -merge -useContext s4
  have h5 : Kept F s4 := by
    unfold s4
    exact (Kept.ite (Kept.of h1 rfl rfl rfl rfl rfl rfl) (Kept.of h1 rfl rfl rfl rfl rfl rfl))
  clear_value s4
  exact (Kept.foldl (fun _ _ h6 => (State.updPm_kept h6)) h5)

theorem binMark_kept {s : State} {day : Bool} {marks : Nat} (h1 : Kept F s) : Kept F (binMark s day marks) := by
  unfold binMark
  extract_lets +onlyGivenNames -underBinder -merge -useContext k2 k3 k4
  clear_value k2 k3 k4
  extract_lets +onlyGivenNames -underBinder -merge -useContext s5
  have h6 : Kept F s5 := by
    unfold s5
    exact (Kept.ite (Kept.of h1 rfl rfl rfl rfl rfl rfl) (Kept.of h1 rfl rfl rfl rfl rfl rfl))
  clear_value s5
  extract_lets +onlyGivenNames -underBinder -merge -useContext k7
  clear_value k7
  exact (Kept.foldl (fun _ _ h8 => (State.updPm_kept h8)) h6)

theorem bin15Start_kept {s : State} (h1 : Kept F s) : Kept F (bin15Start s) := by
  unfold bin15Start
  refine Kept.ite ?_ ?_
  · extract_lets +onlyGivenNames -underBinder -merge -useContext s2
    have h3 : Kept F s2 := by
      unfold s2
      exact (binOpen_kept h1)
    clear_value s2
    extract_lets +onlyGivenNames -underBinder -merge -useContext k4
    clear_value k4
    refine Kept.ite ?_ ?_
    · exact h3
    · extract_lets +onlyGivenNames -underBinder -merge -useContext s5
      have h6 : Kept F s5 := by
        unfold s5
        exact (binMark_kept h3)
      clear_value s5
      extract_lets +onlyGivenNames -underBinder -merge -useContext k7
      clear_value k7
      exact (Kept.of h6 rfl rfl rfl rfl rfl rfl)
  · exact h1

theorem bin24Start_kept {s : State} (h1 : Kept F s) : Kept F (bin24Start s) := by
  unfold bin24Start
  exact (Kept.ite (binOpen_kept h1) h1)

theorem closeWrite_kept {s : State} {day : Bool} {q : Nat} (h1 : Kept F s) : Kept F (closeWrite s day q) := by
  unfold closeWrite
  extract_lets +onlyGivenNames -underBinder -merge -useContext s2
  have h3 : Kept F s2 := by
    unfold s2
    refine Kept.foldl (fun _ _ h4 => ?_) h1
    extract_lets +onlyGivenNames -underBinder -merge -useContext k5
    clear_value k5
    split
    · extract_lets +onlyGivenNames -underBinder -merge -useContext s6
      have h7 : Kept F s6 := by
        unfold s6
        exact (State.memPut_kept h4)
      clear_value s6
      exact (State.updPm_kept h7)
    · exact h4
  clear_value s2
  extract_lets +onlyGivenNames -underBinder -merge -useContext s8
  have h9 : Kept F s8 := by
    unfold s8
    exact (State.wr_kept h3)
  clear_value s8
  exact (State.evt_kept h9)

theorem closeDue_kept {s : State} {day : Bool} (h1 : Kept F s) : Kept F (closeDue s day) := by
  unfold closeDue
  extract_lets +onlyGivenNames -underBinder -merge -useContext k2 k3
  clear_value k2 k3
  extract_lets +onlyGivenNames -underBinder -merge -useContext s4
  have h5 : Kept F s4 := by
    unfold s4
    exact (Kept.foldl (fun _ _ h6 => (closeWrite_kept h6)) h1)
  clear_value s4
  refine Kept.ite ?_ ?_
  · extract_lets +onlyGivenNames -underBinder -merge -useContext k7
    clear_value k7
    exact (Kept.of h5 rfl rfl rfl rfl rfl rfl)
  · extract_lets +onlyGivenNames -underBinder -merge -useContext k8
    clear_value k8
    exact (Kept.of h5 rfl rfl rfl rfl rfl rfl)

theorem closureWrite_kept {s : State} (h1 : Kept F s) : Kept F (closureWrite s) := by
  unfold closureWrite
  exact (closeDue_kept (closeDue_kept h1))

theorem pmStart_kept {s : State} {marks : Nat} (h1 : Kept F s) : Kept F (pmStart s marks) := by
  unfold pmStart
  extract_lets +onlyGivenNames -underBinder -merge -useContext s2
  have h3 : Kept F s2 := by
    unfold s2
    exact (Kept.of h1 rfl rfl rfl rfl rfl rfl)
  clear_value s2
  extract_lets +onlyGivenNames -underBinder -merge -useContext s4
  have h5 : Kept F s4 := by
    unfold s4
    exact (binOpen_kept (binOpen_kept h3))
  clear_value s4
  extract_lets +onlyGivenNames -underBinder -merge -useContext k6 k7
  clear_value k6 k7
  exact (Kept.of h5 rfl rfl rfl rfl rfl rfl)

theorem putData_kept {s : State} {a : Nat} {l : List Byte} (h1 : Kept F s) : Kept F (putData s a l) := by
  unfold putData
  exact (Kept.foldl (fun _ _ h2 => (State.wr_kept h2)) h1)

theorem pmRdReq_kept {s : State} {ent : Nat} {sel : Nat} (h1 : Kept F s) : Kept F (pmRdReq s ent sel) := by
  unfold pmRdReq
  exact (Kept.ite (State.evt_kept h1) (Kept.of h1 rfl rfl rfl rfl rfl rfl))

theorem pmShoot_kept {s : State} (h1 : Kept F s) : Kept F (pmShoot s) := by
  unfold pmShoot
  exact (Kept.of h1 rfl rfl rfl rfl rfl rfl)

theorem pmBoundary_kept {s : State} (h1 : Kept F s) : Kept F (pmBoundary s) := by
  unfold pmBoundary
  exact (Kept.ite (pmShoot_kept (State.pendRes_kept h1)) h1)

theorem putShot_kept {s : State} {res : Nat} {data : Nat} {b : List Byte} (h1 : Kept F s) : Kept F (putShot s res data b) := by
  unfold putShot
  exact (Kept.ite (State.putRes_kept h1) (State.putRes_kept (putData_kept h1)))

theorem pmSnapshot_kept {s : State} (h1 : Kept F s) : Kept F (pmSnapshot s) := by
  unfold pmSnapshot
  split
  · refine Kept.ite ?_ ?_
    · refine putShot_kept ?_
      exact (Kept.of h1 rfl rfl rfl rfl rfl rfl)
    · exact h1
  · exact h1

theorem execPmRdReq_kept {ent : Nat} {sel : Nat} {s : State} {t : State} (h : Kept F s) (ht : execPmRdReq ent sel s = .next t) : Kept F t :=
  checked_kept h (State.host_kept h (fun _ h1 => (pmRdReq_kept h1))) ht

theorem execPmSnapshot_kept {s : State} {t : State} (h : Kept F s) (ht : execPmSnapshot s = .next t) : Kept F t :=
  checked_kept h (pmSnapshot_kept h) ht

theorem execPmResAck_kept {seq : Nat} {s : State} {t : State} (h : Kept F s) (ht : execPmResAck seq s = .next t) : Kept F t :=
  checked_kept h (State.host_kept h (fun _ h1 => (State.ackRes_kept h1))) ht

theorem execBin15MinuteStart_kept {s : State} {t : State} (h : Kept F s) (ht : execBin15MinuteStart s = .next t) : Kept F t :=
  checked_kept h (bin15Start_kept h) ht

theorem execBin24HourStart_kept {s : State} {t : State} (h : Kept F s) (ht : execBin24HourStart s = .next t) : Kept F t :=
  checked_kept h (bin24Start_kept h) ht

theorem execPmClosureWrite_kept {s : State} {t : State} (h : Kept F s) (ht : execPmClosureWrite s = .next t) : Kept F t :=
  checked_kept h (closureWrite_kept h) ht

end Sys2Proof.Machine
end

