-- ==== Sys2Proof/Laws/KeepTrunk.lean ====
section
/-! SUPPORT. What Machine/Trunk.lean keeps: each operation, and each command, leads from a safe state to a safe state, and no fuse goes back (Safety.lean). -/

namespace Sys2Proof.Machine

variable {F : Fuses}

theorem selWrite_kept {s : State} {kind : Nat} {o : Nat} {b : Bool} (h1 : Kept F s) : Kept F (selWrite s kind o b) := by
  unfold selWrite
  extract_lets +onlyGivenNames -underBinder -merge -useContext k2
  clear_value k2
  refine Kept.ite ?_ ?_
  · refine lateStat_kept (fun _ h4 => (allStat_kept h4)) ?_
    exact (Kept.of h1 rfl rfl rfl rfl rfl rfl)
  · exact (State.evt_kept h1)

theorem patrol_kept {s : State} {cor : Nat} {found : List (Nat × Nat × Nat)} (h1 : Kept F s) : Kept F (patrol s cor found) := by
  unfold patrol
  extract_lets +onlyGivenNames -underBinder -merge -useContext k2
  clear_value k2
  extract_lets +onlyGivenNames -underBinder -merge -useContext s3
  have h4 : Kept F s3 := by
    unfold s3
    exact (Kept.ite h1 (State.count_kept (State.evt_kept (State.incPair_kept h1))))
  clear_value s3
  refine Kept.ite ?_ ?_
  · exact h4
  · extract_lets +onlyGivenNames -underBinder -merge -useContext s5
    have h6 : Kept F s5 := by
      unfold s5
      exact (State.count_kept (State.evt_kept (State.incPair_kept h4)))
    clear_value s5
    split
    · exact (Kept.of h6 rfl rfl rfl rfl rfl rfl)
    · exact h6

theorem trunkOut_kept {s : State} {m : Image} {demap : List (Nat × Nat)} {endedFn : Nat} (h1 : Kept F s) : Kept F (trunkOut s m demap endedFn) := by
  unfold trunkOut
  extract_lets +onlyGivenNames -underBinder -merge -useContext k2 k3 k4 k5
  clear_value k2 k3 k4 k5
  exact (Kept.of h1 rfl rfl rfl rfl rfl rfl)

theorem trunkEnd_kept {s : State} {inp : FrameInput} {endedFn : Nat} (h1 : Kept F s) : Kept F (trunkEnd s inp endedFn) := by
  unfold trunkEnd
  extract_lets +onlyGivenNames -underBinder -merge -useContext s2
  have h3 : Kept F s2 := by
    unfold s2
    exact (patrol_kept h1)
  clear_value s2
  split
  · exact (trunkOut_kept h3)
  · exact h3

theorem trunkFrame_kept {s : State} (h1 : Kept F s) : Kept F (trunkFrame s) := by
  unfold trunkFrame
  extract_lets +onlyGivenNames -underBinder -merge -useContext s2
  have h3 : Kept F s2 := by
    unfold s2
    split
    · refine Kept.foldl (fun _ _ h4 => ?_) ?_
      · exact (repSet_kept h4)
      · exact (Kept.of h1 rfl rfl rfl rfl rfl rfl)
    · exact h1
  clear_value s2
  refine allStat_kept ?_
  exact (Kept.of h3 rfl rfl rfl rfl rfl rfl)

theorem recentre_kept {s : State} {o : Nat} (h1 : Kept F s) : Kept F (recentre s o) := by
  unfold recentre
  extract_lets +onlyGivenNames -underBinder -merge -useContext s2
  have h3 : Kept F s2 := by
    unfold s2
    exact (State.evt_kept (State.mapBit_kept h1))
  clear_value s2
  extract_lets +onlyGivenNames -underBinder -merge -useContext s4
  have h5 : Kept F s4 := by
    unfold s4
    exact (State.count_kept h3)
  clear_value s4
  exact (Kept.of h5 rfl rfl rfl rfl rfl rfl)

theorem remapRecentre_kept {s : State} {o : Nat} (h1 : Kept F s) : Kept F (remapRecentre s o) := by
  unfold remapRecentre
  split
  · exact (Kept.ite (recentre_kept h1) h1)
  · exact h1

theorem inject_kept {s : State} {sw : Nat} (h1 : Kept F s) : Kept F (inject s sw) := by
  unfold inject
  exact (Kept.ite (Kept.of h1 rfl rfl rfl rfl rfl rfl) h1)

theorem testError_kept {s : State} {link : Bool} {unit : Nat} (h1 : Kept F s) : Kept F (testError s link unit) := by
  unfold testError
  extract_lets +onlyGivenNames -underBinder -merge -useContext s2
  have h3 : Kept F s2 := by
    unfold s2
    exact (State.evt_kept h1)
  clear_value s2
  exact (Kept.ite (State.count_kept (State.incPair_kept h3)) (State.count_kept (State.incPair_kept h3)))

theorem testWord_kept {s : State} {link : Bool} {unit : Nat} {cyc : Nat} {pos : Nat} {w : TestRx} (h1 : Kept F s) :
    Kept F (testWord s link unit cyc pos w) := by
  unfold testWord
  refine Kept.ite ?_ ?_
  · exact (Kept.ite (testError_kept h1) h1)
  · extract_lets +onlyGivenNames -underBinder -merge -useContext k2
    clear_value k2
    refine Kept.ite ?_ ?_
    · exact h1
    · extract_lets +onlyGivenNames -underBinder -merge -useContext k3 k4
      clear_value k3 k4
      extract_lets +onlyGivenNames -underBinder -merge -useContext s5
      have h6 : Kept F s5 := by
        unfold s5
        exact (Kept.ite (Kept.of h1 rfl rfl rfl rfl rfl rfl) h1)
      clear_value s5
      exact (Kept.ite (testError_kept h6) h6)

theorem collision_kept {s : State} {middle : Nat} {egress : Nat} {low : Nat} {high : Nat} (h1 : Kept F s) :
    Kept F (collision s middle egress low high) := by
  unfold collision
  refine Kept.ite ?_ ?_
  · exact h1
  · extract_lets +onlyGivenNames -underBinder -merge -useContext k2
    clear_value k2
    extract_lets +onlyGivenNames -underBinder -merge -useContext s3
    have h4 : Kept F s3 := by
      unfold s3
      exact (State.count_kept (State.incPair_kept h1))
    clear_value s3
    extract_lets +onlyGivenNames -underBinder -merge -useContext s5
    have h6 : Kept F s5 := by
      unfold s5
      exact (Kept.ite (State.wr_kept h4) h4)
    clear_value s5
    extract_lets +onlyGivenNames -underBinder -merge -useContext s7
    have h8 : Kept F s7 := by
      unfold s7
      exact (State.evt_kept h6)
    clear_value s7
    split
    · exact (Kept.of h8 rfl rfl rfl rfl rfl rfl)
    · exact h8

theorem execRemapRecentre_kept {output : Nat} {s : State} {t : State} (h : Kept F s) (ht : execRemapRecentre output s = .next t) : Kept F t :=
  checked_kept h (remapRecentre_kept h) ht

theorem execInject_kept {sw : Nat} {s : State} {t : State} (h : Kept F s) (ht : execInject sw s = .next t) : Kept F t :=
  checked_kept h (State.host_kept h (fun _ h1 => (inject_kept h1))) ht

theorem execTestWordCheck_kept {link : Bool} {unit : Nat} {place : Nat × Nat} {word : TestRx} {s : State} {t : State} (h : Kept F s) (ht : execTestWordCheck link unit place word s = .next t) :
    Kept F t :=
  checked_kept h (testWord_kept h) ht

theorem execMiddleCollision_kept {middle : Nat} {egress : Nat} {low : Nat} {high : Nat} {s : State} {t : State} (h : Kept F s) (ht : execMiddleCollision middle egress low high s = .next t) :
    Kept F t :=
  checked_kept h (collision_kept h) ht

end Sys2Proof.Machine
end

