-- ==== Sys2Proof/Laws/KeepLeaf.lean ====
section
/-! SUPPORT. What Machine/Leaf.lean keeps: each operation, and each command, leads from a safe state to a safe state, and no fuse goes back (Safety.lean). -/

namespace Sys2Proof.Machine

variable {F : Fuses}

theorem State.updCar_kept {s : State} {c : Nat} {f : Car → Car} (h1 : Kept F s) : Kept F (State.updCar s c f) := by
  unfold State.updCar
  exact (Kept.of h1 rfl rfl rfl rfl rfl rfl)

theorem carStat_kept {s : State} {c : Nat} {f : Fld} {y2 : Nat} (h1 : Kept F s) : Kept F (carStat s c f y2) := by
  unfold carStat
  extract_lets +onlyGivenNames -underBinder -merge -useContext k3
  clear_value k3
  extract_lets +onlyGivenNames -underBinder -merge -useContext s4
  have h5 : Kept F s4 := by
    unfold s4
    exact (State.setFld_kept h1)
  clear_value s4
  exact (Kept.ite h1 (State.mapBit_kept h5))

theorem carLost_kept {s : State} {c : Nat} (h1 : Kept F s) : Kept F (carLost s c) := by
  unfold carLost
  extract_lets +onlyGivenNames -underBinder -merge -useContext s2
  have h3 : Kept F s2 := by
    unfold s2
    exact (carStat_kept h1)
  clear_value s2
  extract_lets +onlyGivenNames -underBinder -merge -useContext s4
  have h5 : Kept F s4 := by
    unfold s4
    exact (carStat_kept h3)
  clear_value s4
  extract_lets +onlyGivenNames -underBinder -merge -useContext s6
  have h7 : Kept F s6 := by
    unfold s6
    exact (State.setDef_kept h5)
  clear_value s6
  exact (State.updCar_kept h7)

theorem carFound_kept {s : State} {c : Nat} {mfi : Nat} (h1 : Kept F s) : Kept F (carFound s c mfi) := by
  unfold carFound
  extract_lets +onlyGivenNames -underBinder -merge -useContext s2
  have h3 : Kept F s2 := by
    unfold s2
    exact (State.setDef_kept (carStat_kept h1))
  clear_value s2
  extract_lets +onlyGivenNames -underBinder -merge -useContext s4
  have h5 : Kept F s4 := by
    unfold s4
    exact (State.setDef_kept (State.wr_kept h3))
  clear_value s4
  exact (State.updCar_kept h5)

theorem carMfi_kept {s : State} {c : Nat} {mfi : Nat} (h1 : Kept F s) : Kept F (carMfi s c mfi) := by
  unfold carMfi
  extract_lets +onlyGivenNames -underBinder -merge -useContext k2
  clear_value k2
  extract_lets +onlyGivenNames -underBinder -merge -useContext s3
  have h4 : Kept F s3 := by
    unfold s3
    exact (State.updCar_kept h1)
  clear_value s3
  exact (State.setDef_kept h4)

theorem carBip_kept {s : State} {c : Nat} {bip : BitVec 8} {all : List Byte} (h1 : Kept F s) : Kept F (carBip s c bip all) := by
  unfold carBip
  extract_lets +onlyGivenNames -underBinder -merge -useContext k2
  clear_value k2
  extract_lets +onlyGivenNames -underBinder -merge -useContext s3
  have h4 : Kept F s3 := by
    unfold s3
    split
    · extract_lets +onlyGivenNames -underBinder -merge -useContext k5
      clear_value k5
      exact (State.updCar_kept (State.incPair_kept h1))
    · exact h1
  clear_value s3
  exact (State.updCar_kept h4)

theorem carTrace_kept {s : State} {c : Nat} {mfi : Nat} {y2 : BitVec 8} (h1 : Kept F s) : Kept F (carTrace s c mfi y2) := by
  unfold carTrace
  extract_lets +onlyGivenNames -underBinder -merge -useContext k3 k4 k5 k6
  clear_value k3 k4 k5 k6
  refine Kept.ite ?_ ?_
  · extract_lets +onlyGivenNames -underBinder -merge -useContext k7
    clear_value k7
    extract_lets +onlyGivenNames -underBinder -merge -useContext s8
    have h9 : Kept F s8 := by
      unfold s8
      exact (State.updCar_kept h1)
    clear_value s8
    refine Kept.ite ?_ ?_
    · extract_lets +onlyGivenNames -underBinder -merge -useContext k10
      clear_value k10
      extract_lets +onlyGivenNames -underBinder -merge -useContext s11
      have h12 : Kept F s11 := by
        unfold s11
        exact (State.updCar_kept h9)
      clear_value s11
      extract_lets +onlyGivenNames -underBinder -merge -useContext s13
      have h14 : Kept F s13 := by
        unfold s13
        exact (State.memPut_kept h12)
      clear_value s13
      split
      · exact (State.setDef_kept h14)
      · exact h14
    · exact h9
  · exact (State.updCar_kept h1)

theorem carQl_kept {s : State} {c : Nat} {q : Nat} (h1 : Kept F s) : Kept F (carQl s c q) := by
  unfold carQl
  extract_lets +onlyGivenNames -underBinder -merge -useContext s2
  have h3 : Kept F s2 := by
    unfold s2
    exact (State.updCar_kept h1)
  clear_value s2
  extract_lets +onlyGivenNames -underBinder -merge -useContext k4
  clear_value k4
  refine Kept.ite ?_ ?_
  · extract_lets +onlyGivenNames -underBinder -merge -useContext s5
    have h6 : Kept F s5 := by
      unfold s5
      exact (State.wr_kept h3)
    clear_value s5
    refine Kept.ite ?_ ?_
    · exact h6
    · extract_lets +onlyGivenNames -underBinder -merge -useContext s7
      have h8 : Kept F s7 := by
        unfold s7
        exact (Kept.ite (State.setDef_kept h6) h6)
      clear_value s7
      exact (State.updCar_kept h8)
  · exact h3

theorem carGsc_kept {s : State} {c : Nat} {mfi : Nat} {oh : List Byte} (h1 : Kept F s) : Kept F (carGsc s c mfi oh) := by
  unfold carGsc
  extract_lets +onlyGivenNames -underBinder -merge -useContext k2 k3 k4
  clear_value k2 k3 k4
  extract_lets +onlyGivenNames -underBinder -merge -useContext s5
  have h6 : Kept F s5 := by
    unfold s5
    exact (Kept.ite (Kept.of h1 rfl rfl rfl rfl rfl rfl) (State.count_kept (State.evt_kept h1)))
  clear_value s5
  extract_lets +onlyGivenNames -underBinder -merge -useContext s7
  have h8 : Kept F s7 := by
    unfold s7
    exact (State.updCar_kept h6)
  clear_value s7
  exact (State.setDef_kept h8)

theorem carFrame_kept {s : State} {c : Nat} {r : LeafRx} (h1 : Kept F s) : Kept F (carFrame s c r) := by
  unfold carFrame
  extract_lets +onlyGivenNames -underBinder -merge -useContext k2 k3 k4
  clear_value k2 k3 k4
  extract_lets +onlyGivenNames -underBinder -merge -useContext s5
  have h6 : Kept F s5 := by
    unfold s5
    exact (carMfi_kept h1)
  clear_value s5
  extract_lets +onlyGivenNames -underBinder -merge -useContext k7
  clear_value k7
  extract_lets +onlyGivenNames -underBinder -merge -useContext s8
  have h9 : Kept F s8 := by
    unfold s8
    exact (carBip_kept h6)
  clear_value s8
  extract_lets +onlyGivenNames -underBinder -merge -useContext s10
  have h11 : Kept F s10 := by
    unfold s10
    exact (countBlock_kept h9)
  clear_value s10
  extract_lets +onlyGivenNames -underBinder -merge -useContext s12
  have h13 : Kept F s12 := by
    unfold s12
    exact (State.updCar_kept h11)
  clear_value s12
  extract_lets +onlyGivenNames -underBinder -merge -useContext s14
  have h15 : Kept F s14 := by
    unfold s14
    exact (State.setDef_kept h13)
  clear_value s14
  extract_lets +onlyGivenNames -underBinder -merge -useContext s16
  have h17 : Kept F s16 := by
    unfold s16
    split
    · exact (State.setDef_kept h15)
    · exact h15
  clear_value s16
  extract_lets +onlyGivenNames -underBinder -merge -useContext s18
  have h19 : Kept F s18 := by
    unfold s18
    exact (carTrace_kept h17)
  clear_value s18
  extract_lets +onlyGivenNames -underBinder -merge -useContext s20
  have h21 : Kept F s20 := by
    unfold s20
    exact (carQl_kept h19)
  clear_value s20
  extract_lets +onlyGivenNames -underBinder -merge -useContext s22
  have h23 : Kept F s22 := by
    unfold s22
    exact (carGsc_kept h21)
  clear_value s22
  extract_lets +onlyGivenNames -underBinder -merge -useContext k24
  clear_value k24
  exact (State.updCar_kept h23)

theorem leafCarrier_kept {s : State} {c : Nat} {r : LeafRx} (h1 : Kept F s) : Kept F (leafCarrier s c r) := by
  unfold leafCarrier
  refine Kept.ite ?_ ?_
  · exact h1
  · extract_lets +onlyGivenNames -underBinder -merge -useContext k2 k3 k4
    clear_value k2 k3 k4
    refine Kept.ite ?_ ?_
    · refine Kept.ite ?_ ?_
      · exact h1
      · extract_lets +onlyGivenNames -underBinder -merge -useContext k5
        clear_value k5
        extract_lets +onlyGivenNames -underBinder -merge -useContext s6
        have h7 : Kept F s6 := by
          unfold s6
          exact (State.updCar_kept h1)
        clear_value s6
        exact (Kept.ite (carLost_kept h7) (carFrame_kept h7))
    · extract_lets +onlyGivenNames -underBinder -merge -useContext k8
      clear_value k8
      extract_lets +onlyGivenNames -underBinder -merge -useContext s9
      have h10 : Kept F s9 := by
        unfold s9
        exact (State.updCar_kept h1)
      clear_value s9
      extract_lets +onlyGivenNames -underBinder -merge -useContext s11
      have h12 : Kept F s11 := by
        unfold s11
        exact (carStat_kept h10)
      clear_value s11
      exact (Kept.ite (carFrame_kept (carFound_kept h12)) h12)

theorem dqlcClear_kept {s : State} {c : Nat} (h1 : Kept F s) : Kept F (dqlcClear s c) := by
  unfold dqlcClear
  exact (Kept.ite (State.setDef_kept h1) h1)

theorem carOduf_kept {s : State} {inp : FrameInput} {c : Nat} (h1 : Kept F s) : Kept F (carOduf s inp c) := by
  unfold carOduf
  extract_lets +onlyGivenNames -underBinder -merge -useContext k2 k3 k4
  clear_value k2 k3 k4
  refine Kept.ite ?_ ?_
  · exact (State.updCar_kept (State.setDefEnd_kept h1))
  · extract_lets +onlyGivenNames -underBinder -merge -useContext s5
    have h6 : Kept F s5 := by
      unfold s5
      exact (State.updCar_kept h1)
    clear_value s5
    extract_lets +onlyGivenNames -underBinder -merge -useContext k7
    clear_value k7
    extract_lets +onlyGivenNames -underBinder -merge -useContext s8
    have h9 : Kept F s8 := by
      unfold s8
      exact (Kept.ite (State.setDefEnd_kept h6) h6)
    clear_value s8
    extract_lets +onlyGivenNames -underBinder -merge -useContext s10
    have h11 : Kept F s10 := by
      unfold s10
      split
      · exact (State.setDefEnd_kept (State.setDefEnd_kept (State.setDefEnd_kept h9)))
      · exact h9
    clear_value s10
    split
    · exact (State.setDefEnd_kept h11)
    · exact h11

theorem leafPre_kept {s : State} {inp : FrameInput} (h1 : Kept F s) : Kept F (leafPre s inp) := by
  unfold leafPre
  refine Kept.ite ?_ ?_
  · exact h1
  · split
    · exact (Kept.foldl (fun _ _ h2 => (carOduf_kept h2)) h1)
    · exact h1

theorem slip_kept {s : State} {c : Nat} {kind : Nat} (h1 : Kept F s) : Kept F (slip s c kind) := by
  unfold slip
  extract_lets +onlyGivenNames -underBinder -merge -useContext s2
  have h3 : Kept F s2 := by
    unfold s2
    exact (State.count_kept (State.evt_kept (State.incPair_kept h1)))
  clear_value s2
  extract_lets +onlyGivenNames -underBinder -merge -useContext s4
  have h5 : Kept F s4 := by
    unfold s4
    exact (carStat_kept h3)
  clear_value s4
  exact (State.updPm_kept h5)

theorem releaseFrame_kept {s : State} {c : Nat} {f : Nat × List (Nat × Byte)} {rest : List (Nat × List (Nat × Byte))} (h1 : Kept F s) :
    Kept F (releaseFrame s c f rest) := by
  unfold releaseFrame
  exact (State.updCar_kept (State.wr_kept h1))

theorem carRelease_kept {s : State} {c : Nat} (h1 : Kept F s) : Kept F (carRelease s c) := by
  unfold carRelease
  extract_lets +onlyGivenNames -underBinder -merge -useContext k2 k3
  clear_value k2 k3
  refine Kept.ite ?_ ?_
  · split
    · exact (slip_kept (releaseFrame_kept h1))
    · refine Kept.ite ?_ ?_
      · exact (slip_kept (releaseFrame_kept h1))
      · refine Kept.ite ?_ ?_
        · exact (releaseFrame_kept h1)
        · split
          · exact (slip_kept (releaseFrame_kept h1))
          · exact (slip_kept (releaseFrame_kept h1))
  · split
    · exact (Kept.ite (carStat_kept (releaseFrame_kept h1)) h1)
    · exact h1

theorem writePass_kept {s : State} {m : Image} (h1 : Kept F s) : Kept F (writePass s m) := by
  unfold writePass
  extract_lets +onlyGivenNames -underBinder -merge -useContext s2
  have h3 : Kept F s2 := by
    unfold s2
    exact (Kept.foldl (fun _ _ h4 => (Kept.ite (carRelease_kept h4) h4)) h1)
  clear_value s2
  extract_lets +onlyGivenNames -underBinder -merge -useContext k5 k6
  clear_value k5 k6
  exact (Kept.of h3 rfl rfl rfl rfl rfl rfl)

theorem readEnd_kept {s : State} {mapErr : List Nat} (h1 : Kept F s) : Kept F (readEnd s mapErr) := by
  unfold readEnd
  split
  · extract_lets +onlyGivenNames -underBinder -merge -useContext k2
    clear_value k2
    extract_lets +onlyGivenNames -underBinder -merge -useContext s3
    have h4 : Kept F s3 := by
      unfold s3
      split
      · extract_lets +onlyGivenNames -underBinder -merge -useContext s5
        have h6 : Kept F s5 := by
          unfold s5
          exact (Kept.ite h1 (State.wr_kept (State.wr_kept h1)))
        clear_value s5
        exact (State.count_kept (State.incPair_kept (State.evt_kept h6)))
      · exact h1
    clear_value s3
    extract_lets +onlyGivenNames -underBinder -merge -useContext s7
    have h8 : Kept F s7 := by
      unfold s7
      exact (Kept.ite h4 (State.count_kept (State.incPair_kept (State.evt_kept h4))))
    clear_value s7
    extract_lets +onlyGivenNames -underBinder -merge -useContext k9 k10
    clear_value k9 k10
    extract_lets +onlyGivenNames -underBinder -merge -useContext s11
    have h12 : Kept F s11 := by
      unfold s11
      exact (Kept.foldl (fun _ _ h13 => (State.updPm_kept h13)) h8)
    clear_value s11
    extract_lets +onlyGivenNames -underBinder -merge -useContext k14
    clear_value k14
    exact (Kept.of h12 rfl rfl rfl rfl rfl rfl)
  · exact (Kept.of h1 rfl rfl rfl rfl rfl rfl)

theorem carEmit_kept {s : State} {p : CarPre} (h1 : Kept F s) : Kept F (carEmit s p) := by
  unfold carEmit
  extract_lets +onlyGivenNames -underBinder -merge -useContext k2 k3 k4 k5
  clear_value k2 k3 k4 k5
  extract_lets +onlyGivenNames -underBinder -merge -useContext s6
  have h7 : Kept F s6 := by
    unfold s6
    exact (State.updOdu_kept h1)
  clear_value s6
  exact (State.updCar_kept h7)

theorem carSend_kept {s : State} {m : Image} {c : Nat} (h1 : Kept F s) : Kept F (carSend s m c) := by
  unfold carSend
  extract_lets +onlyGivenNames -underBinder -merge -useContext k2 k3 k4
  clear_value k2 k3 k4
  extract_lets +onlyGivenNames -underBinder -merge -useContext s5
  have h6 : Kept F s5 := by
    unfold s5
    exact (State.send_kept h1)
  clear_value s5
  extract_lets +onlyGivenNames -underBinder -merge -useContext s7
  have h8 : Kept F s7 := by
    unfold s7
    exact (State.send_kept h6)
  clear_value s7
  extract_lets +onlyGivenNames -underBinder -merge -useContext s9
  have h10 : Kept F s9 := by
    unfold s9
    exact (carEmit_kept h8)
  clear_value s9
  exact (Kept.of h10 rfl rfl rfl rfl rfl rfl)

theorem qlAmend_kept {s : State} {m : Image} {p : CarPre} (h1 : Kept F s) : Kept F (qlAmend s m p) := by
  unfold qlAmend
  extract_lets +onlyGivenNames -underBinder -merge -useContext k2
  clear_value k2
  refine Kept.ite ?_ ?_
  · exact h1
  · extract_lets +onlyGivenNames -underBinder -merge -useContext k3
    clear_value k3
    extract_lets +onlyGivenNames -underBinder -merge -useContext s4
    have h5 : Kept F s4 := by
      unfold s4
      exact (carEmit_kept h1)
    clear_value s4
    exact (Kept.of h5 rfl rfl rfl rfl rfl rfl)

theorem qlReform_kept {s : State} (h1 : Kept F s) : Kept F (qlReform s) := by
  unfold qlReform
  split
  · exact (Kept.ite (Kept.foldl (fun _ _ h2 => (qlAmend_kept h2)) h1) h1)
  · exact h1

theorem groupFrame_kept {s : State} {g : GroupDef} (h1 : Kept F s) : Kept F (groupFrame s g) := by
  unfold groupFrame
  refine Kept.ite ?_ ?_
  · exact h1
  · extract_lets +onlyGivenNames -underBinder -merge -useContext s2
    have h3 : Kept F s2 := by
      unfold s2
      exact (Kept.of h1 rfl rfl rfl rfl rfl rfl)
    clear_value s2
    exact (State.setDefNext_kept h3)

theorem carShow_kept {s : State} {c : Nat} (h1 : Kept F s) : Kept F (carShow s c) := by
  unfold carShow
  extract_lets +onlyGivenNames -underBinder -merge -useContext s2
  have h3 : Kept F s2 := by
    unfold s2
    exact (carStat_kept h1)
  clear_value s2
  exact (carStat_kept h3)

theorem leafLate_kept {s : State} (h1 : Kept F s) : Kept F (leafLate s) := by
  unfold leafLate
  extract_lets +onlyGivenNames -underBinder -merge -useContext k2
  clear_value k2
  exact (Kept.of h1 rfl rfl rfl rfl rfl rfl)

theorem leafStat_kept {s : State} (h1 : Kept F s) : Kept F (leafStat s) := by
  unfold leafStat
  split
  · exact (Kept.ite (Kept.foldl (fun _ _ h2 => (carShow_kept h2)) h1) h1)
  · exact h1

theorem carSample_kept {s : State} {c : Nat} (h1 : Kept F s) : Kept F (carSample s c) := by
  unfold carSample
  extract_lets +onlyGivenNames -underBinder -merge -useContext k2
  clear_value k2
  extract_lets +onlyGivenNames -underBinder -merge -useContext s3
  have h4 : Kept F s3 := by
    unfold s3
    exact (State.updPm_kept h1)
  clear_value s3
  exact (failEnt_kept h4)

theorem groupSample_kept {s : State} {g : GroupDef} (h1 : Kept F s) : Kept F (groupSample s g) := by
  unfold groupSample
  extract_lets +onlyGivenNames -underBinder -merge -useContext s2
  have h3 : Kept F s2 := by
    unfold s2
    split
    · exact (Kept.ite (State.updPm_kept h1) h1)
    · exact h1
  clear_value s2
  exact (Kept.ite (failEnt_kept h3) h3)

theorem settle_kept {s : State} (h1 : Kept F s) : Kept F (settle s) := by
  unfold settle
  refine Kept.ite ?_ ?_
  · extract_lets +onlyGivenNames -underBinder -merge -useContext s2
    have h3 : Kept F s2 := by
      unfold s2
      refine lineSamples_kept ?_
      exact (Kept.of h1 rfl rfl rfl rfl rfl rfl)
    clear_value s2
    split
    · refine Kept.ite ?_ ?_
      · refine Kept.foldl (fun _ _ h4 => ?_) ?_
        · exact (groupSample_kept h4)
        · exact (Kept.foldl (fun _ _ h5 => (carSample_kept h5)) h3)
      · exact h3
    · exact h3
  · exact h1

theorem readBegin_kept {s : State} {m : Image} (h1 : Kept F s) : Kept F (readBegin s m) := by
  unfold readBegin
  exact (Kept.of h1 rfl rfl rfl rfl rfl rfl)

theorem leafFrame_kept {s : State} {inp : FrameInput} (h1 : Kept F s) : Kept F (leafFrame s inp) := by
  unfold leafFrame
  extract_lets +onlyGivenNames -underBinder -merge -useContext s2
  have h3 : Kept F s2 := by
    unfold s2
    exact (Kept.of h1 rfl rfl rfl rfl rfl rfl)
  clear_value s2
  refine Kept.ite ?_ ?_
  · exact h3
  · split
    · extract_lets +onlyGivenNames -underBinder -merge -useContext s4
      have h5 : Kept F s4 := by
        unfold s4
        exact (readEnd_kept h3)
      clear_value s4
      extract_lets +onlyGivenNames -underBinder -merge -useContext s6
      have h7 : Kept F s6 := by
        unfold s6
        refine Kept.foldl (fun _ _ h8 => ?_) ?_
        · exact (carSend_kept h8)
        · exact (Kept.of h5 rfl rfl rfl rfl rfl rfl)
      clear_value s6
      extract_lets +onlyGivenNames -underBinder -merge -useContext s9
      have h10 : Kept F s9 := by
        unfold s9
        refine leafStat_kept ?_
        exact (Kept.foldl (fun _ _ h11 => (State.updPm_kept h11)) h7)
      clear_value s9
      extract_lets +onlyGivenNames -underBinder -merge -useContext s12
      have h13 : Kept F s12 := by
        unfold s12
        exact (Kept.of h10 rfl rfl rfl rfl rfl rfl)
      clear_value s12
      extract_lets +onlyGivenNames -underBinder -merge -useContext s14
      have h15 : Kept F s14 := by
        unfold s14
        exact (writePass_kept h13)
      clear_value s14
      extract_lets +onlyGivenNames -underBinder -merge -useContext s16
      have h17 : Kept F s16 := by
        unfold s16
        exact (Kept.foldl (fun _ _ h18 => (groupFrame_kept h18)) h15)
      clear_value s16
      exact (readBegin_kept (State.setFld_kept h17))
    · exact h3

theorem leafSeconds_kept {s : State} (h1 : Kept F s) : Kept F (leafSeconds s) := by
  unfold leafSeconds
  split
  · extract_lets +onlyGivenNames -underBinder -merge -useContext s2
    have h3 : Kept F s2 := by
      unfold s2
      refine Kept.foldl (fun _ _ h4 => ?_) h1
      split
      · extract_lets +onlyGivenNames -underBinder -merge -useContext k5 k6 k7 k8
        clear_value k5 k6 k7 k8
        exact (State.updPm_kept h4)
      · exact h4
    clear_value s2
    refine Kept.foldl (fun _ _ h9 => ?_) h3
    extract_lets +onlyGivenNames -underBinder -merge -useContext k10
    clear_value k10
    extract_lets +onlyGivenNames -underBinder -merge -useContext s11
    have h12 : Kept F s11 := by
      unfold s11
      exact (State.updPm_kept h9)
    clear_value s11
    split
    · exact (State.setDefNext_kept h12)
    · exact h12
  · exact h1

theorem leafRaise_kept {s : State} {ent : Nat} {code : Nat} (h1 : Kept F s) : Kept F (leafRaise s ent code) := by
  unfold leafRaise
  exact (Kept.ite (failMove_kept h1) h1)

theorem leafClear_kept {s : State} {ent : Nat} {code : Nat} (h1 : Kept F s) : Kept F (leafClear s ent code) := by
  unfold leafClear
  exact (Kept.ite (failMove_kept h1) h1)

theorem lselWrite_kept {s : State} {r : Nat} {b : Bool} (h1 : Kept F s) : Kept F (lselWrite s r b) := by
  unfold lselWrite
  refine Kept.ite ?_ ?_
  · extract_lets +onlyGivenNames -underBinder -merge -useContext s2
    have h3 : Kept F s2 := by
      unfold s2
      exact (Kept.of h1 rfl rfl rfl rfl rfl rfl)
    refine Kept.ite ?_ ?_
    · extract_lets +onlyGivenNames -underBinder -merge -useContext k4
      clear_value k4
      exact (Kept.of h3 rfl rfl rfl rfl rfl rfl)
    · exact h3
  · exact (State.evt_kept h1)

theorem leafPmReq_kept {s : State} {ent : Nat} {sel : Nat} (h1 : Kept F s) : Kept F (leafPmReq s ent sel) := by
  unfold leafPmReq
  exact (Kept.ite (State.evt_kept h1) (Kept.of h1 rfl rfl rfl rfl rfl rfl))

theorem leafShoot_kept {s : State} (h1 : Kept F s) : Kept F (leafShoot s) := by
  unfold leafShoot
  exact (Kept.of h1 rfl rfl rfl rfl rfl rfl)

theorem shoot_kept {s : State} (h1 : Kept F s) : Kept F (shoot s) := by
  unfold shoot
  exact (leafShoot_kept (pmShoot_kept h1))

theorem reqBoundary_kept {s : State} (h1 : Kept F s) : Kept F (reqBoundary s) := by
  unfold reqBoundary
  extract_lets +onlyGivenNames -underBinder -merge -useContext s2
  have h3 : Kept F s2 := by
    unfold s2
    exact (pmBoundary_kept h1)
  clear_value s2
  exact (Kept.ite (leafShoot_kept (State.pendRes_kept h3)) h3)

theorem leafPmSnapshot_kept {s : State} (h1 : Kept F s) : Kept F (leafPmSnapshot s) := by
  unfold leafPmSnapshot
  split
  · refine Kept.ite ?_ ?_
    · refine putShot_kept ?_
      exact (Kept.of h1 rfl rfl rfl rfl rfl rfl)
    · exact h1
  · exact h1

theorem execLeafCarrierFrame_kept {carrier : Nat} {rx : LeafRx} {s : State} {t : State} (h : Kept F s) (ht : execLeafCarrierFrame carrier rx s = .next t) :
    Kept F t :=
  checked_kept h (lateStat_kept (fun _ h1 => (leafStat_kept (leafLate_kept h1))) (leafCarrier_kept h)) ht

theorem execDqlcClear_kept {carrier : Nat} {s : State} {t : State} (h : Kept F s) (ht : execDqlcClear carrier s = .next t) : Kept F t :=
  checked_kept h (dqlcClear_kept h) ht

theorem execLeafPmReq_kept {ent : Nat} {sel : Nat} {s : State} {t : State} (h : Kept F s) (ht : execLeafPmReq ent sel s = .next t) : Kept F t :=
  checked_kept h (State.host_kept h (fun _ h1 => (leafPmReq_kept h1))) ht

theorem execLeafPmSnapshot_kept {s : State} {t : State} (h : Kept F s) (ht : execLeafPmSnapshot s = .next t) : Kept F t :=
  checked_kept h (leafPmSnapshot_kept h) ht

theorem execLeafPmAck_kept {seq : Nat} {s : State} {t : State} (h : Kept F s) (ht : execLeafPmAck seq s = .next t) : Kept F t :=
  checked_kept h (State.host_kept h (fun _ h1 => (State.ackRes_kept h1))) ht

end Sys2Proof.Machine
end

