-- ==== Sys2Proof/Laws/KeepProt.lean ====
section
/-! SUPPORT. What Machine/Prot.lean keeps: each operation, and each command, leads from a safe state to a safe state, and no fuse goes back (Safety.lean). -/

namespace Sys2Proof.Machine

variable {F : Fuses}

theorem State.updGrp_kept {s : State} {g : Nat} {f : Grp → Grp} (h1 : Kept F s) : Kept F (State.updGrp s g f) := by
  unfold State.updGrp
  exact (Kept.of h1 rfl rfl rfl rfl rfl rfl)

theorem protEvent_kept {s : State} {n : Nat} {kind : Nat} {fn : Nat} (h1 : Kept F s) : Kept F (protEvent s n kind fn) := by
  unfold protEvent
  exact (State.postOwned_kept h1)

theorem protSwitched_kept {s : State} {n : Nat} (h1 : Kept F s) : Kept F (protSwitched s n) := by
  unfold protSwitched
  extract_lets +onlyGivenNames -underBinder -merge -useContext k2
  clear_value k2
  extract_lets +onlyGivenNames -underBinder -merge -useContext s3
  have h4 : Kept F s3 := by
    unfold s3
    exact (State.updGrp_kept h1)
  clear_value s3
  extract_lets +onlyGivenNames -underBinder -merge -useContext s5
  have h6 : Kept F s5 := by
    unfold s5
    exact (Kept.ite (State.mapBit_kept h4) h4)
  clear_value s5
  exact (State.evt_kept h6)

theorem selRecount_kept {s : State} {n : Nat} {was : Bool} {mid : Bool} {now : Bool} (h1 : Kept F s) : Kept F (selRecount s n was mid now) := by
  unfold selRecount
  exact (Kept.ite (protSwitched_kept h1) (Kept.ite (State.updGrp_kept h1) h1))

theorem switchSettle_kept {s : State} (h1 : Kept F s) : Kept F (switchSettle s) := by
  unfold switchSettle
  split
  · exact (Kept.ite h1 (State.setFlag_kept h1))
  · exact h1

theorem protLate_kept {s : State} {n : Nat} (h1 : Kept F s) : Kept F (protLate s n) := by
  unfold protLate
  extract_lets +onlyGivenNames -underBinder -merge -useContext s2
  have h3 : Kept F s2 := by
    unfold s2
    exact (State.evt_kept (State.incPair_kept h1))
  clear_value s2
  exact (Kept.ite h3 (protEvent_kept h3))

theorem putAps_kept {s : State} {i : Nat} {level : Nat} {b : List Byte} (h1 : Kept F s) : Kept F (putAps s i level b) := by
  unfold putAps
  refine State.send_kept ?_
  exact (Kept.of h1 rfl rfl rfl rfl rfl rfl)

theorem putTx_kept {s : State} {d : ProtDef} {tx : List Byte} (h1 : Kept F s) : Kept F (putTx s d tx) := by
  unfold putTx
  refine Kept.ite ?_ ?_
  · extract_lets +onlyGivenNames -underBinder -merge -useContext k2
    clear_value k2
    exact (Kept.of h1 rfl rfl rfl rfl rfl rfl)
  · exact (putAps_kept h1)

theorem nrSend_kept {s : State} {d : ProtDef} (h1 : Kept F s) : Kept F (nrSend s d) := by
  unfold nrSend
  extract_lets +onlyGivenNames -underBinder -merge -useContext k2 k3
  clear_value k2 k3
  exact (State.updGrp_kept (putTx_kept h1))

theorem protWrites_kept {s : State} {n : Nat} {d : ProtDef} (h1 : Kept F s) : Kept F (protWrites s n d) := by
  unfold protWrites
  extract_lets +onlyGivenNames -underBinder -merge -useContext k2 k3
  clear_value k2 k3
  extract_lets +onlyGivenNames -underBinder -merge -useContext s4
  have h5 : Kept F s4 := by
    unfold s4
    exact (Kept.ite (lselWrite_kept h1) (Kept.ite (selWrite_kept (selWrite_kept h1)) (selWrite_kept h1)))
  clear_value s4
  extract_lets +onlyGivenNames -underBinder -merge -useContext s6
  have h7 : Kept F s6 := by
    unfold s6
    exact (Kept.ite h5 (putTx_kept h5))
  clear_value s6
  exact (State.updGrp_kept h7)

theorem protUndo_kept {s : State} {n : Nat} {d : ProtDef} (h1 : Kept F s) : Kept F (protUndo s n d) := by
  unfold protUndo
  extract_lets +onlyGivenNames -underBinder -merge -useContext k2 k3
  clear_value k2 k3
  extract_lets +onlyGivenNames -underBinder -merge -useContext f4
  have h5 : ∀ (a6 : State) (h7 : Kept F a6), Kept F (f4 a6) := by
    intro a6 h7
    unfold f4
    extract_lets +onlyGivenNames -underBinder -merge -useContext s8
    have h9 : Kept F s8 := by
      unfold s8
      exact (Kept.ite (Kept.of h7 rfl rfl rfl rfl rfl rfl) (Kept.of h7 rfl rfl rfl rfl rfl rfl))
    clear_value s8
    extract_lets +onlyGivenNames -underBinder -merge -useContext s10
    have h11 : Kept F s10 := by
      unfold s10
      exact (Kept.ite (Kept.of h9 rfl rfl rfl rfl rfl rfl) h9)
    clear_value s10
    exact (Kept.ite h11 (putTx_kept h11))
  clear_value f4
  extract_lets +onlyGivenNames -underBinder -merge -useContext s12
  have h13 : Kept F s12 := by
    unfold s12
    exact (Kept.ite h1 (h5 _ h1))
  clear_value s12
  extract_lets +onlyGivenNames -underBinder -merge -useContext k14
  clear_value k14
  refine State.updGrp_kept ?_
  exact (Kept.of h13 rfl rfl rfl rfl rfl rfl)

theorem protEval_kept {s : State} {n : Nat} (h1 : Kept F s) : Kept F (protEval s n) := by
  unfold protEval
  split
  · extract_lets +onlyGivenNames -underBinder -merge -useContext k2
    clear_value k2
    refine Kept.ite ?_ ?_
    · exact h1
    · extract_lets +onlyGivenNames -underBinder -merge -useContext k3 k4
      clear_value k3 k4
      extract_lets +onlyGivenNames -underBinder -merge -useContext s5
      have h6 : Kept F s5 := by
        unfold s5
        exact (State.updGrp_kept h1)
      clear_value s5
      refine Kept.ite ?_ ?_
      · exact h6
      · extract_lets +onlyGivenNames -underBinder -merge -useContext k7
        clear_value k7
        extract_lets +onlyGivenNames -underBinder -merge -useContext s8
        have h9 : Kept F s8 := by
          unfold s8
          exact (Kept.ite h6 (protWrites_kept h6))
        clear_value s8
        extract_lets +onlyGivenNames -underBinder -merge -useContext s10
        have h11 : Kept F s10 := by
          unfold s10
          exact (Kept.ite (State.evt_kept h9) h9)
        clear_value s10
        extract_lets +onlyGivenNames -underBinder -merge -useContext s12
        have h13 : Kept F s12 := by
          unfold s12
          exact (Kept.ite (State.evt_kept h11) h11)
        clear_value s12
        extract_lets +onlyGivenNames -underBinder -merge -useContext s14
        have h15 : Kept F s14 := by
          unfold s14
          exact (Kept.foldl (fun _ _ h16 => (protEvent_kept h16)) h13)
        clear_value s14
        extract_lets +onlyGivenNames -underBinder -merge -useContext s17
        have h18 : Kept F s17 := by
          unfold s17
          exact (Kept.ite (protEvent_kept h15) h15)
        clear_value s17
        exact (Kept.ite (protEvent_kept h18) h18)
  · exact h1

theorem holdEnd_kept {s : State} {n : Nat} {protect : Bool} {sd : Bool} (h1 : Kept F s) : Kept F (holdEnd s n protect sd) := by
  unfold holdEnd
  split
  · refine Kept.ite ?_ ?_
    · exact h1
    · extract_lets +onlyGivenNames -underBinder -merge -useContext k2
      clear_value k2
      exact (State.updGrp_kept h1)
  · exact h1

theorem wtrExpiry_kept {s : State} {n : Nat} (h1 : Kept F s) : Kept F (wtrExpiry s n) := by
  unfold wtrExpiry
  split
  · refine Kept.ite ?_ ?_
    · extract_lets +onlyGivenNames -underBinder -merge -useContext s2
      have h3 : Kept F s2 := by
        unfold s2
        exact (State.updGrp_kept h1)
      clear_value s2
      exact (Kept.ite h3 (protEvent_kept h3))
    · exact h1
  · exact h1

theorem dfopNr_kept {s : State} {n : Nat} (h1 : Kept F s) : Kept F (dfopNr s n) := by
  unfold dfopNr
  extract_lets +onlyGivenNames -underBinder -merge -useContext k2
  clear_value k2
  refine Kept.ite ?_ ?_
  · exact h1
  · extract_lets +onlyGivenNames -underBinder -merge -useContext s3
    have h4 : Kept F s3 := by
      unfold s3
      exact (State.updGrp_kept h1)
    clear_value s3
    exact (Kept.ite h4 (State.evt_kept h4))

theorem dfsl_kept {s : State} {n : Nat} (h1 : Kept F s) : Kept F (dfsl s n) := by
  unfold dfsl
  split
  · extract_lets +onlyGivenNames -underBinder -merge -useContext k2
    clear_value k2
    refine Kept.ite ?_ ?_
    · exact h1
    · extract_lets +onlyGivenNames -underBinder -merge -useContext s3
      have h4 : Kept F s3 := by
        unfold s3
        exact (State.updGrp_kept h1)
      clear_value s3
      exact (Kept.ite h4 (State.evt_kept h4))
  · exact h1

theorem protCmd_kept {s : State} {op : Nat} {n : Nat} (h1 : Kept F s) : Kept F (protCmd s op n) := by
  unfold protCmd
  refine Kept.ite ?_ ?_
  · exact (State.evt_kept h1)
  · extract_lets +onlyGivenNames -underBinder -merge -useContext k2 k3
    clear_value k2 k3
    extract_lets +onlyGivenNames -underBinder -merge -useContext s4
    have h5 : Kept F s4 := by
      unfold s4
      exact (State.wr_kept h1)
    clear_value s4
    extract_lets +onlyGivenNames -underBinder -merge -useContext s6
    have h7 : Kept F s6 := by
      unfold s6
      exact (State.putRes_kept h5)
    clear_value s6
    exact (Kept.ite (State.updGrp_kept h7) h7)

theorem grpRegs_kept {s : State} {d : ProtDef} (h1 : Kept F s) : Kept F (grpRegs s d) := by
  unfold grpRegs
  extract_lets +onlyGivenNames -underBinder -merge -useContext k2
  clear_value k2
  extract_lets +onlyGivenNames -underBinder -merge -useContext s3
  have h4 : Kept F s3 := by
    unfold s3
    exact (putStat_kept h1)
  clear_value s3
  extract_lets +onlyGivenNames -underBinder -merge -useContext s5
  have h6 : Kept F s5 := by
    unfold s5
    exact (State.wr_kept h4)
  clear_value s5
  extract_lets +onlyGivenNames -underBinder -merge -useContext s7
  have h8 : Kept F s7 := by
    unfold s7
    exact (State.wr_kept h6)
  clear_value s7
  extract_lets +onlyGivenNames -underBinder -merge -useContext s9
  have h10 : Kept F s9 := by
    unfold s9
    exact (State.wr_kept h8)
  clear_value s9
  exact (State.wr_kept h10)

theorem protFrame1_kept {s : State} {d : ProtDef} (h1 : Kept F s) : Kept F (protFrame1 s d) := by
  unfold protFrame1
  extract_lets +onlyGivenNames -underBinder -merge -useContext k2
  clear_value k2
  extract_lets +onlyGivenNames -underBinder -merge -useContext s3
  have h4 : Kept F s3 := by
    unfold s3
    exact (Kept.ite h1 (protSwitched_kept h1))
  clear_value s3
  extract_lets +onlyGivenNames -underBinder -merge -useContext s5
  have h6 : Kept F s5 := by
    unfold s5
    exact (failEnt_kept h4)
  clear_value s5
  extract_lets +onlyGivenNames -underBinder -merge -useContext s7
  have h8 : Kept F s7 := by
    unfold s7
    exact (State.updGrp_kept h6)
  clear_value s7
  exact (grpRegs_kept h8)

theorem protFrame_kept {s : State} (h1 : Kept F s) : Kept F (protFrame s) := by
  unfold protFrame
  split
  · extract_lets +onlyGivenNames -underBinder -merge -useContext s2
    have h3 : Kept F s2 := by
      unfold s2
      refine Kept.foldl (fun _ _ h4 => ?_) ?_
      · exact (protFrame1_kept h4)
      · exact (Kept.of h1 rfl rfl rfl rfl rfl rfl)
    clear_value s2
    exact (Kept.of h3 rfl rfl rfl rfl rfl rfl)
  · exact h1

theorem protRaise_kept {s : State} {n : Nat} {code : Nat} (h1 : Kept F s) : Kept F (protRaise s n code) := by
  unfold protRaise
  exact (Kept.ite (failMove_kept h1) h1)

theorem protClear_kept {s : State} {n : Nat} {code : Nat} (h1 : Kept F s) : Kept F (protClear s n code) := by
  unfold protClear
  exact (Kept.ite (failMove_kept h1) h1)

theorem failureRaise_kept {s : State} {ent : Nat} {code : Nat} (h1 : Kept F s) : Kept F (failureRaise s ent code) := by
  unfold failureRaise
  exact (Kept.ite (lineRaise_kept h1) (Kept.ite (leafRaise_kept h1) (protRaise_kept h1)))

theorem failureClear_kept {s : State} {ent : Nat} {code : Nat} (h1 : Kept F s) : Kept F (failureClear s ent code) := by
  unfold failureClear
  exact (Kept.ite (lineClear_kept h1) (Kept.ite (leafClear_kept h1) (protClear_kept h1)))

theorem secondEnd_kept {s : State} (h1 : Kept F s) : Kept F (secondEnd s) := by
  unfold secondEnd
  refine Kept.ite ?_ ?_
  · extract_lets +onlyGivenNames -underBinder -merge -useContext s2
    have h3 : Kept F s2 := by
      unfold s2
      exact (leafSeconds_kept (lineSeconds_kept (settle_kept h1)))
    clear_value s2
    refine shoot_kept ?_
    exact (Kept.of h3 rfl rfl rfl rfl rfl rfl)
  · exact h1

theorem grpLate_kept {n : Nat} {s : State} (h1 : Kept F s) : Kept F (grpLate n s) := by
  unfold grpLate
  refine lateStat_kept (fun _ h4 => ?_) h1
  split
  · exact (grpRegs_kept h4)
  · exact h4

theorem execLo_kept {group : Nat} {s : State} {t : State} (h : Kept F s) (ht : execLo group s = .next t) : Kept F t :=
  checked_kept h (State.host_kept h (fun _ h1 => (protCmd_kept h1))) ht

theorem execFs_kept {group : Nat} {s : State} {t : State} (h : Kept F s) (ht : execFs group s = .next t) : Kept F t :=
  checked_kept h (State.host_kept h (fun _ h1 => (protCmd_kept h1))) ht

theorem execMsP_kept {group : Nat} {s : State} {t : State} (h : Kept F s) (ht : execMsP group s = .next t) : Kept F t :=
  checked_kept h (State.host_kept h (fun _ h1 => (protCmd_kept h1))) ht

theorem execMsW_kept {group : Nat} {s : State} {t : State} (h : Kept F s) (ht : execMsW group s = .next t) : Kept F t :=
  checked_kept h (State.host_kept h (fun _ h1 => (protCmd_kept h1))) ht

theorem execClear_kept {group : Nat} {s : State} {t : State} (h : Kept F s) (ht : execClear group s = .next t) : Kept F t :=
  checked_kept h (State.host_kept h (fun _ h1 => (protCmd_kept h1))) ht

theorem execProtCmdAck_kept {seq : Nat} {s : State} {t : State} (h : Kept F s) (ht : execProtCmdAck seq s = .next t) : Kept F t :=
  checked_kept h (State.host_kept h (fun _ h1 => (State.ackRes_kept h1))) ht

theorem execProtEvaluation_kept {group : Nat} {s : State} {t : State} (h : Kept F s) (ht : execProtEvaluation group s = .next t) : Kept F t :=
  checked_kept h (protEval_kept h) ht

theorem execHoldOffEnd_kept {group : Nat} {protect : Bool} {sd : Bool} {s : State} {t : State} (h : Kept F s) (ht : execHoldOffEnd group protect sd s = .next t) :
    Kept F t :=
  checked_kept h (grpLate_kept (holdEnd_kept h)) ht

theorem execWtrExpiry_kept {group : Nat} {s : State} {t : State} (h : Kept F s) (ht : execWtrExpiry group s = .next t) : Kept F t :=
  checked_kept h (grpLate_kept (wtrExpiry_kept h)) ht

theorem execDfopNr_kept {group : Nat} {s : State} {t : State} (h : Kept F s) (ht : execDfopNr group s = .next t) : Kept F t :=
  checked_kept h (grpLate_kept (dfopNr_kept h)) ht

theorem execDfsl_kept {group : Nat} {s : State} {t : State} (h : Kept F s) (ht : execDfsl group s = .next t) : Kept F t :=
  checked_kept h (grpLate_kept (dfsl_kept h)) ht

theorem execFailureRaise_kept {ent : Nat} {code : Nat} {s : State} {t : State} (h : Kept F s) (ht : execFailureRaise ent code s = .next t) :
    Kept F t :=
  checked_kept h (failureRaise_kept (settle_kept h)) ht

theorem execFailureClear_kept {ent : Nat} {code : Nat} {s : State} {t : State} (h : Kept F s) (ht : execFailureClear ent code s = .next t) :
    Kept F t :=
  checked_kept h (failureClear_kept (settle_kept h)) ht

theorem execPmSecondEnd_kept {s : State} {t : State} (h : Kept F s) (ht : execPmSecondEnd s = .next t) : Kept F t :=
  checked_kept h (secondEnd_kept h) ht

end Sys2Proof.Machine
end

