-- ==== Sys2Proof/Laws/KeepTiming.lean ====
section
/-! SUPPORT. What Machine/Timing.lean keeps: each operation, and each command, leads from a safe state to a safe state, and no fuse goes back (Safety.lean). -/

namespace Sys2Proof.Machine

variable {F : Fuses}

theorem State.updRef_kept {s : State} {n : Nat} {f : Ref → Ref} (h1 : Kept F s) : Kept F (State.updRef s n f) := by
  unfold State.updRef
  exact (Kept.of h1 rfl rfl rfl rfl rfl rfl)

theorem setRefSt_kept {s : State} {n : Nat} {st : Nat} (h1 : Kept F s) : Kept F (setRefSt s n st) := by
  unfold setRefSt
  exact (State.setFld_kept h1)

theorem loopSet_kept {s : State} (h1 : Kept F s) : Kept F (loopSet s) := by
  unfold loopSet
  refine Kept.ite ?_ ?_
  · exact h1
  · extract_lets +onlyGivenNames -underBinder -merge -useContext k2
    clear_value k2
    exact (Kept.of h1 rfl rfl rfl rfl rfl rfl)

theorem ssmMessage_kept {s : State} {n : Nat} {code : Nat} (h1 : Kept F s) : Kept F (ssmMessage s n code) := by
  unfold ssmMessage
  exact (Kept.ite (State.updRef_kept h1) (Kept.ite (State.updRef_kept h1) h1))

theorem refFail_kept {s : State} {n : Nat} (h1 : Kept F s) : Kept F (refFail s n) := by
  unfold refFail
  exact (State.evt_kept (State.evt_kept (setRefSt_kept h1)))

theorem refReturn_kept {s : State} {n : Nat} (h1 : Kept F s) : Kept F (refReturn s n) := by
  unfold refReturn
  exact (State.updRef_kept (setRefSt_kept h1))

theorem refUsable_kept {s : State} {n : Nat} (h1 : Kept F s) : Kept F (refUsable s n) := by
  unfold refUsable
  exact (State.updRef_kept (setRefSt_kept h1))

theorem refLeft_kept {s : State} {n : Nat} (h1 : Kept F s) : Kept F (refLeft s n) := by
  unfold refLeft
  exact (State.wr_kept h1)

theorem refClear_kept {s : State} {n : Nat} (h1 : Kept F s) : Kept F (refClear s n) := by
  unfold refClear
  extract_lets +onlyGivenNames -underBinder -merge -useContext s2
  have h3 : Kept F s2 := by
    unfold s2
    exact (Kept.foldl (fun _ _ h4 => (Kept.ite h4 (State.wr_kept h4))) h1)
  clear_value s2
  exact (Kept.of h3 rfl rfl rfl rfl rfl rfl)

theorem refFaults_kept {s : State} {n : Nat} (h1 : Kept F s) : Kept F (refFaults s n) := by
  unfold refFaults
  extract_lets +onlyGivenNames -underBinder -merge -useContext k2
  clear_value k2
  extract_lets +onlyGivenNames -underBinder -merge -useContext s3
  have h4 : Kept F s3 := by
    unfold s3
    exact (State.setFlag_kept h1)
  clear_value s3
  extract_lets +onlyGivenNames -underBinder -merge -useContext k5
  clear_value k5
  refine Kept.ite ?_ ?_
  · exact h4
  · refine Kept.ite ?_ ?_
    · extract_lets +onlyGivenNames -underBinder -merge -useContext s6
      have h7 : Kept F s6 := by
        unfold s6
        exact (State.updRef_kept h4)
      clear_value s6
      exact (Kept.ite h7 (State.evt_kept (State.setFlag_kept h7)))
    · exact (State.updRef_kept h4)

theorem refFrame_kept {s : State} {n : Nat} (h1 : Kept F s) : Kept F (refFrame s n) := by
  unfold refFrame
  refine Kept.ite ?_ ?_
  · exact (refClear_kept h1)
  · extract_lets +onlyGivenNames -underBinder -merge -useContext s2
    have h3 : Kept F s2 := by
      unfold s2
      exact (refFaults_kept h1)
    clear_value s2
    extract_lets +onlyGivenNames -underBinder -merge -useContext k4
    clear_value k4
    extract_lets +onlyGivenNames -underBinder -merge -useContext s5
    have h6 : Kept F s5 := by
      unfold s5
      split
      · exact (State.updRef_kept (setRefSt_kept h3))
      · exact (Kept.ite h3 (refReturn_kept h3))
      · exact (Kept.ite (refFail_kept h3) (State.updRef_kept h3))
      · exact (Kept.ite (refFail_kept h3) (State.updRef_kept h3))
      · exact (Kept.ite (refFail_kept h3) (State.updRef_kept h3))
      · exact (Kept.ite (refFail_kept h3) h3)
    clear_value s5
    exact (State.updRef_kept h6)

theorem refShow_kept {s : State} {n : Nat} (h1 : Kept F s) : Kept F (refShow s n) := by
  unfold refShow
  extract_lets +onlyGivenNames -underBinder -merge -useContext k2 k3
  clear_value k2 k3
  extract_lets +onlyGivenNames -underBinder -merge -useContext s4
  have h5 : Kept F s4 := by
    unfold s4
    exact (Kept.ite (State.evt_kept h1) h1)
  clear_value s4
  extract_lets +onlyGivenNames -underBinder -merge -useContext s6
  have h7 : Kept F s6 := by
    unfold s6
    exact (State.setFld_kept h5)
  clear_value s6
  extract_lets +onlyGivenNames -underBinder -merge -useContext s8
  have h9 : Kept F s8 := by
    unfold s8
    exact (State.setFlag_kept h7)
  clear_value s8
  exact (refLeft_kept (State.setFlag_kept h9))

theorem dispute_kept {s : State} (h1 : Kept F s) : Kept F (dispute s) := by
  unfold dispute
  extract_lets +onlyGivenNames -underBinder -merge -useContext k2
  clear_value k2
  exact (Kept.ite h1 (Kept.foldl (fun _ _ h3 => (State.evt_kept (State.evt_kept (State.updRef_kept (setRefSt_kept h3))))) h1))

theorem setTimSt_kept {s : State} {st : Nat} (h1 : Kept F s) : Kept F (setTimSt s st) := by
  unfold setTimSt
  refine Kept.ite ?_ ?_
  · exact h1
  · extract_lets +onlyGivenNames -underBinder -merge -useContext s2
    have h3 : Kept F s2 := by
      unfold s2
      exact (State.setFld_kept h1)
    clear_value s2
    split
    · exact (State.evt_kept h3)
    · exact (State.evt_kept h3)
    · exact (State.evt_kept h3)
    · exact h3

theorem timHold_kept {s : State} (h1 : Kept F s) : Kept F (timHold s) := by
  unfold timHold
  extract_lets +onlyGivenNames -underBinder -merge -useContext s2
  have h3 : Kept F s2 := by
    unfold s2
    exact (State.dropNewFn_kept (State.setFld_kept h1))
  clear_value s2
  exact (Kept.ite (setTimSt_kept h3) h3)

theorem timSwitch_kept {s : State} {n : Nat} (h1 : Kept F s) : Kept F (timSwitch s n) := by
  unfold timSwitch
  extract_lets +onlyGivenNames -underBinder -merge -useContext s2
  have h3 : Kept F s2 := by
    unfold s2
    exact (loopSet_kept (State.dropNewFn_kept (State.setFld_kept h1)))
  clear_value s2
  extract_lets +onlyGivenNames -underBinder -merge -useContext s4
  have h5 : Kept F s4 := by
    unfold s4
    exact (State.count_kept (State.evt_kept h3))
  clear_value s4
  extract_lets +onlyGivenNames -underBinder -merge -useContext s6
  have h7 : Kept F s6 := by
    unfold s6
    exact (State.updRef_kept h5)
  clear_value s6
  extract_lets +onlyGivenNames -underBinder -merge -useContext s8
  have h9 : Kept F s8 := by
    unfold s8
    exact (Kept.ite (setTimSt_kept h7) h7)
  clear_value s8
  extract_lets +onlyGivenNames -underBinder -merge -useContext s10
  have h11 : Kept F s10 := by
    unfold s10
    exact (State.setFlag_kept h9)
  clear_value s10
  extract_lets +onlyGivenNames -underBinder -merge -useContext k12
  clear_value k12
  exact (Kept.of h11 rfl rfl rfl rfl rfl rfl)

theorem timSelect_kept {s : State} (h1 : Kept F s) : Kept F (timSelect s) := by
  unfold timSelect
  extract_lets +onlyGivenNames -underBinder -merge -useContext k2 k3 k4 k5 k6
  clear_value k2 k3 k4 k5 k6
  refine Kept.ite ?_ ?_
  · exact (timHold_kept h1)
  · refine Kept.ite ?_ ?_
    · exact (Kept.ite (timHold_kept h1) h1)
    · split
      · exact (timHold_kept h1)
      · extract_lets +onlyGivenNames -underBinder -merge -useContext k7
        clear_value k7
        exact (Kept.ite h1 (Kept.ite (timSwitch_kept h1) (Kept.ite (timSwitch_kept h1) (Kept.ite (timSwitch_kept h1) (Kept.ite (timSwitch_kept h1) h1)))))

theorem timOutput_kept {s : State} (h1 : Kept F s) : Kept F (timOutput s) := by
  unfold timOutput
  extract_lets +onlyGivenNames -underBinder -merge -useContext k2 k3 k4
  clear_value k2 k3 k4
  extract_lets +onlyGivenNames -underBinder -merge -useContext s5
  have h6 : Kept F s5 := by
    unfold s5
    exact (State.wr_kept h1)
  clear_value s5
  extract_lets +onlyGivenNames -underBinder -merge -useContext k7
  clear_value k7
  extract_lets +onlyGivenNames -underBinder -merge -useContext s8
  have h9 : Kept F s8 := by
    unfold s8
    exact (Kept.ite (State.count_kept (State.evt_kept h6)) h6)
  clear_value s8
  exact (State.setFlag_kept h9)

theorem timMemory_kept {s : State} (h1 : Kept F s) : Kept F (timMemory s) := by
  unfold timMemory
  extract_lets +onlyGivenNames -underBinder -merge -useContext k2 k3 k4 k5
  clear_value k2 k3 k4 k5
  extract_lets +onlyGivenNames -underBinder -merge -useContext s6
  have h7 : Kept F s6 := by
    unfold s6
    exact (Kept.of h1 rfl rfl rfl rfl rfl rfl)
  clear_value s6
  refine Kept.ite ?_ ?_
  · exact h7
  · extract_lets +onlyGivenNames -underBinder -merge -useContext k8
    clear_value k8
    exact (State.setFlag_kept (State.wr_kept h7))

theorem timRuns_kept {s : State} (h1 : Kept F s) : Kept F (timRuns s) := by
  unfold timRuns
  extract_lets +onlyGivenNames -underBinder -merge -useContext k2 k3
  clear_value k2 k3
  exact (Kept.of h1 rfl rfl rfl rfl rfl rfl)

theorem squelch_kept {s : State} (h1 : Kept F s) : Kept F (squelch s) := by
  unfold squelch
  extract_lets +onlyGivenNames -underBinder -merge -useContext k2
  clear_value k2
  refine Kept.foldl (fun _ _ h3 => ?_) h1
  extract_lets +onlyGivenNames -underBinder -merge -useContext k4 k5
  clear_value k4 k5
  exact (State.setFlag_kept h3)

theorem timShow_kept {s : State} (h1 : Kept F s) : Kept F (timShow s) := by
  unfold timShow
  extract_lets +onlyGivenNames -underBinder -merge -useContext k2 k3
  clear_value k2 k3
  extract_lets +onlyGivenNames -underBinder -merge -useContext s4
  have h5 : Kept F s4 := by
    unfold s4
    exact (Kept.ite h1 (State.evt_kept h1))
  clear_value s4
  extract_lets +onlyGivenNames -underBinder -merge -useContext s6
  have h7 : Kept F s6 := by
    unfold s6
    exact (State.setFld_kept h5)
  clear_value s6
  extract_lets +onlyGivenNames -underBinder -merge -useContext k8
  clear_value k8
  extract_lets +onlyGivenNames -underBinder -merge -useContext s9
  have h10 : Kept F s9 := by
    unfold s9
    exact (Kept.ite h1 (Kept.of h7 rfl rfl rfl rfl rfl rfl))
  clear_value s9
  exact (squelch_kept h10)

theorem refSample_kept {s : State} {y2 : Nat × RefSample} (h1 : Kept F s) : Kept F (refSample s y2) := by
  unfold refSample
  extract_lets +onlyGivenNames -underBinder -merge -useContext s3
  have h4 : Kept F s3 := by
    unfold s3
    exact (State.updRef_kept h1)
  clear_value s3
  exact (State.wr_kept h4)

theorem refPhase_kept {s : State} {n : Nat} (h1 : Kept F s) : Kept F (refPhase s n) := by
  unfold refPhase
  extract_lets +onlyGivenNames -underBinder -merge -useContext s2
  have h3 : Kept F s2 := by
    unfold s2
    split
    · exact (State.updRef_kept h1)
    · exact h1
  clear_value s2
  extract_lets +onlyGivenNames -underBinder -merge -useContext k4
  clear_value k4
  exact (State.wr_kept h3)

theorem timFrame_kept {s : State} {inp : FrameInput} (h1 : Kept F s) : Kept F (timFrame s inp) := by
  unfold timFrame
  refine Kept.ite ?_ ?_
  · exact h1
  · extract_lets +onlyGivenNames -underBinder -merge -useContext s2
    have h3 : Kept F s2 := by
      unfold s2
      exact (Kept.foldl (fun _ _ h4 => (refSample_kept h4)) h1)
    clear_value s2
    extract_lets +onlyGivenNames -underBinder -merge -useContext s5
    have h6 : Kept F s5 := by
      unfold s5
      exact (Kept.foldl (fun _ _ h7 => (refPhase_kept h7)) h3)
    clear_value s5
    extract_lets +onlyGivenNames -underBinder -merge -useContext k8
    clear_value k8
    extract_lets +onlyGivenNames -underBinder -merge -useContext s9
    have h10 : Kept F s9 := by
      unfold s9
      exact (Kept.of h6 rfl rfl rfl rfl rfl rfl)
    clear_value s9
    extract_lets +onlyGivenNames -underBinder -merge -useContext s11
    have h12 : Kept F s11 := by
      unfold s11
      exact (timMemory_kept (timRuns_kept h10))
    clear_value s11
    extract_lets +onlyGivenNames -underBinder -merge -useContext s13
    have h14 : Kept F s13 := by
      unfold s13
      exact (Kept.foldl (fun _ _ h15 => (refFrame_kept h15)) h12)
    clear_value s13
    extract_lets +onlyGivenNames -underBinder -merge -useContext s16
    have h17 : Kept F s16 := by
      unfold s16
      exact (timSelect_kept (dispute_kept h14))
    clear_value s16
    extract_lets +onlyGivenNames -underBinder -merge -useContext s18
    have h19 : Kept F s18 := by
      unfold s18
      exact (timOutput_kept h17)
    clear_value s18
    exact (Kept.foldl (fun _ _ h20 => (refShow_kept h20)) (timShow_kept h19))

theorem timRedo_kept {s : State} (h1 : Kept F s) : Kept F (timRedo s) := by
  unfold timRedo
  extract_lets +onlyGivenNames -underBinder -merge -useContext s2
  have h3 : Kept F s2 := by
    unfold s2
    exact (Kept.foldl (fun _ _ h4 => (refClear_kept h4)) h1)
  clear_value s2
  extract_lets +onlyGivenNames -underBinder -merge -useContext s5
  have h6 : Kept F s5 := by
    unfold s5
    exact (loopSet_kept (timSelect_kept (dispute_kept h3)))
  clear_value s5
  extract_lets +onlyGivenNames -underBinder -merge -useContext s7
  have h8 : Kept F s7 := by
    unfold s7
    exact (Kept.ite h6 (timOutput_kept h6))
  clear_value s7
  exact (Kept.foldl (fun _ _ h9 => (refShow_kept h9)) (timShow_kept h8))

theorem refQualified_kept {s : State} {n : Nat} (h1 : Kept F s) : Kept F (refQualified s n) := by
  unfold refQualified
  exact (Kept.ite (refLeft_kept (refUsable_kept h1)) h1)

theorem refWtrEnd_kept {s : State} {n : Nat} (h1 : Kept F s) : Kept F (refWtrEnd s n) := by
  unfold refWtrEnd
  exact (Kept.ite (refLeft_kept (refUsable_kept h1)) h1)

theorem freqClear_kept {s : State} {n : Nat} (h1 : Kept F s) : Kept F (freqClear s n) := by
  unfold freqClear
  refine Kept.ite ?_ ?_
  · extract_lets +onlyGivenNames -underBinder -merge -useContext s2
    have h3 : Kept F s2 := by
      unfold s2
      exact (State.setFlag_kept h1)
    clear_value s2
    exact (Kept.ite (refLeft_kept (refReturn_kept h3)) h3)
  · exact h1

theorem refLate_kept {s : State} {n : Nat} (h1 : Kept F s) : Kept F (refLate s n) := by
  unfold refLate
  extract_lets +onlyGivenNames -underBinder -merge -useContext s2
  have h3 : Kept F s2 := by
    unfold s2
    exact (State.setFlag_kept h1)
  clear_value s2
  exact (Kept.ite (qlReform_kept (timRedo_kept (refFail_kept h3))) h3)

theorem refSignal_kept {s : State} {n : Nat} {fault : Bool} (h1 : Kept F s) : Kept F (refSignal s n fault) := by
  unfold refSignal
  refine Kept.ite ?_ ?_
  · extract_lets +onlyGivenNames -underBinder -merge -useContext k2
    clear_value k2
    extract_lets +onlyGivenNames -underBinder -merge -useContext s3
    have h4 : Kept F s3 := by
      unfold s3
      exact (State.updRef_kept h1)
    clear_value s3
    exact (Kept.ite (refLate_kept h4) h4)
  · exact h1

theorem disputeRelease_kept {s : State} {n : Nat} (h1 : Kept F s) : Kept F (disputeRelease s n) := by
  unfold disputeRelease
  exact (Kept.ite (refUsable_kept h1) h1)

theorem settlingEnd_kept {s : State} (h1 : Kept F s) : Kept F (settlingEnd s) := by
  unfold settlingEnd
  split
  · refine Kept.ite ?_ ?_
    · extract_lets +onlyGivenNames -underBinder -merge -useContext s2
      have h3 : Kept F s2 := by
        unfold s2
        exact (State.setFlag_kept h1)
      clear_value s2
      extract_lets +onlyGivenNames -underBinder -merge -useContext k4
      clear_value k4
      exact (Kept.of h3 rfl rfl rfl rfl rfl rfl)
    · exact h1
  · exact h1

theorem timPin_kept {s : State} {st : Nat} (h1 : Kept F s) : Kept F (timPin s st) := by
  unfold timPin
  refine Kept.ite ?_ ?_
  · extract_lets +onlyGivenNames -underBinder -merge -useContext k2
    clear_value k2
    exact (Kept.of h1 rfl rfl rfl rfl rfl rfl)
  · exact h1

theorem timLocked_kept {s : State} (h1 : Kept F s) : Kept F (timLocked s) := by
  unfold timLocked
  exact (Kept.ite (timPin_kept (setTimSt_kept h1)) h1)

theorem timLockLoss_kept {s : State} (h1 : Kept F s) : Kept F (timLockLoss s) := by
  unfold timLockLoss
  refine Kept.ite ?_ ?_
  · extract_lets +onlyGivenNames -underBinder -merge -useContext s2
    have h3 : Kept F s2 := by
      unfold s2
      exact (timPin_kept (setTimSt_kept h1))
    clear_value s2
    extract_lets +onlyGivenNames -underBinder -merge -useContext k4
    clear_value k4
    exact (Kept.of h3 rfl rfl rfl rfl rfl rfl)
  · exact h1

theorem ppsOutRise_kept {s : State} (h1 : Kept F s) : Kept F (ppsOutRise s) := by
  unfold ppsOutRise
  refine Kept.ite ?_ ?_
  · extract_lets +onlyGivenNames -underBinder -merge -useContext k2 k3
    clear_value k2 k3
    exact (Kept.of h1 rfl rfl rfl rfl rfl rfl)
  · exact h1

theorem ppsOutFall_kept {s : State} (h1 : Kept F s) : Kept F (ppsOutFall s) := by
  unfold ppsOutFall
  split
  · refine Kept.ite ?_ ?_
    · extract_lets +onlyGivenNames -underBinder -merge -useContext k2 k3
      clear_value k2 k3
      exact (Kept.of h1 rfl rfl rfl rfl rfl rfl)
    · exact h1
  · exact h1

theorem todOutMessage_kept {s : State} (h1 : Kept F s) : Kept F (todOutMessage s) := by
  unfold todOutMessage
  refine Kept.ite ?_ ?_
  · extract_lets +onlyGivenNames -underBinder -merge -useContext s2
    have h3 : Kept F s2 := by
      unfold s2
      exact (State.send_kept h1)
    clear_value s2
    extract_lets +onlyGivenNames -underBinder -merge -useContext k4
    clear_value k4
    exact (Kept.of h3 rfl rfl rfl rfl rfl rfl)
  · exact h1

theorem todIn_kept {s : State} {b : List Byte} (h1 : Kept F s) : Kept F (todIn s b) := by
  unfold todIn
  exact (Kept.ite (Kept.of h1 rfl rfl rfl rfl rfl rfl) h1)

theorem execQualified_kept {cand : Nat} {s : State} {t : State} (h : Kept F s) (ht : execQualified cand s = .next t) : Kept F t :=
  checked_kept h (refQualified_kept h) ht

theorem execCandidateWtrEnd_kept {cand : Nat} {s : State} {t : State} (h : Kept F s) (ht : execCandidateWtrEnd cand s = .next t) : Kept F t :=
  checked_kept h (refWtrEnd_kept h) ht

theorem execFrequencyFaultClear_kept {cand : Nat} {s : State} {t : State} (h : Kept F s) (ht : execFrequencyFaultClear cand s = .next t) :
    Kept F t :=
  checked_kept h (freqClear_kept h) ht

theorem execRefSignalFault_kept {cand : Nat} {s : State} {t : State} (h : Kept F s) (ht : execRefSignalFault cand s = .next t) : Kept F t :=
  checked_kept h (refSignal_kept h) ht

theorem execRefSignalReturn_kept {cand : Nat} {s : State} {t : State} (h : Kept F s) (ht : execRefSignalReturn cand s = .next t) : Kept F t :=
  checked_kept h (refSignal_kept h) ht

theorem execDisputeRelease_kept {cand : Nat} {s : State} {t : State} (h : Kept F s) (ht : execDisputeRelease cand s = .next t) : Kept F t :=
  checked_kept h (disputeRelease_kept h) ht

theorem execSettlingEnd_kept {s : State} {t : State} (h : Kept F s) (ht : execSettlingEnd s = .next t) : Kept F t :=
  checked_kept h (settlingEnd_kept h) ht

theorem execLocked_kept {s : State} {t : State} (h : Kept F s) (ht : execLocked s = .next t) : Kept F t :=
  checked_kept h (timLocked_kept h) ht

theorem execLockLoss_kept {s : State} {t : State} (h : Kept F s) (ht : execLockLoss s = .next t) : Kept F t :=
  checked_kept h (timLockLoss_kept h) ht

theorem execSsmMessage_kept {cand : Nat} {code : Nat} {s : State} {t : State} (h : Kept F s) (ht : execSsmMessage cand code s = .next t) :
    Kept F t :=
  checked_kept h (ssmMessage_kept h) ht

theorem execPpsOutRise_kept {s : State} {t : State} (h : Kept F s) (ht : execPpsOutRise s = .next t) : Kept F t :=
  checked_kept h (ppsOutRise_kept h) ht

theorem execPpsOutFall_kept {s : State} {t : State} (h : Kept F s) (ht : execPpsOutFall s = .next t) : Kept F t :=
  checked_kept h (ppsOutFall_kept h) ht

theorem execTodOutMessage_kept {s : State} {t : State} (h : Kept F s) (ht : execTodOutMessage s = .next t) : Kept F t :=
  checked_kept h (todOutMessage_kept h) ht

theorem execTodInMessage_kept {bytes : List Byte} {s : State} {t : State} (h : Kept F s) (ht : execTodInMessage bytes s = .next t) : Kept F t :=
  checked_kept h (todIn_kept h) ht

theorem execForceHoWrite_kept {data : BitVec 32} {s : State} {t : State} (h : Kept F s) (ht : execForceHoWrite data s = .next t) : Kept F t :=
  checked_kept h (State.host_kept h (fun _ h1 => (State.wr_kept h1))) ht

theorem execLockoutWrite_kept {m : Nat} {data : BitVec 32} {s : State} {t : State} (h : Kept F s) (ht : execLockoutWrite m data s = .next t) :
    Kept F t := by
  refine checked_kept h ?_ ht
  refine State.host_kept h (fun _ h3 => ?_)
  exact (Kept.ite (State.wr_kept h3) (State.wr_kept h3))

end Sys2Proof.Machine
end

