-- ==== Sys2Proof/Laws/KeepMate.lean ====
section
/-! SUPPORT. What Machine/Mate.lean keeps: each operation, and each command, leads from a safe state to a safe state, and no fuse goes back (Safety.lean). -/

namespace Sys2Proof.Machine

variable {F : Fuses}

theorem State.updMate_kept {s : State} {f : Mate → Mate} (h1 : Kept F s) : Kept F (State.updMate s f) := by
  unfold State.updMate
  exact (Kept.of h1 rfl rfl rfl rfl rfl rfl)

theorem mateCount_kept {s : State} {i : Nat} {n : Nat} (h1 : Kept F s) : Kept F (mateCount s i n) := by
  unfold mateCount
  exact (State.incPair_kept h1)

theorem mirrorMiss_kept {s : State} (h1 : Kept F s) : Kept F (mirrorMiss s) := by
  unfold mirrorMiss
  exact (State.count_kept (State.evt_kept (mateCount_kept h1)))

theorem shadowMiss_kept {s : State} {n : Nat} (h1 : Kept F s) : Kept F (shadowMiss s n) := by
  unfold shadowMiss
  exact (Kept.ite h1 (State.updMate_kept (State.evt_kept (mateCount_kept h1))))

theorem roleSync_kept {s : State} (h1 : Kept F s) : Kept F (roleSync s) := by
  unfold roleSync
  extract_lets +onlyGivenNames -underBinder -merge -useContext k2 k3
  clear_value k2 k3
  exact (State.setFlag_kept h1)

theorem setRole_kept {s : State} {role : Nat} {reason : Nat} (h1 : Kept F s) : Kept F (setRole s role reason) := by
  unfold setRole
  extract_lets +onlyGivenNames -underBinder -merge -useContext s2
  have h3 : Kept F s2 := by
    unfold s2
    exact (Kept.ite h1 (State.evt_kept h1))
  clear_value s2
  extract_lets +onlyGivenNames -underBinder -merge -useContext s4
  have h5 : Kept F s4 := by
    unfold s4
    exact (State.setFld_kept h3)
  clear_value s4
  extract_lets +onlyGivenNames -underBinder -merge -useContext s6
  have h7 : Kept F s6 := by
    unfold s6
    exact (State.setFld_kept h5)
  clear_value s6
  extract_lets +onlyGivenNames -underBinder -merge -useContext s8
  have h9 : Kept F s8 := by
    unfold s8
    exact (roleSync_kept (State.setFlag_kept h7))
  clear_value s8
  exact (Kept.ite (State.dropNewFn_kept h9) h9)

theorem toHolding_kept {s : State} (h1 : Kept F s) : Kept F (toHolding s) := by
  unfold toHolding
  exact (State.updMate_kept (State.evt_kept (setRole_kept h1)))

theorem toStandby_kept {s : State} (h1 : Kept F s) : Kept F (toStandby s) := by
  unfold toStandby
  exact (State.updMate_kept (setRole_kept h1))

theorem toDiverged_kept {s : State} {reason : Nat} (h1 : Kept F s) : Kept F (toDiverged s reason) := by
  unfold toDiverged
  exact (State.updMate_kept (setRole_kept h1))

theorem grinusBad_kept {s : State} (h1 : Kept F s) : Kept F (grinusBad s) := by
  unfold grinusBad
  exact (State.count_kept (mateCount_kept h1))

theorem grinusRx_kept {s : State} {b : List Byte} {ty : Nat} {op : State → List Byte → Nat → State} (h1 : Kept F s) (h2 : ∀ a3, Kept F a3 → ∀ a4, ∀ a5, Kept F (op a3 a4 a5)) :
    Kept F (grinusRx s b ty op) := by
  unfold grinusRx
  exact (Kept.ite h1 (Kept.ite (grinusBad_kept h1) (Kept.ite (h2 _ h1 _ _) h1)))

theorem arbSend_kept {s : State} {b : List Byte} (h1 : Kept F s) : Kept F (arbSend s b) := by
  unfold arbSend
  exact (State.updMate_kept (State.send_kept h1))

theorem arbDrain_kept {t : Nat} : ∀ {l : List (List Byte)} {s : State}, Kept F s → Kept F (arbDrain t l s)
  | [], _, h => State.updMate_kept h
  | b :: r, s, h => by
    unfold arbDrain
    split
    · exact arbDrain_kept (l := r) (State.updMate_kept (State.send_kept h))
    · exact State.updMate_kept h

theorem mateRequest_kept {s : State} (h1 : Kept F s) : Kept F (mateRequest s) := by
  unfold mateRequest
  refine Kept.ite ?_ ?_
  · extract_lets +onlyGivenNames -underBinder -merge -useContext k2 k3
    clear_value k2 k3
    extract_lets +onlyGivenNames -underBinder -merge -useContext s4
    have h5 : Kept F s4 := by
      unfold s4
      exact (arbSend_kept h1)
    clear_value s4
    exact (State.updMate_kept h5)
  · exact h1

theorem reqDone_kept {s : State} {seq : Nat} (h1 : Kept F s) : Kept F (reqDone s seq) := by
  unfold reqDone
  exact (State.updMate_kept h1)

theorem mateGrant_kept {s : State} {p : List Byte} {seq : Nat} (h1 : Kept F s) : Kept F (mateGrant s p seq) := by
  unfold mateGrant
  split
  · extract_lets +onlyGivenNames -underBinder -merge -useContext k2 k3
    clear_value k2 k3
    extract_lets +onlyGivenNames -underBinder -merge -useContext s4
    have h5 : Kept F s4 := by
      unfold s4
      exact (reqDone_kept h1)
    clear_value s4
    extract_lets +onlyGivenNames -underBinder -merge -useContext s6
    have h7 : Kept F s6 := by
      unfold s6
      exact (State.setFld_kept h5)
    clear_value s6
    extract_lets +onlyGivenNames -underBinder -merge -useContext s8
    have h9 : Kept F s8 := by
      unfold s8
      exact (State.wr_kept h7)
    clear_value s8
    extract_lets +onlyGivenNames -underBinder -merge -useContext k10
    clear_value k10
    refine Kept.ite ?_ ?_
    · exact h9
    · extract_lets +onlyGivenNames -underBinder -merge -useContext k11
      clear_value k11
      extract_lets +onlyGivenNames -underBinder -merge -useContext s12
      have h13 : Kept F s12 := by
        unfold s12
        exact (Kept.ite (State.wr_kept (State.wr_kept (State.updMate_kept h9))) h9)
      clear_value s12
      exact (State.updMate_kept h13)
  · exact h1

theorem mateDeny_kept {s : State} {p : List Byte} {seq : Nat} (h1 : Kept F s) : Kept F (mateDeny s p seq) := by
  unfold mateDeny
  split
  · extract_lets +onlyGivenNames -underBinder -merge -useContext s2
    have h3 : Kept F s2 := by
      unfold s2
      exact (State.evt_kept (reqDone_kept h1))
    clear_value s2
    extract_lets +onlyGivenNames -underBinder -merge -useContext s4
    have h5 : Kept F s4 := by
      unfold s4
      exact (State.wr_kept h3)
    clear_value s4
    extract_lets +onlyGivenNames -underBinder -merge -useContext s6
    have h7 : Kept F s6 := by
      unfold s6
      exact (State.setFld_kept (State.setFld_kept h5))
    clear_value s6
    exact (Kept.ite (State.updMate_kept h7) h7)
  · exact h1

theorem mateRelAck_kept {s : State} {p : List Byte} {y2 : Nat} (h1 : Kept F s) : Kept F (mateRelAck s p y2) := by
  unfold mateRelAck
  exact (Kept.ite (State.updMate_kept h1) h1)

theorem mateChunk_kept {s : State} {p : List Byte} {y2 : Nat} (h1 : Kept F s) : Kept F (mateChunk s p y2) := by
  unfold mateChunk
  extract_lets +onlyGivenNames -underBinder -merge -useContext k3 k4
  clear_value k3 k4
  refine Kept.ite ?_ ?_
  · exact h1
  · extract_lets +onlyGivenNames -underBinder -merge -useContext s5
    have h6 : Kept F s5 := by
      unfold s5
      exact (Kept.ite h1 (State.updMate_kept h1))
    clear_value s5
    exact (State.updMate_kept h6)

theorem replyTimeout_kept {s : State} (h1 : Kept F s) : Kept F (replyTimeout s) := by
  unfold replyTimeout
  exact (State.updMate_kept h1)

theorem leaseExpiry_kept {s : State} (h1 : Kept F s) : Kept F (leaseExpiry s) := by
  unfold leaseExpiry
  split
  · exact (Kept.ite (toHolding_kept h1) h1)
  · exact h1

theorem holdExpiry_kept {s : State} (h1 : Kept F s) : Kept F (holdExpiry s) := by
  unfold holdExpiry
  split
  · exact (Kept.ite (toDiverged_kept h1) h1)
  · exact h1

theorem mateRelease_kept {s : State} (h1 : Kept F s) : Kept F (mateRelease s) := by
  unfold mateRelease
  exact (Kept.ite (State.evt_kept h1) (Kept.ite (State.putRes_kept h1) (Kept.ite (State.putRes_kept h1) (State.putRes_kept (State.updMate_kept h1)))))

theorem State.updNlane_kept {s : State} {l : Nat} {f : NLane → NLane} (h1 : Kept F s) : Kept F (State.updNlane s l f) := by
  unfold State.updNlane
  exact (State.updMate_kept h1)

theorem mateDelay_kept {s : State} (h1 : Kept F s) : Kept F (mateDelay s) := by
  unfold mateDelay
  extract_lets +onlyGivenNames -underBinder -merge -useContext k2
  clear_value k2
  refine Kept.ite ?_ ?_
  · exact (State.setFlag_kept h1)
  · extract_lets +onlyGivenNames -underBinder -merge -useContext k3
    clear_value k3
    exact (State.setFlag_kept (State.setFld_kept h1))

theorem markerFields_kept {s : State} {l : Nat} {b : List Byte} (h1 : Kept F s) : Kept F (markerFields s l b) := by
  unfold markerFields
  extract_lets +onlyGivenNames -underBinder -merge -useContext k2 k3 k4 k5
  clear_value k2 k3 k4 k5
  extract_lets +onlyGivenNames -underBinder -merge -useContext s6
  have h7 : Kept F s6 := by
    unfold s6
    exact (State.updNlane_kept h1)
  clear_value s6
  extract_lets +onlyGivenNames -underBinder -merge -useContext s8
  have h9 : Kept F s8 := by
    unfold s8
    exact (mateDelay_kept h7)
  clear_value s8
  extract_lets +onlyGivenNames -underBinder -merge -useContext s10
  have h11 : Kept F s10 := by
    unfold s10
    exact (State.wr_kept h9)
  clear_value s10
  extract_lets +onlyGivenNames -underBinder -merge -useContext s12
  have h13 : Kept F s12 := by
    unfold s12
    exact (State.wr_kept h11)
  clear_value s12
  extract_lets +onlyGivenNames -underBinder -merge -useContext s14
  have h15 : Kept F s14 := by
    unfold s14
    exact (State.updMate_kept h13)
  clear_value s14
  exact (Kept.ite (State.updMate_kept h15) h15)

theorem nirrinMarker_kept {s : State} {l : Nat} {r : MarkerRx} (h1 : Kept F s) : Kept F (nirrinMarker s l r) := by
  unfold nirrinMarker
  refine Kept.ite ?_ ?_
  · exact h1
  · extract_lets +onlyGivenNames -underBinder -merge -useContext k2
    clear_value k2
    extract_lets +onlyGivenNames -underBinder -merge -useContext s3
    have h4 : Kept F s3 := by
      unfold s3
      exact (State.setFld_kept (State.setFlag_kept h1))
    clear_value s3
    extract_lets +onlyGivenNames -underBinder -merge -useContext k5 k6
    clear_value k5 k6
    extract_lets +onlyGivenNames -underBinder -merge -useContext f7
    have h8 : ∀ (a9 : State) (h10 : Kept F a9), Kept F (f7 a9) := by
      intro a9 h10
      unfold f7
      exact (Kept.ite h10 (markerFields_kept h10))
    clear_value f7
    refine Kept.ite ?_ ?_
    · exact (Kept.ite h4 (Kept.ite (h8 _ (State.updNlane_kept h4)) (Kept.ite (mateDelay_kept (State.updNlane_kept (State.setFlag_kept h4))) (State.updNlane_kept h4))))
    · extract_lets +onlyGivenNames -underBinder -merge -useContext k11
      clear_value k11
      extract_lets +onlyGivenNames -underBinder -merge -useContext s12
      have h13 : Kept F s12 := by
        unfold s12
        exact (State.updNlane_kept h4)
      clear_value s12
      extract_lets +onlyGivenNames -underBinder -merge -useContext s14
      have h15 : Kept F s14 := by
        unfold s14
        exact (State.setFld_kept h13)
      clear_value s14
      exact (Kept.ite (h8 _ (State.setFlag_kept h15)) h15)

theorem nirrinBlock_kept {s : State} {l : Nat} {b : List Byte} {uncor : Bool} (h1 : Kept F s) : Kept F (nirrinBlock s l b uncor) := by
  unfold nirrinBlock
  extract_lets +onlyGivenNames -underBinder -merge -useContext k2 k3
  clear_value k2 k3
  exact (Kept.ite h1 (State.updMate_kept h1))

theorem sendPieces_kept {s : State} {lanes : List Nat} {b : List Byte} (h1 : Kept F s) : Kept F (sendPieces s lanes b) := by
  unfold sendPieces
  exact (Kept.foldl (fun _ _ h2 => (State.send_kept h2)) h1)

theorem sendIdle_kept {s : State} {lanes : List Nat} {from_ : Nat → Nat} {last : Nat} (h1 : Kept F s) : Kept F (sendIdle s lanes from_ last) := by
  unfold sendIdle
  exact (Kept.foldl (fun _ _ h2 => (State.send_kept h2)) h1)

theorem mirrorSnapshot_kept {s : State} (h1 : Kept F s) : Kept F (mirrorSnapshot s) := by
  unfold mirrorSnapshot
  refine Kept.ite ?_ ?_
  · exact h1
  · extract_lets +onlyGivenNames -underBinder -merge -useContext s2
    have h3 : Kept F s2 := by
      unfold s2
      exact (State.toOfs_kept h1)
    clear_value s2
    split
    · refine Kept.ite ?_ ?_
      · exact h3
      · refine Kept.ite ?_ ?_
        · extract_lets +onlyGivenNames -underBinder -merge -useContext s4
          have h5 : Kept F s4 := by
            unfold s4
            exact (sendIdle_kept (sendPieces_kept h3))
          clear_value s4
          refine Kept.ite ?_ ?_
          · extract_lets +onlyGivenNames -underBinder -merge -useContext k6 k7
            clear_value k6 k7
            exact (State.updMate_kept h5)
          · exact h5
        · exact (sendIdle_kept h3)
    · exact h3

theorem mirrorStep_kept {s : State} {b : List Byte} (h1 : Kept F s) : Kept F (mirrorStep s b) := by
  unfold mirrorStep
  extract_lets +onlyGivenNames -underBinder -merge -useContext k2 k3 k4 k5
  clear_value k2 k3 k4 k5
  extract_lets +onlyGivenNames -underBinder -merge -useContext s6
  have h7 : Kept F s6 := by
    unfold s6
    exact (State.wr_kept (State.wr_kept h1))
  clear_value s6
  extract_lets +onlyGivenNames -underBinder -merge -useContext s8
  have h9 : Kept F s8 := by
    unfold s8
    exact (State.wr_kept (State.wr_kept (State.wr_kept h7)))
  clear_value s8
  extract_lets +onlyGivenNames -underBinder -merge -useContext s10
  have h11 : Kept F s10 := by
    unfold s10
    exact (State.setFld_kept h9)
  clear_value s10
  exact (Kept.of h11 rfl rfl rfl rfl rfl rfl)

theorem mirrorGroup_kept {s : State} {b : List Byte} {d : ProtDef} (h1 : Kept F s) : Kept F (mirrorGroup s b d) := by
  unfold mirrorGroup
  extract_lets +onlyGivenNames -underBinder -merge -useContext k2 k3 k4
  clear_value k2 k3 k4
  extract_lets +onlyGivenNames -underBinder -merge -useContext s5
  have h6 : Kept F s5 := by
    unfold s5
    exact (State.updGrp_kept h1)
  clear_value s5
  extract_lets +onlyGivenNames -underBinder -merge -useContext k7 k8
  clear_value k7 k8
  extract_lets +onlyGivenNames -underBinder -merge -useContext s9
  have h10 : Kept F s9 := by
    unfold s9
    exact (Kept.ite h6 (putTx_kept h6))
  clear_value s9
  exact (State.updGrp_kept h10)

theorem mirrorUse_kept {s : State} {m : Image} {b : List Byte} {cmp : Bool} (h1 : Kept F s) : Kept F (mirrorUse s m b cmp) := by
  unfold mirrorUse
  extract_lets +onlyGivenNames -underBinder -merge -useContext s2
  have h3 : Kept F s2 := by
    unfold s2
    exact (Kept.ite (shadowMiss_kept h1) h1)
  clear_value s2
  extract_lets +onlyGivenNames -underBinder -merge -useContext k4 k5 k6 k7
  clear_value k4 k5 k6 k7
  extract_lets +onlyGivenNames -underBinder -merge -useContext s8
  have h9 : Kept F s8 := by
    unfold s8
    exact (Kept.of h3 rfl rfl rfl rfl rfl rfl)
  clear_value s8
  extract_lets +onlyGivenNames -underBinder -merge -useContext s10
  have h11 : Kept F s10 := by
    unfold s10
    exact (Kept.foldl (fun _ _ h12 => (mirrorGroup_kept h12)) h9)
  clear_value s10
  extract_lets +onlyGivenNames -underBinder -merge -useContext s13
  have h14 : Kept F s13 := by
    unfold s13
    refine switchSettle_kept ?_
    exact (Kept.foldl (fun _ _ h15 => (selRecount_kept h15)) h11)
  clear_value s13
  extract_lets +onlyGivenNames -underBinder -merge -useContext s16
  have h17 : Kept F s16 := by
    unfold s16
    refine lateStat_kept (fun _ h19 => (allStat_kept h19)) ?_
    refine Kept.foldl (fun _ _ h20 => ?_) ?_
    · exact (grpRegs_kept h20)
    · exact (Kept.of h14 rfl rfl rfl rfl rfl rfl)
  clear_value s16
  extract_lets +onlyGivenNames -underBinder -merge -useContext k21
  clear_value k21
  extract_lets +onlyGivenNames -underBinder -merge -useContext s22
  have h23 : Kept F s22 := by
    unfold s22
    exact (Kept.ite h17 (qlReform_kept (squelch_kept (State.setFld_kept (State.evt_kept h17)))))
  clear_value s22
  extract_lets +onlyGivenNames -underBinder -merge -useContext s24
  have h25 : Kept F s24 := by
    unfold s24
    exact (mirrorStep_kept h23)
  clear_value s24
  exact (State.updMate_kept h25)

theorem mirrorImage_kept {s : State} {b : List Byte} (h1 : Kept F s) : Kept F (mirrorImage s b) := by
  unfold mirrorImage
  extract_lets +onlyGivenNames -underBinder -merge -useContext k2 k3
  clear_value k2 k3
  extract_lets +onlyGivenNames -underBinder -merge -useContext s4
  have h5 : Kept F s4 := by
    unfold s4
    exact (Kept.ite (State.evt_kept h1) h1)
  clear_value s4
  exact (State.updMate_kept h5)

theorem mirrorApply_kept {s : State} (h1 : Kept F s) : Kept F (mirrorApply s) := by
  unfold mirrorApply
  refine Kept.ite ?_ ?_
  · exact h1
  · split
    · extract_lets +onlyGivenNames -underBinder -merge -useContext k2
      clear_value k2
      extract_lets +onlyGivenNames -underBinder -merge -useContext s3
      have h4 : Kept F s3 := by
        unfold s3
        exact (State.updMate_kept h1)
      clear_value s3
      refine Kept.ite ?_ ?_
      · exact (mirrorMiss_kept h4)
      · extract_lets +onlyGivenNames -underBinder -merge -useContext k5
        clear_value k5
        extract_lets +onlyGivenNames -underBinder -merge -useContext s6
        have h7 : Kept F s6 := by
          unfold s6
          exact (mirrorImage_kept h4)
        clear_value s6
        extract_lets +onlyGivenNames -underBinder -merge -useContext s8
        have h9 : Kept F s8 := by
          unfold s8
          exact (Kept.ite (State.wr_kept h7) h7)
        clear_value s8
        exact (Kept.ite (Kept.ite (mirrorUse_kept h9) (mirrorUse_kept (toStandby_kept h9))) (Kept.ite (setRole_kept (mirrorMiss_kept h9)) (Kept.ite (State.setFld_kept h9) h9)))
    · exact (Kept.ite (State.updMate_kept (mirrorMiss_kept h1)) h1)

theorem fallbackUse_kept {s : State} {m : Image} {b : List Byte} {f : Nat} (h1 : Kept F s) : Kept F (fallbackUse s m b f) := by
  unfold fallbackUse
  extract_lets +onlyGivenNames -underBinder -merge -useContext s2
  have h3 : Kept F s2 := by
    unfold s2
    exact (State.wr_kept h1)
  clear_value s2
  extract_lets +onlyGivenNames -underBinder -merge -useContext k4
  clear_value k4
  extract_lets +onlyGivenNames -underBinder -merge -useContext s5
  have h6 : Kept F s5 := by
    unfold s5
    exact (shadowMiss_kept h3)
  clear_value s5
  extract_lets +onlyGivenNames -underBinder -merge -useContext s7
  have h8 : Kept F s7 := by
    unfold s7
    refine Kept.foldl (fun _ _ h9 => ?_) h6
    extract_lets +onlyGivenNames -underBinder -merge -useContext k10
    clear_value k10
    exact (State.updGrp_kept h9)
  clear_value s7
  extract_lets +onlyGivenNames -underBinder -merge -useContext s11
  have h12 : Kept F s11 := by
    unfold s11
    exact (mirrorStep_kept h8)
  clear_value s11
  exact (State.updMate_kept h12)

theorem fallbackApply_kept {s : State} (h1 : Kept F s) : Kept F (fallbackApply s) := by
  unfold fallbackApply
  refine Kept.ite ?_ ?_
  · exact h1
  · extract_lets +onlyGivenNames -underBinder -merge -useContext k2 k3 k4 k5
    clear_value k2 k3 k4 k5
    extract_lets +onlyGivenNames -underBinder -merge -useContext s6
    have h7 : Kept F s6 := by
      unfold s6
      exact (State.updMate_kept h1)
    clear_value s6
    extract_lets +onlyGivenNames -underBinder -merge -useContext f8
    have h9 : ∀ (a10 : State) (h11 : Kept F a10), Kept F (f8 a10) := by
      intro a10 h11
      unfold f8
      exact (Kept.ite (mateCount_kept h11) h11)
    clear_value f8
    split
    · refine Kept.ite ?_ ?_
      · exact (h9 _ h7)
      · refine Kept.ite ?_ ?_
        · exact (mirrorMiss_kept h7)
        · extract_lets +onlyGivenNames -underBinder -merge -useContext k12
          clear_value k12
          extract_lets +onlyGivenNames -underBinder -merge -useContext s13
          have h14 : Kept F s13 := by
            unfold s13
            exact (mirrorImage_kept h7)
          clear_value s13
          exact (Kept.ite (Kept.ite h14 (setRole_kept h14)) (Kept.ite (Kept.ite (fallbackUse_kept h14) (mateCount_kept (State.setFld_kept h14))) h14))
    · exact (h9 _ h7)

theorem mirrorLoss_kept {s : State} (h1 : Kept F s) : Kept F (mirrorLoss s) := by
  unfold mirrorLoss
  exact (Kept.ite (setRole_kept h1) h1)

theorem linkDown_kept {s : State} (h1 : Kept F s) : Kept F (linkDown s) := by
  unfold linkDown
  exact (Kept.ite (State.updMate_kept (State.evt_kept (State.setFlag_kept h1))) h1)

theorem linkUp_kept {s : State} (h1 : Kept F s) : Kept F (linkUp s) := by
  unfold linkUp
  exact (Kept.ite (State.updMate_kept (State.evt_kept (State.setFlag_kept h1))) h1)

theorem mateRoles_kept {s : State} (h1 : Kept F s) : Kept F (mateRoles s) := by
  unfold mateRoles
  extract_lets +onlyGivenNames -underBinder -merge -useContext k2
  clear_value k2
  extract_lets +onlyGivenNames -underBinder -merge -useContext s3
  have h4 : Kept F s3 := by
    unfold s3
    exact (State.updMate_kept h1)
  clear_value s3
  refine Kept.ite ?_ ?_
  · extract_lets +onlyGivenNames -underBinder -merge -useContext s5
    have h6 : Kept F s5 := by
      unfold s5
      exact (arbSend_kept h4)
    clear_value s5
    exact (State.updMate_kept (toDiverged_kept h6))
  · exact (Kept.ite (State.wr_kept (State.wr_kept (State.updMate_kept (toHolding_kept h4)))) (Kept.ite (setRole_kept h4) h4))

theorem mateAlign_kept {s : State} (h1 : Kept F s) : Kept F (mateAlign s) := by
  unfold mateAlign
  refine Kept.ite ?_ ?_
  · exact h1
  · split
    · extract_lets +onlyGivenNames -underBinder -merge -useContext k2 k3 k4 k5 k6
      clear_value k2 k3 k4 k5 k6
      extract_lets +onlyGivenNames -underBinder -merge -useContext s7
      have h8 : Kept F s7 := by
        unfold s7
        exact (Kept.of h1 rfl rfl rfl rfl rfl rfl)
      clear_value s7
      refine Kept.ite ?_ ?_
      · extract_lets +onlyGivenNames -underBinder -merge -useContext k9
        clear_value k9
        exact (State.updMate_kept h8)
      · exact (State.updMate_kept h8)
    · exact h1

theorem sendMarkers_kept {s : State} (h1 : Kept F s) : Kept F (sendMarkers s) := by
  unfold sendMarkers
  refine Kept.ite ?_ ?_
  · refine sendIdle_kept ?_
    exact (Kept.foldl (fun _ _ h2 => (State.send_kept h2)) h1)
  · exact h1

theorem remark_kept {s : State} (h1 : Kept F s) : Kept F (remark s) := by
  unfold remark
  exact (Kept.ite (Kept.of h1 rfl rfl rfl rfl rfl rfl) h1)

theorem mateFrame_kept {s : State} {unc : Bool} (h1 : Kept F s) : Kept F (mateFrame s unc) := by
  unfold mateFrame
  extract_lets +onlyGivenNames -underBinder -merge -useContext s2
  have h3 : Kept F s2 := by
    unfold s2
    exact (Kept.ite (State.updMate_kept h1) h1)
  clear_value s2
  extract_lets +onlyGivenNames -underBinder -merge -useContext s4
  have h5 : Kept F s4 := by
    unfold s4
    exact (mateRoles_kept (arbDrain_kept h3))
  clear_value s4
  extract_lets +onlyGivenNames -underBinder -merge -useContext k6 k7
  clear_value k6 k7
  extract_lets +onlyGivenNames -underBinder -merge -useContext s8
  have h9 : Kept F s8 := by
    unfold s8
    exact (State.updMate_kept h5)
  clear_value s8
  extract_lets +onlyGivenNames -underBinder -merge -useContext s10
  have h11 : Kept F s10 := by
    unfold s10
    exact (mateAlign_kept h9)
  clear_value s10
  extract_lets +onlyGivenNames -underBinder -merge -useContext s12
  have h13 : Kept F s12 := by
    unfold s12
    exact (State.setFlag_kept h11)
  clear_value s12
  extract_lets +onlyGivenNames -underBinder -merge -useContext s14
  have h15 : Kept F s14 := by
    unfold s14
    exact (State.setFlag_kept h13)
  clear_value s14
  extract_lets +onlyGivenNames -underBinder -merge -useContext s16
  have h17 : Kept F s16 := by
    unfold s16
    exact (State.setFld_kept h15)
  clear_value s16
  extract_lets +onlyGivenNames -underBinder -merge -useContext s18
  have h19 : Kept F s18 := by
    unfold s18
    exact (Kept.ite (roleSync_kept h17) (State.setFlag_kept h3))
  clear_value s18
  exact (sendMarkers_kept (State.wr_kept h19))

theorem loopEnd_kept {s : State} {g : Nat} (h1 : Kept F s) : Kept F (loopEnd s g) := by
  unfold loopEnd
  exact (State.updMate_kept (State.setFlag_kept h1))

theorem loopbackTest_kept {s : State} {g : Nat} {start : Bool} {errored : Bool} (h1 : Kept F s) : Kept F (loopbackTest s g start errored) := by
  unfold loopbackTest
  extract_lets +onlyGivenNames -underBinder -merge -useContext k2
  clear_value k2
  refine Kept.ite ?_ ?_
  · exact (Kept.ite (State.updMate_kept (State.setFlag_kept h1)) h1)
  · refine Kept.ite ?_ ?_
    · exact h1
    · refine Kept.ite ?_ ?_
      · exact (loopEnd_kept h1)
      · refine Kept.ite ?_ ?_
        · exact h1
        · extract_lets +onlyGivenNames -underBinder -merge -useContext s3
          have h4 : Kept F s3 := by
            unfold s3
            exact (State.updMate_kept (loopEnd_kept h1))
          clear_value s3
          exact (Kept.ite (State.evt_kept h4) h4)

theorem peerTimeout_kept {s : State} (h1 : Kept F s) : Kept F (peerTimeout s) := by
  unfold peerTimeout
  split
  · refine Kept.ite ?_ ?_
    · extract_lets +onlyGivenNames -underBinder -merge -useContext s2
      have h3 : Kept F s2 := by
        unfold s2
        exact (State.updMate_kept h1)
      clear_value s2
      exact (Kept.ite (State.setFlag_kept h3) h3)
    · exact h1
  · exact h1

theorem execNirrinMarker_kept {lane : Nat} {rx : MarkerRx} {s : State} {t : State} (h : Kept F s) (ht : execNirrinMarker lane rx s = .next t) :
    Kept F t :=
  checked_kept h (nirrinMarker_kept h) ht

theorem execNirrinBlock_kept {lane : Nat} {bytes : List Byte} {uncor : Bool} {s : State} {t : State} (h : Kept F s) (ht : execNirrinBlock lane bytes uncor s = .next t) :
    Kept F t :=
  checked_kept h (nirrinBlock_kept h) ht

theorem execMirrorSnapshot_kept {s : State} {t : State} (h : Kept F s) (ht : execMirrorSnapshot s = .next t) : Kept F t :=
  checked_kept h (mirrorSnapshot_kept h) ht

theorem execFallbackApply_kept {s : State} {t : State} (h : Kept F s) (ht : execFallbackApply s = .next t) : Kept F t :=
  checked_kept h (fallbackApply_kept h) ht

theorem execMirrorLoss_kept {s : State} {t : State} (h : Kept F s) (ht : execMirrorLoss s = .next t) : Kept F t :=
  checked_kept h (mirrorLoss_kept h) ht

theorem execLinkDown_kept {s : State} {t : State} (h : Kept F s) (ht : execLinkDown s = .next t) : Kept F t :=
  checked_kept h (linkDown_kept h) ht

theorem execLinkUp_kept {s : State} {t : State} (h : Kept F s) (ht : execLinkUp s = .next t) : Kept F t :=
  checked_kept h (linkUp_kept h) ht

theorem execRequest_kept {s : State} {t : State} (h : Kept F s) (ht : execRequest s = .next t) : Kept F t :=
  checked_kept h (mateRequest_kept h) ht

theorem execGrant_kept {bytes : List Byte} {s : State} {t : State} (h : Kept F s) (ht : execGrant bytes s = .next t) : Kept F t :=
  checked_kept h (grinusRx_kept h (fun _ h1 _ _ => (mateGrant_kept h1))) ht

theorem execDeny_kept {bytes : List Byte} {s : State} {t : State} (h : Kept F s) (ht : execDeny bytes s = .next t) : Kept F t :=
  checked_kept h (grinusRx_kept h (fun _ h1 _ _ => (mateDeny_kept h1))) ht

theorem execReleaseAck_kept {bytes : List Byte} {s : State} {t : State} (h : Kept F s) (ht : execReleaseAck bytes s = .next t) : Kept F t :=
  checked_kept h (grinusRx_kept h (fun _ h1 _ _ => (mateRelAck_kept h1))) ht

theorem execFallback_kept {bytes : List Byte} {s : State} {t : State} (h : Kept F s) (ht : execFallback bytes s = .next t) : Kept F t :=
  checked_kept h (grinusRx_kept h (fun _ h1 _ _ => (mateChunk_kept h1))) ht

theorem execGrinusFrameError_kept {s : State} {t : State} (h : Kept F s) (ht : execGrinusFrameError s = .next t) : Kept F t :=
  checked_kept h (Kept.ite (grinusBad_kept h) h) ht

theorem execReplyTimeout_kept {s : State} {t : State} (h : Kept F s) (ht : execReplyTimeout s = .next t) : Kept F t :=
  checked_kept h (replyTimeout_kept h) ht

theorem execLeaseExpiry_kept {s : State} {t : State} (h : Kept F s) (ht : execLeaseExpiry s = .next t) : Kept F t :=
  checked_kept h (leaseExpiry_kept h) ht

theorem execHoldExpiry_kept {s : State} {t : State} (h : Kept F s) (ht : execHoldExpiry s = .next t) : Kept F t :=
  checked_kept h (holdExpiry_kept h) ht

theorem execRelease_kept {s : State} {t : State} (h : Kept F s) (ht : execRelease s = .next t) : Kept F t :=
  checked_kept h (State.host_kept h (fun _ h1 => (mateRelease_kept h1))) ht

theorem execMateCmdAck_kept {seq : Nat} {s : State} {t : State} (h : Kept F s) (ht : execMateCmdAck seq s = .next t) : Kept F t :=
  checked_kept h (State.host_kept h (fun _ h1 => (State.ackRes_kept h1))) ht

theorem execLoopbackTest_kept {g : Nat} {start : Bool} {errored : Bool} {s : State} {t : State} (h : Kept F s) (ht : execLoopbackTest g start errored s = .next t) :
    Kept F t :=
  checked_kept h (loopbackTest_kept h) ht

theorem execArbSync_kept {gained : Bool} {s : State} {t : State} (h : Kept F s) (ht : execArbSync gained s = .next t) : Kept F t :=
  checked_kept h (Kept.ite (State.setFlag_kept h) h) ht

theorem execPeerHealthTimeout_kept {s : State} {t : State} (h : Kept F s) (ht : execPeerHealthTimeout s = .next t) : Kept F t :=
  checked_kept h (peerTimeout_kept h) ht

end Sys2Proof.Machine
end

