-- ==== Sys2Proof/Laws/KeepEngine.lean ====
section
/-! SUPPORT. What Machine/Engine.lean keeps: each operation, and each command, leads from a safe state to a safe state, and no fuse goes back (Safety.lean). -/

namespace Sys2Proof.Machine

variable {F : Fuses}

theorem State.updEng_kept {s : State} {e : Nat} {f : Eng → Eng} (h1 : Kept F s) : Kept F (State.updEng s e f) := by
  unfold State.updEng
  exact (Kept.of h1 rfl rfl rfl rfl rfl rfl)

theorem engCount_kept {s : State} {p : Nat} {i : Nat} {n : Nat} (h1 : Kept F s) : Kept F (engCount s p i n) := by
  unfold engCount
  exact (Kept.ite h1 (State.count_kept (State.incPair_kept h1)))

theorem engSlot_kept {s : State} {p : Nat} {i : Nat} (h1 : Kept F s) : Kept F (engSlot s p i) := by
  unfold engSlot
  exact (State.updEng_kept (engCount_kept h1))

theorem engFill_kept {s : State} {p : Nat} {n : Nat} (h1 : Kept F s) : Kept F (engFill s p n) := by
  unfold engFill
  exact (State.updEng_kept (engCount_kept h1))

theorem setV_kept {s : State} {p : Nat} {i : Nat} {c : Nat} {y2 : EVal} (h1 : Kept F s) : Kept F (setV s p i c y2) := by
  unfold setV
  exact (State.updEng_kept h1)

theorem setP_kept {s : State} {p : Nat} {i : Nat} {c : Nat} {y2 : EVal} (h1 : Kept F s) : Kept F (setP s p i c y2) := by
  unfold setP
  exact (Kept.ite h1 (State.updEng_kept h1))

theorem actionDrop_kept {s : State} {p : Nat} {e : Nat} {lock : Bool} {slot : Nat} {op : Nat} {reason : Nat} {u : Use} (h1 : Kept F s) :
    Kept F (actionDrop s p e lock slot op reason u) := by
  unfold actionDrop
  extract_lets +onlyGivenNames -underBinder -merge -useContext k2 k3
  clear_value k2 k3
  extract_lets +onlyGivenNames -underBinder -merge -useContext s4
  have h5 : Kept F s4 := by
    unfold s4
    exact (engSlot_kept h1)
  clear_value s4
  extract_lets +onlyGivenNames -underBinder -merge -useContext s6
  have h7 : Kept F s6 := by
    unfold s6
    exact (Kept.ite h5 (State.wr_kept (State.wr_kept h5)))
  clear_value s6
  extract_lets +onlyGivenNames -underBinder -merge -useContext s8
  have h9 : Kept F s8 := by
    unfold s8
    exact (engCount_kept (State.evt_kept h7))
  clear_value s8
  extract_lets +onlyGivenNames -underBinder -merge -useContext s10
  have h11 : Kept F s10 := by
    unfold s10
    exact (Kept.ite (engCount_kept (State.evt_kept h9)) h9)
  clear_value s10
  extract_lets +onlyGivenNames -underBinder -merge -useContext s12
  have h13 : Kept F s12 := by
    unfold s12
    exact (Kept.ite (engCount_kept (State.evt_kept h11)) h11)
  clear_value s12
  extract_lets +onlyGivenNames -underBinder -merge -useContext s14
  have h15 : Kept F s14 := by
    unfold s14
    split
    · exact (setV_kept h13)
    · exact h13
  clear_value s14
  extract_lets +onlyGivenNames -underBinder -merge -useContext s16
  have h17 : Kept F s16 := by
    unfold s16
    split
    · exact (setP_kept h15)
    · exact h15
  clear_value s16
  refine Kept.ite ?_ ?_
  · extract_lets +onlyGivenNames -underBinder -merge -useContext s18
    have h19 : Kept F s18 := by
      unfold s18
      exact (protLate_kept h17)
    clear_value s18
    split
    · exact (Kept.ite (protUndo_kept h19) (State.updGrp_kept h19))
    · exact h19
  · exact h17

theorem usePorts_kept {s : State} {p : Nat} {e : Nat} {c : Nat} {u : Use} (h1 : Kept F s) : Kept F (usePorts s p e c u) := by
  unfold usePorts
  extract_lets +onlyGivenNames -underBinder -merge -useContext k2
  clear_value k2
  extract_lets +onlyGivenNames -underBinder -merge -useContext s3
  have h4 : Kept F s3 := by
    unfold s3
    exact (State.updEng_kept h1)
  clear_value s3
  extract_lets +onlyGivenNames -underBinder -merge -useContext s5
  have h6 : Kept F s5 := by
    unfold s5
    split
    · exact (State.count_kept (State.updEng_kept h4))
    · exact h4
  clear_value s5
  split
  · exact (State.count_kept (State.updEng_kept h6))
  · exact h6

theorem portCycle_kept {s : State} {p : Nat} {c : Nat} (h1 : Kept F s) : Kept F (portCycle s p c) := by
  unfold portCycle
  exact (Kept.ite h1 (State.updEng_kept h1))

theorem noSpare_kept {s : State} {q : Nat} (h1 : Kept F s) : Kept F (noSpare s q) := by
  unfold noSpare
  exact (State.evt_kept (State.putBit_kept h1))

theorem engDiscard_kept {s : State} {e : Nat} (h1 : Kept F s) : Kept F (engDiscard s e) := by
  unfold engDiscard
  extract_lets +onlyGivenNames -underBinder -merge -useContext k2
  clear_value k2
  extract_lets +onlyGivenNames -underBinder -merge -useContext s3
  have h4 : Kept F s3 := by
    unfold s3
    exact (Kept.of h1 rfl rfl rfl rfl rfl rfl)
  clear_value s3
  extract_lets +onlyGivenNames -underBinder -merge -useContext s5
  have h6 : Kept F s5 := by
    unfold s5
    exact (State.updEng_kept h4)
  clear_value s5
  extract_lets +onlyGivenNames -underBinder -merge -useContext k7
  clear_value k7
  extract_lets +onlyGivenNames -underBinder -merge -useContext s8
  have h9 : Kept F s8 := by
    unfold s8
    refine Kept.foldl (fun _ _ h10 => ?_) h6
    extract_lets +onlyGivenNames -underBinder -merge -useContext k11
    clear_value k11
    exact (State.updGrp_kept h10)
  clear_value s8
  exact (Kept.of h9 rfl rfl rfl rfl rfl rfl)

theorem setEngSt_kept {s : State} {p : Nat} {st : Nat} {cause : Nat} (h1 : Kept F s) : Kept F (setEngSt s p st cause) := by
  unfold setEngSt
  exact (State.setFld_kept (State.setFld_kept h1))

theorem engFail_kept {s : State} {p : Nat} {cause : Nat} {n : Nat} (h1 : Kept F s) : Kept F (engFail s p cause n) := by
  unfold engFail
  refine Kept.ite ?_ ?_
  · exact h1
  · extract_lets +onlyGivenNames -underBinder -merge -useContext k2 k3
    clear_value k2 k3
    extract_lets +onlyGivenNames -underBinder -merge -useContext s4
    have h5 : Kept F s4 := by
      unfold s4
      exact (Kept.ite (engFill_kept h1) h1)
    clear_value s4
    extract_lets +onlyGivenNames -underBinder -merge -useContext s6
    have h7 : Kept F s6 := by
      unfold s6
      exact (State.evt_kept (setEngSt_kept h5))
    clear_value s6
    extract_lets +onlyGivenNames -underBinder -merge -useContext s8
    have h9 : Kept F s8 := by
      unfold s8
      exact (State.updEng_kept h7)
    clear_value s8
    refine Kept.ite ?_ ?_
    · extract_lets +onlyGivenNames -underBinder -merge -useContext k10
      clear_value k10
      extract_lets +onlyGivenNames -underBinder -merge -useContext s11
      have h12 : Kept F s11 := by
        unfold s11
        exact (State.wr_kept (engDiscard_kept h9))
      clear_value s11
      exact (Kept.ite (State.updEng_kept h12) (noSpare_kept h12))
    · split
      · exact (noSpare_kept (engDiscard_kept (State.putBit_kept (State.setFlag_kept h9))))
      · exact h9

theorem eccCor_kept {s : State} {p : Nat} (h1 : Kept F s) : Kept F (eccCor s p) := by
  unfold eccCor
  exact (engCount_kept (State.evt_kept h1))

theorem engAct_kept {s : State} {a : Act} {op : Nat} {u : Use} {fx : State → Nat → Nat → Bool → Nat → State} (h1 : Kept F s) (h2 : ∀ a3, Kept F a3 → ∀ a4, ∀ a5, ∀ a6, ∀ a7, Kept F (fx a3 a4 a5 a6 a7)) :
    Kept F (engAct s a op u fx) := by
  unfold engAct
  split
  · exact h1
  · extract_lets +onlyGivenNames -underBinder -merge -useContext k8 k9
    clear_value k8 k9
    extract_lets +onlyGivenNames -underBinder -merge -useContext s10
    have h11 : Kept F s10 := by
      unfold s10
      exact (portCycle_kept (State.toOfs_kept h1))
    clear_value s10
    extract_lets +onlyGivenNames -underBinder -merge -useContext k12 k13
    clear_value k12 k13
    refine Kept.ite ?_ ?_
    · exact (actionDrop_kept h11)
    · refine Kept.ite ?_ ?_
      · exact (engFail_kept h11)
      · extract_lets +onlyGivenNames -underBinder -merge -useContext s14
        have h15 : Kept F s14 := by
          unfold s14
          exact (Kept.ite (eccCor_kept h11) h11)
        clear_value s14
        extract_lets +onlyGivenNames -underBinder -merge -useContext k16
        clear_value k16
        refine Kept.ite ?_ ?_
        · exact (actionDrop_kept h15)
        · refine Kept.ite ?_ ?_
          · exact (engSlot_kept h15)
          · split
            · exact (actionDrop_kept h15)
            · exact (h2 _ (usePorts_kept (engSlot_kept h15)) _ _ _ _)

theorem alu_kept {s : State} {a : Act} {op : Nat} {y2 : Nat} {src : List Nat} {f : (Nat → Dword) → Dword} (h1 : Kept F s) :
    Kept F (alu s a op y2 src f) := by
  unfold alu
  exact (engAct_kept h1 (fun _ h3 _ _ _ _ => (setV_kept h3)))

theorem pact_kept {s : State} {a : Act} {op : Nat} {pr : Nat} {src : List Nat} {psrc : List Nat} {bad : Bool} {f : (Nat → Dword) → (Nat → Bool) → Bool} (h1 : Kept F s) :
    Kept F (pact s a op pr src psrc bad f) := by
  unfold pact
  exact (engAct_kept h1 (fun _ h2 _ _ _ _ => (setP_kept h2)))

theorem setSmem_kept {s : State} {p : Nat} {e : Nat} {i : Nat} {lock : Bool} {y2 : BitVec 64} (h1 : Kept F s) :
    Kept F (setSmem s p e i lock y2) := by
  unfold setSmem
  refine Kept.ite ?_ ?_
  · exact h1
  · extract_lets +onlyGivenNames -underBinder -merge -useContext k3
    clear_value k3
    extract_lets +onlyGivenNames -underBinder -merge -useContext s4
    have h5 : Kept F s4 := by
      unfold s4
      exact (State.updEng_kept h1)
    clear_value s4
    exact (State.updEng_kept h5)

theorem spareTakeover_kept {s : State} {q : Nat} (h1 : Kept F s) : Kept F (spareTakeover s q) := by
  unfold spareTakeover
  split
  · refine Kept.ite ?_ ?_
    · exact h1
    · refine Kept.ite ?_ ?_
      · extract_lets +onlyGivenNames -underBinder -merge -useContext s2
        have h3 : Kept F s2 := by
          unfold s2
          exact (State.updEng_kept h1)
        clear_value s2
        exact (Kept.ite (noSpare_kept h3) h3)
      · extract_lets +onlyGivenNames -underBinder -merge -useContext k4
        clear_value k4
        extract_lets +onlyGivenNames -underBinder -merge -useContext s5
        have h6 : Kept F s5 := by
          unfold s5
          exact (Kept.ite h1 (State.evt_kept (setEngSt_kept h1)))
        clear_value s5
        extract_lets +onlyGivenNames -underBinder -merge -useContext s7
        have h8 : Kept F s7 := by
          unfold s7
          exact (State.updEng_kept h6)
        clear_value s7
        extract_lets +onlyGivenNames -underBinder -merge -useContext s9
        have h10 : Kept F s9 := by
          unfold s9
          exact (State.setFld_kept (State.setFlag_kept (setEngSt_kept h8)))
        clear_value s9
        extract_lets +onlyGivenNames -underBinder -merge -useContext s11
        have h12 : Kept F s11 := by
          unfold s11
          exact (State.setFlag_kept h10)
        clear_value s11
        extract_lets +onlyGivenNames -underBinder -merge -useContext s13
        have h14 : Kept F s13 := by
          unfold s13
          exact (State.updEng_kept h12)
        clear_value s13
        extract_lets +onlyGivenNames -underBinder -merge -useContext s15
        have h16 : Kept F s15 := by
          unfold s15
          exact (State.evt_kept (State.evt_kept h14))
        clear_value s15
        exact (State.count_kept (State.evt_kept (State.putBit_kept h16)))
  · exact h1

theorem takeover_kept {s : State} {e : Nat} (h1 : Kept F s) : Kept F (takeover s e) := by
  unfold takeover
  exact (Kept.ite (State.evt_kept h1) (Kept.ite (State.putRes_kept h1) (Kept.ite (State.putRes_kept h1) (Kept.ite (State.putRes_kept h1) (State.updEng_kept (State.putRes_kept h1))))))

theorem eccSeen_kept {s : State} {p : Nat} {ecc : Nat} {slot : Nat} {go : State → State} (h1 : Kept F s) (h2 : ∀ a3, Kept F a3 → Kept F (go a3)) :
    Kept F (eccSeen s p ecc slot go) := by
  unfold eccSeen
  exact (Kept.ite (engFail_kept h1) (Kept.ite (h2 _ (eccCor_kept h1)) (h2 _ h1)))

theorem engLd_kept {s : State} {a : Act} {y2 : Nat} {i : Nat} {ecc : Nat} (h1 : Kept F s) : Kept F (engLd s a y2 i ecc) := by
  unfold engLd
  exact (engAct_kept h1 (fun _ h3 _ _ _ _ => (eccSeen_kept h3 (fun _ h4 => (setV_kept h4)))))

theorem engSt__kept {s : State} {a : Act} {y2 : Nat} {i : Nat} (h1 : Kept F s) : Kept F (engSt_ s a y2 i) := by
  unfold engSt_
  exact (engAct_kept h1 (fun _ h3 _ _ _ _ => (setSmem_kept h3)))

theorem engCnt_kept {s : State} {a : Act} {op : Nat} {pr : Nat} {i : Nat} {ecc : Nat} {f : Dword → Dword} {lim : Dword → Bool} (h1 : Kept F s) :
    Kept F (engCnt s a op pr i ecc f lim) := by
  unfold engCnt
  refine engAct_kept h1 (fun _ h6 _ _ _ _ => ?_)
  refine eccSeen_kept h6 (fun _ h9 => ?_)
  extract_lets +onlyGivenNames -underBinder -merge -useContext k10
  clear_value k10
  exact (setP_kept (setSmem_kept h9))

theorem engGet_kept {s : State} {a : Act} {y2 : Nat} {i : Nat} (h1 : Kept F s) : Kept F (engGet s a y2 i) := by
  unfold engGet
  exact (engAct_kept h1 (fun _ h3 _ _ _ _ => (setV_kept h3)))

theorem grpLoad_kept {s : State} {n : Nat} {v : Nat} (h1 : Kept F s) : Kept F (grpLoad s n v) := by
  unfold grpLoad
  extract_lets +onlyGivenNames -underBinder -merge -useContext s2
  have h3 : Kept F s2 := by
    unfold s2
    exact (State.updGrp_kept h1)
  clear_value s2
  exact (Kept.of h3 rfl rfl rfl rfl rfl rfl)

theorem busApply_kept {s : State} {kind : Nat} {index : Nat} {v : BitVec 64} (h1 : Kept F s) : Kept F (busApply s kind index v) := by
  unfold busApply
  extract_lets +onlyGivenNames -underBinder -merge -useContext k2
  clear_value k2
  refine Kept.ite ?_ ?_
  · exact h1
  · split
    · exact (selWrite_kept h1)
    · exact (selWrite_kept h1)
    · exact (lselWrite_kept h1)
    · extract_lets +onlyGivenNames -underBinder -merge -useContext k3
      clear_value k3
      extract_lets +onlyGivenNames -underBinder -merge -useContext s4
      have h5 : Kept F s4 := by
        unfold s4
        exact (putAps_kept h1)
      clear_value s4
      split
      · exact (State.updGrp_kept h5)
      · exact h5
    · exact (Kept.of h1 rfl rfl rfl rfl rfl rfl)
    · exact (grpLoad_kept h1)
    · exact h1

theorem engPut_kept {s : State} {a : Act} {y2 : Nat} {i : Nat} (h1 : Kept F s) : Kept F (engPut s a y2 i) := by
  unfold engPut
  refine engAct_kept h1 (fun _ h5 _ _ _ _ => ?_)
  extract_lets +onlyGivenNames -underBinder -merge -useContext k6 k7
  clear_value k6 k7
  refine Kept.ite ?_ ?_
  · exact h5
  · split
    · exact (Kept.of h5 rfl rfl rfl rfl rfl rfl)
    · exact (busApply_kept h5)

theorem engPost_kept {s : State} {a : Act} {y2 : Nat} {n : Nat} {i : Nat} (h1 : Kept F s) : Kept F (engPost s a y2 n i) := by
  unfold engPost
  refine engAct_kept h1 (fun _ h5 _ _ _ _ => ?_)
  extract_lets +onlyGivenNames -underBinder -merge -useContext k6
  clear_value k6
  exact (Kept.ite h5 (Kept.of h5 rfl rfl rfl rfl rfl rfl))

theorem engMark_kept {s : State} {a : Act} {y2 : Nat} (h1 : Kept F s) : Kept F (engMark s a y2) := by
  unfold engMark
  refine engAct_kept h1 (fun _ h5 _ _ _ _ => ?_)
  exact (Kept.ite h5 (State.evt_kept (State.wr_kept h5)))

theorem busDeliver_kept {s : State} (h1 : Kept F s) : Kept F (busDeliver s) := by
  unfold busDeliver
  split
  · refine Kept.ite ?_ ?_
    · exact h1
    · extract_lets +onlyGivenNames -underBinder -merge -useContext s2
      have h3 : Kept F s2 := by
        unfold s2
        exact (State.toOfs_kept h1)
      clear_value s2
      refine busApply_kept ?_
      refine State.count_kept ?_
      exact (Kept.of h3 rfl rfl rfl rfl rfl rfl)
  · exact h1

theorem busDrain_kept {s : State} (h1 : Kept F s) : Kept F (busDrain s) := by
  unfold busDrain
  extract_lets +onlyGivenNames -underBinder -merge -useContext f2
  have h3 : ∀ (a4 : State) (h5 : Kept F a4), Kept F (f2 a4) := by
    intro a4 h5
    unfold f2
    exact (Kept.foldl (fun _ _ h6 => (busDeliver_kept h6)) h5)
  clear_value f2
  exact (Kept.ite h1 (h3 _ (State.toOfs_kept (h3 _ h1))))

theorem placeRecord_kept {s : State} {k : Nat} {b : List Byte} (h1 : Kept F s) : Kept F (placeRecord s k b) := by
  unfold placeRecord
  exact (State.memPut_kept h1)

theorem release1_kept {s : State} {y2 : Posted} (h1 : Kept F s) : Kept F (release1 s y2) := by
  unfold release1
  extract_lets +onlyGivenNames -underBinder -merge -useContext s3
  have h4 : Kept F s3 := by
    unfold s3
    exact (State.count_kept h1)
  clear_value s3
  exact (Kept.ite (placeRecord_kept h4) (State.post_kept h4))

theorem commitEng_kept {s : State} {e : Nat} (h1 : Kept F s) : Kept F (commitEng s e) := by
  unfold commitEng
  extract_lets +onlyGivenNames -underBinder -merge -useContext k2
  clear_value k2
  exact (State.updEng_kept (State.wr_kept h1))

theorem dirtyClear_kept {s : State} (h1 : Kept F s) : Kept F (dirtyClear s) := by
  unfold dirtyClear
  exact (Kept.foldl (fun _ _ h2 => (Kept.ite h2 (State.wr_kept h2))) h1)

theorem engineCommit_kept {s : State} {failed : List (Nat × Nat)} (h1 : Kept F s) : Kept F (engineCommit s failed) := by
  unfold engineCommit
  refine Kept.ite ?_ ?_
  · exact h1
  · extract_lets +onlyGivenNames -underBinder -merge -useContext s2
    have h3 : Kept F s2 := by
      unfold s2
      exact (State.toOfs_kept h1)
    clear_value s2
    extract_lets +onlyGivenNames -underBinder -merge -useContext s4
    have h5 : Kept F s4 := by
      unfold s4
      exact (Kept.foldl (fun _ _ h6 => (engFail_kept h6)) h3)
    clear_value s4
    extract_lets +onlyGivenNames -underBinder -merge -useContext s7
    have h8 : Kept F s7 := by
      unfold s7
      exact (Kept.foldl (fun _ _ h9 => (commitEng_kept h9)) (dirtyClear_kept h5))
    clear_value s7
    extract_lets +onlyGivenNames -underBinder -merge -useContext k10
    clear_value k10
    extract_lets +onlyGivenNames -underBinder -merge -useContext s11
    have h12 : Kept F s11 := by
      unfold s11
      refine Kept.foldl (fun _ _ h13 => ?_) ?_
      · exact (release1_kept h13)
      · exact (Kept.of h8 rfl rfl rfl rfl rfl rfl)
    clear_value s11
    extract_lets +onlyGivenNames -underBinder -merge -useContext k14
    clear_value k14
    exact (Kept.of h12 rfl rfl rfl rfl rfl rfl)

theorem engFrame1_kept {s : State} {p : Nat} (h1 : Kept F s) : Kept F (engFrame1 s p) := by
  unfold engFrame1
  extract_lets +onlyGivenNames -underBinder -merge -useContext s2
  have h3 : Kept F s2 := by
    unfold s2
    exact (Kept.ite (engFill_kept h1) h1)
  clear_value s2
  extract_lets +onlyGivenNames -underBinder -merge -useContext k4
  clear_value k4
  extract_lets +onlyGivenNames -underBinder -merge -useContext s5
  have h6 : Kept F s5 := by
    unfold s5
    exact (Kept.ite h3 (State.updEng_kept (setEngSt_kept h3)))
  clear_value s5
  extract_lets +onlyGivenNames -underBinder -merge -useContext k7
  clear_value k7
  exact (State.updEng_kept h6)

theorem engStates_kept {s : State} (h1 : Kept F s) : Kept F (engStates s) := by
  unfold engStates
  exact (Kept.foldl (fun _ _ h2 => (Kept.ite h2 (State.setFld_kept h2))) h1)

theorem engLive_kept {s : State} (h1 : Kept F s) : Kept F (engLive s) := by
  unfold engLive
  refine Kept.foldl (fun _ _ h2 => ?_) h1
  extract_lets +onlyGivenNames -underBinder -merge -useContext k3
  clear_value k3
  exact (State.updEng_kept h2)

theorem engFrame_kept {s : State} (h1 : Kept F s) : Kept F (engFrame s) := by
  unfold engFrame
  extract_lets +onlyGivenNames -underBinder -merge -useContext s2
  have h3 : Kept F s2 := by
    unfold s2
    exact (Kept.foldl (fun _ _ h4 => (Kept.ite (engFrame1_kept h4) h4)) h1)
  clear_value s2
  exact (Kept.of h3 rfl rfl rfl rfl rfl rfl)

theorem lockstepDiffer_kept {s : State} {q : Nat} {differs : Bool} (h1 : Kept F s) : Kept F (lockstepDiffer s q differs) := by
  unfold lockstepDiffer
  exact (Kept.ite (State.updMate_kept (State.evt_kept h1)) h1)

theorem lockstepTest_kept {s : State} {q : Nat} {differs : Bool} (h1 : Kept F s) : Kept F (lockstepTest s q differs) := by
  unfold lockstepTest
  extract_lets +onlyGivenNames -underBinder -merge -useContext k2
  clear_value k2
  extract_lets +onlyGivenNames -underBinder -merge -useContext s3
  have h4 : Kept F s3 := by
    unfold s3
    exact (lockstepDiffer_kept h1)
  clear_value s3
  extract_lets +onlyGivenNames -underBinder -merge -useContext k5 k6
  clear_value k5 k6
  refine Kept.ite ?_ ?_
  · exact h4
  · extract_lets +onlyGivenNames -underBinder -merge -useContext k7
    clear_value k7
    exact (State.updEng_kept (setEngSt_kept h4))

theorem tdSnap_kept {s : State} (h1 : Kept F s) : Kept F (tdSnap s) := by
  unfold tdSnap
  exact (Kept.ite (State.evt_kept h1) (Kept.of h1 rfl rfl rfl rfl rfl rfl))

theorem tdCapture_kept {s : State} (h1 : Kept F s) : Kept F (tdCapture s) := by
  unfold tdCapture
  refine Kept.ite ?_ ?_
  · extract_lets +onlyGivenNames -underBinder -merge -useContext s2
    have h3 : Kept F s2 := by
      unfold s2
      exact (Kept.foldl (fun _ _ h4 => (Kept.foldl (fun _ _ h5 => (State.wr_kept h5)) h4)) h1)
    clear_value s2
    extract_lets +onlyGivenNames -underBinder -merge -useContext s6
    have h7 : Kept F s6 := by
      unfold s6
      exact (State.wrPair_kept h3)
    clear_value s6
    extract_lets +onlyGivenNames -underBinder -merge -useContext s8
    have h9 : Kept F s8 := by
      unfold s8
      exact (State.putRes_kept h7)
    clear_value s8
    exact (Kept.of h9 rfl rfl rfl rfl rfl rfl)
  · exact h1

theorem pmonSelWrite_kept {s : State} {n : Nat} {data : BitVec 32} (h1 : Kept F s) : Kept F (pmonSelWrite s n data) := by
  unfold pmonSelWrite
  exact (State.wr_kept h1)

theorem pmonSourceChange_kept {s : State} {n : Nat} (h1 : Kept F s) : Kept F (pmonSourceChange s n) := by
  unfold pmonSourceChange
  extract_lets +onlyGivenNames -underBinder -merge -useContext k2
  clear_value k2
  refine Kept.ite ?_ ?_
  · exact h1
  · extract_lets +onlyGivenNames -underBinder -merge -useContext s3
    have h4 : Kept F s3 := by
      unfold s3
      exact (State.wr_kept (State.wr_kept h1))
    clear_value s3
    extract_lets +onlyGivenNames -underBinder -merge -useContext s5
    have h6 : Kept F s5 := by
      unfold s5
      exact (State.wrPair_kept h4)
    clear_value s5
    exact (Kept.of h6 rfl rfl rfl rfl rfl rfl)

theorem pmonFreeze_kept {s : State} {data : BitVec 32} (h1 : Kept F s) : Kept F (pmonFreeze s data) := by
  unfold pmonFreeze
  exact (State.wr_kept h1)

theorem pmonSnap_kept {s : State} (h1 : Kept F s) : Kept F (pmonSnap s) := by
  unfold pmonSnap
  exact (Kept.ite (State.evt_kept h1) (Kept.of h1 rfl rfl rfl rfl rfl rfl))

theorem pmonSnapshot_kept {s : State} (h1 : Kept F s) : Kept F (pmonSnapshot s) := by
  unfold pmonSnapshot
  refine Kept.ite ?_ ?_
  · extract_lets +onlyGivenNames -underBinder -merge -useContext s2
    have h3 : Kept F s2 := by
      unfold s2
      refine Kept.foldl (fun _ _ h4 => ?_) h1
      extract_lets +onlyGivenNames -underBinder -merge -useContext k5
      clear_value k5
      exact (State.wr_kept (State.wr_kept h4))
    clear_value s2
    extract_lets +onlyGivenNames -underBinder -merge -useContext s6
    have h7 : Kept F s6 := by
      unfold s6
      exact (State.wrPair_kept h3)
    clear_value s6
    extract_lets +onlyGivenNames -underBinder -merge -useContext s8
    have h9 : Kept F s8 := by
      unfold s8
      exact (State.putRes_kept h7)
    clear_value s8
    exact (Kept.of h9 rfl rfl rfl rfl rfl rfl)
  · exact h1

theorem pmonFrame_kept {s : State} (h1 : Kept F s) : Kept F (pmonFrame s) := by
  unfold pmonFrame
  extract_lets +onlyGivenNames -underBinder -merge -useContext s2
  have h3 : Kept F s2 := by
    unfold s2
    exact (State.count_kept h1)
  clear_value s2
  extract_lets +onlyGivenNames -underBinder -merge -useContext s4
  have h5 : Kept F s4 := by
    unfold s4
    exact (Kept.ite (State.pendRes_kept h3) h3)
  clear_value s4
  exact (Kept.ite (State.pendRes_kept h5) h5)

theorem execNop_kept {a : Act} {s : State} {t : State} (h : Kept F s) (ht : execNop a s = .next t) : Kept F t :=
  checked_kept h (engAct_kept h (fun _ h1 _ _ _ _ => h1)) ht

theorem execAdd_kept {a : Act} {x : Nat} {y : Nat} {z : Nat} {s : State} {t : State} (h : Kept F s) (ht : execAdd a x y z s = .next t) : Kept F t :=
  checked_kept h (alu_kept h) ht

theorem execSub_kept {a : Act} {x : Nat} {y : Nat} {z : Nat} {s : State} {t : State} (h : Kept F s) (ht : execSub a x y z s = .next t) : Kept F t :=
  checked_kept h (alu_kept h) ht

theorem execAnd_kept {a : Act} {x : Nat} {y : Nat} {z : Nat} {s : State} {t : State} (h : Kept F s) (ht : execAnd a x y z s = .next t) : Kept F t :=
  checked_kept h (alu_kept h) ht

theorem execOr_kept {a : Act} {x : Nat} {y : Nat} {z : Nat} {s : State} {t : State} (h : Kept F s) (ht : execOr a x y z s = .next t) : Kept F t :=
  checked_kept h (alu_kept h) ht

theorem execXor_kept {a : Act} {x : Nat} {y : Nat} {z : Nat} {s : State} {t : State} (h : Kept F s) (ht : execXor a x y z s = .next t) : Kept F t :=
  checked_kept h (alu_kept h) ht

theorem execShl_kept {a : Act} {x : Nat} {y : Nat} {z : Nat} {s : State} {t : State} (h : Kept F s) (ht : execShl a x y z s = .next t) : Kept F t :=
  checked_kept h (alu_kept h) ht

theorem execShr_kept {a : Act} {x : Nat} {y : Nat} {z : Nat} {s : State} {t : State} (h : Kept F s) (ht : execShr a x y z s = .next t) : Kept F t :=
  checked_kept h (alu_kept h) ht

theorem execMinu_kept {a : Act} {x : Nat} {y : Nat} {z : Nat} {s : State} {t : State} (h : Kept F s) (ht : execMinu a x y z s = .next t) :
    Kept F t :=
  checked_kept h (alu_kept h) ht

theorem execMaxu_kept {a : Act} {x : Nat} {y : Nat} {z : Nat} {s : State} {t : State} (h : Kept F s) (ht : execMaxu a x y z s = .next t) :
    Kept F t :=
  checked_kept h (alu_kept h) ht

theorem execSatadd32_kept {a : Act} {x : Nat} {y : Nat} {z : Nat} {s : State} {t : State} (h : Kept F s) (ht : execSatadd32 a x y z s = .next t) :
    Kept F t :=
  checked_kept h (alu_kept h) ht

theorem execAddi_kept {a : Act} {x : Nat} {y : Nat} {imm : BitVec 26} {s : State} {t : State} (h : Kept F s) (ht : execAddi a x y imm s = .next t) :
    Kept F t :=
  checked_kept h (alu_kept h) ht

theorem execMovi_kept {a : Act} {x : Nat} {imm : BitVec 26} {s : State} {t : State} (h : Kept F s) (ht : execMovi a x imm s = .next t) : Kept F t :=
  checked_kept h (alu_kept h) ht

theorem execExt_kept {a : Act} {x : Nat} {y : Nat} {lsb : Nat} {wm1 : Nat} {s : State} {t : State} (h : Kept F s) (ht : execExt a x y lsb wm1 s = .next t) :
    Kept F t :=
  checked_kept h (alu_kept h) ht

theorem execIns_kept {a : Act} {x : Nat} {y : Nat} {lsb : Nat} {wm1 : Nat} {s : State} {t : State} (h : Kept F s) (ht : execIns a x y lsb wm1 s = .next t) :
    Kept F t :=
  checked_kept h (alu_kept h) ht

theorem execSel_kept {a : Act} {x : Nat} {y : Nat} {z : Nat} {p : Nat} {s : State} {t : State} (h : Kept F s) (ht : execSel a x y z p s = .next t) :
    Kept F t :=
  checked_kept h (engAct_kept h (fun _ h1 _ _ _ _ => (setV_kept h1))) ht

theorem execCmp_kept {a : Act} {p : Nat} {y : Nat} {z : Nat} {cond : Nat} {s : State} {t : State} (h : Kept F s) (ht : execCmp a p y z cond s = .next t) :
    Kept F t :=
  checked_kept h (pact_kept h) ht

theorem execCmpi_kept {a : Act} {p : Nat} {y : Nat} {cond : Nat} {imm : BitVec 22} {s : State} {t : State} (h : Kept F s) (ht : execCmpi a p y cond imm s = .next t) :
    Kept F t :=
  checked_kept h (pact_kept h) ht

theorem execPset_kept {a : Act} {p : Nat} {q : Nat} {r : Nat} {f : Nat} {inv : Bool} {s : State} {t : State} (h : Kept F s) (ht : execPset a p q r f inv s = .next t) :
    Kept F t :=
  checked_kept h (pact_kept h) ht

theorem execTestb_kept {a : Act} {p : Nat} {y : Nat} {bit : Nat} {s : State} {t : State} (h : Kept F s) (ht : execTestb a p y bit s = .next t) :
    Kept F t :=
  checked_kept h (pact_kept h) ht

theorem execLd_kept {a : Act} {x : Nat} {addr : Nat} {ecc : Nat} {s : State} {t : State} (h : Kept F s) (ht : execLd a x addr ecc s = .next t) :
    Kept F t :=
  checked_kept h (engLd_kept h) ht

theorem execSt_kept {a : Act} {x : Nat} {addr : Nat} {s : State} {t : State} (h : Kept F s) (ht : execSt a x addr s = .next t) : Kept F t :=
  checked_kept h (engSt__kept h) ht

theorem execCntdn_kept {a : Act} {p : Nat} {addr : Nat} {ecc : Nat} {s : State} {t : State} (h : Kept F s) (ht : execCntdn a p addr ecc s = .next t) :
    Kept F t :=
  checked_kept h (engCnt_kept h) ht

theorem execCntup_kept {a : Act} {p : Nat} {addr : Nat} {ecc : Nat} {s : State} {t : State} (h : Kept F s) (ht : execCntup a p addr ecc s = .next t) :
    Kept F t :=
  checked_kept h (engCnt_kept h) ht

theorem execGet_kept {a : Act} {x : Nat} {entry : Nat} {s : State} {t : State} (h : Kept F s) (ht : execGet a x entry s = .next t) : Kept F t :=
  checked_kept h (engGet_kept h) ht

theorem execPut_kept {a : Act} {x : Nat} {entry : Nat} {s : State} {t : State} (h : Kept F s) (ht : execPut a x entry s = .next t) : Kept F t :=
  checked_kept h (engPut_kept h) ht

theorem execPost_kept {a : Act} {x : Nat} {n : Nat} {entry : Nat} {s : State} {t : State} (h : Kept F s) (ht : execPost a x n entry s = .next t) :
    Kept F t :=
  checked_kept h (engPost_kept h) ht

theorem execMark_kept {a : Act} {x : Nat} {s : State} {t : State} (h : Kept F s) (ht : execMark a x s = .next t) : Kept F t :=
  checked_kept h (engMark_kept h) ht

theorem execEngineCommit_kept {failed : List (Nat × Nat)} {s : State} {t : State} (h : Kept F s) (ht : execEngineCommit failed s = .next t) :
    Kept F t :=
  checked_kept h (engineCommit_kept h) ht

theorem execSpareTakeover_kept {q : Nat} {s : State} {t : State} (h : Kept F s) (ht : execSpareTakeover q s = .next t) : Kept F t :=
  checked_kept h (spareTakeover_kept h) ht

theorem execTakeover_kept {eng : Nat} {s : State} {t : State} (h : Kept F s) (ht : execTakeover eng s = .next t) : Kept F t :=
  checked_kept h (State.host_kept h (fun _ h1 => (takeover_kept h1))) ht

theorem execEngCmdAck_kept {seq : Nat} {s : State} {t : State} (h : Kept F s) (ht : execEngCmdAck seq s = .next t) : Kept F t :=
  checked_kept h (State.host_kept h (fun _ h1 => (State.ackRes_kept h1))) ht

theorem execSnap_kept {s : State} {t : State} (h : Kept F s) (ht : execSnap s = .next t) : Kept F t :=
  checked_kept h (State.host_kept h (fun _ h1 => (tdSnap_kept h1))) ht

theorem execTdCapture_kept {s : State} {t : State} (h : Kept F s) (ht : execTdCapture s = .next t) : Kept F t :=
  checked_kept h (tdCapture_kept h) ht

theorem execEngTdAck_kept {seq : Nat} {s : State} {t : State} (h : Kept F s) (ht : execEngTdAck seq s = .next t) : Kept F t :=
  checked_kept h (State.host_kept h (fun _ h1 => (State.ackRes_kept h1))) ht

theorem execPmonSelWrite_kept {n : Nat} {data : BitVec 32} {s : State} {t : State} (h : Kept F s) (ht : execPmonSelWrite n data s = .next t) :
    Kept F t :=
  checked_kept h (State.host_kept h (fun _ h1 => (pmonSelWrite_kept h1))) ht

theorem execPmonSourceChange_kept {n : Nat} {s : State} {t : State} (h : Kept F s) (ht : execPmonSourceChange n s = .next t) : Kept F t :=
  checked_kept h (pmonSourceChange_kept h) ht

theorem execFreeze_kept {data : BitVec 32} {s : State} {t : State} (h : Kept F s) (ht : execFreeze data s = .next t) : Kept F t :=
  checked_kept h (State.host_kept h (fun _ h1 => (pmonFreeze_kept h1))) ht

theorem execPmonSnap_kept {s : State} {t : State} (h : Kept F s) (ht : execPmonSnap s = .next t) : Kept F t :=
  checked_kept h (State.host_kept h (fun _ h1 => (pmonSnap_kept h1))) ht

theorem execPmonSnapshot_kept {s : State} {t : State} (h : Kept F s) (ht : execPmonSnapshot s = .next t) : Kept F t :=
  checked_kept h (pmonSnapshot_kept h) ht

theorem execPmonSnapAck_kept {seq : Nat} {s : State} {t : State} (h : Kept F s) (ht : execPmonSnapAck seq s = .next t) : Kept F t :=
  checked_kept h (State.host_kept h (fun _ h1 => (State.ackRes_kept h1))) ht

theorem execStateBusDelivery_kept {s : State} {t : State} (h : Kept F s) (ht : execStateBusDelivery s = .next t) : Kept F t :=
  checked_kept h (busDeliver_kept h) ht

theorem execLockstepTest_kept {q : Nat} {differs : Bool} {s : State} {t : State} (h : Kept F s) (ht : execLockstepTest q differs s = .next t) :
    Kept F t :=
  checked_kept h (lockstepTest_kept h) ht

end Sys2Proof.Machine
end

