-- ==== Sys2Proof/Laws/KeepPower.lean ====
section
/-! SUPPORT. What Machine/Power.lean keeps: each operation, and each command, leads from a safe state to a safe state, and no fuse goes back (Safety.lean). -/

namespace Sys2Proof.Machine

variable {F : Fuses}

theorem pwrShow_kept {s : State} (h1 : Kept F s) : Kept F (pwrShow s) := by
  unfold pwrShow
  exact (State.setFld_kept h1)

theorem domRegs_kept {s : State} {d : Nat} (h1 : Kept F s) : Kept F (domRegs s d) := by
  unfold domRegs
  extract_lets +onlyGivenNames -underBinder -merge -useContext k2 k3
  clear_value k2 k3
  exact ⟨h1.1, h1.2.1, h1.2.2.1, Tab.wf_filter _ _ h1.2.2.2.1, h1.2.2.2.2⟩

theorem mateSettings_kept {s : State} {m : Image} (h1 : Kept F s) : Kept F (mateSettings s m) := by
  unfold mateSettings
  extract_lets +onlyGivenNames -underBinder -merge -useContext s2
  have h3 : Kept F s2 := by
    unfold s2
    exact (State.wr_kept h1)
  clear_value s2
  exact (Kept.ite (State.setFld_kept (State.setFld_kept h3)) (State.setFld_kept h3))

theorem leafBases_kept {s : State} {m : Image} (h1 : Kept F s) : Kept F (leafBases s m) := by
  unfold leafBases
  exact (State.wrPair_kept (State.wrPair_kept h1))

theorem domLoss_kept {s : State} {d : Nat} (h1 : Kept F s) : Kept F (domLoss s d) := by
  unfold domLoss
  extract_lets +onlyGivenNames -underBinder -merge -useContext s2
  have h3 : Kept F s2 := by
    unfold s2
    exact (domRegs_kept h1)
  clear_value s2
  exact (Kept.ite (Kept.of h3 rfl rfl rfl rfl rfl rfl) (Kept.ite (Kept.of h3 rfl rfl rfl rfl rfl rfl) (Kept.ite (Kept.of h3 rfl rfl rfl rfl rfl rfl) h3)))

theorem setDom_kept {s : State} {d : Nat} {st : Nat} (h1 : Kept F s) : Kept F (setDom s d st) := by
  unfold setDom
  refine Kept.ite ?_ ?_
  · exact h1
  · extract_lets +onlyGivenNames -underBinder -merge -useContext s2
    have h3 : Kept F s2 := by
      unfold s2
      exact (State.evt_kept (State.setFld_kept h1))
    clear_value s2
    refine pwrShow_kept ?_
    exact (Kept.of h3 rfl rfl rfl rfl rfl rfl)

theorem domRise_kept {s : State} {d : Nat} (h1 : Kept F s) : Kept F (domRise s d) := by
  unfold domRise
  exact (Kept.ite (setDom_kept h1) h1)

theorem domDrain_kept {s : State} {d : Nat} (h1 : Kept F s) : Kept F (domDrain s d) := by
  unfold domDrain
  exact (Kept.ite (setDom_kept h1) h1)

theorem setLast_kept {s : State} {d : Nat} {code : Nat} (h1 : Kept F s) : Kept F (setLast s d code) := by
  unfold setLast
  exact (Kept.ite (State.setFld_kept h1) h1)

theorem domPend_kept {s : State} {d : Nat} (h1 : Kept F s) : Kept F (domPend s d) := by
  unfold domPend
  exact (Kept.ite (State.setFlag_kept h1) h1)

theorem pwrEnd_kept {s : State} {code : Nat} (h1 : Kept F s) : Kept F (pwrEnd s code) := by
  unfold pwrEnd
  split
  · extract_lets +onlyGivenNames -underBinder -merge -useContext s2
    have h3 : Kept F s2 := by
      unfold s2
      refine State.setFlag_kept ?_
      refine State.putRes_kept ?_
      exact (Kept.of h1 rfl rfl rfl rfl rfl rfl)
    clear_value s2
    exact (Kept.ite (domPend_kept (setLast_kept h3)) h3)
  · exact h1

theorem pwrRequest_kept {s : State} {op : Nat} {d : Nat} {immed : Bool} (h1 : Kept F s) : Kept F (pwrRequest s op d immed) := by
  unfold pwrRequest
  refine Kept.ite ?_ ?_
  · exact (State.evt_kept h1)
  · extract_lets +onlyGivenNames -underBinder -merge -useContext k2
    clear_value k2
    split
    · extract_lets +onlyGivenNames -underBinder -merge -useContext s3
      have h4 : Kept F s3 := by
        unfold s3
        exact (State.putRes_kept h1)
      clear_value s3
      exact (Kept.ite (setLast_kept h4) h4)
    · extract_lets +onlyGivenNames -underBinder -merge -useContext s5
      have h6 : Kept F s5 := by
        unfold s5
        refine State.setFlag_kept ?_
        refine State.pendRes_kept ?_
        exact (Kept.of h1 rfl rfl rfl rfl rfl rfl)
      clear_value s5
      exact (Kept.ite (domPend_kept h6) h6)

theorem legEnd_kept {s : State} {d : Nat} {code : Nat} (h1 : Kept F s) : Kept F (legEnd s d code) := by
  unfold legEnd
  extract_lets +onlyGivenNames -underBinder -merge -useContext s2
  have h3 : Kept F s2 := by
    unfold s2
    exact (Kept.ite h1 (State.evt_kept h1))
  clear_value s2
  exact (domPend_kept (setLast_kept h3))

theorem legRequest_kept {s : State} {on : Bool} {d : Nat} (h1 : Kept F s) : Kept F (legRequest s on d) := by
  unfold legRequest
  split
  · exact (legEnd_kept h1)
  · refine domPend_kept ?_
    exact (Kept.of h1 rfl rfl rfl rfl rfl rfl)

theorem legWrite_kept {s : State} {on : Bool} {m : Nat} {data : BitVec 32} (h1 : Kept F s) : Kept F (legWrite s on m data) := by
  unfold legWrite
  exact (Kept.foldl (fun _ _ h2 => (legRequest_kept h2)) h1)

theorem domAct_kept {s : State} {on : Bool} {d : Nat} (h1 : Kept F s) : Kept F (domAct s on d).1 := by
  unfold domAct
  exact (Kept.ite_fst (Kept.ite_fst h1 (domRise_kept h1)) (Kept.ite_fst h1 (domDrain_kept h1)))

theorem quietEnter_kept {s : State} (h1 : Kept F s) : Kept F (quietEnter s) := by
  unfold quietEnter
  extract_lets +onlyGivenNames -underBinder -merge -useContext s2
  have h3 : Kept F s2 := by
    unfold s2
    refine pwrShow_kept ?_
    exact (Kept.of h1 rfl rfl rfl rfl rfl rfl)
  clear_value s2
  exact (Kept.ite (State.updMate_kept h3) h3)

theorem pwrAct_kept {s : State} {y2 : PwrReq} (h1 : Kept F s) : Kept F (pwrAct s y2) := by
  unfold pwrAct
  extract_lets +onlyGivenNames -underBinder -merge -useContext k3
  clear_value k3
  refine Kept.ite ?_ ?_
  · exact h1
  · refine Kept.ite ?_ ?_
    · exact (pwrEnd_kept h1)
    · refine Kept.ite ?_ ?_
      · exact (pwrEnd_kept (quietEnter_kept h1))
      · refine Kept.ite ?_ ?_
        · refine pwrEnd_kept ?_
          refine pwrShow_kept ?_
          exact (Kept.of h1 rfl rfl rfl rfl rfl rfl)
        · extract_lets +onlyGivenNames -underBinder -merge -useContext p4
          have h5 : Kept F p4.1 := domAct_kept h1
          clear_value p4
          refine Kept.ite ?_ ?_
          · exact (pwrEnd_kept h5)
          · extract_lets +onlyGivenNames -underBinder -merge -useContext s6
            have h7 : Kept F s6 := by
              unfold s6
              exact h5
            clear_value s6
            exact (Kept.of h7 rfl rfl rfl rfl rfl rfl)

theorem legAct_kept {s : State} {y2 : LegReq} (h1 : Kept F s) : Kept F (legAct s y2) := by
  unfold legAct
  refine Kept.ite ?_ ?_
  · exact h1
  · split
    · refine legEnd_kept ?_
      exact (Kept.of h1 rfl rfl rfl rfl rfl rfl)
    · extract_lets +onlyGivenNames -underBinder -merge -useContext p3
      have h4 : Kept F p3.1 := domAct_kept h1
      clear_value p3
      refine Kept.ite ?_ ?_
      · extract_lets +onlyGivenNames -underBinder -merge -useContext s5
        have h6 : Kept F s5 := by
          unfold s5
          exact h4
        clear_value s5
        refine legEnd_kept ?_
        exact (Kept.of h6 rfl rfl rfl rfl rfl rfl)
      · extract_lets +onlyGivenNames -underBinder -merge -useContext s7
        have h8 : Kept F s7 := by
          unfold s7
          exact h4
        clear_value s7
        exact (Kept.of h8 rfl rfl rfl rfl rfl rfl)

theorem pwrRequestAct_kept {s : State} (h1 : Kept F s) : Kept F (pwrRequestAct s) := by
  unfold pwrRequestAct
  refine Kept.ite ?_ ?_
  · exact h1
  · extract_lets +onlyGivenNames -underBinder -merge -useContext s2
    have h3 : Kept F s2 := by
      unfold s2
      split
      · exact (pwrAct_kept h1)
      · exact h1
    clear_value s2
    refine elsReform_kept ?_
    exact (Kept.foldl (fun _ _ h4 => (legAct_kept h4)) h3)

theorem domDone_kept {s : State} {on : Bool} {d : Nat} {code : Nat} (h1 : Kept F s) : Kept F (domDone s on d code) := by
  unfold domDone
  extract_lets +onlyGivenNames -underBinder -merge -useContext s2
  have h3 : Kept F s2 := by
    unfold s2
    split
    · exact (Kept.ite (pwrEnd_kept h1) h1)
    · exact h1
  clear_value s2
  extract_lets +onlyGivenNames -underBinder -merge -useContext k4
  clear_value k4
  refine Kept.ite ?_ ?_
  · refine legEnd_kept ?_
    exact (Kept.of h3 rfl rfl rfl rfl rfl rfl)
  · exact h3

theorem domainOn_kept {s : State} {d : Nat} (h1 : Kept F s) : Kept F (domainOn s d) := by
  unfold domainOn
  exact (Kept.ite (domDone_kept (setDom_kept (domRegs_kept h1))) h1)

theorem domainIsolate_kept {s : State} {d : Nat} (h1 : Kept F s) : Kept F (domainIsolate s d) := by
  unfold domainIsolate
  exact (Kept.ite (elsReform_kept (domDone_kept (setDom_kept (domLoss_kept h1)))) h1)

theorem drainTimeout_kept {s : State} {d : Nat} (h1 : Kept F s) : Kept F (drainTimeout s d) := by
  unfold drainTimeout
  exact (Kept.ite (elsReform_kept (domDone_kept (State.evt_kept (setDom_kept h1)))) h1)

theorem powerFrame_kept {s : State} (h1 : Kept F s) : Kept F (powerFrame s) := by
  unfold powerFrame
  refine Kept.foldl (fun _ _ h2 => ?_) h1
  extract_lets +onlyGivenNames -underBinder -merge -useContext k3
  clear_value k3
  exact (Kept.ite (domainOn_kept h2) (Kept.ite (Kept.ite (drainTimeout_kept h2) (domainIsolate_kept h2)) h2))

theorem execPwrOn_kept {d : Nat} {immed : Bool} {s : State} {t : State} (h : Kept F s) (ht : execPwrOn d immed s = .next t) : Kept F t :=
  checked_kept h (State.host_kept h (fun _ h1 => (pwrRequest_kept h1))) ht

theorem execPwrOff_kept {d : Nat} {immed : Bool} {s : State} {t : State} (h : Kept F s) (ht : execPwrOff d immed s = .next t) : Kept F t :=
  checked_kept h (State.host_kept h (fun _ h1 => (pwrRequest_kept h1))) ht

theorem execQuiet_kept {immed : Bool} {s : State} {t : State} (h : Kept F s) (ht : execQuiet immed s = .next t) : Kept F t :=
  checked_kept h (State.host_kept h (fun _ h1 => (pwrRequest_kept h1))) ht

theorem execWake_kept {immed : Bool} {s : State} {t : State} (h : Kept F s) (ht : execWake immed s = .next t) : Kept F t :=
  checked_kept h (State.host_kept h (fun _ h1 => (pwrRequest_kept h1))) ht

theorem execPwrRequestAct_kept {s : State} {t : State} (h : Kept F s) (ht : execPwrRequestAct s = .next t) : Kept F t :=
  checked_kept h (pwrRequestAct_kept h) ht

theorem execDomainOn_kept {d : Nat} {s : State} {t : State} (h : Kept F s) (ht : execDomainOn d s = .next t) : Kept F t :=
  checked_kept h (domainOn_kept h) ht

theorem execDomainIsolate_kept {d : Nat} {s : State} {t : State} (h : Kept F s) (ht : execDomainIsolate d s = .next t) : Kept F t :=
  checked_kept h (domainIsolate_kept h) ht

theorem execDrainTimeout_kept {d : Nat} {s : State} {t : State} (h : Kept F s) (ht : execDrainTimeout d s = .next t) : Kept F t :=
  checked_kept h (drainTimeout_kept h) ht

theorem execPwrAck_kept {seq : Nat} {s : State} {t : State} (h : Kept F s) (ht : execPwrAck seq s = .next t) : Kept F t :=
  checked_kept h (State.host_kept h (fun _ h1 => (State.ackRes_kept h1))) ht

theorem execPwrLegOn_kept {m : Nat} {data : BitVec 32} {s : State} {t : State} (h : Kept F s) (ht : execPwrLegOn m data s = .next t) : Kept F t :=
  checked_kept h (State.host_kept h (fun _ h1 => (legWrite_kept h1))) ht

theorem execPwrLegOff_kept {m : Nat} {data : BitVec 32} {s : State} {t : State} (h : Kept F s) (ht : execPwrLegOff m data s = .next t) : Kept F t :=
  checked_kept h (State.host_kept h (fun _ h1 => (legWrite_kept h1))) ht

end Sys2Proof.Machine
end

