-- ==== Sys2Proof/Laws/KeepBoot.lean ====
section
/-! SUPPORT. What Machine/Boot.lean keeps: each operation, and each command, leads from a safe state to a safe state, and no fuse goes back (Safety.lean). -/

namespace Sys2Proof.Machine

variable {F : Fuses}

theorem putMask_kept {s : State} {a : Nat} {mask : Nat} {v : Nat} (h1 : Kept F s) : Kept F (putMask s a mask v) := by
  unfold putMask
  exact (State.wr_kept h1)

theorem timSettings_kept {s : State} {m : Image} (h1 : Kept F s) : Kept F (timSettings s m) := by
  unfold timSettings
  extract_lets +onlyGivenNames -underBinder -merge -useContext k2
  clear_value k2
  extract_lets +onlyGivenNames -underBinder -merge -useContext s3
  have h4 : Kept F s3 := by
    unfold s3
    exact (Kept.foldl (fun _ _ h5 => (putMask_kept h5)) h1)
  clear_value s3
  refine Kept.foldl (fun _ _ h6 => ?_) h4
  extract_lets +onlyGivenNames -underBinder -merge -useContext k7 k8 k9
  clear_value k7 k8 k9
  exact (Kept.ite (State.wr_kept (State.wr_kept h6)) (State.wr_kept (State.wr_kept h6)))

theorem xbarSettings_kept {s : State} {m : Image} (h1 : Kept F s) : Kept F (xbarSettings s m) := by
  unfold xbarSettings
  refine Kept.foldl (fun _ _ h2 => ?_) h1
  split
  · extract_lets +onlyGivenNames -underBinder -merge -useContext k3
    clear_value k3
    exact (State.wr_kept (State.wr_kept h2))
  · exact (State.wr_kept (State.wr_kept h2))

theorem chanSettings_kept {s : State} {m : Image} (h1 : Kept F s) : Kept F (chanSettings s m) := by
  unfold chanSettings
  refine Kept.foldl (fun _ _ h2 => ?_) h1
  extract_lets +onlyGivenNames -underBinder -merge -useContext k3
  clear_value k3
  exact (State.wr_kept (State.wr_kept (State.wr_kept (State.setFld_kept h2))))

theorem planSettings_kept {s : State} {m : Image} (h1 : Kept F s) : Kept F (planSettings s m) := by
  unfold planSettings
  exact (Kept.foldl (fun _ _ h2 => (State.setFld_kept h2)) h1)

theorem putTable_kept {s : State} {base : Nat} {y2 : Section} (h1 : Kept F s) : Kept F (putTable s base y2) := by
  unfold putTable
  exact (Kept.foldl (fun _ _ h3 => (State.memPut_kept h3)) (State.memZero_kept h1))

theorem putCopy_kept {s : State} {m : Image} {ty : Nat} {base : Nat} (h1 : Kept F s) : Kept F (putCopy s m ty base) := by
  unfold putCopy
  split
  · exact (putTable_kept h1)
  · exact h1

theorem ownTable_kept {s : State} {m : Image} {base : Nat} (h1 : Kept F s) : Kept F (ownTable s m base) := by
  unfold ownTable
  exact (State.wr_kept (State.wrPair_kept (putCopy_kept h1)))

theorem leafTables_kept {s : State} {m : Image} (h1 : Kept F s) : Kept F (leafTables s m) := by
  unfold leafTables
  extract_lets +onlyGivenNames -underBinder -merge -useContext k2
  clear_value k2
  refine Kept.foldl (fun _ _ h3 => ?_) h1
  extract_lets +onlyGivenNames -underBinder -merge -useContext k4
  clear_value k4
  exact (State.wrPair_kept (putCopy_kept h3))

theorem elsSettings_kept {s : State} {m : Image} (h1 : Kept F s) : Kept F (elsSettings s m) := by
  unfold elsSettings
  refine Kept.foldl (fun _ _ h2 => ?_) h1
  extract_lets +onlyGivenNames -underBinder -merge -useContext k3
  clear_value k3
  exact (State.setFlag_kept h2)

theorem build_kept {s : State} {m : Image} (h1 : Kept F s) : Kept F (build s m) := by
  unfold build
  extract_lets +onlyGivenNames -underBinder -merge -useContext s2
  have h3 : Kept F s2 := by
    unfold s2
    exact (Kept.of h1 rfl rfl rfl rfl rfl rfl)
  clear_value s2
  extract_lets +onlyGivenNames -underBinder -merge -useContext s4
  have h5 : Kept F s4 := by
    unfold s4
    exact (State.memPut_kept h3)
  clear_value s4
  extract_lets +onlyGivenNames -underBinder -merge -useContext s6
  have h7 : Kept F s6 := by
    unfold s6
    exact (State.setFlag_kept h5)
  clear_value s6
  extract_lets +onlyGivenNames -underBinder -merge -useContext s8
  have h9 : Kept F s8 := by
    unfold s8
    exact (Kept.foldl (fun _ _ h10 => (State.memZero_kept h10)) h7)
  clear_value s8
  extract_lets +onlyGivenNames -underBinder -merge -useContext s11
  have h12 : Kept F s11 := by
    unfold s11
    exact (ownTable_kept (leafTables_kept h9))
  clear_value s11
  extract_lets +onlyGivenNames -underBinder -merge -useContext s13
  have h14 : Kept F s13 := by
    unfold s13
    exact (State.wrPair_kept (State.wrPair_kept h12))
  clear_value s13
  extract_lets +onlyGivenNames -underBinder -merge -useContext s15
  have h16 : Kept F s15 := by
    unfold s15
    exact (leafBases_kept h14)
  clear_value s15
  extract_lets +onlyGivenNames -underBinder -merge -useContext s17
  have h18 : Kept F s17 := by
    unfold s17
    exact (State.wrPair_kept h16)
  clear_value s17
  extract_lets +onlyGivenNames -underBinder -merge -useContext s19
  have h20 : Kept F s19 := by
    unfold s19
    exact (State.setFlag_kept h18)
  clear_value s19
  extract_lets +onlyGivenNames -underBinder -merge -useContext s21
  have h22 : Kept F s21 := by
    unfold s21
    exact (State.setFld_kept h20)
  clear_value s21
  extract_lets +onlyGivenNames -underBinder -merge -useContext s23
  have h24 : Kept F s23 := by
    unfold s23
    exact (mateSettings_kept h22)
  clear_value s23
  exact (planSettings_kept (xbarSettings_kept (timShow_kept (timSettings_kept (elsSettings_kept h24)))))

theorem slotProgram_kept {s : State} {i : Nat} {v : Nat} (h1 : Kept F s) : Kept F (slotProgram s i v) := by
  unfold slotProgram
  split
  · exact (State.setNor_kept h1 (Nor.program_kept h1))
  · exact h1

theorem setStep_kept {s : State} {st : Nat} (h1 : Kept F s) : Kept F (setStep s st) := by
  unfold setStep
  exact (State.setFld_kept h1)

theorem slotScan_kept {s : State} (h1 : Kept F s) : Kept F (slotScan s) := by
  unfold slotScan
  extract_lets +onlyGivenNames -underBinder -merge -useContext s2
  have h3 : Kept F s2 := by
    unfold s2
    exact (State.setFlag_kept h1)
  clear_value s2
  extract_lets +onlyGivenNames -underBinder -merge -useContext s4
  have h5 : Kept F s4 := by
    unfold s4
    exact (State.setFlag_kept h3)
  clear_value s4
  extract_lets +onlyGivenNames -underBinder -merge -useContext s6
  have h7 : Kept F s6 := by
    unfold s6
    exact (State.setFlag_kept h5)
  clear_value s6
  extract_lets +onlyGivenNames -underBinder -merge -useContext s8
  have h9 : Kept F s8 := by
    unfold s8
    exact (Kept.foldl (fun _ _ h10 => (Kept.ite (State.wr_kept (State.setFld_kept h10)) h10)) h7)
  clear_value s8
  extract_lets +onlyGivenNames -underBinder -merge -useContext k11
  clear_value k11
  exact (Kept.of h9 rfl rfl rfl rfl rfl rfl)

theorem noImage_kept {s : State} (h1 : Kept F s) : Kept F (noImage s) := by
  unfold noImage
  exact (State.evt_kept (setStep_kept h1))

theorem slotResult_kept {s : State} {i : Nat} {code : Nat} {detail : Nat} (h1 : Kept F s) : Kept F (slotResult s i code detail) := by
  unfold slotResult
  exact (State.wr_kept h1)

theorem slotFail_kept {s : State} {i : Nat} {code : Nat} {detail : Nat} (h1 : Kept F s) : Kept F (slotFail s i code detail) := by
  unfold slotFail
  exact (setStep_kept (State.evt_kept (slotResult_kept h1)))

theorem slotRead_kept {s : State} {i : Nat} {n : Nat} (h1 : Kept F s) : Kept F (slotRead s i n) := by
  unfold slotRead
  exact (State.memPut_kept h1)

theorem slotTry_kept {s : State} {i : Nat} (h1 : Kept F s) : Kept F (slotTry s i) := by
  unfold slotTry
  extract_lets +onlyGivenNames -underBinder -merge -useContext k2 k3
  clear_value k2 k3
  refine Kept.ite ?_ ?_
  · exact (slotFail_kept h1)
  · split
    · exact (slotFail_kept (slotRead_kept h1))
    · split
      · exact (slotFail_kept (State.wr_kept (slotRead_kept h1)))
      · extract_lets +onlyGivenNames -underBinder -merge -useContext s4
        have h5 : Kept F s4 := by
          unfold s4
          exact (slotRead_kept h1)
        clear_value s4
        split
        · exact (slotFail_kept h5)
        · exact (setStep_kept h5)

theorem slotNext_kept {s : State} (h1 : Kept F s) : Kept F (slotNext s) := by
  unfold slotNext
  split
  · exact (noImage_kept h1)
  · extract_lets +onlyGivenNames -underBinder -merge -useContext k2
    clear_value k2
    extract_lets +onlyGivenNames -underBinder -merge -useContext s3
    have h4 : Kept F s3 := by
      unfold s3
      exact (Kept.of h1 rfl rfl rfl rfl rfl rfl)
    refine slotTry_kept ?_
    exact (Kept.ite (slotProgram_kept h4) h4)

theorem bootFail_kept {s : State} {y2 : Nat × Nat} (h1 : Kept F s) : Kept F (bootFail s y2) := by
  unfold bootFail
  exact (Kept.ite (noImage_kept (State.putRes_kept h1)) (slotFail_kept h1))

theorem hostLoad_kept {s : State} (h1 : Kept F s) : Kept F (hostLoad s) := by
  unfold hostLoad
  extract_lets +onlyGivenNames -underBinder -merge -useContext k2 k3
  clear_value k2 k3
  split
  · exact (bootFail_kept h1)
  · exact (setStep_kept h1)

theorem validate_kept {s : State} (h1 : Kept F s) : Kept F (validate s) := by
  unfold validate
  extract_lets +onlyGivenNames -underBinder -merge -useContext k2
  clear_value k2
  split
  · exact (bootFail_kept h1)
  · extract_lets +onlyGivenNames -underBinder -merge -useContext k3
    clear_value k3
    extract_lets +onlyGivenNames -underBinder -merge -useContext s4
    have h5 : Kept F s4 := by
      unfold s4
      exact (Kept.of h1 rfl rfl rfl rfl rfl rfl)
    clear_value s4
    extract_lets +onlyGivenNames -underBinder -merge -useContext s6
    have h7 : Kept F s6 := by
      unfold s6
      exact (Kept.ite (State.putRes_kept h5) (slotResult_kept h5))
    clear_value s6
    exact (setStep_kept (State.setFld_kept h7))

theorem zeroise_kept {s : State} {bad : Bool} (h1 : Kept F s) : Kept F (zeroise s bad) := by
  unfold zeroise
  extract_lets +onlyGivenNames -underBinder -merge -useContext k2
  clear_value k2
  extract_lets +onlyGivenNames -underBinder -merge -useContext f3
  have h4 : ∀ (a5 : State) (h6 : Kept F a5) a7, Kept F (f3 a5 a7) := by
    intro a5 h6 a7
    unfold f3
    extract_lets +onlyGivenNames -underBinder -merge -useContext s8
    have h9 : Kept F s8 := by
      unfold s8
      exact (State.setFld_kept h6)
    clear_value s8
    extract_lets +onlyGivenNames -underBinder -merge -useContext k10
    clear_value k10
    exact (Kept.of h9 rfl rfl rfl rfl rfl rfl)
  clear_value f3
  refine Kept.ite ?_ ?_
  · exact h1
  · refine Kept.ite ?_ ?_
    · extract_lets +onlyGivenNames -underBinder -merge -useContext k11
      clear_value k11
      extract_lets +onlyGivenNames -underBinder -merge -useContext s12
      have h13 : Kept F s12 := by
        unfold s12
        exact (Kept.of h1 rfl rfl rfl rfl rfl rfl)
      exact (Kept.ite (State.evt_kept h13) h13)
    · refine Kept.ite ?_ ?_
      · exact (h4 _ h1 _)
      · refine Kept.ite ?_ ?_
        · extract_lets +onlyGivenNames -underBinder -merge -useContext k14
          clear_value k14
          refine h4 _ ?_ _
          exact ⟨h1.1, h1.2.1, h1.2.2.1, h1.2.2.2.1, Tab.wf_nil _, h1.2.2.2.2.2⟩
        · refine Kept.ite ?_ ?_
          · extract_lets +onlyGivenNames -underBinder -merge -useContext k15 k16
            clear_value k15 k16
            refine h4 _ ?_ _
            exact ⟨h1.1, h1.2.1, h1.2.2.1, h1.2.2.2.1, h1.2.2.2.2.1, Tab.wf_nil _, Tab.wf_nil _⟩
          · refine Kept.ite ?_ ?_
            · extract_lets +onlyGivenNames -underBinder -merge -useContext k17
              refine noImage_kept ?_
              refine h4 _ ?_ _
              exact Kept.zeroised h1
            · exact h1

theorem powerUp_kept {s : State} {m : Image} (h1 : Kept F s) : Kept F (powerUp s m) := by
  unfold powerUp
  exact (Kept.foldl (fun _ _ h2 => (Kept.ite h2 (domRise_kept h2))) h1)

theorem leafPointers_kept {s : State} {m : Image} (h1 : Kept F s) : Kept F (leafPointers s m) := by
  unfold leafPointers
  exact (Kept.foldl (fun _ _ h2 => (State.wrPair_kept h2)) h1)

theorem domImage_kept {s : State} {m : Image} (h1 : Kept F s) : Kept F (domImage s m) := by
  unfold domImage
  exact (leafBases_kept (leafPointers_kept (mateSettings_kept h1)))

theorem bootFrame_kept {s : State} {zeroBad : Bool} (h1 : Kept F s) : Kept F (bootFrame s zeroBad) := by
  unfold bootFrame
  extract_lets +onlyGivenNames -underBinder -merge -useContext k2
  clear_value k2
  refine Kept.ite ?_ ?_
  · exact (setStep_kept h1)
  · refine Kept.ite ?_ ?_
    · exact (slotScan_kept (setStep_kept (State.memZero_kept h1)))
    · refine Kept.ite ?_ ?_
      · exact (Kept.ite (zeroise_kept h1) (slotNext_kept h1))
      · refine Kept.ite ?_ ?_
        · exact (validate_kept h1)
        · refine Kept.ite ?_ ?_
          · split
            · extract_lets +onlyGivenNames -underBinder -merge -useContext k3
              clear_value k3
              refine powerUp_kept ?_
              refine setStep_kept ?_
              refine build_kept ?_
              exact (Kept.of h1 rfl rfl rfl rfl rfl rfl)
            · exact h1
          · refine Kept.ite ?_ ?_
            · refine Kept.ite ?_ ?_
              · exact h1
              · extract_lets +onlyGivenNames -underBinder -merge -useContext s4
                have h5 : Kept F s4 := by
                  unfold s4
                  split
                  · exact (domImage_kept h1)
                  · exact h1
                clear_value s4
                extract_lets +onlyGivenNames -underBinder -merge -useContext s6
                have h7 : Kept F s6 := by
                  unfold s6
                  exact (setStep_kept h5)
                clear_value s6
                extract_lets +onlyGivenNames -underBinder -merge -useContext k8
                clear_value k8
                exact (Kept.of h7 rfl rfl rfl rfl rfl rfl)
            · exact (Kept.ite (hostLoad_kept h1) h1)

theorem alignTimeout_kept {s : State} (h1 : Kept F s) : Kept F (alignTimeout s) := by
  unfold alignTimeout
  extract_lets +onlyGivenNames -underBinder -merge -useContext k2
  clear_value k2
  refine Kept.ite ?_ ?_
  · extract_lets +onlyGivenNames -underBinder -merge -useContext s3
    have h4 : Kept F s3 := by
      unfold s3
      exact (State.evt_kept h1)
    clear_value s3
    extract_lets +onlyGivenNames -underBinder -merge -useContext k5
    clear_value k5
    exact (Kept.of h4 rfl rfl rfl rfl rfl rfl)
  · exact h1

theorem dutiesStart_kept {s : State} {m : Image} (h1 : Kept F s) : Kept F (dutiesStart s m) := by
  unfold dutiesStart
  extract_lets +onlyGivenNames -underBinder -merge -useContext s2
  have h3 : Kept F s2 := by
    unfold s2
    exact (Kept.of h1 rfl rfl rfl rfl rfl rfl)
  clear_value s2
  extract_lets +onlyGivenNames -underBinder -merge -useContext s4
  have h5 : Kept F s4 := by
    unfold s4
    exact (Kept.foldl (fun _ _ h6 => (nrSend_kept (State.updGrp_kept h6))) h3)
  clear_value s4
  extract_lets +onlyGivenNames -underBinder -merge -useContext s7
  have h8 : Kept F s7 := by
    unfold s7
    refine Kept.foldl (fun _ _ h9 => ?_) ?_
    · exact (grpRegs_kept h9)
    · exact (Kept.of h5 rfl rfl rfl rfl rfl rfl)
  clear_value s7
  extract_lets +onlyGivenNames -underBinder -merge -useContext s10
  have h11 : Kept F s10 := by
    unfold s10
    exact (Kept.foldl (fun _ _ h12 => (State.updEng_kept h12)) (engLive_kept (engStates_kept h8)))
  clear_value s10
  extract_lets +onlyGivenNames -underBinder -merge -useContext s13
  have h14 : Kept F s13 := by
    unfold s13
    exact (Kept.foldl (fun _ _ h15 => (groupEval_kept h15)) h11)
  clear_value s13
  extract_lets +onlyGivenNames -underBinder -merge -useContext s16
  have h17 : Kept F s16 := by
    unfold s16
    exact (Kept.foldl (fun _ _ h18 => (State.setDef_kept h18)) h14)
  clear_value s16
  exact (chanSettings_kept (pmStart_kept h17))

theorem release_kept {s : State} (h1 : Kept F s) : Kept F (release s) := by
  unfold release
  split
  · extract_lets +onlyGivenNames -underBinder -merge -useContext s2
    have h3 : Kept F s2 := by
      unfold s2
      exact (setStep_kept (dutiesStart_kept h1))
    clear_value s2
    extract_lets +onlyGivenNames -underBinder -merge -useContext s4
    have h5 : Kept F s4 := by
      unfold s4
      exact (State.wrPair_kept (State.setFlag_kept h3))
    clear_value s4
    extract_lets +onlyGivenNames -underBinder -merge -useContext s6
    have h7 : Kept F s6 := by
      unfold s6
      exact (State.evt_kept (State.wr_kept h5))
    clear_value s6
    extract_lets +onlyGivenNames -underBinder -merge -useContext s8
    have h9 : Kept F s8 := by
      unfold s8
      exact (Kept.foldl (fun _ _ h10 => (State.wr_kept h10)) (State.putDigest_kept h7))
    clear_value s8
    extract_lets +onlyGivenNames -underBinder -merge -useContext s11
    have h12 : Kept F s11 := by
      unfold s11
      exact (State.setFlag_kept h9)
    clear_value s11
    extract_lets +onlyGivenNames -underBinder -merge -useContext s13
    have h14 : Kept F s13 := by
      unfold s13
      exact (Kept.ite h12 (State.setFlag_kept h12))
    clear_value s13
    exact (elsReform_kept (pwrShow_kept h14))
  · exact h1

theorem bootCmd_kept {s : State} {op : Nat} (h1 : Kept F s) : Kept F (bootCmd s op) := by
  unfold bootCmd
  extract_lets +onlyGivenNames -underBinder -merge -useContext k2
  clear_value k2
  refine Kept.ite ?_ ?_
  · exact h1
  · refine Kept.ite ?_ ?_
    · exact (State.evt_kept h1)
    · refine Kept.ite ?_ ?_
      · exact (State.putRes_kept h1)
      · refine Kept.ite ?_ ?_
        · extract_lets +onlyGivenNames -underBinder -merge -useContext k3
          clear_value k3
          refine Kept.ite ?_ ?_
          · exact (State.putRes_kept h1)
          · refine Kept.ite ?_ ?_
            · exact (State.putRes_kept h1)
            · refine State.putRes_kept ?_
              exact (Kept.ite h1 (slotProgram_kept h1))
        · refine Kept.ite ?_ ?_
          · extract_lets +onlyGivenNames -underBinder -merge -useContext s4
            have h5 : Kept F s4 := by
              unfold s4
              exact (setStep_kept h1)
            clear_value s4
            extract_lets +onlyGivenNames -underBinder -merge -useContext k6
            clear_value k6
            exact (Kept.of h5 rfl rfl rfl rfl rfl rfl)
          · exact (State.putRes_kept h1)

theorem flashCmd_kept {s : State} {op : Nat} {dev : Nat} (h1 : Kept F s) : Kept F (flashCmd s op dev) := by
  unfold flashCmd
  refine Kept.ite ?_ ?_
  · exact (State.evt_kept h1)
  · refine Kept.ite ?_ ?_
    · exact h1
    · refine Kept.ite ?_ ?_
      · exact (State.putRes_kept h1)
      · refine Kept.ite ?_ ?_
        · exact (State.putRes_kept h1)
        · extract_lets +onlyGivenNames -underBinder -merge -useContext k2 k3 k4 k5
          clear_value k2 k3 k4 k5
          refine Kept.ite ?_ ?_
          · refine Kept.ite ?_ ?_
            · refine State.pendRes_kept ?_
              exact (Kept.of h1 rfl rfl rfl rfl rfl rfl)
            · exact (State.putRes_kept h1)
          · split
            · refine Kept.ite ?_ ?_
              · refine State.pendRes_kept ?_
                exact (Kept.of h1 rfl rfl rfl rfl rfl rfl)
              · exact (State.putRes_kept h1)
            · exact (State.putRes_kept h1)

theorem flashDone_kept {s : State} {failAt : Option Nat} (h1 : Kept F s) : Kept F (flashDone s failAt) := by
  unfold flashDone
  split
  · extract_lets +onlyGivenNames -underBinder -merge -useContext s2
    have h3 : Kept F s2 := by
      unfold s2
      exact (Kept.of h1 rfl rfl rfl rfl rfl rfl)
    clear_value s2
    extract_lets +onlyGivenNames -underBinder -merge -useContext f4
    have h5 : ∀ (a6 : State) (h7 : Kept F a6) a8, Kept F (f4 a6 a8) := by
      intro a6 h7 a8
      unfold f4
      exact (State.putRes_kept (State.wr_kept h7))
    clear_value f4
    refine Kept.ite ?_ ?_
    · exact (State.putRes_kept (State.memPut_kept h3))
    · extract_lets +onlyGivenNames -underBinder -merge -useContext k9
      clear_value k9
      refine Kept.ite ?_ ?_
      · extract_lets +onlyGivenNames -underBinder -merge -useContext k10 k11
        clear_value k10 k11
        extract_lets +onlyGivenNames -underBinder -merge -useContext f12
        have h13 : ∀ a14, Kept F (f12 a14) := by
          intro a14
          unfold f12
          exact (State.setNor_kept h3 (Nor.program_kept h3))
        clear_value f12
        split
        · exact (State.putRes_kept (h13 _))
        · exact (h5 _ (h13 _) _)
        · exact (h5 _ (h13 _) _)
        · exact (h5 _ (h13 _) _)
      · split
        · exact (State.putRes_kept (State.setNor_kept h3 (Nor.erase_kept h3)))
        · exact (h5 _ (State.setNor_kept h3 (Nor.erase_kept h3)) _)
  · exact h1

theorem resetState_kept {s : State} (h1 : Kept F s) : Kept F (resetState s) := by
  unfold resetState
  extract_lets +onlyGivenNames -underBinder -merge -useContext k2
  clear_value k2
  exact ⟨h1.1, by show 0 < 200000; omega, h1.2.2.1, Tab.wf_nil _, Tab.wf_dropRange _ h1.2.2.2.2.1 _ _, h1.2.2.2.2.2⟩

theorem startBoot_kept {s : State} {cause : Nat} (h1 : Kept F s) : Kept F (startBoot s cause) := by
  unfold startBoot
  extract_lets +onlyGivenNames -underBinder -merge -useContext s2
  have h3 : Kept F s2 := by
    unfold s2
    exact (State.wr_kept (resetState_kept h1))
  clear_value s2
  extract_lets +onlyGivenNames -underBinder -merge -useContext k4
  clear_value k4
  extract_lets +onlyGivenNames -underBinder -merge -useContext s5
  have h6 : Kept F s5 := by
    unfold s5
    exact Kept.readLc h3
  clear_value s5
  exact (Kept.foldl (fun _ _ h7 => (State.setFlag_kept h7)) h6)

theorem fullReset_kept {s : State} {cause : Nat} (h1 : Kept F s) : Kept F (fullReset s cause) := by
  unfold fullReset
  exact (Kept.ite (resetState_kept h1) (startBoot_kept h1))

theorem leaveReset_kept {s : State} (h1 : Kept F s) : Kept F (leaveReset s) := by
  unfold leaveReset
  exact (Kept.ite h1 (startBoot_kept h1))

theorem rstCmd_kept {s : State} {data : BitVec 32} (h1 : Kept F s) : Kept F (rstCmd s data) := by
  unfold rstCmd
  refine Kept.ite ?_ ?_
  · extract_lets +onlyGivenNames -underBinder -merge -useContext k2
    clear_value k2
    exact (Kept.of h1 rfl rfl rfl rfl rfl rfl)
  · exact h1

theorem deviceReset_kept {s : State} {cause : Nat} (h1 : Kept F s) : Kept F (deviceReset s cause) := by
  unfold deviceReset
  split
  · exact (Kept.ite (fullReset_kept h1) h1)
  · exact h1

theorem execPowerGoodRise_kept {s : State} {t : State} (h : Kept F s) (ht : execPowerGoodRise s = .next t) : Kept F t := by
  refine checked_kept h ?_ ht
  refine Kept.ite ?_ ?_
  · exact h
  · extract_lets +onlyGivenNames -underBinder -merge -useContext k1
    clear_value k1
    refine leaveReset_kept ?_
    exact (Kept.of h rfl rfl rfl rfl rfl rfl)

theorem execPowerGoodFall_kept {s t : State} (h : Kept F s) (ht : execPowerGoodFall s = .next t) : Kept F t := by
  refine checked_kept h ?_ ht
  exact Kept.of (resetState_kept h) rfl rfl rfl rfl rfl rfl

theorem execResetAssert_kept {s t : State} (h : Kept F s) (ht : execResetAssert s = .next t) : Kept F t := by
  refine checked_kept h ?_ ht
  exact Kept.of (resetState_kept h) rfl rfl rfl rfl rfl rfl

theorem execResetRelease_kept {s : State} {t : State} (h : Kept F s) (ht : execResetRelease s = .next t) : Kept F t := by
  refine checked_kept h ?_ ht
  refine Kept.ite ?_ ?_
  · exact h
  · extract_lets +onlyGivenNames -underBinder -merge -useContext k1
    clear_value k1
    refine leaveReset_kept ?_
    exact (Kept.of h rfl rfl rfl rfl rfl rfl)

theorem execCoreClockStable_kept {s : State} {t : State} (h : Kept F s) (ht : execCoreClockStable s = .next t) : Kept F t := by
  refine checked_kept h ?_ ht
  refine Kept.ite ?_ ?_
  · exact h
  · refine setStep_kept ?_
    exact ⟨h.1, by show 0 < 200000; omega, h.2.2⟩

theorem execAlignWaitTimeout_kept {s : State} {t : State} (h : Kept F s) (ht : execAlignWaitTimeout s = .next t) : Kept F t :=
  checked_kept h (alignTimeout_kept h) ht

theorem execDataPlaneRelease_kept {s : State} {t : State} (h : Kept F s) (ht : execDataPlaneRelease s = .next t) : Kept F t :=
  checked_kept h (Kept.ite (release_kept h) h) ht

theorem execConfirm_kept {s : State} {t : State} (h : Kept F s) (ht : execConfirm s = .next t) : Kept F t :=
  checked_kept h (State.host_kept h (fun _ h1 => (bootCmd_kept h1))) ht

theorem execLoadHost_kept {s : State} {t : State} (h : Kept F s) (ht : execLoadHost s = .next t) : Kept F t :=
  checked_kept h (State.host_kept h (fun _ h1 => (bootCmd_kept h1))) ht

theorem execBootCmdAck_kept {seq : Nat} {s : State} {t : State} (h : Kept F s) (ht : execBootCmdAck seq s = .next t) : Kept F t :=
  checked_kept h (State.host_kept h (fun _ h1 => (State.ackRes_kept h1))) ht

theorem execRead_kept {dev : Nat} {s : State} {t : State} (h : Kept F s) (ht : execRead dev s = .next t) : Kept F t :=
  checked_kept h (State.host_kept h (fun _ h1 => (flashCmd_kept h1))) ht

theorem execProgram_kept {dev : Nat} {s : State} {t : State} (h : Kept F s) (ht : execProgram dev s = .next t) : Kept F t :=
  checked_kept h (State.host_kept h (fun _ h1 => (flashCmd_kept h1))) ht

theorem execErase_kept {dev : Nat} {s : State} {t : State} (h : Kept F s) (ht : execErase dev s = .next t) : Kept F t :=
  checked_kept h (State.host_kept h (fun _ h1 => (flashCmd_kept h1))) ht

theorem execFlashCommandDone_kept {failAt : Option Nat} {s : State} {t : State} (h : Kept F s) (ht : execFlashCommandDone failAt s = .next t) :
    Kept F t :=
  checked_kept h (flashDone_kept h) ht

theorem execBootFlAck_kept {seq : Nat} {s : State} {t : State} (h : Kept F s) (ht : execBootFlAck seq s = .next t) : Kept F t :=
  checked_kept h (State.host_kept h (fun _ h1 => (State.ackRes_kept h1))) ht

theorem execTopRstCmd_kept {data : BitVec 32} {s : State} {t : State} (h : Kept F s) (ht : execTopRstCmd data s = .next t) : Kept F t :=
  checked_kept h (State.host_kept h (fun _ h1 => (rstCmd_kept h1))) ht

theorem execDeviceReset_kept {cause : Nat} {s : State} {t : State} (h : Kept F s) (ht : execDeviceReset cause s = .next t) : Kept F t :=
  checked_kept h (deviceReset_kept h) ht

theorem execWatchdogExpiry_kept {s : State} {t : State} (h : Kept F s) (ht : execWatchdogExpiry s = .next t) : Kept F t :=
  checked_kept h (Kept.ite (fullReset_kept h) h) ht

end Sys2Proof.Machine
end

