-- ==== Sys2Proof/Laws/KeepDma.lean ====
section
/-! SUPPORT. What Machine/Dma.lean keeps: each operation, and each command, leads from a safe state to a safe state, and no fuse goes back (Safety.lean). -/

namespace Sys2Proof.Machine

variable {F : Fuses}

theorem State.updChan_kept {s : State} {c : Nat} {f : Chan → Chan} (h1 : Kept F s) : Kept F (State.updChan s c f) := by
  unfold State.updChan
  exact (Kept.of h1 rfl rfl rfl rfl rfl rfl)

theorem setChanSt_kept {s : State} {c : Nat} {st : Nat} (h1 : Kept F s) : Kept F (setChanSt s c st) := by
  unfold setChanSt
  exact (State.setFld_kept h1)

theorem chanResult_kept {s : State} {c : Nat} {code : Nat} (h1 : Kept F s) : Kept F (chanResult s c code) := by
  unfold chanResult
  exact (State.msi_kept (State.putRes_kept h1))

theorem chanHalt_kept {s : State} {c : Nat} {code : Nat} (h1 : Kept F s) : Kept F (chanHalt s c code) := by
  unfold chanHalt
  extract_lets +onlyGivenNames -underBinder -merge -useContext s2
  have h3 : Kept F s2 := by
    unfold s2
    split
    · exact (Kept.ite (State.mapBit_kept h1) h1)
    · exact h1
  clear_value s2
  extract_lets +onlyGivenNames -underBinder -merge -useContext s4
  have h5 : Kept F s4 := by
    unfold s4
    exact (State.updChan_kept h3)
  clear_value s4
  exact (chanResult_kept (State.evt_kept (setChanSt_kept h5)))

theorem chanEnd_kept {s : State} {c : Nat} (h1 : Kept F s) : Kept F (chanEnd s c) := by
  unfold chanEnd
  extract_lets +onlyGivenNames -underBinder -merge -useContext s2
  have h3 : Kept F s2 := by
    unfold s2
    exact (State.setFld_kept (setChanSt_kept h1))
  clear_value s2
  exact (chanResult_kept (State.updChan_kept h3))

theorem chanFetch_kept {s : State} {c : Nat} {a : Nat} (h1 : Kept F s) : Kept F (chanFetch s c a) := by
  unfold chanFetch
  exact (Kept.ite (chanHalt_kept h1) (Kept.ite (chanHalt_kept h1) (State.updChan_kept (State.send_kept h1))))

theorem chanAsk_kept {s : State} {c : Nat} (h1 : Kept F s) : Kept F (chanAsk s c) := by
  unfold chanAsk
  extract_lets +onlyGivenNames -underBinder -merge -useContext k2
  clear_value k2
  split
  · extract_lets +onlyGivenNames -underBinder -merge -useContext k3 k4
    clear_value k3 k4
    exact (Kept.ite (State.updChan_kept (State.send_kept h1)) h1)
  · exact h1

theorem chanCmd_kept {s : State} {c : Nat} {op : Nat} (h1 : Kept F s) : Kept F (chanCmd s c op) := by
  unfold chanCmd
  extract_lets +onlyGivenNames -underBinder -merge -useContext k2
  clear_value k2
  extract_lets +onlyGivenNames -underBinder -merge -useContext s3
  have h4 : Kept F s3 := by
    unfold s3
    exact (State.evt_kept h1)
  clear_value s3
  refine Kept.ite ?_ ?_
  · exact h1
  · refine Kept.ite ?_ ?_
    · exact h4
    · refine Kept.ite ?_ ?_
      · extract_lets +onlyGivenNames -underBinder -merge -useContext s5
        have h6 : Kept F s5 := by
          unfold s5
          exact (State.setFld_kept (setChanSt_kept h1))
        clear_value s5
        exact (chanFetch_kept (State.updChan_kept h6))
      · exact (Kept.ite (setChanSt_kept h1) (Kept.ite (State.updChan_kept (State.setFld_kept (setChanSt_kept h1))) h4))

theorem chanConfigWrite_kept {s : State} {c : Nat} {reg : Nat} {data : BitVec 32} (h1 : Kept F s) : Kept F (chanConfigWrite s c reg data) := by
  unfold chanConfigWrite
  exact (Kept.ite h1 (Kept.ite (State.evt_kept h1) (regWrite_kept h1)))

theorem descFetch_kept {s : State} {c : Nat} {b : List Byte} {error : Bool} (h1 : Kept F s) : Kept F (descFetch s c b error) := by
  unfold descFetch
  split
  · extract_lets +onlyGivenNames -underBinder -merge -useContext s2
    have h3 : Kept F s2 := by
      unfold s2
      exact (State.updChan_kept h1)
    clear_value s2
    refine Kept.ite ?_ ?_
    · exact (chanHalt_kept h3)
    · extract_lets +onlyGivenNames -underBinder -merge -useContext k4 k5
      clear_value k4 k5
      extract_lets +onlyGivenNames -underBinder -merge -useContext s6
      have h7 : Kept F s6 := by
        unfold s6
        exact (State.wrPair_kept h3)
      clear_value s6
      extract_lets +onlyGivenNames -underBinder -merge -useContext s8
      have h9 : Kept F s8 := by
        unfold s8
        exact (State.setFld_kept h7)
      clear_value s8
      extract_lets +onlyGivenNames -underBinder -merge -useContext s10
      have h11 : Kept F s10 := by
        unfold s10
        exact (State.setFld_kept h9)
      clear_value s10
      extract_lets +onlyGivenNames -underBinder -merge -useContext k12
      clear_value k12
      exact (chanAsk_kept (State.updChan_kept h11))
  · exact h1

theorem descEnd_kept {s : State} {c : Nat} (h1 : Kept F s) : Kept F (descEnd s c) := by
  unfold descEnd
  extract_lets +onlyGivenNames -underBinder -merge -useContext k2
  clear_value k2
  split
  · extract_lets +onlyGivenNames -underBinder -merge -useContext s3
    have h4 : Kept F s3 := by
      unfold s3
      exact (State.send_kept h1)
    clear_value s3
    extract_lets +onlyGivenNames -underBinder -merge -useContext s5
    have h6 : Kept F s5 := by
      unfold s5
      exact (Kept.ite h4 (State.count_kept h4))
    clear_value s5
    extract_lets +onlyGivenNames -underBinder -merge -useContext k7 k8
    clear_value k7 k8
    refine Kept.ite ?_ ?_
    · exact (chanHalt_kept h6)
    · refine Kept.ite ?_ ?_
      · exact (chanEnd_kept h6)
      · refine Kept.ite ?_ ?_
        · exact (chanHalt_kept h6)
        · extract_lets +onlyGivenNames -underBinder -merge -useContext s9
          have h10 : Kept F s9 := by
            unfold s9
            exact (Kept.ite (State.msi_kept h6) h6)
          clear_value s9
          exact (chanFetch_kept (State.updChan_kept h10))
  · exact h1

theorem targetTimeout_kept {s : State} {c : Nat} (h1 : Kept F s) : Kept F (targetTimeout s c) := by
  unfold targetTimeout
  extract_lets +onlyGivenNames -underBinder -merge -useContext k2 k3
  clear_value k2 k3
  split
  · exact (Kept.ite (chanHalt_kept (State.updChan_kept h1)) h1)
  · exact (Kept.ite (State.updChan_kept h1) h1)

theorem hostReadDone_kept {s : State} {c : Nat} {b : List Byte} {error : Bool} (h1 : Kept F s) : Kept F (hostReadDone s c b error) := by
  unfold hostReadDone
  split
  · refine Kept.ite ?_ ?_
    · exact (State.updChan_kept h1)
    · extract_lets +onlyGivenNames -underBinder -merge -useContext k2
      clear_value k2
      exact (State.updChan_kept h1)
  · exact h1

theorem runStart_kept {s : State} {q : Nat} (h1 : Kept F s) : Kept F (runStart s q) := by
  unfold runStart
  split
  · exact (Kept.ite h1 (Kept.ite (State.setQue_kept h1) (Kept.ite (State.setQue_kept h1) h1)))
  · exact h1

theorem execGo_kept {ch : Nat} {s : State} {t : State} (h : Kept F s) (ht : execGo ch s = .next t) : Kept F t :=
  checked_kept h (State.host_kept h (fun _ h1 => (chanCmd_kept h1))) ht

theorem execStop_kept {ch : Nat} {s : State} {t : State} (h : Kept F s) (ht : execStop ch s = .next t) : Kept F t :=
  checked_kept h (State.host_kept h (fun _ h1 => (chanCmd_kept h1))) ht

theorem execReset_kept {ch : Nat} {s : State} {t : State} (h : Kept F s) (ht : execReset ch s = .next t) : Kept F t :=
  checked_kept h (State.host_kept h (fun _ h1 => (chanCmd_kept h1))) ht

theorem execDmaChAck_kept {ch : Nat} {seq : Nat} {s : State} {t : State} (h : Kept F s) (ht : execDmaChAck ch seq s = .next t) : Kept F t :=
  checked_kept h (State.host_kept h (fun _ h1 => (State.ackRes_kept h1))) ht

theorem execDmaConfigWrite_kept {ch : Nat} {reg : Nat} {data : BitVec 32} {s : State} {t : State} (h : Kept F s) (ht : execDmaConfigWrite ch reg data s = .next t) :
    Kept F t :=
  checked_kept h (State.host_kept h (fun _ h1 => (chanConfigWrite_kept h1))) ht

theorem execDescriptorFetch_kept {ch : Nat} {bytes : List Byte} {error : Bool} {s : State} {t : State} (h : Kept F s) (ht : execDescriptorFetch ch bytes error s = .next t) :
    Kept F t :=
  checked_kept h (descFetch_kept h) ht

theorem execDescriptorEnd_kept {ch : Nat} {s : State} {t : State} (h : Kept F s) (ht : execDescriptorEnd ch s = .next t) : Kept F t :=
  checked_kept h (descEnd_kept h) ht

theorem execTargetTimeout_kept {ch : Nat} {s : State} {t : State} (h : Kept F s) (ht : execTargetTimeout ch s = .next t) : Kept F t :=
  checked_kept h (targetTimeout_kept h) ht

theorem execQueueRunStart_kept {q : Nat} {s : State} {t : State} (h : Kept F s) (ht : execQueueRunStart q s = .next t) : Kept F t :=
  checked_kept h (runStart_kept h) ht

theorem execHostReadCompletion_kept {ch : Nat} {bytes : List Byte} {error : Bool} {s : State} {t : State} (h : Kept F s) (ht : execHostReadCompletion ch bytes error s = .next t) :
    Kept F t :=
  checked_kept h (hostReadDone_kept h) ht

end Sys2Proof.Machine
end

