-- ==== Sys2Proof/Laws/KeepGraft.lean ====
section
/-! SUPPORT. What Machine/Graft.lean keeps: each operation, and each command, leads from a safe state to a safe state, and no fuse goes back (Safety.lean). -/

namespace Sys2Proof.Machine

variable {F : Fuses}

theorem setG_kept {s : State} {n : Nat} {st : Nat} (h1 : Kept F s) : Kept F (setG s n st) := by
  unfold setG
  exact (State.setFld_kept h1)

theorem gClear_kept {s : State} {n : Nat} (h1 : Kept F s) : Kept F (gClear s n) := by
  unfold gClear
  extract_lets +onlyGivenNames -underBinder -merge -useContext s2
  have h3 : Kept F s2 := by
    unfold s2
    exact (State.wr_kept (State.wr_kept (State.wr_kept (State.wr_kept h1))))
  clear_value s2
  extract_lets +onlyGivenNames -underBinder -merge -useContext s4
  have h5 : Kept F s4 := by
    unfold s4
    exact (State.putDigest_kept h3)
  clear_value s4
  exact (Kept.of h5 rfl rfl rfl rfl rfl rfl)

theorem graftBegin_kept {s : State} (h1 : Kept F s) : Kept F (graftBegin s) := by
  unfold graftBegin
  split
  · refine Kept.ite ?_ ?_
    · exact h1
    · extract_lets +onlyGivenNames -underBinder -merge -useContext k2
      clear_value k2
      extract_lets +onlyGivenNames -underBinder -merge -useContext s3
      have h4 : Kept F s3 := by
        unfold s3
        exact (State.wr_kept h1)
      clear_value s3
      exact (Kept.of h4 rfl rfl rfl rfl rfl rfl)
  · exact h1

theorem reject1_kept {s : State} {n : Nat} {code : Nat} {detail : Nat} (h1 : Kept F s) : Kept F (reject1 s n code detail) := by
  unfold reject1
  extract_lets +onlyGivenNames -underBinder -merge -useContext s2
  have h3 : Kept F s2 := by
    unfold s2
    exact (Kept.ite (State.setFlag_kept h1) h1)
  clear_value s2
  extract_lets +onlyGivenNames -underBinder -merge -useContext s4
  have h5 : Kept F s4 := by
    unfold s4
    exact (State.evt_kept (State.putRes_kept (setG_kept h3)))
  clear_value s4
  exact (Kept.of h5 rfl rfl rfl rfl rfl rfl)

theorem chainBreak_kept {s : State} {t : Nat} (h1 : Kept F s) : Kept F (chainBreak s t) := by
  unfold chainBreak
  refine graftBegin_kept ?_
  exact (Kept.foldl (fun _ _ h2 => (reject1_kept h2)) h1)

theorem graftReject_kept {s : State} {n : Nat} {code : Nat} {detail : Nat} (h1 : Kept F s) : Kept F (graftReject s n code detail) := by
  unfold graftReject
  extract_lets +onlyGivenNames -underBinder -merge -useContext k2 k3
  clear_value k2 k3
  extract_lets +onlyGivenNames -underBinder -merge -useContext s4
  have h5 : Kept F s4 := by
    unfold s4
    exact (reject1_kept h1)
  clear_value s4
  exact (Kept.ite (chainBreak_kept h5) h5)

theorem graftEnter_kept {s : State} {n : Nat} {rollback : Bool} (h1 : Kept F s) : Kept F (graftEnter s n rollback) := by
  unfold graftEnter
  extract_lets +onlyGivenNames -underBinder -merge -useContext k2 k3
  clear_value k2 k3
  extract_lets +onlyGivenNames -underBinder -merge -useContext s4
  have h5 : Kept F s4 := by
    unfold s4
    exact (State.setFlag_kept (State.wrPair_kept h1))
  clear_value s4
  extract_lets +onlyGivenNames -underBinder -merge -useContext s6
  have h7 : Kept F s6 := by
    unfold s6
    exact (setG_kept h5)
  clear_value s6
  refine graftBegin_kept ?_
  exact (Kept.of h7 rfl rfl rfl rfl rfl rfl)

theorem graftCmd_kept {s : State} {op : Nat} {entry : Nat} (h1 : Kept F s) : Kept F (graftCmd s op entry) := by
  unfold graftCmd
  refine Kept.ite ?_ ?_
  · exact h1
  · refine Kept.ite ?_ ?_
    · exact (State.evt_kept h1)
    · extract_lets +onlyGivenNames -underBinder -merge -useContext k2 k3 k4 k5
      clear_value k2 k3 k4 k5
      extract_lets +onlyGivenNames -underBinder -merge -useContext s6
      have h7 : Kept F s6 := by
        unfold s6
        exact (State.putRes_kept h1)
      clear_value s6
      refine Kept.ite ?_ ?_
      · exact h7
      · refine Kept.ite ?_ ?_
        · exact (setG_kept h7)
        · refine Kept.ite ?_ ?_
          · exact (graftEnter_kept h7)
          · refine Kept.ite ?_ ?_
            · extract_lets +onlyGivenNames -underBinder -merge -useContext k8 k9
              clear_value k8 k9
              extract_lets +onlyGivenNames -underBinder -merge -useContext s10
              have h11 : Kept F s10 := by
                unfold s10
                exact (gClear_kept h7)
              clear_value s10
              exact (Kept.ite (chainBreak_kept h11) h11)
            · exact (graftEnter_kept h7)

theorem graftAck_kept {s : State} {n : Nat} {seq : Nat} (h1 : Kept F s) : Kept F (graftAck s n seq) := by
  unfold graftAck
  extract_lets +onlyGivenNames -underBinder -merge -useContext k2
  clear_value k2
  exact (Kept.ite (gClear_kept (State.ackRes_kept h1)) h1)

theorem graftPass_kept {s : State} {n : Nat} {m : Image} {gtag : Nat} {hits : Nat} (h1 : Kept F s) : Kept F (graftPass s n m gtag hits) := by
  unfold graftPass
  extract_lets +onlyGivenNames -underBinder -merge -useContext s2
  have h3 : Kept F s2 := by
    unfold s2
    exact (State.wr_kept (State.putDigest_kept h1))
  clear_value s2
  extract_lets +onlyGivenNames -underBinder -merge -useContext s4
  have h5 : Kept F s4 := by
    unfold s4
    exact (State.setFlag_kept (State.wr_kept h3))
  clear_value s4
  extract_lets +onlyGivenNames -underBinder -merge -useContext s6
  have h7 : Kept F s6 := by
    unfold s6
    exact (Kept.of h5 rfl rfl rfl rfl rfl rfl)
  clear_value s6
  split
  · exact (Kept.of h7 rfl rfl rfl rfl rfl rfl)
  · exact h7

theorem graftStage_kept {s : State} {n : Nat} {m : Image} (h1 : Kept F s) : Kept F (graftStage s n m) := by
  unfold graftStage
  extract_lets +onlyGivenNames -underBinder -merge -useContext s2
  have h3 : Kept F s2 := by
    unfold s2
    exact (Kept.foldl (fun _ _ h4 => (Kept.ite (domRise_kept h4) h4)) h1)
  clear_value s2
  exact (Kept.ite (graftBegin_kept (setG_kept (elsDrive_kept h3))) h3)

theorem graftValidated_kept {s : State} {n : Nat} (h1 : Kept F s) : Kept F (graftValidated s n) := by
  unfold graftValidated
  refine Kept.ite ?_ ?_
  · exact h1
  · split
    · exact (graftStage_kept h1)
    · split
      · exact (graftReject_kept h1)
      · exact (graftStage_kept (graftPass_kept h1))

theorem graftArm_kept {s : State} (h1 : Kept F s) : Kept F (graftArm s) := by
  unfold graftArm
  refine Kept.ite ?_ ?_
  · exact h1
  · split
    · exact (Kept.ite (setG_kept h1) (graftReject_kept h1))
    · exact h1

theorem shadowReady_kept {s : State} (h1 : Kept F s) : Kept F (shadowReady s) := by
  unfold shadowReady
  exact (Kept.ite (State.setFlag_kept h1) h1)

theorem dropFails_kept {s : State} {old : Image} {m : Image} (h1 : Kept F s) : Kept F (dropFails s old m) := by
  unfold dropFails
  extract_lets +onlyGivenNames -underBinder -merge -useContext k2
  clear_value k2
  exact (Kept.of h1 rfl rfl rfl rfl rfl rfl)

theorem pmCut_kept {s : State} {k : Nat} {go : Bool} (h1 : Kept F s) : Kept F (pmCut s k go) := by
  unfold pmCut
  exact (State.updPm_kept h1)

theorem graftPm_kept {s : State} {old : Image} {m : Image} (h1 : Kept F s) : Kept F (graftPm s old m) := by
  unfold graftPm
  extract_lets +onlyGivenNames -underBinder -merge -useContext k2 k3
  clear_value k2 k3
  extract_lets +onlyGivenNames -underBinder -merge -useContext s4
  have h5 : Kept F s4 := by
    unfold s4
    exact (Kept.foldl (fun _ _ h6 => (pmCut_kept h6)) h1)
  clear_value s4
  exact (Kept.foldl (fun _ _ h7 => (Kept.ite (Kept.ite h7 (pmCut_kept h7)) (State.updPm_kept h7))) h5)

theorem portGone_kept {s : State} {y2 : PortDef} (h1 : Kept F s) : Kept F (portGone s y2) := by
  unfold portGone
  extract_lets +onlyGivenNames -underBinder -merge -useContext k3
  clear_value k3
  extract_lets +onlyGivenNames -underBinder -merge -useContext s4
  have h5 : Kept F s4 := by
    unfold s4
    exact (Kept.of h1 rfl rfl rfl rfl rfl rfl)
  clear_value s4
  extract_lets +onlyGivenNames -underBinder -merge -useContext s6
  have h7 : Kept F s6 := by
    unfold s6
    exact (Kept.foldl (fun _ _ h8 => (putStat_kept h8)) h5)
  clear_value s6
  extract_lets +onlyGivenNames -underBinder -merge -useContext s9
  have h10 : Kept F s9 := by
    unfold s9
    exact (putStat_kept h7)
  clear_value s9
  extract_lets +onlyGivenNames -underBinder -merge -useContext s11
  have h12 : Kept F s11 := by
    unfold s11
    exact (State.wr_kept h10)
  clear_value s11
  exact (Kept.foldl (fun _ _ h13 => (State.updLane_kept (State.setFlag_kept h13))) h12)

theorem graftPorts_kept {s : State} {old : Image} {m : Image} (h1 : Kept F s) : Kept F (graftPorts s old m) := by
  unfold graftPorts
  extract_lets +onlyGivenNames -underBinder -merge -useContext s2
  have h3 : Kept F s2 := by
    unfold s2
    exact (Kept.foldl (fun _ _ h4 => (portGone_kept h4)) h1)
  clear_value s2
  extract_lets +onlyGivenNames -underBinder -merge -useContext s5
  have h6 : Kept F s5 := by
    unfold s5
    exact (Kept.foldl (fun _ _ h7 => (Kept.of h7 rfl rfl rfl rfl rfl rfl)) h3)
  clear_value s5
  exact (Kept.foldl (fun _ _ h8 => (groupEval_kept h8)) h6)

theorem graftOdus_kept {s : State} {old : Image} {m : Image} (h1 : Kept F s) : Kept F (graftOdus s old m) := by
  unfold graftOdus
  extract_lets +onlyGivenNames -underBinder -merge -useContext k2 k3
  clear_value k2 k3
  extract_lets +onlyGivenNames -underBinder -merge -useContext s4
  have h5 : Kept F s4 := by
    unfold s4
    exact (Kept.of h1 rfl rfl rfl rfl rfl rfl)
  clear_value s4
  exact (Kept.foldl (fun _ _ h6 => (putStat_kept (putStat_kept h6))) h5)

theorem graftTrace_kept {s : State} {m : Image} (h1 : Kept F s) : Kept F (graftTrace s m) := by
  unfold graftTrace
  extract_lets +onlyGivenNames -underBinder -merge -useContext f2
  have h3 : ∀ (a4 : State) (h5 : Kept F a4) a6 a7, Kept F (f2 a4 a6 a7) := by
    intro a4 h5 a6 a7
    unfold f2
    exact (State.setDefNext_kept h5)
  clear_value f2
  extract_lets +onlyGivenNames -underBinder -merge -useContext s8
  have h9 : Kept F s8 := by
    unfold s8
    exact (Kept.foldl (fun _ _ h10 => (h3 _ (h3 _ h10 _ _) _ _)) h1)
  clear_value s8
  extract_lets +onlyGivenNames -underBinder -merge -useContext s11
  have h12 : Kept F s11 := by
    unfold s11
    refine Kept.foldl (fun _ _ h13 => ?_) h9
    extract_lets +onlyGivenNames -underBinder -merge -useContext s14
    have h15 : Kept F s14 := by
      unfold s14
      exact (State.setDefNext_kept (h3 _ h13 _ _))
    clear_value s14
    exact (Kept.foldl (fun _ _ h16 => (Kept.ite (h3 _ h16 _ _) h16)) h15)
  clear_value s11
  exact (Kept.foldl (fun _ _ h17 => (State.setDefNext_kept h17)) h12)

theorem graftQueues_kept {s : State} {old : Image} {m : Image} (h1 : Kept F s) : Kept F (graftQueues s old m) := by
  unfold graftQueues
  extract_lets +onlyGivenNames -underBinder -merge -useContext k2
  clear_value k2
  extract_lets +onlyGivenNames -underBinder -merge -useContext s3
  have h4 : Kept F s3 := by
    unfold s3
    refine Kept.foldl (fun _ _ h5 => ?_) h1
    extract_lets +onlyGivenNames -underBinder -merge -useContext k6
    extract_lets +onlyGivenNames -underBinder -merge -useContext s7
    have h8 : Kept F s7 := by
      unfold s7
      exact (Kept.ite h5 (State.queDrop_kept h5))
    clear_value s7
    exact (Kept.of h8 rfl rfl rfl rfl rfl rfl)
  clear_value s3
  exact (Kept.of h4 rfl rfl rfl rfl rfl rfl)

theorem apsRestart_kept {s : State} {d : ProtDef} (h1 : Kept F s) : Kept F (apsRestart s d) := by
  unfold apsRestart
  exact (Kept.ite h1 (Kept.foldl (fun _ _ h2 => (State.updOdu_kept h2)) h1))

theorem groupMove_kept {pre : State} {s : State} {o : ProtDef} {d : ProtDef} (h1 : Kept F pre) (h2 : Kept F s) : Kept F (groupMove pre s o d) := by
  unfold groupMove
  extract_lets +onlyGivenNames -underBinder -merge -useContext k3
  clear_value k3
  extract_lets +onlyGivenNames -underBinder -merge -useContext s4
  have h5 : Kept F s4 := by
    unfold s4
    exact (nrSend_kept (State.updGrp_kept (apsRestart_kept h2)))
  clear_value s4
  extract_lets +onlyGivenNames -underBinder -merge -useContext s6
  have h7 : Kept F s6 := by
    unfold s6
    exact (selRecount_kept h5)
  clear_value s6
  refine Kept.ite ?_ ?_
  · exact h7
  · extract_lets +onlyGivenNames -underBinder -merge -useContext s8
    have h9 : Kept F s8 := by
      unfold s8
      exact (Kept.ite h7 (protEvent_kept h7))
    clear_value s8
    extract_lets +onlyGivenNames -underBinder -merge -useContext s10
    have h11 : Kept F s10 := by
      unfold s10
      exact (Kept.ite h9 (protEvent_kept h9))
    clear_value s10
    exact (protEvent_kept h11)

theorem graftGroup_kept {pre : State} {s : State} {old : Image} {d3 : ProtDef} (h1 : Kept F pre) (h2 : Kept F s) :
    Kept F (graftGroup pre s old d3) := by
  unfold graftGroup
  extract_lets +onlyGivenNames -underBinder -merge -useContext s4
  have h5 : Kept F s4 := by
    unfold s4
    exact (nrSend_kept (State.updGrp_kept (apsRestart_kept h2)))
  clear_value s4
  split
  · exact (Kept.ite (State.updGrp_kept h2) (Kept.ite (groupMove_kept h1 h2) h5))
  · exact h5

theorem groupGone_kept {s : State} {n : Nat} (h1 : Kept F s) : Kept F (groupGone s n) := by
  unfold groupGone
  extract_lets +onlyGivenNames -underBinder -merge -useContext s2
  have h3 : Kept F s2 := by
    unfold s2
    exact (putStat_kept h1)
  clear_value s2
  extract_lets +onlyGivenNames -underBinder -merge -useContext s4
  have h5 : Kept F s4 := by
    unfold s4
    exact (State.wr_kept (State.wr_kept (State.wr_kept (State.wr_kept h3))))
  clear_value s4
  exact (Kept.of h5 rfl rfl rfl rfl rfl rfl)

theorem graftGroups_kept {pre : State} {s : State} {old : Image} {m : Image} (h1 : Kept F pre) (h2 : Kept F s) :
    Kept F (graftGroups pre s old m) := by
  unfold graftGroups
  extract_lets +onlyGivenNames -underBinder -merge -useContext s3
  have h4 : Kept F s3 := by
    unfold s3
    exact (Kept.foldl (fun _ _ h5 => (groupGone_kept h5)) h2)
  clear_value s3
  extract_lets +onlyGivenNames -underBinder -merge -useContext k6 k7
  clear_value k6 k7
  extract_lets +onlyGivenNames -underBinder -merge -useContext s8
  have h9 : Kept F s8 := by
    unfold s8
    exact (Kept.of h4 rfl rfl rfl rfl rfl rfl)
  clear_value s8
  extract_lets +onlyGivenNames -underBinder -merge -useContext s10
  have h11 : Kept F s10 := by
    unfold s10
    exact (Kept.foldl (fun _ _ h12 => (graftGroup_kept h1 h12)) h9)
  clear_value s10
  refine Kept.foldl (fun _ _ h13 => ?_) ?_
  · exact (grpRegs_kept h13)
  · exact (Kept.of h11 rfl rfl rfl rfl rfl rfl)

theorem setDuties_kept {s : State} {l : List (Nat × Nat × Dword)} (h1 : Kept F s) : Kept F (setDuties s l) := by
  unfold setDuties
  exact (Kept.foldl (fun _ _ h2 => (State.updEng_kept h2)) h1)

theorem mirrorStore_kept {s : State} (h1 : Kept F s) : Kept F (mirrorStore s) := by
  unfold mirrorStore
  split
  · exact (Kept.ite (setDuties_kept (mirrorApply_kept h1)) (mirrorApply_kept h1))
  · exact (mirrorApply_kept h1)

theorem execMirrorApply_kept {s : State} {t : State} (h : Kept F s) (ht : execMirrorApply s = .next t) : Kept F t :=
  checked_kept h (mirrorStore_kept h) ht

theorem graftEngines_kept {s : State} {old : Image} {m : Image} (h1 : Kept F s) : Kept F (graftEngines s old m) := by
  unfold graftEngines
  extract_lets +onlyGivenNames -underBinder -merge -useContext k2
  clear_value k2
  extract_lets +onlyGivenNames -underBinder -merge -useContext s3
  have h4 : Kept F s3 := by
    unfold s3
    exact (Kept.foldl (fun _ _ h5 => (Kept.ite (State.setFlag_kept h5) h5)) h1)
  clear_value s3
  exact (setDuties_kept (engLive_kept (engStates_kept h4)))

theorem graftTiming_kept {s : State} {old : Image} {m : Image} (h1 : Kept F s) : Kept F (graftTiming s old m) := by
  unfold graftTiming
  extract_lets +onlyGivenNames -underBinder -merge -useContext k2 k3 k4 k5
  clear_value k2 k3 k4 k5
  extract_lets +onlyGivenNames -underBinder -merge -useContext s6
  have h7 : Kept F s6 := by
    unfold s6
    exact (timSettings_kept h1)
  clear_value s6
  extract_lets +onlyGivenNames -underBinder -merge -useContext s8
  have h9 : Kept F s8 := by
    unfold s8
    exact (Kept.foldl (fun _ _ h10 => (Kept.ite (State.updRef_kept h10) h10)) h7)
  clear_value s8
  extract_lets +onlyGivenNames -underBinder -merge -useContext s11
  have h12 : Kept F s11 := by
    unfold s11
    exact (Kept.foldl (fun _ _ h13 => (Kept.ite (State.updRef_kept (setRefSt_kept h13)) h13)) h9)
  clear_value s11
  exact (timRedo_kept h12)

theorem leafMapFlip_kept {s : State} {old : Image} {m : Image} (h1 : Kept F s) : Kept F (leafMapFlip s old m) := by
  unfold leafMapFlip
  extract_lets +onlyGivenNames -underBinder -merge -useContext s2
  have h3 : Kept F s2 := by
    unfold s2
    exact (leafTables_kept h1)
  clear_value s2
  extract_lets +onlyGivenNames -underBinder -merge -useContext k4
  clear_value k4
  extract_lets +onlyGivenNames -underBinder -merge -useContext s5
  have h6 : Kept F s5 := by
    unfold s5
    exact (Kept.of h3 rfl rfl rfl rfl rfl rfl)
  clear_value s5
  refine Kept.ite ?_ ?_
  · extract_lets +onlyGivenNames -underBinder -merge -useContext k7
    clear_value k7
    exact (Kept.of h6 rfl rfl rfl rfl rfl rfl)
  · exact h6

theorem carRegsGone_kept {s : State} {c : Nat} (h1 : Kept F s) : Kept F (carRegsGone s c) := by
  unfold carRegsGone
  extract_lets +onlyGivenNames -underBinder -merge -useContext s2
  have h3 : Kept F s2 := by
    unfold s2
    exact (Kept.ite h1 (State.mapBit_kept (State.wr_kept h1)))
  clear_value s2
  exact (Kept.foldl (fun _ _ h4 => (Kept.ite h4 (State.wr_kept h4))) h3)

theorem leafCarFlip_kept {s : State} {old : Image} {m : Image} (h1 : Kept F s) : Kept F (leafCarFlip s old m) := by
  unfold leafCarFlip
  extract_lets +onlyGivenNames -underBinder -merge -useContext k2 k3
  clear_value k2 k3
  extract_lets +onlyGivenNames -underBinder -merge -useContext s4
  have h5 : Kept F s4 := by
    unfold s4
    exact (Kept.of h1 rfl rfl rfl rfl rfl rfl)
  clear_value s4
  extract_lets +onlyGivenNames -underBinder -merge -useContext s6
  have h7 : Kept F s6 := by
    unfold s6
    exact (Kept.foldl (fun _ _ h8 => (carRegsGone_kept h8)) h5)
  clear_value s6
  exact (Kept.foldl (fun _ _ h9 => (State.setDefNext_kept h9)) h7)

theorem graftLeaf_kept {s : State} {old : Image} {m : Image} (h1 : Kept F s) : Kept F (graftLeaf s old m) := by
  unfold graftLeaf
  exact (leafCarFlip_kept (leafMapFlip_kept h1))

theorem graftTrunk_kept {s : State} {old : Image} {m : Image} (h1 : Kept F s) : Kept F (graftTrunk s old m) := by
  unfold graftTrunk
  extract_lets +onlyGivenNames -underBinder -merge -useContext k2
  clear_value k2
  extract_lets +onlyGivenNames -underBinder -merge -useContext s3
  have h4 : Kept F s3 := by
    unfold s3
    exact (State.setFlag_kept (State.setFlag_kept h1))
  clear_value s3
  extract_lets +onlyGivenNames -underBinder -merge -useContext s5
  have h6 : Kept F s5 := by
    unfold s5
    exact (State.wrPair_kept h4)
  clear_value s5
  extract_lets +onlyGivenNames -underBinder -merge -useContext k7
  clear_value k7
  extract_lets +onlyGivenNames -underBinder -merge -useContext s8
  have h9 : Kept F s8 := by
    unfold s8
    exact (Kept.of h6 rfl rfl rfl rfl rfl rfl)
  clear_value s8
  extract_lets +onlyGivenNames -underBinder -merge -useContext k10
  clear_value k10
  exact (Kept.foldl (fun _ _ h11 => (recentre_kept h11)) h9)

theorem graftFlip_kept {s : State} {old : Image} {m : Image} (h1 : Kept F s) : Kept F (graftFlip s old m) := by
  unfold graftFlip
  extract_lets +onlyGivenNames -underBinder -merge -useContext s2
  have h3 : Kept F s2 := by
    unfold s2
    exact h1
  clear_value s2
  extract_lets +onlyGivenNames -underBinder -merge -useContext k4
  clear_value k4
  extract_lets +onlyGivenNames -underBinder -merge -useContext s5
  have h6 : Kept F s5 := by
    unfold s5
    exact (graftQueues_kept h1)
  clear_value s5
  extract_lets +onlyGivenNames -underBinder -merge -useContext s7
  have h8 : Kept F s7 := by
    unfold s7
    refine dropFails_kept ?_
    exact (Kept.of h6 rfl rfl rfl rfl rfl rfl)
  clear_value s7
  extract_lets +onlyGivenNames -underBinder -merge -useContext s9
  have h10 : Kept F s9 := by
    unfold s9
    exact (Kept.foldl (fun _ _ h11 => (State.postRole_kept h11)) h8)
  clear_value s9
  extract_lets +onlyGivenNames -underBinder -merge -useContext s12
  have h13 : Kept F s12 := by
    unfold s12
    exact (graftLeaf_kept (graftTrunk_kept h10))
  clear_value s12
  extract_lets +onlyGivenNames -underBinder -merge -useContext s14
  have h15 : Kept F s14 := by
    unfold s14
    exact (graftPm_kept (graftOdus_kept (graftPorts_kept h13)))
  clear_value s14
  extract_lets +onlyGivenNames -underBinder -merge -useContext s16
  have h17 : Kept F s16 := by
    unfold s16
    exact (graftEngines_kept (graftGroups_kept h3 h15))
  clear_value s16
  extract_lets +onlyGivenNames -underBinder -merge -useContext s18
  have h19 : Kept F s18 := by
    unfold s18
    exact (graftTiming_kept (graftTrace_kept h17))
  clear_value s18
  extract_lets +onlyGivenNames -underBinder -merge -useContext k20
  clear_value k20
  extract_lets +onlyGivenNames -underBinder -merge -useContext s21
  have h22 : Kept F s21 := by
    unfold s21
    exact (ownTable_kept h19)
  clear_value s21
  extract_lets +onlyGivenNames -underBinder -merge -useContext s23
  have h24 : Kept F s23 := by
    unfold s23
    exact (State.wrPair_kept (State.wrPair_kept h22))
  clear_value s23
  extract_lets +onlyGivenNames -underBinder -merge -useContext s25
  have h26 : Kept F s25 := by
    unfold s25
    exact (State.wrPair_kept (State.wrPair_kept h24))
  clear_value s25
  extract_lets +onlyGivenNames -underBinder -merge -useContext s27
  have h28 : Kept F s27 := by
    unfold s27
    exact (State.wrPair_kept h26)
  clear_value s27
  extract_lets +onlyGivenNames -underBinder -merge -useContext s29
  have h30 : Kept F s29 := by
    unfold s29
    exact (planSettings_kept (chanSettings_kept (xbarSettings_kept h28)))
  clear_value s29
  refine allStat_kept ?_
  exact (Kept.of h30 rfl rfl rfl rfl rfl rfl)

theorem graftMark_kept {s : State} {n : Nat} {m : Image} (h1 : Kept F s) : Kept F (graftMark s n m) := by
  unfold graftMark
  extract_lets +onlyGivenNames -underBinder -merge -useContext s2
  have h3 : Kept F s2 := by
    unfold s2
    exact (State.putRes_kept (setG_kept h1))
  clear_value s2
  extract_lets +onlyGivenNames -underBinder -merge -useContext s4
  have h5 : Kept F s4 := by
    unfold s4
    exact (State.count_kept (State.evt_kept h3))
  clear_value s4
  extract_lets +onlyGivenNames -underBinder -merge -useContext s6
  have h7 : Kept F s6 := by
    unfold s6
    exact (Kept.of h5 rfl rfl rfl rfl rfl rfl)
  clear_value s6
  extract_lets +onlyGivenNames -underBinder -merge -useContext s8
  have h9 : Kept F s8 := by
    unfold s8
    exact (State.wrPair_kept (State.setFlag_kept h7))
  clear_value s8
  exact (State.putDigest_kept h9)

theorem catchUp_kept {s : State} (h1 : Kept F s) : Kept F (catchUp s) := by
  unfold catchUp
  exact (bin24Start_kept (bin15Start_kept (secondEnd_kept (settle_kept h1))))

theorem graftApply_kept {s : State} {memErr : Bool} (h1 : Kept F s) : Kept F (graftApply s memErr) := by
  unfold graftApply
  refine Kept.ite ?_ ?_
  · exact h1
  · split
    · split
      · refine Kept.ite ?_ ?_
        · exact (graftReject_kept h1)
        · refine Kept.ite ?_ ?_
          · exact (graftReject_kept (State.updMate_kept h1))
          · extract_lets +onlyGivenNames -underBinder -merge -useContext k2
            clear_value k2
            extract_lets +onlyGivenNames -underBinder -merge -useContext s3
            have h4 : Kept F s3 := by
              unfold s3
              exact (graftMark_kept h1)
            clear_value s3
            extract_lets +onlyGivenNames -underBinder -merge -useContext s5
            have h6 : Kept F s5 := by
              unfold s5
              exact (Kept.ite (State.evt_kept h4) h4)
            clear_value s5
            exact (elsReform_kept (qlReform_kept (shoot_kept (graftFlip_kept (catchUp_kept h6)))))
      · exact h1
    · exact h1

theorem graftDrain_kept {s : State} (h1 : Kept F s) : Kept F (graftDrain s) := by
  unfold graftDrain
  refine Kept.ite ?_ ?_
  · exact h1
  · extract_lets +onlyGivenNames -underBinder -merge -useContext k2
    clear_value k2
    refine Kept.foldl (fun _ _ h3 => ?_) ?_
    · exact (domDrain_kept h3)
    · exact (Kept.of h1 rfl rfl rfl rfl rfl rfl)

theorem rejectAll_kept {s : State} {l : List Nat} {code : Nat} (h1 : Kept F s) : Kept F (rejectAll s l code) := by
  unfold rejectAll
  exact (Kept.foldl (fun _ _ h2 => (reject1_kept h2)) h1)

theorem execClaim_kept {s : State} {t : State} (h : Kept F s) (ht : execClaim s = .next t) : Kept F t :=
  checked_kept h (State.host_kept h (fun _ h1 => (graftCmd_kept h1))) ht

theorem execCommit_kept {entry : Nat} {s : State} {t : State} (h : Kept F s) (ht : execCommit entry s = .next t) : Kept F t :=
  checked_kept h (State.host_kept h (fun _ h1 => (graftCmd_kept h1))) ht

theorem execCancel_kept {entry : Nat} {s : State} {t : State} (h : Kept F s) (ht : execCancel entry s = .next t) : Kept F t :=
  checked_kept h (State.host_kept h (fun _ h1 => (graftCmd_kept h1))) ht

theorem execRollback_kept {s : State} {t : State} (h : Kept F s) (ht : execRollback s = .next t) : Kept F t :=
  checked_kept h (State.host_kept h (fun _ h1 => (graftCmd_kept h1))) ht

theorem execGraftCmdAck_kept {seq : Nat} {s : State} {t : State} (h : Kept F s) (ht : execGraftCmdAck seq s = .next t) : Kept F t :=
  checked_kept h (State.host_kept h (fun _ h1 => (State.ackRes_kept h1))) ht

theorem execGraftEAck_kept {entry : Nat} {seq : Nat} {s : State} {t : State} (h : Kept F s) (ht : execGraftEAck entry seq s = .next t) : Kept F t :=
  checked_kept h (State.host_kept h (fun _ h1 => (graftAck_kept h1))) ht

theorem execGraftValidationDone_kept {entry : Nat} {s : State} {t : State} (h : Kept F s) (ht : execGraftValidationDone entry s = .next t) :
    Kept F t :=
  checked_kept h (graftValidated_kept h) ht

theorem execGraftArm_kept {s : State} {t : State} (h : Kept F s) (ht : execGraftArm s = .next t) : Kept F t :=
  checked_kept h (graftArm_kept h) ht

theorem execShadowReady_kept {s : State} {t : State} (h : Kept F s) (ht : execShadowReady s = .next t) : Kept F t :=
  checked_kept h (shadowReady_kept h) ht

theorem execGraftApply_kept {memErr : Bool} {s : State} {t : State} (h : Kept F s) (ht : execGraftApply memErr s = .next t) : Kept F t :=
  checked_kept h (graftApply_kept h) ht

theorem execGraftDomainDrain_kept {s : State} {t : State} (h : Kept F s) (ht : execGraftDomainDrain s = .next t) : Kept F t :=
  checked_kept h (graftDrain_kept h) ht

end Sys2Proof.Machine
end

