-- ==== Sys2Proof/Laws/KeepRelabel.lean ====
section
/-! SUPPORT. What Machine/Relabel.lean keeps: each operation, and each command, leads from a safe state to a safe state, and no fuse goes back (Safety.lean). -/

namespace Sys2Proof.Machine

variable {F : Fuses}

theorem relabelSecond_kept {s : State} (h1 : Kept F s) : Kept F (relabelSecond s) := by
  unfold relabelSecond
  refine Kept.ite ?_ ?_
  · extract_lets +onlyGivenNames -underBinder -merge -useContext s2
    have h3 : Kept F s2 := by
      unfold s2
      exact (leafSeconds_kept (lineSeconds_kept (settle_kept h1)))
    clear_value s2
    refine shoot_kept ?_
    exact (Kept.of h3 rfl rfl rfl rfl rfl rfl)
  · exact h1

theorem relabelBins_kept {s : State} {fn : Nat} (h1 : Kept F s) : Kept F (relabelBins s fn) := by
  unfold relabelBins
  refine Kept.ite ?_ ?_
  · exact (Kept.of h1 rfl rfl rfl rfl rfl rfl)
  · extract_lets +onlyGivenNames -underBinder -merge -useContext s2
    have h3 : Kept F s2 := by
      unfold s2
      exact (binMark_kept (binMark_kept h1))
    clear_value s2
    extract_lets +onlyGivenNames -underBinder -merge -useContext k4
    clear_value k4
    extract_lets +onlyGivenNames -underBinder -merge -useContext s5
    have h6 : Kept F s5 := by
      unfold s5
      exact (Kept.of h3 rfl rfl rfl rfl rfl rfl)
    clear_value s5
    exact (binOpen_kept (binOpen_kept h6))

theorem relabelTo_kept {s : State} {fn : Nat} (h1 : Kept F s) : Kept F (relabelTo s fn) := by
  unfold relabelTo
  exact (Kept.ite h1 (remark_kept (relabelBins_kept (relabelSecond_kept (rejectAll_kept h1)))))

theorem stepStart_kept {s : State} (h1 : Kept F s) : Kept F (stepStart s) := by
  unfold stepStart
  extract_lets +onlyGivenNames -underBinder -merge -useContext s2
  have h3 : Kept F s2 := by
    unfold s2
    exact (relabelTo_kept h1)
  clear_value s2
  refine Kept.ite ?_ ?_
  · exact (stepDone_kept h3)
  · extract_lets +onlyGivenNames -underBinder -merge -useContext s4
    have h5 : Kept F s4 := by
      unfold s4
      exact (State.setFld_kept h3)
    clear_value s4
    exact (Kept.of h5 rfl rfl rfl rfl rfl rfl)

theorem relabel_kept {s : State} (h1 : Kept F s) : Kept F (relabel s) := by
  unfold relabel
  refine Kept.ite ?_ ?_
  · exact h1
  · extract_lets +onlyGivenNames -underBinder -merge -useContext k2
    clear_value k2
    refine Kept.ite ?_ ?_
    · exact (stepStart_kept h1)
    · refine Kept.ite ?_ ?_
      · exact h1
      · refine Kept.ite ?_ ?_
        · exact (relabelTo_kept (State.updMate_kept h1))
        · split
          · exact (relabelTo_kept (State.updMate_kept h1))
          · exact h1

theorem execRelabel_kept {s : State} {t : State} (h : Kept F s) (ht : execRelabel s = .next t) : Kept F t :=
  checked_kept h (relabel_kept h) ht

end Sys2Proof.Machine
end

