-- ==== Sys2Proof/Laws/KeepRegRead.lean ====
section
/-! SUPPORT. What Machine/RegRead.lean keeps: each operation, and each command, leads from a safe state to a safe state, and no fuse goes back (Safety.lean). -/

namespace Sys2Proof.Machine

variable {F : Fuses}

theorem snapTake_kept {s : State} {a : Nat} (h1 : Kept F s) : Kept F (snapTake s a) := by
  unfold snapTake
  exact (Kept.ite (Kept.of h1 rfl rfl rfl rfl rfl rfl) h1)

theorem engCaught_kept {s : State} {a : Nat} (h1 : Kept F s) : Kept F (engCaught s a) := by
  unfold engCaught
  extract_lets +onlyGivenNames -underBinder -merge -useContext k2
  clear_value k2
  extract_lets +onlyGivenNames -underBinder -merge -useContext f3
  have h4 : ∀ (a5 : State) (h6 : Kept F a5) a7, Kept F (f3 a5 a7) := by
    intro a5 h6 a7
    unfold f3
    exact (Kept.ite (engFill_kept h6) h6)
  clear_value f3
  exact (Kept.ite (h4 _ h1 _) (Kept.ite (Kept.foldl (fun _ _ h8 => (h4 _ h8 _)) h1) h1))

theorem csrRead_kept {s : State} {a : Nat} (h1 : Kept F s) : Kept F (csrRead s a).2 := by
  unfold csrRead
  exact (Kept.ite_snd (snapTake_kept (engCaught_kept h1)) (State.defaultTarget_kept h1))

end Sys2Proof.Machine
end

