-- ==== Sys2Proof/Laws/KeepLife.lean ====
section
/-! SUPPORT. What Machine/Life.lean keeps: each operation, and each command, leads from a safe state to a safe state, and no fuse goes back (Safety.lean). -/

namespace Sys2Proof.Machine

variable {F : Fuses}

theorem masterReset_kept {s : State} {m : Nat} (h1 : Kept F s) : Kept F (masterReset s m) := by
  unfold masterReset
  extract_lets +onlyGivenNames -underBinder -merge -useContext s2
  have h3 : Kept F s2 := by
    unfold s2
    exact (Kept.foldl (fun _ _ h4 => (Kept.ite h4 (State.setFld_kept (State.setFld_kept (State.evt_kept h4))))) h1)
  clear_value s2
  exact (Kept.of h3 rfl rfl rfl rfl rfl rfl)

theorem debugCut_kept {s : State} (h1 : Kept F s) : Kept F (debugCut s) := by
  unfold debugCut
  split
  · exact (Kept.ite (csrRead_kept h1) h1)
  · exact h1

theorem sessionClose_kept {s : State} (h1 : Kept F s) : Kept F (sessionClose s) := by
  unfold sessionClose
  extract_lets +onlyGivenNames -underBinder -merge -useContext s2
  have h3 : Kept F s2 := by
    unfold s2
    exact (debugCut_kept h1)
  clear_value s2
  extract_lets +onlyGivenNames -underBinder -merge -useContext k4
  clear_value k4
  refine masterReset_kept ?_
  exact (Kept.of h3 rfl rfl rfl rfl rfl rfl)

theorem captureClose_kept {s : State} (h1 : Kept F s) : Kept F (captureClose s) := by
  unfold captureClose
  extract_lets +onlyGivenNames -underBinder -merge -useContext k2
  clear_value k2
  exact (Kept.of h1 rfl rfl rfl rfl rfl rfl)

theorem pathsClose_kept {s : State} (h1 : Kept F s) : Kept F (pathsClose s) := by
  unfold pathsClose
  exact (captureClose_kept (sessionClose_kept h1))

theorem lcCmd_kept {s : State} {target key : Nat} (h1 : Kept F s) : Kept F (lcCmd s target key) := by
  unfold lcCmd
  extract_lets +onlyGivenNames -underBinder -merge -useContext st
  split
  · exact h1
  · split
    · exact State.evt_kept h1
    · split
      · exact State.putRes_kept h1
      · split
        · extract_lets +onlyGivenNames -underBinder -merge -useContext s2
          have h3 : Kept F s2 := pathsClose_kept (State.putRes_kept h1)
          clear_value s2
          exact lcProgram_kept (Kept.of h3 rfl rfl rfl rfl rfl rfl)
        · split
          · have h5 : Kept F (s.putRes Reg.LC_RES cOK 0) := State.putRes_kept h1
            extract_lets +onlyGivenNames -underBinder -merge -useContext s6
            have h6 : Kept F s6 := h5
            clear_value s6
            exact Kept.of h6 rfl rfl rfl rfl rfl rfl
          · exact State.putRes_kept h1

theorem lcReturnStep_kept {s : State} (h1 : Kept F s) : Kept F (lcReturnStep s) := by
  unfold lcReturnStep
  split
  · refine Kept.ite ?_ ?_
    · extract_lets +onlyGivenNames -underBinder -merge -useContext s2
      have h3 : Kept F s2 := by
        unfold s2
        exact (quietEnter_kept h1)
      clear_value s2
      extract_lets +onlyGivenNames -underBinder -merge -useContext s4
      have h5 : Kept F s4 := by
        unfold s4
        exact (Kept.ite (toDiverged_kept h3) h3)
      clear_value s4
      extract_lets +onlyGivenNames -underBinder -merge -useContext s6
      have h7 : Kept F s6 := by
        unfold s6
        exact (pathsClose_kept (rejectAll_kept h5))
      clear_value s6
      extract_lets +onlyGivenNames -underBinder -merge -useContext s8
      have h9 : Kept F s8 := by
        unfold s8
        exact (lcProgram_kept h7)
      clear_value s8
      refine pwrShow_kept ?_
      exact (Kept.of h9 rfl rfl rfl rfl rfl rfl)
    · exact h1
  · exact h1

theorem returnReset_kept {s : State} (h1 : Kept F s) : Kept F (returnReset s) := by
  unfold returnReset
  split
  · exact (Kept.ite (fullReset_kept h1) h1)
  · exact h1

theorem execLcBlank_kept {key : Nat} {s : State} {t : State} (h : Kept F s) (ht : execLcBlank key s = .next t) : Kept F t :=
  checked_kept h (State.host_kept h (fun _ h1 => (lcCmd_kept h1))) ht

theorem execLcDevelop_kept {key : Nat} {s : State} {t : State} (h : Kept F s) (ht : execLcDevelop key s = .next t) : Kept F t :=
  checked_kept h (State.host_kept h (fun _ h1 => (lcCmd_kept h1))) ht

theorem execLcDeploy_kept {key : Nat} {s : State} {t : State} (h : Kept F s) (ht : execLcDeploy key s = .next t) : Kept F t :=
  checked_kept h (State.host_kept h (fun _ h1 => (lcCmd_kept h1))) ht

theorem execLcReturn_kept {key : Nat} {s : State} {t : State} (h : Kept F s) (ht : execLcReturn key s = .next t) : Kept F t :=
  checked_kept h (State.host_kept h (fun _ h1 => (lcCmd_kept h1))) ht

theorem execReturnReset_kept {s : State} {t : State} (h : Kept F s) (ht : execReturnReset s = .next t) : Kept F t :=
  checked_kept h (returnReset_kept h) ht

theorem execLcAck_kept {seq : Nat} {s : State} {t : State} (h : Kept F s) (ht : execLcAck seq s = .next t) : Kept F t :=
  checked_kept h (State.host_kept h (fun _ h1 => (State.ackRes_kept h1))) ht

end Sys2Proof.Machine
end

