-- ==== Sys2Proof/Laws/KeepModule.lean ====
section
/-! SUPPORT. What Machine/Module.lean keeps: each operation, and each command, leads from a safe state to a safe state, and no fuse goes back (Safety.lean). -/

namespace Sys2Proof.Machine

variable {F : Fuses}

theorem thermalSample_kept {s : State} {temps : List Int} {currents : List Nat} {power : Nat} (h1 : Kept F s) :
    Kept F (thermalSample s temps currents power) := by
  unfold thermalSample
  refine Kept.ite ?_ ?_
  · exact h1
  · extract_lets +onlyGivenNames -underBinder -merge -useContext k2 k3 k4 k5
    clear_value k2 k3 k4 k5
    extract_lets +onlyGivenNames -underBinder -merge -useContext s6
    have h7 : Kept F s6 := by
      unfold s6
      exact (Kept.of h1 rfl rfl rfl rfl rfl rfl)
    clear_value s6
    refine Kept.ite ?_ ?_
    · extract_lets +onlyGivenNames -underBinder -merge -useContext s8
      have h9 : Kept F s8 := by
        unfold s8
        exact (resetState_kept h7)
      clear_value s8
      extract_lets +onlyGivenNames -underBinder -merge -useContext k10
      clear_value k10
      exact (Kept.of h9 rfl rfl rfl rfl rfl rfl)
    · exact h7

theorem smbRead_kept {s : State} {c : Nat} (h1 : Kept F s) : Kept F (smbRead s c) := by
  unfold smbRead
  extract_lets +onlyGivenNames -underBinder -merge -useContext k2
  clear_value k2
  exact (Kept.ite (State.send_kept h1) h1)

theorem execThermalSample_kept {hub : Int} {q0 : Int} {q1 : Int} {q2 : Int} {q3 : Int} {currents : List Nat} {power : Nat} {s : State} {t : State} (h : Kept F s) (ht : execThermalSample hub q0 q1 q2 q3 currents power s = .next t) :
    Kept F t :=
  checked_kept h (thermalSample_kept h) ht

theorem execSmbReadWord_kept {command : Nat} {s : State} {t : State} (h : Kept F s) (ht : execSmbReadWord command s = .next t) : Kept F t :=
  checked_kept h (smbRead_kept h) ht

end Sys2Proof.Machine
end

