-- ==== Sys2Proof/Laws/KeepHostPort.lean ====
section
/-! SUPPORT. What Machine/HostPort.lean keeps: each operation, and each command, leads from a safe state to a safe state, and no fuse goes back (Safety.lean). -/

namespace Sys2Proof.Machine

variable {F : Fuses}

theorem writeBoot_kept {s : State} {a : Nat} {w : BitVec 32} (h1 : Kept F s) : Kept F (writeBoot s a w) := by
  unfold writeBoot
  extract_lets +onlyGivenNames -underBinder -merge -useContext k2
  clear_value k2
  refine Kept.ite ?_ ?_
  · exact (rstCmd_kept h1)
  · refine Kept.ite ?_ ?_
    · exact (bootCmd_kept h1)
    · refine Kept.ite ?_ ?_
      · exact (State.ackRes_kept h1)
      · refine Kept.ite ?_ ?_
        · exact (flashCmd_kept h1)
        · refine Kept.ite ?_ ?_
          · exact (State.ackRes_kept h1)
          · split
            · exact (Kept.ite (State.msixWrite_kept h1) h1)
            · exact (regWrite_kept h1)

theorem writeDma_kept {s : State} {a : Nat} {w : BitVec 32} (h1 : Kept F s) : Kept F (writeDma s a w) := by
  unfold writeDma
  refine Kept.ite ?_ ?_
  · extract_lets +onlyGivenNames -underBinder -merge -useContext k2 k3
    clear_value k2 k3
    exact (Kept.ite (chanCmd_kept h1) (Kept.ite (State.ackRes_kept h1) (Kept.ite (chanConfigWrite_kept h1) h1)))
  · exact (regWrite_kept h1)

theorem writeTime_kept {s : State} {a : Nat} {w : BitVec 32} (h1 : Kept F s) : Kept F (writeTime s a w) := by
  unfold writeTime
  extract_lets +onlyGivenNames -underBinder -merge -useContext k2
  clear_value k2
  refine Kept.ite ?_ ?_
  · exact (Kept.ite (ftCapture_kept h1) h1)
  · refine Kept.ite ?_ ?_
    · extract_lets +onlyGivenNames -underBinder -merge -useContext s3
      have h4 : Kept F s3 := by
        unfold s3
        exact (Kept.ite (ftArm_kept h1) h1)
      clear_value s3
      exact (Kept.ite (ftCancel_kept h4) h4)
    · exact (Kept.ite (State.ackRes_kept h1) (Kept.ite (Kept.ite (mateRelease_kept h1) h1) (Kept.ite (State.ackRes_kept h1) (regWrite_kept h1))))

theorem writeSys_kept {s : State} {a : Nat} {w : BitVec 32} (h1 : Kept F s) : Kept F (writeSys s a w) := by
  unfold writeSys
  extract_lets +onlyGivenNames -underBinder -merge -useContext k2
  clear_value k2
  refine Kept.ite ?_ ?_
  · exact (lcCmd_kept h1)
  · refine Kept.ite ?_ ?_
    · exact (State.ackRes_kept h1)
    · refine Kept.ite ?_ ?_
      · exact (pwrRequest_kept h1)
      · refine Kept.ite ?_ ?_
        · exact (State.ackRes_kept h1)
        · refine Kept.ite ?_ ?_
          · exact (pmonFreeze_kept h1)
          · refine Kept.ite ?_ ?_
            · exact (Kept.ite (pmonSnap_kept h1) h1)
            · refine Kept.ite ?_ ?_
              · exact (State.ackRes_kept h1)
              · refine Kept.ite ?_ ?_
                · exact (graftCmd_kept h1)
                · refine Kept.ite ?_ ?_
                  · exact (State.ackRes_kept h1)
                  · split
                    · exact (legWrite_kept h1)
                    · exact (legWrite_kept h1)
                    · exact (Kept.ite (pmonSelWrite_kept h1) h1)
                    · exact (graftAck_kept h1)
                    · exact (regWrite_kept h1)

theorem spareCmd_kept {s : State} {g : Nat} {op : Nat} {lane : Nat} (h1 : Kept F s) : Kept F (spareCmd s g op lane) := by
  unfold spareCmd
  exact (Kept.ite (spareRequest_kept h1) (Kept.ite (spareRelease_kept h1) (Kept.ite (txBridge_kept h1) (Kept.ite (txUnbridge_kept h1) h1))))

theorem writeLine_kept {s : State} {a : Nat} {w : BitVec 32} (h1 : Kept F s) : Kept F (writeLine s a w) := by
  unfold writeLine
  extract_lets +onlyGivenNames -underBinder -merge -useContext k2
  clear_value k2
  refine Kept.ite ?_ ?_
  · extract_lets +onlyGivenNames -underBinder -merge -useContext k3
    clear_value k3
    exact (Kept.ite (spareCmd_kept h1) (Kept.ite (State.ackRes_kept h1) (regWrite_kept h1)))
  · exact (Kept.ite (pmRdReq_kept h1) (Kept.ite (State.ackRes_kept h1) (Kept.ite (Kept.ite (inject_kept h1) h1) (Kept.ite (leafPmReq_kept h1) (Kept.ite (State.ackRes_kept h1) (Kept.ite (protCmd_kept h1) (Kept.ite (State.ackRes_kept h1) (Kept.ite (Kept.ite (takeover_kept h1) h1) (Kept.ite (State.ackRes_kept h1) (Kept.ite (Kept.ite (tdSnap_kept h1) h1) (Kept.ite (State.ackRes_kept h1) (regWrite_kept h1))))))))))))

theorem csrWrite_kept {s : State} {a : Nat} {w : BitVec 32} (h1 : Kept F s) : Kept F (csrWrite s a w) := by
  unfold csrWrite
  exact (Kept.ite (State.defaultTarget_kept h1) (Kept.ite (writeBoot_kept h1) (Kept.ite (writeDma_kept h1) (Kept.ite (writeTime_kept h1) (Kept.ite (writeSys_kept h1) (writeLine_kept h1))))))

theorem busRead_kept {s : State} {a : Nat} (h1 : Kept F s) : Kept F (busRead s a).2 := by
  unfold busRead
  exact (Kept.ite_snd (csrRead_kept h1) (Kept.ite_snd h1 h1))

theorem busWrite_kept {s : State} {a : Nat} {lanes : List (Bool × Byte)} (h1 : Kept F s) : Kept F (busWrite s a lanes) := by
  unfold busWrite
  exact (Kept.ite (Kept.ite (csrWrite_kept h1) (Kept.ite h1 (State.defaultTarget_kept h1))) (Kept.ite (Kept.foldl (fun _ _ h2 => (Kept.ite (State.intPut_kept h2) h2)) h1) h1))

theorem hostDword_kept {s : State} {r : HostReq} {o : Nat} {lanes : List (Bool × Byte)} {first : Bool} (h1 : Kept F s) :
    Kept F (hostDword s r o lanes first).2 := by
  unfold hostDword
  split
  · extract_lets +onlyGivenNames -underBinder -merge -useContext s2
    have h3 : Kept F s2 := by
      unfold s2
      exact (Kept.ite (State.defaultTarget_kept h1) h1)
    clear_value s2
    refine Kept.ite_snd ?_ ?_
    · exact (busWrite_kept h3)
    · refine Kept.ite_snd ?_ ?_
      · show Kept F _
        exact (Kept.ite h3 (State.defaultTarget_kept h3))
      · exact (busRead_kept h3)
  · show Kept F _
    exact (Kept.ite (State.defaultTarget_kept h1) h1)

theorem hostDwords_kept {r : HostReq} : ∀ {n o : Nat} {lanes : List (Bool × Byte)} {acc : List Nat × Nat} {s : State},
    Kept F s → Kept F (hostDwords r n o lanes acc s).2
  | 0, _, _, _, _, h => h
  | n + 1, o, lanes, acc, s, h => by
    unfold hostDwords
    extract_lets +onlyGivenNames x
    have h1 : Kept F x.2 := hostDword_kept h
    clear_value x
    exact hostDwords_kept h1

theorem risesSent_kept {s : State} {t : State} {n : Nat} (h1 : Kept F s) (h2 : Kept F t) : Kept F (risesSent s t n) := by
  unfold risesSent
  exact (Kept.foldl (fun _ _ h3 => (State.msi_kept h3)) h2)

theorem hostBurst_kept {s : State} {r : HostReq} {n : Nat} (h1 : Kept F s) : Kept F (hostBurst s r n).2 := by
  unfold hostBurst
  exact (hostDwords_kept h1)

theorem hostServe_kept {s : State} {r : HostReq} {rest : List HostReq} (h1 : Kept F s) : Kept F (hostServe s r rest) := by
  unfold hostServe
  extract_lets +onlyGivenNames -underBinder -merge -useContext k2
  clear_value k2
  extract_lets +onlyGivenNames -underBinder -merge -useContext p3
  have h4 : Kept F p3.2 := hostBurst_kept h1
  clear_value p3
  extract_lets +onlyGivenNames -underBinder -merge -useContext s5
  have h6 : Kept F s5 := by
    unfold s5
    exact (risesSent_kept h1 h4)
  clear_value s5
  refine Kept.ite ?_ ?_
  · exact (Kept.of h6 rfl rfl rfl rfl rfl rfl)
  · extract_lets +onlyGivenNames -underBinder -merge -useContext s7
    have h8 : Kept F s7 := by
      unfold s7
      exact (Kept.of h6 rfl rfl rfl rfl rfl rfl)
    clear_value s7
    exact (Kept.ite h8 (Kept.of h8 rfl rfl rfl rfl rfl rfl))

theorem hostRequest_kept {s : State} {r : HostReq} (h1 : Kept F s) : Kept F (hostRequest s r) := by
  unfold hostRequest
  exact (Kept.ite h1 (Kept.ite (State.send_kept h1) (Kept.ite h1 (Kept.of h1 rfl rfl rfl rfl rfl rfl))))

theorem pathDone_kept {s : State} {t : Nat} {m : Nat} (h1 : Kept F s) : Kept F (pathDone s t m) := by
  unfold pathDone
  exact (Kept.ite (Kept.of h1 rfl rfl rfl rfl rfl rfl) h1)

theorem burstGrant_kept {s : State} {t : Nat} {others : List (Nat × Nat)} (h1 : Kept F s) : Kept F (burstGrant s t others) := by
  unfold burstGrant
  refine Kept.ite ?_ ?_
  · exact h1
  · extract_lets +onlyGivenNames -underBinder -merge -useContext k2
    clear_value k2
    split
    · extract_lets +onlyGivenNames -underBinder -merge -useContext s3
      have h4 : Kept F s3 := by
        unfold s3
        exact (Kept.ite (State.evt_kept h1) h1)
      clear_value s3
      exact (Kept.of h4 rfl rfl rfl rfl rfl rfl)
    · exact (Kept.of h1 rfl rfl rfl rfl rfl rfl)

theorem pathTake_kept {s : State} {t : Nat} {m : Nat} {w : Nat} (h1 : Kept F s) : Kept F (pathTake s t m w) := by
  unfold pathTake
  refine Kept.ite ?_ ?_
  · exact (pathDone_kept h1)
  · extract_lets +onlyGivenNames -underBinder -merge -useContext s2
    have h3 : Kept F s2 := by
      unfold s2
      exact (Kept.ite (State.evt_kept h1) h1)
    clear_value s2
    exact (Kept.of h3 rfl rfl rfl rfl rfl rfl)

theorem beatWrite_kept {s : State} {a : Nat} {l : List Byte} (h1 : Kept F s) : Kept F (beatWrite s a l) := by
  unfold beatWrite
  split
  · have key : ∀ (r : List Nat) (x : State × Nat), Kept F x.1 → Kept F (r.foldl (fun (x : State × Nat) i =>
        let t := csrWrite x.1 (a - Config.csrBase + 4 * i) (BitVec.ofNat 32 (leAt l (4 * i) 4))
        (t, x.2 + nat01 (t.blkPending && !x.1.blkPending))) x).1 := by
      intro r
      induction r with
      | nil => intro x hx; exact hx
      | cons i r ih => intro x hx; exact ih _ (csrWrite_kept hx)
    exact risesSent_kept h1 (key _ _ h1)
  · split
    · exact State.memPut_kept h1
    · exact h1

theorem beatRead_kept {s : State} {a n : Nat} (h1 : Kept F s) : Kept F (beatRead s a n).2 := by
  unfold beatRead
  split
  · generalize List.range (n / 4) = l
    have key : ∀ (l : List Nat) (x : List Byte × State), Kept F x.2 → Kept F (l.foldl (fun (x : List Byte × State) i =>
        let r := csrRead x.2 (a - Config.csrBase + 4 * i)
        (x.1 ++ leBytes r.1 4, r.2)) x).2 := by
      intro l
      induction l with
      | nil => intro x hx; exact hx
      | cons i l ih => intro x hx; exact ih _ (csrRead_kept hx)
    exact key l _ h1
  · exact h1

theorem beatMove_kept {s : State} {c : Nat} {d : Desc} (h1 : Kept F s) : Kept F (beatMove s c d) := by
  unfold beatMove
  extract_lets +onlyGivenNames -underBinder -merge -useContext k2 k3 k4 k5
  clear_value k2 k3 k4 k5
  refine Kept.ite ?_ ?_
  · exact (State.updChan_kept (State.defaultTarget_kept h1))
  · extract_lets +onlyGivenNames -underBinder -merge -useContext k6
    clear_value k6
    extract_lets +onlyGivenNames -underBinder -merge -useContext p7
    have h8 : Kept F p7.2 := beatRead_kept h1
    clear_value p7
    extract_lets +onlyGivenNames -underBinder -merge -useContext s9
    have h10 : Kept F s9 := by
      unfold s9
      exact (Kept.ite (State.updChan_kept (beatWrite_kept h1)) (State.updChan_kept (State.send_kept h8)))
    clear_value s9
    refine Kept.ite ?_ ?_
    · exact h10
    · split
      · extract_lets +onlyGivenNames -underBinder -merge -useContext k11
        clear_value k11
        extract_lets +onlyGivenNames -underBinder -merge -useContext s12
        have h13 : Kept F s12 := by
          unfold s12
          exact (State.setQue_kept h10)
        clear_value s12
        exact (Kept.ite (State.updChan_kept h13) h13)
      · exact h10

theorem dmaBeat_kept {s : State} (h1 : Kept F s) : Kept F (dmaBeat s) := by
  unfold dmaBeat
  refine Kept.ite ?_ ?_
  · exact h1
  · extract_lets +onlyGivenNames -underBinder -merge -useContext s2
    have h3 : Kept F s2 := by
      unfold s2
      exact (Kept.of h1 rfl rfl rfl rfl rfl rfl)
    clear_value s2
    extract_lets +onlyGivenNames -underBinder -merge -useContext k4 k5
    clear_value k4 k5
    extract_lets +onlyGivenNames -underBinder -merge -useContext s6
    have h7 : Kept F s6 := by
      unfold s6
      exact (Kept.foldl (fun _ _ h8 => (Kept.ite (State.count_kept h8) h8)) h3)
    clear_value s6
    extract_lets +onlyGivenNames -underBinder -merge -useContext s9
    have h10 : Kept F s9 := by
      unfold s9
      refine Kept.foldl (fun _ _ h11 => ?_) h7
      extract_lets +onlyGivenNames -underBinder -merge -useContext k12
      clear_value k12
      exact (Kept.ite h11 (State.updChan_kept h11))
    clear_value s9
    split
    · split
      · extract_lets +onlyGivenNames -underBinder -merge -useContext s13
        have h14 : Kept F s13 := by
          unfold s13
          exact (pathTake_kept h10)
        clear_value s13
        extract_lets +onlyGivenNames -underBinder -merge -useContext s15
        have h16 : Kept F s15 := by
          unfold s15
          exact (State.count_kept (State.updChan_kept h14))
        clear_value s15
        exact (chanAsk_kept (beatMove_kept h16))
      · exact h10
    · exact h10

theorem cdaServe_kept {s : State} {write : Bool} {addr : Nat} {w : BitVec 32} (h1 : Kept F s) : Kept F (cdaServe s write addr w) := by
  unfold cdaServe
  extract_lets +onlyGivenNames -underBinder -merge -useContext k2 k3 k4 k5 s6
  have h7 : Kept F s6 := Kept.ite (State.defaultTarget_kept h1) h1
  clear_value k2 k3 k4 k5 s6
  extract_lets +onlyGivenNames -underBinder -merge -useContext p8
  have h9 : Kept F p8.2 :=
    Kept.ite_snd h7 (Kept.ite_snd (by cases write <;> exact h7) (Kept.ite_snd (busWrite_kept h7) (busRead_kept h7)))
  clear_value p8
  exact State.send_kept (Kept.of h9 rfl rfl rfl rfl rfl rfl)

theorem begun_kept {s : State} {a : Nat} {op : State → State} (h1 : Kept F s) (h2 : ∀ t, Kept F t → Kept F (op t)) : Kept F (begun s a op) := by
  unfold begun
  generalize addrDom a = d
  cases d with
  | none => exact h2 _ h1
  | some d => exact Kept.ite (State.setFld_kept (h2 _ (State.setFld_kept h1))) (h2 _ h1)

theorem accessBegin_kept {s : State} {m : Nat} (h1 : Kept F s) : Kept F (accessBegin s m) := by
  unfold accessBegin
  refine Kept.ite ?_ ?_
  · split
    · extract_lets +onlyGivenNames -underBinder -merge -useContext k2 k3
      clear_value k2 k3
      exact (Kept.ite (begun_kept h1 (fun _ h4 => (hostServe_kept (pathTake_kept h4)))) h1)
    · exact h1
  · refine Kept.ite ?_ ?_
    · exact (dmaBeat_kept h1)
    · refine Kept.ite ?_ ?_
      · split
        · extract_lets +onlyGivenNames -underBinder -merge -useContext k5 k6
          clear_value k5 k6
          exact (Kept.ite (begun_kept h1 (fun _ h7 => (cdaServe_kept (pathTake_kept h7)))) h1)
        · exact h1
      · exact h1

theorem hostCut_kept {s : State} (h1 : Kept F s) : Kept F (hostCut s) := by
  unfold hostCut
  split
  · refine Kept.ite ?_ ?_
    · extract_lets +onlyGivenNames -underBinder -merge -useContext k2 k3
      clear_value k2 k3
      exact (hostBurst_kept (State.drawn_kept h1))
    · exact h1
  · exact h1

theorem hostReset_kept {s : State} (h1 : Kept F s) : Kept F (hostReset s) := by
  unfold hostReset
  extract_lets +onlyGivenNames -underBinder -merge -useContext s2
  have h3 : Kept F s2 := by
    unfold s2
    exact (masterReset_kept (hostCut_kept h1))
  clear_value s2
  extract_lets +onlyGivenNames -underBinder -merge -useContext s4
  have h5 : Kept F s4 := by
    unfold s4
    exact (State.wr_kept h3)
  clear_value s4
  exact (Kept.of h5 rfl rfl rfl rfl rfl rfl)

theorem linkTrained_kept {s : State} {speed : Nat} {width : Nat} (h1 : Kept F s) : Kept F (linkTrained s speed width) := by
  unfold linkTrained
  exact (Kept.ite h1 (State.setFld_kept (State.setFld_kept (State.setFlag_kept h1))))

theorem execRegisterWrite_kept {addr : Nat} {data : BitVec 32} {s : State} {t : State} (h : Kept F s) (ht : execRegisterWrite addr data s = .next t) :
    Kept F t :=
  checked_kept h (csrWrite_kept h) ht

theorem execPairLowRead_kept {addr : Nat} {s t : State} (h : Kept F s) (ht : execPairLowRead addr s = .next t) : Kept F t := by
  have h2 : Kept F (csrRead s addr).2 := csrRead_kept h
  refine checked_kept h ?_ ht
  exact Kept.of h2 rfl rfl rfl rfl rfl rfl

theorem execOddWidthAccess_kept {addr : Nat} {bytes : Nat} {write : Bool} {s : State} {t : State} (h : Kept F s) (ht : execOddWidthAccess addr bytes write s = .next t) :
    Kept F t := by
  unfold execOddWidthAccess at ht
  dsimp only at ht
  refine checked_kept h ?_ ht
  refine Kept.ite ?_ ?_
  · exact (Kept.ite h (State.defaultTarget_kept h))
  · exact Kept.ite h (State.defaultTarget_kept h)

theorem execDefaultTargetAccess_kept {addr : Nat} {write : Bool} {s : State} {t : State} (h : Kept F s) (ht : execDefaultTargetAccess addr write s = .next t) :
    Kept F t := by
  refine checked_kept h ?_ ht
  refine Kept.ite ?_ ?_
  · exact (State.defaultTarget_kept h)
  · extract_lets +onlyGivenNames -underBinder -merge -useContext s1
    have h2 : Kept F s1 := by
      unfold s1
      exact (State.defaultTarget_kept h)
    clear_value s1
    exact (Kept.of h2 rfl rfl rfl rfl rfl rfl)

theorem execHostRequest_kept {r : HostReq} {s : State} {t : State} (h : Kept F s) (ht : execHostRequest r s = .next t) : Kept F t :=
  checked_kept h (hostRequest_kept h) ht

theorem execHostAccessBegin_kept {master : Nat} {s : State} {t : State} (h : Kept F s) (ht : execHostAccessBegin master s = .next t) : Kept F t :=
  checked_kept h (accessBegin_kept h) ht

theorem execBurstGrant_kept {target : Nat} {others : List (Nat × Nat)} {s : State} {t : State} (h : Kept F s) (ht : execBurstGrant target others s = .next t) :
    Kept F t :=
  checked_kept h (burstGrant_kept h) ht

theorem execHostPortReset_kept {s : State} {t : State} (h : Kept F s) (ht : execHostPortReset s = .next t) : Kept F t :=
  checked_kept h (hostReset_kept h) ht

theorem execBlkMaskWrite_kept {data : BitVec 32} {s : State} {t : State} (h : Kept F s) (ht : execBlkMaskWrite data s = .next t) : Kept F t :=
  checked_kept h (State.host_kept h (fun _ h1 => (regWrite_kept h1))) ht

theorem execDmaBeat_kept {s : State} {t : State} (h : Kept F s) (ht : execDmaBeat s = .next t) : Kept F t :=
  checked_kept h (dmaBeat_kept h) ht

theorem execHostLinkUp_kept {speed : Nat} {width : Nat} {s : State} {t : State} (h : Kept F s) (ht : execHostLinkUp speed width s = .next t) :
    Kept F t :=
  checked_kept h (linkTrained_kept h) ht

end Sys2Proof.Machine
end

