-- ==== Sys2Proof/Laws/KeepDebug.lean ====
section
/-! SUPPORT. What Machine/Debug.lean keeps: each operation, and each command, leads from a safe state to a safe state, and no fuse goes back (Safety.lean). -/

namespace Sys2Proof.Machine

variable {F : Fuses}

theorem tapSelect_kept {s : State} {ir : Nat} {drive : Nat} (h1 : Kept F s) : Kept F (tapSelect s ir drive) := by
  unfold tapSelect
  extract_lets +onlyGivenNames -underBinder -merge -useContext s2
  have h3 : Kept F s2 := by
    unfold s2
    exact (Kept.ite (sessionClose_kept h1) h1)
  clear_value s2
  extract_lets +onlyGivenNames -underBinder -merge -useContext k4
  clear_value k4
  exact (Kept.of h3 rfl rfl rfl rfl rfl rfl)

theorem tapOp_kept {s : State} {op : State → State} (h1 : Kept F s) (h2 : ∀ a3, Kept F a3 → Kept F (op a3)) : Kept F (tapOp s op) := by
  unfold tapOp
  exact (Kept.ite (h2 _ h1) h1)

theorem tapDrive_kept {s : State} {ir : Nat} {drive : Nat} (h1 : Kept F s) : Kept F (tapDrive s ir drive) := by
  unfold tapDrive
  exact (Kept.ite (tapSelect_kept h1) (tapSelect_kept h1))

theorem cdaSelect_kept {s : State} (h1 : Kept F s) : Kept F (cdaSelect s) := by
  unfold cdaSelect
  extract_lets +onlyGivenNames -underBinder -merge -useContext s2
  have h3 : Kept F s2 := by
    unfold s2
    exact (tapSelect_kept h1)
  clear_value s2
  refine Kept.ite ?_ ?_
  · exact h3
  · extract_lets +onlyGivenNames -underBinder -merge -useContext k4
    clear_value k4
    refine State.evt_kept ?_
    exact (Kept.of h3 rfl rfl rfl rfl rfl rfl)

theorem cdaDenied_kept {s : State} (h1 : Kept F s) : Kept F (cdaDenied s) := by
  unfold cdaDenied
  extract_lets +onlyGivenNames -underBinder -merge -useContext k2
  clear_value k2
  refine State.send_kept ?_
  refine State.evt_kept ?_
  exact (Kept.of h1 rfl rfl rfl rfl rfl rfl)

theorem cdaAccess_kept {s : State} {write : Bool} {addr : Nat} {data : BitVec 32} (h1 : Kept F s) : Kept F (cdaAccess s write addr data) := by
  unfold cdaAccess
  extract_lets +onlyGivenNames -underBinder -merge -useContext k2
  clear_value k2
  refine Kept.ite ?_ ?_
  · exact h1
  · refine Kept.ite ?_ ?_
    · exact (cdaDenied_kept h1)
    · refine Kept.ite ?_ ?_
      · exact (State.send_kept h1)
      · refine Kept.ite ?_ ?_
        · exact (cdaServe_kept (pathTake_kept h1))
        · extract_lets +onlyGivenNames -underBinder -merge -useContext k3
          clear_value k3
          refine State.send_kept ?_
          exact (Kept.of h1 rfl rfl rfl rfl rfl rfl)

theorem capStart_kept {s : State} {leaf : Bool} {i : Nat} {n : Nat} (h1 : Kept F s) : Kept F (capStart s leaf i n) := by
  unfold capStart
  extract_lets +onlyGivenNames -underBinder -merge -useContext s2
  have h3 : Kept F s2 := by
    unfold s2
    exact (tapSelect_kept h1)
  clear_value s2
  refine Kept.ite ?_ ?_
  · exact (cdaDenied_kept h3)
  · extract_lets +onlyGivenNames -underBinder -merge -useContext s4
    have h5 : Kept F s4 := by
      unfold s4
      exact (captureClose_kept h3)
    clear_value s4
    refine Kept.ite ?_ ?_
    · extract_lets +onlyGivenNames -underBinder -merge -useContext k6
      clear_value k6
      exact (Kept.of h5 rfl rfl rfl rfl rfl rfl)
    · extract_lets +onlyGivenNames -underBinder -merge -useContext k7
      clear_value k7
      refine State.send_kept ?_
      exact (Kept.of h5 rfl rfl rfl rfl rfl rfl)

theorem makerOp_kept {s : State} {code : Nat} (h1 : Kept F s) : Kept F (makerOp s code) := by
  unfold makerOp
  refine Kept.ite (tapSelect_kept h1) ?_
  have h2 : Kept F ((tapSelect s code 0).send (.tap (Config.makerData s.freeCount).toNat)) := State.send_kept (tapSelect_kept h1)
  exact State.drawn_kept (Kept.ite (pathsClose_kept (lcProgram_kept h2)) h2)

theorem captureFrame_kept {s : State} {demap : List (Nat × Nat)} {fnLo : Nat} (h1 : Kept F s) : Kept F (captureFrame s demap fnLo) := by
  unfold captureFrame
  split
  · refine Kept.ite ?_ ?_
    · extract_lets +onlyGivenNames -underBinder -merge -useContext k2
      clear_value k2
      exact (Kept.of h1 rfl rfl rfl rfl rfl rfl)
    · refine Kept.ite ?_ ?_
      · exact h1
      · extract_lets +onlyGivenNames -underBinder -merge -useContext k3 k4 k5
        clear_value k3 k4 k5
        exact (Kept.of h1 rfl rfl rfl rfl rfl rfl)
  · exact h1

theorem execCdaRead_kept {addr : Nat} {s : State} {t : State} (h : Kept F s) (ht : execCdaRead addr s = .next t) : Kept F t :=
  checked_kept h (cdaAccess_kept h) ht

theorem execCdaWrite_kept {addr : Nat} {data : BitVec 32} {s : State} {t : State} (h : Kept F s) (ht : execCdaWrite addr data s = .next t) :
    Kept F t :=
  checked_kept h (cdaAccess_kept h) ht

theorem execCdaCapture_kept {leaf : Bool} {index : Nat} {frames : Nat} {s : State} {t : State} (h : Kept F s) (ht : execCdaCapture leaf index frames s = .next t) :
    Kept F t :=
  checked_kept h (tapOp_kept h (fun _ h1 => (capStart_kept h1))) ht

theorem execDebugSessionClose_kept {s : State} {t : State} (h : Kept F s) (ht : execDebugSessionClose s = .next t) : Kept F t :=
  checked_kept h (tapOp_kept h (fun _ h1 => (tapSelect_kept h1))) ht

theorem execBypass_kept {s : State} {t : State} (h : Kept F s) (ht : execBypass s = .next t) : Kept F t :=
  checked_kept h (tapOp_kept h (fun _ h1 => (tapSelect_kept h1))) ht

theorem execIdcode_kept {s : State} {t : State} (h : Kept F s) (ht : execIdcode s = .next t) : Kept F t :=
  checked_kept h (tapOp_kept h (fun _ h1 => (State.send_kept (tapSelect_kept h1)))) ht

theorem execSamplePreload_kept {s : State} {t : State} (h : Kept F s) (ht : execSamplePreload s = .next t) : Kept F t :=
  checked_kept h (tapOp_kept h (fun _ h1 => (State.drawn_kept (State.send_kept (tapSelect_kept h1))))) ht

theorem execExtest_kept {s : State} {t : State} (h : Kept F s) (ht : execExtest s = .next t) : Kept F t :=
  checked_kept h (tapOp_kept h (fun _ h1 => (tapDrive_kept h1))) ht

theorem execClamp_kept {s : State} {t : State} (h : Kept F s) (ht : execClamp s = .next t) : Kept F t :=
  checked_kept h (tapOp_kept h (fun _ h1 => (tapDrive_kept h1))) ht

theorem execHighz_kept {s : State} {t : State} (h : Kept F s) (ht : execHighz s = .next t) : Kept F t :=
  checked_kept h (tapOp_kept h (fun _ h1 => (tapDrive_kept h1))) ht

theorem execMaker_kept {code : Nat} {s : State} {t : State} (h : Kept F s) (ht : execMaker code s = .next t) : Kept F t :=
  checked_kept h (tapOp_kept h (fun _ h1 => (makerOp_kept h1))) ht

theorem execCdaAccess_kept {s : State} {t : State} (h : Kept F s) (ht : execCdaAccess s = .next t) : Kept F t :=
  checked_kept h (tapOp_kept h (fun _ h1 => (cdaSelect_kept h1))) ht

end Sys2Proof.Machine
end

