-- ==== Sys2Proof/Laws/KeepBoundary.lean ====
section
/-! SUPPORT. What Machine/Boundary.lean keeps: each operation, and each command, leads from a safe state to a safe state, and no fuse goes back (Safety.lean). -/

namespace Sys2Proof.Machine

variable {F : Fuses}

theorem mateSlew_kept {s : State} (h1 : Kept F s) : Kept F (mateSlew s) := by
  unfold mateSlew
  exact (Kept.ite (State.updMate_kept h1) h1)

theorem mateNext_kept {s : State} (h1 : Kept F s) : Kept F (mateNext s) := by
  unfold mateNext
  extract_lets +onlyGivenNames -underBinder -merge -useContext k2
  clear_value k2
  exact (State.updMate_kept h1)

theorem timeFrame_kept {s : State} (h1 : Kept F s) : Kept F (timeFrame s) := by
  unfold timeFrame
  extract_lets +onlyGivenNames -underBinder -merge -useContext s2
  have h3 : Kept F s2 := by
    unfold s2
    exact (busDrain_kept h1)
  clear_value s2
  extract_lets +onlyGivenNames -underBinder -merge -useContext k4
  clear_value k4
  extract_lets +onlyGivenNames -underBinder -merge -useContext s5
  have h6 : Kept F s5 := by
    unfold s5
    exact (mateSlew_kept (slewFrame_kept (State.passCycles_kept h3)))
  clear_value s5
  extract_lets +onlyGivenNames -underBinder -merge -useContext k7
  clear_value k7
  extract_lets +onlyGivenNames -underBinder -merge -useContext s8
  have h9 : Kept F s8 := by
    unfold s8
    exact (failTimes_kept (mateNext_kept h6))
  clear_value s8
  extract_lets +onlyGivenNames -underBinder -merge -useContext k10
  clear_value k10
  exact ⟨h9.1, by show 0 < 200000; omega, h9.2.2⟩

theorem busPublish_kept {s : State} (h1 : Kept F s) : Kept F (busPublish s) := by
  unfold busPublish
  split
  · refine Kept.foldl (fun _ _ h2 => ?_) h1
    extract_lets +onlyGivenNames -underBinder -merge -useContext k3
    clear_value k3
    exact (State.count_kept (State.count_kept h2))
  · exact h1

theorem planeFrame_kept {s : State} {inp : FrameInput} {ended : Nat} (h1 : Kept F s) : Kept F (planeFrame s inp ended) := by
  unfold planeFrame
  extract_lets +onlyGivenNames -underBinder -merge -useContext s2
  have h3 : Kept F s2 := by
    unfold s2
    exact (captureFrame_kept (settle_kept h1))
  clear_value s2
  refine Kept.ite ?_ ?_
  · extract_lets +onlyGivenNames -underBinder -merge -useContext s4
    have h5 : Kept F s4 := by
      unfold s4
      exact (leafPre_kept (trunkEnd_kept h3))
    clear_value s4
    extract_lets +onlyGivenNames -underBinder -merge -useContext s6
    have h7 : Kept F s6 := by
      unfold s6
      exact (timFrame_kept (pmFrame_kept (opticalFrame_kept (defectSample_kept h5))))
    clear_value s6
    exact (busPublish_kept (engFrame_kept (protFrame_kept (leafFrame_kept (trunkFrame_kept h7)))))
  · exact (timFrame_kept (opticalFrame_kept h3))

theorem dmaFrame_kept {s : State} (h1 : Kept F s) : Kept F (dmaFrame s) := by
  unfold dmaFrame
  exact (Kept.foldl (fun _ _ h2 => (State.updChan_kept h2)) h1)

theorem boundary_kept {s : State} {inp : FrameInput} (h1 : Kept F s) : Kept F (boundary s inp) := by
  unfold boundary
  refine Kept.ite ?_ ?_
  · exact h1
  · extract_lets +onlyGivenNames -underBinder -merge -useContext k2 k3
    clear_value k2 k3
    extract_lets +onlyGivenNames -underBinder -merge -useContext s4
    have h5 : Kept F s4 := by
      unfold s4
      exact (reqBoundary_kept (planeFrame_kept (timeFrame_kept h1)))
    clear_value s4
    extract_lets +onlyGivenNames -underBinder -merge -useContext s6
    have h7 : Kept F s6 := by
      unfold s6
      exact (pmonFrame_kept (mateFrame_kept h5))
    clear_value s6
    exact (elsReform_kept (bootFrame_kept (lcReturnStep_kept (powerFrame_kept (dmaFrame_kept h7)))))

theorem tick_kept {s : State} (h1 : Kept F s) : Kept F (tick s) := by
  unfold tick
  exact (Kept.ite h1 (Kept.ite (State.toOfs_kept h1) (boundary_kept h1)))

theorem idle_kept {s : State} (h1 : Kept F s) : Kept F (idle s) := by
  unfold idle
  exact (after_kept h1 (tick_kept h1))

theorem execFrameBoundary_kept {inp : FrameInput} {s : State} {t : State} (h : Kept F s) (ht : execFrameBoundary inp s = .next t) : Kept F t :=
  checked_kept h (boundary_kept h) ht

end Sys2Proof.Machine
end

