-- ==== Sys2Proof/Laws/Ops.lean ====
section
/-! SUPPORT. One lemma per shared operation: what it leaves, and what it changes. -/

namespace Sys2Proof.Machine

/-! Bit fields. -/

theorem putField_parts (v : Nat) (f : Fld) (x : Nat) :
    putField v f x = v % 2 ^ f.lo + (x % 2 ^ f.width + 2 ^ f.width * (v / 2 ^ f.lo / 2 ^ f.width)) * 2 ^ f.lo := by
  unfold putField bits
  have h1 := Nat.div_add_mod v (2 ^ f.lo)
  have h2 := Nat.div_add_mod (v / 2 ^ f.lo) (2 ^ f.width)
  generalize hq : v / 2 ^ f.lo = q at h1 h2 ⊢
  generalize v % 2 ^ f.lo = r at h1 ⊢
  generalize q / 2 ^ f.width = c at h2 ⊢
  generalize hb : q % 2 ^ f.width = b at h2 ⊢
  generalize x % 2 ^ f.width = y
  generalize 2 ^ f.lo = m at h1 ⊢
  generalize 2 ^ f.width = w at h2 ⊢
  subst h1
  subst h2
  have e1 : m * (w * c + b) = m * (w * c) + m * b := Nat.mul_add ..
  have e2 : (y + w * c) * m = y * m + m * (w * c) := by rw [Nat.add_mul, Nat.mul_comm (w * c)]
  have e3 : b * m = m * b := Nat.mul_comm ..
  omega

/-- A field reads what was put into it. -/
theorem bits_putField (v : Nat) (f : Fld) (x : Nat) : bits (putField v f x) f.lo f.width = x % 2 ^ f.width := by
  have hl : 0 < 2 ^ f.lo := Nat.two_pow_pos _
  rw [putField_parts]
  unfold bits
  rw [Nat.add_mul_div_right _ _ hl, Nat.div_eq_of_lt (Nat.mod_lt _ hl), Nat.zero_add, Nat.add_mul_mod_self_left, Nat.mod_mod]

/-- Bits below the field stay. -/
theorem bits_putField_below (v : Nat) (f : Fld) (x lo w : Nat) (h : lo + w ≤ f.lo) : bits (putField v f x) lo w = bits v lo w := by
  rw [putField_parts]
  unfold bits
  obtain ⟨d, hd⟩ : ∃ d, f.lo = lo + w + d := ⟨f.lo - (lo + w), by omega⟩
  generalize x % 2 ^ f.width + 2 ^ f.width * (v / 2 ^ f.lo / 2 ^ f.width) = k
  have hv : ∀ n, n / 2 ^ lo % 2 ^ w = n % 2 ^ (lo + w) / 2 ^ lo := fun n => by
    rw [Nat.pow_add, Nat.mod_mul_right_div_self]
  rw [hv, hv, hd, Nat.pow_add, ← Nat.mul_assoc, Nat.mul_comm k, Nat.mul_assoc, Nat.add_mul_mod_self_left, Nat.mod_mul_right_mod]

/-- Bits above the field stay. -/
theorem bits_putField_above (v : Nat) (f : Fld) (x lo w : Nat) (h : f.lo + f.width ≤ lo) : bits (putField v f x) lo w = bits v lo w := by
  have hl : 0 < 2 ^ f.lo := Nat.two_pow_pos _
  have hw : 0 < 2 ^ f.width := Nat.two_pow_pos _
  rw [putField_parts]
  unfold bits
  obtain ⟨d, rfl⟩ : ∃ d, lo = f.lo + f.width + d := ⟨lo - (f.lo + f.width), by omega⟩
  rw [Nat.pow_add, Nat.pow_add, ← Nat.div_div_eq_div_mul, ← Nat.div_div_eq_div_mul, Nat.add_mul_div_right _ _ hl,
    Nat.div_eq_of_lt (Nat.mod_lt v hl), Nat.zero_add, Nat.add_mul_div_left _ _ hw, Nat.div_eq_of_lt (Nat.mod_lt x hw), Nat.zero_add,
    ← Nat.div_div_eq_div_mul, ← Nat.div_div_eq_div_mul]

/-! Registers. -/

/-- What a register reads after a store. -/
theorem State.rd_wr {s : State} (h : Tab.wf regReset s.regs = true) (a v b : Nat) :
    (s.wr a v).rd b = if b = a then v % 4294967296 else s.rd b := by
  unfold State.rd State.wr
  rw [Tab.get_set regReset h]
  split
  · exact BitVec.toNat_ofNat ..
  · rfl

theorem State.rd_wr_self {s : State} (h : Tab.wf regReset s.regs = true) (a v : Nat) : (s.wr a v).rd a = v % 4294967296 := by
  rw [State.rd_wr h, if_pos rfl]

theorem State.rd_wr_other {s : State} (h : Tab.wf regReset s.regs = true) {a b : Nat} (v : Nat) (hb : b ≠ a) : (s.wr a v).rd b = s.rd b := by
  rw [State.rd_wr h, if_neg hb]

theorem State.wr_wf {s : State} (h : Tab.wf regReset s.regs = true) (a v : Nat) : Tab.wf regReset (s.wr a v).regs = true :=
  Tab.wf_set regReset h a _

/-- A register holds 32 bits. -/
theorem State.rd_lt (s : State) (a : Nat) : s.rd a < 4294967296 := BitVec.isLt _

/-- A new result: valid, the next sequence number, and its code (R279). -/
theorem State.putRes_spec {s : State} (h : Tab.wf regReset s.regs = true) (a code detail : Nat) :
    (s.putRes a code detail).valid a = true ∧ bits ((s.putRes a code detail).rd a) 0 8 = code % 256 ∧
      bits ((s.putRes a code detail).rd a) 8 8 = detail % 256 ∧
      bits ((s.putRes a code detail).rd a) 16 8 = (bits (s.rd a) 16 8 + 1) % 256 ∧ ∀ b, b ≠ a → (s.putRes a code detail).rd b = s.rd b := by
  have hrd : (s.putRes a code detail).rd a =
      (code % 256 + 256 * (detail % 256) + 65536 * ((bits (s.rd a) 16 8 + 1) % 256) + 2147483648) % 4294967296 := State.rd_wr_self h a _
  refine ⟨?_, ?_, ?_, ?_, fun b hb => State.rd_wr_other h _ hb⟩
  · unfold State.valid State.bit bitAt
    rw [hrd]
    simp only [beq_iff_eq]
    omega
  all_goals
    rw [hrd]
    have hq : (bits (s.rd a) 16 8 + 1) % 256 < 256 := Nat.mod_lt _ (by decide)
    generalize (bits (s.rd a) 16 8 + 1) % 256 = q at hq ⊢
    simp only [bits]
    omega

/-- An acknowledgement retires the result whose sequence number it names (R279); no other register changes. -/
theorem State.ackRes_match {s : State} {a seq : Nat} (h1 : s.valid a = true) (h2 : bits (s.rd a) 16 8 = seq % 256) :
    s.ackRes a seq = s.putBit a 31 false := by
  unfold State.ackRes
  rw [if_pos]
  simp [h1, h2]

/-- An acknowledgement that names no waiting result has no effect. -/
theorem State.ackRes_other {s : State} {a seq : Nat} (h : s.valid a = false ∨ bits (s.rd a) 16 8 ≠ seq % 256) : s.ackRes a seq = s := by
  unfold State.ackRes
  rw [if_neg]
  rcases h with h | h <;> simp [h]

/-- What a register reads after one of its fields was stored. -/
theorem State.rd_setFld {s : State} (h : Tab.wf regReset s.regs = true) (a : Nat) (f : Fld) (x : Nat) (b : Nat) :
    (s.setFld a f x).rd b = if b = a then putField (s.rd a) f x % 4294967296 else s.rd b := State.rd_wr h a _ b

/-- A field reads what was stored in it. -/
theorem State.fld_setFld {s : State} (h : Tab.wf regReset s.regs = true) (a : Nat) (f : Fld) (x : Nat) (hf : f.lo + f.width ≤ 32) :
    (s.setFld a f x).fld a f = x % 2 ^ f.width := by
  have hm : ∀ n, bits (n % 2 ^ 32) f.lo f.width = bits n f.lo f.width := fun n => by
    have hv : ∀ n, n / 2 ^ f.lo % 2 ^ f.width = n % 2 ^ (f.lo + f.width) / 2 ^ f.lo := fun n => by
      rw [Nat.pow_add, Nat.mod_mul_right_div_self]
    obtain ⟨d, hd⟩ : ∃ d, 32 = f.lo + f.width + d := ⟨32 - (f.lo + f.width), by omega⟩
    unfold bits
    rw [hv, hv, hd, Nat.pow_add (m := f.lo + f.width), Nat.mod_mul_right_mod]
  unfold State.fld
  rw [State.rd_setFld h, if_pos rfl]
  exact (hm _).trans (bits_putField _ _ _)

/-! Updates that only registers see. -/

/-- `t` differs from `s` in registers at most. -/
def OnlyRegs (s t : State) : Prop := t = { s with regs := t.regs }

theorem OnlyRegs.refl (s : State) : OnlyRegs s s := rfl

theorem OnlyRegs.trans {s t u : State} (h1 : OnlyRegs s t) (h2 : OnlyRegs t u) : OnlyRegs s u := by
  unfold OnlyRegs at *
  rw [h2, h1]

theorem OnlyRegs.wr {s t : State} (h : OnlyRegs s t) (a v : Nat) : OnlyRegs s (t.wr a v) := h.trans rfl

theorem OnlyRegs.setFld {s t : State} (h : OnlyRegs s t) (a : Nat) (f : Fld) (x : Nat) : OnlyRegs s (t.setFld a f x) := h.wr _ _

theorem OnlyRegs.setFlag {s t : State} (h : OnlyRegs s t) (a : Nat) (f : Fld) (b : Bool) : OnlyRegs s (t.setFlag a f b) := h.wr _ _

theorem OnlyRegs.putBit {s t : State} (h : OnlyRegs s t) (a i : Nat) (b : Bool) : OnlyRegs s (t.putBit a i b) := h.wr _ _

theorem OnlyRegs.evt {s t : State} (h : OnlyRegs s t) (a : Nat) (f : Fld) : OnlyRegs s (t.evt a f) := h.wr _ _

theorem OnlyRegs.mapBit {s t : State} (h : OnlyRegs s t) (a i : Nat) : OnlyRegs s (t.mapBit a i) := h.wr _ _

theorem OnlyRegs.putRes {s t : State} (h : OnlyRegs s t) (a c d : Nat) : OnlyRegs s (t.putRes a c d) := h.wr _ _

theorem OnlyRegs.pendRes {s t : State} (h : OnlyRegs s t) (a : Nat) : OnlyRegs s (t.pendRes a) := h.wr _ _

theorem OnlyRegs.wrPair {s t : State} (h : OnlyRegs s t) (a v : Nat) : OnlyRegs s (t.wrPair a v) := (h.wr _ _).wr _ _

theorem OnlyRegs.ite {c : Prop} [Decidable c] {s a b : State} (ha : OnlyRegs s a) (hb : OnlyRegs s b) :
    OnlyRegs s (if c then a else b) := by
  split
  · exact ha
  · exact hb

theorem OnlyRegs.foldl {β : Type} {g : State → β → State} {l : List β} {s t : State} (hg : ∀ x b, OnlyRegs s x → OnlyRegs s (g x b))
    (h : OnlyRegs s t) : OnlyRegs s (l.foldl g t) := by
  induction l generalizing t with
  | nil => exact h
  | cons b l ih => exact ih (hg t b h)

theorem OnlyRegs.ackRes {s t : State} (h : OnlyRegs s t) (a seq : Nat) : OnlyRegs s (t.ackRes a seq) := OnlyRegs.ite (h.putBit _ _ _) h

theorem OnlyRegs.incPair {s t : State} (h : OnlyRegs s t) (a b c n : Nat) : OnlyRegs s (t.incPair a b c n) :=
  OnlyRegs.ite ((h.wrPair _ _).mapBit _ _) (h.wrPair _ _)

/-- Counting changes counters only (R266). -/
theorem OnlyRegs.countIf {s t : State} (h : OnlyRegs s t) (f bnd : Bool) (ev u n : Nat) : OnlyRegs s (t.countIf f bnd ev u n) := by
  unfold State.countIf
  extract_lets old s2
  exact OnlyRegs.ite h (OnlyRegs.foldl (fun x b hx => OnlyRegs.ite (hx.incPair _ _ _ _) hx)
    (OnlyRegs.foldl (fun x b hx => OnlyRegs.ite (hx.incPair _ _ _ _) hx) h))

theorem OnlyRegs.count {s t : State} (h : OnlyRegs s t) (ev u n : Nat) : OnlyRegs s (t.count ev u n) := h.countIf _ _ _ _ _

theorem OnlyRegs.defaultTarget {s t : State} (h : OnlyRegs s t) : OnlyRegs s t.defaultTarget := h.count _ _ _

theorem OnlyRegs.regWrite {s t : State} (h : OnlyRegs s t) (a : Nat) (w : Word) : OnlyRegs s (regWrite t a w) := by
  unfold Machine.regWrite
  split
  · exact h.trans rfl
  · exact h

/-! Memory. -/

/-- What a byte of memory reads after a write: the byte written, or what it held (R300). -/
theorem State.memAt_memPut {s : State} (h : Tab.wf memDefault s.mem = true) (k : Nat) (l : List Byte) (j : Nat)
    (hj : ¬ (k ≤ j ∧ j < k + l.length)) : (s.memPut k l).memAt j = s.memAt j := Tab.get_setRange_out memDefault h k l j hj

theorem State.memAt_memPut_in {s : State} (k : Nat) (l : List Byte) (j : Nat) (hk : k ≤ j) (hl : j < k + l.length) :
    (s.memPut k l).memAt j = l[j - k]'(by omega) := Tab.get_setRange_in memDefault k l j hk hl

theorem State.memAt_memZero {s : State} (h : Tab.wf memDefault s.mem = true) (lo hi j : Nat) :
    (s.memZero lo hi).memAt j = if lo ≤ j ∧ j < hi then 0 else s.memAt j := Tab.get_dropRange memDefault h lo hi j

/-- Every memory operation keeps the canonical form. -/
theorem State.memPut_wf {s : State} (h : Tab.wf memDefault s.mem = true) (k : Nat) (l : List Byte) :
    Tab.wf memDefault (s.memPut k l).mem = true := Tab.wf_setRange memDefault h k l

theorem State.memZero_wf {s : State} (h : Tab.wf memDefault s.mem = true) (lo hi : Nat) : Tab.wf memDefault (s.memZero lo hi).mem = true :=
  Tab.wf_dropRange memDefault h lo hi

theorem State.intPut_wf {s : State} (h : Tab.wf memDefault s.mem = true) (a : Nat) (b : Byte) : Tab.wf memDefault (s.intPut a b).mem = true := by
  unfold State.intPut
  split
  · exact State.memPut_wf h _ _
  · exact h

/-! MSI-X and what every command leaves. -/

/-- A message is sent, or waits in the pending-bit array, or MSI-X is not enabled (R299). -/
theorem State.msi_cases (s : State) (v : Nat) :
    s.msi v = s.msiSend v ∨ s.msi v = { s with msixPend := (s.msi v).msixPend } := by
  unfold State.msi
  split
  · exact .inr rfl
  · split
    · split <;> exact .inr rfl
    · exact .inl rfl

theorem alignSettle_eq (t : State) : alignSettle t = { t with boot := (alignSettle t).boot } := by
  unfold alignSettle
  extract_lets w
  split <;> rfl

theorem State.msi_eq (s : State) (v : Nat) : s.msi v = { s with msixPend := (s.msi v).msixPend, sent := (s.msi v).sent } := by
  unfold State.msi
  split
  · rfl
  · split
    · split <;> rfl
    · rfl

/-- Beside the effect `t` of its command, a step changes only the end of boot step 8 and the message of vector 64. -/
theorem after_eq (s t : State) :
    after s t = { t with boot := (alignSettle t).boot, msixPend := (after s t).msixPend, sent := (after s t).sent,
                         pending := s.pending } := by
  have key : ∀ u v : State, u = { v with msixPend := u.msixPend, sent := u.sent } → v = { t with boot := v.boot } →
      { u with pending := s.pending } =
        { t with boot := v.boot, msixPend := u.msixPend, sent := u.sent, pending := s.pending } := fun u v h1 h2 =>
    (congrArg (fun x : State => { x with pending := s.pending }) h1).trans
      (congrArg (fun x : State => { x with msixPend := u.msixPend, sent := u.sent, pending := s.pending }) h2)
  refine key (if (alignSettle t).blkPending && !s.blkPending then (alignSettle t).msi 64 else alignSettle t) (alignSettle t) ?_
    (alignSettle_eq t)
  split
  · exact State.msi_eq _ 64
  · rfl

@[simp] theorem after_pending (s t : State) : (after s t).pending = s.pending := rfl

theorem checked_of_wf {i : Instr} (h : i.wf = true) (s t : State) : checked i s t = .next (after s t) := by
  unfold checked
  rw [if_pos h]

end Sys2Proof.Machine
end

