-- ==== Sys2Proof/Tests/Slice0.lean ====
section
/-! SUPPORT. The author's tests, and for every statement with premises a state and operands that meet them. -/

namespace Sys2Proof.Tests

open Sys2Proof Sys2Proof.Machine

set_option Elab.async false

/-- RESET_N high, the clock running, BOOT_STAT.STEP at `n`. -/
def up (n : Nat) : State :=
  ({ State.reset with pins := { State.reset.pins with resetN := true }, clk := true } : State).setFld Reg.BOOT_STAT F.BOOT_STAT_STEP n

/-- The data plane is released. -/
def live : State := (up 8).setFlag Reg.FT_STAT F.FT_STAT_DP_RELEASED true

/-- A command that is well-formed and one that is not. -/
theorem wit_EveryCommandAnswers : Instr.wf .capture = true ∧ Instr.wf (.lo 65536) = false := by decide

/-- Each clause's premises hold of a state: no clock, inside a frame, at its last offset. -/
theorem wit_EmptyQueueIdles : State.reset.pending = [] ∧ State.reset.clk = false ∧ live.pending = [] ∧ live.clk = true ∧
    live.ofs + 1 < live.frameEnd ∧ (live.toOfs 199998).ofs + 1 < (live.toOfs 199998).frameEnd ∧ (live.toOfs 199999).pending = [] ∧
    (live.toOfs 199999).clk = true ∧ (live.toOfs 199999).frameEnd ≤ (live.toOfs 199999).ofs + 1 ∧ live.released = true ∧
    (up 7).mate.cut = none := by decide

/-- A safe state whose step answers a next state. -/
theorem wit_EveryStepKeepsSafe : Safe State.reset ∧ step State.reset = .next (idle State.reset) := ⟨⟨by decide, by decide, rfl, rfl, rfl, rfl⟩, rfl⟩

/-- A state whose summary is zero, and the same with an enabled event: unmasked, masked. -/
theorem wit_Vector64 :
    let a := (live.wr Reg.XBAR_BLK_MASK 4).putBit Reg.XBAR_EVT 0 true
    let b := { a with msix := [(259, 0)] }
    live.blkPending = false ∧ a.blkPending = true ∧ a.msixOn = true ∧ a.msixMask = false ∧ bitAt (a.msixAt 259) 0 = true ∧
      b.blkPending = true ∧ b.msixOn = true ∧ b.msixMask = false ∧ bitAt (b.msixAt 259) 0 = false ∧ live.bootStep ≠ 7 := by decide

/-- An RW register, a W1C register, and a reserved bit. -/
theorem wit_PlainRegisterWrite : (regRow Reg.XBAR_BLK_MASK).isSome ∧ csrOk Reg.XBAR_BLK_MASK = true ∧ commandReg Reg.XBAR_BLK_MASK = false ∧
    live.csrAnswers Reg.XBAR_BLK_MASK = true ∧ Tab.wf regReset live.regs = true ∧ commandReg Reg.FT_EVT = false ∧
    live.csrAnswers Reg.FT_EVT = true ∧ commandReg Reg.GRAFT_CMD = true := by decide

/-- A host port with its link up. -/
def linked : State := linkTrained live 5 4

/-- A pair and its high word, a register that is no low word, an address outside every block, a write and a read of working memory through window 1. -/
theorem wit_HostReadsAndRequests : csrOk Reg.FT_FN_LO = true ∧ live.csrAnswers Reg.FT_FN_LO = true ∧ pairLow Reg.FT_FN_LO = true ∧
    csrOk Reg.TOP_ID = true ∧ live.csrAnswers Reg.TOP_ID = true ∧ pairLow Reg.TOP_ID = false ∧
    csrOk 0x3F0000 = true ∧ live.csrAnswers 0x3F0000 = false ∧ live.csrAnswers (0x3F0001 / 4 * 4) = false ∧
    pairHigh Reg.FT_FN_HI = true ∧ engWindow Reg.FT_FN_HI = none ∧ msixWindow Reg.FT_FN_HI = none ∧
    live.csrAnswers (0x400012 / 4 * 4) = true ∧ HostReq.ok ⟨2, 0x10000000, true, List.replicate 4 (true, 0)⟩ = true ∧
    linked.flag Reg.XBAR_HOST_STAT F.XBAR_HOST_STAT_LINK_UP = true ∧ reqInBar ⟨2, 0x10000000, true, List.replicate 4 (true, 0)⟩ = true ∧
    (HostReq.mk 2 0x10000000 true (List.replicate 4 (true, 0))).lanes.length ≤ 512 ∧ reqInBar ⟨3, 0, true, List.replicate 4 (true, 0)⟩ = false ∧
    linked.npOut < 32 ∧ live.flag Reg.XBAR_HOST_STAT F.XBAR_HOST_STAT_LINK_UP = false := by decide

/-- A live device whose host port has one write of two bytes to working memory waiting, and the same with a read. -/
def asked (w : Bool) : State :=
  { (up 6) with hostQ := [⟨2, 0x10000004, w, [(true, 0x11), (!w, 0x22), (true, 0x33), (!w, 0x44)]⟩] }.wr Reg.TOP_CTRL 0 |>.wr 0x200050 0 |>.wr 0x200054 0x80000001

theorem wit_HostAccessReachesMemory : ∀ w : Bool, (asked w).hostAddr 2 0x10000004 = some 0x10000004 ∧
    (asked w).memKey 0x10000004 = some 0x10000004 ∧ inCsr 0x10000004 = false ∧ (asked w).isRom 0x10000004 = false ∧
    (asked w).memUp = true ∧ (asked w).inWindow (asked w).ofs = true ∧ (asked w).holder8 1 = 8 ∧ (asked w).rivals 1 0 = [] ∧
    (asked w).holder8 2 = 8 ∧ (asked w).rivals 2 0 = [] ∧ (asked w).hostAddr 2 0 = none ∧
    (asked w).csrAnswers Reg.TOP_CTRL = true ∧ csrDom Reg.TOP_CTRL = none ∧ (asked w).csrAnswers 0x3F0000 = false := by decide

/-- The host port holds a path and its oldest request is a write to that path's target. -/
def midBurst : State := { (asked true) with xbHold := [(1, 0)] }

theorem wit_CrossbarAndLink : live.xbHold = [] ∧ live.hostQ = [] ∧ live.flag Reg.XBAR_EVT F.XBAR_EVT_MRESET = false ∧
    live.inReset = false ∧ State.reset.inReset = true ∧ live.csrAnswers Reg.XBAR_BLK_MASK = true ∧
    State.reset.csrAnswers Reg.XBAR_BLK_MASK = false ∧ midBurst.xbHold = [(1, 0)] ∧
    midBurst.hostQ = ⟨2, 0x10000004, true, [(true, 0x11), (false, 0x22), (true, 0x33), (false, 0x44)]⟩ :: [] ∧
    midBurst.holder8 (midBurst.reqTarget ⟨2, 0x10000004, true, [(true, 0x11), (false, 0x22), (true, 0x33), (false, 0x44)]⟩) = 0 := by decide

theorem wit_PowerAndResetPins : State.reset.pins.resetN = false ∧ State.reset.pins.powerGood = true ∧ State.reset.pins.trip = false ∧
    ({ State.reset.pins with powerGood := false, resetN := true } : Pins).powerGood = false ∧
    ({ up 0 with clk := false } : State).inReset = false := by decide

theorem wit_ResetsFromInside : live.csrAnswers Reg.TOP_RST_CMD = true ∧ live.boot.resetDue = none ∧ (0x1A5 : Word).toNat % 256 = 0xA5 ∧
    (0x1A5 : Word).getLsbD 8 = true ∧ (0x1A6 : Word).toNat % 256 ≠ 0xA5 ∧ live.inReset = false ∧ live.clk = true ∧
    ({ live with elapsed := 80 } : State).inReset = false ∧
    ({ live with boot := { live.boot with resetDue := some (0, 4) } } : State).boot.resetDue = some (0, 4) ∧
    ({ live with elapsed := 80, lcDue := some (true, 0) } : State).inReset = false := by decide

/-- An image with no section. -/
def bare : Image := { kind := 1, required := 0, blocks := 1, gtag := 0, digest := [], base := [], result := [], sections := [] }

/-- Boot step 8 has ended, three frames ago or not yet. -/
def waited : State := { up 7 with img := some bare, elapsed := 9, boot := { (up 7).boot with relDue := some 3 } }

theorem wit_BootEndsInRelease : waited.clk = true ∧ waited.bootStep = 7 ∧ waited.ofs = 0 ∧ bare.global 6 4 = 0 ∧ waited.img = some bare ∧
    Tab.wf regReset waited.regs = true ∧ waited.flag Reg.MATE_CFG F.MATE_CFG_MODE = false ∧ (up 7).boot.relDue = none ∧
    (up 7).boot.alignFrom + bare.global 6 4 ≤ (up 7).elapsed := by decide

/-- The release of a standalone unit under an empty image. -/
theorem test_release : let t := release waited
    t.bootStep = 8 ∧ t.released = true ∧ t.rd Reg.BOOT_REL_FN_LO = 0 ∧ t.flag Reg.BOOT_EVT F.BOOT_EVT_RELEASED = true ∧
      t.flag Reg.MATE_STAT F.MATE_STAT_ROLE_ACT = true ∧ t.s15.marks = 1 ∧ t.fld Reg.PWR_STAT F.PWR_STAT_STATE = 1 := by decide +kernel

theorem wit_BootCommands : live.csrAnswers Reg.BOOT_CMD = true ∧ live.valid Reg.BOOT_CMD_RES = false ∧ live.inReturn = false ∧
    4 < live.bootStep ∧ live.bootStep ≤ 8 ∧ live.flash = none ∧ live.fld Reg.BOOT_STAT F.BOOT_STAT_SOURCE ≠ 3 ∧
    (up 9).bootStep = 9 ∧ (up 9).csrAnswers Reg.BOOT_CMD = true := by decide

/-- A flash command of 2 bytes at flash address 0x10000, buffer at the start of working memory. -/
def flashed : State :=
  ((live.wr Reg.BOOT_FL_ADDR 0x10000).wr Reg.BOOT_FL_LEN 2).wr Reg.BOOT_FL_BUF_LO 0x10000000

theorem wit_FlashCommands : flashed.csrAnswers Reg.BOOT_FL_CMD = true ∧ flashed.flash = none ∧ flashed.valid Reg.BOOT_FL_RES = false ∧
    flashed.inReturn = false ∧ (flashed.nor 1).present = true ∧ 3 < flashed.bootStep ∧ flashed.rd Reg.BOOT_FL_LEN = 2 ∧
    flashed.rd Reg.BOOT_FL_ADDR + 2 ≤ (flashed.nor 1).size ∧ flashed.memSpan 0x10000000 2 = some 0x10000000 ∧
    (flashed.wr Reg.BOOT_FL_LEN 0x20000).rd Reg.BOOT_FL_LEN % 65536 = 0 ∧ Tab.wf memDefault flashed.mem = true ∧
    (∀ i, i < 2 → (flashed.nor 1).byteAt (0x10000 + i) &&& flashed.memAt (0x10000000 + i) = flashed.memAt (0x10000000 + i)) := by decide

/-- Every block answers: the built device with the mate and leaf domains and group 0 powered. -/
def full : State :=
  [0, 16, 64, 65].foldl (fun s d => s.setFld (Reg.PWR_DOM_STAT d) F.PWR_DOM_STAT_STATE 2) live

theorem wit_Acknowledgements : ∀ a ∈ [(Reg.FT_STEP_ACK, Reg.FT_STEP_RES), (Reg.PM_RES_ACK, Reg.PM_RES), (Reg.GRAFT_CMD_ACK, Reg.GRAFT_CMD_RES),
      (Reg.LEAF_PM_ACK, Reg.LEAF_PM_RES), (Reg.PROT_CMD_ACK, Reg.PROT_CMD_RES), (Reg.MATE_CMD_ACK, Reg.MATE_CMD_RES),
      (Reg.ENG_CMD_ACK, Reg.ENG_CMD_RES), (Reg.ENG_TD_ACK, Reg.ENG_TD_RES), (Reg.PMON_SNAP_ACK, Reg.PMON_SNAP_RES),
      (Reg.BOOT_CMD_ACK, Reg.BOOT_CMD_RES), (Reg.BOOT_FL_ACK, Reg.BOOT_FL_RES), (Reg.LC_ACK, Reg.LC_RES), (Reg.PWR_ACK, Reg.PWR_RES),
      (Reg.PG_SPARE_ACK 0, Reg.PG_SPARE_RES 0), (Reg.DMA_CH_ACK 63, Reg.DMA_CH_RES 63), (Reg.GRAFT_E_ACK 15, Reg.GRAFT_E_RES 15)],
    full.csrAnswers a.1 = true ∧ full.valid a.2 = false ∧ (full.putRes a.2 0 0).valid a.2 = true ∧
      bits ((full.putRes a.2 0 0).rd a.2) 16 8 = 1 := by decide

theorem wit_PowerRequests : full.csrAnswers Reg.PWR_REQ_CMD = true ∧ full.pwr = none ∧ full.valid Reg.PWR_RES = false ∧
    full.fuses.dom 1 = true ∧ full.inReturn = false ∧ fnAtLeast (full.rd48 Reg.PWR_REQ_AT_LO) full.fnN 2 = false ∧
    fnAtLeast ((full.wr Reg.PWR_REQ_AT_LO 2).rd48 Reg.PWR_REQ_AT_LO) full.fnN 2 = true ∧
    full.pwrBusy 1 1 false = false ∧ full.pwrBusy 2 0 false = false ∧ full.pwrBusy 3 0 false = false ∧ full.pwrBusy 4 0 false = false ∧
    ({ full with fuses := { full.fuses with lc := 3 } } : State).inReturn = true ∧ full.csrAnswers (Reg.PWR_LEG_ON 2) = true ∧
    full.csrAnswers (Reg.PWR_LEG_OFF 0) = true ∧ full.pwrRefusal 1 1 false true = none ∧ full.pwrRefusal 2 0 false true = none ∧
    full.pwrRefusal 1 65 false true = some eINUSE := by decide

/-- A host read whose burst into the block of port group 0 has begun. -/
def cutRead : State := { full with xbHold := [(2, 0)], hostQ := [⟨0, 0x1000000, false, List.replicate 4 (true, 0)⟩] }

theorem wit_DomainsMove :
    let s : State := { full with elapsed := 5, pwr := some ⟨1, 1, true, 0, 4, false⟩ }
    s.clk = true ∧ s.ofs = 0 ∧ s.legs = [] ∧ s.pwrRefusal 1 1 false false = none ∧ s.domSt 1 = 0 ∧ s.pwrRefusal 2 0 false false = none ∧
      s.domSt 0 = 2 ∧ s.pwrRefusal 3 0 false false = none ∧ s.pwrRefusal 4 0 false false = none ∧ full.pwr = none ∧ full.legs = [] ∧
      (full.setFld (Reg.PWR_DOM_STAT 1) F.PWR_DOM_STAT_STATE 1).domSt 1 = 1 ∧
      (full.setFld (Reg.PWR_DOM_STAT 0) F.PWR_DOM_STAT_STATE 3).domSt 0 = 3 ∧ tabGet 0 s.domAt 0 < s.elapsed ∧
      s.inFlight 0 = false ∧ ({ cutRead with hostPos := 0 } : State).inFlight 0 = true := by decide

theorem wit_LifeCycleCommands : live.csrAnswers Reg.LC_CMD = true ∧ live.valid Reg.LC_RES = false ∧ live.lcDue = none := by decide

theorem wit_SensorsAndTelemetry : (List.replicate 9 0).length = 9 ∧ live.pins.powerGood = true ∧ live.pins.trip = false ∧
    (∀ t ∈ [(1900 : Int), 0, 0, 0, 0], t < 2000) ∧ (∃ t ∈ [(1900 : Int), 2000, 0, 0, 0], (2000 : Int) ≤ t) ∧
    ({ live with telem := { live.telem with temps := [1, 2] } } : State).telem.temps = 1 :: [2] := by decide

theorem wit_TestAccessPort : live.pins.powerGood = true ∧ live.dbg.sess = false ∧ State.reset.inReset = true ∧ (up 9).bootStep = 9 ∧
    (up 9).inReturn = false ∧ live.inReset = false ∧ live.bootStep ≠ 9 ∧ live.makerOpen = false ∧
    ({ live with fuses := { live.fuses with lc := 3, zeroised := true } } : State).makerOpen = true ∧ live.xbHold = [] ∧ live.dbg.held = none ∧
    ({ live with pins := { live.pins with powerGood := false } } : State).pins.powerGood = false ∧
    ({ up 9 with fuses := { (up 9).fuses with lc := 3 } } : State).inReturn = true ∧ (up 9).fuses.zeroised = false ∧
    ({ live with fuses := { live.fuses with lc := 0 } } : State).makerOpen = true := by decide

/-- A debug session on an unreleased device. -/
def debugged : State := { (up 7) with dbg := { (up 7).dbg with sess := true } }

theorem wit_DebugAccess : debugged.pins.powerGood = true ∧ debugged.dbg.sess = true ∧ debugged.dbg.held = none ∧
    ({ debugged with fuses := { debugged.fuses with lc := 2 } } : State).cdaAllows 0x10000000 true = false ∧
    debugged.cdaAllows 0x10000000 true = true ∧ debugged.inWindow debugged.ofs = true ∧
    debugged.mayBegin (debugged.target 0x10000000) 3 0 = true ∧ debugged.rivals (debugged.target 0x10000000) 3 = [] ∧
    debugged.rivals 2 3 = [] ∧ debugged.holder8 2 = 8 ∧ inCsr (Config.csrBase + 0x12) = true ∧ debugged.csrAnswers (0x12 / 4 * 4) = true ∧
    debugged.cdaAllows (Config.csrBase + 0x10) true = true ∧ debugged.memUp = true ∧ Tab.wf memDefault debugged.mem = true ∧
    debugged.memKey 0x10000000 = some 0x10000000 ∧ inCsr 0x10000000 = false ∧ debugged.isRom 0x10000000 = false ∧
    live.inWindow live.ofs = false ∧ live.cdaAllows 0x10000000 false = true ∧ full.dbg.sess = false ∧ full.capOpen = true ∧
    full.domOn (capDomain false 0) = true ∧ ({ full with fuses := { full.fuses with lc := 2 } } : State).capOpen = false := by decide

/-- A step AT frame 16. -/
def stepped : State := full.wr Reg.FT_STEP_AT_LO 16

theorem wit_FrameTimeCommands : full.csrAnswers Reg.FT_CAP_CMD = true ∧ full.csrAnswers Reg.FT_STEP_CMD = true ∧
    full.valid Reg.FT_STEP_RES = false ∧ full.role ≠ roleSTANDBY ∧ full.role ≠ roleHOLDING ∧ full.timSel ≠ 40 ∧ full.stepState = 0 ∧
    99999 < sext ((full.wr Reg.FT_STEP_CYC 100000).rd Reg.FT_STEP_CYC) 32 ∧ sext ((full.wr Reg.FT_STEP_CYC 0xFFFE7960).rd Reg.FT_STEP_CYC) 32 = -100000 ∧
    fnAtLeast (full.rd48 Reg.FT_STEP_AT_LO) full.fnN 16 = false ∧ fnAtLeast (stepped.rd48 Reg.FT_STEP_AT_LO) stepped.fnN 16 = true ∧
    sext (stepped.rd Reg.FT_STEP_CYC) 32 = 0 ∧ (full.setFld Reg.FT_STAT F.FT_STAT_STEP_STATE 1).stepState = 1 ∧
    (full.setFld Reg.FT_STAT F.FT_STAT_STEP_STATE 2).stepState = 2 ∧ full.stepCyc.natAbs ≤ full.slewMoved ∧
    (full.setFld Reg.FT_STAT F.FT_STAT_ALIGN_STATE 1).fld Reg.FT_STAT F.FT_STAT_ALIGN_STATE = 1 := by decide

theorem wit_StepRelabelsAtItsFrame :
    let s : State := { (full.setFld Reg.FT_STAT F.FT_STAT_STEP_STATE 1) with stepCyc := 25 }
    let u : State := { (up 7).setFld Reg.FT_STAT F.FT_STAT_STEP_STATE 1 with stepNew := 8000, stepCyc := 25 }
    s.clk = true ∧ s.ofs = 0 ∧ s.stepState = 1 ∧ s.stepAt = s.fn ∧ s.role ≠ roleSTANDBY ∧ s.timSel ≠ 40 ∧ s.stepNew = s.fn ∧ s.stepCyc ≠ 0 ∧
      u.stepNew ≠ u.fn ∧ u.stepState = 1 ∧ u.stepAt = u.fn ∧ u.released = false ∧ u.role ≠ roleSTANDBY ∧ u.timSel ≠ 40 ∧ s.ofs < 200000 ∧ s.fuses.lc ≤ 3 ∧
      Tab.wf regReset s.regs = true ∧ Tab.wf regReset u.regs = true := by decide

/-- A good TOD message naming second 0, 10 ms before the present instant. -/
def todBytes : List Byte := let b := [0x01, 0x10, 0, 0, 0, 0, 0, 0, 0x01, 0, 0, 0]; [0x5A, 0xC3] ++ b ++ beBytes (crc16 b) 2

theorem wit_PpsEdgeIsMeasured :
    let s : State := { live with elapsed := 80, tods := [⟨0, todBytes⟩] }
    Safe live ∧ State.reset.clk = false ∧ s.clk = true ∧ s.released = true ∧ s.todFor = some todBytes ∧ todOk todBytes = true ∧
      s.ppsPlace.1.natAbs ≤ max 1 (s.fld Reg.FT_ALIGN_WIN F.FT_ALIGN_WIN_WIN) ∧ beAt todBytes 4 6 = s.ppsPlace.2 / 8000 ∧
      live.todFor = none ∧ s.fnN + 8000 ≤ 281474976710656 ∧ s.ofs < 200000 ∧ s.fnN % 8000 * 200000 + s.ofs ≤ 800000000 ∧
      ({ s with fn := 4001 } : State).fnN % 8000 * 200000 > 800000000 := ⟨⟨by decide, by decide, by decide, rfl, rfl, rfl⟩, by decide +kernel⟩

theorem wit_TheFrameBoundary :
    let o : OutDef := { out := 7, a := 1, b := 2, hasB := true, h := 4800, kind := 2, init := false }
    o.kind = 2 ∧ (live.toOfs 5).ofs ≠ 0 ∧ noInput.ok = true ∧ live.clk = true ∧ live.mate.newFn = none ∧ live.released = true ∧
    State.reset.released = false ∧ ({ State.reset with mate := { newFn := some 5 } } : State).mate.newFn = some 5 ∧ State.reset.clk = false := by decide

theorem wit_BinsAndClosures : live.released = true ∧ State.reset.released = false ∧ ({ live with elapsed := 1 } : State).secStart < ({ live with elapsed := 1 } : State).elapsed ∧ live.img = none ∧
    live.fnN % 8000 = 0 ∧ live.elapsed ≤ live.secStart ∧ live.ofs = 0 ∧ live.fnN % 7200000 = 0 ∧
    ({ live with fn := 7200000 } : State).s15.first ≠ ({ live with fn := 7200000 } : State).fnN ∧
    ({ live with fn := 7200000 } : State).fnN % 7200000 = 0 ∧ live.s24.shift = live.dayShift ∧ (live.wr Reg.FT_BIN_CTRL 6).dayShift ≠ live.s24.shift ∧ live.leafReq = none ∧
    ({ live with fn := 691200000 } : State).fnN % 691200000 = 7200000 * live.s24.shift ∧
    ({ live with fn := 691200000 } : State).s24.first ≠ 691200000 ∧ live.csrAnswers Reg.PM_RD_REQ = true ∧ live.valid Reg.PM_RES = false ∧
    live.pmReq = none ∧ (live.pendRes Reg.PM_RES).isPending Reg.PM_RES = true ∧ 5 ∉ bare.pmLine ∧
    ({ live with s15 := { waiting := [(3, 0)] }, elapsed := 72000 } : State).s15.waiting = [(3, 0)] := by decide +kernel

/-- Candidate 0 in a state, with a frequency fault, its counters full. -/
def cand (st : Nat) : State :=
  (((live.setFld (Reg.TIM_REF_STAT 0) F.TIM_REF_STAT_STATE st).setFlag (Reg.TIM_REF_STAT 0) F.TIM_REF_STAT_FREQ_FAULT true).wr
    (Reg.TIM_REF_CFG 0) 2).wr (Reg.TIM_REF_PRI 0) 1 |>.updRef 0 fun r => { r with good := 5760000, agree := 8000, freqIn := 8000 }

theorem wit_CandidateStates : (cand 1).refSt 0 = 1 ∧ 8000 ≤ ((cand 1).ref 0).good ∧ (cand 3).refSt 0 = 3 ∧ (cand 3).timWtr ≤ ((cand 3).ref 0).good ∧
    (cand 5).refSt 0 = 5 ∧ 8000 ≤ ((cand 5).ref 0).agree ∧ Tab.wf regReset (cand 2).regs = true ∧ (cand 2).refSt 0 = 2 ∧
    (cand 2).flag (Reg.TIM_REF_STAT 0) F.TIM_REF_STAT_FREQ_FAULT = true ∧ 8000 ≤ ((cand 2).ref 0).freqIn ∧
    (cand 2).flag (Reg.TIM_REF_STAT 0) F.TIM_REF_STAT_SIG_FAULT = false ∧ (cand 1).refOn 0 = true ∧ (cand 1).refTy 0 = 2 ∧ live.refOn 0 = false := by decide

theorem wit_TimingUnitEvents :
    let s : State := { live with tim := { live.tim with settleEnd := some 0, lockRun := 8000, badRun := 80 } }
    s.tim.settleEnd = some 0 ∧ 0 ≤ s.elapsed ∧ (s.setFld Reg.TIM_STAT F.TIM_STAT_STATE 1).timSt = 1 ∧
      (s.setFld Reg.TIM_STAT F.TIM_STAT_STATE 2).timSt = 2 ∧ live.csrAnswers Reg.TIM_HCTRL = true ∧ live.csrAnswers Reg.TIM_LOCKOUT_0 = true ∧
      live.csrAnswers Reg.TIM_LOCKOUT_1 = true ∧ noInput.ok = true ∧ live.built = true ∧ Tab.wf regReset live.regs = true ∧
      (live.wr Reg.TIM_HCTRL 1).flag Reg.TIM_HCTRL F.TIM_HCTRL_FORCE_HO = true ∧ (live.wr Reg.TIM_LOCKOUT_1 128).bit Reg.TIM_LOCKOUT_1 (39 % 32) = true ∧ live.clk = true ∧ todOk todBytes = true ∧ todOk [] = false ∧ 2 ≤ live.bootStep ∧
      ({ live with fn := 4000 } : State).fnN % 8000 = 4000 := by decide +kernel

theorem wit_PpsOutput :
    let s : State := { live with tim := { live.tim with ppsHigh := some 0 } }
    s.clk = true ∧ 2 ≤ s.bootStep ∧ s.ofs = 0 ∧ s.fnN % 8000 = 0 ∧
      (s.setFlag Reg.TIM_PPS_OUT F.TIM_PPS_OUT_SQ_UNSET false).flag Reg.TIM_PPS_OUT F.TIM_PPS_OUT_SQ_UNSET = false ∧
      (s.setFlag Reg.TIM_PPS_OUT F.TIM_PPS_OUT_SQ_UNSET true).flag Reg.TIM_PPS_OUT F.TIM_PPS_OUT_SQ_UNSET = true ∧
      s.flag Reg.FT_STAT F.FT_STAT_TIME_SET = false ∧ s.elapsed < 0 + max 1 (s.fld Reg.TIM_PPS_OUT F.TIM_PPS_OUT_WIDTH) := by decide

/-- A paired unit in sync with the arbiter, in a role. -/
def mated (r : Nat) : State :=
  (((full.setFlag Reg.MATE_CFG F.MATE_CFG_MODE true).setFlag Reg.MATE_STAT F.MATE_STAT_ARB_SYNC true).setFld Reg.MATE_STAT
    F.MATE_STAT_ROLE r).setFld Reg.PWR_STAT F.PWR_STAT_STATE 0

theorem wit_LeaseProtocol :
    let s : State := (mated roleACTIVE).updMate fun m => { m with out := [⟨7, 0, 0, 1⟩], held := 1, lease := some 0, relEpoch := some 1 }
    let g : Nat → List Byte := fun ty => grinusFrame ty 0 7 (beBytes 1 4 ++ beBytes 64 2 ++ [0, 0])
    (mated roleSTANDBY).requestDue = true ∧ s.mateUp = true ∧ s.flag Reg.MATE_STAT F.MATE_STAT_ARB_SYNC = true ∧ grinusOk (g 2) = true ∧
      Tab.wf regReset s.regs = true ∧ s.reqFor (beAt (g 2) 6 2) = some ⟨7, 0, 0, 1⟩ ∧ beAt (g 2) 1 1 = 2 ∧ beAt (g 3) 1 1 = 3 ∧
      s.elapsed < 0 + beAt (slice (g 2) 8 (beAt (g 2) 2 2)) 4 2 ∧ beAt (slice (g 5) 8 (beAt (g 5) 2 2)) 0 4 = 1 ∧ beAt (g 5) 1 1 = 5 ∧
      beAt (g 6) 1 1 = 6 ∧ beAt (slice (g 6) 8 (beAt (g 6) 2 2)) 6 2 < 40 ∧ grinusOk [] = false ∧
      s.role = roleACTIVE ∧ (mated roleHOLDING).role = roleHOLDING ∧
      s.csrAnswers Reg.MATE_CMD = true ∧ s.valid Reg.MATE_CMD_RES = false ∧ s.inReturn = false := by decide +kernel

theorem wit_NirrinLink :
    let s : State := (((mated roleSTANDBY).setFlag (Reg.MATE_LANE_STAT 0) F.MATE_LANE_STAT_LOCK true).setFlag Reg.MATE_CTRL
      F.MATE_CTRL_SELFTEST true).updMate fun m => { m with badRun := 16, goodRun := 64, peerAt := some 0 }
    let b : List Byte := [2] ++ beBytes 2318 2 ++ [0]
    s.mateUp = true ∧ s.nlock 0 = true ∧ Tab.wf regReset s.regs = true ∧ (s.nlane 0).lockPos + nirrinPeriod = 26547200 ∧
      awDiff (beBytes nirrinAW 6) nirrinAW 6 ≤ 3 ∧ beAt b 0 1 = 2 ∧ beAt b 3 1 % 8 = 0 ∧ beAt b 1 2 = 2318 ∧
      (s.setFlag Reg.MATE_STAT F.MATE_STAT_LINK_UP true).flag Reg.MATE_STAT F.MATE_STAT_LINK_UP = true ∧
      s.flag Reg.MATE_STAT F.MATE_STAT_LINK_UP = false ∧ s.role = roleSTANDBY ∧ s.mate.mirAt + 17 ≤ 17 ∧ s.mate.peerAt = some 0 ∧
      s.flag Reg.MATE_CTRL F.MATE_CTRL_SELFTEST = true ∧ s.mate.loopOn = none ∧ s.loopNext = some 0 ∧ s.mate.loopAt = none ∧
      (s.updMate fun m => { m with loopOn := some 0 }).mate.loopOn = some 0 ∧ s.selfTests = true ∧
      (s.setFlag Reg.MATE_CTRL F.MATE_CTRL_SELFTEST false).selfTests = false := by decide +kernel

/-- The first and the last chunk of a fallback mirror of frame 0 that is 0 in every byte its CRC covers but the magic and an epoch that brings
the CRC register to 0, where zeros keep it. -/
def fbHead : List Byte := [0x4D, 0x31, 0, 0, 0, 0, 0, 0, 0, 0, 3, 61, 238, 228] ++ List.replicate 2034 0
def fbTail : List Byte := List.replicate 192 0 ++ [0xFF, 0xFF, 0xFF, 0xFF] ++ List.replicate 1852 0

/-- The 40 chunks. -/
def fbChunks : List (List Byte) := fbHead :: (List.replicate 38 (List.replicate 2048 0) ++ [fbTail])

/-- A DIVERGED unit in frame 16 that holds them. -/
def fbHolds : State :=
  ({ mated roleDIVERGED with fn := 16, img := some bare }).updMate fun m => { m with chunkFn := 0, chunks := fbChunks.zipIdx.map (fun (x : List Byte × Nat) => (x.2, x.1)) }

theorem fb_register (n : Nat) : (List.replicate n (0 : Byte)).foldl crc32cByte 0 = 0 := by
  induction n with
  | zero => rfl
  | succ n ih => rw [List.replicate_succ, List.foldl_cons, show crc32cByte 0 0 = 0 by decide, ih]

theorem fb_flat : fbChunks.flatten = ([0x4D, 0x31, 0, 0, 0, 0, 0, 0, 0, 0, 3, 61, 238, 228] ++ List.replicate 80050 0) ++
    ([0xFF, 0xFF, 0xFF, 0xFF] ++ List.replicate 1852 0) := by
  simp only [fbChunks, fbHead, fbTail, List.flatten_cons, List.flatten_append, List.flatten_nil, List.append_nil,
    List.flatten_replicate_replicate, List.append_assoc]
  rw [← List.append_assoc (List.replicate 2034 0), List.replicate_append_replicate, ← List.append_assoc (List.replicate _ 0),
    List.replicate_append_replicate]

theorem fb_length : ([0x4D, 0x31, 0, 0, 0, 0, 0, 0, 0, 0, 3, 61, 238, 228] ++ List.replicate 80050 (0 : Byte)).length = 80064 := by
  rw [List.length_append, List.length_replicate]; rfl

theorem wit_FallbackApplies :
    let cs := (List.range 40).map fun k => tabGet [] fbHolds.mate.chunks k
    fbHolds.mateUp = true ∧ fbHolds.ofs = 0 ∧ fbHolds.role = roleDIVERGED ∧ fbHolds.fnN % 16 = 0 ∧
      (fbHolds.fnN + 281474976710656 - 16) % 281474976710656 = 0 ∧ fbHolds.img = some bare ∧ fallbackWhole cs fbHolds.mate.chunkFn 0 = true ∧
      fbHolds.mirrorCheck cs.flatten = 0 ∧ (fbHolds.wr (Reg.GRAFT_RUN_DIGEST 0) 1).mirrorCheck cs.flatten = 3 := by
  intro cs
  have hc : cs = fbChunks := rfl
  rw [hc]
  have ht : fbChunks.flatten.take 80064 = [0x4D, 0x31, 0, 0, 0, 0, 0, 0, 0, 0, 3, 61, 238, 228] ++ List.replicate 80050 0 := by
    rw [fb_flat, List.take_left' fb_length]
  have hd : slice fbChunks.flatten 80064 4 = [0xFF, 0xFF, 0xFF, 0xFF] := by
    rw [slice, fb_flat, List.drop_left' fb_length]
    rfl
  have hcrc : crc32c (fbChunks.flatten.take 80064) = 0xFFFFFFFF := by
    rw [ht, crc32c, List.foldl_append, show ([0x4D, 0x31, 0, 0, 0, 0, 0, 0, 0, 0, 3, 61, 238, 228] : List Byte).foldl crc32cByte 0xFFFFFFFF = 0 by decide +kernel,
      fb_register]
    rfl
  refine ⟨by decide +kernel, rfl, by decide +kernel, by decide +kernel, by decide +kernel, rfl, ?_, by decide +kernel, by decide +kernel⟩
  simp only [fallbackWhole, hcrc, beAt, hd]
  decide +kernel

theorem wit_Mirrors :
    let s : State := { (mated roleACTIVE) with ofs := 190000, img := some bare }
    let u : State := { (mated roleSTANDBY) with img := some bare }
    let z : List Byte := List.replicate 64 0
    s.clk = true ∧ s.ofs = 190000 ∧ live.clk = true ∧ live.ofs < 190000 ∧ State.reset.clk = false ∧ ({ s with ofs := 0 } : State).role = roleACTIVE ∧
      ({ u with ofs := 190000 } : State).role ≠ roleACTIVE ∧ live.mateUp = false ∧ s.role = roleACTIVE ∧ s.mateUp = true ∧ s.fnN % 16 = 0 ∧ u.mateUp = true ∧ u.ofs = 0 ∧
      u.role = roleSTANDBY ∧ u.mate.mirror = none ∧ u.elapsed < u.mate.mirAt + 17 ∧ u.mirrorCheck z = 0 ∧ (u.wr Reg.MATE_EPOCH 1).mirrorCheck z = 4 ∧
      (u.wr (Reg.GRAFT_RUN_DIGEST 0) 1).mirrorCheck z = 3 ∧ (mated roleDIVERGED).role = roleDIVERGED ∧ fallbackWhole ((List.range 40).map fun k => tabGet [] u.mate.chunks k) u.mate.chunkFn 0 = false ∧
      (mated roleDIVERGED).mateUp = true := by decide +kernel

theorem wit_LaserFibres : fibreLane 20 0 = (16, 3) ∧ fibreLane 20 13 = (29, 16) ∧ fibreLane 67 15 = (63, 14) ∧ laneFibre 63 16 = 52 ∧
    laneFibre 0 16 = 16 ∧ fibreLane 17 15 = (31, 15) ∧ fibreLane 67 0 = (48, 16) := by decide

/-- A full section with these entries. -/
def sec (ty inst esize : Nat) (e : List (List Byte)) : Section :=
  { ty := ty, inst := inst, patch := false, esize := esize, count := e.length, runs := [⟨0, e.length, false, (e.map fun b => slice b 0 esize).flatten⟩], pos := 0 }

/-- Group 0 with one 8-lane port on lanes 0 to 7, sparing on, every automatic request on, its lanes lit. -/
def spared : State :=
  { (((full.setFld (Reg.PG_SPARE_CTRL 0) F.PG_SPARE_CTRL_MODE 2).setFlag (Reg.PG_SPARE_CTRL 0) F.PG_SPARE_CTRL_AUTO_FAIL true).setFlag
      (Reg.PG_SPARE_CTRL 0) F.PG_SPARE_CTRL_AUTO_DEG true).setFlag (Reg.PG_LANE_STAT 0 1) F.PG_LANE_STAT_LIGHT true with
    img := some { bare with sections := [sec secPORT 0 4 [[1, 2, 0, 0]]] } }

theorem wit_LaneEvents : spared.domOn 0 = true ∧ spared.looped 0 1 = false ∧ spared.rxUsed 0 1 = true ∧ full.rxUsed 0 1 = false ∧
    (full.setFlag (Reg.PG_LANE_STAT 0 1) F.PG_LANE_STAT_LIGHT true).flag (Reg.PG_LANE_STAT 0 1) F.PG_LANE_STAT_LIGHT = true ∧ spared.flag (Reg.PG_LANE_STAT 0 1) F.PG_LANE_STAT_LIGHT = true ∧
    (spared.lane 0 1).degraded = false ∧ 100 ≤ ((spared.updLane 0 1 fun n => { n with corRun := 100 }).lane 0 1).corRun ∧
    spared.sparing 0 = true ∧ spared.spareable 0 1 = true ∧ spared.spareable 0 8 = false ∧ (spared.spare 0).pauseTo = 0 ∧ spared.rxSt 0 = 0 ∧
    spared.flag (Reg.PG_SPARE_CTRL 0) F.PG_SPARE_CTRL_AUTO_FAIL = true ∧
    spared.flag (Reg.PG_SPARE_CTRL 0) F.PG_SPARE_CTRL_AUTO_DEG = true := by decide +kernel

/-- A good lane tag and one whose alignment word is missed. -/
def tagAt (pos : Nat) (good : Bool) : TagRx := ⟨pos, if good then tagBytes 2 1 1 5 0 0 else List.replicate 32 0, 0⟩

theorem wit_LaneTags :
    let s : State := spared.setFlag (Reg.PG_LANE_STAT 0 1) F.PG_LANE_STAT_TAG_LOCK true
    let t : TagRx := tagAt 11141376 true
    s.domOn 0 = true ∧ s.locked 0 1 = true ∧ t.pos = (s.lane 0 1).lockPos + tagPeriod ∧ awDiff t.bytes tagAW 6 ≤ 2 ∧
      crc16 (slice t.bytes 6 24) = beAt t.bytes 30 2 ∧ crc16 (slice (beBytes tagAW 6 ++ [1]) 6 24) ≠ beAt (beBytes tagAW 6 ++ [1]) 30 2 ∧
      3 < awDiff (tagAt 0 false).bytes tagAW 6 ∧ (s.lane 0 1).miss < 4 ∧
      4 ≤ ((s.updLane 0 1 fun n => { n with miss := 4 }).lane 0 1).miss ∧ Tab.wf regReset full.regs = true ∧
      Tab.wf (fun _ => ({} : Lane)) full.lanes = true ∧ s.rxUsed 0 1 = true ∧ s.looped 0 1 = false ∧ full.rxUsed 0 1 = false ∧
      spared.locked 0 1 = false ∧ (spared.lane 0 1).cands = [] ∧
      ((spared.updLane 0 1 fun n => { n with cands := [⟨0, 2⟩] }).lane 0 1).cands = [⟨0, 2⟩] := by decide +kernel

/-- The sparing group with states of its two ends. -/
def sparedAt (rx tx : Nat) : State := setTx (setRx spared 0 rx 1) 0 tx 1

theorem wit_SparingCommands : spared.csrAnswers (Reg.PG_SPARE_CMD 0) = true ∧ full.sparing 0 = false ∧ spared.sparing 0 = true ∧
    spared.spareable 0 1 = true ∧ spared.rxSt 0 = 0 ∧ (sparedAt 3 0).rxSt 0 = 3 ∧ (sparedAt 3 0).rxLane 0 ≠ 2 ∧
    (sparedAt 3 0).laneFailed 0 2 = true ∧ ((sparedAt 3 0).spare 0).reason ≠ 3 ∧ (sparedAt 1 0).rxSt 0 ≠ 0 ∧ (sparedAt 3 0).rxLane 0 = 1 ∧
    spared.txSt 0 = 0 ∧ msgCode (spared.farRx 0) = 0 ∧ (spared.spare 0).txWant = none ∧ (sparedAt 0 1).txSt 0 ≠ 0 ∧
    (sparedAt 0 1).txSt 0 ≠ 4 ∧ (sparedAt 0 1).txLane 0 = 1 ∧ (sparedAt 0 4).txSt 0 = 4 := by decide +kernel

theorem wit_SparingStates :
    let late : State := { (sparedAt 1 0) with elapsed := 9000 }
    let far : Nat → Nat → State := fun rx tx => (spared.setFld (Reg.PG_SPARE_FAR 0) F.PG_SPARE_FAR_FAR_RX_MSG rx).setFld (Reg.PG_SPARE_FAR 0)
      F.PG_SPARE_FAR_FAR_TX_MSG tx
    let ok : State := { ((((sparedAt 2 0).setFlag (Reg.PG_LANE_STAT 0 16) F.PG_LANE_STAT_TAG_LOCK true).setFld (Reg.PG_LANE_STAT 0 16)
      F.PG_LANE_STAT_PORT_LANE 1).updLane 0 16 fun n => { n with placed := true, width := 8 }) with elapsed := 9000 }
    let paused : State := { (spared.updSpare 0 fun x => { x with pauseTo := 8000 }) with elapsed := 9000 }
    spared.domOn 0 = true ∧ spared.ofs = 0 ∧ spared.sparing 0 = true ∧ spared.spareable 0 1 = true ∧ spared.txSt 0 = 0 ∧
      msgLane ((far 0x1301 0).farRx 0) = 1 ∧ msgCode ((far 0x1301 0).farRx 0) = 1 ∧ msgCode ((far 0x2301 0).farRx 0) = 2 ∧
      (sparedAt 0 1).txSt 0 = 1 ∧ msgCode ((sparedAt 0 1).farRx 0) = 0 ∧ ((sparedAt 0 1).spare 0).txSelf = false ∧
      (sparedAt 1 0).rxSt 0 = 1 ∧ msgCode ((far 0 0x1001).farTx 0) = 1 ∧ msgLane ((far 0 0x1001).farTx 0) = (sparedAt 1 0).rxLane 0 ∧
      msgCode ((far 0 0x3000).farTx 0) = 3 ∧ late.rxSt 0 = 1 ∧
      (late.spare 0).since + max 16 (late.fld (Reg.PG_SPARE_TMR 0) F.PG_SPARE_TMR_TIMEOUT) ≤ late.elapsed ∧ ok.rxSt 0 = 2 ∧
      (ok.spare 0).since + max 8 (ok.fld (Reg.PG_SPARE_TMR 0) F.PG_SPARE_TMR_VERIFY) ≤ ok.elapsed ∧ ok.verifyOk 0 = true ∧
      (ok.spare 0).bad = false ∧ ok.sparing 0 = true ∧ (far 0x1301 0).txSt 0 = 0 ∧ ((far 0x1301 0).spare 0).txWant = none ∧
      (((far 0x1301 0).updSpare 0 fun y => { y with txWant := some 2 }).spare 0).txWant = some 2 ∧ (sparedAt 1 0).sparing 0 = true ∧
      ((sparedAt 1 0).setFld (Reg.PG_SPARE_CTRL 0) F.PG_SPARE_CTRL_MODE 1).sparing 0 = false ∧ (sparedAt 4 0).rxSt 0 = 4 ∧
      paused.flag (Reg.PG_SPARE_CTRL 0) F.PG_SPARE_CTRL_AUTO_FAIL = true ∧ (paused.spare 0).pauseTo ≠ 0 ∧ (paused.spare 0).pauseTo ≤ paused.elapsed ∧ paused.rxSt 0 = 0 ∧
      (List.range 16).find? (fun l => paused.spareable 0 l && paused.laneFailed 0 l) = some 0 := by decide +kernel

theorem wit_LasersAndLaneTagsSent :
    let spared : State := spared.setFld Reg.PWR_STAT F.PWR_STAT_STATE 0
    let on : Nat → State := fun st => (spared.setFlag (Reg.PG_ELS_STAT 1) F.PG_ELS_STAT_DRIVEN true).setFld (Reg.PG_ELS_STAT 1)
      F.PG_ELS_STAT_STATE st
    let m : State := spared.setFld (Reg.PG_ELS_STAT 69) F.PG_ELS_STAT_STATE 1
    let lit : State := spared.setFlag (Reg.PG_ELS_STAT 16) F.PG_ELS_STAT_DRIVEN true
    spared.flag (Reg.PG_ELS_STAT 0) F.PG_ELS_STAT_DRIVEN = false ∧ (on 0).flag (Reg.PG_ELS_STAT 1) F.PG_ELS_STAT_DRIVEN = true ∧
      Tab.wf regReset (on 0).regs = true ∧ (on 0).elsSt 1 = 0 ∧ (on 1).elsSt 1 = 1 ∧ (on 3).elsSt 1 = 3 ∧
      (((on 3).setElsRuns 1 (800, 80)).elsRuns 1) = (800, 80) ∧ m.ofs = 0 ∧ m.elsSt (m.mateFibre 0) ≠ 1 ∧ m.elsSt 69 = 1 ∧
      m.elsSt 68 ≠ 1 ∧ tabGet 0 m.mateMods 0 < 2 ∧ (m.wr Reg.PG_ELS_MATE 1).elsSt ((m.wr Reg.PG_ELS_MATE 1).mateFibre 0) = 1 ∧
      (m.wr Reg.PG_ELS_MATE 1).mateFibre 0 = 69 ∧ Tab.wf regReset m.regs = true ∧ (∀ x, x < 8 → spared.elsSt (68 + x / 2) ≠ 1) ∧
      laneFibre 0 16 = 16 ∧ spared.sendPort 0 9 = none ∧ spared.sendPort 0 16 = none ∧ spared.lit 0 16 = false ∧ lit.sendPort 0 16 = none ∧
      lit.spareMode 0 ≠ 0 ∧ lit.txSt 0 = 0 ∧ lit.lit 0 16 = true ∧ lit.looped 0 16 = false ∧
      spared.sendPort 0 1 = some ⟨0, 0, 8, 0⟩ ∧ (on 1).lit 0 1 = true ∧ (∀ l ∈ (on 1).portLanes ⟨0, 0, 8, 0⟩, (on 1).looped 0 l = false) := by decide +kernel

/-- Group 0's port with ODU 0 of one slot. -/
def mapped : State :=
  { (spared.setFld Reg.PWR_STAT F.PWR_STAT_STATE 0) with
    img := some { bare with sections := [sec secPORT 0 4 [[1, 2, 0, 0]], sec secODU 0 16 [[0, 0, 0, 0x20, 1, 0, 1, 0]]] } }

theorem wit_ReceivedFrames :
    let s : State := mapped.updSlc 0 fun c => { c with fas := { on := true, ones := 1, zeros := 0 } }
    let c : State := ((s.setFlag (Reg.PG_LANE_STAT 0 0) F.PG_LANE_STAT_TAG_LOCK true).updLane 0 0 fun n => { n with placed := true, width := 8 })
    s.domOn 0 = true ∧ s.looped 0 0 = false ∧ (s.setFlag (Reg.PG_LANE_CTRL 0 0) F.PG_LANE_CTRL_LOOP true).looped 0 0 = true ∧ (s.img.bind (·.portOfSlice 16)) = none ∧ (s.img.bind (·.portOfSlice 0)) = some ⟨0, 0, 8, 0⟩ ∧ s.locked 0 0 = false ∧ c.locked 0 0 = true ∧
      (fecCount c 0 0 0 0).portSource ⟨0, 0, 8, 0⟩ 0 = some 0 ∧ (fecCount c 0 0 0 0).portSource ⟨0, 0, 8, 0⟩ 1 ≠ some 0 ∧
      (s.slc 0).fas.on = true ∧ (s.img.bind (·.odu? 1)) = none ∧ (s.img.bind (·.odu? 0)).isSome = true ∧
      ((s.updOh 0 fun o => { o with bdi := { o.bdi with ones := 4, zeros := 4 } }).ohx 0).bdi.ones = 4 ∧
      ((s.updOh 0 fun o => { o with bdi := { o.bdi with ones := 4, zeros := 4 } }).ohx 0).bdi.zeros = 4 ∧ (s.ohx 0).bdi.ones < 4 ∧
      (s.ohx 0).bdi.zeros < 4 := by decide +kernel

theorem wit_AisReplacement :
    let s : State := mapped.setDef (entOdu 0) 0 true
    let u : State := mapped.updOdu 0 fun o => { o with aisIns := true }
    Tab.wf regReset s.regs = true ∧ Tab.wf (fun _ => ({} : Odu)) s.odus = true ∧ Tab.wf (fun _ => ({} : Odu)) u.odus = true ∧
      Tab.wf regReset u.regs = true ∧ (u.img.bind (·.odu? 0)).isSome = true ∧ (s.img.bind (·.odu? 0)).isSome = true ∧ s.aisCause 0 = true ∧ (s.oduS 0).aisIns = false ∧
      u.aisCause 0 = false ∧ (u.oduS 0).aisIns = true ∧ mapped.aisCause 0 = false := by decide +kernel

theorem wit_FailuresAndTheirRecords :
    let f : Nat → State := fun k => { mapped with fails := tabSet {} mapped.fails (failKey k 0x20) ({ up := false, set := 30000, clr := 0 } : Fail) }
    let c : State := { mapped with fails := tabSet {} mapped.fails (failKey 64 0x20) ({ up := true, set := 0, clr := 80000 } : Fail) }
    let q : Bool → Fail := fun u => { up := u, set := 30000, clr := 80000 }
    let p : Bool → State := fun u => { mapped with fails := tabSet {} mapped.fails (failKey (protKey 0) 0x50) (q u) }
    let o : State := { mapped with img := some { bare with sections := [sec secOWN 0 8 [[0, 0, 0, 0x20, 3, 0, 0, 0]],
      sec secQUEUE 0 32 [[3, 1, 7, 0, 0, 0, 0, 0, 0, 0, 0, 0]]] } }
    let l : Bool → State := fun u => { mapped with fails := tabSet {} mapped.fails (failKey (leafFailKey 0x45 0) 0x45) (q u) }
    (l false).failDue (leafFailKey 0x45 0) 0x45 = true ∧ (l true).clearDue (leafFailKey 0x45 0) 0x45 = true ∧
      (l true).dutyUp (leafAlarmHandle 0x45 0) = true ∧ (l false).dutyUp (leafAlarmHandle 0x45 0) = true ∧ (l false).smpDue = false ∧ mapped.smpDue = false ∧
      (f 64).failDue 64 0x20 = true ∧ heldCode 0x20 = false ∧ mapped.failDue 64 0x20 = false ∧ c.clearDue 64 0x20 = true ∧
      mapped.clearDue 64 0x20 = false ∧ (p false).failDue (protKey 0) 0x50 = true ∧ (p true).clearDue (protKey 0) 0x50 = true ∧
      o.owner (handle 2 0) = some 3 ∧ (f 64).dutyUp ((f 64).entHandle 64) = true ∧ c.dutyUp (c.entHandle 64) = true ∧
      Tab.wf (fun _ => ({} : Fail)) (f 64).fails = true ∧ (l false).carSsf 0 State.defSmp = false ∧ mapped.failDue (leafFailKey 0x45 0) 0x45 = false ∧
      mapped.clearDue (protKey 0) 0x50 = false ∧ (p true).dutyUp (handle 4 0) = true ∧ (p false).dutyUp (handle 4 0) = true ∧ (o.img.bind (·.role? 1 (engQuad 3) 0 0)) = some 7 := by decide +kernel

theorem wit_GccChannels :
    let r : List Byte := [0, 0, 0, 0x10, 0, 2, 0, 0, 5, 6, 0, 0, 0, 0, 0, 0]
    let s : State := { mapped with elapsed := 2, gcc := tabSet {} mapped.gcc 0 { rx := [1], since := 0 }, img := some { bare with
      sections := [sec secQUEUE 0 32 [[3, 7, 9, 0, 0, 0, 0, 0, 0, 0, 0, 0x10], [1, 1, 9, 0, 1, 4, 0, 0, 0, 0, 0, 0, 0, 0, 0, 0]]] } }
    let u : State := s.setQue 9 { s.que 9 with fill := 1 }
    let v : State := u.memPut 0 r
    (tabGet {} mapped.gcc 0 : Gcc).rx = [] ∧ (tabGet {} s.gcc 0 : Gcc).rx ≠ [] ∧ (tabGet {} s.gcc 0 : Gcc).since + 2 ≤ s.elapsed ∧
      (mapped.img.bind (·.role? 7 0 0 (handle 1 0))) = none ∧ (s.img.bind (·.role? 7 0 0 (handle 1 0))) = some 9 ∧
      (s.img.bind (·.queue? 9)).isSome = true ∧ ((s.img.bind (·.queue? 9)).map (·.fromHost)) = some true ∧ (s.que 9).fill = 0 ∧
      (u.que 9).fill ≠ 0 ∧ leAt (v.memGet 0 16) 0 4 = handle 1 0 ∧ leAt (v.memGet 0 16) 4 1 = 0 ∧ leAt (v.memGet 0 16) 5 1 = 2 ∧
      leAt (u.memGet 0 16) 5 1 < 1 := by decide +kernel

theorem wit_TrunkSwitchEvents :
    let s : State := { mapped with ofs := 1, img := some { bare with sections := [sec secODU 0 16 [[0, 0, 0, 0x20, 1, 0, 1, 0]]] } }
    let m : Image := { bare with sections := [sec secTRUNKOUT 0 16 [[0, 0, 0, 0x20, 0, 0, 0, 0x20, 0, 0, 0, 0, 0, 0, 1, 0]]] }
    (s.img).isSome = true ∧ (bare.outRec 0).kind = 0 ∧ (m.outRec 0).kind ≠ 0 ∧ mapped.csrAnswers Reg.TRK_TEST_CMD = true ∧
      mapped.fuses.sw 0 = true ∧ mapped.fuses.sw 100 = false ∧ ({ s with remaps := [(0, { fill := 2000 })] } : State).outOfWindow m 0 = true ∧
      s.outOfWindow m 0 = false ∧ testSource s.frameFn 0 0 5 = 5 ∧ s.fuses.sw 5 = true ∧ (5, s.elapsed) ∉ s.injectSw ∧
      (5, 0) ∈ ({ s with injectSw := [(5, 0)] } : State).injectSw ∧ s.fuses.links 0 = true ∧ testBad s 5 0 ⟨6, 0, 0, 0⟩ = true ∧
      ({ s with fuses := { s.fuses with quads := 14 } } : State).fuses.links 0 = false ∧ ({ s with fuses := { s.fuses with quads := 14 } } : State).fuses.sw 3 = false ∧
      mapped.flag Reg.TRK_EVT F.TRK_EVT_BREACH = false ∧
      (mapped.evt Reg.TRK_EVT F.TRK_EVT_BREACH).flag Reg.TRK_EVT F.TRK_EVT_BREACH = true := by decide +kernel

/-- A test word of switch 5 that is the one sent. -/
theorem wit_goodTestWord : testBad mapped 5 0 ⟨5, 0, mapped.frameFn % 65536, Config.testBody 5 0 (mapped.frameFn % 65536)⟩ = false := by
  simp [testBad]

/-- Leaf carrier 0 is declared. -/
def leafed : State := { mapped with img := some { bare with sections := [sec secLEAFCAR 0 80 [[1]]] } }

set_option maxRecDepth 20000 in
theorem wit_LeafCarrierFrames :
    let leafed : State := { leafed with img := some { bare with sections := [sec secLEAFCAR 0 80 [[1]],
      sec secTRUNKOUT 0 16 [[0, 0xA0, 0, 0x20, 0, 0, 0, 0x20, 0, 0, 0, 0, 0, 0, 1, 0]]] } }
    let s : State := leafed.setFld (Reg.LEAF_CAR_STAT 0) F.LEAF_CAR_STAT_IN_FRAME 1
    let oh : List Byte := carAW ++ List.replicate 1018 0
    let k : Nat → State := fun n => leafed.updCar 0 fun x => { x with cands := [⟨0, 2, 63⟩], miss := n, qlAge := 0 }
    oh.length = 1024 ∧ full.carDeclared 0 = false ∧ s.leafUp = true ∧ s.carDeclared 0 = true ∧ (s.leafIn 0) = (true, true) ∧ s.inFrame 0 = true ∧
      slice oh 0 6 = carAW ∧ slice ([] : List Byte) 0 6 ≠ carAW ∧ (s.car 0).miss < 4 ∧ 4 ≤ ((k 4).car 0).miss ∧ Tab.wf regReset s.regs = true ∧
      leafed.inFrame 0 = false ∧ (leafed.car 0).cands = [] ∧ ((k 0).car 0).cands = [⟨0, 2, 63⟩] ∧ leAt oh 6 1 % 64 = (63 + 1) % 64 ∧
      crc16 (slice ([1] : List Byte) 512 512) ≠ beAt (List.replicate 12 0 ++ [1, 2]) 12 2 ∧
      ({ leafed.setDef (carKey 0) 12 true with elapsed := 8000 } : State).defNow (carKey 0) 12 = true ∧
      (leafed.car 0).qlAge + 8000 ≤ 8000 ∧ leafed.defNow (carKey 0) 12 = false := by decide +kernel

set_option maxRecDepth 20000 in
theorem wit_LeafStatuses : crc16 (slice (List.replicate 12 0 ++ beBytes (crc16 (List.replicate 512 0)) 2) 512 512) =
    beAt (List.replicate 12 0 ++ beBytes (crc16 (List.replicate 512 0)) 2) 12 2 := by decide +kernel

theorem wit_LeafPmRequests :
    let s : State := ({ leafed with leafReq := some ⟨65536, 0, 0, some [1]⟩ } : State).pendRes Reg.LEAF_PM_RES
    leafed.csrAnswers Reg.LEAF_PM_REQ = true ∧ leafed.valid Reg.LEAF_PM_RES = false ∧ leafed.leafReq = none ∧ s.leafReq = some ⟨65536, 0, 0, some [1]⟩ ∧
      s.isPending Reg.LEAF_PM_RES = true ∧ leafed.ofs = 0 ∧ leafed.pmReq = none ∧ ({ leafed with elapsed := 1 } : State).elapsed = (⟨65536, 0, 0, none⟩ : RdReq).since + 1 ∧ ((s.img.map (·.pmLeaf)).getD []).contains (leafKey + 65536) = true ∧
      ((s.img.map (·.pmLeaf)).getD []).contains (leafKey + 5) = false := by decide +kernel

/-- Protection group 0, of type `ty`, on ODUs 0 and 1, directed as `dir` says. -/
def grouped (ty dir : Nat) : State :=
  { mapped with img := some { bare with sections := [sec secPROT 0 32 [[0, 0, 0, 0x40, byte ty, byte dir, 0, 0, 0, 0, 0, 0x20, 1, 0, 0, 0x20]]] } }

theorem wit_ProtectionCommands :
    let s : State := grouped 0 0
    s.csrAnswers Reg.PROT_CMD = true ∧ s.valid Reg.PROT_CMD_RES = false ∧ (s.putRes Reg.PROT_CMD_RES 0 0).valid Reg.PROT_CMD_RES = true ∧
      s.inReturn = false ∧ ({ s with fuses := { s.fuses with lc := 3 } } : State).inReturn = true ∧ s.quietRole = false ∧
      (mated roleSTANDBY).quietRole = true ∧ s.prot 7 = none ∧ (s.prot 0).isSome = true ∧
      reqRank (s.fld (Reg.PROT_G_STAT 0) F.PROT_G_STAT_REQ) = 9 ∧
      (s.setFld (Reg.PROT_G_STAT 0) F.PROT_G_STAT_REQ 15).fld (Reg.PROT_G_STAT 0) F.PROT_G_STAT_REQ = 15 ∧
      s.fld (Reg.PROT_G_STAT 0) F.PROT_G_STAT_CMD ≠ 1 ∧
      (s.setFld (Reg.PROT_G_STAT 0) F.PROT_G_STAT_CMD 1).fld (Reg.PROT_G_STAT 0) F.PROT_G_STAT_CMD = 1 := by decide +kernel

theorem wit_ProtectionEvaluation :
    let s : State := grouped 0 0
    let d : ProtDef := (s.prot 0).getD ⟨0, 0, false, false, false, 0, 0, 0, 0, 0, 0, 0⟩
    let l : Grp := { cmdIn := [1] }
    let f : Grp := { cmdIn := [2] }
    s.prot 7 = none ∧ (s.prot 0).isSome = true ∧ s.released = true ∧ (s.grp 0).evald = false ∧ (s.grp 0).dropped = false ∧
      s.dutyUp (handle 4 0) = true ∧ s.quietRole = false ∧ s.shadowRole = false ∧ s.ofs = 0 ∧ ({ s with ofs := 1 } : State).ofs ≠ 0 ∧ (cmdStep d l).1.lo = true ∧ (cmdStep d f).1.lo = false ∧
      (cmdStep d f).1.fs = true ∧ d.bidir = false ∧ d.ty ≠ 1 ∧
      (raiseStep d (cmdStep d f).1 (s.legs4 d) (s.elapsed - 1)).sfp = false := by decide +kernel

theorem wit_ProtectionEvaluationStandby :
    let s : State := { grouped 0 0 with regs := (mated roleSTANDBY).regs }
    let h : State := { grouped 0 0 with regs := (mated roleHOLDING).regs }
    (s.prot 0).isSome = true ∧ s.shadowRole = true ∧ s.released = true ∧ s.dutyUp (handle 4 0) = true ∧
      h.shadowRole = false ∧ h.quietRole = true ∧ (h.prot 0).isSome = true ∧ h.released = true ∧ h.dutyUp (handle 4 0) = true := by decide +kernel

theorem wit_ProtectionTimersAndDefects :
    let s : State := { (grouped 2 1).updGrp 0 fun g =>
      { g with hSfw := some 3, hSfp := some 3, hSdw := some 3, hSdp := some 3, wtr := some 3, nrRun := 400, fslRun := 8 } with elapsed := 4 }
    let u : State := { s with regs := (mated roleSTANDBY).regs }
    (s.prot 0).isSome = true ∧ ((s.prot 0).map (·.bidir)) = some true ∧ ((s.prot 0).map (·.ty)) = some 2 ∧ 3 + 1 ≤ s.elapsed ∧
      (s.grp 0).hSfw = some 3 ∧ (s.grp 0).hSfp = some 3 ∧ (s.grp 0).hSdw = some 3 ∧ (s.grp 0).hSdp = some 3 ∧ (s.grp 0).wtr = some 3 ∧
      s.dutyUp (handle 4 0) = true ∧ s.shadowRole = false ∧ u.shadowRole = true ∧ u.dutyUp (handle 4 0) = true ∧ (s.grp 1).wtr = none ∧
      holdOf (s.grp 1) false false = none ∧ ({ s with elapsed := 3 } : State).elapsed < 3 + 1 ∧ ({ s with elapsed := 2 } : State).elapsed < 3 ∧ s.prot 1 = none ∧ s.ofs = 0 ∧ ({ s with ofs := 1 } : State).ofs ≠ 0 ∧
      (s.grp 0).nr = false ∧ 400 ≤ (s.grp 0).nrRun ∧ (s.grp 1).nrRun < 400 ∧ (s.grp 0).fsl = false ∧ 8 ≤ (s.grp 0).fslRun ∧
      (s.grp 1).fslRun < 8 := by decide +kernel

/-- Entry 0 of the graft queue in a state. -/
def entry0 (st : Nat) : State := setG full 0 st

theorem wit_GraftCommands :
    let at_ : Nat → Nat → State := fun st t => (entry0 st).wr Reg.GRAFT_CMD_TGT_LO t
    let busy : State := (List.range 16).foldl (fun s n => setG s n 1) ((full.setFlag Reg.GRAFT_STAT F.GRAFT_STAT_ROLLBACK_AVAIL true).wr Reg.GRAFT_CMD_TGT_LO 17)
    busy.gIn [0] = [] ∧ busy.gIn [2, 3, 4] = [] ∧ fnAtLeast busy.gCmdTgt busy.fnN 17 = true ∧
      busy.flag Reg.GRAFT_STAT F.GRAFT_STAT_ROLLBACK_AVAIL = true ∧ full.csrAnswers Reg.GRAFT_CMD = true ∧ (full.putRes Reg.GRAFT_CMD_RES 0 0).valid Reg.GRAFT_CMD_RES = true ∧
      full.valid Reg.GRAFT_CMD_RES = false ∧ ({ full with fuses := { full.fuses with lc := 3 } } : State).inReturn = true ∧
      full.inReturn = false ∧ ((List.range 16).foldl (fun s n => setG s n 1) full).gIn [0] = [] ∧ (full.gIn [0]).head? = some 0 ∧
      full.gSt 0 = 0 ∧ (entry0 1).gSt 0 = 1 ∧ fnAtLeast (at_ 1 16).gCmdTgt (at_ 1 16).fnN 17 = false ∧
      fnAtLeast (at_ 1 17).gCmdTgt (at_ 1 17).fnN 17 = true ∧ (at_ 1 17).gCrowds 17 = false ∧ (setG (at_ 1 15) 1 3).gCrowds 15 = true ∧
      full.flag Reg.GRAFT_STAT F.GRAFT_STAT_ROLLBACK_AVAIL = false ∧ full.gIn [2, 3, 4] = [] ∧
      (full.setFlag Reg.GRAFT_STAT F.GRAFT_STAT_ROLLBACK_AVAIL true).flag Reg.GRAFT_STAT F.GRAFT_STAT_ROLLBACK_AVAIL = true ∧
      (entry0 4).gSt 0 = 4 ∧ (entry0 2).gSt 0 = 2 ∧ (entry0 3).gSt 0 = 3 ∧ Tab.wf regReset full.regs = true := by decide +kernel

/-- Entry 0 in a state with its target at frame 16. -/
def due0 (st : Nat) : State := (entry0 st).wr (Reg.GRAFT_E_TGT_LO 0) 16

/-- A plan that needs domain `d`. -/
def planned (d : Nat) : Image := { bare with sections := [sec secPOWER 0 2 [[byte d, 2]]] }

theorem wit_GraftValidationAndArming :
    let held : Nat → State := fun d => { due0 2 with grafts := tabSet {} full.grafts 0 { result := some (planned d) } }
    (due0 2).gSt 0 = 2 ∧ (due0 2).gFirst ((due0 2).gIn [2]) = some 0 ∧ ((due0 2).gx 0).result = none ∧
      ((due0 2).graftCheck 0).isLeft = true ∧ (due0 3).gSt 0 = 3 ∧ ((held 0).gx 0).result = some (planned 0) ∧
      (∀ d < 67, (planned 0).plan d = 2 → full.domOn d = true) ∧ (planned 1).plan 1 = 2 ∧ full.domOn 1 = false ∧
      (∀ d < 67, (planned 0).plan d = 2 → (domRise (held 0) 0).domOn d = true) ∧ (domRise (held 1) 1).domOn 1 = false ∧
      ((held 1).gx 0).result = some (planned 1) ∧
      Tab.wf regReset full.regs = true ∧ full.clk = true ∧ full.ofs = 0 ∧
      ((due0 3).gIn [2, 3]).find? (fun k => fnDiff ((due0 3).gTgt k) (due0 3).fnN == 16) = some 0 ∧
      ((due0 2).gIn [2, 3]).find? (fun k => fnDiff ((due0 2).gTgt k) (due0 2).fnN == 16) = some 0 ∧
      full.gIn [2, 3] = [] ∧ ({ due0 4 with fn := 15 } : State).gSt 0 = 4 ∧
      fnDiff (({ due0 4 with fn := 15 } : State).gTgt 0) ({ due0 4 with fn := 15 } : State).fnN = 1 := by decide +kernel

/-- A least full image that the loader takes: GLOBAL, HBM regions, host windows, slot cycles, TIM, the plan and the roots. -/
def good : Image :=
  { bare with sections := [sec secGLOBAL 0 64 [[]],
      sec secHBM 0 16 ([(1, 0, 0x67000000), (2, 0x67000000, 0x10000), (8, 0x68000000, 0x40000000), (9, 0xA8000000, 0x10000),
        (10, 0xA8010000, 0x10000), (11, 0xA8020000, 0x10000)].map fun x =>
          leBytes x.1 2 ++ leBytes (Config.hbmBase + x.2.1) 6 ++ leBytes x.2.2 8),
      sec secHOSTWIN 0 8 ([1000, 35000, 70000, 105000, 140000, 175000].map fun x => leBytes x 4 ++ leBytes 800 4),
      { sec secCYCLE 0 1 [] with count := 1344, runs := [⟨0, 1344, true, [1]⟩] }, sec secTIM 0 64 [[]], sec secPOWER 0 8 [[66, 2]],
      sec secROOT 0 4 [[]]] }

set_option maxRecDepth 20000 in
/-- A rollback to the same image passes its checks. -/
theorem wit_GraftValidationPasses :
    let s : State := { (due0 2).setFlag (Reg.GRAFT_E_STAT 0) F.GRAFT_E_STAT_ROLLBACK true with img := some good, back := some good }
    s.graftCheck 0 = .inr (good, 0, 0) ∧ s.gSt 0 = 2 ∧ s.gFirst (s.gIn [2]) = some 0 ∧ (s.gx 0).result = none := by decide +kernel

/-- Two line outputs with selectors, the first from sources `a`, the second that of an ODU group on leg `w`; two leaf selector records that no
group has, the second with source `a`, and a third, that of a leaf group on leg `w`. -/
def selImage (a w : Byte) : Image :=
  { bare with sections := [sec secTRUNKOUT 0 16 [[0, 0, 0, 0x20, a, 0, 0, 0x20, 9, 0, 0, 0x20, 0, 0, 2, 1], [1, 0, 0, 0x20, 4, 0, 0, 0x20, 9, 0, 0, 0x20, 0, 0, 2, 1]],
      sec secPROT 0 32 [[0, 0, 0, 0x40, 0, 0, 0, 0, w, 0, 0, 0x20, 1, 0, 0, 0x20, 1], [1, 0, 0, 0x40, 2, 0, 0, 0, w, 0, 0, 0x30, 1, 0, 0, 0x30, 2]],
      sec secSREC 0 12 [[1], [a], [2]]] }

theorem wit_SelectorsAcrossAGraft :
    let old := selImage 5 7
    let m := selImage 6 8
    let out : Image → Nat → OutDef := fun x o => (x.out? o).getD ⟨0, 0, 0, false, 0, 0, false⟩
    (m.outs.map (·.out)).Nodup ∧ out m 0 ∈ m.outs ∧ (out m 0).kind = 2 ∧ out m 1 ∈ m.outs ∧ (out m 1).kind = 2 ∧
      0 ∉ movedSels old old false ∧ old.out? 0 = some (out old 0) ∧ 1 ∈ movedSels old m false ∧ (out old 0).a ≠ (out m 0).a ∧
      (∀ d ∈ m.outs, d.out = 7 → d.kind ≠ 2 ∧ d.kind ≠ 3) ∧ m.srecCount = 3 ∧ 0 ∉ movedSels old m true ∧ old.srecKey 0 = m.srecKey 0 ∧
      old.srecKey 1 ≠ m.srecKey 1 ∧ 2 ∈ movedSels old m true := by decide +kernel

theorem wit_GraftApplies :
    let s : State := { due0 4 with fn := 16, img := some bare, grafts := tabSet {} full.grafts 0 { result := some bare } }
    let h : State := { s with regs := ((due0 4).setFld Reg.MATE_STAT F.MATE_STAT_ROLE roleHOLDING).regs }
    full.ofs = 0 ∧ full.clk = true ∧ full.gIn [4] = [] ∧ (s.gIn [4]).find? (fun n => s.gTgt n == s.fnN) = some 0 ∧
      (s.gx 0).result = some bare ∧ s.img = some bare ∧ s.graftMay 0 bare = true ∧ h.graftMay 0 bare = false ∧
      (h.gIn [4]).find? (fun n => h.gTgt n == h.fnN) = some 0 ∧ s.flag (Reg.GRAFT_E_STAT 0) F.GRAFT_E_STAT_GROVE = false ∧
      (s.setFlag (Reg.GRAFT_E_STAT 0) F.GRAFT_E_STAT_GROVE true).flag (Reg.GRAFT_E_STAT 0) F.GRAFT_E_STAT_GROVE = true ∧
      s.fld Reg.FT_STAT F.FT_STAT_ALIGN_STATE ≠ 1 ∧ fnDiff s.fnN (s.rdPair Reg.GRAFT_LAST_FN_LO) ≠ 0 ∧
      fnDiff full.fnN (full.rdPair Reg.GRAFT_LAST_FN_LO) = 0 := by decide +kernel

/-- Engine 0 runs a program. -/
def running : State :=
  { (full.setFld (Reg.ENG_STAT 0) F.ENG_STAT_STATE 1) with img := some { bare with sections := [
      sec secPROG 0 8 [[1], [2]], sec secSRC 0 8 [leBytes (5 * 2 ^ 60) 8],
      sec secDST 0 8 [leBytes (2 ^ 60 + 0x20000000) 8, leBytes (2 ^ 60 + 20480 * 2 ^ 32 + 0x20005000) 8, leBytes (8 * 2 ^ 60) 8],
      sec secRSV 0 4 [leBytes 100 4, leBytes 100 4, leBytes 100 4, leBytes 100 4, leBytes 100 4],
      sec secOWN 0 8 [leBytes 0x20000000 4 ++ [0], leBytes 0x20005000 4 ++ [0]]] } }

theorem wit_EngineArithmetic :
    let a : Act := ⟨0, 40, 5, 0, false, 0, 0⟩
    let st : State := portCycle (running.toOfs 20) 0 10
    a.ok = true ∧ running.acting a.eng = some (0, false) ∧ fetchCycle a.k ≤ a.slot / 4 ∧ (st.pAt 0 a.pred 10).usable 10 = true ∧
      ((st.pAt 0 a.pred 10).val != 0) ≠ a.pneg ∧ st.dropReason 0 0 10 40 {} = none ∧
      st.dropReason 0 0 10 40 { rv := [2, 3], wv := some 1 } = none ∧ st.dropReason 0 0 10 40 { rv := [2, 3], rp := [4], wv := some 1 } = none := by decide +kernel

theorem wit_EnginePredicatesAndMemory :
    let a : Act := ⟨0, 40, 5, 0, false, 0, 0⟩
    let st : State := portCycle (running.toOfs 20) 0 10
    a.ok = true ∧ running.acting a.eng = some (0, false) ∧ fetchCycle a.k ≤ a.slot / 4 ∧ (st.pAt 0 a.pred 10).usable 10 = true ∧
      ((st.pAt 0 a.pred 10).val != 0) ≠ a.pneg ∧
      (∀ u ∈ [({ rv := [2, 3], wp := some 1 } : Use), { rv := [2], wp := some 1 }, { rp := [2, 3], wp := some 1 }, { wv := some 1, rd := 1 },
        { rv := [1], wr := 1 }, { wp := some 1, rd := 1, wr := 1 }], st.dropReason 0 0 10 40 u = none) := by decide +kernel

theorem wit_EngineDropsAndTransfers :
    let a : Act := ⟨0, 40, 5, 0, false, 0, 0⟩
    let st : State := portCycle (running.toOfs 20) 0 10
    let late : Act := ⟨0, 40, 100, 0, false, 0, 0⟩
    let off : Act := ⟨0, 40, 5, 0, true, 0, 0⟩
    let poor : State := setP running 0 1 5 { val := 1, ready := 1000 }
    a.ok = true ∧ ({ a with mem := 3 } : Act).ok = true ∧ ({ a with raw := 0x3F } : Act).ok = true ∧ (running.eng 0).ports.rd ≤ 2 ∧ (running.eng 0).ports.wr ≤ 1 ∧
      st.dropReason 0 0 10 40 { bad := true } = some 6 ∧ running.acting a.eng = some (0, false) ∧ late.slot / 4 < fetchCycle late.k ∧ fetchCycle a.k ≤ a.slot / 4 ∧
      ((portCycle (poor.toOfs 20) 0 10).pAt 0 1 10).usable 10 = false ∧ (st.pAt 0 a.pred 10).usable 10 = true ∧
      ((st.pAt 0 off.pred 10).val != 0) = off.pneg ∧ ((st.pAt 0 a.pred 10).val != 0) ≠ a.pneg ∧
      st.dropReason 0 0 10 40 { wv := some 1, get := some 0 } = none ∧ st.dropReason 0 0 10 40 { wv := some 1, get := some 9 } = some 6 ∧
      st.dropReason 0 0 10 40 { rv := [1], put := some 0 } = none ∧ st.dropReason 0 0 10 40 { rv := [1], put := some 1 } = none ∧
      busTo 0 ((st.engEntry secDST 0 0).getD 0) = none ∧ busTo 0 ((st.engEntry secDST 0 1).getD 0) = some 2 ∧
      st.dropReason 0 0 10 40 { rv := [1, 2], post := some (1, 2) } = none ∧ st.dropReason 0 0 10 40 { rv := [1] } = none ∧
      ((setV running 0 1 5 { poison := true }).vAt 0 1 10).poison = true ∧
      running.bus = [] ∧ (full.acting 0) = none ∧ ({ running with bus := [⟨2400, 1, 1, 0, 1⟩] } : State).elapsed = 0 := by decide +kernel

theorem wit_LockstepSparePut :
    let s : State := (running.setFld (Reg.ENG_STAT 64) F.ENG_STAT_STATE 3).updEng 64 fun x => { x with test := 0 }
    s.acting 64 = some (0, true) := by decide +kernel

theorem wit_EngineCommitAndTakeover :
    let due : State := running.updEng 0 fun x => { x with due := true }
    let tests : State := { (mated roleSTANDBY).setFlag Reg.MATE_CTRL F.MATE_CTRL_SELFTEST true with elapsed := 8000 }
    let on : State := (tests.setFld (Reg.ENG_STAT 64) F.ENG_STAT_STATE 3).updEng 64 fun x => { x with testAt := some 0 }
    State.reset.released = false ∧ full.clk = true ∧ full.ofs ≤ 199000 ∧ full.img = none ∧ full.held = [] ∧ full.released = true ∧ running.released = true ∧ (∀ k < 16, (running.eng k).due = false) ∧
      (setEngSt due 64 2 1).engSt (64 + 0) = 2 ∧ (((List.range 16).map (16 * 0 + ·)).find? fun e => ((setEngSt due 64 2 1).eng e).due) = some 0 ∧ running.ofs = 0 ∧
      ((List.range 16).map (16 * 0 + ·)).find? (fun e => (due.eng e).due) = some 0 ∧ Tab.wf regReset due.regs = true ∧
      running.csrAnswers Reg.ENG_CMD = true ∧ running.valid Reg.ENG_CMD_RES = false ∧ running.inReturn = false ∧
      running.fuses.eng 0 = true ∧ running.engSt 0 = 1 ∧ running.engSt 1 ≠ 1 ∧ running.spareFree (engQuad 0) = true ∧
      running.role ≠ roleSTANDBY ∧ tests.role = roleSTANDBY ∧ tests.flag Reg.MATE_CTRL F.MATE_CTRL_SELFTEST = true ∧ tests.ofs = 0 ∧
      tests.released = true ∧ tests.spareFree 0 = true ∧ tests.engSt 64 = 0 ∧ (tests.eng 64).testAt = none ∧ on.engSt 64 = 3 ∧
      (on.eng 64).testAt = some 0 ∧ on.spareFree 0 = true ∧ 0 + 8000 ≤ on.elapsed ∧ ({ on with elapsed := 7999 } : State).elapsed < 0 + 8000 := by decide +kernel

theorem wit_CountersAndCaptures :
    let due : State := { full with tdDue := true, pmonDue := true }
    let sel : State := full.wr (Reg.PMON_SEL 3) 5
    full.csrAnswers Reg.ENG_TD_CMD = true ∧ full.valid Reg.ENG_TD_RES = false ∧ full.isPending Reg.ENG_TD_RES = false ∧ full.tdDue = false ∧
      full.csrAnswers Reg.PMON_SNAP_CMD = true ∧ full.valid Reg.PMON_SNAP_RES = false ∧ full.isPending Reg.PMON_SNAP_RES = false ∧
      full.pmonDue = false ∧ due.tdDue = true ∧ due.pmonDue = true ∧ due.ofs = 0 ∧ Tab.wf regReset due.regs = true ∧
      full.csrAnswers (Reg.PMON_SEL 3) = true ∧ full.csrAnswers Reg.PMON_CTRL = true ∧
      full.pmonOld = [] ∧ tabGet 0 full.pmonSel 3 = Tab.get regReset full.regs (Reg.PMON_SEL 3) ∧ tabGet 0 sel.pmonSel 3 ≠ Tab.get regReset sel.regs (Reg.PMON_SEL 3) ∧
      Tab.wf regReset sel.regs = true := by decide +kernel

/-- Channel 0 is idle, its head at host address 0x40 in a host window of 4 KiB. -/
def idleChan : State := (full.wr (Reg.DMA_CH_HEAD_LO 0) 0x40).wr (Reg.DMA_CH_HWIN_LEN 0) 1

theorem wit_DmaChannelCommands :
    let st (n : Nat) : State := setChanSt idleChan 0 n
    full.csrAnswers (Reg.DMA_CH_CMD 63) = true ∧ idleChan.csrAnswers (Reg.DMA_CH_CMD 0) = true ∧ idleChan.valid (Reg.DMA_CH_RES 0) = false ∧
      (idleChan.putRes (Reg.DMA_CH_RES 0) 0 0).valid (Reg.DMA_CH_RES 0) = true ∧ idleChan.chanSt 0 = 0 ∧ (st 1).chanSt 0 = 1 ∧
      (st 3).chanSt 0 = 3 ∧ (st 4).chanSt 0 = 4 ∧ Tab.wf regReset idleChan.regs = true ∧
      idleChan.inHwin 0 (idleChan.rdPair (Reg.DMA_CH_HEAD_LO 0)) 32 = true ∧ full.inHwin 0 0 32 = false ∧
      (idleChan.wr (Reg.DMA_CH_HEAD_LO 0) 0x41).rdPair (Reg.DMA_CH_HEAD_LO 0) % 32 = 1 := by decide +kernel

/-- Channel 0 runs a descriptor at host address 0x40 that moves 64 bytes between host address 0x80 and working memory: OP, next. -/
def moving (op next : Nat) (x : Chan) : State :=
  (setChanSt (idleChan.wr Reg.TOP_CTRL 0) 0 1).updChan 0 fun _ =>
    { x with desc := some ⟨0x40, 0x80, 0x10000000, op, false, false, 0, 64, next⟩ }

theorem wit_DmaDescriptors :
    let f : State := (setChanSt idleChan 0 1).updChan 0 fun x => { x with fetching := some (0x40, 0) }
    let g : State := { f with elapsed := 1 }
    let r : State := { moving 1 0 { reads := [⟨0, 8, true⟩] } with elapsed := 1 }
    let m (n : Nat) : State := moving 2 n { moved := 64 }
    (f.chan 0).fetching = some (0x40, 0) ∧ Tab.wf regReset f.regs = true ∧ Tab.wf (fun _ => ({} : Chan)) f.chans = true ∧
      (idleChan.chan 0).fetching = none ∧ idleChan.descDue 0 = none ∧ (idleChan.chan 0).reads = [] ∧ (idleChan.chan 0).code = none ∧
      (m 0).descDue 0 = some 0 ∧ (m 0x60).descDue 0 = some 0 ∧ (m 0x60).inHwin 0 0x60 32 = true ∧ (m 0x60).chanSt 0 = 1 ∧
      Tab.wf regReset (m 0).regs = true ∧ Tab.wf (fun _ => ({} : Chan)) (m 0).chans = true ∧ (setChanSt (m 0x60) 0 4).chanSt 0 = 4 ∧
      (m 0x60).fld (Reg.DMA_CH_STAT 0) F.DMA_CH_STAT_HOPS < max 1 ((m 0x60).fld (Reg.DMA_CH_CFG 0) F.DMA_CH_CFG_HOP_LIMIT) ∧
      max 1 (((m 0x60).setFld (Reg.DMA_CH_STAT 0) F.DMA_CH_STAT_HOPS 4096).fld (Reg.DMA_CH_CFG 0) F.DMA_CH_CFG_HOP_LIMIT) ≤
        ((m 0x60).setFld (Reg.DMA_CH_STAT 0) F.DMA_CH_STAT_HOPS 4096).fld (Reg.DMA_CH_STAT 0) F.DMA_CH_STAT_HOPS ∧
      (moving 2 0 { code := some 0x25 }).descDue 0 = some 0x25 ∧
      0 + max 1600 (g.rd (Reg.DMA_CH_TMO 0)) ≤ g.now ∧ f.now < 0 + max 1600 (f.rd (Reg.DMA_CH_TMO 0)) ∧ (r.chan 0).fetching = none ∧
      (r.chan 0).code = none ∧ (r.chan 0).reads = [⟨0, 8, true⟩] ∧ 0 + max 1600 (r.rd (Reg.DMA_CH_TMO 0)) ≤ r.now := by decide +kernel

theorem wit_DmaBeatsAndQueueRuns :
    let boot (op : Nat) : State := { moving op 0 { buf := List.replicate 64 7 } with regs :=
      (((moving op 0 {}).setFlag Reg.FT_STAT F.FT_STAT_DP_RELEASED false).setFld Reg.BOOT_STAT F.BOOT_STAT_STEP 6).regs }
    let none1 : State := { (up 6) with beatAt := none }
    let q (hi fill flush : Nat) : State := { mapped with ques := [(9, { fill := fill, stamps := [0] })], img := some { bare with
      sections := [sec secQUEUE 0 32 [[1, 0, 9, 0, 1, 4, 0, 0, 0, 0, 0, 0, 0, 0, 0, 0, hi, 0, 0, 0, 1, 0, 0, 0, flush]],
        sec secHOSTWIN 0 8 [leBytes 0 4 ++ leBytes 800 4]] }, elapsed := 100 }
    (∀ op ∈ [1, 2], (boot op).beatSlot = true ∧ (boot op).beatAt ≠ some (boot op).now ∧
      (boot op).beatWinner ((List.range 64).filter (boot op).beatReady) = some 0 ∧ ((boot op).chanLive 0).isSome = true ∧
      Tab.wf (fun _ => ({} : Chan)) (boot op).chans = true ∧ Tab.wf memDefault (boot op).mem = true ∧ inCsr 0x10000000 = false ∧
      (boot op).memKey 0x10000000 = some 0x10000000 ∧ ∀ i, i < 64 → (boot op).answers ((0x10000000 + i) / 4 * 4) = true) ∧
    none1.beatSlot = true ∧ none1.beatWinner ((List.range 64).filter none1.beatReady) = none ∧
    (full.qdef 9 = none ∧ ((q 4 9 0).qdef 9).isSome = true ∧ (q 4 9 0).queRun 9 = false ∧ (q 4 9 0).inWindow (q 4 9 0).ofs = true ∧
      (q 4 3 80).qdef 9 = some ⟨9, false, 1, 4, 0, 0, 4, 1, 80⟩ ∧ (q 4 3 80).flushDue 9 ⟨9, false, 1, 4, 0, 0, 4, 1, 80⟩ = true ∧
      (q 4 3 0).flushDue 9 ⟨9, false, 1, 4, 0, 0, 4, 1, 0⟩ = false) := by decide +kernel

/-! Ill-formed commands: an operand beyond each bound of Sys2Proof/WellFormed.lean, which the check refuses. -/

theorem test_wf_host : ∀ i ∈ [Instr.registerWrite 2 0, .registerWrite 0x10000000 0, .pairLowRead 1, .oddWidthAccess 0x10000000 1 true,
    .defaultTargetAccess 0x10000000000 true, .hostRequest ⟨0, 1, true, List.replicate 4 (true, 0)⟩, .hostRequest ⟨0, 0, true, []⟩,
    .hostRequest ⟨0, 0, true, [(true, 0)]⟩, .hostAccessBegin 8, .burstGrant 5 [], .burstGrant 0 [(8, 0)], .hostLinkUp 0 1, .hostLinkUp 6 1,
    .hostLinkUp 1 3, .deviceReset 8], i.wf = false := by decide

/-- The samples of a frame of a quiet device. -/
def quietIn : FrameInput := noInput

theorem test_wf_frame : quietIn.ok = true ∧ ∀ x ∈ [{ quietIn with els := [(72, 0)] }, { quietIn with refs := [(41, ⟨0, 0, 0⟩)] },
    { quietIn with prbs := [(64, 0)] }, { quietIn with patrolUnc := [(4, 0, 0)] }, { quietIn with mapErr := [33554432] }], FrameInput.ok x = false := by decide

theorem test_wf_optical : ∀ i ∈ [Instr.elsStateChange 72, .mateLaserMove 8 [], .mateLaserMove 0 [72], .laneSuperframeSend 64 0,
    .laneSuperframeSend 0 17, .laneTagReceive 64 0 ⟨0, [], 0⟩, .spareAction 64, .laneLightLoss 0 17, .laneDegraded 64 0, .spareTimeout 64,
    .spareVerifyEnd 64 true, .autoRequestPauseEnd 64, .spareRequest 64 0, .spareRequest 0 16, .spareRelease 0 16, .txBridge 0 16,
    .txUnbridge 64 0, .spareAck 64 0, .spareAck 0 256, .laneLightReturn 64 0], i.wf = false := by decide

theorem test_wf_overhead : ∀ i ∈ [Instr.oduAisInsert 40960, .oduAisRemove 40960, .failureRaise 0x10000000 0, .failureRaise 0 256,
    .failureClear 0x10000000 0, .failureClear 0 256, .gccFlush 512 0, .gccFlush 0 3, .gccTxRecord 512 0, .gccTxRecord 0 3,
    .pmRdReq 262144 0, .pmRdReq 0 4, .pmResAck 256, .remapRecentre 41472, .inject 128, .testWordCheck true 4 (0, 0) ⟨0, 0, 0, 0⟩,
    .testWordCheck false 96 (0, 0) ⟨0, 0, 0, 0⟩, .testWordCheck false 0 (42, 0) ⟨0, 0, 0, 0⟩, .testWordCheck false 0 (0, 432) ⟨0, 0, 0, 0⟩, .middleCollision 0 96 0 0], i.wf = false := by decide

theorem test_wf_graft_leaf_prot : ∀ i ∈ [Instr.commit 16, .cancel 16, .graftCmdAck 256, .graftEAck 16 0, .graftEAck 0 256,
    .graftValidationDone 16, .dqlcClear 512, .leafPmReq 131072 0, .leafPmReq 0 4, .leafPmAck 256, .lo 65536, .fs 65536, .msP 65536,
    .msW 65536, .clear 65536, .protCmdAck 256, .protEvaluation 65536, .holdOffEnd 65536 true true, .wtrExpiry 65536, .dfopNr 65536,
    .dfsl 65536], i.wf = false := by decide

theorem test_wf_timing_mate : ∀ i ∈ [Instr.stepAck 256, .qualified 41, .candidateWtrEnd 41, .frequencyFaultClear 41, .refSignalFault 41,
    .refSignalReturn 41, .disputeRelease 41, .ssmMessage 41 0, .ssmMessage 0 17, .lockoutWrite 2 0, .nirrinMarker 8 ⟨0, [], false, 0⟩, .mateCmdAck 256,
    .loopbackTest 64 true true, .lockstepTest 4 true], i.wf = false := by decide

theorem test_wf_engine :
    let a : Act := ⟨0, 40, 5, 0, false, 0, 0⟩
    ∀ i ∈ [Instr.nop { a with eng := 68 }, .nop { a with slot := 400000 }, .nop { a with k := 131072 }, .nop { a with pred := 16 }, .nop { a with mem := 4 }, .nop { a with raw := 1 },
      .add a 16 0 0, .sub a 0 16 0, .and a 0 0 16, .or a 16 0 0, .xor a 16 0 0, .shl a 16 0 0, .shr a 16 0 0, .minu a 16 0 0, .maxu a 16 0 0,
      .satadd32 a 16 0 0, .addi a 16 0 0, .movi a 16 0, .ext a 0 0 32 32, .ins a 0 0 63 1, .sel a 0 0 0 16, .cmp a 16 0 0 0, .cmpi a 0 16 0 0,
      .pset a 0 0 0 4 true, .testb a 0 0 64, .ld a 0 65536 0, .ld a 0 0 3, .st a 0 65536, .cntdn a 0 65536 0, .cntup a 0 0 3, .get a 16 0,
      .put a 0 65536, .post a 0 0 0, .post a 0 5 0, .post a 15 1 0, .mark a 16, .engineCommit [(68, 1)], .spareTakeover 4, .takeover 128,
      .engCmdAck 256, .engTdAck 256, .pmonSelWrite 256 0, .pmonSourceChange 256, .pmonSnapAck 256], i.wf = false := by decide

theorem test_wf_boot_dma_power : ∀ i ∈ [Instr.bootCmdAck 256, .read 2, .program 2, .erase 2, .bootFlAck 256, .go 64, .stop 64, .reset 64,
    .dmaChAck 64 0, .dmaChAck 0 256, .dmaConfigWrite 64 0 0, .dmaConfigWrite 0 64 0, .descriptorFetch 0 [] false, .descriptorFetch 64 [] true,
    .descriptorEnd 64, .targetTimeout 64, .queueRunStart 4096, .hostReadCompletion 64 [] true, .lcBlank 256, .lcDevelop 256, .lcDeploy 256,
    .lcReturn 256, .lcAck 256, .pwrOn 128 true, .pwrOff 128 true, .domainOn 67, .domainIsolate 67, .drainTimeout 67, .pwrAck 256,
    .pwrLegOn 3 0, .pwrLegOff 3 0, .cdaRead 0x10000000000, .cdaWrite 0x10000000000 0, .cdaCapture true 512 1, .cdaCapture false 41472 1,
    .cdaCapture false 0 0, .cdaCapture false 0 17, .maker 0x2F, .maker 0x40, .smbReadWord 256], i.wf = false := by decide

/-- An ill-formed command is a fault by name. -/
theorem test_ill_formed_faults : exec (.takeover 128) State.reset = .fault .noSuchObject := by rfl

/-! The spec's worked examples and tables, one step each. -/

/-- The state a step answers. -/
def nextOf : Host.Outcome State Fault Refusal → State
  | .next t => t
  | _ => State.reset

/-- spec/02, worked example: the first edge after a repair, at offset 24,000, reads +24,000, and the state is MEASURING. -/
theorem test_pps_edge : (nextOf (exec (.ppsEdge) (full.toOfs 24000))).rd Reg.FT_PPS_OFS = 0x5DC0 ∧
    (nextOf (exec (.ppsEdge) (full.toOfs 24000))).fld Reg.FT_STAT F.FT_STAT_ALIGN_STATE = 3 := by decide +kernel

/-- spec/05, worked example: output 26,570 with H = 4,800 reads 0x92C0_44C0 in TRK_LAT. -/
theorem test_trk_lat : (OutDef.latWord { out := 26570, a := 5790, b := 0, hasB := false, h := 4800, kind := 1, init := false }) = 0x92C044C0 := by decide

/-- spec/07, worked example: leaf (300, 512) lies in bank 44, leaf (141, 0) in bank 141. -/
theorem test_leaf_bank : leafBank 0x12C0200 = 44 ∧ leafBank (141 * 65536) = 141 := by decide

/-- spec/08, worked example: the quiet state of a bidirectional revertive 1+1 group is sent as 0x0001_000B, SF on working as
0x0001_01BB, the far end's answer to it as 0x0001_010B. -/
theorem test_aps :
    let d : ProtDef := { idx := 1207, p := 30800, w := 1300, sel := 12000, bridge := 0, ty := 0, bidir := true, rev := true, snci := false, level := 2, hold := 0, wtr := 2400000 }
    leAt (Grp.txBytes {} d) 0 4 = 0x0001000B ∧ leAt (Grp.txBytes { req := 0xB, sig := true } d) 0 4 = 0x000101BB ∧
      leAt (Grp.txBytes { sig := true, sel := true } d) 0 4 = 0x0001010B := by decide

/-- spec/13, worked example: OK with 4,288 bytes moved is written back as 0x0010_C000, DOMAIN_OFF with 2,560 (spec/14) as 0x000A_0024. -/
theorem test_descriptor_status : leNat (byte 0 :: leBytes 4288 3) = 0x0010C000 ∧ leNat (byte 0x24 :: leBytes 2560 3) = 0x000A0024 := by decide

/-- ADD of 64-bit registers wraps, and a result is usable one cycle later (R248, R251). -/
theorem test_add_wraps :
    let s : State := setV (setV (running.toOfs 20) 0 2 9 { val := 0xFFFFFFFFFFFFFFFF, ready := 10 }) 0 3 9 { val := 2, ready := 10 }
    ((nextOf (exec (.add ⟨0, 40, 5, 0, false, 0, 0⟩ 1 2 3) s)).vAt 0 1 11) = { val := 1, ready := 11 } := by decide +kernel

/-- CRC-32C and CRC-16 of the nine digits (the check values of the CRC catalogue; log entry 20). -/
theorem test_crc : crc32c ([0x31, 0x32, 0x33, 0x34, 0x35, 0x36, 0x37, 0x38, 0x39].map fun n => BitVec.ofNat 8 n) = 0xE3069283 ∧
    crc16 ([0x31, 0x32, 0x33, 0x34, 0x35, 0x36, 0x37, 0x38, 0x39].map fun n => BitVec.ofNat 8 n) = 0x29B1 := by decide +kernel

theorem test_wf_frames_received :
    let x : OduRx := ⟨0, 0, 0, false, 1, 0, true, 0, [], none, []⟩
    let l : LeafRx := ⟨0, 0, List.replicate 1024 0, []⟩
    (Instr.oduFrameReceive 40960 x).wf = false ∧ (Instr.leafCarrierFrame 512 l).wf = false ∧
      (Instr.leafCarrierFrame 0 { l with oh := [] }).wf = false ∧ (Instr.leafCarrierFrame 0 { l with leaves := [(65536, 0)] }).wf = false ∧
      (Instr.leafCarrierFrame 0 l).wf = true := by decide +kernel

end Sys2Proof.Tests
end

namespace Sys2Proof.Machine

/-! What every command and every step keeps: one arm of `exec` after the other, from the Keep laws. -/

/-- Every command answers as `checked` does: an effect on the state where it is well-formed, the fault where it is not. -/
theorem exec_eq_checked (i : Instr) (s : State) : ∃ t, exec i s = checked i s t := by
  cases i <;> exact ⟨_, rfl⟩

theorem checked_of_not_wf {i : Instr} (h : i.wf = false) (s t : State) : checked i s t = .fault .noSuchObject := by
  simp [checked, h]

/-- A command that answers a next state leads from a kept state to a kept state: the Keep laws, one for each command. -/
theorem exec_kept {F : Fuses} {s t : State} (h : Kept F s) : ∀ {i : Instr}, exec i s = .next t → Kept F t
  | .registerWrite .., ht => execRegisterWrite_kept h ht
  | .pairLowRead .., ht => execPairLowRead_kept h ht
  | .oddWidthAccess .., ht => execOddWidthAccess_kept h ht
  | .defaultTargetAccess .., ht => execDefaultTargetAccess_kept h ht
  | .hostRequest .., ht => execHostRequest_kept h ht
  | .hostAccessBegin .., ht => execHostAccessBegin_kept h ht
  | .burstGrant .., ht => execBurstGrant_kept h ht
  | .hostPortReset, ht => execHostPortReset_kept h ht
  | .blkMaskWrite .., ht => execBlkMaskWrite_kept h ht
  | .powerGoodRise, ht => execPowerGoodRise_kept h ht
  | .powerGoodFall, ht => execPowerGoodFall_kept h ht
  | .resetAssert, ht => execResetAssert_kept h ht
  | .resetRelease, ht => execResetRelease_kept h ht
  | .coreClockStable, ht => execCoreClockStable_kept h ht
  | .alignWaitTimeout, ht => execAlignWaitTimeout_kept h ht
  | .dataPlaneRelease, ht => execDataPlaneRelease_kept h ht
  | .frameBoundary .., ht => execFrameBoundary_kept h ht
  | .elsStateChange .., ht => execElsStateChange_kept h ht
  | .mateLaserMove .., ht => execMateLaserMove_kept h ht
  | .stateBusDelivery, ht => execStateBusDelivery_kept h ht
  | .ppsEdge, ht => execPpsEdge_kept h ht
  | .ppsLoss, ht => execPpsLoss_kept h ht
  | .todInMessage .., ht => execTodInMessage_kept h ht
  | .capture, ht => execCapture_kept h ht
  | .arm, ht => execArm_kept h ht
  | .cancelStep, ht => execCancelStep_kept h ht
  | .stepAck .., ht => execStepAck_kept h ht
  | .relabel, ht => execRelabel_kept h ht
  | .stepApplied, ht => execStepApplied_kept h ht
  | .bin15MinuteStart, ht => execBin15MinuteStart_kept h ht
  | .bin24HourStart, ht => execBin24HourStart_kept h ht
  | .pmClosureWrite, ht => execPmClosureWrite_kept h ht
  | .laneSuperframeSend .., ht => execLaneSuperframeSend_kept h ht
  | .laneTagReceive .., ht => execLaneTagReceive_kept h ht
  | .spareAction .., ht => execSpareAction_kept h ht
  | .laneLightLoss .., ht => execLaneLightLoss_kept h ht
  | .laneDegraded .., ht => execLaneDegraded_kept h ht
  | .spareTimeout .., ht => execSpareTimeout_kept h ht
  | .spareVerifyEnd .., ht => execSpareVerifyEnd_kept h ht
  | .autoRequestPauseEnd .., ht => execAutoRequestPauseEnd_kept h ht
  | .spareRequest .., ht => execSpareRequest_kept h ht
  | .spareRelease .., ht => execSpareRelease_kept h ht
  | .txBridge .., ht => execTxBridge_kept h ht
  | .txUnbridge .., ht => execTxUnbridge_kept h ht
  | .spareAck .., ht => execSpareAck_kept h ht
  | .otucFrameReceive .., ht => execOtucFrameReceive_kept h ht
  | .oduFrameReceive .., ht => execOduFrameReceive_kept h ht
  | .oduAisInsert .., ht => execOduAisInsert_kept h ht
  | .oduAisRemove .., ht => execOduAisRemove_kept h ht
  | .failureRaise .., ht => execFailureRaise_kept h ht
  | .failureClear .., ht => execFailureClear_kept h ht
  | .gccFlush .., ht => execGccFlush_kept h ht
  | .gccTxRecord .., ht => execGccTxRecord_kept h ht
  | .pmSecondEnd, ht => execPmSecondEnd_kept h ht
  | .pmRdReq .., ht => execPmRdReq_kept h ht
  | .pmSnapshot, ht => execPmSnapshot_kept h ht
  | .pmResAck .., ht => execPmResAck_kept h ht
  | .remapRecentre .., ht => execRemapRecentre_kept h ht
  | .inject .., ht => execInject_kept h ht
  | .testWordCheck .., ht => execTestWordCheck_kept h ht
  | .middleCollision .., ht => execMiddleCollision_kept h ht
  | .claim, ht => execClaim_kept h ht
  | .commit .., ht => execCommit_kept h ht
  | .cancel .., ht => execCancel_kept h ht
  | .rollback, ht => execRollback_kept h ht
  | .graftCmdAck .., ht => execGraftCmdAck_kept h ht
  | .graftEAck .., ht => execGraftEAck_kept h ht
  | .graftValidationDone .., ht => execGraftValidationDone_kept h ht
  | .graftArm, ht => execGraftArm_kept h ht
  | .shadowReady, ht => execShadowReady_kept h ht
  | .graftApply .., ht => execGraftApply_kept h ht
  | .graftDomainDrain, ht => execGraftDomainDrain_kept h ht
  | .leafCarrierFrame .., ht => execLeafCarrierFrame_kept h ht
  | .dqlcClear .., ht => execDqlcClear_kept h ht
  | .leafPmReq .., ht => execLeafPmReq_kept h ht
  | .leafPmSnapshot, ht => execLeafPmSnapshot_kept h ht
  | .leafPmAck .., ht => execLeafPmAck_kept h ht
  | .lo .., ht => execLo_kept h ht
  | .fs .., ht => execFs_kept h ht
  | .msP .., ht => execMsP_kept h ht
  | .msW .., ht => execMsW_kept h ht
  | .clear .., ht => execClear_kept h ht
  | .protCmdAck .., ht => execProtCmdAck_kept h ht
  | .protEvaluation .., ht => execProtEvaluation_kept h ht
  | .holdOffEnd .., ht => execHoldOffEnd_kept h ht
  | .wtrExpiry .., ht => execWtrExpiry_kept h ht
  | .dfopNr .., ht => execDfopNr_kept h ht
  | .dfsl .., ht => execDfsl_kept h ht
  | .qualified .., ht => execQualified_kept h ht
  | .candidateWtrEnd .., ht => execCandidateWtrEnd_kept h ht
  | .frequencyFaultClear .., ht => execFrequencyFaultClear_kept h ht
  | .refSignalFault .., ht => execRefSignalFault_kept h ht
  | .disputeRelease .., ht => execDisputeRelease_kept h ht
  | .settlingEnd, ht => execSettlingEnd_kept h ht
  | .locked, ht => execLocked_kept h ht
  | .lockLoss, ht => execLockLoss_kept h ht
  | .ssmMessage .., ht => execSsmMessage_kept h ht
  | .ppsOutRise, ht => execPpsOutRise_kept h ht
  | .ppsOutFall, ht => execPpsOutFall_kept h ht
  | .todOutMessage, ht => execTodOutMessage_kept h ht
  | .forceHoWrite .., ht => execForceHoWrite_kept h ht
  | .lockoutWrite .., ht => execLockoutWrite_kept h ht
  | .nirrinMarker .., ht => execNirrinMarker_kept h ht
  | .nirrinBlock .., ht => execNirrinBlock_kept h ht
  | .mirrorSnapshot, ht => execMirrorSnapshot_kept h ht
  | .mirrorApply, ht => execMirrorApply_kept h ht
  | .fallbackApply, ht => execFallbackApply_kept h ht
  | .mirrorLoss, ht => execMirrorLoss_kept h ht
  | .linkDown, ht => execLinkDown_kept h ht
  | .linkUp, ht => execLinkUp_kept h ht
  | .request, ht => execRequest_kept h ht
  | .grant .., ht => execGrant_kept h ht
  | .deny .., ht => execDeny_kept h ht
  | .releaseAck .., ht => execReleaseAck_kept h ht
  | .fallback .., ht => execFallback_kept h ht
  | .grinusFrameError, ht => execGrinusFrameError_kept h ht
  | .replyTimeout, ht => execReplyTimeout_kept h ht
  | .leaseExpiry, ht => execLeaseExpiry_kept h ht
  | .holdExpiry, ht => execHoldExpiry_kept h ht
  | .release, ht => execRelease_kept h ht
  | .mateCmdAck .., ht => execMateCmdAck_kept h ht
  | .loopbackTest .., ht => execLoopbackTest_kept h ht
  | .lockstepTest .., ht => execLockstepTest_kept h ht
  | .watchdogExpiry, ht => execWatchdogExpiry_kept h ht
  | .nop .., ht => execNop_kept h ht
  | .add .., ht => execAdd_kept h ht
  | .sub .., ht => execSub_kept h ht
  | .and .., ht => execAnd_kept h ht
  | .or .., ht => execOr_kept h ht
  | .xor .., ht => execXor_kept h ht
  | .shl .., ht => execShl_kept h ht
  | .shr .., ht => execShr_kept h ht
  | .minu .., ht => execMinu_kept h ht
  | .maxu .., ht => execMaxu_kept h ht
  | .satadd32 .., ht => execSatadd32_kept h ht
  | .addi .., ht => execAddi_kept h ht
  | .movi .., ht => execMovi_kept h ht
  | .ext .., ht => execExt_kept h ht
  | .ins .., ht => execIns_kept h ht
  | .sel .., ht => execSel_kept h ht
  | .cmp .., ht => execCmp_kept h ht
  | .cmpi .., ht => execCmpi_kept h ht
  | .pset .., ht => execPset_kept h ht
  | .testb .., ht => execTestb_kept h ht
  | .ld .., ht => execLd_kept h ht
  | .st .., ht => execSt_kept h ht
  | .cntdn .., ht => execCntdn_kept h ht
  | .cntup .., ht => execCntup_kept h ht
  | .get .., ht => execGet_kept h ht
  | .put .., ht => execPut_kept h ht
  | .post .., ht => execPost_kept h ht
  | .mark .., ht => execMark_kept h ht
  | .engineCommit .., ht => execEngineCommit_kept h ht
  | .spareTakeover .., ht => execSpareTakeover_kept h ht
  | .takeover .., ht => execTakeover_kept h ht
  | .engCmdAck .., ht => execEngCmdAck_kept h ht
  | .snap, ht => execSnap_kept h ht
  | .tdCapture, ht => execTdCapture_kept h ht
  | .engTdAck .., ht => execEngTdAck_kept h ht
  | .pmonSelWrite .., ht => execPmonSelWrite_kept h ht
  | .pmonSourceChange .., ht => execPmonSourceChange_kept h ht
  | .freeze .., ht => execFreeze_kept h ht
  | .pmonSnap, ht => execPmonSnap_kept h ht
  | .pmonSnapshot, ht => execPmonSnapshot_kept h ht
  | .pmonSnapAck .., ht => execPmonSnapAck_kept h ht
  | .confirm, ht => execConfirm_kept h ht
  | .loadHost, ht => execLoadHost_kept h ht
  | .bootCmdAck .., ht => execBootCmdAck_kept h ht
  | .read .., ht => execRead_kept h ht
  | .program .., ht => execProgram_kept h ht
  | .erase .., ht => execErase_kept h ht
  | .flashCommandDone .., ht => execFlashCommandDone_kept h ht
  | .bootFlAck .., ht => execBootFlAck_kept h ht
  | .topRstCmd .., ht => execTopRstCmd_kept h ht
  | .deviceReset .., ht => execDeviceReset_kept h ht
  | .go .., ht => execGo_kept h ht
  | .stop .., ht => execStop_kept h ht
  | .reset .., ht => execReset_kept h ht
  | .dmaChAck .., ht => execDmaChAck_kept h ht
  | .dmaConfigWrite .., ht => execDmaConfigWrite_kept h ht
  | .descriptorFetch .., ht => execDescriptorFetch_kept h ht
  | .dmaBeat, ht => execDmaBeat_kept h ht
  | .descriptorEnd .., ht => execDescriptorEnd_kept h ht
  | .targetTimeout .., ht => execTargetTimeout_kept h ht
  | .queueRunStart .., ht => execQueueRunStart_kept h ht
  | .lcBlank .., ht => execLcBlank_kept h ht
  | .lcDevelop .., ht => execLcDevelop_kept h ht
  | .lcDeploy .., ht => execLcDeploy_kept h ht
  | .lcReturn .., ht => execLcReturn_kept h ht
  | .returnReset, ht => execReturnReset_kept h ht
  | .lcAck .., ht => execLcAck_kept h ht
  | .pwrOn .., ht => execPwrOn_kept h ht
  | .pwrOff .., ht => execPwrOff_kept h ht
  | .quiet .., ht => execQuiet_kept h ht
  | .wake .., ht => execWake_kept h ht
  | .pwrRequestAct, ht => execPwrRequestAct_kept h ht
  | .domainOn .., ht => execDomainOn_kept h ht
  | .domainIsolate .., ht => execDomainIsolate_kept h ht
  | .drainTimeout .., ht => execDrainTimeout_kept h ht
  | .pwrAck .., ht => execPwrAck_kept h ht
  | .pwrLegOn .., ht => execPwrLegOn_kept h ht
  | .pwrLegOff .., ht => execPwrLegOff_kept h ht
  | .cdaRead .., ht => execCdaRead_kept h ht
  | .cdaWrite .., ht => execCdaWrite_kept h ht
  | .cdaCapture .., ht => execCdaCapture_kept h ht
  | .debugSessionClose, ht => execDebugSessionClose_kept h ht
  | .bypass, ht => execBypass_kept h ht
  | .idcode, ht => execIdcode_kept h ht
  | .samplePreload, ht => execSamplePreload_kept h ht
  | .extest, ht => execExtest_kept h ht
  | .clamp, ht => execClamp_kept h ht
  | .highz, ht => execHighz_kept h ht
  | .maker .., ht => execMaker_kept h ht
  | .thermalSample .., ht => execThermalSample_kept h ht
  | .smbReadWord .., ht => execSmbReadWord_kept h ht
  | .laneLightReturn .., ht => execLaneLightReturn_kept h ht
  | .refSignalReturn .., ht => execRefSignalReturn_kept h ht
  | .arbSync .., ht => execArbSync_kept h ht
  | .hostLinkUp .., ht => execHostLinkUp_kept h ht
  | .peerHealthTimeout, ht => execPeerHealthTimeout_kept h ht
  | .hostReadCompletion .., ht => execHostReadCompletion_kept h ht
  | .cdaAccess, ht => execCdaAccess_kept h ht

theorem step_kept {F : Fuses} {s t : State} (h : Kept F s) (ht : step s = .next t) : Kept F t := by
  unfold step at ht
  split at ht
  · cases ht
    exact idle_kept h
  next rest _ =>
    have hq : Kept F { s with pending := rest } := h.of rfl rfl rfl rfl rfl rfl
    exact exec_kept hq ht

/-- Settles O4: `Kept` holds a state's safety together with the fuses it came from, and every step keeps it; a state is `Kept` from its own
fuses. -/
theorem everyStepKeepsSafe : Obligations.EveryStepKeepsSafe := by
  intro s t hs ht
  obtain ⟨hf, hsafe⟩ := step_kept ⟨FuseLe.refl s.fuses, hs⟩ ht
  exact ⟨hsafe, hf⟩

/-- Settles O2: every arm of `exec` is `checked`, which keeps the queue through `after`. -/
theorem everyCommandAnswers : Obligations.EveryCommandAnswers := by
  intro i s
  obtain ⟨t, ht⟩ := exec_eq_checked i s
  rw [ht]
  exact ⟨fun h => ⟨after s t, checked_of_wf h s t, after_pending s t⟩, fun h => checked_of_not_wf h s t⟩

end Sys2Proof.Machine

namespace Sys2Proof.Machine

/-! Plain registers: what a write leaves, bit by bit, and that a register without a row of its own takes it (R11, R13). -/

theorem bitAt_eq_testBit (v i : Nat) : bitAt v i = v.testBit i := by
  rw [Nat.testBit_eq_decide_div_mod_eq]
  rfl

theorem bitAt_toNat (w : Word) (i : Nat) : bitAt w.toNat i = w.getLsbD i := bitAt_eq_testBit _ _

/-- A bit after a write: the written one of an RW field; of a W1C field the old one unless a 1 was written; else the old one. -/
theorem RegRow.getLsbD_write (r : RegRow) (v w : Word) {k : Nat} (hk : k < 32) :
    (r.write v w).getLsbD k = if bitAt r.rw k then w.getLsbD k else v.getLsbD k && !(bitAt r.w1c k && w.getLsbD k) := by
  simp only [RegRow.write, BitVec.getLsbD_or, BitVec.getLsbD_and, BitVec.getLsbD_not, BitVec.getLsbD_ofNat, hk, decide_true, Bool.true_and,
    bitAt_eq_testBit]
  cases r.rw.testBit k <;> simp

theorem regWrite_eq {a : Nat} {r : RegRow} (hr : regRow a = some r) (s : State) (w : Word) :
    regWrite s a w = { s with regs := Tab.set regReset s.regs a (r.write (Tab.get regReset s.regs a) w) } := by
  simp only [regWrite, hr]

theorem rd_regWrite_other {a b : Nat} {r : RegRow} {s : State} (hr : regRow a = some r) (hs : Tab.wf regReset s.regs = true) (hb : b ≠ a)
    (w : Word) : (regWrite s a w).rd b = s.rd b := by
  rw [regWrite_eq hr]
  exact congrArg BitVec.toNat (Tab.get_set_other regReset hs hb _)

theorem bit_regWrite {a k : Nat} {r : RegRow} {s : State} (hr : regRow a = some r) (hs : Tab.wf regReset s.regs = true) (w : Word)
    (hk : k < 32) :
    (regWrite s a w).bit a k = if bitAt r.rw k then w.getLsbD k else s.bit a k && !(bitAt r.w1c k && w.getLsbD k) := by
  have hrd : (regWrite s a w).rd a = (r.write (Tab.get regReset s.regs a) w).toNat := by
    rw [regWrite_eq hr]
    exact congrArg BitVec.toNat (Tab.get_set_self regReset hs a _)
  rw [State.bit, hrd, bitAt_toNat, r.getLsbD_write _ w hk, State.bit, State.rd, bitAt_toNat]

section commandReg

variable {a : Nat} {s : State} {w : Word}

theorem writeBoot_plain (h : commandReg a = false) : writeBoot s a w = regWrite s a w := by
  simp [commandReg] at h
  simp [writeBoot, h]

theorem writeDma_plain (h : commandReg a = false) : writeDma s a w = regWrite s a w := by
  have hd : ¬(0x301000 ≤ a && a < 0x302000) := by
    simp [commandReg] at h ⊢
    omega
  rw [writeDma, if_neg hd]

theorem writeTime_plain (h : commandReg a = false) : writeTime s a w = regWrite s a w := by
  simp [commandReg] at h
  simp [writeTime, h]

theorem writeSys_plain (h : commandReg a = false) : writeSys s a w = regWrite s a w := by
  simp [commandReg] at h
  simp [writeSys, h]

theorem writeLine_plain (h : commandReg a = false) : writeLine s a w = regWrite s a w := by
  simp [commandReg] at h
  obtain ⟨hcmd, hspare⟩ := h
  by_cases ha : a < 0x1400000
  · simp [writeLine, ha, hspare ha]
  · simp [writeLine, ha, hcmd]

theorem csrWrite_boot (hs : s.csrAnswers a = true) (ha : a < 0x300000) : csrWrite s a w = writeBoot s a w := by
  simp [csrWrite, hs, ha]

theorem csrWrite_dma (hs : s.csrAnswers a = true) (h1 : 0x300000 ≤ a) (h2 : a < 0x400000) : csrWrite s a w = writeDma s a w := by
  simp [csrWrite, hs, h2, Nat.not_lt.mpr h1]

theorem csrWrite_time (hs : s.csrAnswers a = true) (h1 : 0x400000 ≤ a) (h2 : a < 0x700000) : csrWrite s a w = writeTime s a w := by
  simp [csrWrite, hs, h2, Nat.not_lt.mpr h1, show ¬a < 0x300000 by omega]

theorem csrWrite_sys (hs : s.csrAnswers a = true) (h1 : 0x700000 ≤ a) (h2 : a < 0x1000000) : csrWrite s a w = writeSys s a w := by
  simp [csrWrite, hs, h2, Nat.not_lt.mpr h1, show ¬a < 0x300000 by omega, show ¬a < 0x400000 by omega]

theorem csrWrite_line (hs : s.csrAnswers a = true) (ha : 0x1000000 ≤ a) : csrWrite s a w = writeLine s a w := by
  simp [csrWrite, hs, Nat.not_lt.mpr ha, show ¬a < 0x300000 by omega, show ¬a < 0x400000 by omega, show ¬a < 0x700000 by omega]

theorem csrWrite_plain (hs : s.csrAnswers a = true) (h : commandReg a = false) : csrWrite s a w = regWrite s a w := by
  simp [csrWrite, hs, writeBoot_plain h, writeDma_plain h, writeTime_plain h, writeSys_plain h, writeLine_plain h]

/-- Of the LC to GRAFT blocks, only registers answer: no window lies there. -/
theorem regRow_isSome_of_answers (hs : s.csrAnswers a = true) (h1 : 0x700000 ≤ a) (h2 : a < 0x1000000) : (regRow a).isSome = true := by
  have he : engWindow a = none := if_neg (by simp; omega)
  have hm : msixWindow a = none := by
    rw [msixWindow, if_neg (by simp; omega), if_neg (by simp; omega)]
  simp [State.csrAnswers, he, hm] at hs
  exact hs.2

end commandReg

/-! Registers with a row of their own: a write acts as the row's command, with the operands of the written word (log entry 6). -/

/-- The write of register `x.1` acts as command `x.2` does, in reach of the host. -/
def ActsAs (w : Word) (s : State) (x : Nat × Instr) : Prop := s.csrAnswers x.1 = true → exec (.registerWrite x.1 w) s = exec x.2 s

section ActsAs

variable {a : Nat} {w : Word} {s : State} {i : Instr} {op : State → State}

theorem csrOk_of (ha : a % 4 = 0) (h : a < 0x10000000) : csrOk a = true := by simp [csrOk, ha, h]

/-- A write acts as a command where both are the same operation `op` on a register that answers. -/
theorem ActsAs.of (ha : csrOk a = true) (hi : i.wf = true) (hexec : exec i s = checked i s (s.host a op))
    (hwrite : s.csrAnswers a = true → csrWrite s a w = op s) : ActsAs w s (a, i) := by
  intro hs
  have hop : s.host a op = op s := by rw [State.host, if_pos hs]
  have hw : exec (.registerWrite a w) s = checked (.registerWrite a w) s (csrWrite s a w) := rfl
  have hwf : (Instr.registerWrite a w).wf = true := ha
  rw [hw, hexec, hop, hwrite hs, checked_of_wf hwf, checked_of_wf hi]

theorem ActsAs.boot (h : a % 4 = 0 ∧ a < 0x300000) (hi : i.wf = true) (hexec : exec i s = checked i s (s.host a op))
    (hw : writeBoot s a w = op s) : ActsAs w s (a, i) :=
  .of (csrOk_of h.1 (by omega)) hi hexec fun hs => (csrWrite_boot hs h.2).trans hw

theorem ActsAs.dma (h : a % 4 = 0 ∧ 0x300000 ≤ a ∧ a < 0x400000) (hi : i.wf = true)
    (hexec : exec i s = checked i s (s.host a op)) (hw : writeDma s a w = op s) : ActsAs w s (a, i) :=
  .of (csrOk_of h.1 (by omega)) hi hexec fun hs => (csrWrite_dma hs h.2.1 h.2.2).trans hw

theorem ActsAs.time (h : a % 4 = 0 ∧ 0x400000 ≤ a ∧ a < 0x700000) (hi : i.wf = true)
    (hexec : exec i s = checked i s (s.host a op)) (hw : writeTime s a w = op s) : ActsAs w s (a, i) :=
  .of (csrOk_of h.1 (by omega)) hi hexec fun hs => (csrWrite_time hs h.2.1 h.2.2).trans hw

theorem ActsAs.sys (h : a % 4 = 0 ∧ 0x700000 ≤ a ∧ a < 0x1000000) (hi : i.wf = true)
    (hexec : exec i s = checked i s (s.host a op)) (hw : (regRow a).isSome = true → writeSys s a w = op s) : ActsAs w s (a, i) :=
  .of (csrOk_of h.1 (by omega)) hi hexec fun hs => (csrWrite_sys hs h.2.1 h.2.2).trans (hw (regRow_isSome_of_answers hs h.2.1 h.2.2))

theorem ActsAs.line (h : a % 4 = 0 ∧ 0x1000000 ≤ a ∧ a < 0x10000000) (hi : i.wf = true) (hexec : exec i s = checked i s (s.host a op))
    (hw : writeLine s a w = op s) : ActsAs w s (a, i) :=
  .of (csrOk_of h.1 h.2.2) hi hexec fun hs => (csrWrite_line hs h.2.1).trans hw

/-- A sequence number written to an ACK register is one. -/
theorem seq_ok (d : Nat) : decide (d % 256 < 256) = true := decide_eq_true (Nat.mod_lt _ (by decide))

/-- A field of `n` bits is below 2^n. -/
theorem bits_ok (d lo n : Nat) : decide (bits d lo n < 2 ^ n) = true := decide_eq_true (Nat.mod_lt _ (Nat.two_pow_pos n))

theorem topRstCmd_actsAs : ActsAs w s (Reg.TOP_RST_CMD, .topRstCmd w) := .boot (by decide) rfl rfl rfl
theorem bootCmdAck_actsAs : ActsAs w s (Reg.BOOT_CMD_ACK, .bootCmdAck (w.toNat % 256)) := .boot (by decide) (seq_ok _) rfl rfl
theorem bootFlAck_actsAs : ActsAs w s (Reg.BOOT_FL_ACK, .bootFlAck (w.toNat % 256)) := .boot (by decide) (seq_ok _) rfl rfl
theorem stepAck_actsAs : ActsAs w s (Reg.FT_STEP_ACK, .stepAck (w.toNat % 256)) := .time (by decide) (seq_ok _) rfl rfl
theorem mateCmdAck_actsAs : ActsAs w s (Reg.MATE_CMD_ACK, .mateCmdAck (w.toNat % 256)) := .time (by decide) (seq_ok _) rfl rfl
theorem lcAck_actsAs : ActsAs w s (Reg.LC_ACK, .lcAck (w.toNat % 256)) := .sys (by decide) (seq_ok _) rfl fun _ => rfl
theorem pwrAck_actsAs : ActsAs w s (Reg.PWR_ACK, .pwrAck (w.toNat % 256)) := .sys (by decide) (seq_ok _) rfl fun _ => rfl
theorem pmonSnapAck_actsAs : ActsAs w s (Reg.PMON_SNAP_ACK, .pmonSnapAck (w.toNat % 256)) := .sys (by decide) (seq_ok _) rfl fun _ => rfl
theorem graftCmdAck_actsAs : ActsAs w s (Reg.GRAFT_CMD_ACK, .graftCmdAck (w.toNat % 256)) := .sys (by decide) (seq_ok _) rfl fun _ => rfl
theorem pmResAck_actsAs : ActsAs w s (Reg.PM_RES_ACK, .pmResAck (w.toNat % 256)) := .line (by decide) (seq_ok _) rfl rfl
theorem leafPmAck_actsAs : ActsAs w s (Reg.LEAF_PM_ACK, .leafPmAck (w.toNat % 256)) := .line (by decide) (seq_ok _) rfl rfl
theorem protCmdAck_actsAs : ActsAs w s (Reg.PROT_CMD_ACK, .protCmdAck (w.toNat % 256)) := .line (by decide) (seq_ok _) rfl rfl
theorem engCmdAck_actsAs : ActsAs w s (Reg.ENG_CMD_ACK, .engCmdAck (w.toNat % 256)) := .line (by decide) (seq_ok _) rfl rfl
theorem engTdAck_actsAs : ActsAs w s (Reg.ENG_TD_ACK, .engTdAck (w.toNat % 256)) := .line (by decide) (seq_ok _) rfl rfl
theorem freeze_actsAs : ActsAs w s (Reg.PMON_CTRL, .freeze w) := .sys (by decide) rfl rfl fun _ => rfl

theorem pmRdReq_actsAs : ActsAs w s (Reg.PM_RD_REQ, .pmRdReq (bits w.toNat 0 18) (bits w.toNat 18 2)) :=
  .line (by decide) (Bool.and_eq_true_iff.mpr ⟨bits_ok _ 0 18, bits_ok _ 18 2⟩) rfl rfl

theorem leafPmReq_actsAs : ActsAs w s (Reg.LEAF_PM_REQ, .leafPmReq (bits w.toNat 0 17) (bits w.toNat 17 2)) :=
  .line (by decide) (Bool.and_eq_true_iff.mpr ⟨bits_ok _ 0 17, bits_ok _ 17 2⟩) rfl rfl

theorem writeSys_lcCmd (s : State) (w : Word) : writeSys s Reg.LC_CMD w = lcCmd s (w.toNat % 4) (bits w.toNat 8 8) := by
  simp [writeSys]

theorem lcBlank_actsAs (h : w.toNat % 4 = 0) : ActsAs w s (Reg.LC_CMD, .lcBlank (bits w.toNat 8 8)) :=
  .sys (by decide) (bits_ok _ 8 8) rfl fun _ => (writeSys_lcCmd s w).trans (congrArg (lcCmd s · _) h)
theorem lcDevelop_actsAs (h : w.toNat % 4 = 1) : ActsAs w s (Reg.LC_CMD, .lcDevelop (bits w.toNat 8 8)) :=
  .sys (by decide) (bits_ok _ 8 8) rfl fun _ => (writeSys_lcCmd s w).trans (congrArg (lcCmd s · _) h)
theorem lcDeploy_actsAs (h : w.toNat % 4 = 2) : ActsAs w s (Reg.LC_CMD, .lcDeploy (bits w.toNat 8 8)) :=
  .sys (by decide) (bits_ok _ 8 8) rfl fun _ => (writeSys_lcCmd s w).trans (congrArg (lcCmd s · _) h)
theorem lcReturn_actsAs (h : w.toNat % 4 = 3) : ActsAs w s (Reg.LC_CMD, .lcReturn (bits w.toNat 8 8)) :=
  .sys (by decide) (bits_ok _ 8 8) rfl fun _ => (writeSys_lcCmd s w).trans (congrArg (lcCmd s · _) h)

theorem writeBoot_bootCmd (s : State) (w : Word) : writeBoot s Reg.BOOT_CMD w = bootCmd s (w.toNat % 4) := by
  simp [writeBoot, Reg.TOP_RST_CMD, Reg.BOOT_CMD]

theorem confirm_actsAs (h : w.toNat % 4 = 1) : ActsAs w s (Reg.BOOT_CMD, .confirm) := .boot (by decide) rfl rfl
  ((writeBoot_bootCmd s w).trans (congrArg (bootCmd s) h))
theorem loadHost_actsAs (h : w.toNat % 4 = 2) : ActsAs w s (Reg.BOOT_CMD, .loadHost) := .boot (by decide) rfl rfl
  ((writeBoot_bootCmd s w).trans (congrArg (bootCmd s) h))
theorem read_actsAs (h : w.toNat % 4 = 1) : ActsAs w s (Reg.BOOT_FL_CMD, .read (bits w.toNat 2 1)) :=
  .boot (by decide) (bits_ok _ 2 1) rfl (congrArg (flashCmd s · _) h)
theorem program_actsAs (h : w.toNat % 4 = 2) : ActsAs w s (Reg.BOOT_FL_CMD, .program (bits w.toNat 2 1)) :=
  .boot (by decide) (bits_ok _ 2 1) rfl (congrArg (flashCmd s · _) h)
theorem erase_actsAs (h : w.toNat % 4 = 3) : ActsAs w s (Reg.BOOT_FL_CMD, .erase (bits w.toNat 2 1)) :=
  .boot (by decide) (bits_ok _ 2 1) rfl (congrArg (flashCmd s · _) h)

theorem release_actsAs (h : w.toNat % 4 = 1) : ActsAs w s (Reg.MATE_CMD, .release) := .time (by decide) rfl rfl (if_pos h)

theorem writeTime_stepCmd (s : State) (w : Word) : writeTime s Reg.FT_STEP_CMD w =
    if bitAt w.toNat 1 then ftCancel (if bitAt w.toNat 0 then ftArm s else s) else if bitAt w.toNat 0 then ftArm s else s := rfl

theorem arm_actsAs (h : w.toNat % 4 = 1) : ActsAs w s (Reg.FT_STEP_CMD, .arm) := by
  have h0 : bitAt w.toNat 0 = true := by simp [bitAt]; omega
  have h1 : bitAt w.toNat 1 = false := by simp [bitAt]; omega
  exact .time (by decide) rfl rfl (by rw [writeTime_stepCmd, h0, h1]; rfl)

theorem cancelStep_actsAs (h : w.toNat % 4 = 2) : ActsAs w s (Reg.FT_STEP_CMD, .cancelStep) := by
  have h0 : bitAt w.toNat 0 = false := by simp [bitAt]; omega
  have h1 : bitAt w.toNat 1 = true := by simp [bitAt]; omega
  exact .time (by decide) rfl rfl (by rw [writeTime_stepCmd, h0, h1]; rfl)

theorem capture_actsAs (h : bitAt w.toNat 0 = true) : ActsAs w s (Reg.FT_CAP_CMD, .capture) := .time (by decide) rfl rfl (if_pos h)
theorem pmonSnap_actsAs (h : bitAt w.toNat 0 = true) : ActsAs w s (Reg.PMON_SNAP_CMD, .pmonSnap) :=
  .sys (by decide) rfl rfl fun _ => if_pos h
theorem snap_actsAs (h : bitAt w.toNat 0 = true) : ActsAs w s (Reg.ENG_TD_CMD, .snap) := .line (by decide) rfl rfl (if_pos h)
theorem inject_actsAs (h : bitAt w.toNat 0 = true) : ActsAs w s (Reg.TRK_TEST_CMD, .inject (bits w.toNat 1 7)) :=
  .line (by decide) (bits_ok _ 1 7) rfl (if_pos h)
theorem takeover_actsAs (h : bits w.toNat 7 2 = 1) : ActsAs w s (Reg.ENG_CMD, .takeover (bits w.toNat 0 7)) :=
  .line (by decide) (bits_ok _ 0 7) rfl (if_pos h)

theorem writeSys_pwrReq (s : State) (w : Word) : writeSys s Reg.PWR_REQ_CMD w =
    pwrRequest s (bits w.toNat 8 3) (if bits w.toNat 8 3 ≤ 2 then bits w.toNat 0 7 else 0) (bitAt w.toNat 11) := rfl

theorem pwrOn_actsAs (h : bits w.toNat 8 3 = 1) : ActsAs w s (Reg.PWR_REQ_CMD, .pwrOn (bits w.toNat 0 7) (bitAt w.toNat 11)) :=
  .sys (by decide) (bits_ok _ 0 7) rfl fun _ => by rw [writeSys_pwrReq, h]; rfl
theorem pwrOff_actsAs (h : bits w.toNat 8 3 = 2) : ActsAs w s (Reg.PWR_REQ_CMD, .pwrOff (bits w.toNat 0 7) (bitAt w.toNat 11)) :=
  .sys (by decide) (bits_ok _ 0 7) rfl fun _ => by rw [writeSys_pwrReq, h]; rfl
theorem quiet_actsAs (h : bits w.toNat 8 3 = 3) : ActsAs w s (Reg.PWR_REQ_CMD, .quiet (bitAt w.toNat 11)) :=
  .sys (by decide) rfl rfl fun _ => by rw [writeSys_pwrReq, h]; rfl
theorem wake_actsAs (h : bits w.toNat 8 3 = 4) : ActsAs w s (Reg.PWR_REQ_CMD, .wake (bitAt w.toNat 11)) :=
  .sys (by decide) rfl rfl fun _ => by rw [writeSys_pwrReq, h]; rfl

/-- CLAIM and ROLLBACK name no entry: their ENTRY field is not read (R127). -/
theorem graftCmd_claim (s : State) (e : Nat) : graftCmd s 1 e = graftCmd s 1 0 := by simp [graftCmd, State.graftCode]
theorem graftCmd_rollback (s : State) (e : Nat) : graftCmd s 4 e = graftCmd s 4 0 := by simp [graftCmd, State.graftCode]

theorem writeSys_graftCmd (s : State) (w : Word) :
    writeSys s Reg.GRAFT_CMD w = graftCmd s (bits w.toNat 4 3) (bits w.toNat 0 4) := by
  simp [writeSys, Reg.LC_CMD, Reg.LC_ACK, Reg.PWR_REQ_CMD, Reg.PWR_ACK, Reg.PMON_CTRL, Reg.PMON_SNAP_CMD, Reg.PMON_SNAP_ACK, Reg.GRAFT_CMD]

theorem claim_actsAs (h : bits w.toNat 4 3 = 1) : ActsAs w s (Reg.GRAFT_CMD, .claim) :=
  .sys (by decide) rfl rfl fun _ =>
    (writeSys_graftCmd s w).trans ((congrArg (graftCmd s · _) h).trans (graftCmd_claim s _))
theorem rollback_actsAs (h : bits w.toNat 4 3 = 4) : ActsAs w s (Reg.GRAFT_CMD, .rollback) :=
  .sys (by decide) rfl rfl fun _ =>
    (writeSys_graftCmd s w).trans ((congrArg (graftCmd s · _) h).trans (graftCmd_rollback s _))
theorem commit_actsAs (h : bits w.toNat 4 3 = 2) : ActsAs w s (Reg.GRAFT_CMD, .commit (bits w.toNat 0 4)) :=
  .sys (by decide) (bits_ok _ 0 4) rfl fun _ =>
    (writeSys_graftCmd s w).trans (congrArg (graftCmd s · _) h)
theorem cancel_actsAs (h : bits w.toNat 4 3 = 3) : ActsAs w s (Reg.GRAFT_CMD, .cancel (bits w.toNat 0 4)) :=
  .sys (by decide) (bits_ok _ 0 4) rfl fun _ =>
    (writeSys_graftCmd s w).trans (congrArg (graftCmd s · _) h)

theorem lo_actsAs (h : bits w.toNat 16 3 = 1) : ActsAs w s (Reg.PROT_CMD, .lo (bits w.toNat 0 16)) :=
  .line (by decide) (bits_ok _ 0 16) rfl (congrArg (protCmd s · _) h)
theorem fs_actsAs (h : bits w.toNat 16 3 = 2) : ActsAs w s (Reg.PROT_CMD, .fs (bits w.toNat 0 16)) :=
  .line (by decide) (bits_ok _ 0 16) rfl (congrArg (protCmd s · _) h)
theorem msP_actsAs (h : bits w.toNat 16 3 = 3) : ActsAs w s (Reg.PROT_CMD, .msP (bits w.toNat 0 16)) :=
  .line (by decide) (bits_ok _ 0 16) rfl (congrArg (protCmd s · _) h)
theorem msW_actsAs (h : bits w.toNat 16 3 = 4) : ActsAs w s (Reg.PROT_CMD, .msW (bits w.toNat 0 16)) :=
  .line (by decide) (bits_ok _ 0 16) rfl (congrArg (protCmd s · _) h)
theorem clear_actsAs (h : bits w.toNat 16 3 = 5) : ActsAs w s (Reg.PROT_CMD, .clear (bits w.toNat 0 16)) :=
  .line (by decide) (bits_ok _ 0 16) rfl (congrArg (protCmd s · _) h)

/-! Registers of one kind, `stride` bytes apart (R11). -/

theorem idxOf_at {base stride n k : Nat} (hs : 0 < stride) (hk : k < n) : idxOf base stride n (base + stride * k) = some k := by
  have hlt : stride * k < stride * n := Nat.mul_lt_mul_of_pos_left hk hs
  simp [idxOf, Nat.mul_div_cancel_left k hs, hlt]

theorem idxOf_outside {base stride n a : Nat} (h : a < base ∨ base + stride * n ≤ a) : idxOf base stride n a = none := by
  rw [idxOf, if_neg]
  simp
  omega

variable {n : Nat}

theorem writeDma_chCmd (hn : n < 64) : writeDma s (Reg.DMA_CH_CMD n) w = chanCmd s n (w.toNat % 4) := by
  have hc : (Reg.DMA_CH_CMD n - 0x301000) / 0x40 = n := by unfold Reg.DMA_CH_CMD; omega
  have ho : Reg.DMA_CH_CMD n % 0x40 = 0x18 := by unfold Reg.DMA_CH_CMD; omega
  have hr : 0x301000 ≤ Reg.DMA_CH_CMD n ∧ Reg.DMA_CH_CMD n < 0x302000 := by unfold Reg.DMA_CH_CMD; omega
  simp [writeDma, hc, ho, hr]

theorem writeDma_chAck (hn : n < 64) : writeDma s (Reg.DMA_CH_ACK n) w = s.ackRes (Reg.DMA_CH_RES n) (w.toNat % 256) := by
  have hc : (Reg.DMA_CH_ACK n - 0x301000) / 0x40 = n := by unfold Reg.DMA_CH_ACK; omega
  have ho : Reg.DMA_CH_ACK n % 0x40 = 0x20 := by unfold Reg.DMA_CH_ACK; omega
  have hr : 0x301000 ≤ Reg.DMA_CH_ACK n ∧ Reg.DMA_CH_ACK n < 0x302000 := by unfold Reg.DMA_CH_ACK; omega
  simp [writeDma, hc, ho, hr]

theorem dmaChAck_actsAs (hn : n < 64) : ActsAs w s (Reg.DMA_CH_ACK n, .dmaChAck n (w.toNat % 256)) :=
  .dma (by unfold Reg.DMA_CH_ACK; omega) (Bool.and_eq_true_iff.mpr ⟨decide_eq_true hn, seq_ok _⟩) rfl (writeDma_chAck hn)

theorem go_actsAs (hn : n < 64) (h : w.toNat % 4 = 1) : ActsAs w s (Reg.DMA_CH_CMD n, .go n) :=
  .dma (by unfold Reg.DMA_CH_CMD; omega) (decide_eq_true hn) rfl ((writeDma_chCmd hn).trans (congrArg (chanCmd s n) h))

theorem stop_actsAs (hn : n < 64) (h : w.toNat % 4 = 2) : ActsAs w s (Reg.DMA_CH_CMD n, .stop n) :=
  .dma (by unfold Reg.DMA_CH_CMD; omega) (decide_eq_true hn) rfl ((writeDma_chCmd hn).trans (congrArg (chanCmd s n) h))

theorem reset_actsAs (hn : n < 64) (h : w.toNat % 4 = 3) : ActsAs w s (Reg.DMA_CH_CMD n, .reset n) :=
  .dma (by unfold Reg.DMA_CH_CMD; omega) (decide_eq_true hn) rfl ((writeDma_chCmd hn).trans (congrArg (chanCmd s n) h))

/-- PG_SPARE_CMD of group `n` is one of the registers of the group, and of no other. -/
theorem writeLine_spareCmd (hn : n < 64) :
    writeLine s (Reg.PG_SPARE_CMD n) w = spareCmd s n (bits w.toNat 0 3) (bits w.toNat 4 4) := by
  have hg : (Reg.PG_SPARE_CMD n - 0x1000000) / 0x10000 = n := by unfold Reg.PG_SPARE_CMD; omega
  have hr : Reg.PG_SPARE_CMD n < 0x1400000 := by unfold Reg.PG_SPARE_CMD; omega
  simp [writeLine, hg, hr]

theorem writeLine_spareAck (hn : n < 64) :
    writeLine s (Reg.PG_SPARE_ACK n) w = s.ackRes (Reg.PG_SPARE_RES n) (w.toNat % 256) := by
  have hg : (Reg.PG_SPARE_ACK n - 0x1000000) / 0x10000 = n := by unfold Reg.PG_SPARE_ACK; omega
  have hr : Reg.PG_SPARE_ACK n < 0x1400000 := by unfold Reg.PG_SPARE_ACK; omega
  have hne : Reg.PG_SPARE_ACK n ≠ Reg.PG_SPARE_CMD n := by unfold Reg.PG_SPARE_ACK Reg.PG_SPARE_CMD; omega
  simp [writeLine, hg, hr, hne]

theorem spareAck_actsAs (hn : n < 64) : ActsAs w s (Reg.PG_SPARE_ACK n, .spareAck n (w.toNat % 256)) :=
  .line (by unfold Reg.PG_SPARE_ACK; omega) (Bool.and_eq_true_iff.mpr ⟨decide_eq_true hn, seq_ok _⟩) rfl (writeLine_spareAck hn)

/-- A command of PG_SPARE_CMD, whose lane operand fits its field (R72). -/
theorem ActsAs.spare (hn : n < 64) (hi : i.wf = (decide (n < 64) && decide (bits w.toNat 4 4 < 16)))
    (hexec : exec i s = checked i s (s.host (Reg.PG_SPARE_CMD n) op))
    (hw : spareCmd s n (bits w.toNat 0 3) (bits w.toNat 4 4) = op s) : ActsAs w s (Reg.PG_SPARE_CMD n, i) :=
  .line (by unfold Reg.PG_SPARE_CMD; omega) (hi.trans (Bool.and_eq_true_iff.mpr ⟨decide_eq_true hn, bits_ok _ 4 4⟩)) hexec
    ((writeLine_spareCmd hn).trans hw)

theorem spareRequest_actsAs (hn : n < 64) (h : bits w.toNat 0 3 = 1) :
    ActsAs w s (Reg.PG_SPARE_CMD n, .spareRequest n (bits w.toNat 4 4)) :=
  .spare hn rfl rfl (by simp [spareCmd, h])

theorem spareRelease_actsAs (hn : n < 64) (h : bits w.toNat 0 3 = 2) :
    ActsAs w s (Reg.PG_SPARE_CMD n, .spareRelease n (bits w.toNat 4 4)) :=
  .spare hn rfl rfl (by simp [spareCmd, h])

theorem txBridge_actsAs (hn : n < 64) (h : bits w.toNat 0 3 = 3) :
    ActsAs w s (Reg.PG_SPARE_CMD n, .txBridge n (bits w.toNat 4 4)) :=
  .spare hn rfl rfl (by simp [spareCmd, h])

theorem txUnbridge_actsAs (hn : n < 64) (h : bits w.toNat 0 3 = 4) :
    ActsAs w s (Reg.PG_SPARE_CMD n, .txUnbridge n (bits w.toNat 4 4)) :=
  .spare hn rfl rfl (by simp [spareCmd, h])

/-- The registers of LC to GRAFT that come in numbers stand apart from the command registers of those blocks. -/
theorem ne_sysCommand (h : 0x800200 ≤ a ∧ a < 0x900000 ∨ 0x901000 ≤ a ∧ a < 0xA00000 ∨ 0xA00114 ≤ a) :
    a ≠ Reg.LC_CMD ∧ a ≠ Reg.LC_ACK ∧ a ≠ Reg.PWR_REQ_CMD ∧ a ≠ Reg.PWR_ACK ∧ a ≠ Reg.PMON_CTRL ∧ a ≠ Reg.PMON_SNAP_CMD ∧
      a ≠ Reg.PMON_SNAP_ACK ∧ a ≠ Reg.GRAFT_CMD ∧ a ≠ Reg.GRAFT_CMD_ACK := by
  unfold Reg.LC_CMD Reg.LC_ACK Reg.PWR_REQ_CMD Reg.PWR_ACK Reg.PMON_CTRL Reg.PMON_SNAP_CMD Reg.PMON_SNAP_ACK Reg.GRAFT_CMD
    Reg.GRAFT_CMD_ACK
  omega

theorem writeSys_legOn (hn : n < 3) : writeSys s (Reg.PWR_LEG_ON n) w = legWrite s true n w := by
  have hne := ne_sysCommand (a := Reg.PWR_LEG_ON n) (by unfold Reg.PWR_LEG_ON; omega)
  have hi : idxOf (Reg.PWR_LEG_ON 0) 4 3 (Reg.PWR_LEG_ON n) = some n := idxOf_at (by decide) hn
  simp [writeSys, hne, hi]

theorem writeSys_legOff (hn : n < 3) : writeSys s (Reg.PWR_LEG_OFF n) w = legWrite s false n w := by
  have hne := ne_sysCommand (a := Reg.PWR_LEG_OFF n) (by unfold Reg.PWR_LEG_OFF; omega)
  have hon : idxOf (Reg.PWR_LEG_ON 0) 4 3 (Reg.PWR_LEG_OFF n) = none :=
    idxOf_outside (by unfold Reg.PWR_LEG_ON Reg.PWR_LEG_OFF; omega)
  have hi : idxOf (Reg.PWR_LEG_OFF 0) 4 3 (Reg.PWR_LEG_OFF n) = some n := idxOf_at (by decide) hn
  simp [writeSys, hne, hon, hi]

theorem writeSys_pmonSel (hn : n < 256) (hr : (regRow (Reg.PMON_SEL n)).isSome = true) :
    writeSys s (Reg.PMON_SEL n) w = pmonSelWrite s n w := by
  have hne := ne_sysCommand (a := Reg.PMON_SEL n) (by unfold Reg.PMON_SEL; omega)
  have hon : idxOf (Reg.PWR_LEG_ON 0) 4 3 (Reg.PMON_SEL n) = none := idxOf_outside (by unfold Reg.PWR_LEG_ON Reg.PMON_SEL; omega)
  have hoff : idxOf (Reg.PWR_LEG_OFF 0) 4 3 (Reg.PMON_SEL n) = none := idxOf_outside (by unfold Reg.PWR_LEG_OFF Reg.PMON_SEL; omega)
  have hi : idxOf (Reg.PMON_SEL 0) 4 256 (Reg.PMON_SEL n) = some n := idxOf_at (by decide) hn
  simp [writeSys, hne, hon, hoff, hi, hr]

theorem writeSys_graftEAck (hn : n < 16) : writeSys s (Reg.GRAFT_E_ACK n) w = graftAck s n (w.toNat % 256) := by
  have hne := ne_sysCommand (a := Reg.GRAFT_E_ACK n) (by unfold Reg.GRAFT_E_ACK; omega)
  have hon : idxOf (Reg.PWR_LEG_ON 0) 4 3 (Reg.GRAFT_E_ACK n) = none :=
    idxOf_outside (by unfold Reg.PWR_LEG_ON Reg.GRAFT_E_ACK; omega)
  have hoff : idxOf (Reg.PWR_LEG_OFF 0) 4 3 (Reg.GRAFT_E_ACK n) = none :=
    idxOf_outside (by unfold Reg.PWR_LEG_OFF Reg.GRAFT_E_ACK; omega)
  have hsel : idxOf (Reg.PMON_SEL 0) 4 256 (Reg.GRAFT_E_ACK n) = none :=
    idxOf_outside (by unfold Reg.PMON_SEL Reg.GRAFT_E_ACK; omega)
  have hi : idxOf (Reg.GRAFT_E_ACK 0) 0x40 16 (Reg.GRAFT_E_ACK n) = some n := idxOf_at (by decide) hn
  simp [writeSys, hne, hon, hoff, hsel, hi]

theorem pwrLegOn_actsAs (hn : n < 3) : ActsAs w s (Reg.PWR_LEG_ON n, .pwrLegOn n w) :=
  .sys (by unfold Reg.PWR_LEG_ON; omega) (decide_eq_true hn) rfl fun _ => writeSys_legOn hn

theorem pwrLegOff_actsAs (hn : n < 3) : ActsAs w s (Reg.PWR_LEG_OFF n, .pwrLegOff n w) :=
  .sys (by unfold Reg.PWR_LEG_OFF; omega) (decide_eq_true hn) rfl fun _ => writeSys_legOff hn

theorem pmonSelWrite_actsAs (hn : n < 256) : ActsAs w s (Reg.PMON_SEL n, .pmonSelWrite n w) :=
  .sys (by unfold Reg.PMON_SEL; omega) (decide_eq_true hn) rfl (writeSys_pmonSel hn)

theorem graftEAck_actsAs (hn : n < 16) : ActsAs w s (Reg.GRAFT_E_ACK n, .graftEAck n (w.toNat % 256)) :=
  .sys (by unfold Reg.GRAFT_E_ACK; omega) (Bool.and_eq_true_iff.mpr ⟨decide_eq_true hn, seq_ok _⟩) rfl
    fun _ => writeSys_graftEAck hn

theorem lcCmd_actsAs : ActsAs w s (Reg.LC_CMD, if w.toNat % 4 = 0 then .lcBlank (bits w.toNat 8 8)
    else if w.toNat % 4 = 1 then .lcDevelop (bits w.toNat 8 8)
    else if w.toNat % 4 = 2 then .lcDeploy (bits w.toNat 8 8) else .lcReturn (bits w.toNat 8 8)) := by
  split
  · next h0 => exact lcBlank_actsAs h0
  · split
    · next h1 => exact lcDevelop_actsAs h1
    · split
      · next h2 => exact lcDeploy_actsAs h2
      · exact lcReturn_actsAs (by omega)

end ActsAs

/-- A property of all elements of a list that a condition chooses. -/
theorem forall_mem_ite {α : Type} {c : Prop} [Decidable c] {l m : List α} {P : α → Prop} :
    (∀ x ∈ (if c then l else m), P x) ↔ (c → ∀ x ∈ l, P x) ∧ (¬c → ∀ x ∈ m, P x) := by
  split <;> simp [*]

/-- Settles O7. A plain register takes the written word through the masks of its row; a command register acts as its row does, case by case
of its OP field. -/
theorem plainRegisterWrite : Obligations.PlainRegisterWrite := by
  refine ⟨fun a w s r hr ha hc hs hwf => ?_, fun w s => ?_, fun n w s => ?_⟩
  · have hex : exec (.registerWrite a w) s = checked (.registerWrite a w) s (csrWrite s a w) := rfl
    rw [hex, csrWrite_plain hs hc, checked_of_wf (show (Instr.registerWrite a w).wf = true from ha)]
    exact ⟨_, rfl, (OnlyRegs.refl s).regWrite a w, fun b hb => rd_regWrite_other hr hwf hb w, fun k hk => bit_regWrite hr hwf w hk⟩
  · show ∀ x ∈ _, ActsAs w s x
    simp only [List.forall_mem_append, forall_mem_ite, List.forall_mem_cons, List.not_mem_nil, false_implies, implies_true,
      and_true]
    refine ⟨⟨⟨⟨⟨⟨?acks, ?byLowOp⟩, ?byStartBit⟩, ?power⟩, ?graft⟩, ?protection⟩, fun h => takeover_actsAs h⟩
    case acks =>
      exact ⟨topRstCmd_actsAs, bootCmdAck_actsAs, bootFlAck_actsAs, stepAck_actsAs, mateCmdAck_actsAs, lcAck_actsAs, pwrAck_actsAs,
        freeze_actsAs, pmonSnapAck_actsAs, graftCmdAck_actsAs, pmRdReq_actsAs, pmResAck_actsAs, leafPmReq_actsAs, leafPmAck_actsAs,
        protCmdAck_actsAs, engCmdAck_actsAs, engTdAck_actsAs, lcCmd_actsAs⟩
    case byLowOp =>
      exact ⟨fun h => ⟨confirm_actsAs h, release_actsAs h, arm_actsAs h, read_actsAs h⟩,
        fun _ => ⟨fun h => ⟨loadHost_actsAs h, cancelStep_actsAs h, program_actsAs h⟩, fun _ h => erase_actsAs h⟩⟩
    case byStartBit => exact fun h => ⟨capture_actsAs h, pmonSnap_actsAs h, snap_actsAs h, inject_actsAs h⟩
    case power =>
      exact ⟨pwrOn_actsAs, fun _ => ⟨pwrOff_actsAs, fun _ => ⟨quiet_actsAs, fun _ => wake_actsAs⟩⟩⟩
    case graft => exact ⟨claim_actsAs, fun _ => ⟨commit_actsAs, fun _ => ⟨cancel_actsAs, fun _ => rollback_actsAs⟩⟩⟩
    case protection =>
      exact ⟨lo_actsAs, fun _ => ⟨fs_actsAs, fun _ => ⟨msP_actsAs, fun _ => ⟨msW_actsAs, fun _ => clear_actsAs⟩⟩⟩⟩
  · show ∀ x ∈ _, ActsAs w s x
    simp only [List.forall_mem_append, forall_mem_ite, List.forall_mem_cons, List.not_mem_nil, false_implies, implies_true,
      and_true]
    refine ⟨⟨⟨fun hn => ⟨⟨?acks, ?channel⟩, ?spare⟩, fun hn => ⟨pwrLegOn_actsAs hn, pwrLegOff_actsAs hn⟩⟩, graftEAck_actsAs⟩,
      pmonSelWrite_actsAs⟩
    case acks => exact ⟨dmaChAck_actsAs hn, spareAck_actsAs hn⟩
    case channel => exact ⟨go_actsAs hn, fun _ => ⟨stop_actsAs hn, fun _ => reset_actsAs hn⟩⟩
    case spare =>
      exact ⟨spareRequest_actsAs hn,
        fun _ => ⟨spareRelease_actsAs hn, fun _ => ⟨txBridge_actsAs hn, fun _ => txUnbridge_actsAs hn⟩⟩⟩

end Sys2Proof.Machine

namespace Sys2Proof.Machine

/-! Register reads, odd-width and default-target accesses, and new host requests (R12, R14, R298, R304). -/

section HostReads

variable {s : State} {a : Nat}

theorem csrRead_of_answers (h : s.csrAnswers a = true) :
    csrRead s a = ((engCaught s a).csrWord a, snapTake (engCaught s a) a) := if_pos h

theorem csrRead_of_not_answers (h : s.csrAnswers a = false) : csrRead s a = (0, s.defaultTarget) := by
  simp [csrRead, h]

theorem snapTake_eq (s : State) (a : Nat) : snapTake s a =
    { s with snap := if pairLow a then Tab.set snapDefault s.snap (a + 4) (BitVec.ofNat 32 (s.regNow (a + 4))) else s.snap } := by
  unfold snapTake
  split <;> rfl

theorem engCaught_outside (h1 : ¬(0x8000000 ≤ a ∧ a < 0xC400000)) (h2 : ¬(Reg.PMON_CNT_LO 0 ≤ a ∧ a < Reg.PMON_CNT_LO 256)) :
    engCaught s a = s := by
  unfold engCaught
  rw [if_neg (by simpa using h1), if_neg (by simpa using h2)]

theorem csrWord_pairHigh (hp : pairHigh a = true) (he : engWindow a = none) (hm : msixWindow a = none) :
    s.csrWord a = (Tab.get snapDefault s.snap a).toNat := by
  simp [State.csrWord, he, hm, hp]

theorem exec_pairLowRead (hc : csrOk a = true) (s : State) :
    exec (.pairLowRead a) s = .next (after s { (csrRead s a).2 with hostResp := [BitVec.ofNat 32 (csrRead s a).1] }) :=
  checked_of_wf (i := .pairLowRead a) hc s _

/-- An access of an odd width only reaches what serves it: nothing where a register answers, else the default target (R14, R304). -/
theorem exec_oddWidthAccess {t : State} (ha : a < 0x10000000) (ht : (if s.csrAnswers (a / 4 * 4) then s else s.defaultTarget) = t)
    (n : Nat) :
    exec (.oddWidthAccess a n true) s = .next (after s t) ∧
      exec (.oddWidthAccess a n false) s = .next (after s { t with hostResp := List.replicate ((n + 3) / 4) 0 }) := by
  subst ht
  exact ⟨checked_of_wf (i := .oddWidthAccess a n true) (decide_eq_true ha) s _,
    checked_of_wf (i := .oddWidthAccess a n false) (decide_eq_true ha) s _⟩

theorem exec_defaultTargetAccess (ha : a < 0x10000000000) (write : Bool) (s : State) :
    exec (.defaultTargetAccess a write) s =
      .next (after s (if write then s.defaultTarget else { s.defaultTarget with hostResp := [0] })) :=
  checked_of_wf (i := .defaultTargetAccess a write) (decide_eq_true ha) s _

/-- HOST_REQUEST with its checks as one condition after the other (R295, R298). -/
theorem hostRequest_eq (s : State) (r : HostReq) : hostRequest s r =
    if s.flag Reg.XBAR_HOST_STAT F.XBAR_HOST_STAT_LINK_UP = true ∧ r.lanes.length ≤ (if r.write then 512 else 4096) then
      (if reqInBar r = false then s.send (.unsupported r.write)
       else if r.write = true ∨ s.npOut < 32 then
         { s with hostQ := s.hostQ ++ [r], hostSince := if s.hostQ = [] then s.now else s.hostSince }
       else s)
    else s := by
  unfold hostRequest
  by_cases hok : s.flag Reg.XBAR_HOST_STAT F.XBAR_HOST_STAT_LINK_UP = true ∧ r.lanes.length ≤ (if r.write then 512 else 4096)
  · have hfit : reqFits r = true := decide_eq_true hok.2
    rw [if_pos hok, if_neg (by simp [hok.1, hfit])]
    cases reqInBar r
    case false => rfl
    case true =>
      by_cases hroom : r.write = true ∨ s.npOut < 32
      · have htaken : ¬(!r.write && 32 ≤ s.npOut) = true := by
          rcases hroom with h | h <;> simp [h]
        simp [htaken, hroom, List.isEmpty_iff]
      · have hfull : (!r.write && 32 ≤ s.npOut) = true := by
          simpa using hroom
        simp [hfull, hroom]
  · have hno : (!s.flag Reg.XBAR_HOST_STAT F.XBAR_HOST_STAT_LINK_UP || !reqFits r) = true := by
      cases hlink : s.flag Reg.XBAR_HOST_STAT F.XBAR_HOST_STAT_LINK_UP with
      | false => rfl
      | true =>
        have hlong : reqFits r = false := decide_eq_false fun hfit => hok ⟨hlink, hfit⟩
        rw [hlong]
        rfl
    rw [if_neg hok, if_pos hno]

end HostReads

/-- Settles O8, clause by clause: each read or access by what serves its address, the request by the checks of `hostRequest_eq`. -/
theorem hostReadsAndRequests : Obligations.HostReadsAndRequests := by
  refine ⟨fun a s hc hs => ?_, fun a s => engCaught_outside, fun a s hc hs => ?_, fun b s => csrWord_pairHigh, fun a n s ha hs => ?_,
    fun a n s ha hs => ?_, fun a s ha => ?_, fun r s hr => ?_⟩
  · rw [exec_pairLowRead hc, csrRead_of_answers hs, snapTake_eq]
  · rw [exec_pairLowRead hc, csrRead_of_not_answers hs]
    rfl
  · exact exec_oddWidthAccess ha (if_pos hs) n
  · exact exec_oddWidthAccess ha (if_neg (by rw [hs]; decide)) n
  · rw [exec_defaultTargetAccess ha, exec_defaultTargetAccess ha]
    exact ⟨(OnlyRegs.refl s).count _ _ _, rfl, rfl⟩
  · rw [← hostRequest_eq]
    exact checked_of_wf (i := .hostRequest r) hr s _

end Sys2Proof.Machine

namespace Sys2Proof.Machine

/-! The host access through a disabled window (R296, R303, R304). -/

theorem after_xbHold (s t : State) : (after s t).xbHold = t.xbHold := by rw [after_eq]

theorem exec_hostAccessBegin_zero (s : State) : exec (.hostAccessBegin 0) s = .next (after s (accessBegin s 0)) :=
  checked_of_wf (i := .hostAccessBegin 0) rfl s _

/-- A read of one dword at the start of BAR2. -/
def strayRead : HostReq := { write := false, bar := 2, offset := 0, lanes := List.replicate 4 (true, 0) }

/-- The first window of BAR2 is disabled (R296), the read waits, and the crossbar still lists a path to the default target, target 0, as
held by the host port. BURST_GRANT grants no such path; nothing in the statement excludes it. -/
def strayHold : State := { regs := [(bar2Reg 0, 0x100)], hostQ := [strayRead], xbHold := [(0, 0)] }

/-- The end of the burst frees that path too. -/
theorem accessBegin_strayHold : (accessBegin strayHold 0).xbHold = [] := by decide

/-- Refutes O9, in its last clause: an access through a disabled window frees the path to target 0 where the host port held one, and the
clause, which has no premise on the holder, says that nothing but the queue, the default target's count and the answer changes. -/
theorem not_hostAccessReachesMemory : ¬ Obligations.HostAccessReachesMemory := by
  intro h
  obtain ⟨t, hexec, ht, _⟩ := h.2.2 strayHold strayRead [] rfl rfl rfl rfl rfl rfl (by decide) (by decide)
  have hclaimed : t.xbHold = [(0, 0)] := (congrArg State.xbHold ht).trans rfl
  have hstep : after strayHold t = after strayHold (accessBegin strayHold 0) :=
    Host.Outcome.next.inj (hexec.symm.trans (exec_hostAccessBegin_zero strayHold))
  have hmade : t.xbHold = [] := by
    rw [← after_xbHold strayHold t, hstep, after_xbHold, accessBegin_strayHold]
  exact absurd (hclaimed.symm.trans hmade) (by decide)

end Sys2Proof.Machine

namespace Sys2Proof.Machine

/-! The issue of an action (R247, R248, R254, R258): one lemma for each way `engAct` can end. -/

/-- The state at the slot of an action: time has moved there, and the ports of its engine cycle are open. -/
def atSlot (s : State) (a : Act) : State := portCycle (s.toOfs (2 * (a.slot / 4))) a.eng (a.slot / 4)

/-- The state once the action's words are read: a corrected error is counted (R268). -/
def fetched (s : State) (a : Act) : State := if a.mem = 1 then eccCor (atSlot s a) a.eng else atSlot s a

/-- The guard of an action as its engine cycle reads it (R250). -/
def guardAt (s : State) (a : Act) : EVal := (fetched s a).pAt a.eng a.pred (a.slot / 4)

/-- The state an action that is performed finds: its slot is counted and its ports are in use (R248, R262). -/
def issued (s : State) (a : Act) (e : Nat) (u : Use) : State := usePorts (engSlot (fetched s a) a.eng 0) a.eng e (a.slot / 4) u

section ActionIssue

variable {s : State} {a : Act} {op e r : Nat} {u : Use} {lock : Bool} {fx : State → Nat → Nat → Bool → Nat → State}

theorem engAct_of_not_acting (h : s.acting a.eng = none) : engAct s a op u fx = s := by
  unfold engAct
  rw [h]

theorem engAct_before_fetch (h : s.acting a.eng = some (e, lock)) (hc : a.slot / 4 < fetchCycle a.k) :
    engAct s a op u fx = actionDrop (atSlot s a) a.eng e lock a.slot (actOp a op) 0 (actUse a u) := by
  unfold engAct
  rw [h]
  exact if_pos hc

theorem engAct_uncorrectable (h : s.acting a.eng = some (e, lock)) (hc : fetchCycle a.k ≤ a.slot / 4) (hm : 2 ≤ a.mem) :
    engAct s a op u fx = engFail (atSlot s a) a.eng (if a.mem = 2 then 1 else 3) a.slot := by
  unfold engAct
  rw [h]
  exact (if_neg (Nat.not_lt.mpr hc)).trans (if_pos hm)

/-- An action whose words are read goes on to its guard, then to the checks. -/
theorem engAct_of_fetched (h : s.acting a.eng = some (e, lock)) (hc : fetchCycle a.k ≤ a.slot / 4) (hm : a.mem < 2) :
    engAct s a op u fx =
      if !(guardAt s a).usable (a.slot / 4) then actionDrop (fetched s a) a.eng e lock a.slot (actOp a op) 1 (actUse a u)
      else if ((guardAt s a).val != 0) == a.pneg then engSlot (fetched s a) a.eng 1
      else
        match (fetched s a).dropReason a.eng e (a.slot / 4) a.slot (actUse a u) with
        | some r => actionDrop (fetched s a) a.eng e lock a.slot (actOp a op) r (actUse a u)
        | none => fx (usePorts (engSlot (fetched s a) a.eng (if actOp a op = 0 then 1 else 0)) a.eng e (a.slot / 4) (actUse a u)) a.eng e
            lock (a.slot / 4) := by
  unfold engAct
  rw [h]
  exact (if_neg (Nat.not_lt.mpr hc)).trans (if_neg (Nat.not_le.mpr hm))

variable (h : s.acting a.eng = some (e, lock)) (hc : fetchCycle a.k ≤ a.slot / 4) (hm : a.mem < 2)
include h hc hm

theorem engAct_guard_not_usable (hg : (guardAt s a).usable (a.slot / 4) = false) :
    engAct s a op u fx = actionDrop (fetched s a) a.eng e lock a.slot (actOp a op) 1 (actUse a u) := by
  rw [engAct_of_fetched h hc hm, hg]
  rfl

theorem engAct_guard_not_held (hg : (guardAt s a).usable (a.slot / 4) = true) (hv : ((guardAt s a).val != 0) = a.pneg) :
    engAct s a op u fx = engSlot (fetched s a) a.eng 1 := by
  rw [engAct_of_fetched h hc hm, hg, beq_iff_eq.mpr hv]
  rfl

theorem engAct_check_fails (hg : (guardAt s a).usable (a.slot / 4) = true) (hv : ((guardAt s a).val != 0) ≠ a.pneg)
    (hd : (fetched s a).dropReason a.eng e (a.slot / 4) a.slot (actUse a u) = some r) :
    engAct s a op u fx = actionDrop (fetched s a) a.eng e lock a.slot (actOp a op) r (actUse a u) := by
  rw [engAct_of_fetched h hc hm, hg, beq_false_of_ne hv, hd]
  rfl

end ActionIssue

/-- Action `a` of engine `e`'s program, which uses `u`, is fetched, its guard holds, and it passes every check. -/
structure Passes (s : State) (a : Act) (e : Nat) (lock : Bool) (u : Use) : Prop where
  acting : s.acting a.eng = some (e, lock)
  inTime : fetchCycle a.k ≤ a.slot / 4
  read : a.mem < 2
  usable : (guardAt s a).usable (a.slot / 4) = true
  holds : ((guardAt s a).val != 0) ≠ a.pneg
  listed : a.raw = 0
  unstopped : (fetched s a).dropReason a.eng e (a.slot / 4) a.slot u = none

section Performed

variable {s : State} {a : Act} {op e x n i : Nat} {u : Use} {lock : Bool} {fx : State → Nat → Nat → Bool → Nat → State}

theorem engAct_performed (h : Passes s a e lock u) (hop : op ≠ 0) :
    engAct s a op u fx = fx (issued s a e u) a.eng e lock (a.slot / 4) := by
  have hu : actUse a u = u := if_pos h.listed
  have ho : actOp a op = op := if_pos h.listed
  rw [engAct_of_fetched h.acting h.inTime h.read, h.usable, beq_false_of_ne h.holds, hu, ho, h.unstopped, if_neg hop]
  rfl

theorem engGet_performed (h : Passes s a e lock { wv := some x, get := some i }) :
    let d := issued s a e { wv := some x, get := some i }
    engGet s a x i = setV d a.eng x (a.slot / 4)
      { val := BitVec.ofNat 64 (d.srcVal a.eng ((d.engEntry secSRC e i).getD 0)), ready := a.slot / 4 + 2 } :=
  engAct_performed h (by decide)

/-- PUT of an engine that acts: at once within the quadrant, else a word on the state bus (R252). -/
theorem engPut_performed (h : Passes s a e lock { rv := [x], put := some i }) :
    let d := issued s a e { rv := [x], put := some i }
    let w := (d.engEntry secDST e i).getD 0
    let v := (d.vAt a.eng x (a.slot / 4)).val
    (lock = true → engPut s a x i = d) ∧
    (lock = false → busTo a.eng w = none → engPut s a x i = busApply d (entKind w) (entIndex w) v) ∧
    (∀ q, lock = false → busTo a.eng w = some q →
      engPut s a x i = { d with bus := d.bus ++ [⟨d.now + 2400, q, entKind w, entIndex w, v⟩] }) := by
  intro d w v
  have hput : engPut s a x i = _ := engAct_performed h (by decide)
  refine ⟨fun hl => ?_, fun hl hb => ?_, fun q hl hb => ?_⟩
  · exact hput.trans (if_pos hl)
  · rw [hput, if_neg (by simp [hl]), hb]
  · rw [hput, if_neg (by simp [hl]), hb]
    rfl

theorem engPost_performed (h : Passes s a e lock { rv := (List.range (2 * n)).map (x + ·), post := some (n, i) }) :
    let d := issued s a e { rv := (List.range (2 * n)).map (x + ·), post := some (n, i) }
    let w := (d.engEntry secDST e i).getD 0
    engPost s a x n i = if lock then d else
      { d with held := d.held ++ [⟨e, entKind w, entIndex w, d.postBytes a.eng x n (a.slot / 4)⟩] } :=
  engAct_performed h (by decide)

theorem engMark_performed (h : Passes s a e lock { rv := [x] }) :
    let d := issued s a e { rv := [x] }
    engMark s a x = if lock then d else
      (d.wr (Reg.ENG_MARK a.eng) ((d.vAt a.eng x (a.slot / 4)).val.toNat % 2 ^ 32)).evt (Reg.ENG_EVT a.eng) F.ENG_EVT_MARK :=
  engAct_performed h (by decide)

end Performed

/-! The checks of R258, in the order of log entry 74. -/

/-- A reserved opcode uses nothing, so that of the checks only the tail and its own remain. -/
theorem dropReason_reserved {p e c slot : Nat} {s : State} (hrd : (s.eng p).ports.rd ≤ 2) (hwr : (s.eng p).ports.wr ≤ 1) :
    s.dropReason p e c slot { bad := true } = some (if slot < Config.tailSlot then 6 else 4) := by
  rcases Nat.lt_or_ge slot Config.tailSlot with h | h
  · simp [State.dropReason, Nat.not_lt.mpr hrd, Nat.not_lt.mpr hwr, h, Nat.not_le.mpr h]
  · simp [State.dropReason, Nat.not_lt.mpr hrd, Nat.not_lt.mpr hwr, h, Nat.not_lt.mpr h]

theorem usable_of_poison {x : EVal} (h : x.poison = true) (c : Nat) : x.usable c = false := by
  simp [EVal.usable, h]

/-- The operands are checked first: one that cannot be used is reason 1. -/
theorem dropReason_operand {p e c slot i : Nat} {u : Use} {s : State} (hi : i ∈ u.rv) (h : (s.vAt p i c).usable c = false) :
    s.dropReason p e c slot u = some 1 := by
  have hall : (u.rv.all fun i => (s.vAt p i c).usable c) = false := List.all_eq_false.mpr ⟨i, hi, by simp [h]⟩
  simp only [State.dropReason, hall, Bool.not_false, Bool.true_or, if_true]

/-! What a drop leaves of the register it would have written (R259). -/

section Records

variable {α : Type}

theorem Tab.insert_ne_nil (k : Nat) (v : α) : ∀ m : List (Nat × α), Tab.insert k v m ≠ []
  | [] => by simp [Tab.insert]
  | (j, w) :: r => by
    unfold Tab.insert
    split
    · simp
    · split <;> simp

variable [DecidableEq α] {d : α} {k : Nat} {f : α → α} {m : List (Nat × α)}

theorem tabUpd_eq_insert (h : f (tabGet d m k) ≠ d) : tabUpd d m k f = Tab.insert k (f (tabGet d m k)) m := if_neg h

/-- Where the change does not give the default, it is read back from any table, in canonical form or not. -/
theorem tabGet_tabUpd_self (h : f (tabGet d m k) ≠ d) : tabGet d (tabUpd d m k f) k = f (tabGet d m k) := by
  rw [tabUpd_eq_insert h]
  exact (Tab.get_insert (fun _ => d) k k _ m).trans (if_pos rfl)

theorem tabUpd_ne_nil (h : f (tabGet d m k) ≠ d) : tabUpd d m k f ≠ [] := by
  rw [tabUpd_eq_insert h]
  exact Tab.insert_ne_nil k _ m

end Records

theorem EReg.put_ne_default (x : EReg) (c : Nat) (v : EVal) : x.put c v ≠ {} := by
  simp [EReg.put]

theorem eng_updEng {s : State} {p : Nat} {f : Eng → Eng} (h : f (s.eng p) ≠ {}) : (s.updEng p f).eng p = f (s.eng p) :=
  tabGet_tabUpd_self h

/-- A value register holds, from the next cycle on, what was written, poisoned still where it was (R248, R259). -/
theorem vAt_setV_later {c c' : Nat} (hc : c ≠ c') (s : State) (p i : Nat) (x : EVal) :
    (setV s p i c x).vAt p i c' = ((tabGet {} (s.eng p).v i).put c x).now := by
  have hreg : (tabGet ({} : EReg) (s.eng p).v i).put c x ≠ {} := EReg.put_ne_default _ c x
  have hlisted : tabUpd {} (s.eng p).v i (·.put c x) ≠ [] := tabUpd_ne_nil hreg
  have hv : ((setV s p i c x).eng p).v = tabUpd {} (s.eng p).v i (·.put c x) :=
    congrArg Eng.v (eng_updEng fun h => hlisted (congrArg Eng.v h))
  unfold State.vAt
  rw [hv, tabGet_tabUpd_self hreg]
  exact if_neg fun h => hc (Option.some.inj h)

theorem vAt_of_engs_eq {s t : State} (h : t.engs = s.engs) (p i c : Nat) : t.vAt p i c = s.vAt p i c := by
  unfold State.vAt State.eng
  rw [h]

/-! What posts a record, or charges a drop to a protection group, changes no engine. -/

theorem OnlyRegs.engs_eq {s t : State} (h : OnlyRegs s t) : t.engs = s.engs := (congrArg State.engs h).trans rfl

theorem queDrop_engs (s : State) (q n : Nat) : (s.queDrop q n).engs = s.engs :=
  ((((OnlyRegs.refl s).incPair _ _ _ _).evt _ _).count _ _ _).engs_eq

theorem post_engs (s : State) (q : Nat) (rec : List Byte) : (s.post q rec).engs = s.engs := by
  unfold State.post
  split
  · split
    · rfl
    · dsimp only
      split
      · exact queDrop_engs s q 1
      · rfl
  · rfl

theorem postRole_engs (s : State) (role quad chan port : Nat) (rec : List Byte) :
    (s.postRole role quad chan port rec).engs = s.engs := by
  unfold State.postRole
  split
  · exact post_engs s _ rec
  · rfl

theorem postOwned_engs (s : State) (h role : Nat) (rec : List Byte) : (s.postOwned h role rec).engs = s.engs := by
  unfold State.postOwned
  split
  · split <;> rfl
  · exact postRole_engs s _ _ _ _ rec

theorem protLate_engs (s : State) (n : Nat) : (protLate s n).engs = s.engs := by
  have hcounted : ((s.incPair Reg.PROT_LATE_LO Reg.PROT_WRAP 0 1).evt Reg.PROT_EVT F.PROT_EVT_LATE).engs = s.engs :=
    (((OnlyRegs.refl s).incPair _ _ _ _).evt _ _).engs_eq
  unfold protLate
  extract_lets t
  split
  · exact hcounted
  · exact (postOwned_engs t _ _ _).trans hcounted

theorem putTx_engs (s : State) (d : ProtDef) (tx : List Byte) : (putTx s d tx).engs = s.engs := by
  unfold putTx
  split <;> rfl

theorem protUndo_engs (s : State) (n : Nat) (d : ProtDef) : (protUndo s n d).engs = s.engs := by
  unfold protUndo
  extract_lets o g back t mine
  have hback : (back s).engs = s.engs := by
    unfold back
    extract_lets t1 t2
    have h1 : t1.engs = s.engs := by
      unfold t1
      split <;> rfl
    have h2 : t2.engs = t1.engs := by
      unfold t2
      split <;> rfl
    split
    · exact h2.trans h1
    · exact (putTx_engs t2 d _).trans (h2.trans h1)
  show t.engs = s.engs
  unfold t
  split
  · rfl
  · exact hback

/-- A drop leaves the engines as the poisoned write of its destination left them: what it does to a group (log entry 77) is apart. -/
theorem actionDrop_engs (p e slot op r i : Nat) (lock : Bool) (s : State) :
    ∃ t : State, (actionDrop s p e lock slot op r { wv := some i }).engs =
      (setV t p i (slot / 4) { t.vAt p i (slot / 4) with poison := true, ready := 0 }).engs := by
  unfold actionDrop
  extract_lets c h s1 s2 s3 s4 s5 s6 s7
  refine ⟨s5, ?_⟩
  show _ = s7.engs
  split
  · next s8 _ =>
    have h8 : s8.engs = s7.engs := protLate_engs s7 _
    split
    · split
      · exact (protUndo_engs s8 _ _).trans h8
      · exact h8
    · exact h8
  · rfl

/-- The next cycle finds the destination of a drop poisoned. -/
theorem vAt_actionDrop_poison (p e slot op r i : Nat) (lock : Bool) (s : State) :
    ((actionDrop s p e lock slot op r { wv := some i }).vAt p i (slot / 4 + 1)).poison = true := by
  obtain ⟨t, ht⟩ := actionDrop_engs p e slot op r i lock s
  rw [vAt_of_engs_eq ht, vAt_setV_later (by omega)]
  rfl

/-! STATE_BUS_DELIVERY (R26). -/

section BusDelivery

variable {s : State} {w : BusWord} {r : List BusWord}

theorem busDeliver_idle (h : s.bus = []) : busDeliver s = s := by
  unfold busDeliver
  rw [h]

/-- A word whose instant lies beyond the frame, or in its boundary cycle before that has come, stays under way. -/
theorem busDeliver_waits (h : s.bus = w :: r)
    (hd : (s.elapsed + 1) * 200000 < w.due ∨ (w.due = (s.elapsed + 1) * 200000 ∧ s.ofs < 199999)) : busDeliver s = s := by
  unfold busDeliver
  rw [h]
  refine if_pos ?_
  simp only [Bool.or_eq_true, Bool.and_eq_true, decide_eq_true_eq]
  omega

theorem busDeliver_arrives (h : s.bus = w :: r)
    (hd : w.due < (s.elapsed + 1) * 200000 ∨ (w.due = (s.elapsed + 1) * 200000 ∧ 199999 ≤ s.ofs)) :
    busDeliver s = busApply (({ s.toOfs (w.due - s.elapsed * 200000) with bus := r } : State).count 0x21 w.quad 1) w.kind w.index
      w.value := by
  unfold busDeliver
  rw [h]
  refine if_neg ?_
  simp only [Bool.or_eq_true, Bool.and_eq_true, decide_eq_true_eq]
  omega

end BusDelivery

/-- A well-formed command whose arm makes `t` answers the state that `t` leaves. -/
theorem exec_eq_next {ins : Instr} {s t u : State} (hwf : ins.wf = true) (harm : exec ins s = checked ins s t) (h : t = u) :
    exec ins s = .next (after s u) := by
  rw [harm, checked_of_wf hwf, h]

/-- Settles O55: every action is issued by `engAct`, whose ends are the lemmas above; a performed transfer has a lemma of its own. -/
theorem engineDropsAndTransfers : Obligations.EngineDropsAndTransfers := by
  refine ⟨?actions, fun p e c slot s => dropReason_reserved, vAt_actionDrop_poison,
    fun p e c slot i u s hi h => dropReason_operand hi (usable_of_poison h c),
    fun w r s => ⟨fun h => exec_eq_next rfl rfl (busDeliver_idle h),
      fun h => ⟨fun hd => exec_eq_next rfl rfl (busDeliver_arrives h hd), fun hd => exec_eq_next rfl rfl (busDeliver_waits h hd)⟩⟩⟩
  intro a x y z pr q r n i lsb wm1 f cond bit ecc imm im2 inv s ha hx hy hz hpr hq hr hn hn4 hxn hi hl hf hcond hbit hecc p c t st opc us
    yz ops
  have hwf : ∀ o ∈ ops, o.1.wf = true := by
    simp only [ops, List.forall_mem_cons, List.not_mem_nil, false_implies, implies_true, and_true]
    simp only [Instr.wf, regsOk, fieldOk, List.all_cons, List.all_nil, decide_true, Bool.and_true, and_true,
      ha, hx, hy, hz, hpr, hq, hr, hn, hn4, hxn, hi, hl, hf, hcond, hbit, hecc]
  have harm : ∀ o ∈ ops, ∃ fx, exec o.1 s = checked o.1 s (engAct s a o.2.1 o.2.2 fx) := by
    simp only [ops, List.forall_mem_cons, List.not_mem_nil, false_implies, implies_true, and_true]
    and_intros <;> exact ⟨_, rfl⟩
  have hends : ∀ o ∈ ops, ∀ v, (∀ fx, engAct s a o.2.1 o.2.2 fx = v) → exec o.1 s = .next (after s v) := fun o ho v hv => by
    obtain ⟨fx, hfx⟩ := harm o ho
    exact exec_eq_next (hwf o ho) hfx (hv fx)
  refine ⟨fun hact o ho => ?noProgram, fun e lock hact => ⟨fun hc o ho => ?early, fun hc hm o ho => ?uncorrectable, fun hc hm =>
    ⟨fun hg o ho => ?guardNotUsable, fun hg => ⟨fun hv o ho => ?guardNotHeld, fun hv =>
      ⟨fun o ho r hd => ?dropped, ?get, ?put, ?post, ?mark⟩⟩⟩⟩⟩
  case noProgram => exact hends o ho _ fun _ => engAct_of_not_acting hact
  case early => exact hends o ho _ fun _ => engAct_before_fetch hact hc
  case uncorrectable => exact hends o ho _ fun _ => engAct_uncorrectable hact hc hm
  case guardNotUsable => exact hends o ho _ fun _ => engAct_guard_not_usable hact hc hm hg
  case guardNotHeld => exact hends o ho _ fun _ => engAct_guard_not_held hact hc hm hg hv
  case dropped => exact hends o ho _ fun _ => engAct_check_fails hact hc hm hg hv hd
  case get =>
    intro u d hraw hd
    exact exec_eq_next (hwf (.get a x i, 0x20, u) (by simp [ops, u])) rfl (engGet_performed ⟨hact, hc, hm, hg, hv, hraw, hd⟩)
  case put =>
    intro u d w hraw hd
    have hw : (Instr.put a x i).wf = true := hwf (.put a x i, 0x21, u) (by simp [ops, u])
    obtain ⟨hspare, hhere, hbus⟩ := engPut_performed (x := x) (i := i) ⟨hact, hc, hm, hg, hv, hraw, hd⟩
    exact ⟨fun h => exec_eq_next hw rfl (hspare h), fun h hb => exec_eq_next hw rfl (hhere h hb),
      fun q h hb => exec_eq_next hw rfl (hbus q h hb)⟩
  case post =>
    intro u d w hraw hd
    exact exec_eq_next (hwf (.post a x n i, 0x22, u) (by simp [ops, u])) rfl (engPost_performed ⟨hact, hc, hm, hg, hv, hraw, hd⟩)
  case mark =>
    intro u d hraw hd
    exact exec_eq_next (hwf (.mark a x, 0x30, u) (by simp [ops, u])) rfl (engMark_performed ⟨hact, hc, hm, hg, hv, hraw, hd⟩)

end Sys2Proof.Machine

namespace Sys2Proof.Machine

/-! The fibres of the lasers (R52). -/

theorem laneFibre_lt {g l : Nat} (hg : g < 64) : laneFibre g l < 68 := by
  unfold laneFibre
  omega

theorem fibreLane_laneFibre {g l : Nat} (hl : l < 17) : fibreLane (laneFibre g l) (g % 16) = (g, l) := by
  simp only [fibreLane, laneFibre, Prod.mk.injEq]
  omega

theorem eq_laneFibre_of_fibreLane {f i g l : Nat} (hi : i < 16) (h : fibreLane f i = (g, l)) : f = laneFibre g l := by
  simp only [fibreLane, Prod.mk.injEq] at h
  unfold laneFibre
  omega

theorem fibreLane_first_ne_spare {i : Nat} (hi : i < 16) (q : Nat) : (fibreLane (17 * q) i).2 ≠ 16 := by
  simp only [fibreLane]
  omega

theorem fibreLane_spare {k : Nat} (h1 : 1 ≤ k) (h16 : k ≤ 16) (q : Nat) : fibreLane (17 * q + k) (16 - k) = (16 * q + 16 - k, 16) := by
  simp only [fibreLane, Prod.mk.injEq]
  omega

/-- Settles O34: `laneFibre` inverts `fibreLane`, and both are sums and remainders of small numbers. -/
theorem laserFibres : Obligations.LaserFibres := by
  refine ⟨fun _ _ _ _ => rfl, fun g l _ _ => ?_, fun g l hg hl => ?_, fun q i _ hi => fibreLane_first_ne_spare hi q,
    fun q k _ h1 h16 => fibreLane_spare h1 h16 q⟩
  · unfold laneFibre
    omega
  · exact ⟨laneFibre_lt hg, fibreLane_laneFibre hl, fun f i _ hi h => eq_laneFibre_of_fibreLane hi h⟩

end Sys2Proof.Machine

namespace Sys2Proof.Machine

/-! The commands of lanes and sparing as the operations they do, where their group acts: its domain is on, or its window is in reach (R301, R329). -/

section GroupCommands

variable {g l : Nat} {s : State}

theorem laneOk_of (hg : g < 64) (hl : l < 17) : laneOk g l = true := by
  simp [laneOk, hg, hl]

theorem groupLane_wf (hg : g < 64) (hl : l < 16) : (decide (g < 64) && decide (l < 16)) = true := by
  simp [hg, hl]

section InGroup

variable (hd : s.domOn g = true)
include hd

theorem inGroup_on (op : State → State) : s.inGroup g op = op s := if_pos hd

theorem exec_laneLightLoss (hg : g < 64) (hl : l < 17) : exec (.laneLightLoss g l) s = .next (after s (lightLoss s g l)) :=
  exec_eq_next (laneOk_of hg hl) rfl (inGroup_on hd _)

theorem exec_laneLightReturn (hg : g < 64) (hl : l < 17) : exec (.laneLightReturn g l) s = .next (after s (lightReturn s g l)) :=
  exec_eq_next (laneOk_of hg hl) rfl (inGroup_on hd _)

theorem exec_laneDegraded (hg : g < 64) (hl : l < 17) : exec (.laneDegraded g l) s = .next (after s (laneDegraded s g l)) :=
  exec_eq_next (laneOk_of hg hl) rfl (inGroup_on hd _)

theorem exec_laneTagReceive (hg : g < 64) (hl : l < 17) (t : TagRx) :
    exec (.laneTagReceive g l t) s = .next (after s (lateStat allStat (laneTag s g l t))) :=
  exec_eq_next (laneOk_of hg hl) rfl (inGroup_on hd _)

theorem exec_spareAction (hg : g < 64) : exec (.spareAction g) s = .next (after s (lateStat allStat (spareAction s g))) :=
  exec_eq_next (decide_eq_true hg) rfl (inGroup_on hd _)

theorem exec_spareTimeout (hg : g < 64) : exec (.spareTimeout g) s = .next (after s (spareTimeout s g)) :=
  exec_eq_next (decide_eq_true hg) rfl (inGroup_on hd _)

theorem exec_spareVerifyEnd (hg : g < 64) (p : Bool) :
    exec (.spareVerifyEnd g p) s = .next (after s (lateStat allStat (spareVerifyEnd s g p))) :=
  exec_eq_next (decide_eq_true hg) rfl (inGroup_on hd _)

end InGroup

section InReach

variable (ha : s.csrAnswers (Reg.PG_SPARE_CMD g) = true)
include ha

theorem host_answers (op : State → State) : s.host (Reg.PG_SPARE_CMD g) op = op s := if_pos ha

theorem exec_spareRequest (hg : g < 64) (hl : l < 16) : exec (.spareRequest g l) s = .next (after s (spareRequest s g l)) :=
  exec_eq_next (groupLane_wf hg hl) rfl (host_answers ha _)

theorem exec_spareRelease (hg : g < 64) (hl : l < 16) : exec (.spareRelease g l) s = .next (after s (spareRelease s g l)) :=
  exec_eq_next (groupLane_wf hg hl) rfl (host_answers ha _)

theorem exec_txBridge (hg : g < 64) (hl : l < 16) : exec (.txBridge g l) s = .next (after s (txBridge s g l)) :=
  exec_eq_next (groupLane_wf hg hl) rfl (host_answers ha _)

theorem exec_txUnbridge (hg : g < 64) (hl : l < 16) : exec (.txUnbridge g l) s = .next (after s (txUnbridge s g l)) :=
  exec_eq_next (groupLane_wf hg hl) rfl (host_answers ha _)

end InReach

theorem exec_autoRequestPauseEnd (hg : g < 64) (s : State) : exec (.autoRequestPauseEnd g) s = .next (after s (pauseEnd s g)) :=
  exec_eq_next (decide_eq_true hg) rfl rfl

theorem exec_laneSuperframeSend (hg : g < 64) (hl : l < 17) (s : State) :
    exec (.laneSuperframeSend g l) s = .next (after s (superframeSend s g l)) :=
  exec_eq_next (laneOk_of hg hl) rfl rfl

theorem exec_elsStateChange {f : Nat} (hf : f < 72) (s : State) : exec (.elsStateChange f) s = .next (after s (elsStateChange s f)) :=
  exec_eq_next (decide_eq_true hf) rfl rfl

theorem exec_mateLaserMove {m : Nat} {ok : List Nat} (hm : m < 8) (hok : ∀ x ∈ ok, x < 8) (s : State) :
    exec (.mateLaserMove m ok) s = .next (after s (mateLaserMove s m ok)) :=
  exec_eq_next (show (decide (m < 8) && ok.all fun f => decide (f < 8)) = true by simpa [hm] using hok) rfl rfl

end GroupCommands

end Sys2Proof.Machine

namespace Sys2Proof.Machine

/-! Fields and event bits of registers, read after a write of another one. -/

section Fields

variable {s : State} {a b : Nat} {f f' : Fld} {x : Nat}

theorem setFld_wf (h : Tab.wf regReset s.regs = true) (a : Nat) (f : Fld) (x : Nat) : Tab.wf regReset (s.setFld a f x).regs = true :=
  State.wr_wf h a _

theorem setFlag_wf (h : Tab.wf regReset s.regs = true) (a : Nat) (f : Fld) (v : Bool) : Tab.wf regReset (s.setFlag a f v).regs = true :=
  State.wr_wf h a _

theorem evt_wf (h : Tab.wf regReset s.regs = true) (a : Nat) (f : Fld) : Tab.wf regReset (s.evt a f).regs = true := State.wr_wf h a _

theorem putField_lt {v : Nat} (hv : v < 4294967296) (hf : f.lo + f.width ≤ 32) : putField v f x < 4294967296 := by
  have hhigh : ∀ w, bits (putField v f x) 32 w = 0 := fun w => by
    rw [bits_putField_above v f x 32 w hf, bits, Nat.div_eq_of_lt (show v < 2 ^ 32 from hv), Nat.zero_mod]
  have hdiv := hhigh (putField v f x / 2 ^ 32)
  rw [bits, Nat.mod_eq_of_lt Nat.lt_two_pow_self] at hdiv
  exact (Nat.div_eq_zero_iff_lt (by decide)).mp hdiv

/-- What a register reads, as a whole, after one of its fields was stored. -/
theorem rd_setFld_self (h : Tab.wf regReset s.regs = true) (hf : f.lo + f.width ≤ 32) : (s.setFld a f x).rd a = putField (s.rd a) f x := by
  rw [State.rd_setFld h, if_pos rfl, Nat.mod_eq_of_lt (putField_lt (State.rd_lt s a) hf)]

theorem rd_setFld_other (h : Tab.wf regReset s.regs = true) (hb : b ≠ a) : (s.setFld a f x).rd b = s.rd b := State.rd_wr_other h _ hb

/-- Storing a field leaves the fields beside it. -/
theorem fld_setFld_beside (h : Tab.wf regReset s.regs = true) (hf : f.lo + f.width ≤ 32)
    (hd : f'.lo + f'.width ≤ f.lo ∨ f.lo + f.width ≤ f'.lo) : (s.setFld a f x).fld a f' = s.fld a f' := by
  unfold State.fld
  rw [rd_setFld_self h hf]
  rcases hd with hd | hd
  · exact bits_putField_below _ _ _ _ _ hd
  · exact bits_putField_above _ _ _ _ _ hd

theorem flag_eq_fld (s : State) (a : Nat) (f : Fld) : s.flag a f = (s.fld a ⟨f.lo, 1⟩ == 1) := rfl

theorem flag_setFld_beside (h : Tab.wf regReset s.regs = true) (hf : f.lo + f.width ≤ 32) (hd : f'.lo + 1 ≤ f.lo ∨ f.lo + f.width ≤ f'.lo) :
    (s.setFld a f x).flag a f' = s.flag a f' := by
  rw [flag_eq_fld, flag_eq_fld, fld_setFld_beside h hf hd]

theorem flag_setFlag_self (h : Tab.wf regReset s.regs = true) (hf : f.lo < 32) (hw : f.width = 1) (v : Bool) :
    (s.setFlag a f v).flag a f = v := by
  have hfld : (s.setFld a f (nat01 v)).fld a f = nat01 v % 2 ^ f.width := State.fld_setFld h a f _ (by omega)
  obtain ⟨lo, w⟩ := f
  simp only at hw
  subst hw
  show ((s.setFld a ⟨lo, 1⟩ (nat01 v)).fld a ⟨lo, 1⟩ == 1) = v
  rw [hfld]
  cases v <;> rfl

theorem mapBit_wf (h : Tab.wf regReset s.regs = true) (a i : Nat) : Tab.wf regReset (s.mapBit a i).regs = true := State.wr_wf h _ _

theorem rd_mapBit_other (h : Tab.wf regReset s.regs = true) {i : Nat} (hb : b ≠ a + 4 * (i / 32)) : (s.mapBit a i).rd b = s.rd b :=
  State.rd_wr_other h _ hb

theorem rd_evt_other (h : Tab.wf regReset s.regs = true) (hb : b ≠ a) : (s.evt a f).rd b = s.rd b := State.rd_wr_other h _ hb

theorem flag_of_rd_eq {t : State} (h : t.rd a = s.rd a) : t.flag a f = s.flag a f := congrArg (bitAt · f.lo) h

theorem fld_of_rd_eq {t : State} (h : t.rd a = s.rd a) : t.fld a f = s.fld a f := congrArg (bits · f.lo f.width) h

/-- A latched event bit reads 1 (R11). -/
theorem flag_evt_self (h : Tab.wf regReset s.regs = true) (hf : f.lo < 32) : (s.evt a f).flag a f = true := by
  have hset : (setBit (s.rd a) f.lo).testBit f.lo = true := by
    rw [setBit, bitAt_eq_testBit]
    split
    · assumption
    · next hb => rw [Nat.add_comm, Nat.testBit_two_pow_add_eq]; simpa using hb
  have hrd : (s.evt a f).rd a = setBit (s.rd a) f.lo % 2 ^ 32 := State.rd_wr_self h a _
  rw [State.flag, hrd, bitAt_eq_testBit, Nat.testBit_mod_two_pow, hset, decide_eq_true hf]
  rfl

end Fields

/-! Tables of default value `d`. -/

theorem tabGet_tabUpd {α : Type} [DecidableEq α] {d : α} {m : List (Nat × α)} (h : Tab.wf (fun _ => d) m = true) (k : Nat) (f : α → α) :
    tabGet d (tabUpd d m k f) k = f (tabGet d m k) := Tab.get_set_self _ h k _

@[simp] theorem updLane_regs (s : State) (g l : Nat) (f : Lane → Lane) : (s.updLane g l f).regs = s.regs := rfl

@[simp] theorem updLane_flag (s : State) (g l : Nat) (f : Lane → Lane) (a : Nat) (x : Fld) : (s.updLane g l f).flag a x = s.flag a x := rfl

theorem lane_updLane {s : State} (h : Tab.wf (fun _ => ({} : Lane)) s.lanes = true) (g l : Nat) (f : Lane → Lane) :
    (s.updLane g l f).lane g l = f (s.lane g l) := tabGet_tabUpd h _ f

theorem OnlyRegs.elsRun_eq {s t : State} (h : OnlyRegs s t) : t.elsRun = s.elsRun := (congrArg State.elsRun h).trans rfl

theorem OnlyRegs.lanes_eq {s t : State} (h : OnlyRegs s t) : t.lanes = s.lanes := (congrArg State.lanes h).trans rfl

/-- A part of the state that every step of a fold leaves is left by the fold. -/
theorem foldl_leaves {β γ : Type} (part : State → γ) {op : State → β → State} (h : ∀ t b, part (op t b) = part t) (l : List β) (s : State) :
    part (l.foldl op s) = part s := by
  induction l generalizing s with
  | nil => rfl
  | cons b l ih => exact (ih (op s b)).trans (h s b)

/-! What sparing changes: its own records, and the status and result registers of port groups (R72). -/

/-- A register that is neither the sparing status nor the sparing result of a group. -/
def NotSpareReg (a : Nat) : Prop := ∀ g, a ≠ Reg.PG_SPARE_STAT g ∧ a ≠ Reg.PG_SPARE_RES g

/-- `t` differs from `s` in sparing records and in sparing status and result registers at most. -/
structure SpareOnly (s t : State) : Prop where
  rest : t = { s with regs := t.regs, spares := t.spares }
  wf : Tab.wf regReset s.regs = true → Tab.wf regReset t.regs = true
  rd : Tab.wf regReset s.regs = true → ∀ a, NotSpareReg a → t.rd a = s.rd a

namespace SpareOnly

variable {s t u : State}

theorem refl (s : State) : SpareOnly s s := ⟨rfl, id, fun _ _ _ => rfl⟩

theorem trans (h1 : SpareOnly s t) (h2 : SpareOnly t u) : SpareOnly s u where
  rest := by rw [h2.rest, h1.rest]
  wf h := h2.wf (h1.wf h)
  rd h a ha := (h2.rd (h1.wf h) a ha).trans (h1.rd h a ha)

theorem ite {c : Prop} [Decidable c] (h1 : SpareOnly s t) (h2 : SpareOnly s u) : SpareOnly s (if c then t else u) := by
  split
  · exact h1
  · exact h2

theorem foldl {β : Type} {op : State → β → State} {bs : List β} (hop : ∀ x b, SpareOnly s x → SpareOnly s (op x b)) (h : SpareOnly s t) :
    SpareOnly s (bs.foldl op t) := by
  induction bs generalizing t with
  | nil => exact h
  | cons b bs ih => exact ih (hop t b h)

theorem updSpare (h : SpareOnly s t) (g : Nat) (f : Spare → Spare) : SpareOnly s (t.updSpare g f) :=
  h.trans ⟨rfl, id, fun _ _ _ => rfl⟩

theorem wr (h : SpareOnly s t) {a : Nat} (ha : ∀ b, NotSpareReg b → b ≠ a) (v : Nat) : SpareOnly s (t.wr a v) :=
  h.trans ⟨rfl, fun hw => State.wr_wf hw a v, fun hw b hb => State.rd_wr_other hw v (ha b hb)⟩

theorem setStat (h : SpareOnly s t) (g : Nat) (f : Fld) (x : Nat) : SpareOnly s (t.setFld (Reg.PG_SPARE_STAT g) f x) :=
  h.wr (fun _ hb => (hb g).1) _

theorem res (h : SpareOnly s t) (g o l : Nat) : SpareOnly s (spareRes t g o l) := h.wr (fun _ hb => (hb g).2) _

theorem rx (h : SpareOnly s t) (g st l : Nat) : SpareOnly s (setRx t g st l) := ((h.setStat g _ _).setStat g _ _).updSpare g _

theorem tx (h : SpareOnly s t) (g st l : Nat) : SpareOnly s (setTx t g st l) := (h.setStat g _ _).setStat g _ _

theorem need (h : SpareOnly s t) (g l r : Nat) : SpareOnly s (spareNeed t g l r) :=
  ((h.rx g _ _).updSpare g _).ite ((h.updSpare g _).ite (h.res g _ _))

theorem autoNeed (h : SpareOnly s t) (g l r : Nat) : SpareOnly s (autoNeed t g l r) := (h.need g l r).ite h

theorem ofs (h : SpareOnly s t) : t.ofs = s.ofs := (congrArg State.ofs h.rest).trans rfl

theorem lanes (h : SpareOnly s t) : t.lanes = s.lanes := (congrArg State.lanes h.rest).trans rfl

theorem elsRun (h : SpareOnly s t) : t.elsRun = s.elsRun := (congrArg State.elsRun h.rest).trans rfl

end SpareOnly

theorem notSpareReg_laneStat {g l : Nat} (hl : l < 17) : NotSpareReg (Reg.PG_LANE_STAT g l) := fun k => by
  simp only [Reg.PG_LANE_STAT, Reg.PG_SPARE_STAT, Reg.PG_SPARE_RES]
  omega

theorem notSpareReg_laneEvt {g l : Nat} (hl : l < 17) : NotSpareReg (Reg.PG_LANE_EVT g l) := fun k => by
  simp only [Reg.PG_LANE_EVT, Reg.PG_SPARE_STAT, Reg.PG_SPARE_RES]
  omega

theorem notSpareReg_elsStat {f : Nat} (hf : f < 72) : NotSpareReg (Reg.PG_ELS_STAT f) := fun k => by
  simp only [Reg.PG_ELS_STAT, Reg.PG_SPARE_STAT, Reg.PG_SPARE_RES]
  omega

end Sys2Proof.Machine

namespace Sys2Proof.Machine

/-! Events of a lane and the automatic requests they make (R51, R61, R70). -/

section LaneEvents

variable {g l r : Nat} {s : State}

theorem lightLoss_used (hlit : s.flag (Reg.PG_LANE_STAT g l) F.PG_LANE_STAT_LIGHT = true) (hloop : s.looped g l = false)
    (hu : s.rxUsed g l = true) : lightLoss s g l =
      autoNeed ((s.setFlag (Reg.PG_LANE_STAT g l) F.PG_LANE_STAT_LIGHT false).evt (Reg.PG_LANE_EVT g l) F.PG_LANE_EVT_LIGHT_LOSS) g l 3 := by
  simp [lightLoss, hlit, hloop, hu]

theorem lightLoss_unused (hlit : s.flag (Reg.PG_LANE_STAT g l) F.PG_LANE_STAT_LIGHT = true) (hloop : s.looped g l = false)
    (hu : s.rxUsed g l = false) : lightLoss s g l = s.setFlag (Reg.PG_LANE_STAT g l) F.PG_LANE_STAT_LIGHT false := by
  simp [lightLoss, hlit, hloop, hu]

theorem laneDegraded_marks (hd : (s.lane g l).degraded = false) (hrun : 100 ≤ (s.lane g l).corRun ∨ 3 ≤ (s.lane g l).uncRun) :
    laneDegraded s g l = autoNeed (s.updLane g l fun n => { n with degraded := true }) g l 2 := by
  simp [laneDegraded, hd, hrun]

/-- The AUTO bit that a reason of an automatic request needs (R70). -/
def autoField (reason : Nat) : Fld := if reason = 2 then F.PG_SPARE_CTRL_AUTO_DEG else F.PG_SPARE_CTRL_AUTO_FAIL

/-- An automatic need asks for nothing without its AUTO bit, where the lane or the group may not be spared, or in the pause. -/
theorem autoNeed_off (h : s.flag (Reg.PG_SPARE_CTRL g) (autoField r) = false ∨ s.sparing g = false ∨ s.spareable g l = false ∨
    (s.spare g).pauseTo ≠ 0) : autoNeed s g l r = s := by
  refine if_neg ?_
  unfold autoField at h
  rcases h with h | h | h | h <;> simp [h]

theorem spareNeed_free (h : s.rxSt g = 0) : spareNeed s g l r = (setRx s g 1 l).updSpare g fun x => { x with reason := r, deny := none } :=
  if_pos h

theorem autoNeed_free (ha : s.flag (Reg.PG_SPARE_CTRL g) (autoField r) = true) (hs : s.sparing g = true) (hl : s.spareable g l = true)
    (hp : (s.spare g).pauseTo = 0) (h0 : s.rxSt g = 0) :
    autoNeed s g l r = (setRx s g 1 l).updSpare g fun x => { x with reason := r, deny := none } := by
  rw [← spareNeed_free h0]
  refine if_pos ?_
  simp only [autoField] at ha
  simp [ha, hs, hl, hp, h0]

end LaneEvents

/-- Settles O35: each event by its conditions, the automatic need by those of `autoNeed`. -/
theorem laneEvents : Obligations.LaneEvents := by
  refine ⟨fun g l s hg hl hd => ⟨fun hlit hloop => ⟨fun hu => ?_, fun hu => ?_⟩, exec_laneLightReturn hd hg hl, fun hdeg hrun => ?_⟩,
    fun g l s => ⟨autoNeed_off (r := 3), autoNeed_off (r := 2), fun r hr hfail hdeg hs hsp hp h0 => autoNeed_free ?_ hs hsp hp h0⟩⟩
  · rw [exec_laneLightLoss hd hg hl, lightLoss_used hlit hloop hu]
  · rw [exec_laneLightLoss hd hg hl, lightLoss_unused hlit hloop hu]
  · rw [exec_laneDegraded hd hg hl, laneDegraded_marks hdeg hrun]
  · rcases hr with rfl | rfl
    · exact hdeg
    · exact hfail

end Sys2Proof.Machine

namespace Sys2Proof.Machine

/-! The tags of a lane (R60, R61, R63): how one is looked for, read and missed. -/

/-- A tag in place is read by its CRC: its fields are taken, or its bad CRC is recorded and the runs of equal messages break (R61, R68). -/
def tagRead (s : State) (g l : Nat) (t : TagRx) : State :=
  if crc16 (slice t.bytes 6 24) = beAt t.bytes 30 2 then tagFields s g l t
  else ((s.evt (Reg.PG_LANE_EVT g l) F.PG_LANE_EVT_TAG_CRC).count 0x82 (17 * g + l) 1).updLane g l fun n =>
    { n with rxm := { n.rxm with run := 0 }, txm := { n.txm with run := 0 } }

section TagIn

variable {g l c : Nat} {t : TagRx} {s : State}

theorem laneTag_ignored (h : s.rxUsed g l = false ∨ s.looped g l = true) : laneTag s g l t = s := by
  refine if_neg ?_
  rcases h with h | h <;> simp [h]

theorem laneTag_taken (hu : s.rxUsed g l = true) (hloop : s.looped g l = false) : laneTag s g l t = tagIn s g l t :=
  if_pos (by simp [hu, hloop])

section Locked

variable (hlock : s.locked g l = true)
include hlock

theorem tagIn_elsewhere (hp : t.pos ≠ (s.lane g l).lockPos + tagPeriod) : tagIn s g l t = s := by
  simp [tagIn, hlock, hp]

variable (hp : t.pos = (s.lane g l).lockPos + tagPeriod)
include hp

/-- The tag at its place, by the bits of its alignment word that differ and the misses before it. -/
theorem tagIn_atPlace : tagIn s g l t =
    if awDiff t.bytes tagAW 6 ≤ 3 then tagRead (s.updLane g l fun n => { n with lockPos := t.pos, miss := 0 }) g l t
    else if 5 ≤ (s.lane g l).miss + 1 then groupEval (loseLock s g l) g
    else tagRead (s.updLane g l fun n => { n with lockPos := t.pos, miss := (s.lane g l).miss + 1 }) g l t :=
  (if_pos hlock).trans (if_pos hp)

/-- A tag that keeps the lock, found or missed for less than the fifth time in a row, is read. -/
theorem tagIn_keepsLock {n : Nat} (h : (awDiff t.bytes tagAW 6 ≤ 3 ∧ n = 0) ∨
    (3 < awDiff t.bytes tagAW 6 ∧ (s.lane g l).miss < 4 ∧ n = (s.lane g l).miss + 1)) :
    tagIn s g l t = tagRead (s.updLane g l fun y => { y with lockPos := t.pos, miss := n }) g l t := by
  rw [tagIn_atPlace hlock hp]
  rcases h with ⟨hd, rfl⟩ | ⟨hd, hm, rfl⟩
  · exact if_pos hd
  · rw [if_neg (by omega), if_neg (by omega)]

theorem tagIn_losesLock (hd : 3 < awDiff t.bytes tagAW 6) (hm : 4 ≤ (s.lane g l).miss) : tagIn s g l t = groupEval (loseLock s g l) g := by
  rw [tagIn_atPlace hlock hp, if_neg (by omega), if_pos (by omega)]

end Locked

/-- A lane without lock searches (R61); `r` is what the search finds. -/
theorem tagIn_search (hlock : s.locked g l = false) {r : List Cand × Bool}
    (hr : searchStep (s.lane g l).cands t.pos tagPeriod (awDiff t.bytes tagAW 6) 2 3 3 = r) :
    let u := (s.updLane g l fun n => { n with cands := r.1, lockPos := t.pos, miss := 0 }).setFld (Reg.PG_LANE_STAT g l)
      F.PG_LANE_STAT_CAND r.1.length
    tagIn s g l t = if r.2 then tagRead (u.setFlag (Reg.PG_LANE_STAT g l) F.PG_LANE_STAT_TAG_LOCK true) g l t else u := by
  subst hr
  exact if_neg (by simp [hlock])

theorem searchStep_opens {pos period d o keep need : Nat} (h : d ≤ o) : searchStep [] pos period d o keep need = ([⟨pos, 0⟩], false) := by
  simp [searchStep, h]

theorem searchStep_opens_none {pos period d o keep need : Nat} (h : o < d) : searchStep [] pos period d o keep need = ([], false) := by
  simp [searchStep, Nat.not_le.mpr h]

/-- The only candidate recurs for the last time it needs. -/
theorem searchStep_confirms {n period d o keep need : Nat} (hd : d ≤ keep) (hn : need ≤ n + 1) :
    searchStep [⟨c, n⟩] (c + period) period d o keep need = ([], true) := by
  simp [searchStep, hd, hn]

theorem tagRead_good (h : crc16 (slice t.bytes 6 24) = beAt t.bytes 30 2) : tagRead s g l t = tagFields s g l t := if_pos h

theorem tagRead_bad (h : crc16 (slice t.bytes 6 24) ≠ beAt t.bytes 30 2) : tagRead s g l t =
    ((s.evt (Reg.PG_LANE_EVT g l) F.PG_LANE_EVT_TAG_CRC).count 0x82 (17 * g + l) 1).updLane g l fun n =>
      { n with rxm := { n.rxm with run := 0 }, txm := { n.txm with run := 0 } } := if_neg h

end TagIn

/-! The loss of a lane's lock (R61): `dropLock` is what it does to the lane itself, before the slices' and the port group's part. -/

/-- A lane's lock bits cleared. -/
def locksOff (s : State) (g l : Nat) : State :=
  (s.setFlag (Reg.PG_LANE_STAT g l) F.PG_LANE_STAT_AM_LOCK false).setFlag (Reg.PG_LANE_STAT g l) F.PG_LANE_STAT_TAG_LOCK false

/-- What a lane's registers show after a loss of lock. -/
def lossShown (s : State) (g l : Nat) : State :=
  ((locksOff s g l).evt (Reg.PG_LANE_EVT g l) F.PG_LANE_EVT_TAG_LOSS).setFld (Reg.PG_LANE_STAT g l) F.PG_LANE_STAT_CAND 0

/-- A lane's registers and its record after a loss of lock. -/
def dropLock (s : State) (g l : Nat) : State :=
  (lossShown s g l).updLane g l fun n =>
    { n with cands := [], miss := 0, placed := false, mapErr := false, rxm := {}, txm := {}, amA := {}, amB := {} }

theorem slicesLost_leaves {γ : Type} (part : State → γ) (h : ∀ (t : State) m d, part { t with slices := m, defs := d } = part t) (s : State)
    (g l : Nat) : part (slicesLost s g l) = part s := by
  unfold slicesLost
  split
  · exact foldl_leaves part (fun t v => h t _ _) _ _
  · rfl

theorem loseLock_eq (s : State) (g l : Nat) :
    ∃ u : State, u.regs = s.regs ∧ u.lanes = s.lanes ∧ loseLock s g l = autoNeed (dropLock u g l) g l 3 := by
  let t := if verifyLane s g = l then s.updSpare g fun x => { x with bad := true } else s
  have htr : t.regs = s.regs := by unfold t; split <;> rfl
  have htl : t.lanes = s.lanes := by unfold t; split <;> rfl
  exact ⟨slicesLost t g l, (slicesLost_leaves State.regs (fun _ _ _ => rfl) t g l).trans htr,
    (slicesLost_leaves State.lanes (fun _ _ _ => rfl) t g l).trans htl, rfl⟩

section DropLock

variable {g l : Nat} {s : State}

theorem laneEvt_ne_laneStat {k : Nat} (hl : l < 17) (hk : k < 17) : Reg.PG_LANE_EVT g l ≠ Reg.PG_LANE_STAT g k := by
  simp only [Reg.PG_LANE_EVT, Reg.PG_LANE_STAT]
  omega

theorem lossShown_onlyRegs (s : State) (g l : Nat) : OnlyRegs s (lossShown s g l) :=
  ((((OnlyRegs.refl s).setFlag _ _ _).setFlag _ _ _).evt _ _).setFld _ _ _

theorem dropLock_placed (h : Tab.wf (fun _ => ({} : Lane)) s.lanes = true) : ((dropLock s g l).lane g l).placed = false := by
  rw [← (lossShown_onlyRegs s g l).lanes_eq] at h
  rw [dropLock, lane_updLane h]

variable (h : Tab.wf regReset s.regs = true)
include h

theorem locksOff_wf : Tab.wf regReset (locksOff s g l).regs = true := setFlag_wf (setFlag_wf h _ _ _) _ _ _

theorem dropLock_wf : Tab.wf regReset (dropLock s g l).regs = true := by
  rw [dropLock, updLane_regs]
  exact setFld_wf (evt_wf (locksOff_wf h) _ _) _ _ _

variable (hl : l < 17)
include hl

/-- Showing the loss leaves the status bits beside CAND. -/
theorem lossShown_flag {f : Fld} (hf : f.lo + 1 ≤ F.PG_LANE_STAT_CAND.lo ∨ F.PG_LANE_STAT_CAND.lo + F.PG_LANE_STAT_CAND.width ≤ f.lo) :
    (lossShown s g l).flag (Reg.PG_LANE_STAT g l) f = (locksOff s g l).flag (Reg.PG_LANE_STAT g l) f := by
  rw [lossShown, flag_setFld_beside (evt_wf (locksOff_wf h) _ _) (by decide) hf,
    flag_of_rd_eq (rd_evt_other (locksOff_wf h) (laneEvt_ne_laneStat hl hl).symm)]

theorem dropLock_tagLock : (dropLock s g l).flag (Reg.PG_LANE_STAT g l) F.PG_LANE_STAT_TAG_LOCK = false := by
  rw [dropLock, updLane_flag, lossShown_flag h hl (by decide)]
  exact flag_setFlag_self (setFlag_wf h _ _ _) (by decide) rfl false

theorem dropLock_amLock : (dropLock s g l).flag (Reg.PG_LANE_STAT g l) F.PG_LANE_STAT_AM_LOCK = false := by
  rw [dropLock, updLane_flag, lossShown_flag h hl (by decide), locksOff, State.setFlag,
    flag_setFld_beside (setFlag_wf h _ _ _) (by decide) (by decide)]
  exact flag_setFlag_self h (by decide) rfl false

theorem dropLock_tagLoss : (dropLock s g l).flag (Reg.PG_LANE_EVT g l) F.PG_LANE_EVT_TAG_LOSS = true := by
  rw [dropLock, updLane_flag, lossShown, flag_of_rd_eq (rd_setFld_other (evt_wf (locksOff_wf h) _ _) (laneEvt_ne_laneStat hl hl))]
  exact flag_evt_self (locksOff_wf h) (by decide)

end DropLock

/-- A lane that loses its lock: the lock bits clear, TAG_LOSS is latched, and its place is forgotten (R61). -/
theorem loseLock_drops {g l : Nat} {s : State} (hl : l < 17) (h : Tab.wf regReset s.regs = true)
    (hlanes : Tab.wf (fun _ => ({} : Lane)) s.lanes = true) :
    (loseLock s g l).locked g l = false ∧ (loseLock s g l).flag (Reg.PG_LANE_STAT g l) F.PG_LANE_STAT_AM_LOCK = false ∧
      (loseLock s g l).flag (Reg.PG_LANE_EVT g l) F.PG_LANE_EVT_TAG_LOSS = true ∧ ((loseLock s g l).lane g l).placed = false := by
  obtain ⟨u, hregs, hlanesEq, heq⟩ := loseLock_eq s g l
  rw [← hregs] at h
  rw [← hlanesEq] at hlanes
  have hneed : SpareOnly (dropLock u g l) (autoNeed (dropLock u g l) g l 3) := (SpareOnly.refl _).autoNeed g l 3
  have hstat := hneed.rd (dropLock_wf h) _ (notSpareReg_laneStat (g := g) hl)
  have hevt := hneed.rd (dropLock_wf h) _ (notSpareReg_laneEvt (g := g) hl)
  rw [heq]
  exact ⟨(flag_of_rd_eq hstat).trans (dropLock_tagLock h hl), (flag_of_rd_eq hstat).trans (dropLock_amLock h hl),
    (flag_of_rd_eq hevt).trans (dropLock_tagLoss h hl),
    (congrArg (fun m => (tabGet {} m (laneIdx g l)).placed) hneed.lanes).trans (dropLock_placed hlanes)⟩

/-- Settles O36: a tag is ignored, misplaced, kept, lost or searched for, as the lane's state and the tag's bits have it. -/
theorem laneTags : Obligations.LaneTags := by
  have hexec : ∀ {g l : Nat} {t : TagRx} {s u : State}, g < 64 → l < 17 → s.domOn g = true → laneTag s g l t = u →
      exec (.laneTagReceive g l t) s = .next (after s (lateStat allStat u)) := fun hg hl hd h => by
    rw [exec_laneTagReceive hd hg hl, h]
  refine ⟨fun g l t s hg hl hd h => hexec hg hl hd (laneTag_ignored h),
    fun g l t s hg hl hd hu hloop hlock => ⟨fun hp => ?elsewhere, fun hp => ⟨fun n hn => ⟨fun hc => ?good, fun hc => ?bad⟩,
      fun hdiff hm => ?lost⟩⟩,
    fun g l s _ hl h hlanes => loseLock_drops hl h hlanes,
    fun g l t s hg hl hd hu hloop hlock hcands => ⟨fun hdiff => ?opened, fun hdiff => ?notOpened⟩,
    fun g l c t s hg hl hd hu hloop hlock hcands hp hdiff hc => ?confirmed⟩
  all_goals refine hexec hg hl hd ?_; rw [laneTag_taken hu hloop]
  case elsewhere => exact tagIn_elsewhere hlock hp
  case good => rw [tagIn_keepsLock hlock hp hn, tagRead_good hc]
  case bad => rw [tagIn_keepsLock hlock hp hn, tagRead_bad hc]
  case lost => exact tagIn_losesLock hlock hp hdiff hm
  case opened => exact tagIn_search hlock (by rw [hcands, searchStep_opens hdiff])
  case notOpened => exact tagIn_search hlock (by rw [hcands, searchStep_opens_none hdiff])
  case confirmed =>
    have hfound : searchStep (s.lane g l).cands t.pos tagPeriod (awDiff t.bytes tagAW 6) 2 3 3 = ([], true) := by
      rw [hcands, hp, searchStep_confirms hdiff (by decide)]
    rw [tagIn_search hlock hfound, if_pos rfl, tagRead_good hc]
    rfl

end Sys2Proof.Machine

namespace Sys2Proof.Machine

/-! The sparing commands of a port group (R69 to R72). -/

section SparingCommands

variable {g l : Nat} {s : State}

theorem spareRequest_refused (h : s.sparing g = false ∨ s.spareable g l = false) : spareRequest s g l = spareRes s g 2 l :=
  if_pos (by simpa using h)

theorem txBridge_refused (h : s.sparing g = false ∨ s.spareable g l = false) : txBridge s g l = spareRes s g 2 l :=
  if_pos (by simpa using h)

/-- A failed lane may wait to pre-empt the selection of another lane, made for another reason, while no third lane waits (R71). -/
def State.mayPreempt (s : State) (g l : Nat) : Prop :=
  s.rxSt g = 3 ∧ s.rxLane g ≠ l ∧ s.laneFailed g l = true ∧ (s.spare g).reason ≠ 3 ∧ ∀ w, (s.spare g).wantLane = some w → w = l

theorem wantLane_getD_eq : ((s.spare g).wantLane.getD l == l) = true ↔ ∀ w, (s.spare g).wantLane = some w → w = l := by
  cases (s.spare g).wantLane <;> simp

theorem spareNeed_preempts (r : Nat) (h : s.mayPreempt g l) : spareNeed s g l r = s.updSpare g fun x => { x with wantLane := some l } := by
  obtain ⟨hst, hother, hfailed, hreason, hwant⟩ := h
  rw [spareNeed, if_neg (by omega)]
  exact if_pos (by simp [hst, hother, hfailed, hreason, wantLane_getD_eq.mpr hwant])

theorem spareNeed_busy (r : Nat) (h0 : s.rxSt g ≠ 0) (h : ¬ s.mayPreempt g l) : spareNeed s g l r = spareRes s g 1 l := by
  rw [spareNeed, if_neg h0]
  refine if_neg fun hc => h ?_
  simp only [Bool.and_eq_true, bne_iff_ne, ne_eq, decide_eq_true_eq, wantLane_getD_eq] at hc
  obtain ⟨⟨⟨⟨hst, hother⟩, hfailed⟩, hreason⟩, hwant⟩ := hc
  exact ⟨hst, hother, hfailed, hreason, hwant⟩

section Sparing

variable (hs : s.sparing g = true) (hl : s.spareable g l = true)
include hs hl

theorem spareRequest_need : spareRequest s g l = spareNeed s g l 1 := if_neg (by simp [hs, hl])

theorem txBridge_waits (h0 : s.txSt g = 0) (hfar : msgCode (s.farRx g) = 0) (hw : (s.spare g).txWant = none) :
    txBridge s g l = s.updSpare g fun y => { y with txWant := some l } := by
  simp [txBridge, hs, hl, h0, hfar, hw]

theorem txBridge_busy (h : s.txSt g ≠ 0 ∨ msgCode (s.farRx g) ≠ 0 ∨ (s.spare g).txWant.isSome = true) : txBridge s g l = spareRes s g 1 l := by
  rw [txBridge, if_neg (by simp [hs, hl])]
  exact if_pos (by simpa [or_assoc] using h)

end Sparing

theorem spareRelease_served (h : s.rxSt g = 3 ∧ s.rxLane g = l) : spareRelease s g l = setRx s g 4 l := if_pos (by simpa using h)

theorem spareRelease_other (h : s.rxSt g ≠ 3 ∨ s.rxLane g ≠ l) : spareRelease s g l = spareRes s g 2 l := by
  refine if_neg ?_
  simp only [Bool.and_eq_true, decide_eq_true_eq]
  omega

theorem txUnbridge_bridged (h : s.txSt g ≠ 0 ∧ s.txSt g ≠ 4 ∧ s.txLane g = l) : txUnbridge s g l = setTx s g 4 l :=
  if_pos (by simpa [and_assoc] using h)

theorem txUnbridge_other (h : s.txSt g = 0 ∨ s.txSt g = 4 ∨ s.txLane g ≠ l) : txUnbridge s g l = spareRes s g 2 l := by
  refine if_neg ?_
  simp only [Bool.and_eq_true, decide_eq_true_eq, ne_eq]
  omega

end SparingCommands

/-- Settles O37: each command in reach does its operation, which answers by the sparing states. -/
theorem sparingCommands : Obligations.SparingCommands := by
  intro g l s hg hl ha
  have hrequest := exec_spareRequest ha hg hl
  have hbridge := exec_txBridge ha hg hl
  have hrelease := exec_spareRelease ha hg hl
  have hunbridge := exec_txUnbridge ha hg hl
  refine ⟨fun h => ?refused, fun hs hsp => ⟨fun h0 => ?free, fun h3 hother hfailed hreason hwant => ?preempts, fun h0 h => ?busy,
      fun h0 hfar hw => ?bridgeWaits, fun h => ?bridgeBusy⟩,
    fun h => by rw [hrelease, spareRelease_served h], fun h => by rw [hrelease, spareRelease_other h],
    fun h => by rw [hunbridge, txUnbridge_bridged h], fun h => by rw [hunbridge, txUnbridge_other h]⟩
  case refused =>
    simp only [List.forall_mem_cons, List.not_mem_nil, false_implies, implies_true, and_true]
    exact ⟨by rw [hrequest, spareRequest_refused h], by rw [hbridge, txBridge_refused h]⟩
  case free => rw [hrequest, spareRequest_need hs hsp, spareNeed_free h0]
  case preempts => rw [hrequest, spareRequest_need hs hsp, spareNeed_preempts 1 ⟨h3, hother, hfailed, hreason, hwant⟩]
  case busy =>
    have hno : ¬ s.mayPreempt g l := fun ⟨hst, hne, hfailed, hreason, hwant⟩ => by
      rcases h with h | h | h | h | ⟨w, hw, hne'⟩
      · exact h hst
      · exact hne h
      · simp [hfailed] at h
      · exact hreason h
      · exact hne' (hwant w hw)
    rw [hrequest, spareRequest_need hs hsp, spareNeed_busy 1 h0 hno]
  case bridgeWaits => rw [hbridge, txBridge_waits hs hsp h0 hfar hw]
  case bridgeBusy => rw [hbridge, txBridge_busy hs hsp h]

end Sys2Proof.Machine

namespace Sys2Proof.Machine

/-! What a sparing action leaves of the frame: the offset, so that at offset 0 the status registers follow (R33). -/

theorem setDef_ofs (s : State) (e b : Nat) (on : Bool) : (s.setDef e b on).ofs = s.ofs := rfl

theorem portDown_ofs (s : State) (x : PortDef) : (portDown s x).ofs = s.ofs := by
  have hset : (x.slices.foldl (fun s v => s.setDef (entOtuc v) 0 true) s).ofs = s.ofs := foldl_leaves State.ofs (fun t v => setDef_ofs t _ _ _) _ _
  unfold portDown
  extract_lets t
  split <;> exact hset

theorem portEval_ofs (s : State) (x : PortDef) : (portEval s x).ofs = s.ofs := by
  unfold portEval
  extract_lets src newest full sfOk ok mapOk am skews skewMax skewOk up t u
  have hu : u.ofs = s.ofs := foldl_leaves State.ofs (fun t v => setDef_ofs t _ _ _) x.slices t
  split
  · exact hu
  · exact (portDown_ofs u x).trans hu

theorem skewClear_ofs (s : State) (g : Nat) (src : List Nat) : (skewClear s g src).ofs = s.ofs :=
  foldl_leaves State.ofs (fun t l => by split <;> rfl) _ s

theorem groupEval_ofs (s : State) (g : Nat) : (groupEval s g).ofs = s.ofs := by
  unfold groupEval
  split
  · exact (foldl_leaves State.ofs portEval_ofs _ _).trans (skewClear_ofs s g _)
  · rfl

/-! The steps of SPARE_ACTION change nothing but what sparing may change. -/

section SpareActionOnly

variable (s : State) (g : Nat)

theorem spareDeny_only : SpareOnly s (spareDeny s g) := (SpareOnly.refl s).ite ((SpareOnly.refl s).updSpare g _)

theorem txDenial_only : SpareOnly s (txDenial s g) := (SpareOnly.refl s).updSpare g _

theorem autoNeeds_only : SpareOnly s (autoNeeds s g) := by
  have h := SpareOnly.refl s
  refine h.ite ?_
  split
  · exact h.autoNeed g _ 3
  · exact h.autoNeed g _ 2
  · exact h

theorem spareRxAction_only : SpareOnly s (spareRxAction s g) := by
  have h := SpareOnly.refl s
  exact ((h.rx g _ _).res g _ _).ite <| ((h.rx g _ _).updSpare g _).ite <| (h.rx g _ _).ite <| ((h.rx g _ _).res g _ _).ite <|
    (((h.rx g _ _).updSpare g _).ite (h.updSpare g _)).ite <| (h.rx g _ _).ite <| ((h.rx g _ _).res g _ _).ite <|
      (h.updSpare g _).ite h

theorem spareTxAction_only : SpareOnly s (spareTxAction s g) := by
  unfold spareTxAction
  extract_lets m code l st me x keep own refused
  have h := SpareOnly.refl s
  have hown : ∀ {b : Bool} {o : Nat} {t : State}, SpareOnly s t → SpareOnly s (if b then spareRes t g o me else t) :=
    fun ht => (ht.res g _ _).ite ht
  have hrefused : ∀ {t : State}, SpareOnly s t → SpareOnly s (refused t) := fun ht => by
    unfold refused
    split
    · exact (ht.res g _ _).updSpare g _
    · exact ht
  refine ((hown (h.tx g _ _)).updSpare g _).ite <| (h.ite (((hrefused (hown h)).tx g _ _).updSpare g _)).ite <|
    ((hown (h.tx g _ _)).updSpare g _).ite <| (((h.tx g _ _).res g _ _).updSpare g _).ite ?_
  split
  · exact ((h.res g _ _).updSpare g _).ite (((h.tx g _ _).updSpare g _).ite (hrefused h))
  · exact h

theorem spareAction_ofs : (spareAction s g).ofs = s.ofs := by
  have hsteps := ((((spareTxAction_only s g).trans (txDenial_only _ g)).trans (spareRxAction_only _ g)).trans (spareDeny_only _ g)).trans
    (autoNeeds_only _ g)
  unfold spareAction
  split
  · exact (groupEval_ofs _ g).trans hsteps.ofs
  · rfl

end SpareActionOnly

/-! The transmitting end (R69). -/

section SpareTx

variable {g : Nat} {s : State} (hs : s.sparing g = true)
include hs

section Idle

variable {l k : Nat} (hl : s.spareable g l = true) (h0 : s.txSt g = 0) (hlane : msgLane (s.farRx g) = l)
    (hfar : (msgCode (s.farRx g) = 1 ∧ k = 1) ∨ (msgCode (s.farRx g) = 2 ∧ k = 3))
include hl h0 hlane hfar

theorem spareTxAction_bridges (hw : (s.spare g).txWant = none) :
    spareTxAction s g = (setTx s g k l).updSpare g fun y => { y with txSelf := false } := by
  rcases hfar with ⟨hcode, rfl⟩ | ⟨hcode, rfl⟩ <;> simp [spareTxAction, hs, h0, hlane, hl, hcode, hw]

theorem spareTxAction_bridges_refusing {w : Nat} (hw : (s.spare g).txWant = some w) :
    spareTxAction s g = (setTx ((spareRes s g 1 w).updSpare g fun y => { y with txWant := none }) g k l).updSpare g fun y =>
      { y with txSelf := false } := by
  rcases hfar with ⟨hcode, rfl⟩ | ⟨hcode, rfl⟩ <;> simp [spareTxAction, hs, h0, hlane, hl, hcode, hw]

end Idle

theorem spareTxAction_ends (h1 : s.txSt g = 1) (hfar : msgCode (s.farRx g) = 0) (hself : (s.spare g).txSelf = false) :
    spareTxAction s g = (setTx s g 0 0).updSpare g fun y => { y with txSelf := false } := by
  simp [spareTxAction, hs, h1, hfar, hself]

end SpareTx

/-! The receiving end (R66, R70). -/

section SpareRx

variable {g : Nat} {s : State}

theorem spareRxAction_verifies (h1 : s.rxSt g = 1) (hs : s.sparing g = true) (hcode : msgCode (s.farTx g) = 1)
    (hlane : msgLane (s.farTx g) = s.rxLane g) : spareRxAction s g = setRx s g 2 (s.rxLane g) := by
  simp [spareRxAction, h1, hs, hcode, hlane]

theorem spareRxAction_denied (h1 : s.rxSt g = 1) (hs : s.sparing g = true) (hcode : msgCode (s.farTx g) = 3) :
    spareRxAction s g = spareRes (setRx s g 0 0) g 4 (s.rxLane g) := by
  simp [spareRxAction, h1, hs, hcode]

theorem spareRxAction_unspared (h0 : s.rxSt g ≠ 0) (hs : s.sparing g = false) :
    spareRxAction s g = spareRes (setRx s g 0 0) g 2 (s.rxLane g) :=
  if_pos (by simp [h0, hs])

theorem spareTimeout_ends (h1 : s.rxSt g = 1)
    (hpast : (s.spare g).since + max 16 (s.fld (Reg.PG_SPARE_TMR g) F.PG_SPARE_TMR_TIMEOUT) ≤ s.elapsed) :
    spareTimeout s g = spareRes (setRx s g 0 0) g 3 (s.rxLane g) :=
  if_pos (by simp only [h1, hpast, decide_true, Bool.and_self])

/-- A verification passes (R70): equal contents, unless the lane to be served has failed, the lane in place, no frame that failed, and
sparing. -/
def State.verifyPass (s : State) (g : Nat) (pass : Bool) : Bool :=
  (pass || (s.rxSt g == 2 && s.laneFailed g (s.rxLane g))) && s.verifyOk g && !(s.spare g).bad && s.sparing g

section Verify

variable {pass : Bool} (hpast : (s.spare g).since + max 8 (s.fld (Reg.PG_SPARE_TMR g) F.PG_SPARE_TMR_VERIFY) ≤ s.elapsed)
include hpast

theorem spareVerifyEnd_verifying (h2 : s.rxSt g = 2) : spareVerifyEnd s g pass =
    if s.verifyPass g pass then groupEval (amTake (setRx s g 3 (s.rxLane g)) g 16) g
    else (spareRes (setRx s g 0 0) g 5 (s.rxLane g)).updSpare g fun y => { y with pauseTo := s.elapsed + 8000 } :=
  if_pos (by simp only [h2, hpast, decide_true, Bool.and_self])

theorem spareVerifyEnd_reverting (h4 : s.rxSt g = 4) : spareVerifyEnd s g pass =
    if s.verifyPass g pass then groupEval (amTake (spareRes (setRx s g 0 0) g 0 (s.rxLane g)) g (s.rxLane g)) g
    else spareRes (setRx s g 3 (s.rxLane g)) g 5 (s.rxLane g) :=
  (if_neg (by simp [h4])).trans (if_pos (by simp only [h4, hpast, decide_true, Bool.and_self]))

end Verify

theorem pauseEnd_ends (h0 : (s.spare g).pauseTo ≠ 0) (hpast : (s.spare g).pauseTo ≤ s.elapsed) :
    pauseEnd s g = autoNeeds (s.updSpare g fun x => { x with pauseTo := 0 }) g :=
  if_pos (by simp [h0, hpast])

theorem autoNeeds_busy (h0 : s.rxSt g ≠ 0) : autoNeeds s g = s := if_pos h0

theorem autoNeeds_failed {l : Nat} (h0 : s.rxSt g = 0) (hfail : s.flag (Reg.PG_SPARE_CTRL g) F.PG_SPARE_CTRL_AUTO_FAIL = true)
    (hl : (List.range 16).find? (fun l => s.spareable g l && s.laneFailed g l) = some l) : autoNeeds s g = autoNeed s g l 3 := by
  simp only [autoNeeds, h0, hfail, Bool.and_true, hl, ne_eq, not_true, if_false]

end SpareRx

/-- Settles O38: the ends of a spare, action by action and state by state. -/
theorem sparingStates : Obligations.SparingStates := by
  refine ⟨fun g s hg hd h0 => ?action,
    fun g l k s hs hl h0 hlane hfar => ⟨spareTxAction_bridges hs hl h0 hlane hfar, fun w => spareTxAction_bridges_refusing hs hl h0 hlane hfar⟩,
    fun g s => spareTxAction_ends,
    fun g s => ⟨fun h1 hs => ⟨spareRxAction_verifies h1 hs, spareRxAction_denied h1 hs⟩, spareRxAction_unspared⟩,
    fun g s hg hd => ⟨fun h1 hpast => ?timeout, fun hpast => ⟨fun h2 => ⟨fun hok hbad hs p hp => ?selected, fun p hp => ?notVerified⟩,
      fun h4 => ⟨fun hok hbad hs => ?reverted, fun p hp => ?notReverted⟩⟩⟩,
    fun g s hg h0 hpast => ⟨fun hst => ?paused, fun l hst hfail hl => ?needed⟩⟩
  case action =>
    rw [exec_spareAction hd hg, lateStat, if_pos ((spareAction_ofs s g).trans h0), spareAction, if_pos h0]
  case timeout => rw [exec_spareTimeout hd hg, spareTimeout_ends h1 hpast]
  case selected =>
    have hpass : s.verifyPass g p = true := by
      rcases hp with hp | hp <;> simp [State.verifyPass, hok, hbad, hs, h2, hp]
    rw [exec_spareVerifyEnd hd hg, spareVerifyEnd_verifying hpast h2, if_pos hpass]
  case notVerified =>
    have hfail : s.verifyPass g p = false := by
      rcases hp with ⟨hp, hlane⟩ | hp | hp | hp
      · simp [State.verifyPass, hp, hlane]
      all_goals simp [State.verifyPass, hp]
    rw [exec_spareVerifyEnd hd hg, spareVerifyEnd_verifying hpast h2, if_neg (by simp [hfail])]
  case reverted =>
    have hpass : s.verifyPass g true = true := by simp [State.verifyPass, hok, hbad, hs]
    rw [exec_spareVerifyEnd hd hg, spareVerifyEnd_reverting hpast h4, if_pos hpass]
  case notReverted =>
    have hfail : s.verifyPass g p = false := by
      rcases hp with hp | hp | hp | hp <;> simp [State.verifyPass, h4, hp]
    rw [exec_spareVerifyEnd hd hg, spareVerifyEnd_reverting hpast h4, if_neg (by simp [hfail])]
  case paused =>
    rw [exec_autoRequestPauseEnd hg, pauseEnd_ends h0 hpast, autoNeeds_busy]
    exact hst
  case needed =>
    rw [exec_autoRequestPauseEnd hg, pauseEnd_ends h0 hpast, autoNeeds_failed (l := l)]
    · exact hst
    · exact hfail
    · exact hl

end Sys2Proof.Machine

namespace Sys2Proof.Machine

/-! The states of a laser fibre (R55, R56). -/

theorem laserBridges_only (s : State) (f : Nat) : SpareOnly s (laserBridges s f) := by
  refine SpareOnly.ite (SpareOnly.foldl (fun t i h => ?_) (SpareOnly.refl s)) (SpareOnly.refl s)
  extract_lets x refused
  have hrefused : SpareOnly s refused := by
    unfold refused
    split
    · exact h.res _ _ _
    · exact h
  exact ((hrefused.tx _ _ _).updSpare _ _).ite h

section Lasers

variable {f : Nat} {s : State}

/-- A fibre in state `st`, with its runs begun anew (R55). -/
def elsEntered (s : State) (f st : Nat) : State := (s.setFld (Reg.PG_ELS_STAT f) F.PG_ELS_STAT_STATE st).setElsRuns f (0, 0)

theorem setEls_ok (s : State) (f : Nat) : setEls s f 1 = elsEntered s f 1 := rfl

theorem setEls_lowWarn (s : State) (f : Nat) : setEls s f 2 = laserBridges ((elsEntered s f 2).mapBit Reg.PG_ELS_EVT_0 f) f := by
  simp [setEls, elsEntered]

@[simp] theorem setElsRuns_regs (s : State) (f : Nat) (r : Nat × Nat) : (s.setElsRuns f r).regs = s.regs := rfl

@[simp] theorem setElsRuns_elsRun (s : State) (f : Nat) (r : Nat × Nat) : (s.setElsRuns f r).elsRun = tabSet (0, 0) s.elsRun f r := rfl

@[simp] theorem setElsRuns_fld (s : State) (f : Nat) (r : Nat × Nat) (a : Nat) (x : Fld) : (s.setElsRuns f r).fld a x = s.fld a x := rfl

theorem elsEntered_wf (h : Tab.wf regReset s.regs = true) (f st : Nat) : Tab.wf regReset (elsEntered s f st).regs = true := by
  rw [elsEntered, setElsRuns_regs]
  exact setFld_wf h _ _ _

theorem elsEntered_elsRun (s : State) (f st : Nat) : (elsEntered s f st).elsRun = tabSet (0, 0) s.elsRun f (0, 0) := by
  rw [elsEntered, setElsRuns_elsRun, ((OnlyRegs.refl s).setFld _ _ _).elsRun_eq]

theorem elsSt_elsEntered (h : Tab.wf regReset s.regs = true) {st : Nat} (hst : st < 4) : (elsEntered s f st).elsSt f = st := by
  rw [State.elsSt, elsEntered, setElsRuns_fld, State.fld_setFld h _ _ _ (by decide)]
  exact Nat.mod_eq_of_lt hst

theorem elsStat_ne_elsEvt {f : Nat} (hf : f < 72) (k : Nat) : Reg.PG_ELS_STAT f ≠ Reg.PG_ELS_EVT_0 + 4 * (k / 32) := by
  simp only [Reg.PG_ELS_STAT, Reg.PG_ELS_EVT_0]
  omega

/-- A fibre that enters LOW_WARN: what its bridges and its event bit leave is its state and its runs. -/
theorem setEls_lowWarn_state (hf : f < 72) (h : Tab.wf regReset s.regs = true) : (setEls s f 2).elsSt f = 2 := by
  have hin : Tab.wf regReset (elsEntered s f 2).regs = true := elsEntered_wf h f 2
  have hbridges := (laserBridges_only ((elsEntered s f 2).mapBit Reg.PG_ELS_EVT_0 f) f).rd (mapBit_wf hin _ f) _ (notSpareReg_elsStat hf)
  rw [setEls_lowWarn, State.elsSt, fld_of_rd_eq hbridges, fld_of_rd_eq (rd_mapBit_other hin (elsStat_ne_elsEvt hf f))]
  exact elsSt_elsEntered h (by decide)

theorem setEls_lowWarn_runs (s : State) (f : Nat) : (setEls s f 2).elsRun = tabSet (0, 0) s.elsRun f (0, 0) := by
  rw [setEls_lowWarn, (laserBridges_only _ f).elsRun, ((OnlyRegs.refl _).mapBit _ _).elsRun_eq, elsEntered_elsRun]

theorem elsStateChange_undriven (h : s.flag (Reg.PG_ELS_STAT f) F.PG_ELS_STAT_DRIVEN = false) : elsStateChange s f = s := by
  simp [elsStateChange, h]

variable (hd : s.flag (Reg.PG_ELS_STAT f) F.PG_ELS_STAT_DRIVEN = true)
include hd

theorem elsStateChange_rises (hst : s.elsSt f = 0 ∨ s.elsSt f = 2) (hrun : 80 ≤ (s.elsRuns f).1) : elsStateChange s f = setEls s f 1 := by
  rcases hst with hst | hst <;> simp [elsStateChange, hd, hst, hrun]

theorem elsStateChange_warns (hst : s.elsSt f = 1) (hrun : 80 ≤ (s.elsRuns f).2) : elsStateChange s f = setEls s f 2 := by
  simp [elsStateChange, hd, hst, hrun]

theorem elsStateChange_recovers (hst : s.elsSt f = 3) (hrun : 800 ≤ (s.elsRuns f).1) : elsStateChange s f = setEls s f 2 := by
  simp [elsStateChange, hd, hst, hrun]

end Lasers

/-! The modulator of a mate lane (R53). -/

section MateLaser

variable {m i : Nat} {ok : List Nat} {s : State}

/-- Modulator `i` serves: its fibre is OK and it passes its bias check (R53). -/
def State.modServes (s : State) (ok : List Nat) (i : Nat) : Bool := s.elsSt (68 + i / 2) == 1 && ok.contains i

theorem modServes_iff : s.modServes ok i = true ↔ s.elsSt (68 + i / 2) = 1 ∧ i ∈ ok := by
  simp [State.modServes]

theorem modServes_not_iff : s.modServes ok i = false ↔ s.elsSt (68 + i / 2) ≠ 1 ∨ i ∉ ok := by
  rw [← Bool.not_eq_true, modServes_iff, Decidable.not_and_iff_or_not]

/-- The modulator a mate lane uses: two to a fibre from 68 (R53). -/
def State.mateMod (s : State) (m : Nat) : Nat := 2 * (s.mateFibre m - 68) + tabGet 0 s.mateMods m

theorem mateMod_fibre (h : tabGet 0 s.mateMods m < 2) : 68 + s.mateMod m / 2 = s.mateFibre m := by
  have hle : 68 ≤ s.mateFibre m := Nat.le_add_right 68 _
  unfold State.mateMod
  omega

theorem mateMod_serves_iff (h : tabGet 0 s.mateMods m < 2) :
    s.modServes ok (s.mateMod m) = true ↔ s.elsSt (s.mateFibre m) = 1 ∧ s.mateMod m ∈ ok := by
  rw [modServes_iff, mateMod_fibre h]

theorem mateMod_not_serves_iff (h : tabGet 0 s.mateMods m < 2) :
    s.modServes ok (s.mateMod m) = false ↔ s.elsSt (s.mateFibre m) ≠ 1 ∨ s.mateMod m ∉ ok := by
  rw [modServes_not_iff, mateMod_fibre h]

theorem mateLaserMove_stays (h : s.modServes ok (s.mateMod m) = true) : mateLaserMove s m ok = s :=
  if_pos (Bool.or_eq_true_iff.mpr (.inr h))

/-- The mate lane on modulator `i`. -/
def mateMoved (s : State) (m i : Nat) : State :=
  { s.setFld Reg.PG_ELS_MATE ⟨2 * m, 2⟩ (i / 2) with mateMods := tabSet 0 s.mateMods m (i % 2) }

theorem mateMoved_rd_eq (s : State) (m i a : Nat) : (mateMoved s m i).rd a = (s.setFld Reg.PG_ELS_MATE ⟨2 * m, 2⟩ (i / 2)).rd a := rfl

theorem mateLaserMove_seeks (h0 : s.ofs = 0) (h : s.modServes ok (s.mateMod m) = false) :
    mateLaserMove s m ok = match (List.range 8).find? (s.modServes ok) with
      | some i => mateMoved s m i
      | none => s :=
  if_neg (by rw [Bool.or_eq_true_iff, not_or]; exact ⟨by simp [h0], Bool.eq_false_iff.mp h⟩)

theorem mateLaserMove_moves (h0 : s.ofs = 0) (h : s.modServes ok (s.mateMod m) = false) (hi : i < 8) (hserves : s.modServes ok i = true)
    (hfirst : ∀ x, x < i → s.modServes ok x = false) : mateLaserMove s m ok = mateMoved s m i := by
  have hfind : (List.range 8).find? (s.modServes ok) = some i :=
    List.find?_range_eq_some.mpr ⟨hserves, List.mem_range.mpr hi, fun x hx => by rw [hfirst x hx]; rfl⟩
  rw [mateLaserMove_seeks h0 h, hfind]

theorem mateLaserMove_none (h0 : s.ofs = 0) (h : s.modServes ok (s.mateMod m) = false) (hnone : ∀ x, x < 8 → s.modServes ok x = false) :
    mateLaserMove s m ok = s := by
  have hfind : (List.range 8).find? (s.modServes ok) = none :=
    List.find?_eq_none.mpr fun x hx => by rw [hnone x (List.mem_range.mp hx)]; decide
  rw [mateLaserMove_seeks h0 h, hfind]

section Moved

variable (h : Tab.wf regReset s.regs = true) (hm : m < 8)
include h hm

theorem mateMoved_rd : (mateMoved s m i).rd Reg.PG_ELS_MATE = putField (s.rd Reg.PG_ELS_MATE) ⟨2 * m, 2⟩ (i / 2) := by
  rw [mateMoved_rd_eq, rd_setFld_self h (show 2 * m + 2 ≤ 32 by omega)]

theorem mateMoved_fibre (hi : i < 8) : (mateMoved s m i).mateFibre m = 68 + i / 2 := by
  rw [State.mateFibre, mateMoved_rd h hm, bits_putField _ ⟨2 * m, 2⟩, Nat.mod_eq_of_lt (show i / 2 < 2 ^ 2 by omega)]

theorem mateMoved_fibre_other {k : Nat} (hk : k ≠ m) : (mateMoved s m i).mateFibre k = s.mateFibre k := by
  rw [State.mateFibre, mateMoved_rd h hm, State.mateFibre]
  rcases Nat.lt_or_gt_of_ne hk with hlt | hgt
  · rw [bits_putField_below _ _ _ _ _ (show 2 * k + 2 ≤ 2 * m by omega)]
  · rw [bits_putField_above _ _ _ _ _ (show 2 * m + 2 ≤ 2 * k by omega)]

theorem mateMoved_eq : mateMoved s m i =
    { s.wr Reg.PG_ELS_MATE ((mateMoved s m i).rd Reg.PG_ELS_MATE) with mateMods := tabSet 0 s.mateMods m (i % 2) } := by
  rw [mateMoved_rd h hm]
  rfl

end Moved

end MateLaser

end Sys2Proof.Machine

namespace Sys2Proof.Machine

/-! What a superframe sends (R59, R60, R69), in a group without a looped lane in the port. -/

section Superframe

variable {s t : State} {x : PortDef} {g l : Nat}

theorem looped_of_regs_eq (h : t.regs = s.regs) (g l : Nat) : t.looped g l = s.looped g l := by
  rw [State.looped, State.flag, State.rd, h]
  rfl

/-- The superframe start that lane `l` of port `x` sends: its tag, then the symbols of its two slices. -/
def laneStart (s : State) (x : PortDef) (sf l : Nat) : Sent :=
  .laneTag x.g l (s.laneTagOf x l sf) (.symbols (x.slice0 + 2 * ((if l = 16 then s.txLane x.g else l) - x.first))
    (x.slice0 + 2 * ((if l = 16 then s.txLane x.g else l) - x.first) + 1))

/-- One lane's part of `portSend`. -/
def laneBegin (s : State) (x : PortDef) (sf l : Nat) : State :=
  if s.lit x.g l then
    let u := s.send (laneStart s x sf l)
    if u.looped x.g l then tagIn u x.g l ⟨(u.lane x.g l).lockPos + tagPeriod, u.laneTagOf x l sf, u.now * 25 / 4⟩ else u
  else s

theorem portSend_eq_laneBegin (s : State) (x : PortDef) : portSend s x =
    let sf := tabGet 0 s.txSf (17 * x.g + x.first)
    let t := (s.portLanes x).foldl (fun t l => laneBegin t x sf l) s
    { t with txSf := tabSet 0 t.txSf (17 * x.g + x.first) ((sf + 1) % 65536) } := rfl

theorem lit_sent (s : State) (v : List Sent) (g l : Nat) : ({ s with sent := v } : State).lit g l = s.lit g l := rfl

theorem laneStart_sent (s : State) (v : List Sent) (x : PortDef) (sf l : Nat) :
    laneStart { s with sent := v } x sf l = laneStart s x sf l := rfl

theorem laneBegin_unlooped (h : s.looped x.g l = false) (v : List Sent) (sf : Nat) : laneBegin { s with sent := v } x sf l =
    { s with sent := v ++ if s.lit x.g l then [laneStart s x sf l] else [] } := by
  unfold laneBegin
  rw [lit_sent, laneStart_sent]
  split
  · have hl : (({ s with sent := v } : State).send (laneStart s x sf l)).looped x.g l = false := (looped_of_regs_eq rfl _ _).trans h
    exact if_neg (by simp [hl])
  · rw [List.append_nil]

theorem foldl_laneBegin (sf : Nat) {ls : List Nat} (h : ∀ l ∈ ls, s.looped x.g l = false) (v : List Sent) :
    ls.foldl (fun t l => laneBegin t x sf l) { s with sent := v } =
      { s with sent := v ++ (ls.filter (s.lit x.g)).map (laneStart s x sf) } := by
  induction ls generalizing v with
  | nil => rw [List.filter_nil, List.map_nil, List.append_nil]; rfl
  | cons l ls ih =>
    rw [List.foldl_cons, laneBegin_unlooped (h l List.mem_cons_self), ih fun k hk => h k (List.mem_cons_of_mem _ hk), List.append_assoc,
      List.filter_cons]
    split <;> rfl

/-- Every lit lane of the port starts in one instant with one SF_CNT, which advances (R59). -/
theorem portSend_unlooped (h : ∀ l ∈ s.portLanes x, s.looped x.g l = false) : portSend s x =
    { s with txSf := tabSet 0 s.txSf (17 * x.g + x.first) ((tabGet 0 s.txSf (17 * x.g + x.first) + 1) % 65536),
             sent := s.sent ++ ((s.portLanes x).filter (s.lit x.g)).map
               (laneStart s x (tabGet 0 s.txSf (17 * x.g + x.first))) } := by
  rw [portSend_eq_laneBegin]
  dsimp only
  rw [show s = { s with sent := s.sent } from rfl, foldl_laneBegin _ h]

theorem sendOdus_regs (s : State) (m : Image) (v : Nat) : (sendOdus s m v).regs = s.regs :=
  foldl_leaves State.regs (fun t i => by
    dsimp only
    split
    · split <;> rfl
    · rfl) _ s

theorem sendOverhead_regs (s : State) (x : PortDef) (sec : Nat × Bool) (k : Nat) : (sendOverhead s x sec k).regs = s.regs := by
  refine foldl_leaves State.regs (fun t j => ?_) _ s
  extract_lets v id bip t1 t2 t3 t4
  have h3 : t3.regs = t.regs := by
    simp only [t3, t2, t1, State.send_regs, State.drawn_regs]
  have h4 : t4.regs = t3.regs := by
    unfold t4
    split
    · exact foldl_leaves State.regs (fun u ch => by split <;> rfl) _ _
    · rfl
  split
  · rw [sendOdus_regs, State.send_regs, h4, h3]
  · rw [h4, h3]

theorem loopBack_unlooped {n : Nat} (h : t.looped x.g n = false) (iae : Bool) (k : Nat) : loopBack t x iae n k = t :=
  if_neg (by simp [h])

theorem foldl_eq_self {β : Type} {op : State → β → State} {bs : List β} (h : ∀ b ∈ bs, op s b = s) : bs.foldl op s = s := by
  induction bs with
  | nil => rfl
  | cons b bs ih =>
    rw [List.foldl_cons, h b List.mem_cons_self]
    exact ih fun c hc => h c (List.mem_cons_of_mem _ hc)

theorem not_isEmpty_filter {β : Type} (p : β → Bool) (bs : List β) : (!(bs.filter p).isEmpty) = bs.any p := by
  rw [Bool.eq_iff_iff]
  simp

/-- The lanes that carry the overhead of port lane `k`: a lit lane of the port, or a lit spare that bridges it (R69). -/
def State.carries (s : State) (x : PortDef) (g k n : Nat) : Bool :=
  s.lit g n && ((if n = 16 then s.txLane g else n) == x.first + k)

theorem superframeSend_port (hx : s.sendPort g l = some x) (h : ∀ n ∈ s.portLanes x, s.looped x.g n = false) :
    superframeSend s g l = ((List.range x.width).filter fun k => (s.portLanes x).any (s.carries x g k)).foldl
      (fun t k => sendOverhead t x (Config.txSection s.freeCount) k) (portSend s x).drawn := by
  have hlooped : ∀ {u : State}, u.regs = s.regs → ∀ n ∈ s.portLanes x, u.looped x.g n = false := fun hu n hn =>
    (looped_of_regs_eq hu x.g n).trans (h n hn)
  have hsend : laneSend s g l = portSend s x := by rw [laneSend, hx]
  have hdrawn : (portSend s x).drawn.regs = s.regs := by rw [portSend_unlooped h]; rfl
  rw [superframeSend, hsend, hx]
  dsimp only
  simp only [not_isEmpty_filter]
  refine foldl_eq_self fun k _ => foldl_eq_self fun n hn => loopBack_unlooped (hlooped ?_ n (List.mem_filter.mp hn).1) _ k
  exact (foldl_leaves State.regs (fun t k => sendOverhead_regs t x _ k) _ _).trans hdrawn

theorem superframeSend_noPort (hx : s.sendPort g l = none) : superframeSend s g l = if l = 16 then idleSend s g else s := by
  rw [superframeSend, laneSend, hx]

theorem idleSend_dark (h : s.spareMode g = 0 ∨ s.txSt g ≠ 0 ∨ s.lit g 16 = false) : idleSend s g = s := by
  refine if_neg ?_
  rcases h with h | h | h <;> simp [h]

/-- A lit idle spare sends its tag and PRBS31 (R59). -/
theorem idleSend_lit (hm : s.spareMode g ≠ 0) (h0 : s.txSt g = 0) (hlit : s.lit g 16 = true) (hloop : s.looped g 16 = false) :
    idleSend s g = ({ s with txSf := tabSet 0 s.txSf (17 * g + 16) ((tabGet 0 s.txSf (17 * g + 16) + 1) % 65536) } : State).send
      (.laneTag g 16 (tagBytes 15 0 16 (tabGet 0 s.txSf (17 * g + 16)) (s.rxMsg g) (s.txMsg g)) (.prbs31 (2 ^ 31 - 1))) := by
  refine (if_pos (by simp [hm, h0, hlit])).trans (if_neg fun hfed => ?_)
  exact absurd (hfed.symm.trans ((looped_of_regs_eq (by rfl) g 16).trans hloop)) (by decide)

end Superframe

/-- Settles O39: the fibre by its runs, the mate lane by the first modulator that serves, the superframe lane by lane. -/
theorem lasersAndLaneTagsSent : Obligations.LasersAndLaneTagsSent := by
  refine ⟨fun f s hf => ⟨fun hd => ?undriven, fun hd h => ⟨fun hst hrun => ?rises, fun hst hrun => ?warns, fun hst hrun => ?recovers⟩⟩,
    fun m ok s hm hok h0 => ⟨fun hst hin hmod => ?stays, fun hno hmod h => ⟨fun i hi hst hin hfirst => ?moves, fun hnone => ?none⟩⟩,
    fun g l s hg hl => ⟨fun hx => ⟨fun h => ?dark, fun h16 hmode htx hlit hloop => ?idle⟩, fun x hx h => ?port⟩,
    fun x s h => portSend_unlooped h⟩
  case undriven => rw [exec_elsStateChange hf, elsStateChange_undriven hd]
  case rises => rw [exec_elsStateChange hf, elsStateChange_rises hd hst hrun, setEls_ok, elsEntered]
  case warns =>
    exact ⟨setEls s f 2, by rw [exec_elsStateChange hf, elsStateChange_warns hd hst hrun], setEls_lowWarn_state hf h, setEls_lowWarn_runs s f, rfl⟩
  case recovers =>
    exact ⟨setEls s f 2, by rw [exec_elsStateChange hf, elsStateChange_recovers hd hst hrun], setEls_lowWarn_state hf h, setEls_lowWarn_runs s f,
      rfl⟩
  case stays => rw [exec_mateLaserMove hm hok, mateLaserMove_stays ((mateMod_serves_iff hmod).mpr ⟨hst, hin⟩)]
  case moves =>
    have hmove := mateLaserMove_moves h0 ((mateMod_not_serves_iff hmod).mpr hno) hi (modServes_iff.mpr ⟨hst, hin⟩) fun x hx =>
      modServes_not_iff.mpr (hfirst x hx)
    exact ⟨mateMoved s m i, by rw [exec_mateLaserMove hm hok, hmove], mateMoved_fibre h hm hi, fun k => mateMoved_fibre_other h hm,
      mateMoved_eq h hm⟩
  case none =>
    rw [exec_mateLaserMove hm hok, mateLaserMove_none h0 ((mateMod_not_serves_iff hmod).mpr hno) fun x hx => modServes_not_iff.mpr (hnone x hx)]
  case dark =>
    rw [exec_laneSuperframeSend hg hl, superframeSend_noPort hx]
    split
    · next h16 => rw [idleSend_dark (h.resolve_left (not_not_intro h16))]
    · rfl
  case idle => rw [exec_laneSuperframeSend hg hl, superframeSend_noPort hx, if_pos h16, idleSend_lit hmode htx hlit hloop]
  case port =>
    rw [exec_laneSuperframeSend hg hl, superframeSend_port hx h]
    rfl

end Sys2Proof.Machine

namespace Sys2Proof.Machine

/-! Replacement toward the trunk (R77 to R79) and the status registers that follow it (R99). -/

section StatusRegisters

variable {s : State} {a v chg n b : Nat}

theorem putStat_onlyRegs (s : State) (a v chg n : Nat) : OnlyRegs s (putStat s a v chg n) :=
  OnlyRegs.ite (OnlyRegs.refl s) (((OnlyRegs.refl s).wr a v).mapBit chg n)

theorem putStat_wf (h : Tab.wf regReset s.regs = true) : Tab.wf regReset (putStat s a v chg n).regs = true := by
  unfold putStat
  split
  · exact h
  · exact mapBit_wf (State.wr_wf h a v) chg n

/-- A status register shows what was stored, whether it changed or not. -/
theorem rd_putStat_self (h : Tab.wf regReset s.regs = true) (hv : v < 4294967296) (ha : a ≠ chg + 4 * (n / 32)) :
    (putStat s a v chg n).rd a = v := by
  unfold putStat
  split
  · assumption
  · rw [rd_mapBit_other (State.wr_wf h a v) ha, State.rd_wr_self h, Nat.mod_eq_of_lt hv]

theorem rd_putStat_other (h : Tab.wf regReset s.regs = true) (hb : b ≠ a) (hchg : b ≠ chg + 4 * (n / 32)) :
    (putStat s a v chg n).rd b = s.rd b := by
  unfold putStat
  split
  · rfl
  · rw [rd_mapBit_other (State.wr_wf h a v) hchg, State.rd_wr_other h v hb]

/-- The word that PG_ODU_STAT of ODU `i` shows (R99). -/
def State.oduStatWord (s : State) (i : Nat) : Nat :=
  1 + 2 * ((s.dfs (entOdu i)).smp % 256) + 512 * nat01 (s.oduSsf i State.defSmp) + 1024 * nat01 (s.oduSf i State.defSmp)
    + 2048 * nat01 (s.oduSd i State.defSmp) + 4096 * nat01 ((s.oduS i).aisIns && !s.lckRx.contains i)
    + 8192 * nat01 (s.oci i && !s.lckTx.contains i)

theorem oduStat_eq (s : State) (i : Nat) : ∃ w, oduStat s i =
    putStat (putStat s (Reg.PG_ODU_STAT (i / 640) (i % 640)) (s.oduStatWord i) (Reg.PG_ODU_CHG (i / 640) 0) (i % 640))
      (Reg.PG_ODU_TCM_STAT (i / 640) (i % 640)) w (Reg.PG_ODU_CHG (i / 640) 0) (i % 640) := ⟨_, rfl⟩

theorem oduStat_onlyRegs (s : State) (i : Nat) : OnlyRegs s (oduStat s i) := by
  obtain ⟨w, hw⟩ := oduStat_eq s i
  rw [hw]
  exact (putStat_onlyRegs ..).trans (putStat_onlyRegs ..)

theorem nat01_le_one (b : Bool) : nat01 b ≤ 1 := by
  cases b <;> decide

theorem nat01_beq_one (b : Bool) : (nat01 b == 1) = b := by
  cases b <;> rfl

theorem oduStatWord_lt (s : State) (i : Nat) : s.oduStatWord i < 4294967296 := by
  have hle := nat01_le_one
  have hssf := hle (s.oduSsf i State.defSmp)
  have hsf := hle (s.oduSf i State.defSmp)
  have hsd := hle (s.oduSd i State.defSmp)
  have hais := hle ((s.oduS i).aisIns && !s.lckRx.contains i)
  have hoci := hle (s.oci i && !s.lckTx.contains i)
  unfold State.oduStatWord
  omega

/-- Bit 0: the ODU is defined (R99). -/
theorem bitAt_oduStatWord_defined (s : State) (i : Nat) : bitAt (s.oduStatWord i) 0 = true := by
  simp only [bitAt, State.oduStatWord, beq_iff_eq]
  omega

/-- Bit 12: the ODU is replaced and not locked (R79, R99). -/
theorem bitAt_oduStatWord_aisIns (s : State) (i : Nat) :
    bitAt (s.oduStatWord i) 12 = ((s.oduS i).aisIns && !s.lckRx.contains i) := by
  have hle := nat01_le_one
  have hssf := hle (s.oduSsf i State.defSmp)
  have hsf := hle (s.oduSf i State.defSmp)
  have hsd := hle (s.oduSd i State.defSmp)
  have hais := hle ((s.oduS i).aisIns && !s.lckRx.contains i)
  have hbit : s.oduStatWord i / 2 ^ 12 % 2 = nat01 ((s.oduS i).aisIns && !s.lckRx.contains i) := by
    unfold State.oduStatWord
    omega
  rw [bitAt, hbit, nat01_beq_one]

theorem rd_oduStat (h : Tab.wf regReset s.regs = true) (i : Nat) :
    (oduStat s i).rd (Reg.PG_ODU_STAT (i / 640) (i % 640)) = s.oduStatWord i := by
  have htcm : Reg.PG_ODU_STAT (i / 640) (i % 640) ≠ Reg.PG_ODU_TCM_STAT (i / 640) (i % 640) := by
    simp only [Reg.PG_ODU_STAT, Reg.PG_ODU_TCM_STAT]
    omega
  have hchg : Reg.PG_ODU_STAT (i / 640) (i % 640) ≠ Reg.PG_ODU_CHG (i / 640) 0 + 4 * (i % 640 / 32) := by
    simp only [Reg.PG_ODU_STAT, Reg.PG_ODU_CHG]
    omega
  obtain ⟨w, hw⟩ := oduStat_eq s i
  rw [hw, rd_putStat_other (putStat_wf h) htcm hchg, rd_putStat_self h (oduStatWord_lt s i) hchg]

end StatusRegisters

section Replacement

variable {s : State} {i : Nat} {d : OduDef}

@[simp] theorem Odu.genTo_aisIns (o : Odu) (bps t : Nat) : (o.genTo bps t).aisIns = o.aisIns := by
  unfold Odu.genTo
  split <;> rfl

@[simp] theorem Odu.setRep_aisIns (o : Odu) (want bps t : Nat) : (o.setRep want bps t).aisIns = o.aisIns := by
  unfold Odu.setRep
  split
  · rfl
  · exact Odu.genTo_aisIns o bps t

@[simp] theorem Odu.setRep_rep (o : Odu) (want bps t : Nat) : (o.setRep want bps t).rep = want := by
  unfold Odu.setRep
  split
  · next h => exact h.symm
  · rfl

theorem oduS_updOdu (h : Tab.wf (fun _ => ({} : Odu)) s.odus = true) (i : Nat) (f : Odu → Odu) : (s.updOdu i f).oduS i = f (s.oduS i) :=
  tabGet_tabUpd h i f

theorem updOdu_wf (h : Tab.wf (fun _ => ({} : Odu)) s.odus = true) (i : Nat) (f : Odu → Odu) :
    Tab.wf (fun _ => ({} : Odu)) (s.updOdu i f).odus = true := Tab.wf_set _ h i _

theorem repSet_eq (hd : s.img.bind (·.odu? i) = some d) : repSet s i =
    s.updOdu i fun o => o.setRep (if s.lckRx.contains i then 2 else if o.aisIns then 1 else 0) d.bps s.now := by
  rw [repSet, hd]

/-- The replacement of ODU `i` by ODU-AIS begun or ended, before its status registers follow. -/
def aisSwitched (s : State) (i : Nat) (on : Bool) : State := repSet (s.updOdu i fun o => { o with aisIns := on }) i

theorem aisInsert_starts (hcause : s.aisCause i = true) (hoff : (s.oduS i).aisIns = false) (hdef : (s.img.bind (·.odu? i)).isSome = true) :
    aisInsert s i = oduStat (aisSwitched s i true) i :=
  if_pos (by simp [hcause, hoff, hdef])

theorem aisInsert_idle (h : s.aisCause i = false ∨ (s.oduS i).aisIns = true) : aisInsert s i = s := by
  refine if_neg ?_
  rcases h with h | h <;> simp [h]

theorem aisRemove_idle (h : s.aisCause i = true ∨ (s.oduS i).aisIns = false) : aisRemove s i = s := by
  refine if_neg ?_
  rcases h with h | h <;> simp [h]

theorem aisSwitched_eq (hd : s.img.bind (·.odu? i) = some d) (on : Bool) : aisSwitched s i on =
    (s.updOdu i fun o => { o with aisIns := on }).updOdu i fun o =>
      o.setRep (if s.lckRx.contains i then 2 else if o.aisIns then 1 else 0) d.bps s.now := repSet_eq hd

theorem aisSwitched_img (hd : s.img.bind (·.odu? i) = some d) (on : Bool) : (aisSwitched s i on).img = s.img := by
  rw [aisSwitched_eq hd]
  rfl

theorem aisRemove_ends (hcause : s.aisCause i = false) (hon : (s.oduS i).aisIns = true) (hdef : (s.img.bind (·.odu? i)).isSome = true) :
    aisRemove s i = oduStat (aisSwitched s i false) i := by
  obtain ⟨d, hd⟩ := Option.isSome_iff_exists.mp hdef
  have himg : ((aisSwitched s i false).img.bind (·.odu? i)).isSome = true := by rw [aisSwitched_img hd, hdef]
  exact (if_pos (by simp [hcause, hon])).trans (if_pos himg)

/-- What the record of the ODU holds once replacement has begun or ended: LCK wins over AIS (R79). -/
theorem aisSwitched_oduS (hd : s.img.bind (·.odu? i) = some d) (h : Tab.wf (fun _ => ({} : Odu)) s.odus = true) (on : Bool) :
    ((aisSwitched s i on).oduS i).aisIns = on ∧
      ((aisSwitched s i on).oduS i).rep = if s.lckRx.contains i then 2 else if on then 1 else 0 := by
  rw [aisSwitched_eq hd, oduS_updOdu (updOdu_wf h i _), oduS_updOdu h]
  exact ⟨Odu.setRep_aisIns .., Odu.setRep_rep ..⟩

/-- An update of ODUs, and one of registers after it. -/
theorem OnlyRegs.of_odus {s t u : State} (h : OnlyRegs t u) (ht : t = { s with odus := t.odus }) :
    u = { s with regs := u.regs, odus := u.odus } := by
  unfold OnlyRegs at h
  rw [h, ht]

/-- The replacement and its status registers: the record and PG_ODU_STAT of the ODU, and nothing beside odus and registers. -/
theorem oduStat_aisSwitched (hdef : (s.img.bind (·.odu? i)).isSome = true) (hregs : Tab.wf regReset s.regs = true)
    (hodus : Tab.wf (fun _ => ({} : Odu)) s.odus = true) (on : Bool) : let t := oduStat (aisSwitched s i on) i
    (t.oduS i).aisIns = on ∧ (t.oduS i).rep = (if s.lckRx.contains i then 2 else if on then 1 else 0) ∧
      t.bit (Reg.PG_ODU_STAT (i / 640) (i % 640)) 12 = (on && !s.lckRx.contains i) ∧
      t.bit (Reg.PG_ODU_STAT (i / 640) (i % 640)) 0 = true ∧ t = { s with regs := t.regs, odus := t.odus } := by
  intro t
  obtain ⟨d, hd⟩ := Option.isSome_iff_exists.mp hdef
  obtain ⟨hais, hrep⟩ := aisSwitched_oduS hd hodus on
  have heq := aisSwitched_eq hd on
  have honly : OnlyRegs (aisSwitched s i on) t := oduStat_onlyRegs _ i
  have hodu : t.oduS i = (aisSwitched s i on).oduS i := congrArg (·.oduS i) honly
  have hlck : (aisSwitched s i on).lckRx = s.lckRx := by rw [heq]; rfl
  have hrd : t.rd (Reg.PG_ODU_STAT (i / 640) (i % 640)) = (aisSwitched s i on).oduStatWord i :=
    rd_oduStat (by rw [heq]; exact hregs) i
  refine ⟨by rw [hodu, hais], by rw [hodu, hrep], ?_, ?_, ?_⟩
  · rw [State.bit, hrd, bitAt_oduStatWord_aisIns, hais, hlck]
  · rw [State.bit, hrd, bitAt_oduStatWord_defined]
  · exact honly.of_odus (by rw [heq]; rfl)

theorem exec_oduAisInsert (hi : i < 40960) (s : State) : exec (.oduAisInsert i) s = .next (after s (aisInsert s i)) :=
  exec_eq_next (decide_eq_true hi) rfl rfl

theorem exec_oduAisRemove (hi : i < 40960) (s : State) : exec (.oduAisRemove i) s = .next (after s (aisRemove s i)) :=
  exec_eq_next (decide_eq_true hi) rfl rfl

end Replacement

/-- Settles O41: both commands, where they act, leave what `oduStat_aisSwitched` says, and elsewhere nothing changes. -/
theorem aisReplacement : Obligations.AisReplacement := by
  intro i s hi hregs hodus hdef
  have hends := oduStat_aisSwitched hdef hregs hodus
  simp only [← List.contains_iff_mem]
  refine ⟨fun hcause hoff => ⟨oduStat (aisSwitched s i true) i, ?insert, hends true⟩, fun h => ?noInsert,
    fun hcause hon => ⟨oduStat (aisSwitched s i false) i, ?remove, hends false⟩, fun h => ?noRemove⟩
  case insert => rw [exec_oduAisInsert hi, aisInsert_starts hcause hoff hdef]
  case noInsert => rw [exec_oduAisInsert hi, aisInsert_idle h]
  case remove => rw [exec_oduAisRemove hi, aisRemove_ends hcause hon hdef]
  case noRemove => rw [exec_oduAisRemove hi, aisRemove_idle h]

end Sys2Proof.Machine

namespace Sys2Proof.Machine

/-! Failures and their records (R80, R81, R152, R153, R191). -/

section Failures

variable {s : State} {e c n v : Nat}

/-- The entity and code of a failure command. -/
theorem failCommand_wf (he : e < 0x10000000) (hc : c < 256) : (decide (e < 0x10000000) && decide (c < 256)) = true := by
  simp [he, hc]

theorem exec_failureRaise (he : e < 0x10000000) (hc : c < 256) (s : State) :
    exec (.failureRaise e c) s = .next (after s (failureRaise (settle s) e c)) :=
  exec_eq_next (failCommand_wf he hc) rfl rfl

theorem exec_failureClear (he : e < 0x10000000) (hc : c < 256) (s : State) :
    exec (.failureClear e c) s = .next (after s (failureClear (settle s) e c)) :=
  exec_eq_next (failCommand_wf he hc) rfl rfl

/-! Which rule a code falls under. -/

theorem failureRaise_line (hc : c < 0x40) (s : State) (e : Nat) : failureRaise s e c = lineRaise s e c := if_pos hc

theorem failureClear_line (hc : c < 0x40) (s : State) (e : Nat) : failureClear s e c = lineClear s e c := if_pos hc

theorem failureRaise_leaf (hlo : 0x40 ≤ c) (hhi : c < 0x50) (s : State) (v : Nat) : failureRaise s v c = leafRaise s v c :=
  (if_neg (Nat.not_lt.mpr hlo)).trans (if_pos hhi)

theorem failureClear_leaf (hlo : 0x40 ≤ c) (hhi : c < 0x50) (s : State) (v : Nat) : failureClear s v c = leafClear s v c :=
  (if_neg (Nat.not_lt.mpr hlo)).trans (if_pos hhi)

theorem failureRaise_prot (hlo : 0x50 ≤ c) (s : State) (n : Nat) : failureRaise s n c = protRaise s n c :=
  (if_neg (by omega)).trans (if_neg (Nat.not_lt.mpr hlo))

theorem failureClear_prot (hlo : 0x50 ≤ c) (s : State) (n : Nat) : failureClear s n c = protClear s n c :=
  (if_neg (by omega)).trans (if_neg (Nat.not_lt.mpr hlo))

/-! Line failures (R80). -/

theorem lineRaise_raises (hdue : s.failDue e c = true) (hfree : heldCode c = false ∨ s.serverFailed e = false)
    (hup : s.dutyUp (s.entHandle e) = true) :
    lineRaise s e c = failMove s (s.entHandle e) 1 e c true (alarmRecord e c 1 s.prevFn) := by
  refine if_pos ?_
  rcases hfree with h | h <;> simp [hdue, hup, h]

theorem lineRaise_idle (h : s.failDue e c = false ∨ (heldCode c = true ∧ s.serverFailed e = true) ∨ s.dutyUp (s.entHandle e) = false) :
    lineRaise s e c = s := by
  refine if_neg ?_
  rcases h with h | ⟨hheld, hserver⟩ | h
  · simp [h]
  · simp [hheld, hserver]
  · simp [h]

theorem lineClear_clears (hdue : s.clearDue e c = true) (hup : s.dutyUp (s.entHandle e) = true) :
    lineClear s e c = failMove s (s.entHandle e) 1 e c false (alarmRecord e c 0 s.prevFn) :=
  if_pos (by simp [hdue, hup])

theorem lineClear_idle (h : s.clearDue e c = false ∨ s.dutyUp (s.entHandle e) = false) : lineClear s e c = s := by
  refine if_neg ?_
  rcases h with h | h <;> simp [h]

/-! Leaf failures (R152): they stand still while the server signal of their carrier has failed. -/

theorem leafStill_of_free (h : c < 0x45 ∨ s.carSsf (if c = 0x4D then v / 65536 else v) State.defSmp = false) : s.leafStill v c = false := by
  rcases h with h | h
  · have hcode : ¬ 0x45 ≤ c := Nat.not_le.mpr h
    simp [State.leafStill, hcode]
  · simp [State.leafStill, h]

theorem leafStill_of_held (hc : 0x45 ≤ c) (h : s.carSsf (if c = 0x4D then v / 65536 else v) State.defSmp = true) : s.leafStill v c = true := by
  simp [State.leafStill, hc, h]

theorem leafRaise_raises (hdue : s.failDue (leafFailKey c v) c = true) (hstill : s.leafStill v c = false)
    (hup : s.dutyUp (leafAlarmHandle c v) = true) : leafRaise s v c =
      failMove s (leafAlarmHandle c v) 5 (leafFailKey c v) c true (alarmRecord (leafAlarmHandle c v) c 1 s.prevFn) :=
  if_pos (by simp [hdue, hstill, hup])

theorem leafRaise_idle (h : s.failDue (leafFailKey c v) c = false ∨ s.leafStill v c = true ∨ s.dutyUp (leafAlarmHandle c v) = false) :
    leafRaise s v c = s := by
  refine if_neg ?_
  rcases h with h | h | h <;> simp [h]

theorem leafClear_clears (hdue : s.clearDue (leafFailKey c v) c = true) (hstill : s.leafStill v c = false)
    (hup : s.dutyUp (leafAlarmHandle c v) = true) : leafClear s v c =
      failMove s (leafAlarmHandle c v) 5 (leafFailKey c v) c false (alarmRecord (leafAlarmHandle c v) c 0 s.prevFn) :=
  if_pos (by simp [hdue, hstill, hup])

theorem leafClear_idle (h : s.clearDue (leafFailKey c v) c = false ∨ s.leafStill v c = true ∨ s.dutyUp (leafAlarmHandle c v) = false) :
    leafClear s v c = s := by
  refine if_neg ?_
  rcases h with h | h | h <;> simp [h]

/-! Protection failures (R191). -/

theorem protRaise_raises (hdue : s.failDue (protKey n) c = true) (hup : s.dutyUp (handle 4 n) = true) :
    protRaise s n c = failMove s (handle 4 n) 4 (protKey n) c true (alarmRecord (handle 4 n) c 1 s.prevFn) :=
  if_pos (by simp [hdue, hup])

theorem protRaise_idle (h : s.failDue (protKey n) c = false ∨ s.dutyUp (handle 4 n) = false) : protRaise s n c = s := by
  refine if_neg ?_
  rcases h with h | h <;> simp [h]

theorem protClear_clears (hdue : s.clearDue (protKey n) c = true) (hup : s.dutyUp (handle 4 n) = true) :
    protClear s n c = failMove s (handle 4 n) 4 (protKey n) c false (alarmRecord (handle 4 n) c 0 s.prevFn) :=
  if_pos (by simp [hdue, hup])

theorem protClear_idle (h : s.clearDue (protKey n) c = false ∨ s.dutyUp (handle 4 n) = false) : protClear s n c = s := by
  refine if_neg ?_
  rcases h with h | h <;> simp [h]

/-! What a failure that is raised or cleared leaves (R80, R253). -/

theorem failKey_eq (e c : Nat) : failKey e c = 256 * e + c := congrArg (· + c) (Nat.mul_comm e 256)

theorem setFail_raised (h : Tab.wf (fun _ => ({} : Fail)) s.fails = true) :
    (tabGet {} (setFail s e c true).fails (256 * e + c) : Fail).up = true := by
  rw [← failKey_eq, setFail, tabGet_tabUpd h]
  rfl

theorem settle_settled (h : s.smpDue = false) : settle s = s := if_neg (by simp [h])

/-- A record of an owned object waits for the owner's commit (R253). -/
theorem postOwned_held {h role q : Nat} (hown : s.owner h = some e) (hrole : role ≠ 5)
    (hq : s.img.bind (·.role? role (engQuad e) 0 0) = some q) (rec : List Byte) :
    s.postOwned h role rec = { s with held := s.held ++ [⟨e, 6, q, rec⟩] } := by
  rw [State.postOwned, hown]
  dsimp only
  rw [if_neg hrole, hq]

theorem failMove_eq (s : State) (h role e c : Nat) (up : Bool) (rec : List Byte) : failMove s h role e c up rec =
    (setFail { s with failBack := match s.owner h with
      | some g => s.failBack ++ [(g, 256 * e + c, tabGet {} s.fails (256 * e + c))]
      | none => s.failBack } e c up).postOwned h role rec := by
  rw [failMove, failKey_eq]
  cases s.owner h <;> rfl

end Failures

/-- Settles O42: the code chooses the rule, and each rule acts or leaves the settled state. -/
theorem failuresAndTheirRecords : Obligations.FailuresAndTheirRecords := by
  refine ⟨fun e c s he hc => ?line, fun v c s hv hlo hhi => ?leaf, fun n c s hn hlo hhi => ?prot, fun s => settle_settled,
    fun h role e q rec s hown hrole hq => postOwned_held hown hrole hq rec, fun h role e c up rec s => failMove_eq s h role e c up rec⟩
  case line =>
    intro u
    have hraise : exec (.failureRaise e c) s = .next (after s (lineRaise u e c)) := by
      rw [exec_failureRaise he (by omega), failureRaise_line hc]
    have hclear : exec (.failureClear e c) s = .next (after s (lineClear u e c)) := by
      rw [exec_failureClear he (by omega), failureClear_line hc]
    rw [hraise, hclear]
    exact ⟨fun hdue hfree hup => ⟨by rw [lineRaise_raises hdue hfree hup], setFail_raised⟩, fun h => by rw [lineRaise_idle h],
      fun hdue hup => by rw [lineClear_clears hdue hup], fun h => by rw [lineClear_idle h]⟩
  case leaf =>
    intro u k h f
    have hraise : exec (.failureRaise v c) s = .next (after s (leafRaise u v c)) := by
      rw [exec_failureRaise hv (by omega), failureRaise_leaf hlo hhi]
    have hclear : exec (.failureClear v c) s = .next (after s (leafClear u v c)) := by
      rw [exec_failureClear hv (by omega), failureClear_leaf hlo hhi]
    have hheld : 0x45 ≤ c ∧ f = true → u.leafStill v c = true := fun ⟨hc, hf⟩ => leafStill_of_held hc hf
    rw [hraise, hclear]
    exact ⟨fun hdue hfree hup => by rw [leafRaise_raises hdue (leafStill_of_free hfree) hup],
      fun hidle => by rw [leafRaise_idle (hidle.imp_right (Or.imp_left hheld))],
      fun hdue hfree hup => by rw [leafClear_clears hdue (leafStill_of_free hfree) hup],
      fun hidle => by rw [leafClear_idle (hidle.imp_right (Or.imp_left hheld))]⟩
  case prot =>
    intro u
    have hraise : exec (.failureRaise n c) s = .next (after s (protRaise u n c)) := by
      rw [exec_failureRaise hn hhi, failureRaise_prot hlo]
    have hclear : exec (.failureClear n c) s = .next (after s (protClear u n c)) := by
      rw [exec_failureClear hn hhi, failureClear_prot hlo]
    rw [hraise, hclear]
    exact ⟨fun hdue hup => by rw [protRaise_raises hdue hup], fun h => by rw [protRaise_idle h],
      fun hdue hup => by rw [protClear_clears hdue hup], fun h => by rw [protClear_idle h]⟩

end Sys2Proof.Machine

namespace Sys2Proof.Machine

/-! The GCC channels (R88): received bytes to the host, records of the host to the line. -/

section GccChannels

variable {p ch q : Nat} {s : State} {d : QueDef}

theorem gccChannel_wf (hp : p < 512) (hch : ch < 3) : (decide (p < 512) && decide (ch < 3)) = true := by
  simp [hp, hch]

theorem exec_gccFlush (hp : p < 512) (hch : ch < 3) (s : State) : exec (.gccFlush p ch) s = .next (after s (gccFlush s p ch)) :=
  exec_eq_next (gccChannel_wf hp hch) rfl rfl

theorem exec_gccTxRecord (hp : p < 512) (hch : ch < 3) (s : State) : exec (.gccTxRecord p ch) s = .next (after s (gccTx s p ch)) :=
  exec_eq_next (gccChannel_wf hp hch) rfl rfl

/-- What channel `ch` of port `p` has received and not yet posted. -/
def State.gccOf (s : State) (p ch : Nat) : Gcc := tabGet {} s.gcc (gccKey p ch)

theorem gccFlush_empty (h : (s.gccOf p ch).rx = []) : gccFlush s p ch = s := by
  have hnone : (s.gccOf p ch).rx.isEmpty = true := by rw [h]; rfl
  exact if_pos (Bool.or_eq_true_iff.mpr (.inl hnone))

/-- Bytes that have waited past their frame: posted as one record, and taken out of the channel. -/
theorem gccFlush_due (h : (s.gccOf p ch).rx ≠ []) (hpast : (s.gccOf p ch).since + 2 ≤ s.elapsed) : gccFlush s p ch =
    { s.postRole 6 0 ch (handle 1 p) (gccRecord p ch (s.gccOf p ch).rx) with
      gcc := tabSet {} (s.postRole 6 0 ch (handle 1 p) (gccRecord p ch (s.gccOf p ch).rx)).gcc (gccKey p ch)
        { s.gccOf p ch with rx := [] } } := by
  have hsome : (s.gccOf p ch).rx.isEmpty = false := by rw [List.isEmpty_eq_false_iff]; exact h
  refine if_neg ?_
  change ¬((s.gccOf p ch).rx.isEmpty || !(decide ((s.gccOf p ch).since + 2 ≤ s.elapsed) || _)) = true
  rw [hsome, decide_eq_true hpast]
  exact Bool.false_ne_true

theorem gccTx_noQueue (h : s.img.bind (·.role? 7 0 ch (handle 1 p)) = none) : gccTx s p ch = s := by
  rw [gccTx, h]

/-- The oldest record of queue `q`. -/
def State.queHead (s : State) (q : Nat) (d : QueDef) : List Byte := s.memGet (d.base + (s.que q).rd * (16 * d.units)) (16 * d.units)

/-- Queue `q` without its oldest record. -/
def State.queTaken (s : State) (q : Nat) (d : QueDef) : State :=
  s.setQue q { s.que q with
    fill := (s.que q).fill - 1, rd := ((s.que q).rd + 1) % 2 ^ d.log2, stamps := (s.que q).stamps.drop 1 }

/-- A transmit record is valid: it names the port and the channel, and holds 1 to 56 bytes (R88). -/
def gccValid (p ch : Nat) (r : List Byte) : Bool :=
  leAt r 0 4 = handle 1 p && leAt r 4 1 = ch && 1 ≤ leAt r 5 1 && leAt r 5 1 ≤ 56

theorem gccValid_iff {r : List Byte} :
    gccValid p ch r = true ↔ leAt r 0 4 = handle 1 p ∧ leAt r 4 1 = ch ∧ 1 ≤ leAt r 5 1 ∧ leAt r 5 1 ≤ 56 := by
  simp [gccValid, and_assoc]

theorem gccValid_not_iff {r : List Byte} :
    gccValid p ch r = false ↔ leAt r 0 4 ≠ handle 1 p ∨ leAt r 4 1 ≠ ch ∨ leAt r 5 1 < 1 ∨ 56 < leAt r 5 1 := by
  rw [← Bool.not_eq_true, gccValid_iff]
  omega

section Transmit

variable (hq : s.img.bind (·.role? 7 0 ch (handle 1 p)) = some q) (hd : s.img.bind (·.queue? q) = some d) 
include hq hd

theorem gccTx_empty (h : (s.que q).fill = 0) : gccTx s p ch = s := by
  rw [gccTx, hq]
  dsimp only
  rw [hd]
  exact if_pos (by simp [h])

theorem gccTx_takes (hhost : d.fromHost = true) (h : (s.que q).fill ≠ 0) : gccTx s p ch =
    if gccValid p ch (s.queHead q d) then
      (s.queTaken q d).send (.gcc p ch (slice (s.queHead q d) 8 (leAt (s.queHead q d) 5 1)))
    else (s.queTaken q d).queDrop q 1 := by
  rw [gccTx, hq]
  dsimp only
  rw [hd]
  exact if_neg (by simp [h, hhost])

end Transmit

end GccChannels

/-- Settles O43: the flush by what the channel holds, the transmission by what the oldest record is. -/
theorem gccChannels : Obligations.GccChannels := by
  refine ⟨fun p ch s hp hch => ⟨fun h => ?nothing, fun h hpast => ⟨_, ?flushed, rfl⟩⟩,
    fun p ch s hp hch => ⟨fun h => ?noQueue, fun q d hq hd hhost => ⟨fun h => ?emptyQueue,
      fun h => ⟨fun hport hchan hmin hmax => ?sent, fun hbad => ?dropped⟩⟩⟩⟩
  case nothing => rw [exec_gccFlush hp hch, gccFlush_empty h]
  case flushed => rw [exec_gccFlush hp hch, gccFlush_due h hpast]; rfl
  case noQueue => rw [exec_gccTxRecord hp hch, gccTx_noQueue h]
  case emptyQueue => rw [exec_gccTxRecord hp hch, gccTx_empty hq hd h]
  case sent =>
    have hvalid : gccValid p ch (s.queHead q d) = true := gccValid_iff.mpr ⟨hport, hchan, hmin, hmax⟩
    rw [exec_gccTxRecord hp hch, gccTx_takes hq hd hhost h, if_pos hvalid]
    rfl
  case dropped =>
    have hinvalid : gccValid p ch (s.queHead q d) = false := gccValid_not_iff.mpr hbad
    rw [exec_gccTxRecord hp hch, gccTx_takes hq hd hhost h, hinvalid]
    rfl

end Sys2Proof.Machine

namespace Sys2Proof.Machine

/-! Events of the trunk switch: recentring, test words and collisions in the middle (R109, R112, R123). -/

section TrunkEvents

variable {s : State} {m : Image}

theorem remapRecentre_due {o : Nat} (hm : s.img = some m) (ho : o < 40960) (hk : (m.outRec o).kind ≠ 0) (hw : s.outOfWindow m o = true) :
    remapRecentre s o = { ((s.mapBit (Reg.TRK_REMAP_EVT 0) o).evt Reg.TRK_EVT F.TRK_EVT_REMAP).count 0x43 0 1 with
      remaps := tabUpd {} s.remaps o fun r => { r with once := 1, fill := 0 } } := by
  have hdue : remapRecentre s o = recentre s o := by simp [remapRecentre, hm, ho, hk, hw]
  rw [hdue, recentre]
  rfl

theorem remapRecentre_not_due {o : Nat} (hm : s.img = some m) (h : 40960 ≤ o ∨ (m.outRec o).kind = 0 ∨ s.outOfWindow m o = false) :
    remapRecentre s o = s := by
  have hfails : (decide (o < 40960) && decide ((m.outRec o).kind ≠ 0) && s.outOfWindow m o) = false := by
    rcases h with h | h | h
    · rw [decide_eq_false (Nat.not_lt.mpr h), Bool.false_and, Bool.false_and]
    · rw [decide_eq_false (not_not_intro h), Bool.and_false, Bool.false_and]
    · rw [h, Bool.and_false]
  rw [remapRecentre, hm]
  exact if_neg (ne_true_of_eq_false hfails)

theorem exec_inject {w : Nat} {t : State} (hw : w < 128) (hs : s.csrAnswers Reg.TRK_TEST_CMD = true) (h : inject s w = t) :
    exec (.inject w) s = .next (after s t) :=
  exec_eq_next (decide_eq_true hw) rfl ((if_pos hs).trans h)

/-! Test words. -/

section TestWord

variable {u c p i now : Nat} {w : TestRx}

theorem testPlace_wf (hu : u < 96) (hc : c < 42) (hp : p < 432) : (Instr.testWordCheck false u (c, p) w).wf = true := by
  simp [Instr.wf, hu, hc, hp]

theorem linkPlace_wf (hu : u < 4) (hc : c < 42) (hp : p < 432) : (Instr.testWordCheck true u (c, p) w).wf = true := by
  simp [Instr.wf, hu, hc, hp]

theorem testWord_cycle_eq : testWord s false u c p w =
    if !s.fuses.sw u || !s.fuses.sw (testSource s.frameFn c p u) then s
    else
      let hit := s.injectSw.contains (testSource s.frameFn c p u, if s.ofs = 0 then s.elapsed - 1 else s.elapsed)
      let t := if hit then { s with injectSw := s.injectSw.erase (testSource s.frameFn c p u, if s.ofs = 0 then s.elapsed - 1 else s.elapsed) }
        else s
      if testBad t (testSource s.frameFn c p u) p w || hit then testError t false u else t := rfl

theorem testWord_link_eq : testWord s true u c p w =
    if s.fuses.links u && (w.sw / 24 != u || testBad s w.sw p w) then testError s true u else s := rfl

theorem testError_cycle (s : State) (u : Nat) : testError s false u =
    ((s.evt Reg.TRK_EVT F.TRK_EVT_TEST_ERR).incPair (Reg.TRK_TEST_ERR_LO u) (Reg.TRK_TEST_WRAP 0) u 1).count 0x40 u 1 := by
  simp [testError]

theorem testError_link (s : State) (u : Nat) : testError s true u =
    ((s.evt Reg.TRK_EVT F.TRK_EVT_TEST_ERR).incPair (Reg.TRK_LINK_ERR_LO u) Reg.TRK_LINK_WRAP u 1).count 0x41 u 1 := by
  simp [testError]

theorem testWord_absent (hi : testSource s.frameFn c p u = i) (h : s.fuses.sw u = false ∨ s.fuses.sw i = false) :
    testWord s false u c p w = s := by
  subst hi
  rw [testWord_cycle_eq]
  exact if_pos (by rcases h with h | h <;> simp [h])

section Present

variable (hi : testSource s.frameFn c p u = i) (hnow : (if s.ofs = 0 then s.elapsed - 1 else s.elapsed) = now)
  (hu : s.fuses.sw u = true) (hsw : s.fuses.sw i = true)
include hi hnow hu hsw

/-- A word that crosses while its ingress switch injects none is judged by its content. -/
theorem testWord_not_injected (h : (i, now) ∉ s.injectSw) :
    testWord s false u c p w = if testBad s i p w then testError s false u else s := by
  subst hi hnow
  simp [testWord_cycle_eq, hu, hsw, h]

/-- The first word of an injecting switch is errored, whatever it holds, and ends the injection. -/
theorem testWord_injected (h : (i, now) ∈ s.injectSw) :
    testWord s false u c p w = testError { s with injectSw := s.injectSw.erase (i, now) } false u := by
  subst hi hnow
  simp [testWord_cycle_eq, hu, hsw, h]

end Present

theorem linkWord_good (h : s.fuses.links u = false ∨ (w.sw / 24 = u ∧ testBad s w.sw p w = false)) :
    testWord s true u c p w = s := by
  rw [testWord_link_eq]
  refine if_neg ?_
  rcases h with h | ⟨hq, hgood⟩
  · simp [h]
  · simp [hq, hgood]

theorem linkWord_bad (hl : s.fuses.links u = true) (h : w.sw / 24 ≠ u ∨ testBad s w.sw p w = true) :
    testWord s true u c p w = testError s true u := by
  rw [testWord_link_eq]
  exact if_pos (by rcases h with h | h <;> simp [hl, h])

end TestWord

/-! Collisions. -/

/-- The words that a collision of switches `lo` and `hi` replaces in the frame, when the registers tell of it. -/
def misread (s : State) (mid e lo hi : Nat) : State :=
  match s.img with
  | some m => { s with trkErr := s.trkErr ++ (s.readers m mid e hi).map fun t => (t, m.midSource lo mid) }
  | none => s

theorem misread_of_onlyRegs {t : State} (h : OnlyRegs s t) (hm : s.img = some m) (mid e lo hi : Nat) : misread t mid e lo hi =
    { t with trkErr := s.trkErr ++ (s.readers m mid e hi).map fun t => (t, m.midSource lo mid) } := by
  have key : ∀ r, misread { s with regs := r } mid e lo hi =
      { s with regs := r, trkErr := s.trkErr ++ (s.readers m mid e hi).map fun t => (t, m.midSource lo mid) } := fun r => by
    simp only [misread, hm]
    rfl
  rw [h]
  exact key _

/-- A breach counted. -/
def breachCounted (s : State) : State := (s.incPair Reg.TRK_BREACH_LO Reg.TRK_WRAP 0 1).count 0x42 0 1

theorem breachCounted_onlyRegs (s : State) : OnlyRegs s (breachCounted s) := ((OnlyRegs.refl s).incPair _ _ _ _).count _ _ _

/-- A breach told: counted, its place stored when none is latched, and latched. -/
def breachTold (s : State) (mid e hi : Nat) : State :=
  (if !s.flag Reg.TRK_EVT F.TRK_EVT_BREACH then
    (breachCounted s).wr Reg.TRK_BREACH_LOC (mid % 1024 + 1024 * (e % 128) + 131072 * (hi % 128)) else breachCounted s).evt
      Reg.TRK_EVT F.TRK_EVT_BREACH

theorem breachTold_onlyRegs (s : State) (mid e hi : Nat) : OnlyRegs s (breachTold s mid e hi) :=
  (OnlyRegs.ite ((breachCounted_onlyRegs s).wr _ _) (breachCounted_onlyRegs s)).evt _ _

theorem collision_eq (s : State) (mid e x y : Nat) : collision s mid e x y =
    if x = y || !s.fuses.sw e || !s.fuses.sw x || !s.fuses.sw y then s
    else misread (breachTold s mid e (max x y)) mid e (min x y) (max x y) := rfl

theorem collision_absent {mid e x y : Nat} (h : s.fuses.sw e = false ∨ s.fuses.sw x = false ∨ s.fuses.sw y = false) :
    collision s mid e x y = s := by
  rw [collision_eq]
  exact if_pos (by rcases h with h | h | h <;> simp [h])

theorem collision_comm (s : State) (mid e x y : Nat) : collision s mid e x y = collision s mid e y x := by
  have hcond : (decide (x = y) || !s.fuses.sw e || !s.fuses.sw x || !s.fuses.sw y) =
      (decide (y = x) || !s.fuses.sw e || !s.fuses.sw y || !s.fuses.sw x) := by
    rw [decide_eq_decide.mpr (eq_comm (a := x)), Bool.or_assoc, Bool.or_comm (!s.fuses.sw x), ← Bool.or_assoc]
  rw [collision_eq s mid e x y, collision_eq s mid e y x, Nat.max_comm, Nat.min_comm, hcond]

theorem collision_present {mid e lo hi : Nat} (hlt : lo < hi) (he : s.fuses.sw e = true) (hl : s.fuses.sw lo = true)
    (hh : s.fuses.sw hi = true) (hm : s.img = some m) : collision s mid e lo hi = { breachTold s mid e hi with
      trkErr := s.trkErr ++ (s.readers m mid e hi).map fun t => (t, m.midSource lo mid) } := by
  rw [collision_eq, Nat.max_eq_right (Nat.le_of_lt hlt), Nat.min_eq_left (Nat.le_of_lt hlt), if_neg (by simp [he, hl, hh, Nat.ne_of_lt hlt])]
  exact misread_of_onlyRegs (breachTold_onlyRegs s mid e hi) hm mid e lo hi

theorem exec_middleCollision {mid e x y : Nat} (hmid : mid < 864) (he : e < 96) (hx : x < 96) (hy : y < 96) (s : State) :
    exec (.middleCollision mid e x y) s = .next (after s (collision s mid e x y)) :=
  exec_eq_next (by simp [Instr.wf, hmid, he, hx, hy]) rfl rfl

theorem breachTold_latched (h : s.flag Reg.TRK_EVT F.TRK_EVT_BREACH = true) (mid e hi : Nat) :
    breachTold s mid e hi = (breachCounted s).evt Reg.TRK_EVT F.TRK_EVT_BREACH := by
  simp [breachTold, h]

theorem breachTold_clear (h : s.flag Reg.TRK_EVT F.TRK_EVT_BREACH = false) {mid e hi : Nat} (hmid : mid < 864) (he : e < 96)
    (hhi : hi < 96) : breachTold s mid e hi =
      ((breachCounted s).wr Reg.TRK_BREACH_LOC (mid + 1024 * e + 131072 * hi)).evt Reg.TRK_EVT F.TRK_EVT_BREACH := by
  have h1 : mid % 1024 = mid := Nat.mod_eq_of_lt (by omega)
  have h2 : e % 128 = e := Nat.mod_eq_of_lt (by omega)
  have h3 : hi % 128 = hi := Nat.mod_eq_of_lt (by omega)
  simp [breachTold, h, h1, h2, h3]

end TrunkEvents

/-- Settles O44: each event by its condition; the two orders of a collision's switches answer alike. -/
theorem trunkSwitchEvents : Obligations.TrunkSwitchEvents := by
  refine ⟨fun o m s ho hm => ⟨fun hl hk hw => ?recentred, fun h => ?centred⟩,
    fun w s hw hs => ⟨fun h => ?injects, fun h => ?injectsNot⟩,
    fun u c p i now w s hu hc hp hi hnow => ⟨fun h => ?absent, fun hu' hi' => ⟨fun h => ?notInjected, fun h => ?injected⟩⟩,
    fun u c p w s hu hc hp => ⟨fun h => ?linkGood, fun hl h => ?linkBad⟩,
    fun mid e lo hi m s hmid he hlt hhi hm i hi' => ?collision⟩
  case recentred => exact exec_eq_next (decide_eq_true ho) rfl (remapRecentre_due hm hl hk hw)
  case centred => exact exec_eq_next (decide_eq_true ho) rfl (remapRecentre_not_due hm h)
  case injects => exact exec_inject hw hs (if_pos h)
  case injectsNot => exact exec_inject hw hs (if_neg (by simp [h]))
  case absent => exact exec_eq_next (testPlace_wf hu hc hp) rfl (testWord_absent hi h)
  case notInjected =>
    refine exec_eq_next (testPlace_wf hu hc hp) rfl ?_
    rw [testWord_not_injected hi hnow hu' hi' h, testError_cycle]
  case injected =>
    refine exec_eq_next (testPlace_wf hu hc hp) rfl ?_
    rw [testWord_injected hi hnow hu' hi' h, testError_cycle]
  case linkGood => exact exec_eq_next (linkPlace_wf hu hc hp) rfl (linkWord_good h)
  case linkBad => exact exec_eq_next (linkPlace_wf hu hc hp) rfl ((linkWord_bad hl h).trans (testError_link s u))
  case collision =>
    have hexec : exec i s = .next (after s (collision s mid e lo hi)) := by
      have hlo : lo < 96 := Nat.lt_trans hlt hhi
      rcases List.mem_cons.mp hi' with rfl | hi'
      · exact exec_middleCollision hmid he hlo hhi s
      · rw [List.mem_singleton.mp hi', exec_middleCollision hmid he hhi hlo, collision_comm]
    rw [hexec]
    refine ⟨fun h => by rw [collision_absent h], fun hpe hpl hph hclear => ?_, fun hpe hpl hph hlatched => ?_⟩
    · rw [collision_present hlt hpe hpl hph hm, breachTold_clear hclear hmid he hhi]
      rfl
    · rw [collision_present hlt hpe hpl hph hm, breachTold_latched hlatched]
      rfl

end Sys2Proof.Machine

namespace Sys2Proof.Machine

/-! What a graft puts into force, and the frame and fuses it leaves: the one part of a state that the many operations of a flip must agree on
(R118, R133). -/

/-- The images, the selector bits, the frame and the fuses. -/
structure InForce where
  img : Option Image
  back : Option Image
  fn : Fn
  fuses : Fuses
  selW : List (Nat × Bool)
  selF : List (Nat × Bool)
  lselW : List (Nat × Bool)
  lselF : List (Nat × Bool)

/-- The images, the selector bits, the frame and the fuses of a state. -/
def State.inForce (s : State) : InForce := ⟨s.img, s.back, s.fn, s.fuses, s.selW, s.selF, s.lselW, s.lselF⟩

theorem OnlyRegs.inForce_eq {s t : State} (h : OnlyRegs s t) : t.inForce = s.inForce := (congrArg State.inForce h).trans rfl

/-- A fold whose every step leaves them. -/
theorem foldl_inForce {β : Type} {op : State → β → State} (h : ∀ t b, (op t b).inForce = t.inForce) (l : List β) (s : State) :
    (l.foldl op s).inForce = s.inForce := foldl_leaves State.inForce h l s

theorem ite_inForce {c : Prop} [Decidable c] {s t u : State} (ht : t.inForce = s.inForce) (hu : u.inForce = s.inForce) :
    (if c then t else u).inForce = s.inForce := by
  split
  · exact ht
  · exact hu

/-! The updates of one table or register. -/

section Updates

variable (s : State)

@[simp] theorem wr_inForce (a v : Nat) : (s.wr a v).inForce = s.inForce := rfl
@[simp] theorem setFld_inForce (a : Nat) (f : Fld) (v : Nat) : (s.setFld a f v).inForce = s.inForce := wr_inForce s _ _
@[simp] theorem setFlag_inForce (a : Nat) (f : Fld) (b : Bool) : (s.setFlag a f b).inForce = s.inForce := wr_inForce s _ _
@[simp] theorem evt_inForce (a : Nat) (f : Fld) : (s.evt a f).inForce = s.inForce := wr_inForce s _ _
@[simp] theorem mapBit_inForce (a i : Nat) : (s.mapBit a i).inForce = s.inForce := wr_inForce s _ _
@[simp] theorem wrPair_inForce (a v : Nat) : (s.wrPair a v).inForce = s.inForce := (wr_inForce _ _ _).trans (wr_inForce s a _)
@[simp] theorem putRes_inForce (a c d : Nat) : (s.putRes a c d).inForce = s.inForce := wr_inForce s a _
@[simp] theorem setDef_inForce (e b : Nat) (on : Bool) : (s.setDef e b on).inForce = s.inForce := rfl
@[simp] theorem setDefNext_inForce (e b : Nat) (on : Bool) : (s.setDefNext e b on).inForce = s.inForce := rfl
@[simp] theorem updPm_inForce (e : Nat) (f : Pm → Pm) : (s.updPm e f).inForce = s.inForce := rfl
@[simp] theorem updLane_inForce (g l : Nat) (f : Lane → Lane) : (s.updLane g l f).inForce = s.inForce := rfl
@[simp] theorem updOdu_inForce (i : Nat) (f : Odu → Odu) : (s.updOdu i f).inForce = s.inForce := rfl
@[simp] theorem updGrp_inForce (n : Nat) (f : Grp → Grp) : (s.updGrp n f).inForce = s.inForce := rfl
@[simp] theorem updRef_inForce (n : Nat) (f : Ref → Ref) : (s.updRef n f).inForce = s.inForce := rfl
@[simp] theorem updEng_inForce (p : Nat) (f : Eng → Eng) : (s.updEng p f).inForce = s.inForce := rfl
@[simp] theorem updCar_inForce (c : Nat) (f : Car → Car) : (s.updCar c f).inForce = s.inForce := rfl
@[simp] theorem updMate_inForce (f : Mate → Mate) : (s.updMate f).inForce = s.inForce := rfl
@[simp] theorem setElsRuns_inForce (f : Nat) (r : Nat × Nat) : (s.setElsRuns f r).inForce = s.inForce := rfl
@[simp] theorem dropNewFn_inForce : s.dropNewFn.inForce = s.inForce := rfl


theorem secStart_inForce (x : Nat) : ({ s with secStart := x } : State).inForce = s.inForce := rfl
theorem s24_inForce (x : Series) : ({ s with s24 := x } : State).inForce = s.inForce := rfl
theorem pmReq_inForce (x : Option RdReq) : ({ s with pmReq := x } : State).inForce = s.inForce := rfl
theorem leafReq_inForce (x : Option RdReq) : ({ s with leafReq := x } : State).inForce = s.inForce := rfl
theorem ques_inForce (x : List (Nat × Que)) : ({ s with ques := x } : State).inForce = s.inForce := rfl
theorem chans_inForce (x : List (Nat × Chan)) : ({ s with chans := x } : State).inForce = s.inForce := rfl
theorem remaps_inForce (x : List (Nat × Remap)) : ({ s with remaps := x } : State).inForce = s.inForce := rfl
theorem downSeen_inForce (x : List Nat) : ({ s with downSeen := x } : State).inForce = s.inForce := rfl
theorem groups_inForce (x : List (Nat × Grp)) : ({ s with groups := x } : State).inForce = s.inForce := rfl
theorem groupsChk_inForce (x : List (Nat × Grp)) : ({ s with groupsChk := x } : State).inForce = s.inForce := rfl
theorem legsSent_inForce (x : List (Nat × Nat)) (y : List (Nat × (Nat × List Byte))) (z : List Nat) :
    ({ s with gscTx := x, apsTx := y, newObjs := z } : State).inForce = s.inForce := rfl
theorem refs_inForce (x : List (Nat × Ref)) : ({ s with refs := x } : State).inForce = s.inForce := rfl
theorem tim_inForce (x : Tim) : ({ s with tim := x } : State).inForce = s.inForce := rfl
theorem framesSent_inForce (x : List Sent) (y : List CarPre) : ({ s with sent := x, carPre := y } : State).inForce = s.inForce := rfl
theorem elsCh_inForce (x : Nat) : ({ s with elsCh := x } : State).inForce = s.inForce := rfl
theorem grafts_inForce (x : List (Nat × GraftX)) : ({ s with grafts := x } : State).inForce = s.inForce := rfl
theorem leafRd_inForce (x : LeafPass) : ({ s with leafRd := x } : State).inForce = s.inForce := rfl
theorem drainDue_inForce (x : List Nat) : ({ s with drainDue := x } : State).inForce = s.inForce := rfl

end Updates

/-! What more than one part of a graft does. -/

section Shared

variable (s : State)

theorem count_inForce (ev u n : Nat) : (s.count ev u n).inForce = s.inForce := ((OnlyRegs.refl s).count ev u n).inForce_eq

theorem putDigest_inForce (a : Nat) (d : List Byte) : (s.putDigest a d).inForce = s.inForce := foldl_inForce (fun _ _ => by rfl) _ _

theorem queDrop_inForce (q n : Nat) : (s.queDrop q n).inForce = s.inForce :=
  ((((OnlyRegs.refl s).incPair _ _ _ _).evt _ _).count _ _ _).inForce_eq

theorem post_inForce (q : Nat) (rec : List Byte) : (s.post q rec).inForce = s.inForce := by
  unfold State.post
  split
  · exact ite_inForce rfl (ite_inForce (queDrop_inForce s q 1) rfl)
  · rfl

theorem postRole_inForce (role quad chan port : Nat) (rec : List Byte) : (s.postRole role quad chan port rec).inForce = s.inForce := by
  unfold State.postRole
  split
  · exact post_inForce s _ _
  · rfl

theorem postOwned_inForce (h role : Nat) (rec : List Byte) : (s.postOwned h role rec).inForce = s.inForce := by
  unfold State.postOwned
  split
  · split <;> rfl
  · exact postRole_inForce s _ _ _ _ _

theorem putStat_inForce (a v chg n : Nat) : (putStat s a v chg n).inForce = s.inForce := (putStat_onlyRegs s a v chg n).inForce_eq

theorem portStat_inForce (x : PortDef) : (portStat s x).inForce = s.inForce :=
  (putStat_inForce _ _ _ _ _).trans (foldl_inForce (fun t _ => putStat_inForce t _ _ _ _) _ _)

theorem allStat_inForce : (allStat s).inForce = s.inForce := by
  unfold allStat
  split
  · exact (foldl_inForce (fun t i => (oduStat_onlyRegs t i).inForce_eq) _ _).trans (foldl_inForce portStat_inForce _ _)
  · rfl

theorem putCopy_inForce (m : Image) (ty base : Nat) : (putCopy s m ty base).inForce = s.inForce := by
  unfold putCopy
  split
  · exact (foldl_inForce (fun _ _ => by rfl) _ _).trans rfl
  · rfl

end Shared

/-! The sample, the second and the bins that end (R33, R90, R91). -/

section Seconds

variable (s : State)

theorem failEnt_inForce (e base n mask : Nat) (hold still : Nat → Bool) : (failEnt s e base n mask hold still).inForce = s.inForce :=
  foldl_inForce (fun _ _ => by rfl) _ _

theorem lineSample_inForce (e : Nat) : (lineSample s e).inForce = s.inForce := (failEnt_inForce _ _ _ _ _ _ _).trans rfl

theorem lineSamples_inForce : (lineSamples s).inForce = s.inForce := by
  unfold lineSamples
  split
  · exact foldl_inForce lineSample_inForce _ _
  · rfl

theorem carSample_inForce (c : Nat) : (carSample s c).inForce = s.inForce := (failEnt_inForce _ _ _ _ _ _ _).trans rfl

theorem groupSample_inForce (g : GroupDef) : (groupSample s g).inForce = s.inForce := by
  unfold groupSample
  extract_lets t
  have ht : t.inForce = s.inForce := by
    unfold t
    split
    · exact ite_inForce rfl rfl
    · rfl
  exact ite_inForce ((failEnt_inForce _ _ _ _ _ _ _).trans ht) ht

theorem settle_inForce : (settle s).inForce = s.inForce := by
  unfold settle
  refine ite_inForce ?_ rfl
  extract_lets t
  have ht : t.inForce = s.inForce := lineSamples_inForce _
  split
  · exact ite_inForce (((foldl_inForce groupSample_inForce _ _).trans (foldl_inForce carSample_inForce _ _)).trans ht) ht
  · exact ht

theorem shoot_inForce : (shoot s).inForce = s.inForce := (leafReq_inForce _ _).trans (pmReq_inForce s _)

theorem lineSecond_inForce (e : Nat) : (lineSecond s e).inForce = s.inForce := by
  unfold lineSecond
  extract_lets d r t
  have ht : t.inForce = s.inForce := updPm_inForce s e _
  split
  · exact (setDefNext_inForce t _ _ _).trans ht
  · exact ht

theorem lineSeconds_inForce : (lineSeconds s).inForce = s.inForce := by
  unfold lineSeconds
  split
  · exact foldl_inForce lineSecond_inForce _ _
  · rfl

theorem leafSeconds_inForce : (leafSeconds s).inForce = s.inForce := by
  unfold leafSeconds
  split
  · refine (foldl_inForce (fun t c => ?_) _ _).trans (foldl_inForce (fun t g => ?_) _ _)
    · extract_lets r u
      have hu : u.inForce = t.inForce := updPm_inForce t _ _
      split
      · exact (setDefNext_inForce u _ _ _).trans hu
      · exact hu
    · split
      · exact updPm_inForce t _ _
      · rfl
  · rfl

theorem secondEnd_inForce : (secondEnd s).inForce = s.inForce := by
  have hsec : (leafSeconds (lineSeconds (settle s))).inForce = s.inForce :=
    ((leafSeconds_inForce _).trans (lineSeconds_inForce _)).trans (settle_inForce s)
  exact ite_inForce (((shoot_inForce _).trans (secStart_inForce _ _)).trans hsec) rfl

theorem binOpen_inForce (day : Bool) (marks : Nat) : (binOpen s day marks).inForce = s.inForce :=
  (foldl_inForce (fun _ _ => by rfl) _ _).trans (by cases day <;> rfl)

theorem binMark_inForce (day : Bool) (marks : Nat) : (binMark s day marks).inForce = s.inForce :=
  (foldl_inForce (fun _ _ => by rfl) _ _).trans (by cases day <;> rfl)

theorem bin15Start_inForce : (bin15Start s).inForce = s.inForce := by
  unfold bin15Start
  refine ite_inForce ?_ rfl
  have hopen := binOpen_inForce s false 0
  exact ite_inForce hopen (((s24_inForce _ _).trans (binMark_inForce _ true 1)).trans hopen)

theorem bin24Start_inForce : (bin24Start s).inForce = s.inForce := ite_inForce (binOpen_inForce s true 0) rfl

theorem catchUp_inForce : (catchUp s).inForce = s.inForce :=
  (((bin24Start_inForce _).trans (bin15Start_inForce _)).trans (secondEnd_inForce _)).trans (settle_inForce s)

end Seconds


/-! What the flip does beside the images and the selectors (R133). -/

section Flip

variable (s : State) (old m : Image)

theorem graftQueues_inForce : (graftQueues s old m).inForce = s.inForce := by
  unfold graftQueues
  extract_lets hit t
  have ht : t.inForce = s.inForce := foldl_inForce (fun u q => by
    extract_lets n v
    have hv : v.inForce = u.inForce := ite_inForce rfl (queDrop_inForce u q n)
    exact (ques_inForce v _).trans hv) _ _
  exact (chans_inForce t _).trans ht

theorem recentre_inForce (o : Nat) : (recentre s o).inForce = s.inForce := by
  unfold recentre
  extract_lets t
  exact (remaps_inForce _ _).trans (count_inForce t 0x43 0 1)

theorem pmCut_inForce (k : Nat) (go : Bool) : (pmCut s k go).inForce = s.inForce := updPm_inForce s k _

theorem graftPm_inForce : (graftPm s old m).inForce = s.inForce := by
  unfold graftPm
  extract_lets was now t
  have ht : t.inForce = s.inForce := foldl_inForce (fun u k => pmCut_inForce u k false) _ _
  refine (foldl_inForce (fun u k => ?_) _ _).trans ht
  exact ite_inForce (ite_inForce rfl (pmCut_inForce u k true)) (updPm_inForce u k _)

theorem portGone_inForce (x : PortDef) : (portGone s x).inForce = s.inForce := by
  unfold portGone
  extract_lets es t1 t2 t3 t4
  have h1 : t1.inForce = s.inForce := rfl
  have h2 : t2.inForce = t1.inForce := foldl_inForce (fun u v => putStat_inForce u _ _ _ _) _ _
  have h3 : t3.inForce = t2.inForce := putStat_inForce t2 _ _ _ _
  have h4 : t4.inForce = t3.inForce := wr_inForce t3 _ _
  exact (foldl_inForce (fun u k => by simp only [updLane_inForce, setFlag_inForce]) _ _).trans (h4.trans (h3.trans (h2.trans h1)))

theorem portDown_inForce (x : PortDef) : (portDown s x).inForce = s.inForce := by
  unfold portDown
  extract_lets t
  have ht : t.inForce = s.inForce := foldl_inForce (fun u v => setDef_inForce u _ _ _) _ _
  exact ite_inForce ht ((downSeen_inForce t _).trans ht)

theorem portEval_inForce (x : PortDef) : (portEval s x).inForce = s.inForce := by
  unfold portEval
  extract_lets src newest full sfOk ok mapOk am skews skewMax skewOk up t1 t2
  have h2 : t2.inForce = s.inForce := (foldl_inForce (fun u v => setDef_inForce u _ _ _) _ _).trans (wr_inForce s _ _)
  exact ite_inForce h2 ((portDown_inForce t2 x).trans h2)

theorem skewClear_inForce (g : Nat) (src : List Nat) : (skewClear s g src).inForce = s.inForce :=
  foldl_inForce (fun t _ => ite_inForce rfl (wr_inForce t _ _)) _ _

theorem groupEval_inForce (g : Nat) : (groupEval s g).inForce = s.inForce := by
  unfold groupEval
  split
  · exact (foldl_inForce portEval_inForce _ _).trans (skewClear_inForce s _ _)
  · rfl

theorem graftPorts_inForce : (graftPorts s old m).inForce = s.inForce := by
  unfold graftPorts
  extract_lets t1 t2
  have h1 : t1.inForce = s.inForce := foldl_inForce portGone_inForce _ _
  have h2 : t2.inForce = t1.inForce := foldl_inForce (fun _ _ => by rfl) _ _
  exact (foldl_inForce groupEval_inForce _ _).trans (h2.trans h1)

theorem graftOdus_inForce : (graftOdus s old m).inForce = s.inForce := by
  unfold graftOdus
  extract_lets gone lost t
  have ht : t.inForce = s.inForce := rfl
  exact (foldl_inForce (fun u i => (putStat_inForce _ _ _ _ _).trans (putStat_inForce u _ _ _ _)) _ _).trans ht

theorem graftTrace_inForce : (graftTrace s m).inForce = s.inForce := by
  unfold graftTrace
  extract_lets tim t1 t2
  have htim : ∀ u e b, (tim u e b).inForce = u.inForce := fun u e b => setDefNext_inForce u _ _ _
  have h1 : t1.inForce = s.inForce := foldl_inForce (fun u x => (htim _ _ _).trans (htim u _ _)) _ _
  have h2 : t2.inForce = t1.inForce := foldl_inForce (fun u d => by
    extract_lets v
    have hv : v.inForce = u.inForce := (setDefNext_inForce _ _ _ _).trans (htim u _ _)
    exact (foldl_inForce (fun w k => ite_inForce (htim w _ _) rfl) _ _).trans hv) _ _
  exact (foldl_inForce (fun u c => setDefNext_inForce u _ _ _) _ _).trans (h2.trans h1)

/-! Protection groups across the flip (R134, R196, R197). -/

theorem putTx_inForce (d : ProtDef) (tx : List Byte) : (putTx s d tx).inForce = s.inForce := by
  unfold putTx
  exact ite_inForce rfl rfl

theorem nrSend_inForce (d : ProtDef) : (nrSend s d).inForce = s.inForce := (updGrp_inForce _ _ _).trans (putTx_inForce s d _)

theorem apsRestart_inForce (d : ProtDef) : (apsRestart s d).inForce = s.inForce :=
  ite_inForce rfl (foldl_inForce (fun u i => updOdu_inForce u i _) _ _)

/-- A group that starts anew, whatever its record, with its NR. -/
theorem groupAnew_inForce (d : ProtDef) (f : Grp → Grp) : (nrSend ((apsRestart s d).updGrp d.idx f) d).inForce = s.inForce :=
  ((nrSend_inForce _ d).trans (updGrp_inForce _ _ _)).trans (apsRestart_inForce s d)

theorem protSwitched_inForce (n : Nat) : (protSwitched s n).inForce = s.inForce := by
  unfold protSwitched
  extract_lets v t u
  have ht : t.inForce = s.inForce := updGrp_inForce s n _
  have hu : u.inForce = t.inForce := ite_inForce (mapBit_inForce t _ _) rfl
  exact (evt_inForce u _ _).trans (hu.trans ht)

theorem selRecount_inForce (n : Nat) (was mid now : Bool) : (selRecount s n was mid now).inForce = s.inForce :=
  ite_inForce (protSwitched_inForce s n) (ite_inForce (updGrp_inForce s n _) rfl)

theorem protEvent_inForce (n kind fn : Nat) : (protEvent s n kind fn).inForce = s.inForce := postOwned_inForce s _ _ _

theorem groupMove_inForce (pre : State) (o d : ProtDef) : (groupMove pre s o d).inForce = s.inForce := by
  unfold groupMove
  extract_lets g t1 t2 t3 t4
  have h1 : t1.inForce = s.inForce := groupAnew_inForce s d _
  have h2 : t2.inForce = s.inForce := (selRecount_inForce t1 _ _ _ _).trans h1
  have h3 : t3.inForce = s.inForce := ite_inForce h2 ((protEvent_inForce t2 _ _ _).trans h2)
  have h4 : t4.inForce = s.inForce := ite_inForce h3 ((protEvent_inForce t3 _ _ _).trans h3)
  exact ite_inForce h2 ((protEvent_inForce t4 _ _ _).trans h4)

theorem graftGroup_inForce (pre : State) (d : ProtDef) : (graftGroup pre s old d).inForce = s.inForce := by
  unfold graftGroup
  extract_lets new
  have hnew : new.inForce = s.inForce := groupAnew_inForce s d _
  split
  · exact ite_inForce (updGrp_inForce s _ _) (ite_inForce (groupMove_inForce s pre _ d) hnew)
  · exact hnew

theorem groupGone_inForce (n : Nat) : (groupGone s n).inForce = s.inForce := by
  unfold groupGone
  extract_lets t u
  have ht : t.inForce = s.inForce := putStat_inForce s _ _ _ _
  have hu : u.inForce = t.inForce := by simp only [u, wr_inForce]
  exact (groups_inForce u _).trans (hu.trans ht)

theorem grpRegs_inForce (d : ProtDef) : (grpRegs s d).inForce = s.inForce := by
  unfold grpRegs
  simp only [wr_inForce, putStat_inForce]

theorem graftGroups_inForce (pre : State) : (graftGroups pre s old m).inForce = s.inForce := by
  unfold graftGroups
  extract_lets t legs aps u v
  have ht : t.inForce = s.inForce := foldl_inForce (fun w _ => groupGone_inForce w _) _ _
  have hu : u.inForce = t.inForce := legsSent_inForce t _ _ _
  have hv : v.inForce = u.inForce := foldl_inForce (fun w d => graftGroup_inForce w old pre d) _ _
  exact (foldl_inForce grpRegs_inForce _ _).trans ((groupsChk_inForce v _).trans (hv.trans (hu.trans ht)))

/-! Engines and timing across the flip (R133, R134, R203). -/

theorem setDuties_inForce (l : List (Nat × Nat × Dword)) : (setDuties s l).inForce = s.inForce :=
  foldl_inForce (fun t _ => updEng_inForce t _ _) _ _

theorem engStates_inForce : (engStates s).inForce = s.inForce := foldl_inForce (fun t _ => ite_inForce rfl (setFld_inForce t _ _ _)) _ _

theorem engLive_inForce : (engLive s).inForce = s.inForce := foldl_inForce (fun t p => updEng_inForce t p _) _ _

theorem graftEngines_inForce : (graftEngines s old m).inForce = s.inForce := by
  unfold graftEngines
  extract_lets l t
  have ht : t.inForce = s.inForce := foldl_inForce (fun u _ => ite_inForce (setFlag_inForce u _ _ _) rfl) _ _
  exact (((setDuties_inForce _ l).trans (engLive_inForce _)).trans (engStates_inForce t)).trans ht

theorem timSettings_inForce : (timSettings s m).inForce = s.inForce := by
  unfold timSettings
  extract_lets g t
  have ht : t.inForce = s.inForce := foldl_inForce (fun u x => wr_inForce u _ _) _ _
  refine (foldl_inForce (fun u n => ?_) _ _).trans ht
  exact ite_inForce ((wr_inForce _ _ _).trans (wr_inForce u _ _)) ((wr_inForce _ _ _).trans (wr_inForce u _ _))

theorem refClear_inForce (n : Nat) : (refClear s n).inForce = s.inForce := by
  unfold refClear
  extract_lets t
  have ht : t.inForce = s.inForce := foldl_inForce (fun u a => ite_inForce rfl (wr_inForce u a 0)) _ _
  exact (refs_inForce t _).trans ht

theorem loopSet_inForce : (loopSet s).inForce = s.inForce := ite_inForce rfl (tim_inForce s _)

theorem setTimSt_inForce (st : Nat) : (setTimSt s st).inForce = s.inForce := by
  unfold setTimSt
  refine ite_inForce rfl ?_
  extract_lets t
  have ht : t.inForce = s.inForce := setFld_inForce s _ _ _
  split
  · exact (evt_inForce t _ _).trans ht
  · exact (evt_inForce t _ _).trans ht
  · exact (evt_inForce t _ _).trans ht
  · exact ht

theorem timHold_inForce : (timHold s).inForce = s.inForce := by
  unfold timHold
  extract_lets t
  have ht : t.inForce = s.inForce := (dropNewFn_inForce _).trans (setFld_inForce s _ _ _)
  exact ite_inForce ((setTimSt_inForce t _).trans ht) ht

theorem timSwitch_inForce (n : Nat) : (timSwitch s n).inForce = s.inForce := by
  unfold timSwitch
  extract_lets t1 t2 t3 t4 t5
  have h1 : t1.inForce = s.inForce := ((loopSet_inForce _).trans (dropNewFn_inForce _)).trans (setFld_inForce s _ _ _)
  have h2 : t2.inForce = t1.inForce := (count_inForce _ _ _ _).trans (evt_inForce t1 _ _)
  have h3 : t3.inForce = t2.inForce := updRef_inForce t2 n _
  have h4 : t4.inForce = t3.inForce := ite_inForce (setTimSt_inForce t3 1) rfl
  have h5 : t5.inForce = t4.inForce := setFlag_inForce t4 _ _ _
  exact (tim_inForce t5 _).trans (h5.trans (h4.trans (h3.trans (h2.trans h1))))

theorem timSelect_inForce : (timSelect s).inForce = s.inForce := by
  have hsw := timSwitch_inForce s
  unfold timSelect
  dsimp only
  refine ite_inForce (timHold_inForce s) (ite_inForce (ite_inForce (timHold_inForce s) rfl) ?_)
  split
  · exact timHold_inForce s
  · exact ite_inForce rfl (ite_inForce (hsw _) (ite_inForce (hsw _) (ite_inForce (hsw _) (ite_inForce (hsw _) rfl))))

theorem dispute_inForce : (dispute s).inForce = s.inForce := by
  unfold dispute
  extract_lets tie
  exact ite_inForce rfl (foldl_inForce (fun t n => by simp only [evt_inForce, updRef_inForce, setRefSt, setFld_inForce]) _ _)

theorem timOutput_inForce : (timOutput s).inForce = s.inForce := by
  unfold timOutput
  extract_lets want lim f t outside u
  have ht : t.inForce = s.inForce := wr_inForce s _ _
  have hu : u.inForce = t.inForce := ite_inForce ((count_inForce _ _ _ _).trans (evt_inForce t _ _)) rfl
  exact (setFlag_inForce u _ _ _).trans (hu.trans ht)

theorem refShow_inForce (n : Nat) : (refShow s n).inForce = s.inForce := by
  unfold refShow
  extract_lets a r t u v
  have ht : t.inForce = s.inForce := ite_inForce (evt_inForce s _ _) rfl
  have hu : u.inForce = t.inForce := setFld_inForce t _ _ _
  have hv : v.inForce = u.inForce := setFlag_inForce u _ _ _
  exact ((wr_inForce _ _ _).trans (setFlag_inForce v _ _ _)).trans (hv.trans (hu.trans ht))

theorem squelch_inForce : (squelch s).inForce = s.inForce := foldl_inForce (fun t _ => setFlag_inForce t _ _ _) _ _

theorem timShow_inForce : (timShow s).inForce = s.inForce := by
  unfold timShow
  extract_lets keep r t u tim v
  have ht : t.inForce = s.inForce := ite_inForce rfl (evt_inForce s _ _)
  have hu : u.inForce = t.inForce := setFld_inForce t _ _ _
  have hv : v.inForce = s.inForce := ite_inForce rfl ((tim_inForce u _).trans (hu.trans ht))
  exact (squelch_inForce v).trans hv

theorem timRedo_inForce : (timRedo s).inForce = s.inForce := by
  unfold timRedo
  extract_lets t u v
  have ht : t.inForce = s.inForce := foldl_inForce refClear_inForce _ _
  have hu : u.inForce = s.inForce := (((loopSet_inForce _).trans (timSelect_inForce _)).trans (dispute_inForce t)).trans ht
  have hv : v.inForce = s.inForce := ite_inForce hu ((timOutput_inForce u).trans hu)
  exact (foldl_inForce refShow_inForce _ _).trans ((timShow_inForce v).trans hv)

theorem graftTiming_inForce : (graftTiming s old m).inForce = s.inForce := by
  unfold graftTiming
  extract_lets cfg ty pri new t1 t2 t3
  have h1 : t1.inForce = s.inForce := timSettings_inForce s m
  have h2 : t2.inForce = t1.inForce := foldl_inForce (fun u n => ite_inForce (updRef_inForce u n _) rfl) _ _
  have h3 : t3.inForce = t2.inForce :=
    foldl_inForce (fun u n => ite_inForce ((updRef_inForce _ n _).trans (setFld_inForce u _ _ _)) rfl) _ _
  exact (timRedo_inForce t3).trans (h3.trans (h2.trans h1))

/-! Settings (R133, R302, R319). -/

theorem ownTable_inForce (base : Nat) : (ownTable s m base).inForce = s.inForce :=
  ((wr_inForce _ _ _).trans (wrPair_inForce _ _ _)).trans (putCopy_inForce s m _ _)

theorem planSettings_inForce : (planSettings s m).inForce = s.inForce := foldl_inForce (fun t _ => setFld_inForce t _ _ _) _ _

theorem chanSettings_inForce : (chanSettings s m).inForce = s.inForce :=
  foldl_inForce (fun t c => by simp only [wr_inForce, setFld_inForce]) _ _

theorem xbarSettings_inForce : (xbarSettings s m).inForce = s.inForce := foldl_inForce (fun t i => by
  split
  · exact (wr_inForce _ _ _).trans (wr_inForce t _ _)
  · exact (wr_inForce _ _ _).trans (wr_inForce t _ _)) _ _

end Flip

/-! Egress frames and lasers after an event of offset 0 (R54, R206). -/

section Reform

variable (s : State)

theorem carEmit_inForce (p : CarPre) : (carEmit s p).inForce = s.inForce := (updCar_inForce _ _ _).trans (updOdu_inForce s _ _)

theorem qlAmend_inForce (m : Image) (p : CarPre) : (qlAmend s m p).inForce = s.inForce := by
  unfold qlAmend
  extract_lets oh q
  exact ite_inForce rfl ((framesSent_inForce _ _ _).trans (carEmit_inForce s q))

theorem qlReform_inForce : (qlReform s).inForce = s.inForce := by
  unfold qlReform
  split
  · exact ite_inForce (foldl_inForce (fun t p => qlAmend_inForce t _ p) _ _) rfl
  · rfl

theorem elsDrive_inForce : (elsDrive s).inForce = s.inForce := foldl_inForce (fun t f => by
  extract_lets on u
  have hu : u.inForce = t.inForce := (setElsRuns_inForce _ _ _).trans (setFlag_inForce t _ _ _)
  exact ite_inForce rfl (ite_inForce hu ((setFld_inForce u _ _ _).trans hu))) _ _

theorem elsReform_inForce : (elsReform s).inForce = s.inForce := ite_inForce ((elsCh_inForce _ _).trans (elsDrive_inForce s)) rfl

end Reform

/-! The graft queue (R126, R129, R133). -/

section Queue

variable (s : State)

theorem graftMark_inForce (n : Nat) (m : Image) : (graftMark s n m).inForce = s.inForce := by
  unfold graftMark
  extract_lets t u v w
  have ht : t.inForce = s.inForce := (putRes_inForce _ _ _ _).trans (setFld_inForce s _ _ _)
  have hu : u.inForce = t.inForce := (count_inForce _ _ _ _).trans (evt_inForce t _ _)
  have hw : w.inForce = v.inForce := (wrPair_inForce _ _ _).trans (setFlag_inForce v _ _ _)
  exact (putDigest_inForce w _ _).trans (hw.trans ((grafts_inForce u _).trans (hu.trans ht)))

theorem graftBegin_inForce : (graftBegin s).inForce = s.inForce := by
  unfold graftBegin
  split
  · refine ite_inForce rfl ?_
    extract_lets size
    exact (grafts_inForce _ _).trans (wr_inForce s _ _)
  · rfl

theorem reject1_inForce (n code detail : Nat) : (reject1 s n code detail).inForce = s.inForce := by
  unfold reject1
  extract_lets t u
  have ht : t.inForce = s.inForce := ite_inForce (setFlag_inForce s _ _ _) rfl
  have hu : u.inForce = t.inForce := ((evt_inForce _ _ _).trans (putRes_inForce _ _ _ _)).trans (setFld_inForce t _ _ _)
  exact (grafts_inForce u _).trans (hu.trans ht)

theorem chainBreak_inForce (t : Nat) : (chainBreak s t).inForce = s.inForce :=
  (graftBegin_inForce _).trans (foldl_inForce (fun u k => reject1_inForce u k _ _) _ _)

theorem graftReject_inForce (n code detail : Nat) : (graftReject s n code detail).inForce = s.inForce := by
  unfold graftReject
  extract_lets st t u
  have hu : u.inForce = s.inForce := reject1_inForce s n code detail
  exact ite_inForce ((chainBreak_inForce u t).trans hu) hu

end Queue

end Sys2Proof.Machine

namespace Sys2Proof.Machine

/-! The flip itself: what it puts into force (R118, R133, R166). -/

/-- The new image takes force, and the old one is the rollback copy. -/
def InForce.images (f : InForce) (old m : Image) : InForce := { f with img := some m, back := some old }

/-- The trunk selector bits change as the outputs do. -/
def InForce.trunkSels (f : InForce) (old m : Image) : InForce := { f with selW := keepSel old m f.selW, selF := keepSel old m f.selW }

/-- The leaf selector bits change as the records do. -/
def InForce.leafSels (f : InForce) (old m : Image) : InForce := { f with lselW := keepLsel old m f.lselW, lselF := keepLsel old m f.lselW }

section Flipped

variable (s : State) (old m : Image)

theorem trunkSels_inForce :
    ({ s with selW := keepSel old m s.selW, selF := keepSel old m s.selW } : State).inForce = s.inForce.trunkSels old m := rfl

theorem leafSels_inForce :
    ({ s with lselW := keepLsel old m s.lselW, lselF := keepLsel old m s.lselW } : State).inForce = s.inForce.leafSels old m := rfl

theorem leafTables_inForce : (leafTables s m).inForce = s.inForce :=
  foldl_inForce (fun t _ => (wrPair_inForce _ _ _).trans (putCopy_inForce t m _ _)) _ _

theorem leafMapFlip_inForce : (leafMapFlip s old m).inForce = s.inForce.leafSels old m := by
  unfold leafMapFlip
  extract_lets t sel u r
  have ht : t.inForce = s.inForce := leafTables_inForce s m
  have hu : u.inForce = t.inForce.leafSels old m := leafSels_inForce t old m
  rw [← ht, ← hu]
  exact ite_inForce (leafRd_inForce u _) rfl

theorem carRegsGone_inForce (c : Nat) : (carRegsGone s c).inForce = s.inForce := by
  unfold carRegsGone
  extract_lets t
  have ht : t.inForce = s.inForce := ite_inForce rfl ((mapBit_inForce _ _ _).trans (wr_inForce s _ _))
  exact (foldl_inForce (fun u a => ite_inForce rfl (wr_inForce u a 0)) _ _).trans ht

theorem leafCarFlip_inForce : (leafCarFlip s old m).inForce = s.inForce := by
  unfold leafCarFlip
  extract_lets gone idle t u
  have ht : t.inForce = s.inForce := rfl
  have hu : u.inForce = t.inForce := foldl_inForce carRegsGone_inForce _ _
  exact (foldl_inForce (fun v c => setDefNext_inForce v _ _ _) _ _).trans (hu.trans ht)

theorem graftLeaf_inForce : (graftLeaf s old m).inForce = s.inForce.leafSels old m :=
  (leafCarFlip_inForce _ old m).trans (leafMapFlip_inForce s old m)

theorem graftTrunk_inForce : (graftTrunk s old m).inForce = s.inForce.trunkSels old m := by
  unfold graftTrunk
  extract_lets st t u sel v moved
  have ht : t.inForce = s.inForce := (setFlag_inForce _ _ _ _).trans (setFlag_inForce s _ _ _)
  have hu : u.inForce = s.inForce := (wrPair_inForce t _ _).trans ht
  have hv : v.inForce = u.inForce.trunkSels old m := trunkSels_inForce u old m
  rw [← hu, ← hv]
  exact foldl_inForce (fun w _ => recentre_inForce w _) _ _

/-- Only the images and the selectors flip: every other part of the flip leaves them, the frame and the fuses. -/
theorem graftFlip_inForce : (graftFlip s old m).inForce = ((s.inForce.images old m).trunkSels old m).leafSels old m := by
  unfold graftFlip
  extract_lets pre rem queues images posted sels parts groups timing o own pm leafPm stage settings
  have hqueues : queues.inForce = s.inForce := graftQueues_inForce s old m
  have himages : images.inForce = queues.inForce.images old m := rfl
  have hposted : posted.inForce = images.inForce := foldl_inForce (fun u _ => postRole_inForce u _ _ _ _ _) _ _
  have hsels : sels.inForce = (posted.inForce.trunkSels old m).leafSels old m := by
    rw [← graftTrunk_inForce, ← graftLeaf_inForce]
  have hparts : parts.inForce = sels.inForce :=
    ((graftPm_inForce _ old m).trans (graftOdus_inForce _ old m)).trans (graftPorts_inForce sels old m)
  have hgroups : groups.inForce = parts.inForce := (graftEngines_inForce _ old m).trans (graftGroups_inForce parts old m pre)
  have htiming : timing.inForce = groups.inForce := (graftTiming_inForce _ old m).trans (graftTrace_inForce groups m)
  have hown : own.inForce = timing.inForce := ownTable_inForce timing m _
  have hpm : pm.inForce = own.inForce := (wrPair_inForce _ _ _).trans (wrPair_inForce own _ _)
  have hleafPm : leafPm.inForce = pm.inForce := (wrPair_inForce _ _ _).trans (wrPair_inForce pm _ _)
  have hstage : stage.inForce = leafPm.inForce := wrPair_inForce leafPm _ _
  have hsettings : settings.inForce = stage.inForce :=
    ((planSettings_inForce _ m).trans (chanSettings_inForce _ m)).trans (xbarSettings_inForce stage m)
  rw [← hqueues, ← himages, ← hposted, ← hsels, ← hparts, ← hgroups, ← htiming, ← hown, ← hpm, ← hleafPm, ← hstage, ← hsettings]
  exact (allStat_inForce _).trans (drainDue_inForce settings _)

end Flipped

end Sys2Proof.Machine

namespace Sys2Proof.Machine

/-! Tables that a fold writes. -/

section TabFold

variable {α β : Type} [DecidableEq α] {d : Nat → α} (key : β → Nat) (val : β → α)

theorem Tab.get_foldl_set_other {m : List (Nat × α)} (h : Tab.wf d m = true) {k : Nat} {l : List β} (hk : ∀ b ∈ l, key b ≠ k) :
    Tab.get d (l.foldl (fun t b => Tab.set d t (key b) (val b)) m) k = Tab.get d m k := by
  induction l generalizing m with
  | nil => rfl
  | cons b l ih =>
    obtain ⟨hb, hl⟩ := List.forall_mem_cons.mp hk
    exact (ih (Tab.wf_set d h _ _) hl).trans (Tab.get_set_other d h hb.symm _)

/-- With keys that do not recur, each key reads what was written there. -/
theorem Tab.get_foldl_set_self {m : List (Nat × α)} (h : Tab.wf d m = true) {l : List β} (hnodup : (l.map key).Nodup) {b : β} (hb : b ∈ l) :
    Tab.get d (l.foldl (fun t b => Tab.set d t (key b) (val b)) m) (key b) = val b := by
  induction l generalizing m with
  | nil => cases hb
  | cons c l ih =>
    obtain ⟨hc, hl⟩ := List.nodup_cons.mp hnodup
    rcases List.mem_cons.mp hb with rfl | hb
    · have hother : ∀ e ∈ l, key e ≠ key b := fun e he heq => hc (heq ▸ List.mem_map_of_mem he)
      exact (Tab.get_foldl_set_other key val (Tab.wf_set d h _ _) hother).trans (Tab.get_set_self d h _ _)
    · exact ih (Tab.wf_set d h _ _) hl hb

end TabFold

/-! Selector bits across a graft (R120, R166). -/

section Selectors

variable {old m : Image} {l : List (Nat × Bool)}

/-- The bit that an output's selector takes. -/
def selAfter (old m : Image) (l : List (Nat × Bool)) (d : OutDef) : Bool :=
  let kept := !(movedSels old m false).contains d.out && match old.out? d.out with
    | some x => sameSources x d
    | none => false
  if kept then tabGet false l d.out else d.init

theorem keepSel_eq (old m : Image) (l : List (Nat × Bool)) : keepSel old m l =
    (m.outs.filter fun d => d.kind == 2 || d.kind == 3).foldl (fun t d => tabSet false t d.out (selAfter old m l d)) [] := rfl

theorem tabGet_keepSel (hnodup : (m.outs.map (·.out)).Nodup) {d : OutDef} (hd : d ∈ m.outs) (hkind : d.kind = 2 ∨ d.kind = 3) :
    tabGet false (keepSel old m l) d.out = selAfter old m l d := by
  have hmem : d ∈ m.outs.filter fun d => d.kind == 2 || d.kind == 3 := List.mem_filter.mpr ⟨hd, by simpa using hkind⟩
  have hsub : ((m.outs.filter fun d => d.kind == 2 || d.kind == 3).map (·.out)).Nodup :=
    hnodup.sublist (List.filter_sublist.map _)
  rw [keepSel_eq]
  exact Tab.get_foldl_set_self (·.out) (selAfter old m l) (Tab.wf_nil _) hsub hmem

theorem tabGet_keepSel_none {o : Nat} (h : ∀ d ∈ m.outs, d.out = o → d.kind ≠ 2 ∧ d.kind ≠ 3) :
    tabGet false (keepSel old m l) o = false := by
  rw [keepSel_eq]
  refine Tab.get_foldl_set_other (·.out) (selAfter old m l) (Tab.wf_nil _) fun d hd ho => ?_
  obtain ⟨hmem, hkind⟩ := List.mem_filter.mp hd
  obtain ⟨h2, h3⟩ := h d hmem ho
  simp [h2, h3] at hkind

theorem selAfter_kept {d x : OutDef} (hmoved : d.out ∉ movedSels old m false) (hx : old.out? d.out = some x) (hkind : x.kind = d.kind)
    (ha : x.a = d.a) (hb : x.b = d.b) : selAfter old m l d = tabGet false l d.out := by
  simp [selAfter, hmoved, hx, sameSources, hkind, ha, hb]

theorem selAfter_moved {d : OutDef} (hmoved : d.out ∈ movedSels old m false) : selAfter old m l d = d.init := by
  simp [selAfter, hmoved]

theorem selAfter_other_sources {d : OutDef} (hkind : d.kind = 2 ∨ d.kind = 3)
    (h : ∀ x, old.out? d.out = some x → x.kind ≠ d.kind ∨ x.a ≠ d.a ∨ d.kind = 2 ∧ x.b ≠ d.b) : selAfter old m l d = d.init := by
  unfold selAfter
  cases hx : old.out? d.out with
  | none => simp
  | some x =>
    have hdiff : sameSources x d = false := by
      have hx' := h x hx
      simp only [sameSources, Bool.and_eq_false_iff, Bool.or_eq_false_iff, beq_eq_false_iff_ne, bne_eq_false_iff_eq]
      grind
    simp [hdiff]

/-- The bit that a leaf selector record takes. -/
def lselAfter (old m : Image) (l : List (Nat × Bool)) (r : Nat) : Bool :=
  let kept := !(movedSels old m true).contains r && old.srecKey r == m.srecKey r
  if kept then tabGet false l r else m.srecInit r

theorem keepLsel_eq (old m : Image) (l : List (Nat × Bool)) : keepLsel old m l =
    (List.range m.srecCount).foldl (fun t r => tabSet false t r (lselAfter old m l r)) [] := rfl

theorem tabGet_keepLsel {r : Nat} (hr : r < m.srecCount) : tabGet false (keepLsel old m l) r = lselAfter old m l r := by
  rw [keepLsel_eq]
  exact Tab.get_foldl_set_self id (lselAfter old m l) (Tab.wf_nil _) (by simpa using List.nodup_range) (List.mem_range.mpr hr)

theorem tabGet_keepLsel_none {r : Nat} (hr : m.srecCount ≤ r) : tabGet false (keepLsel old m l) r = false := by
  rw [keepLsel_eq]
  refine Tab.get_foldl_set_other id (lselAfter old m l) (Tab.wf_nil _) fun q hq (hqr : q = r) => ?_
  have hlt := List.mem_range.mp hq
  omega

theorem lselAfter_kept {r : Nat} (hmoved : r ∉ movedSels old m true) (hkey : old.srecKey r = m.srecKey r) :
    lselAfter old m l r = tabGet false l r := by
  simp [lselAfter, hmoved, hkey]

theorem lselAfter_changed {r : Nat} (h : r ∈ movedSels old m true ∨ old.srecKey r ≠ m.srecKey r) :
    lselAfter old m l r = m.srecInit r := by
  rcases h with h | h <;> simp [lselAfter, h]

end Selectors

/-! Registers of the graft queue (R126, R133, R142). -/

section GraftRegs

variable {s : State}

theorem leNat_lt : ∀ l : List Byte, leNat l < 256 ^ l.length
  | [] => Nat.one_pos
  | b :: r => by
    have hr := leNat_lt r
    have hb : b.toNat < 256 := b.isLt
    rw [leNat, List.length_cons, Nat.pow_succ]
    omega

theorem slice_length (l : List Byte) (o n : Nat) : (slice l o n).length = n := by
  simp only [slice, List.length_append, List.length_replicate, List.length_take]
  omega

theorem leAt_lt (l : List Byte) (o n : Nat) : leAt l o n < 256 ^ n := by
  have h := leNat_lt (slice l o n)
  rwa [slice_length] at h

theorem putDigest_regs (s : State) (a : Nat) (d : List Byte) : (s.putDigest a d).regs =
    (List.range 8).foldl (fun t i => Tab.set regReset t (a + 4 * i) (BitVec.ofNat 32 (leAt d (4 * i) 4))) s.regs :=
  (List.foldl_hom State.regs fun _ _ => rfl).symm

theorem rd_putDigest_other (h : Tab.wf regReset s.regs = true) {a b : Nat} (d : List Byte) (hb : b < a ∨ a + 32 ≤ b) :
    (s.putDigest a d).rd b = s.rd b := by
  unfold State.rd
  rw [putDigest_regs, Tab.get_foldl_set_other (fun i => a + 4 * i) _ h fun i hi => ?_]
  have hlt : i < 8 := List.mem_range.mp hi
  omega

theorem rd_putDigest_self (h : Tab.wf regReset s.regs = true) (a : Nat) (d : List Byte) {i : Nat} (hi : i < 8) :
    (s.putDigest a d).rd (a + 4 * i) = leAt d (4 * i) 4 := by
  have hnodup : ((List.range 8).map fun i => a + 4 * i).Nodup :=
    List.Pairwise.map _ (fun x y (hxy : x ≠ y) => by omega) List.nodup_range
  unfold State.rd
  rw [putDigest_regs, Tab.get_foldl_set_self (fun i => a + 4 * i) _ h hnodup (List.mem_range.mpr hi), BitVec.toNat_ofNat]
  exact Nat.mod_eq_of_lt (leAt_lt d _ 4)

theorem wrPair_wf (h : Tab.wf regReset s.regs = true) (a v : Nat) : Tab.wf regReset (s.wrPair a v).regs = true :=
  State.wr_wf (State.wr_wf h _ _) _ _

theorem rd_wrPair_other (h : Tab.wf regReset s.regs = true) {a b : Nat} (v : Nat) (h0 : b ≠ a) (h4 : b ≠ a + 4) :
    (s.wrPair a v).rd b = s.rd b :=
  (State.rd_wr_other (State.wr_wf h _ _) _ h4).trans (State.rd_wr_other h _ h0)

theorem rdPair_wrPair (h : Tab.wf regReset s.regs = true) (a : Nat) {v : Nat} (hv : v < 2 ^ 64) : (s.wrPair a v).rdPair a = v := by
  have hlo : (s.wrPair a v).rd a = v % 4294967296 % 4294967296 :=
    (State.rd_wr_other (State.wr_wf h _ _) _ (by omega)).trans (State.rd_wr_self h _ _)
  have hhi : (s.wrPair a v).rd (a + 4) = v / 4294967296 % 4294967296 % 4294967296 := State.rd_wr_self (State.wr_wf h _ _) _ _
  rw [State.rdPair, hlo, hhi]
  omega

/-- `t` reads what `s` reads in the graft registers, and above. -/
structure SameGraftRegs (s t : State) : Prop where
  wf : Tab.wf regReset t.regs = true
  rd : ∀ a, 0xA00000 ≤ a → t.rd a = s.rd a

theorem SameGraftRegs.incPair {t : State} (h : SameGraftRegs s t) {lo wrapReg bit : Nat} (n : Nat) (hlo : lo + 4 < 0xA00000)
    (hwrap : wrapReg + 4 * (bit / 32) < 0xA00000) : SameGraftRegs s (t.incPair lo wrapReg bit n) := by
  have hpair : SameGraftRegs s (t.wrPair lo (t.rdPair lo + n)) :=
    ⟨wrPair_wf h.wf _ _, fun a ha => (rd_wrPair_other h.wf _ (by omega) (by omega)).trans (h.rd a ha)⟩
  unfold State.incPair
  dsimp only
  split
  · exact ⟨mapBit_wf hpair.wf _ _, fun a ha => (rd_mapBit_other hpair.wf (by omega)).trans (hpair.rd a ha)⟩
  · exact hpair

theorem SameGraftRegs.foldl {β : Type} {op : State → β → State} {t : State} {l : List β} (ht : SameGraftRegs s t)
    (hop : ∀ u b, SameGraftRegs s u → SameGraftRegs s (op u b)) : SameGraftRegs s (l.foldl op t) := by
  induction l generalizing t with
  | nil => exact ht
  | cons b l ih => exact ih (hop t b ht)

theorem SameGraftRegs.counted {t : State} (h : SameGraftRegs s t) {k lo n : Nat} {c : Bool} (hlo : k < 256 → lo + 4 < 0xA00000) :
    SameGraftRegs s (if decide (k < 256) && c then t.incPair lo (Reg.PMON_WRAP 0) k n else t) := by
  split
  · next hc =>
    have hk : k < 256 := of_decide_eq_true (Bool.and_eq_true_iff.mp hc).1
    exact h.incPair n (hlo hk) (by unfold Reg.PMON_WRAP; omega)
  · exact h

/-- Counting changes performance-monitor counters only, which lie below the graft registers (R266). -/
theorem SameGraftRegs.countIf (h : Tab.wf regReset s.regs = true) (frozen bnd : Bool) (ev u n : Nat) :
    SameGraftRegs s (s.countIf frozen bnd ev u n) := by
  have hs : SameGraftRegs s s := ⟨h, fun _ _ => rfl⟩
  unfold State.countIf
  extract_lets old t
  have ht : SameGraftRegs s t := hs.foldl fun v kw hv => by
    rw [Bool.and_assoc]
    exact hv.counted fun hk => by unfold Reg.PMON_CNT_LO; omega
  split
  · exact hs
  · exact ht.foldl fun v kw hv => hv.counted fun hk => by unfold Reg.PMON_LAST_LO; omega

theorem SameGraftRegs.count (h : Tab.wf regReset s.regs = true) (ev u n : Nat) : SameGraftRegs s (s.count ev u n) :=
  SameGraftRegs.countIf h _ _ ev u n

/-- An entry APPLIED with OK, and the event. -/
def appliedShown (s : State) (n : Nat) : State := ((setG s n 5).putRes (Reg.GRAFT_E_RES n) cOK 0).evt Reg.GRAFT_EVT F.GRAFT_EVT_APPLIED

/-- The rollback copy, the frame and the running digest shown of a graft. -/
def graftShown (s : State) (m : Image) : State :=
  ((s.setFlag Reg.GRAFT_STAT F.GRAFT_STAT_ROLLBACK_AVAIL true).wrPair Reg.GRAFT_LAST_FN_LO s.fnN).putDigest (Reg.GRAFT_RUN_DIGEST 0) m.digest

theorem graftMark_eq (s : State) (n : Nat) (m : Image) : graftMark s n m =
    graftShown { (appliedShown s n).count 0xD0 0 1 with grafts := tabSet {} ((appliedShown s n).count 0xD0 0 1).grafts n {} } m := by
  rfl

theorem appliedShown_wf (h : Tab.wf regReset s.regs = true) (n : Nat) : Tab.wf regReset (appliedShown s n).regs = true :=
  evt_wf (State.wr_wf (setFld_wf h _ _ _) _ _) _ _

theorem appliedShown_state (h : Tab.wf regReset s.regs = true) (n : Nat) : (appliedShown s n).gSt n = 5 := by
  have hset := setFld_wf h (Reg.GRAFT_E_STAT n) F.GRAFT_E_STAT_STATE 5
  have hrd : (appliedShown s n).rd (Reg.GRAFT_E_STAT n) = (setG s n 5).rd (Reg.GRAFT_E_STAT n) :=
    (rd_evt_other (State.wr_wf hset _ _) (by unfold Reg.GRAFT_E_STAT Reg.GRAFT_EVT; omega)).trans
      (State.rd_wr_other hset _ (by unfold Reg.GRAFT_E_STAT Reg.GRAFT_E_RES; omega))
  exact (fld_of_rd_eq hrd).trans (State.fld_setFld h _ F.GRAFT_E_STAT_STATE 5 (by decide))

theorem appliedShown_result (h : Tab.wf regReset s.regs = true) (n : Nat) : (appliedShown s n).valid (Reg.GRAFT_E_RES n) = true := by
  have hset := setFld_wf h (Reg.GRAFT_E_STAT n) F.GRAFT_E_STAT_STATE 5
  have hrd : (appliedShown s n).rd (Reg.GRAFT_E_RES n) = ((setG s n 5).putRes (Reg.GRAFT_E_RES n) cOK 0).rd (Reg.GRAFT_E_RES n) :=
    rd_evt_other (State.wr_wf hset _ _) (by unfold Reg.GRAFT_E_RES Reg.GRAFT_EVT; omega)
  obtain ⟨hvalid, -⟩ := State.putRes_spec hset (Reg.GRAFT_E_RES n) cOK 0
  exact (congrArg (bitAt · 31) hrd).trans hvalid

theorem appliedShown_event (h : Tab.wf regReset s.regs = true) (n : Nat) :
    (appliedShown s n).flag Reg.GRAFT_EVT F.GRAFT_EVT_APPLIED = true :=
  flag_evt_self (State.wr_wf (setFld_wf h _ _ _) _ _) (by decide)

section Shown

variable {m : Image} (h : Tab.wf regReset s.regs = true)
include h

theorem rd_graftShown_other {a : Nat} (hstat : a ≠ Reg.GRAFT_STAT) (ha : a < Reg.GRAFT_RUN_DIGEST 0 ∨ Reg.GRAFT_LAST_FN_HI < a) :
    (graftShown s m).rd a = s.rd a := by
  have hset := setFlag_wf h Reg.GRAFT_STAT F.GRAFT_STAT_ROLLBACK_AVAIL true
  simp only [Reg.GRAFT_RUN_DIGEST, Reg.GRAFT_LAST_FN_HI] at ha
  calc (graftShown s m).rd a
      = ((s.setFlag Reg.GRAFT_STAT F.GRAFT_STAT_ROLLBACK_AVAIL true).wrPair Reg.GRAFT_LAST_FN_LO s.fnN).rd a :=
        rd_putDigest_other (wrPair_wf hset _ _) _ (by unfold Reg.GRAFT_RUN_DIGEST; omega)
    _ = (s.setFlag Reg.GRAFT_STAT F.GRAFT_STAT_ROLLBACK_AVAIL true).rd a :=
        rd_wrPair_other hset _ (by unfold Reg.GRAFT_LAST_FN_LO; omega) (by unfold Reg.GRAFT_LAST_FN_LO; omega)
    _ = s.rd a := rd_setFld_other h hstat

theorem graftShown_rollback : (graftShown s m).flag Reg.GRAFT_STAT F.GRAFT_STAT_ROLLBACK_AVAIL = true := by
  have hset := setFlag_wf h Reg.GRAFT_STAT F.GRAFT_STAT_ROLLBACK_AVAIL true
  have hrd : (graftShown s m).rd Reg.GRAFT_STAT = (s.setFlag Reg.GRAFT_STAT F.GRAFT_STAT_ROLLBACK_AVAIL true).rd Reg.GRAFT_STAT :=
    (rd_putDigest_other (wrPair_wf hset _ _) _ (by decide)).trans (rd_wrPair_other hset _ (by decide) (by decide))
  exact (flag_of_rd_eq hrd).trans (flag_setFlag_self h (by decide) rfl true)

theorem graftShown_frame : (graftShown s m).rdPair Reg.GRAFT_LAST_FN_LO = s.fnN := by
  have hset := setFlag_wf h Reg.GRAFT_STAT F.GRAFT_STAT_ROLLBACK_AVAIL true
  have hfn : s.fnN < 2 ^ 64 := Nat.lt_trans s.fn.isLt (by decide)
  rw [State.rdPair, graftShown, rd_putDigest_other (wrPair_wf hset _ _) _ (by decide), rd_putDigest_other (wrPair_wf hset _ _) _ (by decide)]
  exact rdPair_wrPair hset _ hfn

theorem graftShown_digest {i : Nat} (hi : i < 8) : (graftShown s m).rd (Reg.GRAFT_RUN_DIGEST i) = leAt m.digest (4 * i) 4 :=
  rd_putDigest_self (wrPair_wf (setFlag_wf h _ _ _) _ _) (Reg.GRAFT_RUN_DIGEST 0) _ hi

end Shown

theorem fnN_of_inForce {t : State} (h : t.inForce = s.inForce) : t.fnN = s.fnN := congrArg (fun f => f.fn.toNat) h

theorem appliedShown_inForce (s : State) (n : Nat) : (appliedShown s n).inForce = s.inForce :=
  ((evt_inForce _ _ _).trans (putRes_inForce _ _ _ _)).trans (setFld_inForce s _ _ _)

/-- The shown entry stays shown beside the rollback copy, the frame and the digest. -/
theorem graftShown_applied {c : State} (h : Tab.wf regReset s.regs = true) {n : Nat} (hc : SameGraftRegs (appliedShown s n) c) (m : Image) :
    (graftShown c m).gSt n = 5 ∧ (graftShown c m).valid (Reg.GRAFT_E_RES n) = true ∧
      (graftShown c m).flag Reg.GRAFT_EVT F.GRAFT_EVT_APPLIED = true := by
  have hrd : ∀ a, a ≠ Reg.GRAFT_STAT → 0xA00000 ≤ a → (a < Reg.GRAFT_RUN_DIGEST 0 ∨ Reg.GRAFT_LAST_FN_HI < a) →
      (graftShown c m).rd a = (appliedShown s n).rd a := fun a hstat hlow ha =>
    (rd_graftShown_other hc.wf hstat ha).trans (hc.rd a hlow)
  have hentry : (graftShown c m).rd (Reg.GRAFT_E_STAT n) = (appliedShown s n).rd (Reg.GRAFT_E_STAT n) :=
    hrd _ (by unfold Reg.GRAFT_E_STAT Reg.GRAFT_STAT; omega) (by unfold Reg.GRAFT_E_STAT; omega)
      (.inr (by unfold Reg.GRAFT_E_STAT Reg.GRAFT_LAST_FN_HI; omega))
  have hresult : (graftShown c m).rd (Reg.GRAFT_E_RES n) = (appliedShown s n).rd (Reg.GRAFT_E_RES n) :=
    hrd _ (by unfold Reg.GRAFT_E_RES Reg.GRAFT_STAT; omega) (by unfold Reg.GRAFT_E_RES; omega)
      (.inr (by unfold Reg.GRAFT_E_RES Reg.GRAFT_LAST_FN_HI; omega))
  have hevent : (graftShown c m).rd Reg.GRAFT_EVT = (appliedShown s n).rd Reg.GRAFT_EVT :=
    hrd _ (by decide) (by decide) (.inl (by decide))
  exact ⟨(fld_of_rd_eq hentry).trans (appliedShown_state h n), (congrArg (bitAt · 31) hresult).trans (appliedShown_result h n),
    (flag_of_rd_eq hevent).trans (appliedShown_event h n)⟩

/-- What the registers show of an entry that applies (R133, R142). -/
theorem graftMark_shows (h : Tab.wf regReset s.regs = true) (n : Nat) (m : Image) :
    (graftMark s n m).gSt n = 5 ∧ (graftMark s n m).valid (Reg.GRAFT_E_RES n) = true ∧
      (graftMark s n m).flag Reg.GRAFT_EVT F.GRAFT_EVT_APPLIED = true ∧ (graftMark s n m).rdPair Reg.GRAFT_LAST_FN_LO = s.fnN ∧
      (graftMark s n m).flag Reg.GRAFT_STAT F.GRAFT_STAT_ROLLBACK_AVAIL = true ∧
      ((List.range 8).all fun i => (graftMark s n m).rd (Reg.GRAFT_RUN_DIGEST i) == leAt m.digest (4 * i) 4) = true := by
  have hcount := SameGraftRegs.count (appliedShown_wf h n) 0xD0 0 1
  rw [graftMark_eq]
  generalize hc : ({ (appliedShown s n).count 0xD0 0 1 with grafts := tabSet {} ((appliedShown s n).count 0xD0 0 1).grafts n {} } : State) = c
  have hregs : SameGraftRegs (appliedShown s n) c := hc ▸ ⟨hcount.wf, hcount.rd⟩
  have hfn : c.fnN = s.fnN := fnN_of_inForce (hc ▸ ((grafts_inForce _ _).trans (count_inForce _ _ _ _)).trans (appliedShown_inForce s n))
  obtain ⟨hstate, hresult, hevent⟩ := graftShown_applied h hregs m
  refine ⟨hstate, hresult, hevent, (graftShown_frame hregs.wf).trans hfn, graftShown_rollback hregs.wf, List.all_eq_true.mpr fun i hi => ?_⟩
  exact beq_iff_eq.mpr (graftShown_digest hregs.wf (List.mem_range.mp hi))

end GraftRegs

end Sys2Proof.Machine

namespace Sys2Proof.Machine

/-! GRAFT_APPLY and GRAFT_DOMAIN_DRAIN (R130, R133, R140). -/

/-- A marked entry goes into force: what ended is taken up, everything flips, and what that shows follows. -/
def taken (s : State) (old m : Image) : State := elsReform (qlReform (shoot (graftFlip (catchUp s) old m)))

theorem taken_inForce (s : State) (old m : Image) : (taken s old m).inForce = ((s.inForce.images old m).trunkSels old m).leafSels old m := by
  rw [← catchUp_inForce s, ← graftFlip_inForce]
  exact ((elsReform_inForce _).trans (qlReform_inForce _)).trans (shoot_inForce _)

/-- What is in force after the flip, part by part. -/
theorem parts_of_inForce {s t : State} {old m : Image} (h : t.inForce = ((s.inForce.images old m).trunkSels old m).leafSels old m) :
    t.img = some m ∧ t.back = some old ∧ t.fn = s.fn ∧ t.fuses = s.fuses ∧ t.selW = keepSel old m s.selW ∧ t.selF = t.selW ∧
      t.lselW = keepLsel old m s.lselW ∧ t.lselF = t.lselW :=
  ⟨congrArg InForce.img h, congrArg InForce.back h, congrArg InForce.fn h, congrArg InForce.fuses h, congrArg InForce.selW h,
    (congrArg InForce.selF h).trans (congrArg InForce.selW h).symm, congrArg InForce.lselW h,
    (congrArg InForce.lselF h).trans (congrArg InForce.lselW h).symm⟩

/-- The marks of an entry that applies, and the mark of a grove that the unit is not aligned for (R141). -/
def groveMark (s : State) (n : Nat) (m : Image) : State :=
  if s.flag (Reg.GRAFT_E_STAT n) F.GRAFT_E_STAT_GROVE && (graftMark s n m).fld Reg.FT_STAT F.FT_STAT_ALIGN_STATE ≠ 1 then
    (graftMark s n m).evt Reg.FT_EVT F.FT_EVT_GROVE_ASYNC
  else graftMark s n m

theorem groveMark_inForce (s : State) (n : Nat) (m : Image) : (groveMark s n m).inForce = s.inForce :=
  ite_inForce ((evt_inForce _ _ _).trans (graftMark_inForce s n m)) (graftMark_inForce s n m)

theorem groveMark_alone {s : State} {n : Nat} (h : s.flag (Reg.GRAFT_E_STAT n) F.GRAFT_E_STAT_GROVE = false) (m : Image) :
    groveMark s n m = graftMark s n m := if_neg (by simp [h])

theorem groveMark_grove {s : State} {n : Nat} (h : s.flag (Reg.GRAFT_E_STAT n) F.GRAFT_E_STAT_GROVE = true) (m : Image) :
    groveMark s n m = if (graftMark s n m).fld Reg.FT_STAT F.FT_STAT_ALIGN_STATE ≠ 1 then
      (graftMark s n m).evt Reg.FT_EVT F.FT_EVT_GROVE_ASYNC else graftMark s n m := by
  simp [groveMark, h]

section Apply

variable {s : State} {n : Nat} {m old : Image}

theorem graftApply_not_due (memErr : Bool) (h : s.ofs ≠ 0 ∨ s.clk = false ∨ ∀ n, n < 16 → s.gSt n = 4 → s.gTgt n ≠ s.fnN) :
    graftApply s memErr = s := by
  unfold graftApply
  by_cases hidle : s.ofs ≠ 0 ∨ s.clk = false
  · exact if_pos (by simpa using hidle)
  · have hnone : (s.gIn [4]).find? (fun n => s.gTgt n == s.fnN) = none := by
      have htgt := (h.resolve_left fun h => hidle (.inl h)).resolve_left fun h => hidle (.inr h)
      simp only [State.gIn, List.find?_eq_none, List.mem_filter, List.mem_range, List.contains_eq_mem, List.mem_singleton,
        decide_eq_true_eq, beq_iff_eq]
      exact fun n hn => htgt n hn.1 hn.2
    rw [hnone]
    exact ite_self _

section Due

variable (hofs : s.ofs = 0) (hclk : s.clk = true) (hdue : (s.gIn [4]).find? (fun n => s.gTgt n == s.fnN) = some n)
  (hres : (s.gx n).result = some m) (himg : s.img = some old)
include hofs hclk hdue hres himg

theorem graftApply_due (memErr : Bool) : graftApply s memErr =
    if !s.graftMay n m then graftReject s n eINUSE 0
    else if memErr then graftReject (s.updMate fun x => { x with uncorAt := some s.elapsed }) n eCRC 0
    else taken (groveMark s n m) old m := by
  unfold graftApply
  rw [if_neg (by simp [hofs, hclk]), hdue]
  dsimp only
  rw [hres, himg]
  rfl

theorem graftApply_in_use (memErr : Bool) (h : s.graftMay n m = false) : graftApply s memErr = graftReject s n eINUSE 0 := by
  rw [graftApply_due hofs hclk hdue hres himg, if_pos (by simp [h])]

theorem graftApply_uncorrectable (h : s.graftMay n m = true) :
    graftApply s true = graftReject (s.updMate fun x => { x with uncorAt := some s.elapsed }) n eCRC 0 := by
  rw [graftApply_due hofs hclk hdue hres himg, if_neg (by simp [h]), if_pos rfl]

theorem graftApply_taken (h : s.graftMay n m = true) : graftApply s false = taken (groveMark s n m) old m := by
  rw [graftApply_due hofs hclk hdue hres himg, if_neg (by simp [h])]
  rfl

end Due

end Apply

section Drain

variable {s : State}

theorem graftDrain_not_due (h : s.ofs ≠ 0 ∨ s.clk = false ∨ fnDiff s.fnN (s.rdPair Reg.GRAFT_LAST_FN_LO) = 0) : graftDrain s = s :=
  if_pos (by simpa [or_assoc] using h)

theorem graftDrain_due (hofs : s.ofs = 0) (hclk : s.clk = true) (hfn : fnDiff s.fnN (s.rdPair Reg.GRAFT_LAST_FN_LO) ≠ 0) :
    graftDrain s = s.drainDue.foldl domDrain { s with drainDue := [] } :=
  if_neg (by simp [hofs, hclk, hfn])

end Drain

/-- Settles O52: `graftApply` by the conditions of its entry; what is in force after the flip is `taken_inForce`. -/
theorem graftApplies : Obligations.GraftApplies := by
  refine ⟨fun e s => ⟨fun h => exec_eq_next rfl rfl (graftApply_not_due e h), fun n m old hofs hclk hdue hres himg =>
      ⟨fun h => ?inUse, fun h he => ?uncorrectable, fun h he => ?applied⟩⟩,
    fun old m l hnodup => ⟨fun d hd hkind => ⟨fun hmoved ⟨x, hx, hk, ha, hb⟩ => ?kept, fun h => ?initial⟩, fun o h => tabGet_keepSel_none h⟩,
    fun old m l r => ⟨fun hr hmoved hkey => ?recordKept, fun hr h => ?recordInitial, fun hr => tabGet_keepLsel_none hr⟩,
    fun n m s _ h => graftMark_shows h n m,
    fun s => ⟨fun h => exec_eq_next rfl rfl (graftDrain_not_due h),
      fun hofs hclk hfn => exec_eq_next rfl rfl (graftDrain_due hofs hclk hfn)⟩⟩
  case inUse =>
    have hforce := graftReject_inForce s n eINUSE 0
    exact ⟨_, exec_eq_next rfl rfl (graftApply_in_use hofs hclk hdue hres himg e h), rfl, (congrArg InForce.img hforce).trans himg,
      congrArg InForce.back hforce⟩
  case uncorrectable =>
    subst he
    have hforce := (graftReject_inForce (s.updMate fun x => { x with uncorAt := some s.elapsed }) n eCRC 0).trans (updMate_inForce s _)
    exact ⟨_, exec_eq_next rfl rfl (graftApply_uncorrectable hofs hclk hdue hres himg h), rfl, (congrArg InForce.img hforce).trans himg,
      congrArg InForce.back hforce⟩
  case applied =>
    subst he
    have hforce : (taken (groveMark s n m) old m).inForce = ((s.inForce.images old m).trunkSels old m).leafSels old m := by
      rw [taken_inForce, groveMark_inForce]
    obtain ⟨himg', hback, hfn, hfuses, hselW, hselF, hlselW, hlselF⟩ := parts_of_inForce hforce
    exact ⟨_, exec_eq_next rfl rfl (graftApply_taken hofs hclk hdue hres himg h), himg', hback, hfn, hfuses, hselW, hselF, hlselW, hlselF,
      fun hgrove => congrArg (taken · old m) (groveMark_alone hgrove m), fun hgrove => congrArg (taken · old m) (groveMark_grove hgrove m)⟩
  case kept => rw [tabGet_keepSel hnodup hd hkind, selAfter_kept hmoved hx hk ha hb]
  case initial =>
    rw [tabGet_keepSel hnodup hd hkind]
    exact h.elim selAfter_moved (selAfter_other_sources hkind)
  case recordKept => rw [tabGet_keepLsel hr, lselAfter_kept hmoved hkey]
  case recordInitial => rw [tabGet_keepLsel hr, lselAfter_changed h]

end Sys2Proof.Machine

namespace Sys2Proof.Machine

/-! The commands of the graft queue: their codes in order of precedence, and what an accepted one does (R127). -/

section GraftCode

variable {s : State} {op e : Nat} {free : Option Nat}

theorem graftCode_return (hop : op ≠ 3) (hr : s.inReturn = true) : s.graftCode op e free = eLIFE := if_pos (by simp [hop, hr])

theorem graftCode_claim (hr : s.inReturn = false) : s.graftCode 1 e free = if free.isNone then eRESOURCE else cOK := by
  simp [State.graftCode, hr]

theorem graftCode_commit (hr : s.inReturn = false) : s.graftCode 2 e free =
    if s.gSt e ≠ 1 then eFORMAT else if !fnAtLeast s.gCmdTgt s.fnN 17 then eLATE else if s.gCrowds s.gCmdTgt then eINUSE else cOK := by
  simp [State.graftCode, hr]

/-- CANCEL alone is served in RETURN (R320). -/
theorem graftCode_cancel : s.graftCode 3 e free = if 4 ≤ s.gSt e then eINUSE else if s.gSt e = 0 then eFORMAT else cOK := by
  simp [State.graftCode]

theorem graftCode_rollback (hr : s.inReturn = false) : s.graftCode 4 e free =
    if !s.flag Reg.GRAFT_STAT F.GRAFT_STAT_ROLLBACK_AVAIL || !(s.gIn [2, 3, 4]).isEmpty then eINUSE
    else if !fnAtLeast s.gCmdTgt s.fnN 17 then eLATE
    else if free.isNone then eRESOURCE
    else cOK := by
  simp [State.graftCode, hr]

end GraftCode

/-- What an accepted command does after its result shows; `n`: the entry that CLAIM and ROLLBACK take. -/
def graftAccepted (s : State) (op e n : Nat) : State :=
  if op = 1 then setG s n 1
  else if op = 2 then graftEnter s e false
  else if op = 3 then (if 2 ≤ s.gSt e then chainBreak (gClear s e) (s.gTgt e) else gClear s e)
  else graftEnter s n true

section GraftAccepted

variable (s : State) (e n : Nat)

theorem graftAccepted_claim : graftAccepted s 1 e n = setG s n 1 := if_pos rfl

theorem graftAccepted_commit : graftAccepted s 2 e n = graftEnter s e false := by simp [graftAccepted]

theorem graftAccepted_cancel :
    graftAccepted s 3 e n = if 2 ≤ s.gSt e then chainBreak (gClear s e) (s.gTgt e) else gClear s e := by simp [graftAccepted]

theorem graftAccepted_rollback : graftAccepted s 4 e n = graftEnter s n true := by simp [graftAccepted]

end GraftAccepted

section GraftCmd

variable {s : State} {op e : Nat}

theorem graftCmd_ignored (hop : 1 ≤ op ∧ op ≤ 4) (hv : s.valid Reg.GRAFT_CMD_RES = true) :
    graftCmd s op e = s.evt Reg.GRAFT_EVT F.GRAFT_EVT_CMD_IGNORED := by
  unfold graftCmd
  rw [if_neg (by simp; omega), if_pos hv]

theorem graftCmd_refused (hop : 1 ≤ op ∧ op ≤ 4) (hv : s.valid Reg.GRAFT_CMD_RES = false) {code : Nat}
    (hcode : s.graftCode op e (s.gIn [0]).head? = code) (hne : code ≠ cOK) :
    graftCmd s op e = s.putRes Reg.GRAFT_CMD_RES code (if op = 2 || op = 3 then e else 0) := by
  unfold graftCmd
  rw [if_neg (by simp; omega), if_neg (by simp [hv])]
  simp only [hcode, if_pos hne, if_neg hne]

theorem graftCmd_accepted (hop : 1 ≤ op ∧ op ≤ 4) (hv : s.valid Reg.GRAFT_CMD_RES = false)
    (hcode : s.graftCode op e (s.gIn [0]).head? = cOK) :
    graftCmd s op e = graftAccepted (s.putRes Reg.GRAFT_CMD_RES cOK (if op = 2 || op = 3 then e else (s.gIn [0]).head?.getD 0)) op e
      ((s.gIn [0]).head?.getD 0) := by
  unfold graftCmd
  rw [if_neg (by simp; omega), if_neg (by simp [hv])]
  simp only [hcode, if_pos, ne_eq, not_true_eq_false, if_false]
  rfl

end GraftCmd

/-! The commands as the host gives them. -/

section GraftCommands

variable {s t : State} {e : Nat} (hs : s.csrAnswers Reg.GRAFT_CMD = true)
include hs

theorem exec_claim (h : graftCmd s 1 0 = t) : exec .claim s = .next (after s t) := exec_eq_next rfl rfl ((if_pos hs).trans h)

theorem exec_commit (he : e < 16) (h : graftCmd s 2 e = t) : exec (.commit e) s = .next (after s t) :=
  exec_eq_next (decide_eq_true he) rfl ((if_pos hs).trans h)

theorem exec_cancel (he : e < 16) (h : graftCmd s 3 e = t) : exec (.cancel e) s = .next (after s t) :=
  exec_eq_next (decide_eq_true he) rfl ((if_pos hs).trans h)

theorem exec_rollback (h : graftCmd s 4 0 = t) : exec .rollback s = .next (after s t) := exec_eq_next rfl rfl ((if_pos hs).trans h)

end GraftCommands

/-! The registers of an entry beside a result and beside the size that its checks show (R126, R127). -/

section Entry

variable {s : State} (h : Tab.wf regReset s.regs = true)
include h

/-- The result of a command leaves the entries' states. -/
theorem gSt_putRes_cmd (code d n : Nat) : (s.putRes Reg.GRAFT_CMD_RES code d).gSt n = s.gSt n :=
  fld_of_rd_eq (State.rd_wr_other h _ (by unfold Reg.GRAFT_E_STAT Reg.GRAFT_CMD_RES; omega))

/-- The result of a command leaves the entries' targets. -/
theorem gTgt_putRes_cmd (code d n : Nat) : (s.putRes Reg.GRAFT_CMD_RES code d).gTgt n = s.gTgt n := by
  have hlo : (s.putRes Reg.GRAFT_CMD_RES code d).rd (Reg.GRAFT_E_TGT_LO n) = s.rd (Reg.GRAFT_E_TGT_LO n) :=
    State.rd_wr_other h _ (by unfold Reg.GRAFT_E_TGT_LO Reg.GRAFT_CMD_RES; omega)
  have hhi : (s.putRes Reg.GRAFT_CMD_RES code d).rd (Reg.GRAFT_E_TGT_LO n + 4) = s.rd (Reg.GRAFT_E_TGT_LO n + 4) :=
    State.rd_wr_other h _ (by unfold Reg.GRAFT_E_TGT_LO Reg.GRAFT_CMD_RES; omega)
  rw [State.gTgt, State.rd48, State.rdPair, hlo, hhi]
  rfl

/-- The start of an entry's checks shows its size, and no other register changes. -/
theorem rd_graftBegin {b : Nat} (hb : ∀ k, b ≠ Reg.GRAFT_E_SIZE k) : (graftBegin s).rd b = s.rd b := by
  unfold graftBegin
  split
  · split
    · rfl
    · exact State.rd_wr_other h _ (hb _)
  · rfl

end Entry

/-- The registers of an entry that VALIDATING takes: target, kind and state. -/
def entered (s : State) (n : Nat) (rollback : Bool) : State :=
  setG ((s.wrPair (Reg.GRAFT_E_TGT_LO n) s.gCmdTgt).setFlag (Reg.GRAFT_E_STAT n) F.GRAFT_E_STAT_ROLLBACK rollback) n 2

theorem graftEnter_eq (s : State) (n : Nat) (r : Bool) : graftEnter s n r =
    graftBegin { entered s n r with grafts := tabSet {} s.grafts n { base := s.graftBase } } := rfl

section Enter

variable {s : State} {n : Nat} {r : Bool} (h : Tab.wf regReset s.regs = true)
include h

theorem entered_wf : Tab.wf regReset (entered s n r).regs = true := setFld_wf (setFlag_wf (wrPair_wf h _ _) _ _ _) _ _ _

theorem rd_graftEnter {b : Nat} (hb : ∀ k, b ≠ Reg.GRAFT_E_SIZE k) : (graftEnter s n r).rd b = (entered s n r).rd b := by
  have hwf : Tab.wf regReset (entered s n r).regs = true := entered_wf h
  rw [graftEnter_eq]
  generalize entered s n r = t at hwf ⊢
  exact rd_graftBegin (s := { t with grafts := tabSet {} s.grafts n { base := s.graftBase } }) hwf hb

theorem rd_graftEnter_stat : (graftEnter s n r).rd (Reg.GRAFT_E_STAT n) = (entered s n r).rd (Reg.GRAFT_E_STAT n) :=
  rd_graftEnter h fun k => by unfold Reg.GRAFT_E_STAT Reg.GRAFT_E_SIZE; omega

theorem graftEnter_state : (graftEnter s n r).gSt n = 2 :=
  (fld_of_rd_eq (rd_graftEnter_stat h)).trans (State.fld_setFld (setFlag_wf (wrPair_wf h _ _) _ _ _) _ F.GRAFT_E_STAT_STATE 2 (by decide))

theorem graftEnter_rollback : (graftEnter s n r).flag (Reg.GRAFT_E_STAT n) F.GRAFT_E_STAT_ROLLBACK = r := by
  have hpair := wrPair_wf h (Reg.GRAFT_E_TGT_LO n) s.gCmdTgt
  have hbeside : (entered s n r).flag (Reg.GRAFT_E_STAT n) F.GRAFT_E_STAT_ROLLBACK = r :=
    (flag_setFld_beside (setFlag_wf hpair _ _ _) (by decide) (by decide)).trans (flag_setFlag_self hpair (by decide) rfl r)
  exact (flag_of_rd_eq (rd_graftEnter_stat h)).trans hbeside

theorem graftEnter_target : (graftEnter s n r).gTgt n = s.gCmdTgt := by
  have hpair := wrPair_wf h (Reg.GRAFT_E_TGT_LO n) s.gCmdTgt
  have hrd : ∀ b, (∀ k, b ≠ Reg.GRAFT_E_SIZE k) → b ≠ Reg.GRAFT_E_STAT n →
      (graftEnter s n r).rd b = (s.wrPair (Reg.GRAFT_E_TGT_LO n) s.gCmdTgt).rd b := fun b hsize hstat =>
    calc (graftEnter s n r).rd b
        = (entered s n r).rd b := rd_graftEnter h hsize
      _ = ((s.wrPair (Reg.GRAFT_E_TGT_LO n) s.gCmdTgt).setFlag (Reg.GRAFT_E_STAT n) F.GRAFT_E_STAT_ROLLBACK r).rd b :=
          rd_setFld_other (setFlag_wf hpair _ _ _) hstat
      _ = (s.wrPair (Reg.GRAFT_E_TGT_LO n) s.gCmdTgt).rd b := rd_setFld_other hpair hstat
  have hlt : s.gCmdTgt < 2 ^ 48 := Nat.mod_lt _ (by decide)
  rw [State.gTgt, State.rd48, State.rdPair,
    hrd _ (fun k => by unfold Reg.GRAFT_E_TGT_LO Reg.GRAFT_E_SIZE; omega) (by unfold Reg.GRAFT_E_TGT_LO Reg.GRAFT_E_STAT; omega),
    hrd _ (fun k => by unfold Reg.GRAFT_E_TGT_LO Reg.GRAFT_E_SIZE; omega) (by unfold Reg.GRAFT_E_TGT_LO Reg.GRAFT_E_STAT; omega),
    ← State.rdPair, rdPair_wrPair h _ (by omega), Nat.mod_eq_of_lt hlt]

end Enter

section

variable {s : State} {e : Nat} (hv : s.valid Reg.GRAFT_CMD_RES = false)
include hv

/-- A command other than CANCEL in RETURN. -/
theorem graftCmd_return {op : Nat} (hop : 1 ≤ op ∧ op ≤ 4) (h3 : op ≠ 3) (hr : s.inReturn = true) :
    graftCmd s op e = s.putRes Reg.GRAFT_CMD_RES eLIFE (if op = 2 || op = 3 then e else 0) :=
  graftCmd_refused hop hv (graftCode_return h3 hr) (by decide)

theorem graftCmd_cancel_accepted (h : Tab.wf regReset s.regs = true) (h0 : s.gSt e ≠ 0) (h4 : s.gSt e < 4) :
    graftCmd s 3 e = if 2 ≤ s.gSt e then chainBreak (gClear (s.putRes Reg.GRAFT_CMD_RES cOK e) e) (s.gTgt e)
      else gClear (s.putRes Reg.GRAFT_CMD_RES cOK e) e := by
  have hcode : s.graftCode 3 e (s.gIn [0]).head? = cOK := by
    rw [graftCode_cancel, if_neg (Nat.not_le.mpr h4), if_neg h0]
  have hentry : (if (3 = 2 || 3 = 3 : Bool) then e else (s.gIn [0]).head?.getD 0) = e := if_pos rfl
  rw [graftCmd_accepted (by decide) hv hcode, hentry, graftAccepted_cancel, gSt_putRes_cmd h, gTgt_putRes_cmd h]

end

/-- Settles O50: the codes of `graftCode` in order of precedence, and what `graftAccepted` does with an accepted command. -/
theorem graftCommands : Obligations.GraftCommands := by
  refine ⟨fun s hs hv e he i hi => ?ignored, fun e s he hs hv => ⟨fun hr => ?inReturn, fun hr => ⟨?noEntry, ?claimed, ?notLoading, ?late,
      ?crowded, ?committed, ?noRollback, fun havail hempty => ⟨?rollbackLate, ?rollbackFull, ?rolledBack⟩⟩,
      ?cancelArmed, ?cancelEmpty, fun hwf => ⟨?cancelLoading, ?cancelQueued⟩⟩,
    fun n r s _ h => ⟨graftEnter_state h, graftEnter_target h, graftEnter_rollback h⟩⟩
  case ignored =>
    rcases List.mem_cons.mp hi with rfl | hi
    · exact exec_claim hs (graftCmd_ignored (by decide) hv)
    rcases List.mem_cons.mp hi with rfl | hi
    · exact exec_commit hs he (graftCmd_ignored (by decide) hv)
    rcases List.mem_cons.mp hi with rfl | hi
    · exact exec_cancel hs he (graftCmd_ignored (by decide) hv)
    · obtain rfl := List.mem_singleton.mp hi
      exact exec_rollback hs (graftCmd_ignored (by decide) hv)
  case inReturn =>
    exact ⟨exec_claim hs (graftCmd_return hv (by decide) (by decide) hr), exec_rollback hs (graftCmd_return hv (by decide) (by decide) hr),
      exec_commit hs he (graftCmd_return hv (by decide) (by decide) hr)⟩
  case noEntry =>
    exact fun hfree => exec_claim hs (graftCmd_refused (by decide) hv (by rw [graftCode_claim hr, hfree]; rfl) (by decide))
  case claimed =>
    intro n hn
    refine exec_claim hs ((graftCmd_accepted (by decide) hv (by rw [graftCode_claim hr, hn]; rfl)).trans ?_)
    rw [hn, graftAccepted_claim]
    rfl
  case notLoading =>
    exact fun hst => exec_commit hs he (graftCmd_refused (by decide) hv (by rw [graftCode_commit hr, if_pos hst]) (by decide))
  case late =>
    exact fun hst hlead => exec_commit hs he
      (graftCmd_refused (by decide) hv (by rw [graftCode_commit hr, if_neg (fun hne => hne hst), hlead]; rfl) (by decide))
  case crowded =>
    exact fun hst hlead hcrowd => exec_commit hs he
      (graftCmd_refused (by decide) hv (by rw [graftCode_commit hr, if_neg (fun hne => hne hst), hlead, hcrowd]; rfl) (by decide))
  case committed =>
    exact fun hst hlead hcrowd => exec_commit hs he
      ((graftCmd_accepted (by decide) hv (by rw [graftCode_commit hr, if_neg (fun hne => hne hst), hlead, hcrowd]; rfl)).trans
        (graftAccepted_commit _ e _))
  case noRollback =>
    exact fun h => exec_rollback hs
      (graftCmd_refused (by decide) hv (by rw [graftCode_rollback hr, if_pos (by simpa using h)]) (by decide))
  case rollbackLate =>
    exact fun hlead => exec_rollback hs
      (graftCmd_refused (by decide) hv (by rw [graftCode_rollback hr, havail, hempty, hlead]; rfl) (by decide))
  case rollbackFull =>
    exact fun hlead hfree => exec_rollback hs
      (graftCmd_refused (by decide) hv (by rw [graftCode_rollback hr, havail, hempty, hlead, hfree]; rfl) (by decide))
  case rolledBack =>
    intro n hlead hn
    refine exec_rollback hs ((graftCmd_accepted (by decide) hv (by rw [graftCode_rollback hr, havail, hempty, hlead, hn]; rfl)).trans ?_)
    rw [hn, graftAccepted_rollback]
    rfl
  case cancelArmed =>
    exact fun hst => exec_cancel hs he (graftCmd_refused (by decide) hv (by rw [graftCode_cancel, if_pos hst]) (by decide))
  case cancelEmpty =>
    exact fun hst => exec_cancel hs he (graftCmd_refused (by decide) hv (by rw [graftCode_cancel, hst]; rfl) (by decide))
  case cancelLoading =>
    exact fun hst => exec_cancel hs he ((graftCmd_cancel_accepted hv hwf (by omega) (by omega)).trans (if_neg (by omega)))
  case cancelQueued =>
    exact fun hst => exec_cancel hs he ((graftCmd_cancel_accepted hv hwf (by omega) (by omega)).trans (if_pos (by omega)))

end Sys2Proof.Machine

namespace Sys2Proof.Machine

/-! Rejection of an entry (R126). -/

/-- What the registers show of a rejected entry: state, result and the event. -/
def rejectShown (s : State) (n code detail : Nat) : State :=
  ((setG s n 6).putRes (Reg.GRAFT_E_RES n) code detail).evt Reg.GRAFT_EVT F.GRAFT_EVT_REJECTED

/-- The shadow banks of an ARMED entry that is rejected no longer show as loaded. -/
def shadowOff (s : State) (n : Nat) : State :=
  if s.gSt n = 4 then s.setFlag Reg.TRK_BANK_STAT F.TRK_BANK_STAT_SHADOW_READY false else s

theorem rd_setGrafts (s : State) (x : List (Nat × GraftX)) (b : Nat) : ({ s with grafts := x } : State).rd b = s.rd b := rfl

theorem rd_reject1 (s : State) (n code detail b : Nat) : (reject1 s n code detail).rd b = (rejectShown (shadowOff s n) n code detail).rd b :=
  rd_setGrafts _ _ b

theorem img_of_inForce {s t : State} (h : t.inForce = s.inForce) : t.img = s.img := congrArg InForce.img h

section Reject

variable {s : State} {n code detail : Nat} (h : Tab.wf regReset s.regs = true)
include h

theorem shadowOff_wf : Tab.wf regReset (shadowOff s n).regs = true := by
  unfold shadowOff
  split
  · exact setFlag_wf h _ _ _
  · exact h

theorem rejectShown_state : (rejectShown s n code detail).gSt n = 6 := by
  have hset := setFld_wf h (Reg.GRAFT_E_STAT n) F.GRAFT_E_STAT_STATE 6
  have hrd : (rejectShown s n code detail).rd (Reg.GRAFT_E_STAT n) = (setG s n 6).rd (Reg.GRAFT_E_STAT n) :=
    (rd_evt_other (State.wr_wf hset _ _) (by unfold Reg.GRAFT_E_STAT Reg.GRAFT_EVT; omega)).trans
      (State.rd_wr_other hset _ (by unfold Reg.GRAFT_E_STAT Reg.GRAFT_E_RES; omega))
  exact (fld_of_rd_eq hrd).trans (State.fld_setFld h _ F.GRAFT_E_STAT_STATE 6 (by decide))

theorem rejectShown_result : (rejectShown s n code detail).valid (Reg.GRAFT_E_RES n) = true := by
  have hset := setFld_wf h (Reg.GRAFT_E_STAT n) F.GRAFT_E_STAT_STATE 6
  have hrd : (rejectShown s n code detail).rd (Reg.GRAFT_E_RES n) =
      ((setG s n 6).putRes (Reg.GRAFT_E_RES n) code detail).rd (Reg.GRAFT_E_RES n) :=
    rd_evt_other (State.wr_wf hset _ _) (by unfold Reg.GRAFT_E_RES Reg.GRAFT_EVT; omega)
  obtain ⟨hvalid, -⟩ := State.putRes_spec hset (Reg.GRAFT_E_RES n) code detail
  exact (congrArg (bitAt · 31) hrd).trans hvalid

theorem rejectShown_event : (rejectShown s n code detail).flag Reg.GRAFT_EVT F.GRAFT_EVT_REJECTED = true :=
  flag_evt_self (State.wr_wf (setFld_wf h _ _ _) _ _) (by decide)

/-- What a rejected entry shows; the image in force stays. -/
theorem reject1_shows : (reject1 s n code detail).gSt n = 6 ∧ (reject1 s n code detail).valid (Reg.GRAFT_E_RES n) = true ∧
    (reject1 s n code detail).flag Reg.GRAFT_EVT F.GRAFT_EVT_REJECTED = true ∧ (reject1 s n code detail).img = s.img := by
  have hwf : Tab.wf regReset (shadowOff s n).regs = true := shadowOff_wf h
  exact ⟨(fld_of_rd_eq (rd_reject1 s n code detail _)).trans (rejectShown_state hwf),
    (congrArg (bitAt · 31) (rd_reject1 s n code detail _)).trans (rejectShown_result hwf),
    (flag_of_rd_eq (rd_reject1 s n code detail _)).trans (rejectShown_event hwf), img_of_inForce (reject1_inForce s n code detail)⟩

end Reject

/-! Validation (R128, R130). -/

/-- The domains that a result uses begin to rise. -/
def risen (s : State) (m : Image) : State := (List.range 67).foldl (fun s d => if m.plan d = 2 then domRise s d else s) s

section Validation

variable {s : State} {n : Nat} {m : Image}

theorem domRise_of_on {d : Nat} (h : s.domOn d = true) : domRise s d = s := by
  have hst : s.domSt d = 2 := beq_iff_eq.mp h
  exact if_neg (by omega)

theorem graftStage_all_on (h : ∀ d, d < 67 → m.plan d = 2 → (risen s m).domOn d = true) :
    graftStage s n m = graftBegin (setG (elsDrive (risen s m)) n 3) := by
  refine if_pos (List.all_eq_true.mpr fun d hd => ?_)
  by_cases hplan : m.plan d = 2
  · exact Bool.or_eq_true_iff.mpr (.inr (h d (List.mem_range.mp hd) hplan))
  · exact Bool.or_eq_true_iff.mpr (.inl (bne_iff_ne.mpr hplan))

theorem graftStage_some_off (h : ∃ d, d < 67 ∧ m.plan d = 2 ∧ (risen s m).domOn d = false) : graftStage s n m = risen s m := by
  obtain ⟨d, hd, hplan, hoff⟩ := h
  refine if_neg fun hall => ?_
  have hd' := List.all_eq_true.mp hall d (List.mem_range.mpr hd)
  simp only [hplan, bne_self_eq_false, Bool.false_or] at hd'
  exact Bool.false_ne_true (hoff.symm.trans hd')

theorem graftValidated_not_first (h : s.gSt n ≠ 2 ∨ s.gFirst (s.gIn [2]) ≠ some n) : graftValidated s n = s := if_pos (by simpa using h)

section First

variable (hst : s.gSt n = 2) (hfirst : s.gFirst (s.gIn [2]) = some n)
include hst hfirst

theorem graftValidated_checked (hres : (s.gx n).result = some m) : graftValidated s n = graftStage s n m := by
  unfold graftValidated
  rw [if_neg (by simp [hst, hfirst]), hres]

theorem graftValidated_fault (hres : (s.gx n).result = none) {f : Nat × Nat} (hcheck : s.graftCheck n = .inl f) :
    graftValidated s n = graftReject s n f.1 f.2 := by
  unfold graftValidated
  rw [if_neg (by simp [hst, hfirst]), hres]
  dsimp only
  rw [hcheck]

theorem graftValidated_pass (hres : (s.gx n).result = none) {gtag hits : Nat} (hcheck : s.graftCheck n = .inr (m, gtag, hits)) :
    graftValidated s n = graftStage (graftPass s n m gtag hits) n m := by
  unfold graftValidated
  rw [if_neg (by simp [hst, hfirst]), hres]
  dsimp only
  rw [hcheck]

end First

end Validation

/-! Deadlines (R131). -/

section Deadlines

variable {s : State} {n : Nat}

theorem mem_gIn {l : List Nat} : n ∈ s.gIn l ↔ n < 16 ∧ s.gSt n ∈ l := by simp [State.gIn]

theorem graftArm_other_offset (h : s.ofs ≠ 0) : graftArm s = s := if_pos (by simp [h])

theorem graftArm_none_due (h : ∀ n, n < 16 → s.gSt n = 2 ∨ s.gSt n = 3 → fnDiff (s.gTgt n) s.fnN ≠ 16) : graftArm s = s := by
  have hnone : (s.gIn [2, 3]).find? (fun k => fnDiff (s.gTgt k) s.fnN == 16) = none := by
    refine List.find?_eq_none.mpr fun k hk => ?_
    obtain ⟨hlt, hst⟩ := mem_gIn.mp hk
    exact fun hdue => h k hlt (by simpa using hst) (beq_iff_eq.mp hdue)
  unfold graftArm
  rw [hnone]
  exact ite_self _

section Due

variable (hofs : s.ofs = 0) (hclk : s.clk = true) (hdue : (s.gIn [2, 3]).find? (fun k => fnDiff (s.gTgt k) s.fnN == 16) = some n)
include hofs hclk hdue

theorem graftArm_staged (hst : s.gSt n = 3) : graftArm s = setG s n 4 := by
  unfold graftArm
  rw [if_neg (by simp [hofs, hclk]), hdue]
  exact if_pos hst

theorem graftArm_validating (hst : s.gSt n = 2) : graftArm s = graftReject s n eLATE 0 := by
  unfold graftArm
  rw [if_neg (by simp [hofs, hclk]), hdue]
  exact if_neg (by omega)

end Due

theorem shadowReady_due (hclk : s.clk = true) (hofs : s.ofs = 0) (hn : n < 16) (hst : s.gSt n = 4) (hdue : fnDiff (s.gTgt n) s.fnN = 1) :
    shadowReady s = s.setFlag Reg.TRK_BANK_STAT F.TRK_BANK_STAT_SHADOW_READY true := by
  have hany : (s.gIn [4]).any (fun n => fnDiff (s.gTgt n) s.fnN == 1) = true :=
    List.any_eq_true.mpr ⟨n, mem_gIn.mpr ⟨hn, by simp [hst]⟩, beq_iff_eq.mpr hdue⟩
  exact if_pos (by simp [hclk, hofs, hany])

end Deadlines

/-- Settles O51: `graftValidated`, `graftArm` and `shadowReady` by the conditions of the entry. -/
theorem graftValidationAndArming : Obligations.GraftValidationAndArming := by
  refine ⟨fun n s hn => ⟨fun h => ?notFirst, fun hst hfirst hres => ⟨fun f hf => ?fault, fun m k x hm => ?pass⟩,
      fun m hst hfirst hres => ⟨fun h => ?allOn, fun h => ?someOff⟩⟩,
    fun d s => domRise_of_on, fun n c d s _ h => reject1_shows h,
    fun s hclk => ⟨fun h => exec_eq_next rfl rfl (graftArm_other_offset h), fun _ h => exec_eq_next rfl rfl (graftArm_none_due h),
      fun n hofs hdue => ⟨fun hst => exec_eq_next rfl rfl (graftArm_staged hofs hclk hdue hst),
        fun hst => exec_eq_next rfl rfl (graftArm_validating hofs hclk hdue hst)⟩,
      fun n hofs hn hst hdue => exec_eq_next rfl rfl (shadowReady_due hclk hofs hn hst hdue)⟩⟩
  all_goals have hwf : (Instr.graftValidationDone n).wf = true := decide_eq_true hn
  case notFirst => exact exec_eq_next hwf rfl (graftValidated_not_first h)
  case fault => exact exec_eq_next hwf rfl (graftValidated_fault hst hfirst hres hf)
  case pass => exact exec_eq_next hwf rfl (graftValidated_pass hst hfirst hres hm)
  case allOn => exact exec_eq_next hwf rfl ((graftValidated_checked hst hfirst hres).trans (graftStage_all_on h))
  case someOff => exact exec_eq_next hwf rfl ((graftValidated_checked hst hfirst hres).trans (graftStage_some_off h))

end Sys2Proof.Machine

namespace Sys2Proof.Machine

/-! Leaf PM requests (R174): the request, the snapshot of its boundary as R98 has it for both kinds of request, and the answer. -/

section LeafRequests

variable {s : State} {r : RdReq} {m : Image} {e k seq : Nat} {b : List Byte}

theorem exec_leafPmReq {t : State} (he : e < 131072) (hk : k < 4) (hs : s.csrAnswers Reg.LEAF_PM_REQ = true) (h : leafPmReq s e k = t) :
    exec (.leafPmReq e k) s = .next (after s t) :=
  exec_eq_next ((Bool.and_eq_true_iff ..).mpr ⟨decide_eq_true he, decide_eq_true hk⟩) rfl ((if_pos hs).trans h)

theorem leafPmReq_free (hv : s.valid Reg.LEAF_PM_RES = false) (hq : s.leafReq = none) :
    leafPmReq s e k = { s with leafReq := some ⟨e, k, s.elapsed, none⟩ } :=
  if_neg (by simp [hv, hq])

theorem leafPmReq_busy (h : s.valid Reg.LEAF_PM_RES = true ∨ s.leafReq.isSome = true) :
    leafPmReq s e k = s.evt Reg.LEAF_EVT F.LEAF_EVT_REQ_IGNORED :=
  if_pos ((Bool.or_eq_true_iff ..).mpr h)

/-- Stated for any list of the image's entities: line and leaf requests take their snapshots alike (R98). -/
theorem RdReq.take_at_boundary (hofs : s.ofs = 0) (hnext : s.elapsed = r.since + 1) (hm : s.img = some m) (key : Nat)
    (ents : Image → List Nat) :
    r.take s key ((s.img.map ents).any (·.contains key)) seq =
      { r with shot := some (if r.sel < 2 ∧ key ∈ ents m then snapRecord s key (r.sel == 1) seq else []) } := by
  have hdue : (decide (s.ofs = 0) && decide (r.since + 1 = s.elapsed)) = true := by simp [hofs, hnext]
  have hdef : (s.img.map ents).any (·.contains key) = decide (key ∈ ents m) := by simp [hm]
  rw [RdReq.take, if_pos hdue, hdef]
  simp only [Bool.and_eq_true, decide_eq_true_eq]

theorem pmBoundary_idle (h : s.pmReq = none) : pmBoundary s = s := if_neg (by simp [h])

theorem reqBoundary_leaf (hpm : s.pmReq = none) (hq : s.leafReq.isSome = true) :
    reqBoundary s = leafShoot (s.pendRes Reg.LEAF_PM_RES) := by
  unfold reqBoundary
  rw [pmBoundary_idle hpm]
  exact if_pos hq

theorem leafShoot_eq (hq : s.leafReq = some r) :
    leafShoot s = { s with leafReq := some (r.take s (leafKey + r.ent)
      ((s.img.map (·.pmLeaf)).any (·.contains (leafKey + r.ent))) (s.nextSeq Reg.LEAF_PM_RES)) } := by
  rw [leafShoot, hq]
  rfl

theorem putShot_eq (s : State) (res data : Nat) (b : List Byte) :
    putShot s res data b = if b = [] then s.putRes res eFORMAT 0 else (putData s data b).putRes res cOK 0 := by
  simp only [putShot, List.isEmpty_iff]

theorem leafPmSnapshot_idle (h : s.leafReq = none) : leafPmSnapshot s = s := by
  rw [leafPmSnapshot, h]
  rfl

theorem leafPmSnapshot_pending (hq : s.leafReq = some r) (hb : r.shot = some b) (hp : s.isPending Reg.LEAF_PM_RES = true) :
    leafPmSnapshot s = putShot { s with leafReq := none } Reg.LEAF_PM_RES (Reg.LEAF_PM_DATA 0) b := by
  have hshot : s.leafReq.bind (·.shot) = some b := by rw [hq, Option.bind_some, hb]
  rw [leafPmSnapshot, hshot]
  exact if_pos hp

end LeafRequests

/-- Settles O46: the request is kept or ignored, its boundary takes the snapshot of `RdReq.take_at_boundary`, and the answer shows it. -/
theorem leafPmRequests : Obligations.LeafPmRequests := by
  refine ⟨fun e k s he hk hs => ⟨fun hv hq => exec_leafPmReq he hk hs (leafPmReq_free hv hq),
      fun hbusy => exec_leafPmReq he hk hs (leafPmReq_busy hbusy)⟩,
    fun s hq => exec_eq_next rfl rfl (leafPmSnapshot_idle hq), fun r m s hpm hq hofs hnext hm => ?boundary,
    fun r b s hq hb hp => exec_eq_next rfl rfl ((leafPmSnapshot_pending hq hb hp).trans (putShot_eq _ _ _ b))⟩
  case boundary =>
    have hpend : (s.pendRes Reg.LEAF_PM_RES).leafReq = some r := hq
    rw [reqBoundary_leaf hpm (Option.isSome_of_eq_some hq), leafShoot_eq hpend,
      RdReq.take_at_boundary (s := s.pendRes Reg.LEAF_PM_RES) hofs hnext hm _ (·.pmLeaf)]

end Sys2Proof.Machine

namespace Sys2Proof.Machine

/-! The commands of a protection group: their codes in order of precedence, and what each answer leaves (R184, R185). -/

/-- The code a command is answered with while no result waits. -/
def State.protCode (s : State) (op n : Nat) : Nat :=
  let req := s.fld (Reg.PROT_G_STAT n) F.PROT_G_STAT_REQ
  if s.inReturn then eLIFE
  else if s.quietRole then eINUSE
  else if (s.prot n).isNone || op = 0 || 5 < op then eFORMAT
  else if op = 2 && (req = 0xF || s.fld (Reg.PROT_G_STAT n) F.PROT_G_STAT_CMD = 1) then eINUSE
  else if (op = 3 || op = 4) && reqRank req < 6 then eINUSE
  else cOK

section ProtCode

variable {s : State} {op n : Nat}

theorem protCode_return (hr : s.inReturn = true) : s.protCode op n = eLIFE := if_pos hr

theorem protCode_quiet (hr : s.inReturn = false) (hq : s.quietRole = true) : s.protCode op n = eINUSE := by
  simp [State.protCode, hr, hq]

theorem protCode_undefined (hr : s.inReturn = false) (hq : s.quietRole = false) (hd : s.prot n = none) :
    s.protCode op n = eFORMAT := by
  simp [State.protCode, hr, hq, hd]

/-- LO in force bars FS, a request above MS bars MS (R181, R184). -/
def State.protBarred (s : State) (op n : Nat) : Prop :=
  (op = 2 ∧ (s.fld (Reg.PROT_G_STAT n) F.PROT_G_STAT_REQ = 0xF ∨ s.fld (Reg.PROT_G_STAT n) F.PROT_G_STAT_CMD = 1)) ∨
    ((op = 3 ∨ op = 4) ∧ reqRank (s.fld (Reg.PROT_G_STAT n) F.PROT_G_STAT_REQ) < 6)

section Defined

variable {d : ProtDef} (hop : 1 ≤ op ∧ op ≤ 5) (hr : s.inReturn = false) (hq : s.quietRole = false) (hd : s.prot n = some d)
include hop hr hq hd

theorem protCode_barred (h : s.protBarred op n) : s.protCode op n = eINUSE := by
  have hknown : ¬ 5 < op := Nat.not_lt.mpr hop.2
  have hne : op ≠ 0 := Nat.ne_of_gt hop.1
  rcases h with ⟨rfl, hlo⟩ | ⟨hms, hrank⟩
  · simp [State.protCode, hr, hq, hd, hlo]
  · simp [State.protCode, hr, hq, hd, hms, hrank, hknown, hne]

theorem protCode_free (h : ¬ s.protBarred op n) : s.protCode op n = cOK := by
  have hknown : ¬ 5 < op := Nat.not_lt.mpr hop.2
  have hne : op ≠ 0 := Nat.ne_of_gt hop.1
  obtain ⟨hfs, hms⟩ := not_or.mp h
  simp only [State.protCode, hr, hq, hd, hknown, hne, Option.isNone_some, decide_false, Bool.or_self, Bool.false_eq_true, if_false,
    Bool.and_eq_true, Bool.or_eq_true, decide_eq_true_eq, hfs, hms]

end Defined

end ProtCode

section ProtCmd

variable {s t : State} {op n code : Nat}

theorem protCmd_ignored (hv : s.valid Reg.PROT_CMD_RES = true) :
    protCmd s op n = s.evt Reg.PROT_EVT F.PROT_EVT_CMD_IGNORED := if_pos hv

/-- What every answer shows. -/
def protAnswer (s : State) (op n code : Nat) : State := (s.wr Reg.PROT_CMD_GRP (n + 65536 * op)).putRes Reg.PROT_CMD_RES code 0

/-- Only an accepted command is kept for the next frame (R185). -/
theorem protCmd_answered (hn : n < 65536) (hop : op ≤ 5) (hv : s.valid Reg.PROT_CMD_RES = false) (hcode : s.protCode op n = code) :
    protCmd s op n =
      if code = cOK then (protAnswer s op n code).updGrp n fun g => { g with newCmd := g.newCmd ++ [op] } else protAnswer s op n code := by
  have hshown : n % 65536 + 65536 * (op % 8) = n + 65536 * op := by omega
  rw [← hcode, protAnswer, ← hshown]
  exact if_neg (by simp [hv])

end ProtCmd

/-- The commands of a group as their operations. -/
theorem exec_protCmds {n : Nat} {s : State} (hn : n < 65536) (hs : s.csrAnswers Reg.PROT_CMD = true) :
    ∀ x ∈ [(Instr.lo n, 1), (.fs n, 2), (.msP n, 3), (.msW n, 4), (.clear n, 5)],
      (1 ≤ x.2 ∧ x.2 ≤ 5) ∧ ∀ t, protCmd s x.2 n = t → exec x.1 s = .next (after s t) := by
  have hexec : ∀ {i : Instr} {op : Nat}, i.wf = decide (n < 65536) →
      exec i s = checked i s (s.host Reg.PROT_CMD fun s => protCmd s op n) → ∀ t, protCmd s op n = t → exec i s = .next (after s t) :=
    fun hwf harm t ht => exec_eq_next (hwf.trans (decide_eq_true hn)) harm ((if_pos hs).trans ht)
  simp only [List.forall_mem_cons, List.not_mem_nil, false_implies, implies_true, and_true]
  exact ⟨⟨by decide, hexec rfl rfl⟩, ⟨by decide, hexec rfl rfl⟩, ⟨by decide, hexec rfl rfl⟩, ⟨by decide, hexec rfl rfl⟩,
    ⟨by decide, hexec rfl rfl⟩⟩

/-- Settles O47: the code of `protCode` decides between the answer alone and the answer with the kept command. -/
theorem protectionCommands : Obligations.ProtectionCommands := by
  intro n s hn hs x hx
  obtain ⟨hop, hexec⟩ := exec_protCmds hn hs x hx
  refine ⟨fun hv => hexec _ (protCmd_ignored hv), fun hv => ?_⟩
  intro ans req cmd
  have hrefused : ∀ code, code ≠ cOK → s.protCode x.2 n = code → exec x.1 s = .next (after s (ans code)) := fun code hne hcode =>
    hexec _ ((protCmd_answered hn hop.2 hv hcode).trans (if_neg hne))
  refine ⟨fun hr => hrefused _ (by decide) (protCode_return hr), fun hr hq => hrefused _ (by decide) (protCode_quiet hr hq),
    fun hr hq hd => hrefused _ (by decide) (protCode_undefined hr hq hd), fun d hr hq hd => ⟨fun hbarred => ?inUse, fun hfree => ?ok⟩⟩
  case inUse => exact hrefused _ (by decide) (protCode_barred hop hr hq hd hbarred)
  case ok =>
    have hnot : ¬ s.protBarred x.2 n := by
      unfold req cmd at hfree
      rintro (⟨hfs, hlo⟩ | ⟨hms, hrank⟩) <;> omega
    exact hexec _ ((protCmd_answered hn hop.2 hv (protCode_free hop hr hq hd hnot)).trans (if_pos rfl))

end Sys2Proof.Machine

namespace Sys2Proof.Machine

/-! The winner of a group's requests (R181, R182). -/

section Winner

variable {r q : Req} {l : List Req} {g : Grp} {d : ProtDef} {s : State}

theorem one_le_reqRank (c : Nat) : 1 ≤ reqRank c := by
  unfold reqRank
  split <;> decide

theorem reqRank_le (c : Nat) : reqRank c ≤ 9 := by
  unfold reqRank
  split <;> decide

theorem topRank_cons_of_highest (h : ∀ x ∈ l, reqRank r.code ≤ reqRank x.code) : topRank (r :: l) = reqRank r.code := by
  have hfold : ∀ (l : List Req) (n : Nat), (∀ x ∈ l, n ≤ reqRank x.code) → l.foldl (fun n x => min n (reqRank x.code)) n = n := by
    intro l
    induction l with
    | nil => exact fun _ _ => rfl
    | cons x l ih =>
      intro n hn
      obtain ⟨hx, hl⟩ := List.forall_mem_cons.mp hn
      rw [List.foldl_cons, Nat.min_eq_left hx]
      exact ih n hl
  rw [topRank, List.foldl_cons, Nat.min_eq_right (reqRank_le _)]
  exact hfold l _ h

/-- A local request wins that comes first, none ranks above and all of its rank agree with. -/
theorem pickReq_first (hlocal : r.far = false) (hrank : ∀ x ∈ l, reqRank r.code ≤ reqRank x.code)
    (hsig : ∀ x ∈ l, reqRank x.code = reqRank r.code → x.sig = r.sig) (force : Req) (sel : Bool) : pickReq (r :: l) force sel = r := by
  have htied : ((r :: l).filter fun x => reqRank x.code == topRank (r :: l)) = r :: l.filter fun x => reqRank x.code == reqRank r.code := by
    rw [topRank_cons_of_highest hrank, List.filter_cons_of_pos (by simp)]
  have hagree : ((r :: l.filter fun x => reqRank x.code == reqRank r.code).all fun x => x.sig == r.sig) = true := by
    simpa only [List.all_cons, beq_self_eq_true, Bool.true_and, List.all_eq_true, List.mem_filter, beq_iff_eq, and_imp] using hsig
  unfold pickReq
  rw [htied]
  simp only [hagree, if_true, beq_self_eq_true, List.filter_cons_of_pos, hlocal, Bool.not_false, List.find?_cons_of_pos]
  rfl

theorem ite_sublist (c : Prop) [Decidable c] (r : Req) : List.Sublist (if c then [r] else []) [r] := by
  split
  · exact List.Sublist.refl _
  · exact List.nil_sublist _

/-- The local requests of ranks 1 to 5, each present. -/
def highTable : List Req :=
  [⟨0xF, false, false⟩, ⟨0xE, false, false⟩, ⟨0xD, true, false⟩, ⟨0xB, true, false⟩, ⟨0x9, false, false⟩, ⟨0x9, true, false⟩]

theorem highReqs_subset (g : Grp) : g.highReqs ⊆ highTable :=
  ((((((ite_sublist _ _).append (ite_sublist _ _)).append (ite_sublist _ _)).append (ite_sublist _ _)).append (ite_sublist _ _)).append
    (ite_sublist _ _)).subset

/-- Signal fail on working and signal degrade. -/
def Grp.faultReqs (g : Grp) : List Req :=
  (if g.sfw then [⟨0xB, true, false⟩] else []) ++ (if g.sdp then [⟨0x9, false, false⟩] else [])
    ++ (if g.sdw then [⟨0x9, true, false⟩] else [])

/-- They are three of the requests of `highTable`. -/
theorem faultReqs_subset (g : Grp) : g.faultReqs ⊆ highTable.drop 3 :=
  (((ite_sublist _ _).append (ite_sublist _ _)).append (ite_sublist _ _)).subset

theorem highReqs_of_lo (h : g.lo = true) : g.highReqs = ⟨0xF, false, false⟩ :: { g with lo := false }.highReqs := by
  simp [Grp.highReqs, h]

theorem highReqs_of_fs (hlo : g.lo = false) (hsfp : g.sfp = false) (hfs : g.fs = true) :
    g.highReqs = ⟨0xD, true, false⟩ :: g.faultReqs := by
  simp [Grp.highReqs, Grp.faultReqs, hlo, hsfp, hfs]

/-- The local requests of ranks 6 to 9: manual switch, WTR, DNR and NR. -/
def lowReqs (ms : Nat) (wtr dnr : Bool) : List Req :=
  (if ms = 1 then [⟨0x7, true, false⟩] else if ms = 2 then [⟨0x7, false, false⟩] else []) ++
    (if wtr then [⟨0x5, true, false⟩] else []) ++ (if dnr then [⟨0x1, true, false⟩] else []) ++ [⟨0, false, false⟩]

theorem six_le_reqRank_of_lowReqs {ms : Nat} {wtr dnr : Bool} : ∀ x ∈ lowReqs ms wtr dnr, 6 ≤ reqRank x.code := by
  have hms : List.Sublist (if ms = 1 then [⟨0x7, true, false⟩] else if ms = 2 then [⟨0x7, false, false⟩] else [])
      [(⟨0x7, true, false⟩ : Req), ⟨0x7, false, false⟩] := by
    split
    · exact List.sublist_append_left [_] [_]
    · exact (ite_sublist _ _).cons _
  have hall : ∀ x ∈ [(⟨0x7, true, false⟩ : Req), ⟨0x7, false, false⟩, ⟨0x5, true, false⟩, ⟨0x1, true, false⟩, ⟨0, false, false⟩],
      6 ≤ reqRank x.code := by decide
  exact fun x hx => hall x ((((hms.append (ite_sublist _ _)).append (ite_sublist _ _)).append (List.Sublist.refl _)).subset hx)

/-! A far LO asks for working, as a local one does (R181, R189). -/

theorem eq_lo_of_reqRank {c : Nat} (h : reqRank c = 1) : c = 0xF := by
  unfold reqRank at h
  split at h
  · rfl
  all_goals cases h

theorem statusReq_working {v : Nat} (h : statusReq v = some q) : reqRank q.code = 1 → q.sig = false := by
  unfold statusReq at h
  split at h <;> cases h <;> decide

theorem farReq_working (c : Nat) (sig : Bool) : reqRank (farReq c sig).code = 1 → (farReq c sig).sig = false := by
  intro hrank
  have hcode : (farReq c sig).code = 0xF := eq_lo_of_reqRank hrank
  have hc : c = 0xF := by
    unfold farReq at hcode
    split at hcode
    · cases hcode
    · split at hcode
      · exact hcode
      · split at hcode <;> exact hcode
  subst hc
  rfl

theorem farRequest_working {sfp : Bool} (h : s.farRequest d g sfp = some q) : reqRank q.code = 1 → q.sig = false := by
  unfold State.farRequest at h
  split at h
  · cases h
  · split at h
    · obtain ⟨v, -, hv⟩ := Option.bind_eq_some_iff.mp h
      exact statusReq_working hv
    · split at h
      · cases h
        exact farReq_working _ _
      · cases h

theorem farRequest_unidirectional (h : d.bidir = false) (sfp : Bool) : s.farRequest d g sfp = none := if_pos (by simp [h])

/-! What an evaluation takes from the winner (R182, R188). -/

/-- The local requests stand as the samples and commands have them: the far end changes none of them. -/
theorem farStep_highReqs (s : State) (d : ProtDef) (g : Grp) : (farStep s d g).highReqs = g.highReqs := by
  have hstatus : (acceptStatus s d g).1.highReqs = g.highReqs := by
    unfold acceptStatus
    extract_lets src h c new
    split
    · rfl
    · split <;> rfl
  have hleaf : (farLeaf s d g).highReqs = g.highReqs := by
    unfold farLeaf
    extract_lets r h run none_ n h1 h2
    have h1r : h1.highReqs = g.highReqs := by
      unfold h1
      split
      · exact hstatus
      · split
        · exact hstatus
        · split <;> exact hstatus
    have h2r : h2.highReqs = h1.highReqs := by
      unfold h2
      split <;> rfl
    exact h2r.trans h1r
  unfold farStep
  split
  · exact hleaf
  · split <;> rfl

/-- A group after it took winner `w`: its selection follows the signal asked for, that of a 1:1 group only where the far end bridges. -/
structure Grp.Takes (r : Grp) (d : ProtDef) (w : Req) : Prop where
  req : r.req = w.code
  sig : r.sig = w.sig
  far : r.far = w.far
  working : w.sig = false → r.sel = false
  follows : d.ty ≠ 1 → r.sel = w.sig

/-- The group that `evalGrp` makes of the winner takes it; `bridged`: the far end bridges. -/
theorem Grp.takes_winner (g : Grp) (d : ProtDef) (w : Req) (bridged : Bool) :
    let g := { g with req := w.code, sig := w.sig, far := w.far }
    Grp.Takes (if d.ty = 1 then { g with bridge := w.sig, sel := w.sig && bridged } else { g with sel := w.sig }) d w := by
  intro g
  split
  next hty => exact ⟨rfl, rfl, rfl, fun hw => Bool.and_eq_false_iff.mpr (Or.inl hw), fun h => absurd hty h⟩
  next => exact ⟨rfl, rfl, rfl, id, fun _ => rfl⟩

theorem Grp.Takes.after_nrStep {r : Grp} {w : Req} (h : r.Takes d w) (far : Option Req) (sfp : Bool) (step : Nat) :
    (nrStep d r far sfp step).Takes d w := by
  obtain ⟨hreq, hsig, hfar, hworking, hfollows⟩ := h
  unfold nrStep
  split
  · exact ⟨hreq, hsig, hfar, hworking, hfollows⟩
  · split
    · exact ⟨hreq, hsig, hfar, hworking, hfollows⟩
    · split
      · exact ⟨hreq, hsig, hfar, hworking, hfollows⟩
      · dsimp only
        split <;> exact ⟨hreq, hsig, hfar, hworking, hfollows⟩

theorem evalGrp_takes (s : State) (d : ProtDef) (g : Grp) :
    let c := (cmdStep d g).1
    let raised := raiseStep d c (s.legs4 d) (s.elapsed - 1)
    ∃ ms wtr dnr force sel, (evalGrp s d g).1.Takes d (pickReq (raised.highReqs ++
      (lowReqs ms wtr dnr ++ (s.farRequest d (farStep s d raised) (s.legs4 d).2.1).toList)) force sel) := by
  intro c raised
  unfold evalGrp
  extract_lets c' x g1 g2 far farL cancel g3 high g4 local_ w bridged g5 g6 g7
  have hhigh : g3.highReqs = raised.highReqs := by
    have h3 : g3.highReqs = g2.highReqs := by
      unfold g3
      split <;> rfl
    exact h3.trans (farStep_highReqs s d raised)
  refine ⟨g3.ms, g4.wtr.isSome, g4.dnr, ⟨g4.req, g4.sig, g4.far⟩, g4.sel, ?_⟩
  have hlist : local_ ++ farL = raised.highReqs ++ (lowReqs g3.ms g4.wtr.isSome g4.dnr ++ farL) := by
    simp only [local_, high, hhigh, lowReqs, List.append_assoc]
  have h6 : g6.Takes d w := g4.takes_winner d w bridged
  rw [← hlist]
  have h7 : g7.Takes d w := by
    unfold g7
    exact h6.after_nrStep far x.2.1 _
  exact ⟨h7.req, h7.sig, h7.far, h7.working, h7.follows⟩

/-- LO in force wins: no request ranks above it, and a far LO asks for the same signal (R181). -/
theorem evalGrp_lo (h : (cmdStep d g).1.lo = true) (s : State) : (evalGrp s d g).1.Takes d ⟨0xF, false, false⟩ := by
  obtain ⟨ms, wtr, dnr, force, sel, htakes⟩ := evalGrp_takes s d g
  have hhigh : ∀ x ∈ highTable, reqRank x.code = 1 → x.sig = false := by decide
  rw [highReqs_of_lo (g := raiseStep d (cmdStep d g).1 _ _) h, List.cons_append,
    pickReq_first (r := ⟨0xF, false, false⟩) rfl fun x _ => one_le_reqRank x.code] at htakes
  · exact htakes
  · intro x hx hrank
    simp only [List.mem_append] at hx
    rcases hx with hx | hx | hx
    · exact hhigh x (highReqs_subset _ hx) hrank
    · exact absurd (six_le_reqRank_of_lowReqs x hx) (by rw [hrank]; decide)
    · exact farRequest_working (Option.mem_toList.mp hx) hrank

/-- FS wins where neither LO nor SF-P stands and no far request is read (R181). -/
theorem evalGrp_fs (hlo : (cmdStep d g).1.lo = false) (hfs : (cmdStep d g).1.fs = true) (hbidir : d.bidir = false)
    (hsfp : (raiseStep d (cmdStep d g).1 (s.legs4 d) (s.elapsed - 1)).sfp = false) :
    (evalGrp s d g).1.Takes d ⟨0xD, true, false⟩ := by
  obtain ⟨ms, wtr, dnr, force, sel, htakes⟩ := evalGrp_takes s d g
  have hfault : ∀ x ∈ highTable.drop 3, reqRank 0xD < reqRank x.code := by decide
  have hbelow : ∀ x ∈ (raiseStep d (cmdStep d g).1 (s.legs4 d) (s.elapsed - 1)).faultReqs ++ (lowReqs ms wtr dnr ++ []),
      reqRank 0xD < reqRank x.code := by
    intro x hx
    rw [List.append_nil, List.mem_append] at hx
    rcases hx with hx | hx
    · exact hfault x (faultReqs_subset _ hx)
    · exact Nat.lt_of_lt_of_le (by decide) (six_le_reqRank_of_lowReqs x hx)
  rw [highReqs_of_fs (g := raiseStep d (cmdStep d g).1 _ _) hlo hsfp hfs, farRequest_unidirectional hbidir, Option.toList_none,
    List.cons_append, pickReq_first rfl (fun x hx => Nat.le_of_lt (hbelow x hx))
      fun x hx hrank => absurd hrank (Nat.ne_of_gt (hbelow x hx))] at htakes
  exact htakes

end Winner

/-! What an evaluation writes: the groups, the selectors and what the groups send (R182, R187, R190). -/

/-- The groups, the selector bits written and in force, and what the insertion fields send. -/
structure ProtPart where
  groups : List (Nat × Grp)
  selW : List (Nat × Bool)
  selF : List (Nat × Bool)
  lselW : List (Nat × Bool)
  lselF : List (Nat × Bool)
  apsTx : List (Nat × (Nat × List Byte))
  gscTx : List (Nat × Nat)

/-- The groups, the selector bits and the insertion fields of a state. -/
def State.protPart (s : State) : ProtPart := ⟨s.groups, s.selW, s.selF, s.lselW, s.lselF, s.apsTx, s.gscTx⟩

section Records

variable (s : State) (n : Nat)

theorem OnlyRegs.protPart_eq {s t : State} (h : OnlyRegs s t) : t.protPart = s.protPart := (congrArg State.protPart h).trans rfl

theorem evt_protPart (a : Nat) (f : Fld) : (s.evt a f).protPart = s.protPart := rfl

theorem ite_protPart {c : Prop} [Decidable c] {s t u : State} (ht : t.protPart = s.protPart) (hu : u.protPart = s.protPart) :
    (if c then t else u).protPart = s.protPart := by
  split
  · exact ht
  · exact hu

theorem post_protPart (q : Nat) (rec : List Byte) : (s.post q rec).protPart = s.protPart := by
  have hdrop : (s.queDrop q 1).protPart = s.protPart :=
    ((((OnlyRegs.refl s).incPair _ _ _ _).evt _ _).count _ _ _).protPart_eq
  unfold State.post
  split
  · exact ite_protPart rfl (ite_protPart hdrop rfl)
  · rfl

theorem postOwned_protPart (h role : Nat) (rec : List Byte) : (s.postOwned h role rec).protPart = s.protPart := by
  unfold State.postOwned
  split
  · split <;> rfl
  · unfold State.postRole
    split
    · exact post_protPart s _ rec
    · rfl

theorem protEvent_protPart (kind fn : Nat) : (protEvent s n kind fn).protPart = s.protPart := postOwned_protPart s _ _ _

end Records

/-! The writes of an evaluation (R182). -/

section Writes

variable (s : State) (n : Nat) (d : ProtDef)

theorem allStat_onlyRegs : OnlyRegs s (allStat s) := by
  have hport : ∀ t x, OnlyRegs s t → OnlyRegs s (portStat t x) := fun t x ht =>
    (OnlyRegs.foldl (fun u v hu => hu.trans (putStat_onlyRegs u _ _ _ _)) ht).trans (putStat_onlyRegs _ _ _ _ _)
  unfold allStat
  split
  · exact OnlyRegs.foldl (fun t i ht => ht.trans (oduStat_onlyRegs t i)) (OnlyRegs.foldl hport (OnlyRegs.refl s))
  · rfl

theorem OnlyRegs.groups_eq {s t : State} (h : OnlyRegs s t) : t.groups = s.groups := (congrArg State.groups h).trans rfl

theorem selWrite_groups (kind o : Nat) (b : Bool) : (selWrite s kind o b).groups = s.groups := by
  unfold selWrite
  extract_lets k
  split
  · unfold lateStat
    split
    · exact (allStat_onlyRegs _).groups_eq
    · rfl
  · rfl

theorem lselWrite_groups (r : Nat) (b : Bool) : (lselWrite s r b).groups = s.groups := by
  unfold lselWrite
  split
  · dsimp only
    split <;> rfl
  · rfl

theorem putTx_groups (tx : List Byte) : (putTx s d tx).groups = s.groups := by
  unfold putTx
  split <;> rfl

/-- Of the groups only what group `n` sends changes. -/
theorem protWrites_groups :
    (protWrites s n d).groups = (s.updGrp n fun g => { g with tx := (s.grp n).txBytes d }).groups := by
  unfold protWrites
  extract_lets g tx t1 t2
  have h1 : t1.groups = s.groups := by
    unfold t1
    split
    · exact lselWrite_groups s _ _
    · split
      · exact (selWrite_groups _ _ _ _).trans (selWrite_groups s _ _ _)
      · exact selWrite_groups s _ _ _
  have h2 : t2.groups = t1.groups := by
    unfold t2
    split
    · rfl
    · exact putTx_groups t1 d tx
  exact congrArg (fun l => tabUpd ({} : Grp) l n fun g => { g with tx := tx }) (h2.trans h1)

/-- In mid-frame a selector write only sets the bit written, or latches that there is none (R118, R120). -/
theorem selWrite_later {s : State} (h : s.ofs ≠ 0) (kind o : Nat) (b : Bool) :
    ∃ l r, selWrite s kind o b = { s with selW := l, regs := r } := by
  unfold selWrite
  extract_lets k
  split
  · exact ⟨_, _, if_neg h⟩
  · exact ⟨_, _, rfl⟩

theorem lselWrite_later {s : State} (h : s.ofs ≠ 0) (i : Nat) (b : Bool) :
    ∃ l r, lselWrite s i b = { s with lselW := l, regs := r } := by
  unfold lselWrite
  split
  · exact ⟨_, _, if_neg h⟩
  · exact ⟨_, _, rfl⟩

theorem putTx_selF (tx : List Byte) : (putTx s d tx).selF = s.selF ∧ (putTx s d tx).lselF = s.lselF :=
  ⟨congrArg InForce.selF (putTx_inForce s d tx), congrArg InForce.lselF (putTx_inForce s d tx)⟩

theorem protWrites_selF_later {s : State} (hofs : s.ofs ≠ 0) : (protWrites s n d).selF = s.selF ∧ (protWrites s n d).lselF = s.lselF := by
  unfold protWrites
  extract_lets g tx t1 t2
  have h1 : t1.selF = s.selF ∧ t1.lselF = s.lselF := by
    unfold t1
    split
    · obtain ⟨l, r, h⟩ := lselWrite_later hofs d.sel g.sel
      rw [h]
      exact ⟨rfl, rfl⟩
    · obtain ⟨l, r, h⟩ := selWrite_later hofs 1 d.sel g.sel
      rw [h]
      split
      · obtain ⟨l', r', h'⟩ := selWrite_later (s := { s with selW := l, regs := r }) hofs 2 d.bridge g.bridge
        rw [h']
        exact ⟨rfl, rfl⟩
      · exact ⟨rfl, rfl⟩
  have h2 : t2.selF = t1.selF ∧ t2.lselF = t1.lselF := by
    unfold t2
    split
    · exact ⟨rfl, rfl⟩
    · exact putTx_selF t1 d tx
  exact ⟨h2.1.trans h1.1, h2.2.trans h1.2⟩

/-- An entry of a table keeps its value when another one changes, in whatever form the table is. -/
theorem tabGet_tabUpd_other {α : Type} [DecidableEq α] {d : α} {k j : Nat} {f : α → α} {m : List (Nat × α)} (h : f (tabGet d m k) ≠ d)
    (hj : j ≠ k) : tabGet d (tabUpd d m k f) j = tabGet d m j := by
  rw [tabUpd_eq_insert h]
  exact (Tab.get_insert (fun _ => d) k j _ m).trans (if_neg hj)

end Writes

/-! PROT_EVALUATION (R182, R198, R355). -/

section Evaluation

variable {s : State} {d : ProtDef} {n : Nat}

theorem protEval_idle (h : s.prot n = none ∨ s.released = false ∨ (s.grp n).evald = true ∨ (s.grp n).dropped = true ∨
    s.dutyUp (handle 4 n) = false) : protEval s n = s := by
  unfold protEval
  split
  next d hd =>
    refine if_pos ?_
    rcases h with h | h | h | h | h
    · simp [hd] at h
    all_goals simp [h]
  · rfl

/-- The group is evaluated in this frame. -/
structure Evaluated (s : State) (n : Nat) (d : ProtDef) : Prop where
  defined : s.prot n = some d
  released : s.released = true
  first : (s.grp n).evald = false
  kept : (s.grp n).dropped = false
  up : s.dutyUp (handle 4 n) = true

/-- The state that has taken the result of the evaluation, and nothing else. -/
def State.evaluated (s : State) (n : Nat) (d : ProtDef) : State := s.updGrp n fun _ => (evalGrp s d (s.grp n)).1

theorem Evaluated.not_idle (h : Evaluated s n d) :
    ¬(!s.released || (s.grp n).evald || (s.grp n).dropped || !s.dutyUp (handle 4 n)) = true := by
  simp [h.released, h.first, h.kept, h.up]

theorem protEval_standby (h : Evaluated s n d) (hshadow : s.shadowRole = true) : protEval s n = s.evaluated n d := by
  unfold protEval
  rw [h.defined]
  exact (if_neg h.not_idle).trans (if_pos hshadow)

/-- Beyond the group and what `protWrites` does, an evaluation only latches events and posts records. -/
theorem protEval_protPart (h : Evaluated s n d) (hactive : s.shadowRole = false) : (protEval s n).protPart =
    (if s.quietRole then s.evaluated n d else protWrites (s.evaluated n d) n d).protPart := by
  unfold protEval
  split
  next d' hd' =>
    obtain rfl : d = d' := Option.some.inj (h.defined.symm.trans hd')
    extract_lets old r was u hold t1 t2 t3 t4 t5
    rw [if_neg h.not_idle, if_neg (by rw [show u.shadowRole = false from hactive]; decide)]
    have h2 : t2.protPart = t1.protPart := ite_protPart (evt_protPart t1 _ _) rfl
    have h3 : t3.protPart = t2.protPart := ite_protPart (evt_protPart t2 _ _) rfl
    have h4 : t4.protPart = t3.protPart := foldl_leaves State.protPart (fun t k => protEvent_protPart t n k _) _ _
    have h5 : t5.protPart = t4.protPart := ite_protPart (protEvent_protPart t4 n _ _) rfl
    exact (ite_protPart (protEvent_protPart t5 n _ _) rfl).trans (h5.trans (h4.trans (h3.trans h2)))
  next hnone => exact absurd (h.defined.symm.trans hnone) nofun

/-! The group itself: its entry holds a record that is not the empty one, so that it reads back from any table. -/

theorem grp_updGrp {f : Grp → Grp} (h : (f (s.grp n)).evald = true) : (s.updGrp n f).grp n = f (s.grp n) :=
  tabGet_tabUpd_self fun hempty => absurd (h.symm.trans (congrArg Grp.evald hempty)) nofun

theorem grp_updGrp_other {f : Grp → Grp} {k : Nat} (h : (f (s.grp n)).evald = true) (hk : k ≠ n) : (s.updGrp n f).grp k = s.grp k :=
  tabGet_tabUpd_other (fun hempty => absurd (h.symm.trans (congrArg Grp.evald hempty)) nofun) hk

theorem grp_evaluated (s : State) (n : Nat) (d : ProtDef) : (s.evaluated n d).grp n = (evalGrp s d (s.grp n)).1 :=
  grp_updGrp (f := fun _ => (evalGrp s d (s.grp n)).1) rfl

theorem evald_evaluated (s : State) (n : Nat) (d : ProtDef) : ((s.evaluated n d).grp n).evald = true :=
  (congrArg Grp.evald (grp_evaluated s n d)).trans rfl

theorem grp_evaluated_other {k : Nat} (hk : k ≠ n) (d : ProtDef) : (s.evaluated n d).grp k = s.grp k :=
  grp_updGrp_other (f := fun _ => (evalGrp s d (s.grp n)).1) rfl hk

theorem grp_of_groups_eq {t u : State} (h : t.groups = u.groups) (k : Nat) : t.grp k = u.grp k :=
  congrArg (fun l => tabGet ({} : Grp) l k) h

/-- The group ends with what the evaluation made of it, but for the bytes it sends. -/
theorem protEval_grp (h : Evaluated s n d) (hactive : s.shadowRole = false) :
    ∃ tx, (protEval s n).grp n = { (evalGrp s d (s.grp n)).1 with tx := tx } := by
  have hpart := congrArg ProtPart.groups (protEval_protPart h hactive)
  split at hpart
  · exact ⟨_, (grp_of_groups_eq hpart n).trans (grp_evaluated s n d)⟩
  · refine ⟨((s.evaluated n d).grp n).txBytes d, (grp_of_groups_eq (hpart.trans (protWrites_groups _ n d)) n).trans ?_⟩
    rw [grp_updGrp (evald_evaluated s n d), grp_evaluated]

theorem protEval_grp_other (h : Evaluated s n d) (hactive : s.shadowRole = false) {k : Nat} (hk : k ≠ n) :
    (protEval s n).grp k = s.grp k := by
  have hpart := congrArg ProtPart.groups (protEval_protPart h hactive)
  split at hpart
  · exact (grp_of_groups_eq hpart k).trans (grp_evaluated_other hk d)
  · refine (grp_of_groups_eq (hpart.trans (protWrites_groups _ n d)) k).trans ?_
    rw [grp_updGrp_other (evald_evaluated s n d) hk, grp_evaluated_other hk]

/-- In mid-frame nothing that is written takes force (R118, R166). -/
theorem protEval_selF_later (h : Evaluated s n d) (hactive : s.shadowRole = false) (hofs : s.ofs ≠ 0) :
    (protEval s n).selF = s.selF ∧ (protEval s n).lselF = s.lselF := by
  have hpart := protEval_protPart h hactive
  split at hpart
  · exact ⟨congrArg ProtPart.selF hpart, congrArg ProtPart.lselF hpart⟩
  · obtain ⟨hsel, hlsel⟩ := protWrites_selF_later (s := s.evaluated n d) n d hofs
    exact ⟨(congrArg ProtPart.selF hpart).trans hsel, (congrArg ProtPart.lselF hpart).trans hlsel⟩

/-- A unit in HOLDING writes nothing of it (R355). -/
theorem protEval_quiet (h : Evaluated s n d) (hactive : s.shadowRole = false) (hquiet : s.quietRole = true) :
    (protEval s n).protPart = (s.evaluated n d).protPart := (protEval_protPart h hactive).trans (by rw [if_pos hquiet])

theorem exec_protEvaluation {t : State} (hn : n < 65536) (h : protEval s n = t) : exec (.protEvaluation n) s = .next (after s t) :=
  exec_eq_next (decide_eq_true hn) rfl h

end Evaluation

/-- Settles O48: a unit that carries the group out takes the evaluation and writes it, and the highest request is the winner. -/
theorem protectionEvaluation : Obligations.ProtectionEvaluation := by
  refine ⟨fun n s hn => ⟨fun hidle => exec_protEvaluation hn (protEval_idle hidle), fun d hd hrel heval hdrop hup => ?evaluation⟩,
    fun d g s => ⟨fun hlo => ?lo, fun hlo hfs hbidir hty hsfp => ?fs⟩, fun n h => ?hold⟩
  case evaluation =>
    intro r
    have h : Evaluated s n d := ⟨hd, hrel, heval, hdrop, hup⟩
    refine ⟨fun hshadow => exec_protEvaluation hn (protEval_standby h hshadow),
      fun hactive => ⟨protEval s n, exec_protEvaluation hn rfl, ?_⟩⟩
    obtain ⟨tx, htx⟩ := protEval_grp h hactive
    rw [htx]
    refine ⟨rfl, rfl, rfl, rfl, rfl, rfl, fun k hk => protEval_grp_other h hactive hk, protEval_selF_later h hactive, fun hquiet => ?_⟩
    have hpart := protEval_quiet h hactive hquiet
    exact ⟨congrArg ProtPart.selW hpart, congrArg ProtPart.lselW hpart, congrArg ProtPart.apsTx hpart, congrArg ProtPart.gscTx hpart⟩
  case lo =>
    have h := evalGrp_lo hlo s
    exact ⟨h.req, h.sig, h.far, h.working rfl⟩
  case fs =>
    have h := evalGrp_fs hlo hfs hbidir hsfp
    exact ⟨h.req, h.sig, h.far, h.follows hty⟩
  case hold => exact ⟨rfl, fun hpos => if_neg (Nat.ne_of_gt hpos), rfl, rfl⟩

end Sys2Proof.Machine

namespace Sys2Proof.Machine

/-! The ends of hold-off and WTR, and the defects that a group marks (R180, R183, R191, R199). -/

section GroupTimers

variable {s : State} {d : ProtDef} {n t : Nat} {p sd : Bool}

theorem grpLate_later (h : s.ofs ≠ 0) (n : Nat) : grpLate n s = s := if_neg h

theorem grpLate_boundary (h : s.ofs = 0) (hd : s.prot n = some d) : grpLate n s = grpRegs s d := by
  unfold grpLate lateStat
  rw [if_pos h]
  dsimp only
  rw [hd]

/-! The commands: each does its operation, and the registers of the group follow (R199). -/

section Commands

variable {u : State} (hn : n < 65536)
include hn

theorem exec_holdOffEnd (h : holdEnd s n p sd = u) : exec (.holdOffEnd n p sd) s = .next (after s (grpLate n u)) :=
  exec_eq_next (decide_eq_true hn) rfl (congrArg (grpLate n) h)

theorem exec_wtrExpiry (h : wtrExpiry s n = u) : exec (.wtrExpiry n) s = .next (after s (grpLate n u)) :=
  exec_eq_next (decide_eq_true hn) rfl (congrArg (grpLate n) h)

theorem exec_dfopNr (h : dfopNr s n = u) : exec (.dfopNr n) s = .next (after s (grpLate n u)) :=
  exec_eq_next (decide_eq_true hn) rfl (congrArg (grpLate n) h)

theorem exec_dfsl (h : dfsl s n = u) : exec (.dfsl n) s = .next (after s (grpLate n u)) :=
  exec_eq_next (decide_eq_true hn) rfl (congrArg (grpLate n) h)

end Commands

/-! Hold-off (R180). -/

/-- The end of a hold-off: the request is what the sample `x` shows of its condition. -/
def Grp.holdEnded (g : Grp) (x : Bool × Bool × Bool × Bool) : Bool → Bool → Grp
  | false, false => { g with sfw := x.1, hSfw := none }
  | true, false => { g with sfp := x.2.1, hSfp := none }
  | false, true => { g with sdw := x.2.2.1, hSdw := none }
  | true, true => { g with sdp := x.2.2.2, hSdp := none }

theorem holdEnd_due (hd : s.prot n = some d) (ht : holdOf (s.grp n) p sd = some t) (hdue : t + 1 ≤ s.elapsed) :
    holdEnd s n p sd = s.updGrp n (·.holdEnded (s.legs4 d) p sd) := by
  unfold holdEnd
  rw [hd, ht]
  refine (if_neg (Nat.not_lt.mpr hdue)).trans ?_
  cases p <;> cases sd <;> rfl

theorem holdEnd_idle (h : (∀ t, holdOf (s.grp n) p sd = some t → s.elapsed < t + 1) ∨ s.prot n = none) : holdEnd s n p sd = s := by
  unfold holdEnd
  split
  next d t hd ht =>
    rcases h with h | h
    · exact if_pos (h t ht)
    · simp [h] at hd
  · rfl

/-! WTR (R183). -/

/-- The end of WTR: NR with selection working. -/
def Grp.wtrEnded (g : Grp) : Grp := { g with wtr := none, req := 0, sig := false, far := false, sel := false }

theorem wtrExpiry_due (hw : (s.grp n).wtr = some t) (ht : t ≤ s.elapsed) (hup : s.dutyUp (handle 4 n) = true) :
    wtrExpiry s n = if s.shadowRole then s.updGrp n Grp.wtrEnded else protEvent (s.updGrp n Grp.wtrEnded) n 2 s.fnN := by
  unfold wtrExpiry
  rw [hw]
  exact if_pos (by simp [ht, hup])

theorem wtrExpiry_early (hw : (s.grp n).wtr = some t) (h : s.elapsed < t ∨ s.dutyUp (handle 4 n) = false) : wtrExpiry s n = s := by
  unfold wtrExpiry
  rw [hw]
  refine if_neg ?_
  rcases h with h | h
  · simp [Nat.not_le.mpr h]
  · simp [h]

theorem wtrExpiry_idle (hw : (s.grp n).wtr = none) : wtrExpiry s n = s := by
  unfold wtrExpiry
  rw [hw]

/-! Defects (R191). -/

theorem dfopNr_due (hnr : (s.grp n).nr = false) (hrun : 400 ≤ (s.grp n).nrRun) :
    dfopNr s n = if s.shadowRole then s.updGrp n fun g => { g with nr := true, nrOk := 0 }
      else (s.updGrp n fun g => { g with nr := true, nrOk := 0 }).evt Reg.PROT_EVT F.PROT_EVT_FOP :=
  if_neg (by simp [hnr, Nat.not_lt.mpr hrun])

theorem dfopNr_idle (h : (s.grp n).nr = true ∨ (s.grp n).nrRun < 400) : dfopNr s n = s := if_pos (by simpa using h)

theorem dfsl_due (hd : s.prot n = some d) (hfsl : (s.grp n).fsl = false) (hrun : 8 ≤ (s.grp n).fslRun) (hbidir : d.bidir = true)
    (hty : d.ty = 2) :
    dfsl s n = if s.shadowRole then s.updGrp n fun g => { g with fsl := true, fallback := true }
      else (s.updGrp n fun g => { g with fsl := true, fallback := true }).evt Reg.PROT_EVT F.PROT_EVT_FOP := by
  unfold dfsl
  rw [hd]
  exact if_neg (by simp [hfsl, Nat.not_lt.mpr hrun, hbidir, hty])

theorem dfsl_early (hrun : (s.grp n).fslRun < 8) : dfsl s n = s := by
  unfold dfsl
  split
  · exact if_pos (by simp [hrun])
  · rfl

end GroupTimers

/-- Settles O49, clause by clause: each event acts at its frame or leaves the group, and the registers follow at offset 0. -/
theorem protectionTimersAndDefects : Obligations.ProtectionTimersAndDefects := by
  refine ⟨fun n s => ⟨fun h => grpLate_later h n, fun d h hd => grpLate_boundary h hd⟩, fun n t d s hn hd hdue => ?holdOff,
    fun n p sd s hn h => exec_holdOffEnd hn (holdEnd_idle h), fun n t s hn hw => ⟨fun ht hup => ?wtr, fun h =>
      exec_wtrExpiry hn (wtrExpiry_early hw h)⟩, fun n s hn => ⟨fun hw => exec_wtrExpiry hn (wtrExpiry_idle hw),
      fun hnr hrun => exec_dfopNr hn (dfopNr_due hnr hrun), fun h => exec_dfopNr hn (dfopNr_idle h),
      fun d hd hfsl hrun hbidir hty => exec_dfsl hn (dfsl_due hd hfsl hrun hbidir hty), fun hrun => exec_dfsl hn (dfsl_early hrun)⟩⟩
  case holdOff =>
    have hends : ∀ p sd, holdOf (s.grp n) p sd = some t →
        exec (.holdOffEnd n p sd) s = .next (after s (grpLate n (s.updGrp n (·.holdEnded (s.legs4 d) p sd)))) := fun p sd ht =>
      exec_holdOffEnd hn (holdEnd_due hd ht hdue)
    exact ⟨hends false false, hends true false, hends false true, hends true true⟩
  case wtr =>
    exact ⟨fun hshadow => exec_wtrExpiry hn ((wtrExpiry_due hw ht hup).trans (if_pos hshadow)),
      fun hshadow => exec_wtrExpiry hn ((wtrExpiry_due hw ht hup).trans (if_neg (by simp [hshadow])))⟩

end Sys2Proof.Machine

namespace Sys2Proof.Machine

/-! Reference candidates: the step into USABLE, the end of a fault, the signal of an input, and the quality messages (R202, R203, R205, R211). -/

section Candidates

variable {n : Nat} {s t : State}

/-- The state a candidate comes from is the one the selection of that offset 0 still counts (R207). -/
theorem refUsable_of_refSt {k : Nat} (hst : s.refSt n = k) : refUsable s n =
    (s.setFld (Reg.TIM_REF_STAT n) F.TIM_REF_STAT_STATE 4).updRef n fun r =>
      { r with used := true, good := 0, agree := 0, freshAt := s.elapsed, fresh := k } := by
  subst hst
  rfl

theorem refQualified_due (hst : s.refSt n = 1) (hgood : 8000 ≤ (s.ref n).good) : refQualified s n = refLeft (refUsable s n) n :=
  if_pos (by simp [hst, hgood])

theorem refWtrEnd_due (hst : s.refSt n = 3) (hgood : s.timWtr ≤ (s.ref n).good) : refWtrEnd s n = refLeft (refUsable s n) n :=
  if_pos (by simp [hst, hgood])

theorem disputeRelease_due (hst : s.refSt n = 5) (hagree : 8000 ≤ (s.ref n).agree) : disputeRelease s n = refUsable s n :=
  if_pos (by simp [hst, hagree])

/-! The end of a frequency fault. -/

section FreqClear

variable (hwf : Tab.wf regReset s.regs = true)
include hwf

theorem refSt_freqCleared : (s.setFlag (Reg.TIM_REF_STAT n) F.TIM_REF_STAT_FREQ_FAULT false).refSt n = s.refSt n :=
  fld_setFld_beside hwf (by decide) (.inl (by decide))

theorem refFault_freqCleared (hsig : s.flag (Reg.TIM_REF_STAT n) F.TIM_REF_STAT_SIG_FAULT = false) :
    (s.setFlag (Reg.TIM_REF_STAT n) F.TIM_REF_STAT_FREQ_FAULT false).refFault n = false := by
  have hleft : (s.setFlag (Reg.TIM_REF_STAT n) F.TIM_REF_STAT_FREQ_FAULT false).flag (Reg.TIM_REF_STAT n) F.TIM_REF_STAT_SIG_FAULT = false :=
    (flag_setFld_beside hwf (by decide) (.inl (by decide))).trans hsig
  rw [State.refFault, hleft, flag_setFlag_self hwf (by decide) rfl]
  rfl

/-- A frequency fault that is over is cleared; a candidate that had FAILED by it alone returns (R203). -/
theorem freqClear_due (hfreq : s.flag (Reg.TIM_REF_STAT n) F.TIM_REF_STAT_FREQ_FAULT = true) (hin : 8000 ≤ (s.ref n).freqIn)
    (hsig : s.flag (Reg.TIM_REF_STAT n) F.TIM_REF_STAT_SIG_FAULT = false) : freqClear s n =
    if s.refSt n = 2 then refLeft (refReturn (s.setFlag (Reg.TIM_REF_STAT n) F.TIM_REF_STAT_FREQ_FAULT false) n) n
    else s.setFlag (Reg.TIM_REF_STAT n) F.TIM_REF_STAT_FREQ_FAULT false := by
  have hdue : (s.flag (Reg.TIM_REF_STAT n) F.TIM_REF_STAT_FREQ_FAULT && decide (8000 ≤ (s.ref n).freqIn)) = true := by
    rw [hfreq, decide_eq_true hin]
    rfl
  refine (if_pos hdue).trans ?_
  simp only [refSt_freqCleared hwf, refFault_freqCleared hwf hsig, Bool.not_false, Bool.and_true, decide_eq_true_eq]

end FreqClear

/-! The signal of a reference input. -/

theorem refSignal_off (h : ¬(n < 8 ∧ s.refOn n = true)) (fault : Bool) : refSignal s n fault = s := if_neg (by simpa using h)

section InputOn

variable (h8 : n < 8) (hon : s.refOn n = true)
include h8 hon

theorem refSignal_on (fault : Bool) : refSignal s n fault =
    if s.ofs == 0 && s.built && fault then
      refLate (s.updRef n fun r => { r with sig := fault, sigAcc := fault || (r.sigAcc && !(s.ofs == 0 && s.built)) }) n
    else s.updRef n fun r => { r with sig := fault, sigAcc := fault || (r.sigAcc && !(s.ofs == 0 && s.built)) } :=
  if_pos (by simp [h8, hon])

theorem refSignal_late (hofs : s.ofs = 0) (hbuilt : s.built = true) :
    refSignal s n true = refLate (s.updRef n fun r => { r with sig := true, sigAcc := true }) n := by
  rw [refSignal_on h8 hon]
  exact if_pos (by simp [hofs, hbuilt])

theorem refSignal_fault_midframe (hofs : s.ofs ≠ 0) : refSignal s n true = s.updRef n fun r => { r with sig := true, sigAcc := true } := by
  rw [refSignal_on h8 hon]
  exact if_neg (by simp [hofs])

theorem refSignal_return_midframe (hofs : s.ofs ≠ 0) : refSignal s n false = s.updRef n fun r => { r with sig := false } := by
  rw [refSignal_on h8 hon, beq_false_of_ne hofs]
  simp

end InputOn

/-! Quality messages. -/

theorem ssmMessage_level {c : Nat} (hty : s.refTy n = 2 ∨ s.refTy n = 3) (hc : c < 16) :
    ssmMessage s n c = s.updRef n fun r => { r with ssm := r.ssm.feed 3 c } := by
  rw [ssmMessage, if_neg (by simp [hc])]
  exact if_pos (by simpa using hty)

theorem ssmMessage_lost (hty : s.refTy n = 2) : ssmMessage s n 16 = s.updRef n fun r => { r with ssm := {} } :=
  if_pos (by simp [hty])

/-! The commands as these operations. -/

section Commands

variable (hn : n < 41)
include hn

theorem exec_qualified (h : refQualified s n = t) : exec (.qualified n) s = .next (after s t) :=
  exec_eq_next (decide_eq_true hn) rfl h

theorem exec_candidateWtrEnd (h : refWtrEnd s n = t) : exec (.candidateWtrEnd n) s = .next (after s t) :=
  exec_eq_next (decide_eq_true hn) rfl h

theorem exec_disputeRelease (h : disputeRelease s n = t) : exec (.disputeRelease n) s = .next (after s t) :=
  exec_eq_next (decide_eq_true hn) rfl h

theorem exec_frequencyFaultClear (h : freqClear s n = t) : exec (.frequencyFaultClear n) s = .next (after s t) :=
  exec_eq_next (decide_eq_true hn) rfl h

theorem exec_refSignalFault (h : refSignal s n true = t) : exec (.refSignalFault n) s = .next (after s t) :=
  exec_eq_next (decide_eq_true hn) rfl h

theorem exec_refSignalReturn (h : refSignal s n false = t) : exec (.refSignalReturn n) s = .next (after s t) :=
  exec_eq_next (decide_eq_true hn) rfl h

theorem exec_ssmMessage {c : Nat} (hc : c ≤ 16) (h : ssmMessage s n c = t) : exec (.ssmMessage n c) s = .next (after s t) :=
  exec_eq_next (show (decide (n < 41) && decide (c ≤ 16)) = true by simp [hn, hc]) rfl h

end Commands

end Candidates

/-- Settles O28: each command by the lemma of its operation; a cleared frequency fault leaves STATE and SIG_FAULT beside it. -/
theorem candidateStates : Obligations.CandidateStates := by
  refine fun n s hn => ⟨fun hst hgood => ?qualified, fun hst hgood => ?wtr, fun hst hagree => ?dispute,
    fun hwf hfreq hin hsig => ?freq, fun h8 hon hofs hbuilt => exec_refSignalFault hn (refSignal_late h8 hon hofs hbuilt),
    fun h8 hon hofs => ⟨exec_refSignalFault hn (refSignal_fault_midframe h8 hon hofs),
      exec_refSignalReturn hn (refSignal_return_midframe h8 hon hofs)⟩,
    fun hoff => ⟨exec_refSignalFault hn (refSignal_off hoff true), exec_refSignalReturn hn (refSignal_off hoff false)⟩,
    fun c hc => ⟨fun hty hlevel => exec_ssmMessage hn hc (ssmMessage_level hty hlevel), fun hty hlost => ?lost⟩⟩
  case qualified =>
    rw [← refUsable_of_refSt hst]
    exact exec_qualified hn (refQualified_due hst hgood)
  case wtr =>
    rw [← refUsable_of_refSt hst]
    exact exec_candidateWtrEnd hn (refWtrEnd_due hst hgood)
  case dispute =>
    rw [← refUsable_of_refSt hst]
    exact exec_disputeRelease hn (disputeRelease_due hst hagree)
  case freq =>
    have hclear := freqClear_due hwf hfreq hin hsig
    exact ⟨fun hst => exec_frequencyFaultClear hn (hclear.trans (if_neg hst)),
      fun hst => exec_frequencyFaultClear hn (hclear.trans (if_pos hst))⟩
  case lost =>
    subst hlost
    exact exec_ssmMessage hn hc (ssmMessage_lost hty)

end Sys2Proof.Machine

namespace Sys2Proof.Machine

/-! PPS_OUT (R220). -/

section Pps

variable {s t : State}

theorem exec_ppsOutRise (h : ppsOutRise s = t) : exec .ppsOutRise s = .next (after s t) := exec_eq_next rfl rfl h

theorem exec_ppsOutFall (h : ppsOutFall s = t) : exec .ppsOutFall s = .next (after s t) := exec_eq_next rfl rfl h

theorem ppsSquelch_of_unset (hunset : s.flag Reg.TIM_PPS_OUT F.TIM_PPS_OUT_SQ_UNSET = true)
    (hset : s.flag Reg.FT_STAT F.FT_STAT_TIME_SET = false) : s.ppsSquelch = true := by
  rw [State.ppsSquelch, hunset, hset]
  rfl

theorem not_ppsSquelch (h : s.flag Reg.TIM_PPS_OUT F.TIM_PPS_OUT_SQ_UNSET = false ∨ s.flag Reg.FT_STAT F.FT_STAT_TIME_SET = true) :
    s.ppsSquelch = false := by
  rcases h with h | h <;> simp [State.ppsSquelch, h]

theorem ppsOutPin_squelched (h : s.ppsSquelch = true) : s.ppsOutPin = false := by
  rw [State.ppsOutPin, h, Bool.not_true, Bool.and_false]

theorem ppsOutRise_squelched (h : s.ppsSquelch = true) : ppsOutRise s = s := if_neg (by simp [h])

theorem ppsOutRise_due (hclk : s.clk = true) (hstep : 2 ≤ s.bootStep) (hofs : s.ofs = 0) (hfn : s.fnN % 8000 = 0)
    (hopen : s.ppsSquelch = false) :
    ppsOutRise s = { s with tim := { s.tim with ppsHigh := some s.elapsed }, pins := { s.pins with ppsOut := true } } :=
  if_pos (by simp [hclk, hstep, hofs, hfn, hopen])

theorem ppsOutFall_high {n : Nat} (h : s.tim.ppsHigh = some n) : ppsOutFall s =
    if n + max 1 (s.fld Reg.TIM_PPS_OUT F.TIM_PPS_OUT_WIDTH) ≤ s.elapsed then
      { s with tim := { s.tim with ppsHigh := none }, pins := { s.pins with ppsOut := false } }
    else s := by
  unfold ppsOutFall
  rw [h]

end Pps

/-- Settles O30: the pulse by its squelch, its end by the frames elapsed since it began. -/
theorem ppsOutput : Obligations.PpsOutput := by
  refine ⟨fun s hclk hstep hofs hfn => ⟨fun hopen => ?rise, fun hunset hset => ?squelched⟩,
    fun n s hhigh => ⟨fun hover => ?fall, fun hearly => ?stays⟩, by decide⟩
  case rise => exact exec_ppsOutRise (ppsOutRise_due hclk hstep hofs hfn (not_ppsSquelch hopen))
  case squelched =>
    have hsq := ppsSquelch_of_unset hunset hset
    exact ⟨ppsOutPin_squelched hsq, exec_ppsOutRise (ppsOutRise_squelched hsq)⟩
  case fall => exact exec_ppsOutFall ((ppsOutFall_high hhigh).trans (if_pos hover))
  case stays => exact exec_ppsOutFall ((ppsOutFall_high hhigh).trans (if_neg (Nat.not_le.mpr hearly)))

end Sys2Proof.Machine

namespace Sys2Proof.Machine

/-! TOD_OUT_MESSAGE keeps what it sends: the line shows it bit by bit until it has gone out (R221, R223; todOutPin). -/

theorem after_tim (s t : State) : (after s t).tim = t.tim := by rw [after_eq]

theorem exec_todOutMessage (s : State) : exec .todOutMessage s = .next (after s (todOutMessage s)) := exec_eq_next rfl rfl rfl

theorem todOutMessage_due {s : State} (hclk : s.clk = true) (hstep : 2 ≤ s.bootStep) (hofs : s.ofs = 0) (hfn : s.fnN % 8000 = 4000) :
    todOutMessage s = { s.send (.todOut s.todOut) with tim := { s.tim with tod := some (s.now, s.todOut) } } :=
  if_pos (by simp [hclk, hstep, hofs, hfn])

/-- Boot step 2 with the clock running, at offset 0 of frame 4,000; no message has gone out. -/
def beforeFirstTod : State := ({ clk := true, fn := 4000 } : State).setFld Reg.BOOT_STAT F.BOOT_STAT_STEP 2

/-- Refutes O29, in its last clause: TOD_OUT_MESSAGE also keeps the message and its instant (`tim.tod`, which the pin TOD_OUT shows), and
the clause says that nothing but `sent` changes. -/
theorem not_timingUnitEvents : ¬ Obligations.TimingUnitEvents := by
  intro h
  obtain ⟨_, _, _, _, _, _, _, htod⟩ := h
  have hclk : beforeFirstTod.clk = true := rfl
  have hstep : 2 ≤ beforeFirstTod.bootStep := by decide
  have hofs : beforeFirstTod.ofs = 0 := rfl
  have hfn : beforeFirstTod.fnN % 8000 = 4000 := by decide
  have hafter := Host.Outcome.next.inj ((htod beforeFirstTod hclk hstep hofs hfn).symm.trans (exec_todOutMessage beforeFirstTod))
  have hclaimed : (todOutMessage beforeFirstTod).tim.tod = none := by
    have htim := congrArg State.tim hafter
    rw [after_tim, after_tim] at htim
    exact (congrArg Tim.tod htim).symm
  have hkept : (todOutMessage beforeFirstTod).tim.tod = some (beforeFirstTod.now, beforeFirstTod.todOut) := by
    rw [todOutMessage_due hclk hstep hofs hfn]
  exact absurd (hclaimed.symm.trans hkept) nofun

end Sys2Proof.Machine

namespace Sys2Proof.Machine

/-! The mate unit's own record beside the registers: what is written to the one is not seen in the other (R225, R244). -/

section MateRecord

variable (s : State) (f : Mate → Mate) (a b : Nat) (x : Fld)

@[simp] theorem updMate_regs : (s.updMate f).regs = s.regs := rfl
@[simp] theorem updMate_mate : (s.updMate f).mate = f s.mate := rfl
@[simp] theorem updMate_rd : (s.updMate f).rd a = s.rd a := rfl
@[simp] theorem updMate_fld : (s.updMate f).fld a x = s.fld a x := rfl
@[simp] theorem updMate_flag : (s.updMate f).flag a x = s.flag a x := rfl
@[simp] theorem updMate_role : (s.updMate f).role = s.role := rfl
@[simp] theorem setFld_mate (v : Nat) : (s.setFld a x v).mate = s.mate := rfl
@[simp] theorem setFlag_mate (v : Bool) : (s.setFlag a x v).mate = s.mate := rfl
@[simp] theorem evt_mate : (s.evt a x).mate = s.mate := rfl

end MateRecord

theorem beAt_lt (l : List Byte) (o n : Nat) : beAt l o n < 256 ^ n := by
  have h := leNat_lt (slice l o n).reverse
  rwa [List.length_reverse, slice_length] at h

end Sys2Proof.Machine

namespace Sys2Proof.Machine

/-! The lease protocol on the ARB port (R236, R237). -/

section Grinus

variable {s : State} {b p : List Byte} {ty seq : Nat} {o : ReqOut}

/-! Reception: a frame in sync is discarded, or read by the operation of its type. -/

section InSync

variable (hup : s.mateUp = true) (hsync : s.flag Reg.MATE_STAT F.MATE_STAT_ARB_SYNC = true)
include hup hsync

theorem grinusRx_bad (hbad : grinusOk b = false) (op : State → List Byte → Nat → State) : grinusRx s b ty op = grinusBad s := by
  simp [grinusRx, hup, hsync, hbad]

theorem grinusRx_good (hok : grinusOk b = true) (hty : beAt b 1 1 = ty) (op : State → List Byte → Nat → State) :
    grinusRx s b ty op = op s (slice b 8 (beAt b 2 2)) (beAt b 6 2) := by
  simp [grinusRx, hup, hsync, hok, hty]

end InSync

/-! GRANT (R237). -/

/-- What a GRANT that answers a REQUEST leaves in any case: the REQUEST is done, the code is OK, the greatest epoch seen is shown. -/
def granted (s : State) (epoch seq : Nat) : State :=
  let t := (reqDone s seq).setFld Reg.MATE_ARB F.MATE_ARB_LAST_CODE cOK
  t.wr Reg.MATE_EPOCH (max (t.rd Reg.MATE_EPOCH) epoch)

/-- The lease of the answered REQUEST `o` for `d` frames, and the FN at its end. -/
def leased (s : State) (o : ReqOut) (d : Nat) : State :=
  ((s.updMate fun m => { m with lease := some (o.sent + d), len := d }).wr Reg.MATE_EXP_LO (fnPlus o.fn d % 4294967296)).wr
    Reg.MATE_EXP_HI (fnPlus o.fn d / 4294967296)

/-- The lease held under an epoch; a unit that is not ACTIVE becomes so at the next offset 0. -/
def holding (s : State) (epoch : Nat) : State := s.updMate fun m => { m with held := epoch, toActive := s.role != roleACTIVE }

theorem mateGrant_extends (hreq : s.reqFor seq = some o) (hlate : s.elapsed < o.sent + beAt p 4 2)
    (hlonger : ∀ n, s.mate.lease = some n → n < o.sent + beAt p 4 2) :
    mateGrant s p seq = holding (leased (granted s (beAt p 0 4) seq) o (beAt p 4 2)) (beAt p 0 4) := by
  have hlater : (match (granted s (beAt p 0 4) seq).mate.lease with
      | some t => decide (t < o.sent + beAt p 4 2)
      | none => true) = true := by
    show (match s.mate.lease with | some t => decide (t < o.sent + beAt p 4 2) | none => true) = true
    split
    · next n hn => exact decide_eq_true (hlonger n hn)
    · rfl
  unfold mateGrant
  rw [hreq]
  exact (if_neg (Nat.not_le.mpr hlate)).trans (congrArg (holding · (beAt p 0 4)) (if_pos hlater))

section GrantFacts

variable (hwf : Tab.wf regReset s.regs = true) (epoch d : Nat)
include hwf

theorem granted_wf : Tab.wf regReset (granted s epoch seq).regs = true :=
  State.wr_wf (setFld_wf (s := reqDone s seq) hwf _ _ _) _ _

theorem rd_granted_other {a : Nat} (hepoch : a ≠ Reg.MATE_EPOCH) (harb : a ≠ Reg.MATE_ARB) : (granted s epoch seq).rd a = s.rd a :=
  (State.rd_wr_other (setFld_wf (s := reqDone s seq) hwf _ _ _) _ hepoch).trans (rd_setFld_other (s := reqDone s seq) hwf harb)

theorem rd_granted_epoch (he : epoch < 4294967296) : (granted s epoch seq).rd Reg.MATE_EPOCH = max (s.rd Reg.MATE_EPOCH) epoch := by
  have hold : ((reqDone s seq).setFld Reg.MATE_ARB F.MATE_ARB_LAST_CODE cOK).rd Reg.MATE_EPOCH = s.rd Reg.MATE_EPOCH :=
    rd_setFld_other (s := reqDone s seq) hwf (by decide)
  have hmax : max (s.rd Reg.MATE_EPOCH) epoch < 4294967296 := Nat.max_lt.mpr ⟨s.rd_lt _, he⟩
  exact (State.rd_wr_self (setFld_wf (s := reqDone s seq) hwf _ _ _) _ _).trans (by rw [hold, Nat.mod_eq_of_lt hmax])

theorem fld_granted_lastCode : (granted s epoch seq).fld Reg.MATE_ARB F.MATE_ARB_LAST_CODE = 0 :=
  (fld_of_rd_eq (State.rd_wr_other (setFld_wf (s := reqDone s seq) hwf _ _ _) _ (by decide))).trans
    (State.fld_setFld (s := reqDone s seq) hwf _ _ _ (by decide))

theorem rd_leased_other {a : Nat} (hlo : a ≠ Reg.MATE_EXP_LO) (hhi : a ≠ Reg.MATE_EXP_HI) : (leased s o d).rd a = s.rd a :=
  (State.rd_wr_other (State.wr_wf (s := s.updMate _) hwf _ _) _ hhi).trans (State.rd_wr_other (s := s.updMate _) hwf _ hlo)

end GrantFacts

/-- What a GRANT that prolongs the lease leaves: E, the epoch held, the change to ACTIVE, and the registers (R237, R244). -/
theorem leased_shows (hwf : Tab.wf regReset s.regs = true) {epoch : Nat} (he : epoch < 4294967296) (d : Nat) :
    let t := holding (leased (granted s epoch seq) o d) epoch
    t.mate.lease = some (o.sent + d) ∧ t.mate.held = epoch ∧ t.mate.toActive = (s.role != roleACTIVE) ∧
      t.mate.out = s.mate.out.filter (fun x => x.seq != seq) ∧ t.fld Reg.MATE_ARB F.MATE_ARB_LAST_CODE = 0 ∧ t.role = s.role ∧
      t.rd Reg.MATE_EPOCH = max (s.rd Reg.MATE_EPOCH) epoch := by
  have hrd : ∀ {a}, a ≠ Reg.MATE_EXP_LO → a ≠ Reg.MATE_EXP_HI →
      (leased (granted s epoch seq) o d).rd a = (granted s epoch seq).rd a := fun hlo hhi => rd_leased_other (granted_wf hwf _) _ hlo hhi
  have hrole : (leased (granted s epoch seq) o d).role = s.role :=
    fld_of_rd_eq ((hrd (by decide) (by decide)).trans (rd_granted_other hwf _ (by decide) (by decide)))
  exact ⟨rfl, rfl, congrArg (· != roleACTIVE) hrole, rfl, (fld_of_rd_eq (hrd (by decide) (by decide))).trans (fld_granted_lastCode hwf _),
    hrole, (hrd (by decide) (by decide)).trans (rd_granted_epoch hwf _ he)⟩

/-! DENY (R237). -/

/-- What a DENY shows of itself: its event, the greatest epoch seen, its code and the holder it names. -/
def denyShown (s : State) (p : List Byte) (seq : Nat) : State :=
  let t := (reqDone s seq).evt Reg.MATE_EVT F.MATE_EVT_DENIED
  ((t.wr Reg.MATE_EPOCH (max (t.rd Reg.MATE_EPOCH) (beAt p 4 4))).setFld Reg.MATE_ARB F.MATE_ARB_LAST_CODE (beAt p 0 1)).setFld Reg.MATE_ARB
    F.MATE_ARB_HOLDER (beAt p 1 1)

/-- The unit leaves its role for HOLDING at the next offset 0 where `c` says so. -/
def leaving (s : State) (c : Bool) : State := if c then s.updMate fun m => { m with toHold := true } else s

theorem mateDeny_replies (hreq : s.reqFor seq = some o) :
    mateDeny s p seq = leaving (denyShown s p seq) (beAt p 0 1 = 0x31 && o.epoch ≠ 0 && o.epoch = s.mate.held) := by
  unfold mateDeny
  rw [hreq]
  rfl

theorem denyShown_event (hwf : Tab.wf regReset s.regs = true) : (denyShown s p seq).flag Reg.MATE_EVT F.MATE_EVT_DENIED = true := by
  have hlatched : ((reqDone s seq).evt Reg.MATE_EVT F.MATE_EVT_DENIED).flag Reg.MATE_EVT F.MATE_EVT_DENIED = true :=
    flag_evt_self (s := reqDone s seq) hwf (by decide)
  have h1 := evt_wf (s := reqDone s seq) hwf Reg.MATE_EVT F.MATE_EVT_DENIED
  exact (flag_of_rd_eq ((rd_setFld_other (setFld_wf (State.wr_wf h1 _ _) _ _ _) (by decide)).trans
    ((rd_setFld_other (State.wr_wf h1 _ _) (by decide)).trans (State.rd_wr_other h1 _ (by decide))))).trans hlatched

theorem leaving_flag (s : State) (c : Bool) (a : Nat) (f : Fld) : (leaving s c).flag a f = s.flag a f := by
  cases c <;> rfl

theorem leaving_mate (s : State) (c : Bool) : (leaving s c).mate = { s.mate with toHold := s.mate.toHold || c } := by
  cases c <;> simp [leaving]

theorem denied_shows (hwf : Tab.wf regReset s.regs = true) (c : Bool) :
    let t := leaving (denyShown s p seq) c
    t.mate.out = s.mate.out.filter (fun x => x.seq != seq) ∧ t.flag Reg.MATE_EVT F.MATE_EVT_DENIED = true ∧ t.mate.lease = s.mate.lease ∧
      (t.mate.toHold = true ↔ s.mate.toHold = true ∨ c = true) := by
  dsimp only
  rw [leaving_mate, leaving_flag]
  exact ⟨rfl, denyShown_event hwf, rfl, by simp [denyShown, reqDone]⟩

/-! The other frames, and time (R226, R236, R237). -/

theorem mateRelAck_ends (h : s.mate.relEpoch = some (beAt p 0 4)) (seq : Nat) :
    mateRelAck s p seq = s.updMate fun m => { m with relEpoch := none } := if_pos h

theorem mateChunk_same_mirror (hk : beAt p 6 2 < 40) (hfn : s.mate.chunkFn = beAt p 0 6) (seq : Nat) :
    mateChunk s p seq = s.updMate fun m => { m with chunks := tabSet [] m.chunks (beAt p 6 2) (p.drop 8) } := by
  unfold mateChunk
  dsimp only
  rw [if_neg (Nat.not_le.mpr hk), if_pos hfn]

theorem leaseExpiry_due {n : Nat} (h : s.mate.lease = some n) (hrole : s.role = roleACTIVE) (hn : n ≤ s.elapsed) :
    leaseExpiry s = toHolding s := by
  unfold leaseExpiry
  rw [h]
  exact if_pos (by simp [hrole, hn])

theorem holdExpiry_due {n : Nat} (h : s.mate.lease = some n) (hrole : s.role = roleHOLDING)
    (hn : n + s.fld Reg.MATE_CFG F.MATE_CFG_HOLD ≤ s.elapsed) : holdExpiry s = toDiverged s 5 := by
  unfold holdExpiry
  rw [h]
  exact if_pos (by simp [hrole, hn])

section Release

variable (hv : s.valid Reg.MATE_CMD_RES = false) (hr : s.inReturn = false)
include hv hr

theorem mateRelease_active (hrole : s.role = roleACTIVE) :
    mateRelease s = (s.updMate fun m => { m with toDiv := true }).putRes Reg.MATE_CMD_RES cOK 0 := by
  simp [mateRelease, hv, hr, hrole]

theorem mateRelease_inactive (hrole : s.role ≠ roleACTIVE) : mateRelease s = s.putRes Reg.MATE_CMD_RES eINUSE 0 := by
  simp [mateRelease, hv, hr, hrole]

end Release

end Grinus

/-- Settles O31: the frames by what `grinusRx` does with them, GRANT and DENY by the parts of their effect, the rest as operations. -/
theorem leaseProtocol : Obligations.LeaseProtocol := by
  refine ⟨fun s hdue => exec_eq_next rfl rfl (if_pos hdue), fun b o s hup hsync hok hwf hreq => ⟨fun hty hlate hlonger => ?grant, fun hty => ?deny⟩,
    fun b s hup hsync => ⟨fun hok hty hrel => ?ack, fun hok hty hk hfn => ?chunk, fun hbad => ?bad⟩, fun s => ?timeout,
    fun n s hlease => ⟨fun hrole hn => ?lease, fun hrole hn => ?hold⟩, fun s hs hv hr => ⟨fun hrole => ?release, fun hrole => ?inactive⟩,
    fun g s hup => exec_eq_next rfl rfl (if_pos hup)⟩
  case grant =>
    exact ⟨_, exec_eq_next rfl rfl ((grinusRx_good hup hsync hok hty _).trans (mateGrant_extends hreq hlate hlonger)),
      leased_shows hwf (beAt_lt _ 0 4) _⟩
  case deny =>
    obtain ⟨hout, hevent, hlease, hends⟩ := denied_shows (seq := beAt b 6 2) (p := slice b 8 (beAt b 2 2)) hwf
      (beAt (slice b 8 (beAt b 2 2)) 0 1 = 0x31 && o.epoch ≠ 0 && o.epoch = s.mate.held)
    exact ⟨_, exec_eq_next rfl rfl ((grinusRx_good hup hsync hok hty _).trans (mateDeny_replies hreq)), hout, hevent, hlease,
      hends.trans (by simp [and_assoc])⟩
  case ack => exact exec_eq_next rfl rfl ((grinusRx_good hup hsync hok hty _).trans (mateRelAck_ends hrel _))
  case chunk => exact exec_eq_next rfl rfl ((grinusRx_good hup hsync hok hty _).trans (mateChunk_same_mirror hk hfn _))
  case bad =>
    simp only [List.forall_mem_cons, List.not_mem_nil, false_implies, implies_true, and_true]
    exact ⟨exec_eq_next rfl rfl (grinusRx_bad hup hsync hbad _), exec_eq_next rfl rfl (grinusRx_bad hup hsync hbad _),
      exec_eq_next rfl rfl (grinusRx_bad hup hsync hbad _), exec_eq_next rfl rfl (grinusRx_bad hup hsync hbad _),
      exec_eq_next rfl rfl (if_pos hup)⟩
  case timeout =>
    exact ⟨replyTimeout s, exec_eq_next rfl rfl rfl, rfl, fun o => by simp [replyTimeout, List.mem_filter]⟩
  case lease => exact exec_eq_next rfl rfl (leaseExpiry_due hlease hrole hn)
  case hold => exact exec_eq_next rfl rfl (holdExpiry_due hlease hrole hn)
  case release => exact exec_eq_next rfl rfl ((if_pos hs).trans (mateRelease_active hv hr hrole))
  case inactive => exact exec_eq_next rfl rfl ((if_pos hs).trans (mateRelease_inactive hv hr hrole))

end Sys2Proof.Machine

namespace Sys2Proof.Machine

theorem OnlyRegs.elapsed_eq {s t : State} (h : OnlyRegs s t) : t.elapsed = s.elapsed := (congrArg State.elapsed h).trans rfl

/-! The role register (R226, R244). -/

section Role

variable {s : State}

theorem roleSync_onlyRegs (s : State) : OnlyRegs s (roleSync s) := (OnlyRegs.refl s).setFlag _ _ _

/-- A unit that diverges: the role's own registers. -/
theorem setRole_diverged (h : s.role ≠ roleDIVERGED) (reason : Nat) : setRole s roleDIVERGED reason =
    roleSync ((((s.evt Reg.MATE_EVT F.MATE_EVT_ROLE_CHG).setFld Reg.MATE_STAT F.MATE_STAT_ROLE roleDIVERGED).setFld Reg.MATE_STAT
      F.MATE_STAT_REASON reason).setFlag Reg.MATE_STAT F.MATE_STAT_ROLE_ACT false) := by
  unfold setRole
  rw [if_neg h]
  rfl

theorem setRole_diverged_shows (hwf : Tab.wf regReset s.regs = true) (h : s.role ≠ roleDIVERGED) {reason : Nat} (hreason : reason < 8) :
    (setRole s roleDIVERGED reason).role = roleDIVERGED ∧ (setRole s roleDIVERGED reason).fld Reg.MATE_STAT F.MATE_STAT_REASON = reason ∧
      (setRole s roleDIVERGED reason).flag Reg.MATE_EVT F.MATE_EVT_ROLE_CHG = true ∧ OnlyRegs s (setRole s roleDIVERGED reason) := by
  rw [setRole_diverged h]
  have h1 := evt_wf hwf Reg.MATE_EVT F.MATE_EVT_ROLE_CHG
  have h2 := setFld_wf h1 Reg.MATE_STAT F.MATE_STAT_ROLE roleDIVERGED
  have h3 := setFld_wf h2 Reg.MATE_STAT F.MATE_STAT_REASON reason
  have h4 := setFlag_wf h3 Reg.MATE_STAT F.MATE_STAT_ROLE_ACT false
  refine ⟨?role, ?reason, ?event, ((((OnlyRegs.refl s).evt _ _).setFld _ _ _).setFld _ _ _).setFlag _ _ _ |>.setFlag _ _ _⟩
  case role =>
    refine (fld_setFld_beside h4 (by decide) (by decide)).trans ((fld_setFld_beside h3 (by decide) (by decide)).trans
      ((fld_setFld_beside h2 (by decide) (by decide)).trans (State.fld_setFld h1 _ _ _ (by decide))))
  case reason =>
    refine (fld_setFld_beside h4 (by decide) (by decide)).trans ((fld_setFld_beside h3 (by decide) (by decide)).trans
      ((State.fld_setFld h2 _ _ _ (by decide)).trans (Nat.mod_eq_of_lt hreason)))
  case event =>
    exact (flag_of_rd_eq ((rd_setFld_other h4 (by decide)).trans ((rd_setFld_other h3 (by decide)).trans
      ((rd_setFld_other h2 (by decide)).trans (rd_setFld_other h1 (by decide)))))).trans (flag_evt_self hwf (by decide))

theorem mirrorLoss_diverges (hrole : s.role = roleSTANDBY) (hlate : s.mate.mirAt + 17 ≤ s.elapsed) :
    mirrorLoss s = setRole s roleDIVERGED 2 := if_pos (by simp [hrole, hlate])

end Role

/-! Markers (R227, R228). -/

section Markers

variable {s : State} {l : Nat} {r : MarkerRx}

/-- The light of a lane as its receiver reads it (log entry 133). -/
def lightShown (s : State) (l : Nat) (power : Int) : State :=
  (s.setFlag (Reg.MATE_LANE_STAT l) F.MATE_LANE_STAT_LIGHT (decide (Config.mateLight < power))).setFld (Reg.MATE_LANE_STAT l)
    F.MATE_LANE_STAT_RX_PWR (unsext power 12)

theorem lightShown_wf (hwf : Tab.wf regReset s.regs = true) (l : Nat) (power : Int) : Tab.wf regReset (lightShown s l power).regs = true :=
  setFld_wf (setFlag_wf hwf _ _ _) _ _ _

theorem lightShown_nlock (hwf : Tab.wf regReset s.regs = true) (l : Nat) (power : Int) : (lightShown s l power).nlock l = s.nlock l :=
  (flag_setFld_beside (setFlag_wf hwf _ _ _) (by decide) (by decide)).trans (flag_setFld_beside hwf (by decide) (by decide))

theorem rd_lightShown_other (hwf : Tab.wf regReset s.regs = true) {a : Nat} (ha : a ≠ Reg.MATE_LANE_STAT l) (power : Int) :
    (lightShown s l power).rd a = s.rd a :=
  (rd_setFld_other (setFlag_wf hwf _ _ _) ha).trans (rd_setFld_other hwf ha)

/-- The lock of a lane is kept at a marker at place `pos`. -/
def lockKept (s : State) (l pos : Nat) : State := s.updNlane l fun n => { n with lockPos := pos, miss := 0 }

theorem nirrinMarker_keepsLock (hup : s.mateUp = true) (hwf : Tab.wf regReset s.regs = true) (hlock : s.nlock l = true)
    (hpos : r.pos = (s.nlane l).lockPos + nirrinPeriod) (hd : awDiff r.bytes nirrinAW 6 ≤ 3) : nirrinMarker s l r =
      if r.uncor then lockKept (lightShown s l r.power) l r.pos else markerFields (lockKept (lightShown s l r.power) l r.pos) l r.bytes := by
  unfold nirrinMarker
  rw [if_neg (by simp [hup])]
  extract_lets a t d n read
  have hlocked : t.nlock l = true := (lightShown_nlock hwf l r.power).trans hlock
  have hplace : n.lockPos = (s.nlane l).lockPos := rfl
  have hread : ∀ v, read v = if r.uncor then v else markerFields v l r.bytes := fun _ => rfl
  rw [if_pos hlocked, hplace, if_neg (not_not.mpr hpos), if_pos hd, hread]
  rfl

/-- What a marker shows of the peer, before the FN it may give. -/
def peerShown (s : State) (b : List Byte) : State :=
  let t := s.wr Reg.MATE_PEER_HEALTH (beAt b 14 4)
  (t.wr Reg.MATE_EPOCH (max (t.rd Reg.MATE_EPOCH) (beAt b 18 4))).updMate fun m => { m with peerAt := some s.elapsed, peerRole := beAt b 13 1 % 8 }

theorem peerShown_shows (hwf : Tab.wf regReset s.regs = true) (b : List Byte) :
    (peerShown s b).rd Reg.MATE_PEER_HEALTH = beAt b 14 4 ∧
      (peerShown s b).rd Reg.MATE_EPOCH = max (s.rd Reg.MATE_EPOCH) (beAt b 18 4) := by
  have hhealth := State.wr_wf hwf Reg.MATE_PEER_HEALTH (beAt b 14 4)
  have hold : (s.wr Reg.MATE_PEER_HEALTH (beAt b 14 4)).rd Reg.MATE_EPOCH = s.rd Reg.MATE_EPOCH := State.rd_wr_other hwf _ (by decide)
  have hmax : max (s.rd Reg.MATE_EPOCH) (beAt b 18 4) < 4294967296 := Nat.max_lt.mpr ⟨s.rd_lt _, beAt_lt b 18 4⟩
  exact ⟨(State.rd_wr_other hhealth _ (by decide)).trans ((State.rd_wr_self hwf _ _).trans (Nat.mod_eq_of_lt (beAt_lt b 14 4))),
    (State.rd_wr_self hhealth _ _).trans (by rw [hold, Nat.mod_eq_of_lt hmax])⟩

theorem mateDelay_onlyRegs (s : State) : OnlyRegs s (mateDelay s) := by
  unfold mateDelay
  extract_lets r d
  exact ((OnlyRegs.refl s).setFlag _ _ _).ite (((OnlyRegs.refl s).setFld _ _ _).setFlag _ _ _)

theorem mateDelay_wf (hwf : Tab.wf regReset s.regs = true) : Tab.wf regReset (mateDelay s).regs = true := by
  unfold mateDelay
  extract_lets r d
  split
  · exact setFlag_wf hwf _ _ _
  · exact setFlag_wf (setFld_wf hwf _ _ _) _ _ _

theorem rd_mateDelay_other (hwf : Tab.wf regReset s.regs = true) {a : Nat} (ha : a ≠ Reg.MATE_DELAY) : (mateDelay s).rd a = s.rd a := by
  unfold mateDelay
  extract_lets r d
  split
  · exact rd_setFld_other hwf ha
  · exact (rd_setFld_other (setFld_wf hwf _ _ _) ha).trans (rd_setFld_other hwf ha)

/-- A marker is read: the lane's round trip, the peer, and for a unit that follows candidate 40 the FN it may take (R209, R228). -/
theorem markerFields_eq (s : State) (l : Nat) (b : List Byte) : ∃ (f : NLane → NLane) (fn : Option Nat),
    markerFields s l b = (peerShown (mateDelay (s.updNlane l f)) b).updMate fun m => { m with newFn := fn } := by
  unfold markerFields
  extract_lets p x c rtt t1 t2 t3 t4 t5
  split
  · exact ⟨_, some p, rfl⟩
  · exact ⟨_, t5.mate.newFn, rfl⟩

/-- What a marker that is read shows: the peer's health and role, when it was heard, and the greatest epoch seen (R226 to R228). -/
theorem markerFields_shows (hwf : Tab.wf regReset s.regs = true) (l : Nat) (b : List Byte) :
    (markerFields s l b).rd Reg.MATE_PEER_HEALTH = beAt b 14 4 ∧ (markerFields s l b).mate.peerAt = some s.elapsed ∧
      (markerFields s l b).mate.peerRole = beAt b 13 1 % 8 ∧
      (markerFields s l b).rd Reg.MATE_EPOCH = max (s.rd Reg.MATE_EPOCH) (beAt b 18 4) := by
  obtain ⟨f, fn, h⟩ := markerFields_eq s l b
  have hlane : Tab.wf regReset (s.updNlane l f).regs = true := hwf
  have helapsed : (mateDelay (s.updNlane l f)).elapsed = s.elapsed := (mateDelay_onlyRegs (s.updNlane l f)).elapsed_eq
  have hepoch : (mateDelay (s.updNlane l f)).rd Reg.MATE_EPOCH = s.rd Reg.MATE_EPOCH := rd_mateDelay_other hlane (by decide)
  obtain ⟨hhealth, hmax⟩ := peerShown_shows (mateDelay_wf hlane) b
  rw [h]
  exact ⟨hhealth, congrArg some helapsed, rfl, hmax.trans (by rw [hepoch])⟩

theorem rd_lockKept (s : State) (l pos a : Nat) : (lockKept s l pos).rd a = s.rd a := rfl

theorem epoch_ne_laneStat (l : Nat) : Reg.MATE_EPOCH ≠ Reg.MATE_LANE_STAT l := by
  unfold Reg.MATE_EPOCH Reg.MATE_LANE_STAT
  omega

theorem lockKept_wf (hwf : Tab.wf regReset s.regs = true) (l pos : Nat) : Tab.wf regReset (lockKept s l pos).regs = true := hwf

theorem lightShown_elapsed (s : State) (l : Nat) (power : Int) : (lightShown s l power).elapsed = s.elapsed :=
  (((OnlyRegs.refl s).setFlag _ _ _).setFld _ _ _).elapsed_eq

theorem lockKept_elapsed (s : State) (l pos : Nat) : (lockKept s l pos).elapsed = s.elapsed := rfl

/-- A marker of a locked lane that is read shows the peer as `markerFields_shows`, the epoch against the unit's own before it. -/
theorem markerRead_shows (hwf : Tab.wf regReset s.regs = true) (l pos : Nat) (power : Int) (b : List Byte) :
    (markerFields (lockKept (lightShown s l power) l pos) l b).rd Reg.MATE_PEER_HEALTH = beAt b 14 4 ∧
      (markerFields (lockKept (lightShown s l power) l pos) l b).mate.peerAt = some s.elapsed ∧
      (markerFields (lockKept (lightShown s l power) l pos) l b).mate.peerRole = beAt b 13 1 % 8 ∧
      (markerFields (lockKept (lightShown s l power) l pos) l b).rd Reg.MATE_EPOCH = max (s.rd Reg.MATE_EPOCH) (beAt b 18 4) := by
  obtain ⟨hhealth, hat, hrole, hepoch⟩ := markerFields_shows (lockKept_wf (lightShown_wf hwf l power) l pos) l b
  rw [lockKept_elapsed, lightShown_elapsed] at hat
  rw [rd_lockKept, rd_lightShown_other hwf (epoch_ne_laneStat l)] at hepoch
  exact ⟨hhealth, hat, hrole, hepoch⟩

theorem exec_nirrinMarker {t : State} (hl : l < 8) (h : nirrinMarker s l r = t) : exec (.nirrinMarker l r) s = .next (after s t) :=
  exec_eq_next (decide_eq_true hl) rfl h

/-! Mirror blocks (R227, R230). -/

theorem exec_nirrinBlock {b : List Byte} {uncor : Bool} {t : State} (hl : l < 8) (h : nirrinBlock s l b uncor = t) :
    exec (.nirrinBlock l b uncor) s = .next (after s t) :=
  exec_eq_next (decide_eq_true hl) rfl h

theorem nirrinBlock_stores {b : List Byte} (hup : s.mateUp = true) (hlock : s.nlock l = true) (hty : beAt b 0 1 = 2) (hlane : beAt b 3 1 % 8 = l)
    (hfirst : 2318 ≤ beAt b 1 2) (hlast : 8 * (beAt b 1 2 - 2318) + l < 421) : nirrinBlock s l b false = s.updMate fun m =>
      { m with pieces := tabSet (256, []) m.pieces (8 * (beAt b 1 2 - 2318) + l) (beAt b 4 1, slice b 5 1280) } :=
  if_neg (by simp [hup, hlock, hty, hlane, Nat.not_lt.mpr hfirst, Nat.not_le.mpr hlast])

theorem nirrinBlock_lost (s : State) (l : Nat) (b : List Byte) : nirrinBlock s l b true = s := if_pos (by simp)

end Markers

/-! The state of the link (R226, R229). -/

section Link

variable {s : State}

theorem linkDown_due (hflag : s.flag Reg.MATE_STAT F.MATE_STAT_LINK_UP = true) (hrun : 16 ≤ s.mate.badRun) : linkDown s =
    ((s.setFlag Reg.MATE_STAT F.MATE_STAT_LINK_UP false).evt Reg.MATE_EVT F.MATE_EVT_LINK_DOWN).updMate fun m => { m with goodRun := 0 } :=
  if_pos (by simp [hflag, hrun])

theorem linkUp_due (hflag : s.flag Reg.MATE_STAT F.MATE_STAT_LINK_UP = false) (hrun : 64 ≤ s.mate.goodRun) : linkUp s =
    ((s.setFlag Reg.MATE_STAT F.MATE_STAT_LINK_UP true).evt Reg.MATE_EVT F.MATE_EVT_LINK_UP).updMate fun m => { m with badRun := 0 } :=
  if_pos (by simp [hflag, hrun])

theorem peerTimeout_due {n : Nat} (h : s.mate.peerAt = some n) (hn : n + 16 < s.elapsed) : peerTimeout s =
    let u := s.updMate fun m => { m with peerAt := none }
    if s.role = roleACTIVE then u.setFlag Reg.MATE_STAT F.MATE_STAT_ROLE_SYNC false else u := by
  unfold peerTimeout
  rw [h]
  exact if_pos hn

end Link

/-! Loopback tests (R242). -/

section Loopback

variable {s : State} {g : Nat}

theorem exec_loopbackTest {start e : Bool} {t : State} (hg : g < 64) (h : loopbackTest s g start e = t) :
    exec (.loopbackTest g start e) s = .next (after s t) :=
  exec_eq_next (decide_eq_true hg) rfl h

theorem loopNext_group (h : s.loopNext = some g) : s.fuses.group g = true ∧ s.domOn g = true ∧ s.spareMode g ≠ 2 := by
  have hfound := List.find?_some h
  simpa [and_assoc] using hfound

/-- `n` frames have passed since the last loop began, if one has. -/
def State.loopPast (s : State) (n : Nat) : Bool :=
  match s.mate.loopAt with
  | some t => decide (t + n ≤ s.elapsed)
  | none => true

theorem loopPast_iff {n : Nat} : s.loopPast n = true ↔ ∀ t, s.mate.loopAt = some t → t + n ≤ s.elapsed := by
  unfold State.loopPast
  cases s.mate.loopAt <;> simp

theorem selfTests_of (hup : s.mateUp = true) (hrole : s.role = roleSTANDBY)
    (hself : s.flag Reg.MATE_CTRL F.MATE_CTRL_SELFTEST = true) : s.selfTests = true := by
  simp [State.selfTests, hup, hrole, hself]

theorem loopbackTest_starts (htests : s.selfTests = true) (hon : s.mate.loopOn = none) (hnext : s.loopNext = some g)
    (hpast : s.loopPast 8000 = true) (e : Bool) : loopbackTest s g true e =
      (s.setFlag (Reg.PG_LANE_CTRL g 16) F.PG_LANE_CTRL_LOOP true).updMate fun m =>
        { m with loopOn := some g, loopAt := some s.elapsed, loopLast := g } := by
  unfold loopbackTest
  extract_lets past
  have hdue : past 8000 = true := hpast
  rw [if_pos rfl]
  exact if_pos (by simp [htests, hon, hnext, hdue])

section Running

variable (hon : s.mate.loopOn = some g)
include hon

theorem loopbackTest_untested (htests : s.selfTests = false) (e : Bool) : loopbackTest s g false e = loopEnd s g := by
  unfold loopbackTest
  extract_lets past
  rw [if_neg nofun, if_neg (not_not.mpr hon)]
  exact if_pos (by simp [htests])

theorem loopbackTest_passes (htests : s.selfTests = true) (hpast : s.loopPast 800 = true) : loopbackTest s g false false =
    (loopEnd s g).updMate fun m => { m with loopBad := m.loopBad.filter (· != g) } := by
  unfold loopbackTest
  extract_lets past
  have hdue : past 800 = true := hpast
  rw [if_neg nofun, if_neg (not_not.mpr hon), if_neg (by simp [htests]), if_neg (by simp [hdue])]
  rfl

end Running

end Loopback

/-! What the lanes send at a boundary (R54, R227). -/

section Sending

variable {β : Type}

/-- Messages that do not depend on what was sent before go out one after the other. -/
theorem foldl_send {x : State → β → Sent} (s : State) (hx : ∀ v b, x { s with sent := v } b = x s b) (l : List β) (v : List Sent) :
    l.foldl (fun t b => t.send (x t b)) { s with sent := v } = { s with sent := v ++ l.map (x s) } := by
  induction l generalizing v with
  | nil => simp
  | cons b l ih =>
    have hfirst : ({ s with sent := v } : State).send (x { s with sent := v } b) = { s with sent := v ++ [x s b] } := by
      rw [hx]
      rfl
    rw [List.foldl_cons, hfirst, ih, List.map_cons, List.append_assoc, List.singleton_append]

theorem sendIdle_eq (s : State) (lanes : List Nat) (first : Nat → Nat) (last : Nat) : sendIdle s lanes first last =
    { s with sent := s.sent ++ lanes.map fun l => .nirrinIdle l (first l) last (s.fnN % 256) } :=
  foldl_send s (fun _ _ => rfl) lanes s.sent

theorem sendMarkers_up {s : State} (hup : s.mateUp = true) : sendMarkers s =
    { s with sent := s.sent ++ (s.mateLanes.map fun l => .marker l (s.markerBytes l)) ++
      (s.mateLanes.map fun l => .nirrinIdle l 1 2317 (s.fnN % 256)) } := by
  have hmarkers : s.mateLanes.foldl (fun t l => t.send (.marker l (t.markerBytes l))) s =
      { s with sent := s.sent ++ s.mateLanes.map fun l => .marker l (s.markerBytes l) } :=
    foldl_send s (fun _ _ => rfl) s.mateLanes s.sent
  have hboth : sendMarkers s = sendIdle _ s.mateLanes _ _ := if_pos hup
  rw [hboth, hmarkers, sendIdle_eq]
  rfl

theorem mem_mateLanes {s : State} {l : Nat} : l ∈ s.mateLanes ↔ l < 8 ∧ s.running = true ∧
    s.flag (Reg.PG_ELS_STAT (s.mateFibre l)) F.PG_ELS_STAT_DRIVEN = true ∧ s.elsSt (s.mateFibre l) ≠ 3 := by
  simp [State.mateLanes, State.mateLit, and_assoc]

theorem leBytes_length (n k : Nat) : (leBytes n k).length = k := by
  induction k generalizing n with
  | zero => rfl
  | succ k ih => rw [leBytes, List.length_cons, ih]

theorem beBytes_length (n k : Nat) : (beBytes n k).length = k := by rw [beBytes, List.length_reverse, leBytes_length]

theorem leNat_leBytes (n k : Nat) : leNat (leBytes n k) = n % 256 ^ k := by
  induction k generalizing n with
  | zero => simp [leBytes, leNat, Nat.mod_one]
  | succ k ih =>
    have hb : (byte n).toNat = n % 256 := BitVec.toNat_ofNat n 8
    rw [leBytes, leNat, ih, hb, Nat.pow_succ', Nat.mod_mul]

theorem beNat_beBytes (n k : Nat) : beNat (beBytes n k) = n % 256 ^ k := by
  rw [beNat, beBytes, List.reverse_reverse, leNat_leBytes]

theorem markerBytes_length (s : State) (l : Nat) : (s.markerBytes l).length = 38 := by
  simp [State.markerBytes, beBytes_length]

/-- A slice that is one part of a list of bytes. -/
theorem slice_part {a b c : List Byte} {o n : Nat} (ha : a.length = o) (hb : b.length = n) : slice (a ++ (b ++ c)) o n = b := by
  have hpart : ((a ++ (b ++ c)).drop o).take n = b := by rw [List.drop_left' ha, List.take_left' hb]
  rw [slice, hpart, hb, Nat.sub_self, List.replicate_zero, List.append_nil]

theorem markerBytes_fn (s : State) (l : Nat) : beAt (s.markerBytes l) 6 6 = s.fnN := by
  have hslice : slice (s.markerBytes l) 6 6 = beBytes s.fnN 6 := by
    simp only [State.markerBytes, List.append_assoc]
    exact slice_part (beBytes_length _ 6) (beBytes_length _ 6)
  rw [beAt, hslice, beNat_beBytes]
  exact Nat.mod_eq_of_lt s.fn.isLt

end Sending

/-- Settles O32: a marker by the lock it keeps, the link's and the loop's states as operations, what is sent message by message. -/
theorem nirrinLink : Obligations.NirrinLink := by
  refine ⟨fun l r s hl hup hlock hwf hpos hd => ⟨fun hunc => ?lost, fun hgood => ?read⟩, fun l b s hl hup hlock =>
      ⟨fun hty hlane hfirst hlast => ?stored, exec_nirrinBlock hl (nirrinBlock_lost s l b)⟩,
    fun s => ⟨fun hflag hrun => exec_eq_next rfl rfl (linkDown_due hflag hrun), fun hflag hrun => exec_eq_next rfl rfl (linkUp_due hflag hrun),
      fun hrole hlate hwf => ?mirrorLoss, fun n h hn => exec_eq_next rfl rfl (peerTimeout_due h hn)⟩,
    fun g e s hg => ⟨fun hup hrole hself hon hnext hpast => ?starts, loopNext_group, fun hon htests => ?untested,
      fun hon htests hpast => ?passes⟩, fun s hup => sendMarkers_up hup, fun s l => mem_mateLanes,
    fun s l => ⟨markerBytes_length s l, markerBytes_fn s l⟩⟩
  case lost => exact exec_nirrinMarker hl ((nirrinMarker_keepsLock hup hwf hlock hpos hd).trans (if_pos hunc))
  case read => exact ⟨_, exec_nirrinMarker hl ((nirrinMarker_keepsLock hup hwf hlock hpos hd).trans (if_neg (by simp [hgood]))),
    markerRead_shows hwf l r.pos r.power r.bytes⟩
  case stored => exact exec_nirrinBlock hl (nirrinBlock_stores hup hlock hty hlane hfirst hlast)
  case mirrorLoss =>
    obtain ⟨hdiv, hreason, hevent, honly⟩ := setRole_diverged_shows hwf (reason := 2) (by rw [hrole]; decide) (by decide)
    exact ⟨_, exec_eq_next rfl rfl (mirrorLoss_diverges hrole hlate), hdiv, hreason, hevent, honly⟩
  case starts => exact exec_loopbackTest hg (loopbackTest_starts (selfTests_of hup hrole hself) hon hnext (loopPast_iff.mpr hpast) e)
  case untested => exact exec_loopbackTest hg (loopbackTest_untested hon htests e)
  case passes => exact exec_loopbackTest hg (loopbackTest_passes hon htests (loopPast_iff.mpr hpast))

end Sys2Proof.Machine

namespace Sys2Proof.Machine

/-! FALLBACK_APPLY on a DIVERGED unit (R234, R235), and a table of groups with two entries for one group. -/

theorem after_groups (s t : State) : (after s t).groups = t.groups := by rw [after_eq]

theorem exec_fallbackApply (s : State) : exec .fallbackApply s = .next (after s (fallbackApply s)) := exec_eq_next rfl rfl rfl

/-- The chunks of the fallback mirror that a unit has received, in order. -/
def State.fallbackChunks (s : State) : List (List Byte) := (List.range 40).map fun k => tabGet [] s.mate.chunks k

/-- The frame of the fallback mirror that is due in this one. -/
def State.fallbackFn (s : State) : Nat := (s.fnN + 281474976710656 - 16) % 281474976710656

section NotStandby

variable {s : State} (hrole : s.role ≠ roleSTANDBY) (b : List Byte)
include hrole

/-- A unit that is not STANDBY only notes what it thinks of a mirror (R140). -/
theorem mirrorImage_of_not_standby :
    mirrorImage s b = s.updMate fun m => { m with imgBad := s.mirrorCheck b == 3, peerDig := slice b 14 32 } := by
  unfold mirrorImage
  exact congrArg (State.updMate · _) (if_neg (by simp [hrole]))

theorem mirrorImage_role : (mirrorImage s b).role = s.role := by
  rw [mirrorImage_of_not_standby hrole]
  rfl

theorem mirrorImage_groups : (mirrorImage s b).groups = s.groups := by
  rw [mirrorImage_of_not_standby hrole]
  rfl

end NotStandby

/-- A DIVERGED unit applies a whole fallback mirror that passes R233. -/
theorem fallbackApply_passes {s : State} {m : Image} (hup : s.mateUp = true) (hofs : s.ofs = 0) (hrole : s.role = roleDIVERGED)
    (hfn : s.fnN % 16 = 0) (himg : s.img = some m) (hwhole : fallbackWhole s.fallbackChunks s.mate.chunkFn s.fallbackFn = true)
    (hcheck : s.mirrorCheck s.fallbackChunks.flatten = 0) : fallbackApply s =
      fallbackUse (mirrorImage (s.updMate fun x => { x with chunks := [] }) s.fallbackChunks.flatten) m s.fallbackChunks.flatten
        s.fallbackFn := by
  have hstandby : s.role ≠ roleSTANDBY := by rw [hrole]; decide
  have hholder : s.holder = false := by simp [State.holder, hrole, roleDIVERGED, roleACTIVE, roleHOLDING]
  have hseen : (mirrorImage (s.updMate fun x => { x with chunks := [] }) s.fallbackChunks.flatten).role = s.role :=
    mirrorImage_role (s := s.updMate _) hstandby _
  unfold fallbackApply
  rw [if_neg (by simp [hup, hofs, hfn])]
  extract_lets f cs b whole u skip
  rw [show u.img = some m from himg]
  have hw : ¬(!whole) = true := by simp [show whole = true from hwhole]
  exact (if_neg hw).trans ((if_neg (Bool.eq_false_iff.mp hholder)).trans ((if_neg (ne_of_eq_of_ne hseen hstandby)).trans
    ((if_pos (hseen.trans hrole)).trans (if_pos hcheck))))

/-- What an applied fallback mirror makes of a group: the operator's command (R235). -/
def Grp.commanded (g : Grp) (cmd : Nat) : Grp :=
  { g with lo := cmd == 1, fs := cmd == 2, ms := if cmd = 3 then 1 else if cmd = 4 then 2 else 0 }

theorem shadowMiss_groups (s : State) (n : Nat) : (shadowMiss s n).groups = s.groups := by
  have hshown : OnlyRegs s ((mateCount s 2 n).evt Reg.MATE_EVT F.MATE_EVT_SHADOW_MM) := ((OnlyRegs.refl s).incPair _ _ _ _).evt _ _
  unfold shadowMiss
  split
  · rfl
  · exact hshown.groups_eq

theorem mirrorStep_groups (s : State) (b : List Byte) : (mirrorStep s b).groups = s.groups := by
  unfold mirrorStep
  extract_lets o at_ new cyc s1 s2 s3
  have h1 : OnlyRegs s s1 := ((OnlyRegs.refl s).wr _ _).wr _ _
  have h2 : OnlyRegs s s2 := ((h1.wr _ _).wr _ _).wr _ _
  have h3 : OnlyRegs s s3 := h2.setFld _ _ _
  exact h3.groups_eq

/-- The table of groups after the groups of `ds` have taken the commands of the fallback mirror `b`. -/
def commandedGroups (b : List Byte) (ds : List ProtDef) (l : List (Nat × Grp)) : List (Nat × Grp) :=
  ds.foldl (fun l d => tabUpd {} l d.idx fun g => g.commanded (bits (beAt b (14528 + d.idx) 1) 2 3)) l

theorem foldl_commanded_groups (b : List Byte) (ds : List ProtDef) (s : State) :
    (ds.foldl (fun s d => s.updGrp d.idx fun g => g.commanded (bits (beAt b (14528 + d.idx) 1) 2 3)) s).groups =
      commandedGroups b ds s.groups := by
  induction ds generalizing s with
  | nil => rfl
  | cons d ds ih => exact ih _

theorem fallbackUse_groups (s : State) (m : Image) (b : List Byte) (f : Nat) :
    (fallbackUse s m b f).groups = commandedGroups b m.prots s.groups := by
  unfold fallbackUse
  extract_lets s1 record s2 s3 s4
  have h2 : s2.groups = s.groups := shadowMiss_groups s1 _
  have h3 : s3.groups = commandedGroups b m.prots s2.groups := foldl_commanded_groups b m.prots s2
  have h4 : s4.groups = s3.groups := mirrorStep_groups s3 b
  exact h4.trans (h3.trans (congrArg _ h2))

/-! A fallback mirror of frame 0 whose CRC is known without running through its 80,064 bytes: its epoch brings the CRC register to 0, where
zeros keep it. -/

/-- The bytes of the mirror before its CRC. -/
def stillMirror : List Byte := [0x4D, 0x31, 0, 0, 0, 0, 0, 0, 0, 0, 3, 61, 238, 228] ++ List.replicate 80050 0

theorem stillMirror_length : stillMirror.length = 80064 := by
  rw [stillMirror, List.length_append, List.length_replicate]
  rfl

theorem foldl_crc32cByte_zeros (n : Nat) : (List.replicate n (0 : Byte)).foldl crc32cByte 0 = 0 := by
  induction n with
  | zero => rfl
  | succ n ih => rw [List.replicate_succ, List.foldl_cons, show crc32cByte 0 0 = 0 by decide, ih]

theorem crc32c_stillMirror : crc32c stillMirror = 0xFFFFFFFF := by
  rw [crc32c, stillMirror, List.foldl_append,
    show ([0x4D, 0x31, 0, 0, 0, 0, 0, 0, 0, 0, 3, 61, 238, 228] : List Byte).foldl crc32cByte 0xFFFFFFFF = 0 by decide +kernel,
    foldl_crc32cByte_zeros]
  rfl

/-- The chunks that bring it, its CRC in one of its own. -/
def stillChunks : List (List Byte) := stillMirror :: [0xFF, 0xFF, 0xFF, 0xFF] :: List.replicate 38 [0]

theorem stillChunks_flatten : stillChunks.flatten = stillMirror ++ ([0xFF, 0xFF, 0xFF, 0xFF] ++ (List.replicate 38 [0]).flatten) := rfl

theorem stillChunks_whole : fallbackWhole stillChunks 0 0 = true := by
  have hcovered : stillChunks.flatten.take 80064 = stillMirror := by rw [stillChunks_flatten, List.take_left' stillMirror_length]
  have hcrc : slice stillChunks.flatten 80064 4 = [0xFF, 0xFF, 0xFF, 0xFF] := by
    rw [slice, stillChunks_flatten, List.drop_left' stillMirror_length]
    rfl
  simp only [fallbackWhole, beAt, hcovered, crc32c_stillMirror, hcrc]
  decide +kernel

/-- An image with one protection group, of index 0. -/
def oneGroup : Image :=
  { kind := 1, required := 0, blocks := 1, gtag := 0, digest := [], base := [], result := [],
    sections := [{ ty := secPROT, inst := 0, patch := false, esize := 32, count := 1, runs := [⟨0, 1, false, List.replicate 32 0⟩], pos := 0 }] }

/-- A DIVERGED unit in frame 16 that has received the mirror. Its table of groups has two entries for group 0: one under lockout, and behind it
one that selects protection. The model keeps its tables canonical, keys rising strictly; the statement has no premise that this one
is. -/
def groupTwice : State :=
  { ([(Reg.PWR_DOM_STAT 65, F.PWR_DOM_STAT_STATE, 2), (Reg.MATE_CFG, F.MATE_CFG_MODE, 1), (Reg.MATE_STAT, F.MATE_STAT_ROLE, roleDIVERGED)].foldl
      (fun s x => s.setFld x.1 x.2.1 x.2.2) State.reset) with
    fn := 16, img := some oneGroup, groups := [(0, { lo := true }), (0, { sel := true })],
    mate := { chunks := stillChunks.zipIdx.map fun x => (x.2, x.1) } }

theorem groupTwice_fallbackChunks : groupTwice.fallbackChunks = stillChunks := rfl

/-- The command of the mirror's record, none, makes the first entry an empty record, which is taken out; the second one then stands for the
group. -/
theorem commandedGroups_groupTwice : commandedGroups stillChunks.flatten oneGroup.prots groupTwice.groups = [(0, { sel := true })] := by
  decide +kernel

/-- Refutes O33, in its last clause: FALLBACK_APPLY changes the selection of a group that the table of groups lists twice, and the clause,
which has no premise on that table, says that each group keeps its own. -/
theorem not_mirrors : ¬ Obligations.Mirrors := by
  intro h
  obtain ⟨_, _, _, _, hfallback⟩ := h
  have hup : groupTwice.mateUp = true := by decide
  have hofs : groupTwice.ofs = 0 := rfl
  have hrole : groupTwice.role = roleDIVERGED := by decide
  have hfn : groupTwice.fnN % 16 = 0 := by decide
  have himg : groupTwice.img = some oneGroup := rfl
  have hwhole : fallbackWhole groupTwice.fallbackChunks groupTwice.mate.chunkFn groupTwice.fallbackFn = true := stillChunks_whole
  have hcheck : groupTwice.mirrorCheck groupTwice.fallbackChunks.flatten = 0 := by
    rw [groupTwice_fallbackChunks]
    decide +kernel
  have hgroup : ∃ d ∈ oneGroup.prots, d.idx = 0 := by decide
  obtain ⟨d, hd, hidx⟩ := hgroup
  obtain ⟨_, _, hpasses⟩ := hfallback oneGroup groupTwice hup hofs hrole hfn himg
  obtain ⟨t, hexec, _, _, _, _, _, _, _, hkeeps⟩ := hpasses hwhole hcheck
  have hclaimed : (t.grp 0).sel = (groupTwice.grp 0).sel := by
    rw [← hidx]
    exact (hkeeps d hd).1
  have hstandby : groupTwice.role ≠ roleSTANDBY := by decide
  have hmade : t.groups = [(0, { sel := true })] := by
    have hafter := Host.Outcome.next.inj (hexec.symm.trans (exec_fallbackApply groupTwice))
    have hgroups := congrArg State.groups hafter
    rw [after_groups, after_groups, fallbackApply_passes hup hofs hrole hfn himg hwhole hcheck, fallbackUse_groups,
      mirrorImage_groups (s := groupTwice.updMate _) hstandby] at hgroups
    exact hgroups.trans commandedGroups_groupTwice
  rw [grp_of_groups_eq (u := { groupTwice with groups := [(0, { sel := true })] }) hmade] at hclaimed
  exact absurd hclaimed (by decide)

end Sys2Proof.Machine

namespace Sys2Proof.Machine

/-! What the engines' operations leave unchanged (R252 to R257). -/

/-- `t` differs from `s` in registers and the engines' own records at most. -/
def OnlyEngines (s t : State) : Prop := t = { s with regs := t.regs, engs := t.engs }

section Engines

variable {s t u : State}

theorem OnlyEngines.refl (s : State) : OnlyEngines s s := rfl

theorem OnlyEngines.trans (h1 : OnlyEngines s t) (h2 : OnlyEngines t u) : OnlyEngines s u := by
  unfold OnlyEngines at *
  rw [h2, h1]

theorem OnlyRegs.onlyEngines (h : OnlyRegs s t) : OnlyEngines s t := by
  unfold OnlyRegs at h
  unfold OnlyEngines
  rw [h]

theorem OnlyEngines.updEng (h : OnlyEngines s t) (e : Nat) (f : Eng → Eng) : OnlyEngines s (t.updEng e f) := h.trans rfl

theorem OnlyEngines.foldl {β : Type} {g : State → β → State} (hg : ∀ x b, OnlyEngines x (g x b)) (l : List β) (s : State) :
    OnlyEngines s (l.foldl g s) := by
  induction l generalizing s with
  | nil => exact .refl s
  | cons b l ih => exact (hg s b).trans (ih (g s b))

theorem OnlyEngines.ofs_eq (h : OnlyEngines s t) : t.ofs = s.ofs := (congrArg State.ofs h).trans rfl
theorem OnlyEngines.held_eq (h : OnlyEngines s t) : t.held = s.held := (congrArg State.held h).trans rfl
theorem OnlyEngines.img_eq (h : OnlyEngines s t) : t.img = s.img := (congrArg State.img h).trans rfl
theorem OnlyEngines.groups_eq (h : OnlyEngines s t) : t.groups = s.groups := (congrArg State.groups h).trans rfl

theorem OnlyRegs.ofs_eq (h : OnlyRegs s t) : t.ofs = s.ofs := h.onlyEngines.ofs_eq
theorem OnlyRegs.held_eq (h : OnlyRegs s t) : t.held = s.held := h.onlyEngines.held_eq
theorem OnlyRegs.img_eq (h : OnlyRegs s t) : t.img = s.img := h.onlyEngines.img_eq

theorem updEng_ofs (s : State) (e : Nat) (f : Eng → Eng) : (s.updEng e f).ofs = s.ofs := rfl

theorem updEng_rd (s : State) (e : Nat) (f : Eng → Eng) (a : Nat) : (s.updEng e f).rd a = s.rd a := rfl

theorem setEngSt_onlyRegs (h : OnlyRegs s t) (p st cause : Nat) : OnlyRegs s (setEngSt t p st cause) := (h.setFld _ _ _).setFld _ _ _

theorem noSpare_onlyRegs (h : OnlyRegs s t) (q : Nat) : OnlyRegs s (noSpare t q) := (h.putBit _ _ _).evt _ _

theorem engCount_onlyRegs (h : OnlyRegs s t) (p i n : Nat) : OnlyRegs s (engCount t p i n) := h.ite ((h.incPair _ _ _ _).count _ _ _)

theorem engFill_ofs (s : State) (p n : Nat) : (engFill s p n).ofs = s.ofs := (engCount_onlyRegs (.refl s) p 1 _).ofs_eq

theorem engDiscard_ofs (s : State) (e : Nat) : (engDiscard s e).ofs = s.ofs := by
  unfold engDiscard
  extract_lets mine t0 t own v
  have hv : v.ofs = t.ofs := by
    refine foldl_leaves State.ofs (fun _ _ => ?_) own t
    rfl
  exact hv

theorem engFail_ofs (s : State) (p cause n : Nat) : (engFail s p cause n).ofs = s.ofs := by
  unfold engFail
  extract_lets q act t0 t1 t2 free t3
  have h0 : t0.ofs = s.ofs := by
    unfold t0
    split
    · exact engFill_ofs s p n
    · rfl
  have h1 : t1.ofs = t0.ofs := ((setEngSt_onlyRegs (.refl t0) p 2 cause).evt _ _).ofs_eq
  have h2 : t2.ofs = s.ofs := (updEng_ofs t1 _ _).trans (h1.trans h0)
  have h3 : t3.ofs = s.ofs := (engDiscard_ofs t2 p).trans h2
  split
  · rfl
  · split
    · split
      · exact (updEng_ofs t3 _ _).trans h3
      · exact (noSpare_onlyRegs (.refl t3) q).ofs_eq.trans h3
    · clear_value act
      split
      · exact (noSpare_onlyRegs (.refl _) q).ofs_eq.trans ((engDiscard_ofs _ _).trans (((OnlyRegs.refl t2).setFlag _ _ _).putBit _ _ _).ofs_eq |>.trans h2)
      · exact h2

end Engines

/-! The commit (R253). -/

section Commit

variable {s : State}

theorem passCycles_onlyRegs (s : State) (a b : Nat) : OnlyRegs s (s.passCycles a b) := by
  unfold State.passCycles
  extract_lets t
  have ht : OnlyRegs s t := (OnlyRegs.refl s).countIf _ _ _ _ _
  exact ht.ite (ht.countIf _ _ _ _ _)

theorem toOfs_held (s : State) (o : Nat) : (s.toOfs o).held = s.held := by
  unfold State.toOfs
  split
  · exact (passCycles_onlyRegs s s.ofs o).held_eq
  · rfl

theorem toOfs_img (s : State) (o : Nat) : (s.toOfs o).img = s.img := by
  unfold State.toOfs
  split
  · exact (passCycles_onlyRegs s s.ofs o).img_eq
  · rfl

theorem toOfs_groups (s : State) (o : Nat) : (s.toOfs o).groups = s.groups := by
  unfold State.toOfs
  split
  · exact (passCycles_onlyRegs s s.ofs o).groups_eq
  · rfl

theorem toOfs_ofs {o : Nat} (hclk : s.clk = true) (hle : s.ofs ≤ o) (ho : o < 200000) : (s.toOfs o).ofs = o := by
  unfold State.toOfs
  split
  · rfl
  · next h =>
    have hlt : ¬ s.ofs < o := fun hlt => h (by simp [hclk, hlt, ho])
    omega

theorem commitEng_eq (s : State) (e : Nat) : commitEng s e =
    { s.wr (Reg.ENG_DIRTY (s.physical e)) (min (s.eng e).dirty.length 8192) with
      engs := tabSet {} s.engs e { s.eng e with chk := (s.eng e).smem, dirty := [] } } := rfl

/-- Every engine whose program runs is committed. -/
def committed (s : State) : State := s.running64.foldl commitEng (dirtyClear s)

theorem dirtyClear_onlyRegs (s : State) : OnlyRegs s (dirtyClear s) := .foldl (fun _ _ h => h.ite (h.wr _ _)) (.refl s)

theorem committed_onlyEngines (s : State) : OnlyEngines s (committed s) :=
  (dirtyClear_onlyRegs s).onlyEngines.trans (.foldl (fun x e => ((OnlyRegs.refl x).wr _ _).onlyEngines.updEng e _) _ _)

/-- The held records of the engines that have not failed, in engine order. -/
def releasable (s : State) : List Posted :=
  (List.range 68).flatMap fun e => if s.engSt e != 2 || s.actsFor (engQuad e) e then s.held.filter fun x => x.eng == e else []

theorem releasable_of_held_nil (h : s.held = []) : releasable s = [] := by
  unfold releasable
  rw [h]
  exact List.flatMap_eq_nil_iff.mpr fun e _ => by split <;> rfl

theorem queDrop_onlyRegs (s : State) (q n : Nat) : OnlyRegs s (s.queDrop q n) := (((OnlyRegs.refl s).incPair _ _ _ _).evt _ _).count _ _ _

section Kept

variable {γ : Type} {part : State → γ} (hregs : ∀ t u, OnlyRegs t u → part u = part t) (hmem : ∀ t k b, part (State.memPut t k b) = part t)
  (hque : ∀ t q x, part (State.setQue t q x) = part t)
include hregs hmem hque

/-- Posting a record leaves whatever registers, memory and queues do not touch. -/
theorem post_leaves (s : State) (q : Nat) (rec : List Byte) : part (s.post q rec) = part s := by
  unfold State.post
  split
  · split
    · rfl
    · dsimp only
      split
      · exact hregs _ _ (queDrop_onlyRegs s q 1)
      · exact (hque _ _ _).trans (hmem _ _ _)
  · rfl

theorem release1_leaves (s : State) (x : Posted) : part (release1 s x) = part s := by
  have hcount := fun n => hregs _ _ ((OnlyRegs.refl s).count 0x17 (s.physical x.eng) n)
  unfold release1
  dsimp only
  split
  · exact (hmem _ _ _).trans (hcount _)
  · exact (post_leaves hregs hmem hque _ _ _).trans (hcount _)

end Kept

theorem release1_ofs (s : State) (x : Posted) : (release1 s x).ofs = s.ofs :=
  release1_leaves (part := State.ofs) (fun _ _ h => h.ofs_eq) (fun _ _ _ => rfl) (fun _ _ _ => rfl) s x

theorem release1_held (s : State) (x : Posted) : (release1 s x).held = s.held :=
  release1_leaves (part := State.held) (fun _ _ h => h.held_eq) (fun _ _ _ => rfl) (fun _ _ _ => rfl) s x

/-- Time at the commit, with the failures given noted. -/
def failedAt (s : State) (l : List (Nat × Nat)) : State := l.foldl (fun s f => engFail s f.1 f.2 398000) (s.toOfs 199000)

/-- The protection groups whose duties no engine carries out. -/
def dutiesDown (s : State) : List ProtDef :=
  match s.img with
  | some m => m.prots.filter fun d => !s.dutyUp (handle 4 d.idx)
  | none => []

/-- The checkpoint of the groups at a commit: a group whose duties are down keeps its last one. -/
def groupsCommitted (s : State) : List (Nat × Grp) :=
  (dutiesDown s).foldl (fun (g : List (Nat × Grp)) d => tabSet {} g d.idx (tabGet {} s.groupsChk d.idx)) s.groups

/-- The held records are released by a state whose engines are committed. -/
def recordsReleased (s : State) : State := (releasable s).foldl release1 { s with held := [], failBack := [] }

theorem engineCommit_idle (h : s.released = false) (l : List (Nat × Nat)) : engineCommit s l = s := if_pos (by simp [h])

theorem engineCommit_released (h : s.released = true) (l : List (Nat × Nat)) : engineCommit s l =
    { recordsReleased (committed (failedAt s l)) with groupsChk := groupsCommitted (recordsReleased (committed (failedAt s l))) } := by
  unfold engineCommit
  rw [if_neg (by simp [h])]
  rfl

theorem recordsReleased_ofs (s : State) : (recordsReleased s).ofs = s.ofs := foldl_leaves State.ofs release1_ofs _ _

theorem recordsReleased_held (s : State) : (recordsReleased s).held = [] := foldl_leaves State.held release1_held _ _

theorem recordsReleased_of_held_nil (h : s.held = []) : recordsReleased s = { s with held := [], failBack := [] } := by
  unfold recordsReleased
  rw [releasable_of_held_nil h, List.foldl_nil]

theorem groupsCommitted_of_img_none (h : s.img = none) : groupsCommitted s = s.groups := by
  simp [groupsCommitted, dutiesDown, h]

theorem failedAt_ofs (s : State) (l : List (Nat × Nat)) : (failedAt s l).ofs = (s.toOfs 199000).ofs := by
  refine foldl_leaves State.ofs (fun t f => ?_) l _
  exact engFail_ofs t f.1 f.2 398000

theorem engineCommit_ofs (h : s.released = true) (l : List (Nat × Nat)) : (engineCommit s l).ofs = (s.toOfs 199000).ofs := by
  rw [engineCommit_released h]
  exact (recordsReleased_ofs _).trans ((committed_onlyEngines _).ofs_eq.trans (failedAt_ofs s l))

theorem engineCommit_held (h : s.released = true) (l : List (Nat × Nat)) : (engineCommit s l).held = [] := by
  rw [engineCommit_released h]
  exact recordsReleased_held _

/-- Without failures, held records and an image, a commit is the engines' commits alone. -/
theorem engineCommit_plain (h : s.released = true) (hheld : s.held = []) (himg : s.img = none) : engineCommit s [] =
    { committed (s.toOfs 199000) with groupsChk := s.groups, held := [], failBack := [] } := by
  have hc := committed_onlyEngines (s.toOfs 199000)
  have hnone : (committed (s.toOfs 199000)).img = none := hc.img_eq.trans ((toOfs_img s _).trans himg)
  have hgroups : (committed (s.toOfs 199000)).groups = s.groups := hc.groups_eq.trans (toOfs_groups s _)
  have hrecords := recordsReleased_of_held_nil (hc.held_eq.trans ((toOfs_held s _).trans hheld))
  have hchk : groupsCommitted { committed (s.toOfs 199000) with held := [], failBack := [] } = s.groups :=
    (groupsCommitted_of_img_none hnone).trans hgroups
  rw [engineCommit_released h, failedAt, List.foldl_nil, hrecords, hchk]

end Commit

/-! Takeover (R255, R257). -/

section Takeover

variable {s : State} {q e : Nat}

theorem spareTakeover_none (h : ∀ k, k < 16 → (s.eng (16 * q + k)).due = false) : spareTakeover s q = s := by
  have hnone : ((List.range 16).map (16 * q + ·)).find? (fun e => (s.eng e).due) = none := by
    simpa using h
  unfold spareTakeover
  rw [hnone]

theorem spareTakeover_late (h : s.ofs ≠ 0) : spareTakeover s q = s := by
  unfold spareTakeover
  split
  · exact if_pos (by simp [h])
  · rfl

/-- The engine shows that it has failed, with cause 5 when its takeover was ordered. -/
def failedFor (s : State) (e : Nat) : State := if s.engSt e = 2 then s else (setEngSt s e 2 5).evt (Reg.ENG_EVT e) F.ENG_EVT_FAIL

/-- The physical engine `p` shows that it acts for engine `e`, with that engine's BANK. -/
def actingShown (s : State) (p e : Nat) : State :=
  let t := ((setEngSt s p 1 0).setFlag (Reg.ENG_STAT p) F.ENG_STAT_ACTING true).setFld (Reg.ENG_STAT p) F.ENG_STAT_ACTS_FOR e
  t.setFlag (Reg.ENG_STAT p) F.ENG_STAT_BANK (t.flag (Reg.ENG_STAT e) F.ENG_STAT_BANK)

/-- The events of the takeover in quadrant `q`, and its count. -/
def takeoverNoted (s : State) (q e : Nat) : State :=
  ((((s.evt (Reg.ENG_EVT e) F.ENG_EVT_TAKEOVER).evt (Reg.ENG_EVT (64 + q)) F.ENG_EVT_TAKEOVER).putBit Reg.ENG_C_STAT q true).evt Reg.ENG_C_EVT
    F.ENG_C_EVT_TAKEOVER).count 0x23 q 1

/-- Engine `e` has failed, its takeover no longer due. -/
def engineLost (s : State) (e : Nat) : State := (failedFor s e).updEng e fun x => { x with due := false, live := false }

/-- The physical engine `p` acts for engine `e`, its registers and ports anew. -/
def engineActs (s : State) (p e : Nat) : State :=
  (actingShown s p e).updEng p fun x => { x with live := true, testAt := none, v := [], p := [], ports := {}, acts := 0 }

/-- The spare of quadrant `q` acts for engine `e` from here on. -/
def takenOver (s : State) (q e : Nat) : State := takeoverNoted (engineActs (engineLost s e) (64 + q) e) q e

section Due

variable (hdue : ((List.range 16).map (16 * q + ·)).find? (fun e => (s.eng e).due) = some e) (hofs : s.ofs = 0) (hq : q < 4)
include hdue hofs hq

theorem spareTakeover_takes (hspare : s.engSt (64 + q) ≠ 2) : spareTakeover s q = takenOver s q e := by
  unfold spareTakeover
  rw [hdue]
  dsimp only
  rw [if_neg (by simp [hofs, hq]), if_neg hspare]
  rfl

theorem spareTakeover_failed (hspare : s.engSt (64 + q) = 2) : spareTakeover s q =
    if s.engSt e = 2 then noSpare (s.updEng e fun x => { x with due := false }) q else s.updEng e fun x => { x with due := false } := by
  unfold spareTakeover
  rw [hdue]
  dsimp only
  rw [if_neg (by simp [hofs, hq]), if_pos hspare]
  rfl

end Due

theorem due_mem_quad (hdue : ((List.range 16).map (16 * q + ·)).find? (fun e => (s.eng e).due) = some e) : 16 * q ≤ e ∧ e < 16 * q + 16 := by
  obtain ⟨k, hk, rfl⟩ := List.mem_map.mp (List.mem_of_find?_eq_some hdue)
  have hlt := List.mem_range.mp hk
  omega

theorem updEng_onlyEngines (s : State) (e : Nat) (f : Eng → Eng) : OnlyEngines s (s.updEng e f) := rfl

theorem failedFor_onlyRegs (s : State) (e : Nat) : OnlyRegs s (failedFor s e) :=
  (OnlyRegs.refl s).ite ((setEngSt_onlyRegs (.refl s) e 2 5).evt _ _)

theorem actingShown_onlyRegs (s : State) (p e : Nat) : OnlyRegs s (actingShown s p e) :=
  (((setEngSt_onlyRegs (.refl s) p 1 0).setFlag _ _ _).setFld _ _ _).setFlag _ _ _

theorem takeoverNoted_onlyRegs (s : State) (q e : Nat) : OnlyRegs s (takeoverNoted s q e) :=
  (((((OnlyRegs.refl s).evt _ _).evt _ _).putBit _ _ _).evt _ _).count _ _ _

theorem engineLost_onlyEngines (s : State) (e : Nat) : OnlyEngines s (engineLost s e) := (failedFor_onlyRegs s e).onlyEngines.updEng e _

theorem engineActs_onlyEngines (s : State) (p e : Nat) : OnlyEngines s (engineActs s p e) := (actingShown_onlyRegs s p e).onlyEngines.updEng p _

theorem takenOver_onlyEngines (s : State) (q e : Nat) : OnlyEngines s (takenOver s q e) :=
  ((engineLost_onlyEngines s e).trans (engineActs_onlyEngines _ (64 + q) e)).trans (takeoverNoted_onlyRegs _ q e).onlyEngines

theorem rd_engineLost (s : State) (e a : Nat) : (engineLost s e).rd a = (failedFor s e).rd a := updEng_rd _ e _ a

theorem rd_engineActs (s : State) (p e a : Nat) : (engineActs s p e).rd a = (actingShown s p e).rd a := updEng_rd _ p _ a

section Shown

variable (hwf : Tab.wf regReset s.regs = true)
include hwf

theorem updEng_wf (e : Nat) (f : Eng → Eng) : Tab.wf regReset (s.updEng e f).regs = true := hwf

theorem setEngSt_wf (p st cause : Nat) : Tab.wf regReset (setEngSt s p st cause).regs = true := setFld_wf (setFld_wf hwf _ _ _) _ _ _

theorem setEngSt_engSt (p : Nat) {st : Nat} (hst : st < 4) (cause : Nat) : (setEngSt s p st cause).engSt p = st :=
  (fld_setFld_beside (setFld_wf hwf _ _ _) (by decide) (by decide)).trans
    ((State.fld_setFld hwf _ _ _ (by decide)).trans (Nat.mod_eq_of_lt hst))

theorem setEngSt_bank (p st cause : Nat) : (setEngSt s p st cause).flag (Reg.ENG_STAT p) F.ENG_STAT_BANK = s.flag (Reg.ENG_STAT p) F.ENG_STAT_BANK :=
  (flag_setFld_beside (setFld_wf hwf _ _ _) (by decide) (by decide)).trans (flag_setFld_beside hwf (by decide) (by decide))

theorem rd_setEngSt_other {p a : Nat} (ha : a ≠ Reg.ENG_STAT p) (st cause : Nat) : (setEngSt s p st cause).rd a = s.rd a :=
  (rd_setFld_other (setFld_wf hwf _ _ _) ha).trans (rd_setFld_other hwf ha)

theorem putBit_wf (a i : Nat) (b : Bool) : Tab.wf regReset (s.putBit a i b).regs = true := State.wr_wf hwf _ _

theorem rd_putBit_other {a b : Nat} (hb : b ≠ a) (i : Nat) (v : Bool) : (s.putBit a i v).rd b = s.rd b := State.rd_wr_other hwf _ hb

theorem bit_putBit_self (a : Nat) {i : Nat} (hi : i < 32) : (s.putBit a i true).bit a i = true := flag_evt_self (f := ⟨i, 1⟩) hwf hi

theorem failedFor_wf (e : Nat) : Tab.wf regReset (failedFor s e).regs = true := by
  unfold failedFor
  split
  · exact hwf
  · exact evt_wf (setEngSt_wf hwf _ _ _) _ _

theorem engineLost_wf (e : Nat) : Tab.wf regReset (engineLost s e).regs = true := by
  unfold engineLost
  exact updEng_wf (failedFor_wf hwf e) e _

/-- The engine reads FAILED, its BANK as before. -/
theorem failedFor_shows (e : Nat) : (failedFor s e).engSt e = 2 ∧
    (failedFor s e).flag (Reg.ENG_STAT e) F.ENG_STAT_BANK = s.flag (Reg.ENG_STAT e) F.ENG_STAT_BANK := by
  have hevt : ((setEngSt s e 2 5).evt (Reg.ENG_EVT e) F.ENG_EVT_FAIL).rd (Reg.ENG_STAT e) = (setEngSt s e 2 5).rd (Reg.ENG_STAT e) :=
    rd_evt_other (setEngSt_wf hwf _ _ _) (by unfold Reg.ENG_STAT Reg.ENG_EVT; omega)
  unfold failedFor
  split
  · next h => exact ⟨h, rfl⟩
  · exact ⟨(fld_of_rd_eq hevt).trans (setEngSt_engSt hwf e (by decide) 5), (flag_of_rd_eq hevt).trans (setEngSt_bank hwf e 2 5)⟩

theorem actingShown_wf (p e : Nat) : Tab.wf regReset (actingShown s p e).regs = true :=
  setFlag_wf (setFld_wf (setFlag_wf (setEngSt_wf hwf _ _ _) _ _ _) _ _ _) _ _ _

theorem engineActs_wf (p e : Nat) : Tab.wf regReset (engineActs s p e).regs = true := by
  unfold engineActs
  exact updEng_wf (actingShown_wf hwf p e) p _

theorem rd_actingShown_other {p a : Nat} (ha : a ≠ Reg.ENG_STAT p) (e : Nat) : (actingShown s p e).rd a = s.rd a := by
  have h1 := setEngSt_wf hwf p 1 0
  have h2 := setFlag_wf h1 (Reg.ENG_STAT p) F.ENG_STAT_ACTING true
  have h3 := setFld_wf h2 (Reg.ENG_STAT p) F.ENG_STAT_ACTS_FOR e
  exact (rd_setFld_other h3 ha).trans ((rd_setFld_other h2 ha).trans ((rd_setFld_other h1 ha).trans (rd_setEngSt_other hwf ha 1 0)))

/-- The spare reads RUNNING, ACTING, and whom it acts for. -/
theorem actingShown_shows (p : Nat) {e : Nat} (he : e < 128) : (actingShown s p e).engSt p = 1 ∧
    (actingShown s p e).flag (Reg.ENG_STAT p) F.ENG_STAT_ACTING = true ∧ (actingShown s p e).fld (Reg.ENG_STAT p) F.ENG_STAT_ACTS_FOR = e := by
  have h1 := setEngSt_wf hwf p 1 0
  have h2 := setFlag_wf h1 (Reg.ENG_STAT p) F.ENG_STAT_ACTING true
  have h3 := setFld_wf h2 (Reg.ENG_STAT p) F.ENG_STAT_ACTS_FOR e
  refine ⟨?state, ?acting, ?actsFor⟩
  case state =>
    exact (fld_setFld_beside h3 (by decide) (by decide)).trans ((fld_setFld_beside h2 (by decide) (by decide)).trans
      ((fld_setFld_beside h1 (by decide) (by decide)).trans (setEngSt_engSt hwf p (by decide) 0)))
  case acting =>
    exact (flag_setFld_beside h3 (by decide) (by decide)).trans ((flag_setFld_beside h2 (by decide) (by decide)).trans
      (flag_setFlag_self h1 (by decide) (by decide) true))
  case actsFor =>
    exact (fld_setFld_beside h3 (by decide) (by decide)).trans ((State.fld_setFld h2 _ _ _ (by decide)).trans (Nat.mod_eq_of_lt he))

/-- The spare reads the BANK of the engine it acts for. -/
theorem actingShown_bank {p e : Nat} (hpe : Reg.ENG_STAT e ≠ Reg.ENG_STAT p) :
    (actingShown s p e).flag (Reg.ENG_STAT p) F.ENG_STAT_BANK = s.flag (Reg.ENG_STAT e) F.ENG_STAT_BANK := by
  have h1 := setEngSt_wf hwf p 1 0
  have h2 := setFlag_wf h1 (Reg.ENG_STAT p) F.ENG_STAT_ACTING true
  have h3 := setFld_wf h2 (Reg.ENG_STAT p) F.ENG_STAT_ACTS_FOR e
  exact (flag_setFlag_self h3 (by decide) (by decide) _).trans
    (flag_of_rd_eq ((rd_setFld_other h2 hpe).trans ((rd_setFld_other h1 hpe).trans (rd_setEngSt_other hwf hpe 1 0))))

/-- The takeover's events and the bit of its quadrant show; the engines' states stand. -/
theorem takeoverNoted_shows (hq : q < 4) (he : e < 64) : (takeoverNoted s q e).bit Reg.ENG_C_STAT q = true ∧
    (takeoverNoted s q e).flag Reg.ENG_C_EVT F.ENG_C_EVT_TAKEOVER = true ∧ (takeoverNoted s q e).flag (Reg.ENG_EVT e) F.ENG_EVT_TAKEOVER = true ∧
      ∀ p, p < 68 → (takeoverNoted s q e).rd (Reg.ENG_STAT p) = s.rd (Reg.ENG_STAT p) := by
  have h1 := evt_wf hwf (Reg.ENG_EVT e) F.ENG_EVT_TAKEOVER
  have h2 := evt_wf h1 (Reg.ENG_EVT (64 + q)) F.ENG_EVT_TAKEOVER
  have h3 := putBit_wf h2 Reg.ENG_C_STAT q true
  have h4 := evt_wf h3 Reg.ENG_C_EVT F.ENG_C_EVT_TAKEOVER
  have hcount : ∀ a, 0xA00000 ≤ a → (takeoverNoted s q e).rd a = State.rd _ a := (SameGraftRegs.count h4 0x23 q 1).rd
  refine ⟨?bit, ?event, ?engine, fun p hp => ?states⟩
  case bit =>
    exact (congrArg (bitAt · q) ((hcount _ (by decide)).trans (rd_evt_other h3 (by decide)))).trans (bit_putBit_self h2 _ (by omega))
  case event => exact (flag_of_rd_eq (hcount _ (by decide))).trans (flag_evt_self h3 (by decide))
  case engine =>
    have hspare : Reg.ENG_EVT e ≠ Reg.ENG_EVT (64 + q) := by unfold Reg.ENG_EVT; omega
    have hstat : Reg.ENG_EVT e ≠ Reg.ENG_C_STAT := by unfold Reg.ENG_EVT Reg.ENG_C_STAT; omega
    have hevt : Reg.ENG_EVT e ≠ Reg.ENG_C_EVT := by unfold Reg.ENG_EVT Reg.ENG_C_EVT; omega
    exact (flag_of_rd_eq ((hcount _ (by unfold Reg.ENG_EVT; omega)).trans ((rd_evt_other h3 hevt).trans
      ((rd_putBit_other h2 hstat q true).trans (rd_evt_other h1 hspare))))).trans (flag_evt_self hwf (by decide))
  case states =>
    have hengine : ∀ x, Reg.ENG_STAT p ≠ Reg.ENG_EVT x := fun x => by unfold Reg.ENG_STAT Reg.ENG_EVT; omega
    have hstat : Reg.ENG_STAT p ≠ Reg.ENG_C_STAT := by unfold Reg.ENG_STAT Reg.ENG_C_STAT; omega
    have hevt : Reg.ENG_STAT p ≠ Reg.ENG_C_EVT := by unfold Reg.ENG_STAT Reg.ENG_C_EVT; omega
    exact (hcount _ (by unfold Reg.ENG_STAT; omega)).trans ((rd_evt_other h3 hevt).trans ((rd_putBit_other h2 hstat q true).trans
      ((rd_evt_other h1 (hengine _)).trans (rd_evt_other hwf (hengine _)))))

/-- A takeover in the registers: the engine FAILED, the spare acting for it with its BANK, and the events (R255, R268). -/
theorem takenOver_shows (hq : q < 4) (he : e < 64) : (takenOver s q e).engSt e = 2 ∧ (takenOver s q e).actsFor q e = true ∧
    (takenOver s q e).bit Reg.ENG_C_STAT q = true ∧
      (takenOver s q e).flag (Reg.ENG_STAT (64 + q)) F.ENG_STAT_BANK = s.flag (Reg.ENG_STAT e) F.ENG_STAT_BANK ∧
        (takenOver s q e).flag Reg.ENG_C_EVT F.ENG_C_EVT_TAKEOVER = true ∧
          (takenOver s q e).flag (Reg.ENG_EVT e) F.ENG_EVT_TAKEOVER = true := by
  have hpe : Reg.ENG_STAT e ≠ Reg.ENG_STAT (64 + q) := by unfold Reg.ENG_STAT; omega
  have hlostWf := engineLost_wf hwf e
  have hactsWf := engineActs_wf hlostWf (64 + q) e
  obtain ⟨hfailed, hbank⟩ := failedFor_shows hwf e
  obtain ⟨hrun, hacting, hactsFor⟩ := actingShown_shows hlostWf (64 + q) (e := e) (by omega)
  obtain ⟨hbit, hevent, hevt, hstates⟩ := takeoverNoted_shows hactsWf hq he
  have hengine : (takenOver s q e).rd (Reg.ENG_STAT e) = (failedFor s e).rd (Reg.ENG_STAT e) :=
    (hstates e (by omega)).trans ((rd_engineActs _ _ _ _).trans ((rd_actingShown_other hlostWf hpe e).trans (rd_engineLost s e _)))
  have hspare : (takenOver s q e).rd (Reg.ENG_STAT (64 + q)) = (actingShown (engineLost s e) (64 + q) e).rd (Reg.ENG_STAT (64 + q)) :=
    (hstates (64 + q) (by omega)).trans (rd_engineActs _ _ _ _)
  refine ⟨(fld_of_rd_eq hengine).trans hfailed, ?actsFor, hbit,
    (flag_of_rd_eq hspare).trans ((actingShown_bank hlostWf hpe).trans ((flag_of_rd_eq (rd_engineLost s e _)).trans hbank)), hevent, hevt⟩
  have h1 : (takenOver s q e).engSt (64 + q) = 1 := (fld_of_rd_eq hspare).trans hrun
  have h2 : (takenOver s q e).flag (Reg.ENG_STAT (64 + q)) F.ENG_STAT_ACTING = true := (flag_of_rd_eq hspare).trans hacting
  have h3 : (takenOver s q e).fld (Reg.ENG_STAT (64 + q)) F.ENG_STAT_ACTS_FOR = e := (fld_of_rd_eq hspare).trans hactsFor
  simp [State.actsFor, h1, h2, h3]

end Shown

end Takeover

/-! The command TAKEOVER (R257). -/

section Command

variable {s : State} {e : Nat}

theorem exec_takeover (he : e < 128) (hs : s.csrAnswers Reg.ENG_CMD = true) {t : State} (h : takeover s e = t) :
    exec (.takeover e) s = .next (after s t) :=
  exec_eq_next (decide_eq_true he) rfl ((if_pos hs).trans h)

theorem takeover_ignored (hres : s.valid Reg.ENG_CMD_RES = true) : takeover s e = s.evt Reg.ENG_C_EVT F.ENG_C_EVT_CMD_IGNORED := if_pos hres

section Answered

variable (hres : s.valid Reg.ENG_CMD_RES = false)
include hres

theorem takeover_returning (hret : s.inReturn = true) : takeover s e = s.putRes Reg.ENG_CMD_RES eLIFE 0 := by
  unfold takeover
  rw [if_neg (by simp [hres]), if_pos hret]

variable (hret : s.inReturn = false)
include hret

theorem takeover_absent (h : 64 ≤ e ∨ s.fuses.eng e = false) : takeover s e = s.putRes Reg.ENG_CMD_RES eFORMAT 0 := by
  unfold takeover
  rw [if_neg (by simp [hres]), if_neg (by simp [hret]), if_pos (by simpa using h)]

variable (he : e < 64) (hfuse : s.fuses.eng e = true)
include he hfuse

theorem takeover_refused (h : s.engSt e ≠ 1 ∨ s.spareFree (engQuad e) = false) : takeover s e = s.putRes Reg.ENG_CMD_RES eINUSE 0 := by
  unfold takeover
  rw [if_neg (by simp [hres]), if_neg (by simp [hret]), if_neg (by simp [he, hfuse]), if_pos (by simpa using h)]

theorem takeover_ordered (hrun : s.engSt e = 1) (hfree : s.spareFree (engQuad e) = true) : takeover s e =
    (s.putRes Reg.ENG_CMD_RES cOK 0).updEng e fun x => { x with due := true } := by
  unfold takeover
  rw [if_neg (by simp [hres]), if_neg (by simp [hret]), if_neg (by simp [he, hfuse]), if_neg (by simp [hrun, hfree])]

end Answered

end Command

/-! Lockstep tests (R242). -/

section Lockstep

variable {s : State} {q : Nat} {d : Bool}

theorem setBit_testBit_self (v i : Nat) : (setBit v i).testBit i = true := by
  rw [setBit, bitAt_eq_testBit]
  split
  · assumption
  · next hb => rw [Nat.add_comm, Nat.testBit_two_pow_add_eq]; simpa using hb

/-- Latching an event adds an entry to the registers, as an event register is 0 at reset: no other register changes, whatever the table's form. -/
theorem rd_evt_other_of_reset {a b : Nat} {f : Fld} (ha : regReset a = 0) (hf : f.lo < 32) (hb : b ≠ a) : (s.evt a f).rd b = s.rd b := by
  have hset : BitVec.ofNat 32 (setBit (s.rd a) f.lo) ≠ regReset a := fun h => by
    have hbit := congrArg (fun w : Word => w.toNat.testBit f.lo) (h.trans ha)
    have hlow : (setBit (s.rd a) f.lo % 2 ^ 32).testBit f.lo = true := by
      rw [Nat.testBit_mod_two_pow, setBit_testBit_self, decide_eq_true hf]
      rfl
    exact absurd (hlow.symm.trans hbit) (by simp)
  have hregs : (s.evt a f).regs = Tab.insert a (BitVec.ofNat 32 (setBit (s.rd a) f.lo)) s.regs := if_neg hset
  unfold State.rd
  rw [hregs, Tab.get_insert, if_neg hb]

/-- A comparison that failed is recorded. -/
def differNoted (s : State) : State :=
  (s.evt Reg.MATE_EVT F.MATE_EVT_LOCKSTEP_ERR).updMate fun m => { m with lockstepAt := some s.elapsed }

theorem lockstepDiffer_eq (s : State) (q : Nat) (d : Bool) : lockstepDiffer s q d = if d = true ∧ s.engSt (64 + q) = 3 then differNoted s else s := by
  unfold lockstepDiffer differNoted
  simp only [Bool.and_eq_true, beq_iff_eq]

/-- What recording a comparison leaves: every register but MATE_EVT, the engines, the fuses and the time. -/
theorem lockstepDiffer_leaves (s : State) (q : Nat) (d : Bool) : (∀ a, a ≠ Reg.MATE_EVT → (lockstepDiffer s q d).rd a = s.rd a) ∧
    (lockstepDiffer s q d).engs = s.engs ∧ (lockstepDiffer s q d).fuses = s.fuses ∧ (lockstepDiffer s q d).ofs = s.ofs ∧
      (lockstepDiffer s q d).elapsed = s.elapsed := by
  have hevt := (OnlyRegs.refl s).evt Reg.MATE_EVT F.MATE_EVT_LOCKSTEP_ERR
  rw [lockstepDiffer_eq]
  split
  · exact ⟨fun a ha => (updMate_rd _ _ a).trans (rd_evt_other_of_reset rfl (by decide) ha), hevt.engs_eq, (congrArg State.fuses hevt).trans rfl,
      hevt.ofs_eq, hevt.elapsed_eq⟩
  · exact ⟨fun _ _ => rfl, rfl, rfl, rfl, rfl⟩

theorem spareFree_of_eq {t : State} (hfuses : t.fuses = s.fuses) (hst : t.engSt (64 + q) = s.engSt (64 + q)) (hengs : t.engs = s.engs) :
    t.spareFree q = s.spareFree q := by
  simp only [State.spareFree, State.eng, hfuses, hst, hengs]

/-- The spare of quadrant `q` has tested its engine for 8,000 frames, or none yet. -/
def State.lockstepDue (s : State) (q : Nat) : Bool :=
  match (s.eng (64 + q)).testAt with
  | some t => decide (t + 8000 ≤ s.elapsed)
  | none => true

/-- The spare of quadrant `q` moves on to a further engine now. -/
def State.lockstepMoves (s : State) (q : Nat) : Bool :=
  decide (s.role = roleSTANDBY) && s.flag Reg.MATE_CTRL F.MATE_CTRL_SELFTEST && decide (s.ofs = 0) && s.released && s.spareFree q && s.lockstepDue q

/-- The further engine's place in its quadrant. -/
def State.lockstepNext (s : State) (q : Nat) : Nat := if s.engSt (64 + q) = 3 then ((s.eng (64 + q)).test + 1) % 16 else 0

theorem lockstepTest_eq (s : State) (q : Nat) (d : Bool) : lockstepTest s q d =
    if s.lockstepMoves q then (setEngSt (lockstepDiffer s q d) (64 + q) 3 0).updEng (64 + q) fun x =>
      { x with test := 16 * q + s.lockstepNext q, testAt := some s.elapsed, live := true }
    else lockstepDiffer s q d := by
  obtain ⟨hrd, hengs, hfuses, hofs, helapsed⟩ := lockstepDiffer_leaves s q d
  have hrole : (lockstepDiffer s q d).role = s.role := fld_of_rd_eq (hrd _ (by decide))
  have hself : (lockstepDiffer s q d).flag Reg.MATE_CTRL F.MATE_CTRL_SELFTEST = s.flag Reg.MATE_CTRL F.MATE_CTRL_SELFTEST :=
    flag_of_rd_eq (hrd _ (by decide))
  have hrel : (lockstepDiffer s q d).released = s.released := flag_of_rd_eq (hrd _ (by decide))
  have hst : (lockstepDiffer s q d).engSt (64 + q) = s.engSt (64 + q) :=
    fld_of_rd_eq (hrd _ (by unfold Reg.ENG_STAT Reg.MATE_EVT; omega))
  have heng : (lockstepDiffer s q d).eng (64 + q) = s.eng (64 + q) := by rw [State.eng, hengs, State.eng]
  have hfree : (lockstepDiffer s q d).spareFree q = s.spareFree q := spareFree_of_eq hfuses hst hengs
  have hdue : (lockstepDiffer s q d).lockstepDue q = s.lockstepDue q := by rw [State.lockstepDue, heng, helapsed, State.lockstepDue]
  have hmoves : (lockstepDiffer s q d).lockstepMoves q = s.lockstepMoves q := by
    rw [State.lockstepMoves, hrole, hself, hofs, hrel, hfree, hdue, State.lockstepMoves]
  have hnext : (lockstepDiffer s q d).lockstepNext q = s.lockstepNext q := by rw [State.lockstepNext, hst, heng, State.lockstepNext]
  rw [← hmoves, ← hnext, ← helapsed]
  unfold lockstepTest
  extract_lets p u x due k
  have hdue : due = u.lockstepDue q := rfl
  have hk : k = u.lockstepNext q := rfl
  have hwaits : (u.role ≠ roleSTANDBY || !u.flag Reg.MATE_CTRL F.MATE_CTRL_SELFTEST || u.ofs ≠ 0 || !u.released || !u.spareFree q || !due) =
      !u.lockstepMoves q := by
    rw [hdue]
    simp [State.lockstepMoves]
  rw [hwaits, hk]
  cases u.lockstepMoves q with
  | false => rfl
  | true => rfl

theorem lockstepMoves_eq_true {s : State} {q : Nat} : s.lockstepMoves q = true ↔ s.role = roleSTANDBY ∧
    s.flag Reg.MATE_CTRL F.MATE_CTRL_SELFTEST = true ∧ s.ofs = 0 ∧ s.released = true ∧ s.spareFree q = true ∧ s.lockstepDue q = true := by
  simp [State.lockstepMoves, and_assoc]

theorem lockstepDue_of_none (h : (s.eng (64 + q)).testAt = none) : s.lockstepDue q = true := by rw [State.lockstepDue, h]

theorem lockstepDue_of_some {n : Nat} (h : (s.eng (64 + q)).testAt = some n) : s.lockstepDue q = decide (n + 8000 ≤ s.elapsed) := by
  rw [State.lockstepDue, h]

theorem lockstepTest_waits (h : s.role ≠ roleSTANDBY ∨ s.flag Reg.MATE_CTRL F.MATE_CTRL_SELFTEST = false ∨ s.ofs ≠ 0 ∨ s.released = false ∨
    s.spareFree q = false ∨ ∃ t, (s.eng (64 + q)).testAt = some t ∧ s.elapsed < t + 8000) : lockstepTest s q d = lockstepDiffer s q d := by
  have hlate : (∃ t, (s.eng (64 + q)).testAt = some t ∧ s.elapsed < t + 8000) → s.lockstepDue q = false := fun ⟨t, ht, hlt⟩ => by
    rw [lockstepDue_of_some ht]
    exact decide_eq_false (by omega)
  rw [lockstepTest_eq]
  refine if_neg fun hmoves => ?_
  obtain ⟨hrole, hself, hofs, hrel, hfree, hdue⟩ := lockstepMoves_eq_true.mp hmoves
  rcases h with h | h | h | h | h | h
  · exact h hrole
  · exact absurd (h.symm.trans hself) (by decide)
  · exact h hofs
  · exact absurd (h.symm.trans hrel) (by decide)
  · exact absurd (h.symm.trans hfree) (by decide)
  · exact absurd ((hlate h).symm.trans hdue) (by decide)

end Lockstep

/-- Settles O56: the commit and the takeover by what they show and leave, the command by its order of answers, the test by one equation. -/
theorem engineCommitAndTakeover : Obligations.EngineCommitAndTakeover := by
  refine ⟨fun l s hl => ?commit, fun e s => commitEng_eq s e, fun q s hq => ⟨fun hnone => ?none, fun hofs => ?late, fun e hdue hofs hspare hwf => ?takes,
      fun e hdue hofs hspare => ?spareFailed⟩,
    fun e s he hs => ⟨fun hres => exec_takeover he hs (takeover_ignored hres),
      fun hres => ⟨fun hret => exec_takeover he hs (takeover_returning hres hret),
      fun hret => ⟨fun h => exec_takeover he hs (takeover_absent hres hret h), fun he' hfuse =>
        ⟨fun h => exec_takeover he hs (takeover_refused hres hret he' hfuse h),
          fun hrun hfree => exec_takeover he hs (takeover_ordered hres hret he' hfuse hrun hfree)⟩⟩⟩⟩,
    fun q d s hq => ⟨fun h => ?waits, fun hrole hself hofs hrel hfree => ⟨fun hidle hnever => ?first, fun t htest hat hpast => ?next⟩⟩⟩
  case commit =>
    have hwf : (Instr.engineCommit l).wf = true := List.all_eq_true.mpr fun x hx => decide_eq_true (hl x hx)
    exact ⟨fun h => exec_eq_next hwf rfl (engineCommit_idle h l), fun h => ⟨engineCommit s l, exec_eq_next hwf rfl rfl, fun hnil hheld himg => by
      rw [hnil]
      exact engineCommit_plain h hheld himg,
      fun hclk hle => (engineCommit_ofs h l).trans (toOfs_ofs hclk hle (by decide)), engineCommit_held h l⟩⟩
  case none => exact exec_eq_next (decide_eq_true hq) rfl (spareTakeover_none hnone)
  case late => exact exec_eq_next (decide_eq_true hq) rfl (spareTakeover_late hofs)
  case takes =>
    have he : e < 64 := by
      have hquad := due_mem_quad hdue
      omega
    obtain ⟨hfailed, hacts, hbit, hbank, hevent, hevt⟩ := takenOver_shows hwf hq he
    exact ⟨takenOver s q e, exec_eq_next (decide_eq_true hq) rfl (spareTakeover_takes hdue hofs hq hspare), hfailed, hacts, hbit, hbank, hevent, hevt,
      takenOver_onlyEngines s q e⟩
  case spareFailed => exact exec_eq_next (decide_eq_true hq) rfl (spareTakeover_failed hdue hofs hq hspare)
  case waits => exact exec_eq_next (decide_eq_true hq) rfl ((lockstepTest_waits h).trans (lockstepDiffer_eq s q d))
  case first =>
    have hmoves := lockstepMoves_eq_true.mpr ⟨hrole, hself, hofs, hrel, hfree, lockstepDue_of_none hnever⟩
    have hsame : lockstepDiffer s q d = s := (lockstepDiffer_eq s q d).trans (if_neg (by simp [hidle]))
    have hnext : s.lockstepNext q = 0 := if_neg (by simp [hidle])
    refine exec_eq_next (decide_eq_true hq) rfl ?_
    rw [lockstepTest_eq, if_pos hmoves, hsame, hnext, Nat.add_zero]
  case next =>
    have hmoves := lockstepMoves_eq_true.mpr ⟨hrole, hself, hofs, hrel, hfree, (lockstepDue_of_some hat).trans (decide_eq_true hpast)⟩
    have hnext : s.lockstepNext q = ((s.eng (64 + q)).test + 1) % 16 := if_pos htest
    refine exec_eq_next (decide_eq_true hq) rfl ?_
    rw [lockstepTest_eq, if_pos hmoves, hnext, lockstepDiffer_eq]
    rfl

end Sys2Proof.Machine

namespace Sys2Proof.Machine

/-- Settles O1: `step` looks at the front of the queue alone. -/
theorem stepRunsTheFrontCommand : Obligations.StepRunsTheFrontCommand := fun _ _ _ => rfl

end Sys2Proof.Machine

namespace Sys2Proof.Machine

/-! Sensors and telemetry (R347, R348). -/

section Sensors

variable {s : State} {temps : List Int} {currents : List Nat} {power : Nat}

/-- Whether some die of a sample reads `k` or more. -/
theorem any_ge_eq_decide (temps : List Int) (k : Int) : (temps.any fun t => decide (k ≤ t)) = decide (∃ t ∈ temps, k ≤ t) := by
  rw [Bool.eq_iff_iff]
  simp

/-- A sample as it is stored, with the level of the alert. -/
def sampled (s : State) (temps : List Int) (currents : List Nat) (power : Nat) (alert : Bool) : State :=
  { s with telem := { temps := temps, currents := currents, power := power }, pins := { s.pins with alert := alert } }

/-- The trip: the device is held in reset (R347). -/
def tripped (s : State) : State := { resetState s with pins := { (resetState s).pins with trip := true } }

/-- The alert after a sample, with its hysteresis (R347). -/
def alertAfter (s : State) (temps : List Int) : Bool :=
  decide (∃ t ∈ temps, (1888 : Int) ≤ t) || (s.pins.alert && decide (∃ t ∈ temps, (1808 : Int) ≤ t))

theorem thermalSample_powered (h : s.pins.powerGood = true) : thermalSample s temps currents power =
    if (∃ t ∈ temps, (2000 : Int) ≤ t) ∧ s.pins.trip = false then tripped (sampled s temps currents power (alertAfter s temps))
    else sampled s temps currents power (alertAfter s temps) := by
  unfold thermalSample
  rw [if_neg (by simp [h])]
  extract_lets hot warm trip pins u
  have hhot : hot = decide (∃ t ∈ temps, (1888 : Int) ≤ t) := any_ge_eq_decide temps 1888
  have hwarm : warm = decide (∃ t ∈ temps, (1808 : Int) ≤ t) := any_ge_eq_decide temps 1808
  have htrip : trip = decide (∃ t ∈ temps, (2000 : Int) ≤ t) := any_ge_eq_decide temps 2000
  have hu : u = sampled s temps currents power (alertAfter s temps) := by
    rw [alertAfter, ← hhot, ← hwarm]
    rfl
  show (if trip && !s.pins.trip then tripped u else u) = _
  rw [htrip, hu]
  exact if_congr (by simp) rfl rfl

theorem smbRead_powered (h : s.pins.powerGood = true) (c : Nat) : smbRead s c =
    s.send (.smbus s.smbTarget [byte (s.smbWord c), byte (s.smbWord c / 256)]
      (smbPec s.smbTarget c [byte (s.smbWord c), byte (s.smbWord c / 256)])) := if_pos h

end Sensors

/-- Settles O20: a sample is stored, and trips the device or not; a telemetry read appends one message. -/
theorem sensorsAndTelemetry : Obligations.SensorsAndTelemetry := by
  refine ⟨fun h a b c d l p s hl hgood => ⟨fun hcool => ?stored, fun hhot htrip => ?trips⟩, fun c s hc hgood => ?read, fun t l s h => ?hottest⟩
  case stored =>
    refine exec_eq_next (beq_iff_eq.mpr hl) rfl ((thermalSample_powered hgood).trans (if_neg fun ⟨⟨t, ht, hge⟩, hlow⟩ => ?_))
    rcases hcool with hcool | htrip
    · exact absurd hge (Int.not_le.mpr (hcool t ht))
    · exact absurd (htrip.symm.trans hlow) (by decide)
  case trips =>
    have halert : alertAfter s [h, a, b, c, d] = true := by
      obtain ⟨t, ht, hge⟩ := hhot
      rw [alertAfter, decide_eq_true ⟨t, ht, by omega⟩, Bool.true_or]
    exact ⟨_, exec_eq_next (beq_iff_eq.mpr hl) rfl ((thermalSample_powered hgood).trans (if_pos ⟨hhot, htrip⟩)), rfl, halert, Bool.or_true _,
      rfl, rfl, rfl, rfl, rfl⟩
  case read => exact exec_eq_next (decide_eq_true hc) rfl (smbRead_powered hgood c)
  case hottest => simp only [State.smbWord, h, hottest]; rfl

end Sys2Proof.Machine

namespace Sys2Proof.Machine

/-! What a register read changes (R12, R262), and the close of the debug paths (R305, R325, R327). -/

/-- `t` differs from `s` in registers, high-word snapshots and the engines' own records at most. -/
def OnlyReads (s t : State) : Prop := t = { s with regs := t.regs, snap := t.snap, engs := t.engs }

/-- `t` differs from `s` in what a register read changes, the crossbar's paths and the debug port at most. -/
def OnlyPaths (s t : State) : Prop := t = { s with regs := t.regs, snap := t.snap, engs := t.engs, xbHold := t.xbHold, dbg := t.dbg }

section Reads

variable {s t u : State}

theorem OnlyReads.refl (s : State) : OnlyReads s s := rfl

theorem OnlyReads.trans (h1 : OnlyReads s t) (h2 : OnlyReads t u) : OnlyReads s u := by
  unfold OnlyReads at *
  rw [h2, h1]

theorem OnlyEngines.onlyReads (h : OnlyEngines s t) : OnlyReads s t := by
  unfold OnlyEngines at h
  unfold OnlyReads
  rw [h]

theorem OnlyReads.onlyPaths (h : OnlyReads s t) : OnlyPaths s t := by
  unfold OnlyReads at h
  unfold OnlyPaths
  rw [h]

theorem OnlyPaths.trans (h1 : OnlyPaths s t) (h2 : OnlyPaths t u) : OnlyPaths s u := by
  unfold OnlyPaths at *
  rw [h2, h1]

theorem OnlyRegs.onlyPaths (h : OnlyRegs s t) : OnlyPaths s t := h.onlyEngines.onlyReads.onlyPaths

theorem OnlyPaths.boot_eq (h : OnlyPaths s t) : t.boot = s.boot := (congrArg State.boot h).trans rfl
theorem OnlyPaths.now_eq (h : OnlyPaths s t) : t.now = s.now := (congrArg State.now h).trans rfl

theorem engFill_onlyEngines (s : State) (p n : Nat) : OnlyEngines s (engFill s p n) :=
  (engCount_onlyRegs (.refl s) p 1 _).onlyEngines.updEng p _

theorem engCaught_onlyEngines (s : State) (a : Nat) : OnlyEngines s (engCaught s a) := by
  unfold engCaught
  extract_lets n catch_
  have hcatch : ∀ t p, OnlyEngines t (catch_ t p) := fun t p => by
    unfold catch_
    split
    · exact engFill_onlyEngines t p n
    · exact .refl t
  split
  · exact hcatch s _
  · split
    · exact .foldl hcatch _ s
    · exact .refl s

/-- A register read changes the counters, the captured high words and the slots counted of the engines at most. -/
theorem csrRead_onlyReads (s : State) (a : Nat) : OnlyReads s (csrRead s a).2 := by
  cases h : s.csrAnswers a with
  | false =>
    rw [csrRead_of_not_answers h]
    exact (OnlyRegs.refl s).defaultTarget.onlyEngines.onlyReads
  | true =>
    rw [csrRead_of_answers h]
    refine (engCaught_onlyEngines s a).onlyReads.trans ?_
    rw [snapTake_eq]
    split <;> rfl

theorem debugCut_onlyReads (s : State) : OnlyReads s (debugCut s) := by
  unfold debugCut
  split
  · split
    · exact csrRead_onlyReads s _
    · exact .refl s
  · exact .refl s

/-- The reset of a master shows in registers, and frees its paths. -/
theorem masterReset_eq (s : State) (m : Nat) :
    ∃ t, OnlyRegs s t ∧ masterReset s m = { t with xbHold := t.xbHold.filter fun h => h.2 != m } := by
  refine ⟨_, .foldl (fun x h hx => ?_) (.refl s), rfl⟩
  exact hx.ite (((hx.evt _ _).setFld _ _ _).setFld _ _ _)

theorem OnlyPaths.masterReset (h : OnlyPaths s t) (m : Nat) : OnlyPaths s (masterReset t m) := by
  obtain ⟨u, hu, hreset⟩ := masterReset_eq t m
  rw [hreset]
  exact (h.trans hu.onlyPaths).trans rfl

theorem masterReset_dbg (s : State) (m : Nat) : (Machine.masterReset s m).dbg = s.dbg := by
  obtain ⟨u, hu, hreset⟩ := masterReset_eq s m
  rw [hreset]
  exact (congrArg State.dbg hu).trans rfl

theorem OnlyPaths.setDbg (h : OnlyPaths s t) (d : Dbg) : OnlyPaths s { t with dbg := d } := h.trans rfl

/-- The close of a session leaves all but registers, what a read changes, the debug port and the paths of the crossbar. -/
theorem sessionClose_onlyPaths (s : State) : OnlyPaths s (sessionClose s) :=
  ((debugCut_onlyReads s).onlyPaths.setDbg _).masterReset 3

theorem pathsClose_onlyPaths (s : State) : OnlyPaths s (pathsClose s) := (sessionClose_onlyPaths s).setDbg _

/-- No session is open once the paths have closed. -/
theorem pathsClose_sess (s : State) : (pathsClose s).dbg.sess = false := (congrArg Dbg.sess (masterReset_dbg _ 3)).trans rfl

end Reads

end Sys2Proof.Machine

namespace Sys2Proof.Machine

/-! Life-cycle commands (R320 to R323, R336). -/

section LifeCycle

variable {s : State} {c k : Nat} {i : Instr}

/-- The four commands as the write of LC_CMD that each is. -/
theorem exec_lifeCycle {t : State} (hk : k < 256) (hs : s.csrAnswers Reg.LC_CMD = true)
    (hi : [Instr.lcBlank k, .lcDevelop k, .lcDeploy k, .lcReturn k][c]? = some i) (h : lcCmd s c k = t) : exec i s = .next (after s t) := by
  have hdone : ∀ j : Instr, j.wf = decide (k < 256) → exec j s = checked j s (s.host Reg.LC_CMD fun s => lcCmd s c k) →
      exec j s = .next (after s t) := fun j hwf harm => exec_eq_next (hwf.trans (decide_eq_true hk)) harm ((if_pos hs).trans h)
  match c, hi with
  | 0, rfl => exact hdone _ rfl rfl
  | 1, rfl => exact hdone _ rfl rfl
  | 2, rfl => exact hdone _ rfl rfl
  | 3, rfl => exact hdone _ rfl rfl

theorem lcCmd_wrong_key (h : k ≠ 0x96) : lcCmd s c k = s := if_pos h

/-- A command with the key, judged by the state of the fuses. -/
theorem lcCmd_keyed (hres : s.valid Reg.LC_RES = false) (hdue : s.lcDue = none) : lcCmd s c 0x96 =
    if s.fuses.lc = c then s.putRes Reg.LC_RES cOK 0
    else if s.fuses.lc = 1 ∧ c = 2 then
      lcProgram { pathsClose (s.putRes Reg.LC_RES cOK 0) with
        boot := { s.boot with resetDue := (s.boot.resetDue.orElse fun _ => some (s.now + 1000, 5)) } } 2
    else if (s.fuses.lc = 1 ∨ s.fuses.lc = 2) ∧ c = 3 then { s.putRes Reg.LC_RES cOK 0 with lcDue := some (false, s.elapsed) }
    else s.putRes Reg.LC_RES eLIFE 0 := by
  have hnow : s.lcNow = s.fuses.lc := if_neg (by simp [hdue])
  have hkey : ¬ 0x96 ≠ 0x96 := fun h => h rfl
  unfold lcCmd
  rw [hnow, if_neg hkey, if_neg (ne_true_of_eq_false hres)]
  refine if_congr Iff.rfl rfl (if_congr (by simp) ?_ (if_congr (by simp) rfl rfl))
  extract_lets +onlyGivenNames t
  have ht : OnlyPaths s t := ((OnlyRegs.refl s).putRes _ _ _).onlyPaths.trans (pathsClose_onlyPaths _)
  rw [ht.boot_eq, ht.now_eq]

end LifeCycle

/-- Settles O19: each command is a write of LC_CMD, judged by key, result and state in turn. -/
theorem lifeCycleCommands : Obligations.LifeCycleCommands := by
  intro c k s _ hk hs
  refine ⟨fun hkey i hi => ?wrongKey, ?keyed⟩
  case wrongKey =>
    obtain ⟨n, hn⟩ := List.mem_iff_getElem?.mp hi
    exact exec_lifeCycle hk hs hn (lcCmd_wrong_key hkey)
  case keyed =>
    rintro rfl hres hdue i hi
    exact exec_lifeCycle hk hs hi (lcCmd_keyed hres hdue)

end Sys2Proof.Machine

namespace Sys2Proof.Machine

/-! Power requests (R331, R333). -/

section PowerRequests

variable {s t : State} {o d : Nat} {im late leg : Bool}

/-- The four native requests as the write of PWR_REQ_CMD that each is. -/
theorem exec_pwrRequest (hs : s.csrAnswers Reg.PWR_REQ_CMD = true) (hd : o = 1 ∨ o = 2 → d < 128) (h0 : o = 3 ∨ o = 4 → d = 0)
    (h1 : 1 ≤ o) (h4 : o ≤ 4) (h : pwrRequest s o d im = t) :
    exec (if o = 1 then .pwrOn d im else if o = 2 then .pwrOff d im else if o = 3 then .quiet im else .wake im) s = .next (after s t) := by
  have hhost : s.host Reg.PWR_REQ_CMD (fun s => pwrRequest s o d im) = t := (if_pos hs).trans h
  match o, h1, h4 with
  | 1, _, _ => exact exec_eq_next (decide_eq_true (hd (.inl rfl))) rfl hhost
  | 2, _, _ => exact exec_eq_next (decide_eq_true (hd (.inr rfl))) rfl hhost
  | 3, _, _ =>
    obtain rfl := h0 (.inl rfl)
    exact exec_eq_next rfl rfl hhost
  | 4, _, _ =>
    obtain rfl := h0 (.inr rfl)
    exact exec_eq_next rfl rfl hhost

theorem pwrRefusal_return (h : s.inReturn = true) : s.pwrRefusal o d late leg = some eLIFE := if_pos h

/-- Outside RETURN a request of a kind and domain that exist is refused for its time alone, or for what else is going on. -/
theorem pwrRefusal_formed (h : s.inReturn = false) (h1 : 1 ≤ o) (h4 : o ≤ 4) (hdom : o ≤ 2 → s.fuses.dom d = true) :
    s.pwrRefusal o d late leg = if late then some eLATE else if s.pwrBusy o d leg then some eINUSE else none := by
  have hform : ¬ (o = 0 || 4 < o || (o ≤ 2 && !s.fuses.dom d)) = true := by
    by_cases h2 : o ≤ 2
    · simp [hdom h2]
      omega
    · simp
      omega
  unfold State.pwrRefusal
  rw [if_neg (ne_true_of_eq_false h), if_neg hform]

section Free

variable (hpwr : s.pwr = none) (hres : s.valid Reg.PWR_RES = false)
include hpwr hres

theorem pwrRequest_refused {code : Nat} (h1 : 1 ≤ o) (h : s.pwrRefusal o d (!im && !fnAtLeast (s.rd48 Reg.PWR_REQ_AT_LO) s.fnN 2) false = some code) :
    pwrRequest s o d im = if o ≤ 2 then setLast (s.putRes Reg.PWR_RES code 0) d code else s.putRes Reg.PWR_RES code 0 := by
  unfold pwrRequest
  rw [if_neg (by simp [hpwr, hres])]
  dsimp only
  rw [h]
  exact if_congr (by simp; omega) rfl rfl

theorem pwrRequest_accepted (h : s.pwrRefusal o d (!im && !fnAtLeast (s.rd48 Reg.PWR_REQ_AT_LO) s.fnN 2) false = none) : pwrRequest s o d im =
    let u := (({ s with pwr := some ⟨o, d, im, s.rd48 Reg.PWR_REQ_AT_LO, s.elapsed, false⟩ } : State).pendRes Reg.PWR_RES).setFlag
      Reg.PWR_STAT F.PWR_STAT_PEND true
    if o ≤ 2 then domPend u d else u := by
  unfold pwrRequest
  rw [if_neg (by simp [hpwr, hres])]
  dsimp only
  rw [h]

end Free

/-! Legacy requests (R333). -/

section Legacy

variable {on : Bool} {m b : Nat}

/-- The one bit written as 1 is the one request made. -/
theorem legWrite_one (hb : b < 32) (h67 : 32 * m + b < 67) :
    legWrite s on m (BitVec.ofNat 32 (2 ^ b)) = legRequest s on (32 * m + b) := by
  have hbit : ∀ i, i < 32 → (BitVec.ofNat 32 (2 ^ b)).getLsbD i = decide (i = b) := fun i hi => by
    rw [BitVec.getLsbD_ofNat, decide_eq_true hi, Bool.true_and, Nat.testBit_two_pow]
    exact decide_eq_decide.mpr eq_comm
  have hn : b < if m = 2 then 3 else 32 := by split <;> omega
  have hfilter : ((List.range (if m = 2 then 3 else 32)).filter fun i => (BitVec.ofNat 32 (2 ^ b)).getLsbD i) = [b] := by
    have hone : ((List.range (if m = 2 then 3 else 32)).filter fun i => (BitVec.ofNat 32 (2 ^ b)).getLsbD i) =
        (List.range (if m = 2 then 3 else 32)).filter (· == b) := by
      refine List.filter_congr fun i hi => ?_
      have hlt := List.mem_range.mp hi
      exact (hbit i (by split at hlt <;> omega)).trans rfl
    rw [hone, List.filter_beq, List.count_eq_one_of_mem List.nodup_range (List.mem_range.mpr hn)]
    rfl
  unfold legWrite
  rw [hfilter]
  rfl

theorem exec_pwrLeg {w : Word} (hm : m < 3) (hs : s.csrAnswers (if on then Reg.PWR_LEG_ON m else Reg.PWR_LEG_OFF m) = true)
    (h : legWrite s on m w = t) : exec (if on then .pwrLegOn m w else .pwrLegOff m w) s = .next (after s t) := by
  cases on with
  | true => exact exec_eq_next (decide_eq_true hm) rfl ((if_pos hs).trans h)
  | false => exact exec_eq_next (decide_eq_true hm) rfl ((if_pos hs).trans h)

theorem legRequest_refused {code : Nat} (h : s.pwrRefusal (if on then 1 else 2) d false true = some code) :
    legRequest s on d = legEnd s d code := by
  unfold legRequest
  rw [h]

theorem legRequest_accepted (h : s.pwrRefusal (if on then 1 else 2) d false true = none) :
    legRequest s on d = domPend { s with legs := s.legs ++ [⟨d, on, s.elapsed, false⟩] } d := by
  unfold legRequest
  rw [h]

end Legacy

end PowerRequests

/-- Settles O17: the code of R331 decides a native request, and of a legacy write one request is made. -/
theorem powerRequests : Obligations.PowerRequests := by
  refine ⟨fun o d im s hs hpwr hres hd h0 h1 h4 hdom => ⟨fun hret => ?inReturn, fun hret him hfn => ?late, fun hret hat hbusy => ?accepted⟩,
    fun on m b s hm hb h67 hs => ⟨fun c hc => ?legRefused, fun hc => ?legAccepted⟩⟩
  case inReturn => exact exec_pwrRequest hs hd h0 h1 h4 (pwrRequest_refused hpwr hres h1 (pwrRefusal_return hret))
  case late =>
    refine exec_pwrRequest hs hd h0 h1 h4 (pwrRequest_refused hpwr hres h1 ((pwrRefusal_formed hret h1 h4 hdom).trans (if_pos ?_)))
    rw [him, hfn]
    rfl
  case accepted =>
    refine exec_pwrRequest hs hd h0 h1 h4 (pwrRequest_accepted hpwr hres ((pwrRefusal_formed hret h1 h4 hdom).trans ((if_neg ?_).trans ?_)))
    · rcases hat with hat | hat <;> simp [hat]
    · rw [hbusy]
      rfl
  case legRefused => exact exec_pwrLeg hm hs ((legWrite_one hb h67).trans (legRequest_refused hc))
  case legAccepted => exact exec_pwrLeg hm hs ((legWrite_one hb h67).trans (legRequest_accepted hc))

end Sys2Proof.Machine

namespace Sys2Proof.Machine

/-! The commands of BOOT_CMD (R283, R290). -/

section BootCmd

variable {s : State} (hres : s.valid Reg.BOOT_CMD_RES = false) (hret : s.inReturn = false)
include hres hret

theorem bootCmd_confirm (h4 : 4 < s.bootStep) (h8 : s.bootStep ≤ 8) (hflash : s.flash = none) (hsrc : s.fld Reg.BOOT_STAT F.BOOT_STAT_SOURCE ≠ 3) :
    bootCmd s 1 = (if s.slotState s.boot.slot = 0x1F then s else slotProgram s s.boot.slot 0x1F).putRes Reg.BOOT_CMD_RES cOK 0 := by
  have hfree : ¬ (s.bootStep ≤ 4 || 8 < s.bootStep || s.flash.isSome) = true := by
    simp [hflash]
    omega
  unfold bootCmd
  rw [if_neg (by decide), if_neg (ne_true_of_eq_false hres), if_neg (ne_true_of_eq_false hret), if_pos rfl]
  exact (if_neg hfree).trans (if_neg hsrc)

theorem bootCmd_loadHost : bootCmd s 2 =
    if s.bootStep = 9 then { s.setFld Reg.BOOT_STAT F.BOOT_STAT_STEP 10 with boot := { s.boot with host := true } }
    else s.putRes Reg.BOOT_CMD_RES eINUSE 0 := by
  unfold bootCmd
  rw [if_neg (by decide), if_neg (ne_true_of_eq_false hres), if_neg (ne_true_of_eq_false hret), if_neg (by decide)]
  rfl

end BootCmd

/-- Settles O14: CONFIRM and LOAD_HOST past the conditions that they share. -/
theorem bootCommands : Obligations.BootCommands := by
  intro s hs hres hret
  refine ⟨fun h4 h8 hflash hsrc => ?confirm, fun h9 => ?starts, fun h9 => ?inUse⟩
  case confirm => exact exec_eq_next rfl rfl ((if_pos hs).trans (bootCmd_confirm hres hret h4 h8 hflash hsrc))
  case starts => exact exec_eq_next rfl rfl ((if_pos hs).trans ((bootCmd_loadHost hres hret).trans (if_pos h9)))
  case inUse => exact exec_eq_next rfl rfl ((if_pos hs).trans ((bootCmd_loadHost hres hret).trans (if_neg h9)))

end Sys2Proof.Machine

namespace Sys2Proof.Machine

/-! Instructions of the test access port (R325 to R327). -/

section TestAccess

variable {s : State} {ir drive code : Nat}

theorem tapOp_unpowered (h : s.pins.powerGood = false) (op : State → State) : tapOp s op = s := if_neg (ne_true_of_eq_false h)

theorem tapOp_powered (h : s.pins.powerGood = true) (op : State → State) : tapOp s op = op s := if_pos h

/-- An instruction of the port with power good does what its arm says. -/
theorem exec_tap {i : Instr} {op : State → State} {t : State} (hgood : s.pins.powerGood = true) (hwf : i.wf = true)
    (harm : exec i s = checked i s (tapOp s op)) (h : op s = t) : exec i s = .next (after s t) :=
  exec_eq_next hwf harm ((tapOp_powered hgood op).trans h)

/-- Without a session an instruction is selected, and how it drives the pins, alone. -/
theorem tapSelect_no_session (h : s.dbg.sess = false) : tapSelect s ir drive = { s with dbg := { s.dbg with ir := ir, drive := drive } } := by
  unfold tapSelect
  rw [if_neg (by simp [h])]

/-- A session that holds no access, with no path taken, leaves nothing but the port's own state at its close. -/
theorem sessionClose_idle (hheld : s.dbg.held = none) (hfree : s.xbHold = []) :
    sessionClose s = { s with dbg := { s.dbg with sess := false, held := none } } := by
  have hcut : debugCut s = s := by
    unfold debugCut
    rw [hheld]
  unfold sessionClose masterReset
  rw [hcut]
  dsimp only
  rw [hfree]
  rfl

theorem tapSelect_session (h : s.dbg.sess = true) (hir : ir ≠ 0x20) (hheld : s.dbg.held = none) (hfree : s.xbHold = []) :
    tapSelect s ir drive = { s with dbg := { s.dbg with ir := ir, drive := drive, sess := false, held := none } } := by
  unfold tapSelect
  rw [if_pos (by simp [h, hir]), sessionClose_idle hheld hfree]

/-- BSCAN-X is accepted in reset, and in NO_IMAGE but for RETURN before zeroisation (R326, R327). -/
theorem bscanX_eq_true : s.bscanX = true ↔
    s.pins.powerGood = true ∧ (s.inReset = true ∨ (s.bootStep = 9 ∧ (s.inReturn = false ∨ s.fuses.zeroised = true))) := by
  simp [State.bscanX]

theorem tapDrive_accepted (hx : s.bscanX = true) (h : s.dbg.sess = false) :
    tapDrive s ir drive = { s with dbg := { s.dbg with ir := ir, drive := drive } } := (if_pos hx).trans (tapSelect_no_session h)

theorem tapDrive_bypass (hx : s.bscanX ≠ true) (h : s.dbg.sess = false) :
    tapDrive s ir drive = { s with dbg := { s.dbg with ir := 0xFF, drive := 0 } } := (if_neg hx).trans (tapSelect_no_session h)

theorem cdaSelect_opens (h : s.dbg.sess = false) (hreset : s.inReset = false) : cdaSelect s =
    ({ s with dbg := { s.dbg with ir := 0x20, drive := 0, sess := true, status := 0 } } : State).evt Reg.LC_EVT F.LC_EVT_DBG_OPEN := by
  unfold cdaSelect
  rw [tapSelect_no_session h]
  refine if_neg (ne_true_of_eq_false ?_)
  show (s.dbg.sess || !!s.inReset) = false
  rw [h, hreset]
  rfl

theorem cdaSelect_inReset (h : s.dbg.sess = false) (hreset : s.inReset = true) :
    cdaSelect s = { s with dbg := { s.dbg with ir := 0x20, drive := 0 } } := by
  unfold cdaSelect
  rw [tapSelect_no_session h]
  refine if_pos ?_
  show (s.dbg.sess || !!s.inReset) = true
  rw [hreset]
  exact Bool.or_true _

section Maker

variable (h : s.dbg.sess = false)
include h

theorem makerOp_closed (hopen : s.makerOpen = false) : makerOp s code = { s with dbg := { s.dbg with ir := 0xFF, drive := 0 } } :=
  (if_pos (by simp [hopen])).trans (tapSelect_no_session h)

/-- What a maker instruction answers, before it may order DEVELOP. -/
def makerAnswered (s : State) (code : Nat) : State :=
  { s with dbg := { s.dbg with ir := code, drive := 0 }, sent := s.sent ++ [.tap (Config.makerData s.freeCount).toNat] }

theorem makerOp_open (hopen : s.makerOpen = true) : makerOp s code =
    (if s.lcState = 0 && Config.makerDevelops s.freeCount then pathsClose (lcProgram (makerAnswered s code) 1) else makerAnswered s code).drawn := by
  unfold makerOp
  rw [if_neg (by simp [hopen]), tapSelect_no_session h]
  rfl

end Maker

/-- A life cycle that is programmed with the paths closed: fuses, session, messages and free values drawn. -/
theorem pathsClose_lcProgram (s : State) (n : Nat) : (pathsClose (lcProgram s n)).fuses = s.fuses.burn n (Config.fuseVerifies s.freeCount) ∧
    (pathsClose (lcProgram s n)).sent = s.sent ∧ (pathsClose (lcProgram s n)).freeCount = s.freeCount + 1 :=
  have h := pathsClose_onlyPaths (lcProgram s n)
  ⟨(congrArg State.fuses h).trans rfl, (congrArg State.sent h).trans rfl, (congrArg State.freeCount h).trans rfl⟩

end TestAccess

/-- Settles O21: every instruction is a selection, with what it answers or opens. -/
theorem testAccessPort : Obligations.TestAccessPort := by
  refine ⟨fun s c hgood h30 h3F => ?unpowered, fun s hgood => ⟨fun hsess => ⟨?bypass, ?close, ?idcode, ?sample, fun hx => ?drives, fun hreset hx => ?barred,
    fun hreset => ?opens, fun hreset => ?inReset, fun c h30 h3F => ⟨fun hopen => ?makerClosed, fun hopen => ⟨fun hstays => ?makerAnswers,
      fun hblank hdev => ?develops⟩⟩⟩, fun hsess hheld hfree => ?closes⟩⟩
  case unpowered =>
    have hcode : (Instr.maker c).wf = true := by simp [Instr.wf, h30, h3F]
    simp only [List.forall_mem_cons, List.not_mem_nil, false_implies, implies_true, and_true]
    have hnone := tapOp_unpowered hgood
    exact ⟨exec_eq_next rfl rfl (hnone _), exec_eq_next rfl rfl (hnone _), exec_eq_next rfl rfl (hnone _), exec_eq_next rfl rfl (hnone _),
      exec_eq_next rfl rfl (hnone _), exec_eq_next rfl rfl (hnone _), exec_eq_next rfl rfl (hnone _), exec_eq_next rfl rfl (hnone _),
      exec_eq_next hcode rfl (hnone _)⟩
  case bypass => exact exec_tap hgood rfl rfl (tapSelect_no_session hsess)
  case close => exact exec_tap hgood rfl rfl (tapSelect_no_session hsess)
  case idcode =>
    refine exec_tap hgood rfl rfl ?_
    rw [tapSelect_no_session hsess]
    rfl
  case sample =>
    refine exec_tap hgood rfl rfl ?_
    rw [tapSelect_no_session hsess]
    rfl
  case drives =>
    have hdrive := bscanX_eq_true.mpr ⟨hgood, hx⟩
    exact ⟨exec_tap hgood rfl rfl (tapDrive_accepted hdrive hsess),
      exec_tap hgood rfl rfl (tapDrive_accepted hdrive hsess),
      exec_tap hgood rfl rfl (tapDrive_accepted hdrive hsess)⟩
  case barred =>
    have hbar : s.bscanX ≠ true := fun h => by
      obtain ⟨_, hr | ⟨h9, hret⟩⟩ := bscanX_eq_true.mp h
      · exact absurd (hr.symm.trans hreset) (by decide)
      · rcases hx with hx | ⟨hin, hzero⟩
        · exact hx h9
        · simp [hin, hzero] at hret
    simp only [List.forall_mem_cons, List.not_mem_nil, false_implies, implies_true, and_true]
    exact ⟨exec_tap hgood rfl rfl (tapDrive_bypass hbar hsess),
      exec_tap hgood rfl rfl (tapDrive_bypass hbar hsess),
      exec_tap hgood rfl rfl (tapDrive_bypass hbar hsess)⟩
  case opens => exact exec_tap hgood rfl rfl (cdaSelect_opens hsess hreset)
  case inReset => exact exec_tap hgood rfl rfl (cdaSelect_inReset hsess hreset)
  case makerClosed =>
    exact exec_tap hgood (by simp [Instr.wf, h30, h3F]) rfl (makerOp_closed hsess hopen)
  case makerAnswers =>
    refine exec_tap hgood (by simp [Instr.wf, h30, h3F]) rfl ((makerOp_open hsess hopen).trans ?_)
    rw [if_neg (by rcases hstays with h | h <;> simp [h])]
    rfl
  case develops =>
    have hdone := (makerOp_open (code := c) hsess hopen).trans (congrArg State.drawn (if_pos (by simp [hblank, hdev])))
    obtain ⟨hfuses, hsent, hcount⟩ := pathsClose_lcProgram (makerAnswered s c) 1
    exact ⟨_, exec_tap hgood (by simp [Instr.wf, h30, h3F]) rfl hdone, hfuses, pathsClose_sess _, hsent,
      congrArg (· + 1) hcount⟩
  case closes => exact exec_tap hgood rfl rfl (tapSelect_session hsess (by decide) hheld hfree)

end Sys2Proof.Machine

namespace Sys2Proof.Machine

/-! What a boot start does to the life cycle (R285, R320): it reads the three copies, so that the state in force is the one programmed last. -/

theorem after_fuses (s t : State) : (after s t).fuses = t.fuses := by rw [after_eq]

theorem startBoot_fuses (s : State) (cause : Nat) : (startBoot s cause).fuses = s.fuses.readLc := by
  unfold startBoot
  extract_lets t b u
  have hu : u.fuses = s.fuses.readLc := rfl
  exact (foldl_leaves State.fuses (fun x d => State.wr_fuses x _ _) _ u).trans hu

/-- A part whose three copies hold DEPLOY, programmed since the last reset read DEVELOP (R322). -/
def deployProgrammed : Fuses := { lc := 1, lcA := 2, lcB := 2, lcC := 2 }

/-- That part out of reset, 80 frames after its clock became stable. -/
def deployRuns : State := { fuses := deployProgrammed, pins := { resetN := true }, clk := true, elapsed := 80 }

/-- That part with RESET_N high, before its power is good. -/
def deployUnpowered : State := { fuses := deployProgrammed, pins := { resetN := true, powerGood := false } }

theorem readLc_deployProgrammed : deployProgrammed.readLc ≠ deployProgrammed := by decide

/-- A command that starts a boot on a state of that part does not leave the fuses as they were. -/
theorem not_fuses_kept {i : Instr} {s t u : State} {cause : Nat} (hs : s.fuses = deployProgrammed) (hu : u.fuses = deployProgrammed)
    (hboots : exec i s = .next (after s (startBoot u cause))) (h : exec i s = .next (after s t)) : t.fuses ≠ s.fuses := fun hkept => by
  have hfuses := congrArg State.fuses (Host.Outcome.next.inj (hboots.symm.trans h))
  rw [after_fuses, after_fuses, startBoot_fuses, hu, hkept, hs] at hfuses
  exact readLc_deployProgrammed hfuses

/-- Refutes O12: the boot that a reset starts reads the life-cycle copies (R320), and the fuses of the statement hold the state last read, so that
they do not stay where another one was programmed since: here DEPLOY, over DEVELOP, when the watchdog expires. -/
theorem not_resetsFromInside : ¬ Obligations.ResetsFromInside := by
  intro h
  obtain ⟨_, _, hwatchdog, _⟩ := h
  obtain ⟨t, hexec, _, _, _, hfuses, _⟩ := hwatchdog deployRuns rfl (by decide) rfl
  exact not_fuses_kept (u := deployRuns) (cause := 3) rfl rfl (exec_eq_next rfl rfl rfl) hexec hfuses

/-- Refutes O11: as with a reset from inside, the boot that power starts reads the life-cycle copies (R320), and DEPLOY, programmed since the last
reset, takes the place of DEVELOP in the fuses of the statement. -/
theorem not_powerAndResetPins : ¬ Obligations.PowerAndResetPins := by
  intro h
  obtain ⟨_, _, _, hstart, _⟩ := h
  obtain ⟨t, hexec, _, _, _, _, hfuses, _⟩ := (hstart deployUnpowered rfl).1 ⟨rfl, rfl⟩
  exact not_fuses_kept (u := { deployUnpowered with pins := { resetN := true } }) (cause := 1) rfl rfl (exec_eq_next rfl rfl rfl) hexec hfuses

end Sys2Proof.Machine

namespace Sys2Proof.Machine

/-! What follows every command (R287, R299). -/

section Follows

variable {s t : State}

/-- The state with another part of the boot sequence. -/
def State.setBoot (t : State) (b : Boot) : State := { t with boot := b }

/-- The message of a vector does not look at the boot sequence. -/
theorem msi_setBoot (t : State) (b : Boot) (v : Nat) : (t.setBoot b).msi v = (t.msi v).setBoot b := by
  have hite : ∀ (c : Bool) (x y : State), (if c then x else y).setBoot b = if c then x.setBoot b else y.setBoot b :=
    fun c x y => apply_ite (State.setBoot · b) _ x y
  unfold State.msi
  rw [hite, hite, hite]
  rfl

theorem alignSettle_eq_setBoot (t : State) : alignSettle t = t.setBoot (alignSettle t).boot := alignSettle_eq t

theorem msi_off {v : Nat} (h : t.msixOn = false) : t.msi v = t := if_pos (by simp [h])

theorem msi_unmasked {v : Nat} (hon : t.msixOn = true) (hmask : t.msixMask = false) (hvec : bitAt (t.msixAt (4 * v + 3)) 0 = false) :
    t.msi v = t.msiSend v := (if_neg (by simp [hon])).trans (if_neg (by simp [hmask, hvec]))

theorem msi_masked {v : Nat} (hon : t.msixOn = true) (h : t.msixMask = true ∨ bitAt (t.msixAt (4 * v + 3)) 0 = true) :
    (t.msi v).sent = t.sent ∧ v ∈ (t.msi v).msixPend := by
  have hmsi : t.msi v = if t.msixPend.contains v then t else { t with msixPend := t.msixPend ++ [v] } :=
    (if_neg (by simp [hon])).trans (if_pos (by simpa using h))
  rw [hmsi]
  split
  · next hin => exact ⟨rfl, List.contains_iff_mem.mp hin⟩
  · exact ⟨rfl, List.mem_append_right _ (List.mem_singleton.mpr rfl)⟩

theorem alignSettle_blkPending (t : State) : (alignSettle t).blkPending = t.blkPending := by
  rw [alignSettle_eq]
  rfl

/-- The masked summary rose: vector 64 is raised. -/
theorem after_of_rise (ht : t.blkPending = true) (hs : s.blkPending = false) :
    (after s t).sent = (t.msi 64).sent ∧ (after s t).msixPend = (t.msi 64).msixPend := by
  have hafter : after s t = { (alignSettle t).msi 64 with pending := s.pending } :=
    congrArg (fun u : State => { u with pending := s.pending }) (if_pos (by simp [alignSettle_blkPending, ht, hs]))
  rw [hafter, alignSettle_eq_setBoot, msi_setBoot]
  exact ⟨rfl, rfl⟩

/-- It did not: nothing is sent. -/
theorem after_of_no_rise (h : t.blkPending = false ∨ s.blkPending = true) : (after s t).sent = t.sent ∧ (after s t).msixPend = t.msixPend := by
  have hafter : after s t = { alignSettle t with pending := s.pending } :=
    congrArg (fun u : State => { u with pending := s.pending }) (if_neg (by rcases h with h | h <;> simp [alignSettle_blkPending, h]))
  rw [hafter, alignSettle_eq]
  exact ⟨rfl, rfl⟩

theorem alignSettle_of_other_step (h : t.bootStep ≠ 7) : alignSettle t = t := by
  unfold alignSettle
  exact if_neg (by simp [h])

end Follows

/-- Settles O6: `after` raises vector 64 on a rise of the summary, and beside it ends the wait of boot step 8 at most. -/
theorem vector64FollowsTheMaskedSummary : Obligations.Vector64FollowsTheMaskedSummary := by
  intro s t
  have hframe := after_eq s t
  refine ⟨?regs, ?mem, ?ofs, ?fn, rfl, fun ht hs hon hmask hvec => ?sent, fun ht hs hon hmasked => ?pends, fun hquiet => ?quiet, fun hstep => ?other⟩
  case regs => rw [hframe]
  case mem => rw [hframe]
  case ofs => rw [hframe]
  case fn => rw [hframe]
  case sent =>
    obtain ⟨hsent, hpend⟩ := after_of_rise ht hs
    rw [hsent, hpend, msi_unmasked hon hmask hvec]
    exact ⟨rfl, rfl⟩
  case pends =>
    obtain ⟨hsent, hpend⟩ := after_of_rise ht hs
    rw [hsent, hpend]
    exact msi_masked hon hmasked
  case quiet =>
    by_cases hno : t.blkPending = false ∨ s.blkPending = true
    · exact after_of_no_rise hno
    · obtain ⟨ht, hs⟩ := not_or.mp hno
      have hoff : t.msixOn = false := (hquiet.resolve_left ht).resolve_left hs
      obtain ⟨hsent, hpend⟩ := after_of_rise (Bool.eq_true_of_not_eq_false ht) (Bool.eq_false_of_not_eq_true hs)
      rw [hsent, hpend, msi_off hoff]
      exact ⟨rfl, rfl⟩
  case other =>
    rw [hframe, alignSettle_of_other_step hstep]

end Sys2Proof.Machine

namespace Sys2Proof.Machine

/-! The actions that write a value register, and NOP (R251). -/

section Values

variable {s : State} {a : Act} {op e x y z q : Nat} {u : Use} {lock : Bool} {src : List Nat} {f : (Nat → Dword) → Dword} {ins : Instr}

/-- A NOP that is performed takes its slot as a wasted one. -/
theorem engAct_nop (h : Passes s a e lock u) (fx : State → Nat → Nat → Bool → Nat → State) :
    engAct s a 0 u fx = fx (usePorts (engSlot (fetched s a) a.eng 1) a.eng e (a.slot / 4) u) a.eng e lock (a.slot / 4) := by
  have hu : actUse a u = u := if_pos h.listed
  have ho : actOp a 0 = 0 := if_pos h.listed
  rw [engAct_of_fetched h.acting h.inTime h.read, h.usable, beq_false_of_ne h.holds, hu, ho, h.unstopped]
  rfl

/-- An action of the arithmetic unit that is performed writes VX, usable one cycle later. -/
theorem exec_alu (hwf : ins.wf = true) (harm : exec ins s = checked ins s (alu s a op x src f)) (hop : op ≠ 0)
    (h : Passes s a e lock { rv := src, wv := some x }) : exec ins s = .next (after s
      (setV (issued s a e { rv := src, wv := some x }) a.eng x (a.slot / 4)
        { val := f fun i => ((issued s a e { rv := src, wv := some x }).vAt a.eng i (a.slot / 4)).val, ready := a.slot / 4 + 1 })) :=
  exec_eq_next hwf harm (engAct_performed h hop)

/-- SEL that is performed writes the register its predicate chooses. -/
theorem exec_sel (hwf : (Instr.sel a x y z q).wf = true) (h : Passes s a e lock { rv := [y, z], rp := [q], wv := some x }) :
    let d := issued s a e { rv := [y, z], rp := [q], wv := some x }
    exec (.sel a x y z q) s = .next (after s (setV d a.eng x (a.slot / 4)
      { val := (d.vAt a.eng (if (d.pAt a.eng q (a.slot / 4)).val != 0 then y else z) (a.slot / 4)).val, ready := a.slot / 4 + 1 })) :=
  exec_eq_next hwf rfl (engAct_performed h (by decide))

end Values

/-! What the write of a value register leaves (R246, R248). -/

section SetV

variable {s : State} {p i c : Nat} {x : EVal}

theorem setV_v_ne_nil (s : State) (p i c : Nat) (x : EVal) : tabUpd {} (s.eng p).v i (·.put c x) ≠ [] := tabUpd_ne_nil (EReg.put_ne_default _ c x)

theorem setV_eng (s : State) (p i c : Nat) (x : EVal) : (setV s p i c x).eng p = { s.eng p with v := tabUpd {} (s.eng p).v i (·.put c x) } :=
  eng_updEng fun h => setV_v_ne_nil s p i c x (congrArg Eng.v h)

theorem setV_eng_other {o : Nat} (ho : o ≠ p) : (setV s p i c x).eng o = s.eng o :=
  tabGet_tabUpd_other (f := fun e : Eng => { e with v := tabUpd {} e.v i (·.put c x) })
    (fun h => setV_v_ne_nil s p i c x (congrArg Eng.v h)) ho

/-- The cycle of the write still reads the old value. -/
theorem vAt_setV_now (s : State) (p i c : Nat) (x : EVal) : (setV s p i c x).vAt p i c = s.vAt p i c := by
  unfold State.vAt
  rw [setV_eng]
  dsimp only
  rw [tabGet_tabUpd_self (EReg.put_ne_default _ c x)]
  exact if_pos rfl

theorem vAt_setV_other {o j : Nat} (h : o ≠ p ∨ j ≠ i) (k : Nat) : (setV s p i c x).vAt o j k = s.vAt o j k := by
  unfold State.vAt
  by_cases ho : o = p
  · subst ho
    rw [setV_eng]
    dsimp only
    rw [tabGet_tabUpd_other (EReg.put_ne_default _ c x) (h.resolve_left fun hne => hne rfl)]
  · rw [setV_eng_other ho]

theorem pAt_setV (s : State) (p i c : Nat) (x : EVal) (o j k : Nat) : (setV s p i c x).pAt o j k = s.pAt o j k := by
  unfold State.pAt
  by_cases ho : o = p
  · subst ho
    rw [setV_eng]
  · rw [setV_eng_other ho]

end SetV

/-- Settles O53: a performed action of the arithmetic unit is one `setV`, and `setV` has its laws. -/
theorem engineArithmetic : Obligations.EngineArithmetic := by
  refine ⟨?performed, fun p i c d v s => ⟨vAt_setV_now s p i c v, fun hlt => vAt_setV_later (Nat.ne_of_lt hlt) s p i v,
    fun o j k h => vAt_setV_other h k, pAt_setV s p i c v, if_pos rfl, congrArg EVal.val (if_pos rfl)⟩⟩
  intro a x y z q lsb wm1 e imm lock s ha hx hy hz hq hfield hact hc hm hraw p c t st hg hv did
  have hpass : ∀ u, st.dropReason p e c a.slot u = none → Passes s a e lock u := fun u hd => ⟨hact, hc, hm, hg, hv, hraw, hd⟩
  have hthree : (a.ok && regsOk [x, y, z]) = true := by simp [ha, regsOk, hx, hy, hz]
  have htwo : (a.ok && regsOk [x, y]) = true := by simp [ha, regsOk, hx, hy]
  have hone : (a.ok && regsOk [x]) = true := by simp [ha, regsOk, hx]
  have hbits : (a.ok && regsOk [x, y] && fieldOk lsb wm1) = true := by simp [htwo, fieldOk, hfield]
  refine ⟨fun hd => ?nop, ?three, ?two, ?sel⟩
  case nop => exact exec_eq_next ha rfl (engAct_nop (hpass _ hd) _)
  case three =>
    simp only [List.forall_mem_cons, List.not_mem_nil, false_implies, implies_true, and_true]
    refine ⟨?add, ?sub, ?and, ?or, ?xor, ?shl, ?shr, ?minu, ?maxu, ?sat⟩
    case add => exact fun hd => exec_alu (f := fun v => v y + v z) (ins := .add a x y z) hthree rfl (by decide) (hpass _ hd)
    case sub => exact fun hd => exec_alu (f := fun v => v y - v z) (ins := .sub a x y z) hthree rfl (by decide) (hpass _ hd)
    case and => exact fun hd => exec_alu (f := fun v => v y &&& v z) (ins := .and a x y z) hthree rfl (by decide) (hpass _ hd)
    case or => exact fun hd => exec_alu (f := fun v => v y ||| v z) (ins := .or a x y z) hthree rfl (by decide) (hpass _ hd)
    case xor => exact fun hd => exec_alu (f := fun v => v y ^^^ v z) (ins := .xor a x y z) hthree rfl (by decide) (hpass _ hd)
    case shl => exact fun hd => exec_alu (f := fun v => v y <<< ((v z).toNat % 64)) (ins := .shl a x y z) hthree rfl (by decide) (hpass _ hd)
    case shr => exact fun hd => exec_alu (f := fun v => v y >>> ((v z).toNat % 64)) (ins := .shr a x y z) hthree rfl (by decide) (hpass _ hd)
    case minu => exact fun hd => exec_alu (f := fun v => minuV (v y) (v z)) (ins := .minu a x y z) hthree rfl (by decide) (hpass _ hd)
    case maxu => exact fun hd => exec_alu (f := fun v => maxuV (v y) (v z)) (ins := .maxu a x y z) hthree rfl (by decide) (hpass _ hd)
    case sat => exact fun hd => exec_alu (f := fun v => satadd32V (v y) (v z)) (ins := .satadd32 a x y z) hthree rfl (by decide) (hpass _ hd)
  case two =>
    simp only [List.forall_mem_cons, List.not_mem_nil, false_implies, implies_true, and_true]
    refine ⟨?addi, ?movi, ?ext, ?ins⟩
    case addi => exact fun hd => exec_alu (f := fun v => v y + imm.signExtend 64) (ins := .addi a x y imm) htwo rfl (by decide) (hpass _ hd)
    case movi => exact fun hd => exec_alu (f := fun _ => imm.signExtend 64) (ins := .movi a x imm) hone rfl (by decide) (hpass _ hd)
    case ext => exact fun hd => exec_alu (f := fun v => extV (v y) lsb wm1) (ins := .ext a x y lsb wm1) hbits rfl (by decide) (hpass _ hd)
    case ins =>
      intro hd
      have hdone := exec_alu (f := fun v => insV (v x) (v y) lsb wm1) (ins := .ins a x y lsb wm1) hbits rfl (by decide) (hpass _ hd)
      rw [insV_masks _ _ _ _ hfield] at hdone
      exact hdone
  case sel =>
    intro u hd
    exact exec_sel (by simp [Instr.wf, ha, regsOk, hx, hy, hz, hq]) (hpass _ hd)

end Sys2Proof.Machine

namespace Sys2Proof.Machine

/-! The actions that write a predicate or use state memory (R251, R254). -/

/-- A check that comes first and stops nothing leaves the rest to decide. -/
theorem unstopped_of_first {c : Prop} [Decidable c] {r : Nat} {rest : Option Nat} (h : (if c then some r else rest) = none) : ¬ c ∧ rest = none := by
  by_cases hc : c
  · rw [if_pos hc] at h
    cases h
  · rw [if_neg hc] at h
    exact ⟨hc, h⟩

/-- What passes every check with a listed condition is stopped for reason 6 with a reserved one. -/
theorem dropReason_bad {p e c slot : Nat} {u : Use} {s : State} (h : s.dropReason p e c slot u = none) :
    s.dropReason p e c slot { u with bad := true } = some 6 := by
  unfold State.dropReason at h ⊢
  obtain ⟨hoperands, h⟩ := unstopped_of_first h
  obtain ⟨hports, h⟩ := unstopped_of_first h
  obtain ⟨hbudget, h⟩ := unstopped_of_first h
  obtain ⟨htail, h⟩ := unstopped_of_first h
  obtain ⟨hown, h⟩ := unstopped_of_first h
  exact (if_neg hoperands).trans ((if_neg hports).trans ((if_neg hbudget).trans ((if_neg htail).trans ((if_neg hown).trans (if_pos rfl)))))

theorem condHolds_eq {cond : Nat} (h : cond ≤ 5) (v w : Dword) :
    condHolds cond v w = decide ((cond = 0 ∧ v = w) ∨ (cond = 1 ∧ v ≠ w) ∨ (cond = 2 ∧ v.toNat < w.toNat) ∨
      (cond = 3 ∧ w.toNat ≤ v.toNat) ∨ (cond = 4 ∧ v.toInt < w.toInt) ∨ (cond = 5 ∧ w.toInt ≤ v.toInt)) := by
  rw [Bool.eq_iff_iff]
  interval_cases cond <;> simp [condHolds, BitVec.ult, BitVec.slt]

theorem eccSeen_goes {ecc : Nat} (h : ecc < 2) (s : State) (p slot : Nat) (go : State → State) :
    eccSeen s p ecc slot go = go (if ecc = 1 then eccCor s p else s) := by
  unfold eccSeen
  rw [if_neg (Nat.not_le.mpr h)]
  split <;> rfl

theorem setSmem_lock (s : State) (p e i : Nat) (lock : Bool) (x : Dword) :
    setSmem s p e i lock x = if lock then s else setSmem s p e i false x := by
  cases lock <;> rfl

section Predicates

variable {s : State} {a : Act} {op e x y pr i ecc cond : Nat} {u : Use} {lock bad : Bool} {src psrc : List Nat} {ins : Instr}
  {f : (Nat → Dword) → (Nat → Bool) → Bool} {g : Dword → Dword} {lim : Dword → Bool}

/-- An action that writes a predicate and passes writes it, usable one cycle later. -/
theorem exec_pact (hwf : ins.wf = true) (harm : exec ins s = checked ins s (pact s a op pr src psrc false f)) (hop : op ≠ 0)
    (h : Passes s a e lock { rv := src, rp := psrc, wp := some pr }) :
    let d := issued s a e { rv := src, rp := psrc, wp := some pr }
    exec ins s = .next (after s (setP d a.eng pr (a.slot / 4)
      { val := BitVec.ofNat 64 (nat01 (f (fun k => (d.vAt a.eng k (a.slot / 4)).val) fun k => (d.pAt a.eng k (a.slot / 4)).val != 0)),
        ready := a.slot / 4 + 1 })) :=
  exec_eq_next hwf harm (engAct_performed h hop)

/-- A comparison with a listed condition writes whether it holds. -/
theorem exec_compare {v w : (Nat → Dword) → Dword} {truth : Dword → Dword → Bool} (ht : condHolds cond = truth) (hc : cond ≤ 5)
    (hwf : ins.wf = true)
    (harm : exec ins s = checked ins s (pact s a op pr src [] (decide (5 < cond)) fun r _ => condHolds cond (v r) (w r))) (hop : op ≠ 0)
    (h : Passes s a e lock { rv := src, wp := some pr }) :
    let d := issued s a e { rv := src, wp := some pr }
    let r := fun k => (d.vAt a.eng k (a.slot / 4)).val
    exec ins s = .next (after s (setP d a.eng pr (a.slot / 4)
      { val := BitVec.ofNat 64 (nat01 (truth (v r) (w r))), ready := a.slot / 4 + 1 })) := by
  subst ht
  rw [decide_eq_false (Nat.not_lt.mpr hc)] at harm
  exact exec_pact (f := fun r _ => condHolds cond (v r) (w r)) hwf harm hop h

/-- A comparison with a reserved condition is dropped for reason 6. -/
theorem exec_compare_reserved (hc : 5 < cond) (hwf : ins.wf = true)
    (harm : exec ins s = checked ins s (pact s a op pr src psrc (decide (5 < cond)) f))
    (h : Passes s a e lock { rv := src, rp := psrc, wp := some pr }) :
    exec ins s = .next (after s (actionDrop (fetched s a) a.eng e lock a.slot op 6 { rv := src, rp := psrc, wp := some pr, bad := true })) := by
  rw [decide_eq_true hc] at harm
  refine exec_eq_next hwf harm ((engAct_check_fails (r := 6) h.acting h.inTime h.read h.usable h.holds ?_).trans ?_)
  · rw [actUse, if_pos h.listed]
    exact dropReason_bad h.unstopped
  · rw [actOp, actUse, if_pos h.listed, if_pos h.listed]

/-- A counter that passes counts its word and shows whether the end is reached. -/
theorem exec_engCnt (hecc : ecc < 2) (hwf : ins.wf = true) (harm : exec ins s = checked ins s (engCnt s a op pr i ecc g lim)) (hop : op ≠ 0)
    (h : Passes s a e lock { wp := some pr, rd := 1, wr := 1 }) :
    let d := issued s a e { wp := some pr, rd := 1, wr := 1 }
    let t := if ecc = 1 then eccCor d a.eng else d
    let w := g (t.smemAt a.eng e i (a.slot / 4))
    exec ins s = .next (after s (setP (if lock then t else setSmem t a.eng e i false w) a.eng pr (a.slot / 4)
      { val := BitVec.ofNat 64 (nat01 (lim w)), ready := a.slot / 4 + 3 })) := by
  intro d t w
  refine exec_eq_next hwf harm ((engAct_performed h hop).trans ((eccSeen_goes hecc _ _ _ _).trans ?_))
  rw [← setSmem_lock]

theorem exec_engCnt_fails (hwf : ins.wf = true) (harm : exec ins s = checked ins s (engCnt s a op pr i 2 g lim)) (hop : op ≠ 0)
    (h : Passes s a e lock { wp := some pr, rd := 1, wr := 1 }) :
    exec ins s = .next (after s (engFail (issued s a e { wp := some pr, rd := 1, wr := 1 }) a.eng 2 (a.slot + 1))) :=
  exec_eq_next hwf harm (engAct_performed h hop)

theorem exec_ld (hecc : ecc < 2) (hwf : (Instr.ld a x i ecc).wf = true) (h : Passes s a e lock { wv := some x, rd := 1 }) :
    let d := issued s a e { wv := some x, rd := 1 }
    let t := if ecc = 1 then eccCor d a.eng else d
    exec (.ld a x i ecc) s = .next (after s (setV t a.eng x (a.slot / 4) { val := t.smemAt a.eng e i (a.slot / 4), ready := a.slot / 4 + 3 })) :=
  exec_eq_next hwf rfl ((engAct_performed h (by decide)).trans (eccSeen_goes hecc _ _ _ _))

theorem exec_ld_fails (hwf : (Instr.ld a x i 2).wf = true) (h : Passes s a e lock { wv := some x, rd := 1 }) :
    exec (.ld a x i 2) s = .next (after s (engFail (issued s a e { wv := some x, rd := 1 }) a.eng 2 (a.slot + 1))) :=
  exec_eq_next hwf rfl (engAct_performed h (by decide))

theorem exec_st (hwf : (Instr.st a x i).wf = true) (h : Passes s a e lock { rv := [x], wr := 1 }) :
    let d := issued s a e { rv := [x], wr := 1 }
    exec (.st a x i) s = .next (after s (if lock then d else setSmem d a.eng e i false (d.vAt a.eng x (a.slot / 4)).val)) :=
  exec_eq_next hwf rfl ((engAct_performed h (by decide)).trans (setSmem_lock _ _ _ _ _ _))

end Predicates

/-- Settles O54, opcode by opcode, each a performed action of its kind. -/
theorem enginePredicatesAndMemory : Obligations.EnginePredicatesAndMemory := by
  intro a x y z pr q r f cond bit i ecc e imm inv lock s ha hx hy hz hpr hq hr hf hcond hbit hi hecc hact hc hm hraw p c t st hg hv did truth seen
  have hpass : ∀ u, st.dropReason p e c a.slot u = none → Passes s a e lock u := fun u hd => ⟨hact, hc, hm, hg, hv, hraw, hd⟩
  have hcnt : ∀ n < 3, (Instr.cntdn a pr i n).wf = true := fun n hn => by simp [Instr.wf, ha, regsOk, hpr, hi, hn]
  have hld : ∀ n < 3, (Instr.ld a x i n).wf = true := fun n hn => by simp [Instr.wf, ha, regsOk, hx, hi, hn]
  have htruth : cond ≤ 5 → condHolds cond = truth := fun hle => funext fun v => funext fun w => condHolds_eq hle v w
  refine ⟨?cmp, ?one, ?pset, ?ld, ?st, ?count⟩
  case cmp =>
    intro u hd
    have hwf : (Instr.cmp a pr y z cond).wf = true := by simp [Instr.wf, ha, regsOk, hy, hz, hpr, hcond]
    exact ⟨fun hle => exec_compare (truth := truth) (htruth hle) (v := fun v => v y) (w := fun v => v z) hle hwf rfl (by decide) (hpass _ hd),
      fun hlt => exec_compare_reserved hlt hwf rfl (hpass _ hd)⟩
  case one =>
    intro u hd
    have hwf : (Instr.cmpi a pr y cond imm).wf = true := by simp [Instr.wf, ha, regsOk, hy, hpr, hcond]
    exact ⟨fun hle => exec_compare (truth := truth) (htruth hle) (v := fun v => v y) (w := fun _ => imm.signExtend 64) hle hwf rfl (by decide) (hpass _ hd),
      fun hlt => exec_compare_reserved hlt hwf rfl (hpass _ hd),
      exec_pact (f := fun v _ => (v y).getLsbD bit) (by simp [Instr.wf, ha, regsOk, hy, hpr, hbit]) rfl (by decide) (hpass _ hd)⟩
  case pset =>
    intro u b hd
    exact exec_pact (ins := .pset a pr q r f inv) (f := fun _ b =>
      (if f = 0 then b q && b r else if f = 1 then b q || b r else if f = 2 then b q && !b r else b q != b r) != inv) (by simp [Instr.wf, ha, regsOk, hpr, hq, hr, hf]) rfl (by decide) (hpass _ hd)
  case ld =>
    intro u hd
    exact ⟨exec_ld hecc (hld _ (by omega)) (hpass _ hd), exec_ld_fails (hld _ (by decide)) (hpass _ hd)⟩
  case st =>
    intro u hd
    exact exec_st (by simp [Instr.wf, ha, regsOk, hx, hi]) (hpass _ hd)
  case count =>
    intro u t w dn up put hd
    refine ⟨?down, ?up, exec_engCnt_fails (hcnt _ (by decide)) rfl (by decide) (hpass _ hd),
      exec_engCnt_fails (ins := .cntup a pr i 2) (hcnt _ (by decide)) rfl (by decide) (hpass _ hd)⟩
    case down => exact exec_engCnt (ins := .cntdn a pr i ecc) (g := cntdnV) (lim := fun w => w == 0) hecc (hcnt _ (by omega)) rfl (by decide) (hpass _ hd)
    case up =>
      exact exec_engCnt (ins := .cntup a pr i ecc) (g := cntupV) (lim := fun w => w.toNat % 4294967296 == 4294967295) hecc
        (hcnt _ (by omega)) rfl (by decide) (hpass _ hd)

end Sys2Proof.Machine

namespace Sys2Proof.Machine

/-! Copies of registers, as the captures of R263 and R266 make them. -/

theorem OnlyRegs.fnN_eq {s t : State} (h : OnlyRegs s t) : t.fnN = s.fnN := (congrArg State.fnN h).trans rfl

section Copies

variable {s t : State} {l : List (Nat × Nat)}

/-- Each pair's first register takes what its second holds, in order. -/
def copyRegs (s : State) (l : List (Nat × Nat)) : State := l.foldl (fun s c => s.wr c.1 (s.rd c.2)) s

theorem copyRegs_onlyRegs (s : State) (l : List (Nat × Nat)) : OnlyRegs s (copyRegs s l) :=
  OnlyRegs.foldl (fun _ _ h => h.wr _ _) (OnlyRegs.refl s)

theorem copyRegs_append (s : State) (l : List (Nat × Nat)) (c : Nat × Nat) :
    copyRegs s (l ++ [c]) = (copyRegs s l).wr c.1 ((copyRegs s l).rd c.2) := List.foldl_concat _ _ _ _

theorem copyRegs_wf (h : Tab.wf regReset s.regs = true) (l : List (Nat × Nat)) : Tab.wf regReset (copyRegs s l).regs = true := by
  induction l using List.reverseRecOn with
  | nil => exact h
  | append_singleton l c ih =>
    rw [copyRegs_append]
    exact State.wr_wf ih _ _

theorem rd_copyRegs_other (h : Tab.wf regReset s.regs = true) {b : Nat} (hb : ∀ c ∈ l, c.1 ≠ b) : (copyRegs s l).rd b = s.rd b := by
  induction l using List.reverseRecOn with
  | nil => rfl
  | append_singleton l c ih =>
    rw [copyRegs_append, State.rd_wr_other (copyRegs_wf h l) _ (hb c (by simp)).symm]
    exact ih fun d hd => hb d (by simp [hd])

/-- No source is overwritten, and a destination has one source: then each destination holds what its source held. -/
theorem rd_copyRegs (h : Tab.wf regReset s.regs = true) (hapart : ∀ c ∈ l, ∀ d ∈ l, c.1 ≠ d.2)
    (hone : ∀ c ∈ l, ∀ d ∈ l, c.1 = d.1 → c.2 = d.2) {c : Nat × Nat} (hc : c ∈ l) : (copyRegs s l).rd c.1 = s.rd c.2 := by
  induction l using List.reverseRecOn with
  | nil => cases hc
  | append_singleton l d ih =>
    have hold : ∀ x ∈ l, x ∈ l ++ [d] := fun x hx => List.mem_append_left _ hx
    have hlast : d ∈ l ++ [d] := by simp
    rw [copyRegs_append]
    by_cases hcd : c.1 = d.1
    · rw [hcd, State.rd_wr_self (copyRegs_wf h l), Nat.mod_eq_of_lt (State.rd_lt _ _), hone c hc d hlast hcd]
      exact rd_copyRegs_other h fun x hx => hapart x (hold x hx) d hlast
    · rw [State.rd_wr_other (copyRegs_wf h l) _ hcd]
      have hcl : c ∈ l := (List.mem_append.mp hc).resolve_right fun hm => hcd (congrArg Prod.fst (List.mem_singleton.mp hm))
      exact ih (fun x hx y hy => hapart x (hold x hx) y (hold y hy)) (fun x hx y hy => hone x (hold x hx) y (hold y hy)) hcl

/-- Two copies are made as one where the first overwrites no source of the second. -/
theorem copyRegs_pair (h : Tab.wf regReset s.regs = true) {a b c d : Nat} (hd : d ≠ a) :
    copyRegs s [(a, b), (c, d)] = (s.wr a (s.rd b)).wr c (s.rd d) :=
  congrArg ((s.wr a (s.rd b)).wr c) (State.rd_wr_other h _ hd)

/-- FN goes to the pair `lo` and the result OK to `res` after the copies. -/
def captured (s : State) (l : List (Nat × Nat)) (lo res : Nat) : State := ((copyRegs s l).wrPair lo s.fnN).putRes res cOK 0

variable {lo res : Nat}

theorem captured_onlyRegs (s : State) (l : List (Nat × Nat)) (lo res : Nat) : OnlyRegs s (captured s l lo res) :=
  ((copyRegs_onlyRegs s l).wrPair _ _).putRes _ _ _

theorem captured_valid (h : Tab.wf regReset s.regs = true) : (captured s l lo res).valid res = true :=
  (State.putRes_spec (wrPair_wf (copyRegs_wf h l) _ _) _ _ _).1

theorem rd_captured_of_copied (h : Tab.wf regReset s.regs = true) {b : Nat} (hres : b ≠ res) (hlo : b ≠ lo) (hhi : b ≠ lo + 4) :
    (captured s l lo res).rd b = (copyRegs s l).rd b := by
  have hfn := wrPair_wf (copyRegs_wf h l) lo s.fnN
  obtain ⟨_, _, _, _, hother⟩ := State.putRes_spec hfn res cOK 0
  exact (hother b hres).trans (rd_wrPair_other (copyRegs_wf h l) _ hlo hhi)

theorem captured_fn (h : Tab.wf regReset s.regs = true) (hlo : lo ≠ res) (hhi : lo + 4 ≠ res) : (captured s l lo res).rd48 lo = s.fnN := by
  have hfn := wrPair_wf (copyRegs_wf h l) lo s.fnN
  obtain ⟨_, _, _, _, hother⟩ := State.putRes_spec hfn res cOK 0
  have hlt : s.fnN < 2 ^ 48 := BitVec.isLt _
  have hpair : (captured s l lo res).rdPair lo = ((copyRegs s l).wrPair lo s.fnN).rdPair lo := by
    rw [State.rdPair, State.rdPair, captured, hother lo hlo, hother (lo + 4) hhi]
  rw [State.rd48, hpair, rdPair_wrPair (copyRegs_wf h l) _ (by omega), Nat.mod_eq_of_lt hlt]

theorem captured_spec (h : Tab.wf regReset s.regs = true) (l : List (Nat × Nat)) (hlo : lo ≠ res) (hhi : lo + 4 ≠ res) :
    ∃ t, captured s l lo res = t ∧ t.valid res = true ∧ t.rd48 lo = s.fnN ∧ OnlyRegs s t :=
  ⟨_, rfl, captured_valid h, captured_fn h hlo hhi, captured_onlyRegs s l lo res⟩

end Copies

/-! The top-down capture (R263). -/

section TopDown

variable {s : State}

/-- Each register of the four counters of an engine has its place in the capture. -/
def tdCopies : List (Nat × Nat) :=
  (List.range 68).flatMap fun e => (List.range 8).map fun i => (Reg.ENG_TD_CAP e i, Reg.ENG_RETIRED_LO e + 4 * i)

theorem mem_tdCopies {c : Nat × Nat} : c ∈ tdCopies ↔ ∃ e < 68, ∃ i < 8, c = (Reg.ENG_TD_CAP e i, Reg.ENG_RETIRED_LO e + 4 * i) := by
  simp [tdCopies, eq_comm]

theorem tdCapture_eq (s : State) :
    tdCapture s = if s.tdDue && s.ofs = 0 then { captured s tdCopies Reg.ENG_TD_FN_LO Reg.ENG_TD_RES with tdDue := false } else s := by
  have hcopies : copyRegs s tdCopies = (List.range 68).foldl (fun s e =>
      (List.range 8).foldl (fun s i => s.wr (Reg.ENG_TD_CAP e i) (s.rd (Reg.ENG_RETIRED_LO e + 4 * i))) s) s := by
    simp only [copyRegs, tdCopies, List.foldl_flatMap, List.foldl_map]
  have hfn : (copyRegs s tdCopies).fnN = s.fnN := (copyRegs_onlyRegs s tdCopies).fnN_eq
  unfold tdCapture captured
  dsimp only
  rw [← hcopies, hfn]

theorem tdCapture_idle (h : s.tdDue = false ∨ s.ofs ≠ 0) : tdCapture s = s := by
  rw [tdCapture_eq]
  refine if_neg ?_
  rcases h with h | h <;> simp [h]

theorem rd_tdCapture (h : Tab.wf regReset s.regs = true) {e i : Nat} (he : e < 68) (hi : i < 8) :
    (captured s tdCopies Reg.ENG_TD_FN_LO Reg.ENG_TD_RES).rd (Reg.ENG_TD_CAP e i) = s.rd (Reg.ENG_RETIRED_LO e + 4 * i) := by
  have hin : (Reg.ENG_TD_CAP e i, Reg.ENG_RETIRED_LO e + 4 * i) ∈ tdCopies := mem_tdCopies.mpr ⟨e, he, i, hi, rfl⟩
  have hcopied : (copyRegs s tdCopies).rd (Reg.ENG_TD_CAP e i) = s.rd (Reg.ENG_RETIRED_LO e + 4 * i) := by
    refine rd_copyRegs (c := (Reg.ENG_TD_CAP e i, Reg.ENG_RETIRED_LO e + 4 * i)) h (fun c hc d hd => ?_) (fun c hc d hd => ?_) hin
    all_goals
      obtain ⟨e, he, i, hi, rfl⟩ := mem_tdCopies.mp hc
      obtain ⟨f, hf, j, hj, rfl⟩ := mem_tdCopies.mp hd
      simp only [Reg.ENG_TD_CAP, Reg.ENG_RETIRED_LO]
      omega
  refine (rd_captured_of_copied h ?_ ?_ ?_).trans hcopied
  all_goals
    simp only [Reg.ENG_TD_CAP, Reg.ENG_TD_FN_LO, Reg.ENG_TD_RES]
    omega

theorem tdSnap_asks (hv : s.valid Reg.ENG_TD_RES = false) (hp : s.isPending Reg.ENG_TD_RES = false) (hd : s.tdDue = false) :
    tdSnap s = { s with tdDue := true } := if_neg (by simp [hv, hp, hd])

theorem tdSnap_ignored (h : s.valid Reg.ENG_TD_RES = true ∨ s.isPending Reg.ENG_TD_RES = true ∨ s.tdDue = true) :
    tdSnap s = s.evt Reg.ENG_C_EVT F.ENG_C_EVT_TD_IGNORED := if_pos (by simpa [or_assoc] using h)

end TopDown

/-! PMON snapshots and sources (R264 to R266). -/

section Pmon

variable {s : State} {n : Nat}

theorem pmonSnap_asks (hv : s.valid Reg.PMON_SNAP_RES = false) (hp : s.isPending Reg.PMON_SNAP_RES = false) (hd : s.pmonDue = false) :
    pmonSnap s = { s with pmonDue := true } := if_neg (by simp [hv, hp, hd])

theorem pmonSnap_ignored (h : s.valid Reg.PMON_SNAP_RES = true ∨ s.isPending Reg.PMON_SNAP_RES = true ∨ s.pmonDue = true) :
    pmonSnap s = s.evt Reg.PMON_EVT F.PMON_EVT_SNAP_IGNORED := if_pos (by simpa [or_assoc] using h)

/-- The two words of counter `n` in the snapshot; a counter whose source has just changed shows what the old source counted. -/
def pmonPair (old : Nat → Bool) (n : Nat) : List (Nat × Nat) :=
  [(Reg.PMON_SNAPV_LO n, if old n then Reg.PMON_LAST_LO n else Reg.PMON_CNT_LO n),
   (Reg.PMON_SNAPV_HI n, if old n then Reg.PMON_LAST_HI n else Reg.PMON_CNT_HI n)]

def pmonCopies (old : Nat → Bool) : List (Nat × Nat) := (List.range 256).flatMap (pmonPair old)

theorem mem_pmonCopies {old : Nat → Bool} {c : Nat × Nat} : c ∈ pmonCopies old ↔ ∃ n < 256, c ∈ pmonPair old n := by
  simp [pmonCopies]

theorem copyRegs_pmonPair (h : Tab.wf regReset s.regs = true) (n : Nat) (old : Nat → Bool) :
    copyRegs s (pmonPair old n) = (s.wr (Reg.PMON_SNAPV_LO n) (s.rd (if old n then Reg.PMON_LAST_LO n else Reg.PMON_CNT_LO n))).wr
      (Reg.PMON_SNAPV_HI n) (s.rd (if old n then Reg.PMON_LAST_HI n else Reg.PMON_CNT_HI n)) := by
  refine copyRegs_pair h ?_
  cases old n <;> simp only [Reg.PMON_SNAPV_LO, Reg.PMON_LAST_HI, Reg.PMON_CNT_HI, Bool.false_eq_true, if_false, if_true] <;> omega

/-- A snapshot's copies, whatever the counters: the list of changed sources is the same throughout. -/
theorem pmonFold_eq (h : Tab.wf regReset s.regs = true) (l : List Nat) :
    l.foldl (fun s n =>
      let old := s.pmonOld.any (·.1 == n)
      (s.wr (Reg.PMON_SNAPV_LO n) (s.rd (if old then Reg.PMON_LAST_LO n else Reg.PMON_CNT_LO n))).wr (Reg.PMON_SNAPV_HI n)
        (s.rd (if old then Reg.PMON_LAST_HI n else Reg.PMON_CNT_HI n))) s =
      copyRegs s (l.flatMap (pmonPair fun n => s.pmonOld.any (·.1 == n))) := by
  induction l generalizing s with
  | nil => rfl
  | cons n l ih =>
    have hrest := ih (s := copyRegs s (pmonPair (fun n => s.pmonOld.any (·.1 == n)) n)) (copyRegs_wf h _)
    rw [List.flatMap_cons, copyRegs, List.foldl_append, ← copyRegs, ← copyRegs]
    rw [copyRegs_pmonPair h n] at hrest ⊢
    exact hrest

theorem pmonSnapshot_eq (h : Tab.wf regReset s.regs = true) :
    pmonSnapshot s = if s.pmonDue && s.ofs = 0 then
      { captured s (pmonCopies fun n => s.pmonOld.any (·.1 == n)) Reg.PMON_SNAP_FN_LO Reg.PMON_SNAP_RES with pmonDue := false } else s := by
  have hfn : (copyRegs s (pmonCopies fun n => s.pmonOld.any (·.1 == n))).fnN = s.fnN := (copyRegs_onlyRegs _ _).fnN_eq
  unfold pmonSnapshot captured
  dsimp only
  rw [pmonFold_eq h, ← pmonCopies, hfn]

theorem pmonSnapshot_idle (h : s.pmonDue = false ∨ s.ofs ≠ 0) : pmonSnapshot s = s := by
  unfold pmonSnapshot
  refine if_neg ?_
  rcases h with h | h <;> simp [h]

theorem rd_pmonCopies (h : Tab.wf regReset s.regs = true) {old : Nat → Bool} {c : Nat × Nat} (hn : n < 256) (hc : c ∈ pmonPair old n) :
    (captured s (pmonCopies old) Reg.PMON_SNAP_FN_LO Reg.PMON_SNAP_RES).rd c.1 = s.rd c.2 := by
  have hform : ∀ m, ∀ d ∈ pmonPair old m, ∃ k < 2, d.1 = 0x904000 + 8 * m + 4 * k ∧
      d.2 = (if old m then 0x903000 else 0x902000) + 8 * m + 4 * k := by
    intro m d hd
    simp only [pmonPair, List.mem_cons, List.not_mem_nil, or_false] at hd
    rcases hd with rfl | rfl
    · exact ⟨0, by decide, by simp [Reg.PMON_SNAPV_LO], by cases old m <;> simp [Reg.PMON_LAST_LO, Reg.PMON_CNT_LO]⟩
    · exact ⟨1, by decide, by simp [Reg.PMON_SNAPV_HI]; omega, by cases old m <;> simp [Reg.PMON_LAST_HI, Reg.PMON_CNT_HI] <;> omega⟩
  obtain ⟨k, hk, hdst, _⟩ := hform n c hc
  have hcopied : (copyRegs s (pmonCopies old)).rd c.1 = s.rd c.2 := by
    refine rd_copyRegs h (fun c hc d hd => ?_) (fun c hc d hd => ?_) (mem_pmonCopies.mpr ⟨n, hn, hc⟩)
    all_goals
      obtain ⟨n, hn, hc⟩ := mem_pmonCopies.mp hc
      obtain ⟨m, hm, hd⟩ := mem_pmonCopies.mp hd
      obtain ⟨k, hk, hc1, hc2⟩ := hform n c hc
      obtain ⟨j, hj, hd1, hd2⟩ := hform m d hd
    · split at hd2 <;> omega
    · intro hcd
      obtain rfl : n = m := by omega
      rw [hc2, hd2]
      omega
  refine (rd_captured_of_copied h ?_ ?_ ?_).trans hcopied
  all_goals
    simp only [Reg.PMON_SNAP_FN_LO, Reg.PMON_SNAP_RES]
    omega

/-- The two halves of a counter in the snapshot come from the same pair. -/
theorem rdPair_pmonSnapshot (h : Tab.wf regReset s.regs = true) {old : Nat → Bool} (hn : n < 256) :
    (captured s (pmonCopies old) Reg.PMON_SNAP_FN_LO Reg.PMON_SNAP_RES).rdPair (Reg.PMON_SNAPV_LO n) =
      s.rdPair (if old n then Reg.PMON_LAST_LO n else Reg.PMON_CNT_LO n) := by
  have hlo := rd_pmonCopies h hn (List.mem_cons_self (a := (Reg.PMON_SNAPV_LO n, if old n then Reg.PMON_LAST_LO n else Reg.PMON_CNT_LO n)) (l := _))
  have hhi := rd_pmonCopies h hn (old := old) (List.mem_cons_of_mem _ (List.mem_cons_self (l := [])))
  have hdst : Reg.PMON_SNAPV_LO n + 4 = Reg.PMON_SNAPV_HI n := by
    simp only [Reg.PMON_SNAPV_LO, Reg.PMON_SNAPV_HI]
    omega
  have hsrc : (if old n then Reg.PMON_LAST_LO n else Reg.PMON_CNT_LO n) + 4 = if old n then Reg.PMON_LAST_HI n else Reg.PMON_CNT_HI n := by
    cases old n <;> simp only [Reg.PMON_LAST_LO, Reg.PMON_LAST_HI, Reg.PMON_CNT_LO, Reg.PMON_CNT_HI, Bool.false_eq_true, if_false, if_true] <;> omega
  rw [State.rdPair, State.rdPair, hdst, hsrc]
  exact congrArg₂ (fun a b => a + 4294967296 * b) hlo hhi

theorem pmonSourceChange_idle (h : s.ofs ≠ 0 ∨ tabGet 0 s.pmonSel n = Tab.get regReset s.regs (Reg.PMON_SEL n)) : pmonSourceChange s n = s := by
  unfold pmonSourceChange
  exact if_pos (by simpa using h)

/-- What a change of source copies: the old count goes to PMON_LAST. -/
def lastCopies (n : Nat) : List (Nat × Nat) := [(Reg.PMON_LAST_LO n, Reg.PMON_CNT_LO n), (Reg.PMON_LAST_HI n, Reg.PMON_CNT_HI n)]

/-- The registers as a change of source leaves them: the old count is kept, and the counter is 0. -/
def pmonRestart (s : State) (n : Nat) : State := (copyRegs s (lastCopies n)).wrPair (Reg.PMON_CNT_LO n) 0

theorem pmonRestart_onlyRegs (s : State) (n : Nat) : OnlyRegs s (pmonRestart s n) := (copyRegs_onlyRegs s _).wrPair _ _

theorem pmonSourceChange_eq (h : Tab.wf regReset s.regs = true) (hofs : s.ofs = 0) (hsel : tabGet 0 s.pmonSel n ≠ Tab.get regReset s.regs (Reg.PMON_SEL n)) :
    pmonSourceChange s n = { pmonRestart s n with pmonSel := tabSet 0 s.pmonSel n (Tab.get regReset s.regs (Reg.PMON_SEL n)),
                                                  pmonOld := s.pmonOld ++ [(n, tabGet 0 s.pmonSel n)] } := by
  have hcopies : copyRegs s (lastCopies n) =
      (s.wr (Reg.PMON_LAST_LO n) (s.rd (Reg.PMON_CNT_LO n))).wr (Reg.PMON_LAST_HI n) (s.rd (Reg.PMON_CNT_HI n)) :=
    copyRegs_pair h (by simp only [Reg.PMON_LAST_LO, Reg.PMON_CNT_HI]; omega)
  unfold pmonSourceChange pmonRestart
  rw [hcopies]
  exact if_neg (by simpa [hofs] using hsel)

theorem rd_pmonRestart (h : Tab.wf regReset s.regs = true) {c : Nat × Nat} (hc : c ∈ lastCopies n) :
    (pmonRestart s n).rd c.1 = s.rd c.2 := by
  have hform : ∀ d ∈ lastCopies n, ∃ k < 2, d.1 = 0x903000 + 8 * n + 4 * k ∧ d.2 = 0x902000 + 8 * n + 4 * k := by
    intro d hd
    simp only [lastCopies, List.mem_cons, List.not_mem_nil, or_false] at hd
    rcases hd with rfl | rfl
    · exact ⟨0, by decide, rfl, rfl⟩
    · exact ⟨1, by decide, by simp only [Reg.PMON_LAST_HI]; omega, by simp only [Reg.PMON_CNT_HI]; omega⟩
  obtain ⟨k, hk, hdst, _⟩ := hform c hc
  rw [pmonRestart, rd_wrPair_other (copyRegs_wf h _) _ (by simp only [Reg.PMON_CNT_LO]; omega) (by simp only [Reg.PMON_CNT_LO]; omega)]
  refine rd_copyRegs h (fun c hc d hd => ?_) (fun c hc d hd => ?_) hc
  all_goals
    obtain ⟨k, hk, hc1, hc2⟩ := hform c hc
    obtain ⟨j, hj, hd1, hd2⟩ := hform d hd
    omega

theorem rdPair_pmonRestart (h : Tab.wf regReset s.regs = true) (n : Nat) :
    (pmonRestart s n).rdPair (Reg.PMON_LAST_LO n) = s.rdPair (Reg.PMON_CNT_LO n) ∧ (pmonRestart s n).rdPair (Reg.PMON_CNT_LO n) = 0 := by
  refine ⟨?_, rdPair_wrPair (copyRegs_wf h _) _ (by decide)⟩
  have hlo := rd_pmonRestart (n := n) h (c := (Reg.PMON_LAST_LO n, Reg.PMON_CNT_LO n)) (by simp [lastCopies])
  have hhi := rd_pmonRestart (n := n) h (c := (Reg.PMON_LAST_HI n, Reg.PMON_CNT_HI n)) (by simp [lastCopies])
  have hdst : Reg.PMON_LAST_LO n + 4 = Reg.PMON_LAST_HI n := by
    simp only [Reg.PMON_LAST_LO, Reg.PMON_LAST_HI]
    omega
  have hsrc : Reg.PMON_CNT_LO n + 4 = Reg.PMON_CNT_HI n := by
    simp only [Reg.PMON_CNT_LO, Reg.PMON_CNT_HI]
    omega
  rw [State.rdPair, State.rdPair, hdst, hsrc]
  exact congrArg₂ (fun a b => a + 4294967296 * b) hlo hhi

end Pmon

/-- Settles O57: the captures are copies of registers, the rest by the branch each condition takes. -/
theorem countersAndCaptures : Obligations.CountersAndCaptures := by
  refine ⟨fun s => ⟨?snap, ?pmonSnap, ?noCapture, ?noSnapshot, ?taken⟩, fun n d s hn => ⟨?sel, ?freeze, ?same, ?changed⟩⟩
  case snap =>
    exact fun hs => ⟨fun hv hp hd => exec_eq_next rfl rfl ((if_pos hs).trans (tdSnap_asks hv hp hd)),
      fun h => exec_eq_next rfl rfl ((if_pos hs).trans (tdSnap_ignored h))⟩
  case pmonSnap =>
    exact fun hs => ⟨fun hv hp hd => exec_eq_next rfl rfl ((if_pos hs).trans (pmonSnap_asks hv hp hd)),
      fun h => exec_eq_next rfl rfl ((if_pos hs).trans (pmonSnap_ignored h))⟩
  case noCapture => exact fun h => exec_eq_next rfl rfl (tdCapture_idle h)
  case noSnapshot => exact fun h => exec_eq_next rfl rfl (pmonSnapshot_idle h)
  case taken =>
    refine fun hofs hwf => ⟨fun hd => ?capture, fun hd => ?snapshot⟩
    case capture =>
      have hdone := (tdCapture_eq s).trans (if_pos (by simp [hd, hofs]))
      obtain ⟨t, ht, hvalid, hfn, honly⟩ := captured_spec hwf tdCopies (lo := Reg.ENG_TD_FN_LO) (res := Reg.ENG_TD_RES) (by decide) (by decide)
      have hcopied : ∀ e i, e < 68 → i < 8 → t.rd (Reg.ENG_TD_CAP e i) = s.rd (Reg.ENG_RETIRED_LO e + 4 * i) := by
        rw [← ht]
        exact fun e i he hi => rd_tdCapture hwf he hi
      rw [ht] at hdone
      exact ⟨_, exec_eq_next rfl rfl hdone, rfl, hvalid, hfn, hcopied, congrArg (fun t : State => { t with tdDue := false }) honly⟩
    case snapshot =>
      have hdone := (pmonSnapshot_eq hwf).trans (if_pos (by simp [hd, hofs]))
      obtain ⟨t, ht, hvalid, hfn, honly⟩ := captured_spec hwf (pmonCopies fun n => s.pmonOld.any (·.1 == n)) (lo := Reg.PMON_SNAP_FN_LO)
        (res := Reg.PMON_SNAP_RES) (by decide) (by decide)
      have hcopied : ∀ n, n < 256 → t.rdPair (Reg.PMON_SNAPV_LO n) =
          s.rdPair (if s.pmonOld.any (·.1 == n) then Reg.PMON_LAST_LO n else Reg.PMON_CNT_LO n) := by
        rw [← ht]
        exact fun n hn => rdPair_pmonSnapshot hwf hn
      rw [ht] at hdone
      exact ⟨_, exec_eq_next rfl rfl hdone, rfl, hvalid, hfn, hcopied, congrArg (fun t : State => { t with pmonDue := false }) honly⟩
  case sel => exact fun hs => exec_eq_next (decide_eq_true hn) rfl (if_pos hs)
  case freeze => exact fun hs => exec_eq_next rfl rfl (if_pos hs)
  case same => exact fun h => exec_eq_next (decide_eq_true hn) rfl (pmonSourceChange_idle h)
  case changed =>
    intro hofs hsel hwf
    obtain ⟨hlast, hcnt⟩ := rdPair_pmonRestart hwf n
    refine ⟨_, exec_eq_next (decide_eq_true hn) rfl (pmonSourceChange_eq hwf hofs hsel), hlast, hcnt, rfl, ?_⟩
    exact congrArg (fun t : State => { t with pmonSel := tabSet 0 s.pmonSel n (Tab.get regReset s.regs (Reg.PMON_SEL n)),
                                              pmonOld := s.pmonOld ++ [(n, tabGet 0 s.pmonSel n)] }) (pmonRestart_onlyRegs s n)

end Sys2Proof.Machine

namespace Sys2Proof.Machine

/-! Arbitration of a target (R302). -/

section Largest

variable {α : Type} {f : α → Nat} {l : List α}

theorem foldl_max_le {n b : Nat} : l.foldl (fun n x => max n (f x)) n ≤ b ↔ n ≤ b ∧ ∀ x ∈ l, f x ≤ b := by
  induction l generalizing n with
  | nil => simp
  | cons y l ih => rw [List.foldl_cons, ih, Nat.max_le, List.forall_mem_cons, and_assoc]

/-- A member reaches the largest value of a list exactly when no member exceeds it. -/
theorem eq_foldl_max {y : α} (hy : y ∈ l) : f y = l.foldl (fun n x => max n (f x)) 0 ↔ ∀ x ∈ l, f x ≤ f y := by
  have hle : f y ≤ l.foldl (fun n x => max n (f x)) 0 := (foldl_max_le.mp (Nat.le_refl _)).2 y hy
  constructor
  · intro h
    exact (foldl_max_le.mp (Nat.le_of_eq h.symm)).2
  · intro h
    exact Nat.le_antisymm hle (foldl_max_le.mpr ⟨Nat.zero_le _, h⟩)

theorem exists_largest (hl : l ≠ []) (f : α → Nat) : ∃ y ∈ l, ∀ x ∈ l, f x ≤ f y := by
  induction l with
  | nil => exact absurd rfl hl
  | cons a l ih =>
    by_cases hnil : l = []
    · subst hnil
      exact ⟨a, by simp, by simp⟩
    · obtain ⟨y, hy, hmax⟩ := ih hnil
      rcases Nat.le_total (f a) (f y) with h | h
      · exact ⟨y, List.mem_cons_of_mem a hy, List.forall_mem_cons.mpr ⟨h, hmax⟩⟩
      · exact ⟨a, List.mem_cons_self, List.forall_mem_cons.mpr ⟨Nat.le_refl _, fun x hx => Nat.le_trans (hmax x hx) h⟩⟩

end Largest

section Arbitration

variable {s : State} {t m : Nat} {l : List (Nat × Nat)}

/-- The masters a target chooses among: in the tail at the HBM controllers the supervisors alone, while one waits. -/
def State.contenders (s : State) (t : Nat) (l : List (Nat × Nat)) : List (Nat × Nat) :=
  if 3 ≤ t && 199000 ≤ s.ofs && l.any (fun x => decide (4 ≤ x.1)) then l.filter (fun x => decide (4 ≤ x.1)) else l

/-- One of `l` has waited at least XBAR_STARVE cycles. -/
def State.starved (s : State) (t : Nat) (l : List (Nat × Nat)) : Bool := l.any fun x => decide (s.rd (Reg.XBAR_STARVE (t - 1)) ≤ x.2)

def State.priorityAt (s : State) (t m : Nat) : Nat := bits (s.rd (Reg.XBAR_PRI (t - 1))) (3 * m) 3

/-- Master `m` of `l` comes first at target `t`. -/
def State.comesFirst (s : State) (t : Nat) (l : List (Nat × Nat)) (m : Nat) : Prop :=
  if s.starved t l then ∃ w, (m, w) ∈ l ∧ s.rd (Reg.XBAR_STARVE (t - 1)) ≤ w ∧ ∀ x ∈ l, x.2 ≤ w
  else (∃ w, (m, w) ∈ l) ∧ ∀ x ∈ l, s.priorityAt t x.1 ≤ s.priorityAt t m

theorem contenders_sub {x : Nat × Nat} (hx : x ∈ s.contenders t l) : x ∈ l := by
  unfold State.contenders at hx
  split at hx
  · exact List.mem_of_mem_filter hx
  · exact hx

theorem contenders_ne_nil (hl : l ≠ []) : s.contenders t l ≠ [] := by
  unfold State.contenders
  split
  next h =>
    simp only [Bool.and_eq_true, List.any_eq_true] at h
    obtain ⟨_, x, hx, hsup⟩ := h
    exact List.ne_nil_of_mem (List.mem_filter.mpr ⟨hx, hsup⟩)
  · exact hl

theorem xbFirst_eq (s : State) (t : Nat) (l : List (Nat × Nat)) :
    s.xbFirst t l =
      let l' := s.contenders t l
      let late := l'.filter fun x => decide (s.rd (Reg.XBAR_STARVE (t - 1)) ≤ x.2)
      if s.starved t l' then ((late.filter fun x => x.2 == late.foldl (fun n x => max n x.2) 0).map (·.1), true)
      else ((l'.filter fun x => s.priorityAt t x.1 == l'.foldl (fun n x => max n (s.priorityAt t x.1)) 0).map (·.1), false) := by
  have hsup : (!(l.filter fun x => decide (4 ≤ x.1)).isEmpty) = l.any fun x => decide (4 ≤ x.1) := by
    rw [Bool.eq_iff_iff]
    simp
  unfold State.xbFirst
  dsimp only
  rw [hsup, ← State.contenders]
  have hlate : ((s.contenders t l).filter fun x => decide (s.rd (Reg.XBAR_STARVE (t - 1)) ≤ x.2)).isEmpty = !s.starved t (s.contenders t l) := by
    rw [Bool.eq_iff_iff]
    simp [State.starved]
  rw [hlate]
  cases s.starved t (s.contenders t l) <;> rfl

theorem xbFirst_late (s : State) (t : Nat) (l : List (Nat × Nat)) : (s.xbFirst t l).2 = s.starved t (s.contenders t l) := by
  rw [xbFirst_eq]
  dsimp only
  split
  next h => exact h.symm
  next h => exact (Bool.eq_false_of_not_eq_true h).symm

theorem mem_map_fst_filter {p : Nat × Nat → Bool} : m ∈ (l.filter p).map (·.1) ↔ ∃ w, (m, w) ∈ l ∧ p (m, w) = true := by
  simp

theorem mem_xbFirst : m ∈ (s.xbFirst t l).1 ↔ s.comesFirst t (s.contenders t l) m := by
  rw [xbFirst_eq]
  unfold State.comesFirst
  dsimp only
  split
  next h =>
    rw [mem_map_fst_filter]
    refine exists_congr fun w => ?_
    constructor
    · rintro ⟨hin, hlongest⟩
      obtain ⟨hm, hw⟩ := List.mem_filter.mp hin
      have hall := (eq_foldl_max (f := Prod.snd) hin).mp (eq_of_beq hlongest)
      refine ⟨hm, of_decide_eq_true hw, fun x hx => ?_⟩
      rcases Nat.lt_or_ge x.2 (s.rd (Reg.XBAR_STARVE (t - 1))) with hlt | hge
      · exact Nat.le_trans (Nat.le_of_lt hlt) (of_decide_eq_true hw)
      · exact hall x (List.mem_filter.mpr ⟨hx, decide_eq_true hge⟩)
    · rintro ⟨hm, hw, hall⟩
      have hin : (m, w) ∈ (s.contenders t l).filter fun x => decide (s.rd (Reg.XBAR_STARVE (t - 1)) ≤ x.2) :=
        List.mem_filter.mpr ⟨hm, decide_eq_true hw⟩
      exact ⟨hin, beq_of_eq ((eq_foldl_max (f := Prod.snd) hin).mpr fun x hx => hall x (List.mem_of_mem_filter hx))⟩
  next h =>
    rw [mem_map_fst_filter]
    constructor
    · rintro ⟨w, hm, htop⟩
      exact ⟨⟨w, hm⟩, (eq_foldl_max (f := fun x : Nat × Nat => s.priorityAt t x.1) hm).mp (eq_of_beq htop)⟩
    · rintro ⟨⟨w, hm⟩, hall⟩
      exact ⟨w, hm, beq_of_eq ((eq_foldl_max (f := fun x : Nat × Nat => s.priorityAt t x.1) hm).mpr hall)⟩

/-- One master that waits comes first. -/
theorem exists_comesFirst (hl : l ≠ []) : ∃ x ∈ l, s.comesFirst t l x.1 := by
  unfold State.comesFirst
  split
  next h =>
    obtain ⟨y, hy, hlate⟩ := List.any_eq_true.mp h
    obtain ⟨x, hx, hmax⟩ := exists_largest hl Prod.snd
    exact ⟨x, hx, x.2, hx, Nat.le_trans (of_decide_eq_true hlate) (hmax y hy), hmax⟩
  next h =>
    obtain ⟨x, hx, hmax⟩ := exists_largest hl fun x => s.priorityAt t x.1
    exact ⟨x, hx, ⟨x.2, hx⟩, hmax⟩

/-- The turn goes round the eight masters, from the one after the last winner. -/
theorem roundRobin_some {k last : Nat} {l : List Nat} (hk : k < 8) (hin : (last + 1 + k) % 8 ∈ l) (hfirst : ∀ j < k, (last + 1 + j) % 8 ∉ l) :
    roundRobin last l = some ((last + 1 + k) % 8) := by
  have hfind : (List.range 8).find? (l.contains ∘ fun k => (last + 1 + k) % 8) = some k :=
    List.find?_range_eq_some.mpr ⟨by simpa using hin, List.mem_range.mpr hk, fun j hj => by simpa using hfirst j hj⟩
  rw [roundRobin, List.find?_map, hfind]
  rfl

/-- Some turn reaches a list that holds a master, and one reaches it first. -/
theorem exists_turn {m last : Nat} {l : List Nat} (hm : m ∈ l) (h8 : m < 8) :
    ∃ k, k < 8 ∧ (last + 1 + k) % 8 ∈ l ∧ ∀ j < k, (last + 1 + j) % 8 ∉ l := by
  have hreach : ∃ k, k < 8 ∧ (last + 1 + k) % 8 ∈ l := ⟨(m + 8 - (last + 1) % 8) % 8, by omega, by
    rwa [show (last + 1 + (m + 8 - (last + 1) % 8) % 8) % 8 = m by omega]⟩
  obtain ⟨hk, hin⟩ := Nat.find_spec hreach
  exact ⟨Nat.find hreach, hk, hin, fun j hj hmem => Nat.find_min hreach hj ⟨by omega, hmem⟩⟩

theorem burstGrant_eq (h1 : 1 ≤ t) (h4 : t ≤ 4) (hl : ∀ x ∈ l, x.1 < 8) :
    burstGrant s t l = match roundRobin (tabGet 7 s.xbLast t) (s.xbFirst t l).1 with
      | some m => { (if (s.xbFirst t l).2 then s.evt Reg.XBAR_EVT F.XBAR_EVT_STARVE else s) with
          xbHold := tabSet 8 s.xbHold t m, xbLast := tabSet 7 s.xbLast t m }
      | none => { s with xbHold := tabSet 8 s.xbHold t 8 } := by
  have hall : l.filter (fun x => decide (x.1 < 8)) = l := List.filter_eq_self.mpr fun x hx => decide_eq_true (hl x hx)
  unfold burstGrant
  rw [if_neg (by simp; omega), hall]
  dsimp only
  cases roundRobin (tabGet 7 s.xbLast t) (s.xbFirst t l).1 with
  | none => rfl
  | some m => cases (s.xbFirst t l).2 <;> rfl

/-- A grant among masters that wait goes to the first turn that comes first. -/
theorem burstGrant_of_turn {k : Nat} (h1 : 1 ≤ t) (h4 : t ≤ 4) (hl : ∀ x ∈ l, x.1 < 8) (hk : k < 8)
    (hin : s.comesFirst t (s.contenders t l) ((tabGet 7 s.xbLast t + 1 + k) % 8))
    (hfirst : ∀ j < k, ¬ s.comesFirst t (s.contenders t l) ((tabGet 7 s.xbLast t + 1 + j) % 8)) :
    burstGrant s t l = { (if s.starved t (s.contenders t l) then s.evt Reg.XBAR_EVT F.XBAR_EVT_STARVE else s) with
      xbHold := tabSet 8 s.xbHold t ((tabGet 7 s.xbLast t + 1 + k) % 8), xbLast := tabSet 7 s.xbLast t ((tabGet 7 s.xbLast t + 1 + k) % 8) } := by
  rw [burstGrant_eq h1 h4 hl, roundRobin_some hk (mem_xbFirst.mpr hin) fun j hj hmem => hfirst j hj (mem_xbFirst.mp hmem), xbFirst_late]

theorem burstGrant_empty (h1 : 1 ≤ t) (h4 : t ≤ 4) : burstGrant s t [] = { s with xbHold := tabSet 8 s.xbHold t 8 } := by
  have hnone : (s.xbFirst t []).1 = [] := List.eq_nil_iff_forall_not_mem.mpr fun m hm => by
    have hfirst := mem_xbFirst.mp hm
    simp [State.comesFirst, State.contenders, State.starved] at hfirst
  rw [burstGrant_eq h1 h4 (by simp), hnone]
  rfl

end Arbitration

/-! The reset of the host port (R292, R305). -/

section HostPort

variable {s : State}

theorem hostCut_idle (h : ∀ r ∈ s.hostQ.head?, s.holder8 (s.reqTarget r) ≠ 0) : hostCut s = s := by
  unfold hostCut
  split
  next r _ hq => exact if_neg (h r (by rw [hq]; rfl))
  · rfl

theorem hostCut_of_burst {r : HostReq} {rest : List HostReq} (hq : s.hostQ = r :: rest) (h : s.holder8 (s.reqTarget r) = 0) :
    hostCut s = (hostBurst { s with freeCount := s.freeCount + 1 } r
      (if r.write then min (Config.beatsServed s.freeCount * (if r.bar = 0 then 1 else 16)) (burstDwords r s.hostPos)
        else burstDwords r s.hostPos)).2 := by
  unfold hostCut
  split
  next r' _ hq' =>
    cases hq.symm.trans hq'
    exact if_pos h
  next hq' => cases hq.symm.trans hq'

theorem masterReset_holdsNone {m : Nat} (h : ∀ x ∈ s.xbHold, x.2 ≠ m) : masterReset s m = s := by
  have hnone : s.xbHold.filter (·.2 == m) = [] := List.filter_eq_nil_iff.mpr fun x hx => by simpa using h x hx
  have hall : s.xbHold.filter (fun x => x.2 != m) = s.xbHold := List.filter_eq_self.mpr fun x hx => by simpa using h x hx
  unfold masterReset
  rw [hnone]
  dsimp only [List.foldl_nil]
  rw [hall]

theorem masterReset_holdsOne {m g : Nat} (h : s.xbHold = [(g, m)]) :
    masterReset s m = { (if s.flag Reg.XBAR_EVT F.XBAR_EVT_MRESET then s else
      ((s.evt Reg.XBAR_EVT F.XBAR_EVT_MRESET).setFld Reg.XBAR_MRESET_INFO F.XBAR_MRESET_INFO_MASTER m).setFld Reg.XBAR_MRESET_INFO
          F.XBAR_MRESET_INFO_TARGET g) with xbHold := [] } := by
  have hone : s.xbHold.filter (·.2 == m) = [(g, m)] := by simp [h]
  have hnone : s.xbHold.filter (fun x => x.2 != m) = [] := by simp [h]
  have hfreed : ∀ u : State, u.xbHold = s.xbHold → { u with xbHold := u.xbHold.filter fun x => x.2 != m } = { u with xbHold := [] } :=
    fun u hu => by rw [hu, hnone]
  unfold masterReset
  rw [hone]
  dsimp only [List.foldl_cons, List.foldl_nil]
  split
  · exact hfreed _ rfl
  · exact hfreed _ rfl

end HostPort

/-- Settles O10: the grant goes to the first turn that comes first, the other clauses by what each command is. -/
theorem crossbarAndLink : Obligations.CrossbarAndLink := by
  refine ⟨fun t l s h1 h4 hne hl => ?grant, fun t s h1 h4 => ?empty, fun l s hl => ?default, fun s => ?reset, fun s => hostCut_idle,
    fun s r rest => hostCut_of_burst, fun s => masterReset_holdsNone, fun s g => masterReset_holdsOne, fun v w s h1 h5 hw => ?link,
    fun d s => ?mask⟩
  case grant =>
    intro l' starve pri late first turn
    obtain ⟨x, hx, hcomes⟩ := exists_comesFirst (s := s) (t := t) (contenders_ne_nil (s := s) (t := t) hne)
    obtain ⟨k, hk, hin, hfirst⟩ := exists_turn (last := tabGet 7 s.xbLast t) (mem_xbFirst.mpr hcomes) (hl x (contenders_sub hx))
    rw [mem_xbFirst] at hin
    have hnot : ∀ j < k, ¬ s.comesFirst t (s.contenders t l) ((tabGet 7 s.xbLast t + 1 + j) % 8) :=
      fun j hj hcome => hfirst j hj (mem_xbFirst.mpr hcome)
    have hwf : (Instr.burstGrant t l).wf = true := by simpa [Instr.wf] using ⟨by omega, fun a b h => hl (a, b) h⟩
    exact ⟨k, hk, hin, hnot, exec_eq_next hwf rfl (burstGrant_of_turn h1 h4 hl hk hin hnot)⟩
  case empty => exact exec_eq_next (by simp [Instr.wf]; omega) rfl (burstGrant_empty h1 h4)
  case default => exact exec_eq_next (by simpa [Instr.wf] using fun a b h => hl (a, b) h) rfl rfl
  case reset => exact exec_eq_next rfl rfl rfl
  case link => exact exec_eq_next (by rcases hw with rfl | rfl | rfl <;> simp [Instr.wf, h1, h5]) rfl rfl
  case mask => exact exec_eq_next rfl rfl rfl

end Sys2Proof.Machine

namespace Sys2Proof.Machine

/-! The release of the data plane over a table of engines that is not canonical (R288). -/

theorem after_eng (s t : State) (e : Nat) : (after s t).eng e = t.eng e := by
  rw [after_eq]
  rfl

/-- Boot step 8 has ended, and the table of engines lists engine 0 twice; nothing in the statement excludes it, which asks for the canonical
form of the registers only. -/
def twiceListed : State :=
  { Tests.waited with engs := [(0, { smem := [(0, 1)] }), (0, { smem := [(0, 1)] })] }

/-- Engine 0 gets no initial word and so returns to the default: its entry is taken out, and the second one shows. -/
theorem release_twiceListed : ((release twiceListed).eng 0).smem = [(0, 1)] := by decide +kernel

theorem twiceListed_due : twiceListed.clk = true ∧ twiceListed.bootStep = 7 ∧ twiceListed.ofs = 0 ∧ twiceListed.boot.relDue = some 3 ∧
    3 < twiceListed.elapsed ∧ twiceListed.img = some Tests.bare ∧ Tab.wf regReset twiceListed.regs = true ∧ Tests.bare.initWords 0 = [] := by decide

/-- Refutes O13, in the state memory after the release: with engine 0 listed twice, its second entry stays, which is not the image's. -/
theorem not_bootEndsInRelease : ¬ Obligations.BootEndsInRelease := by
  intro h
  obtain ⟨hclk, hstep, hofs, hdue, hlt, himg, hwf, hwords⟩ := twiceListed_due
  obtain ⟨t, hexec, _, _, _, _, _, _, _, _, _, _, _, _, _, hsmem, _⟩ := h.2 Tests.bare 3 twiceListed hclk hstep hofs hdue hlt himg hwf
  have hmade : exec .dataPlaneRelease twiceListed = .next (after twiceListed (release twiceListed)) :=
    exec_eq_next rfl rfl (if_pos (by decide))
  have hsame : after twiceListed t = after twiceListed (release twiceListed) := Host.Outcome.next.inj (hexec.symm.trans hmade)
  have heng : t.eng 0 = (release twiceListed).eng 0 := by rw [← after_eng twiceListed t, hsame, after_eng]
  have hempty : ((release twiceListed).eng 0).smem = [] := by
    rw [← heng, (hsmem 0 (by decide)).1, hwords]
  exact absurd (release_twiceListed.symm.trans hempty) (by decide)

end Sys2Proof.Machine

namespace Sys2Proof.Machine

/-! Ranges of a byte table, and the bytes of a NOR device (R281, R291). -/

section Ranges

variable {α : Type} {d : Nat → α} {m : List (Nat × α)}

@[simp] theorem Tab.length_getRange (d : Nat → α) (m : List (Nat × α)) (k n : Nat) : (Tab.getRange d m k n).length = n := by
  induction n generalizing k with
  | zero => rfl
  | succ n ih => rw [Tab.getRange, List.length_cons, ih]

@[simp] theorem Tab.getElem_getRange {k n i : Nat} (h : i < (Tab.getRange d m k n).length) : (Tab.getRange d m k n)[i] = Tab.get d m (k + i) := by
  induction n generalizing k i with
  | zero => cases h
  | succ n ih =>
    cases i with
    | zero => rfl
    | succ i =>
      have hlt : i < (Tab.getRange d m (k + 1) n).length := by simpa [Tab.getRange] using h
      calc (Tab.getRange d m k (n + 1))[i + 1] = (Tab.getRange d m (k + 1) n)[i] := rfl
        _ = Tab.get d m (k + 1 + i) := ih hlt
        _ = Tab.get d m (k + (i + 1)) := by rw [Nat.add_right_comm, Nat.add_assoc]

end Ranges

section Devices

variable {n : Nor} {a i : Nat} {l : List Byte}

/-- A byte in reach of a program command keeps the bits that were clear. -/
theorem Nor.byteAt_program_in (h1 : a ≤ i) (h2 : i < a + l.length) : (n.program a l).byteAt i = n.byteAt i &&& l[i - a]'(by omega) := by
  have hlen : (List.zipWith (· &&& ·) (Tab.getRange norDefault n.cells a l.length) l).length = l.length := by simp
  unfold Nor.program Nor.byteAt
  dsimp only
  rw [Tab.get_setRange_in norDefault a _ i h1 (by rw [hlen]; exact h2), List.getElem_zipWith, Tab.getElem_getRange, Nat.add_sub_cancel' h1]

theorem Nor.byteAt_program_out (h : Tab.wf norDefault n.cells = true) (hi : ¬ (a ≤ i ∧ i < a + l.length)) :
    (n.program a l).byteAt i = n.byteAt i :=
  Tab.get_setRange_out norDefault h a _ i (by simpa using hi)

theorem Nor.byteAt_erase (h : Tab.wf norDefault n.cells = true) (a len i : Nat) :
    (n.erase a len).byteAt i = if a ≤ i ∧ i < a + len then 0xFF else n.byteAt i := Tab.get_dropRange norDefault h a (a + len) i

theorem nor_setNor (s : State) (dev : Nat) (n : Nor) : (s.setNor dev n).nor dev = n := by
  unfold State.setNor State.nor
  split <;> rfl

theorem setNor_mem (s : State) (dev : Nat) (n : Nor) : (s.setNor dev n).mem = s.mem := by
  unfold State.setNor
  split <;> rfl

theorem setNor_flash (s : State) (dev : Nat) (n : Nor) : (s.setNor dev n).flash = s.flash := by
  unfold State.setNor
  split <;> rfl

/-- Programming reaches every byte when it only clears bits. -/
theorem firstBad_eq_none {old l : List Byte} (hlen : old.length = l.length)
    (h : ∀ i (hi : i < l.length), old[i]'(by omega) &&& l[i] = l[i]) : firstBad old l = none := by
  refine List.find?_eq_none.mpr fun i hi => ?_
  have hlt := List.mem_range.mp hi
  have hold : i < old.length := hlen ▸ hlt
  rw [List.getD_eq_getElem _ _ hlt, List.getD_eq_getElem _ _ hold, h i hlt]
  simp

end Devices

/-! The start of a flash command (R291). -/

section FlashStart

variable {s : State} {v o k : Nat} (hfree : s.flash = none) (hres : s.valid Reg.BOOT_FL_RES = false) (hret : s.inReturn = false)
  (hpres : (s.nor v).present = true) (hstep : 3 < s.bootStep)
include hfree hres hret hpres hstep

/-- Nothing keeps a flash command from starting: none runs or waits, and its device is ready. -/
theorem flashCmd_guards : ¬ (s.flash.isSome || s.valid Reg.BOOT_FL_RES) = true ∧ ¬ s.inReturn = true ∧
    ¬ (!(s.nor v).present || s.bootStep ≤ 3) = true :=
  ⟨by simp [hfree, hres], ne_true_of_eq_false hret, by simp [hpres, hstep]⟩

theorem flashCmd_moves (h1 : 1 ≤ s.rd Reg.BOOT_FL_LEN) (hmax : s.rd Reg.BOOT_FL_LEN ≤ 16777216)
    (hdev : s.rd Reg.BOOT_FL_ADDR + s.rd Reg.BOOT_FL_LEN ≤ (s.nor v).size)
    (hspan : s.memSpan (s.rd Reg.BOOT_FL_BUF_LO + 4294967296 * s.rd Reg.BOOT_FL_BUF_HI) (s.rd Reg.BOOT_FL_LEN) = some k) (ho : o = 1 ∨ o = 2) :
    flashCmd s o v =
      ({ s with flash := some ⟨o, v, s.rd Reg.BOOT_FL_ADDR, s.rd Reg.BOOT_FL_LEN, k⟩ } : State).pendRes Reg.BOOT_FL_RES := by
  obtain ⟨hidle, hlive, hready⟩ := flashCmd_guards hfree hres hret hpres hstep
  unfold flashCmd
  rw [if_neg hidle, if_neg (by omega), if_neg hlive, if_neg hready]
  dsimp only
  rw [if_neg (by omega), hspan]
  exact if_pos (by simp [h1, hmax, hdev])

theorem flashCmd_erases (haddr : s.rd Reg.BOOT_FL_ADDR % 65536 = 0) (hlen : s.rd Reg.BOOT_FL_LEN % 65536 = 0) :
    flashCmd s 3 v =
      ({ s with flash := some ⟨3, v, s.rd Reg.BOOT_FL_ADDR, s.rd Reg.BOOT_FL_LEN, 0⟩ } : State).pendRes Reg.BOOT_FL_RES := by
  obtain ⟨hidle, hlive, hready⟩ := flashCmd_guards hfree hres hret hpres hstep
  unfold flashCmd
  rw [if_neg hidle, if_neg (by decide), if_neg hlive, if_neg hready]
  exact (if_pos rfl).trans (if_pos (by simp [haddr, hlen]))

end FlashStart

/-! The end of a flash command without a failure of the device (R291). -/

section FlashEnd

variable {s : State} {j : FlashJob} (hj : s.flash = some j)
include hj

theorem flashDone_read (hop : j.op = 1) :
    flashDone s none = (({ s with flash := none } : State).memPut j.buf (Tab.getRange norDefault (s.nor j.dev).cells j.addr j.len)).putRes
      Reg.BOOT_FL_RES cOK 0 := by
  unfold flashDone
  rw [hj]
  exact if_pos hop

theorem flashDone_program (hop : j.op = 2)
    (hclear : ∀ i, i < j.len → (s.nor j.dev).byteAt (j.addr + i) &&& s.memAt (j.buf + i) = s.memAt (j.buf + i)) :
    flashDone s none = (({ s with flash := none } : State).setNor j.dev ((s.nor j.dev).program j.addr (s.memGet j.buf j.len))).putRes
      Reg.BOOT_FL_RES cOK 0 := by
  obtain ⟨t, ht⟩ : ∃ t : State, t = { s with flash := none } := ⟨_, rfl⟩
  have hnor : t.nor j.dev = s.nor j.dev := by
    rw [ht]
    rfl
  have hget : t.memGet j.buf j.len = s.memGet j.buf j.len := by
    rw [ht]
    rfl
  have hgood : firstBad (Tab.getRange norDefault (s.nor j.dev).cells j.addr j.len) (s.memGet j.buf j.len) = none := by
    refine firstBad_eq_none (by rw [State.memGet, Tab.length_getRange, Tab.length_getRange]) fun i hi => ?_
    have hlt : i < j.len := by simpa [State.memGet] using hi
    simpa [State.memGet, Nor.byteAt, State.memAt] using hclear i hlt
  have hall : (s.memGet j.buf j.len).take j.len = s.memGet j.buf j.len :=
    List.take_of_length_le (by rw [State.memGet, Tab.length_getRange])
  unfold flashDone
  rw [hj]
  refine (if_neg (by omega)).trans ((if_pos hop).trans ?_)
  dsimp only
  rw [← ht, hnor, hget, hgood]
  dsimp only
  rw [hall]

theorem flashDone_erase (hop : j.op = 3) :
    flashDone s none = (({ s with flash := none } : State).setNor j.dev ((s.nor j.dev).erase j.addr j.len)).putRes Reg.BOOT_FL_RES cOK 0 := by
  unfold flashDone
  rw [hj]
  exact (if_neg (by omega)).trans (if_neg (by omega))

end FlashEnd

/-- Settles O15: the commands start past the conditions they share, and end with the bytes of their range moved. -/
theorem flashCommands : Obligations.FlashCommands := by
  refine ⟨fun o v k s hv hs hfree hres hret hpres hstep => ⟨fun h1 hmax hdev hspan ho => ?moves, fun haddr hlen => ?erases⟩,
    fun j s hj hmem hnor => ⟨fun hop => ?read, fun hop hclear => ?program, fun hop => ?erase⟩⟩
  case moves =>
    have hstart := flashCmd_moves hfree hres hret hpres hstep h1 hmax hdev hspan ho
    rcases ho with rfl | rfl
    · exact exec_eq_next (ins := .read v) (decide_eq_true hv) rfl ((if_pos hs).trans hstart)
    · exact exec_eq_next (ins := .program v) (decide_eq_true hv) rfl ((if_pos hs).trans hstart)
  case erases => exact exec_eq_next (decide_eq_true hv) rfl ((if_pos hs).trans (flashCmd_erases hfree hres hret hpres hstep haddr hlen))
  case read =>
    refine ⟨_, exec_eq_next rfl rfl (flashDone_read hj hop), rfl, fun i hi => ?_, fun i hi => ?_⟩
    · rw [State.memAt_memPut_in _ _ _ (by omega) (by simp; omega), Tab.getElem_getRange, Nat.add_sub_cancel_left]
      rfl
    · exact State.memAt_memPut (s := { s with flash := none }) hmem _ _ i (by simpa using hi)
  case program =>
    have hlen : (s.memGet j.buf j.len).length = j.len := by simp [State.memGet]
    refine ⟨_, exec_eq_next rfl rfl (flashDone_program hj hop hclear), setNor_flash _ _ _, setNor_mem _ _ _, fun i hi => ?_, fun i hi => ?_⟩
    · rw [nor_setNor, Nor.byteAt_program_in (by omega) (by omega)]
      simpa [State.memGet, State.memAt] using hclear i hi
    · rw [nor_setNor, Nor.byteAt_program_out hnor (by omega)]
  case erase =>
    refine ⟨_, exec_eq_next rfl rfl (flashDone_erase hj hop), setNor_flash _ _ _, setNor_mem _ _ _, fun i h1 h2 => ?_, fun i hi => ?_⟩
    · rw [nor_setNor, Nor.byteAt_erase hnor, if_pos ⟨h1, h2⟩]
    · rw [nor_setNor, Nor.byteAt_erase hnor, if_neg hi]

end Sys2Proof.Machine

namespace Sys2Proof.Machine

/-! What the DMA changes of the state (R307 to R311): registers, channels, what is sent, and the MSI-X vectors that are pending. -/

/-- `t` differs from `s` in what the channels of the DMA change at most. -/
def OnlyChans (s t : State) : Prop := t = { s with regs := t.regs, chans := t.chans, sent := t.sent, msixPend := t.msixPend }

section ChannelFrame

variable {s t u : State}

theorem OnlyChans.refl (s : State) : OnlyChans s s := rfl

theorem OnlyChans.trans (h1 : OnlyChans s t) (h2 : OnlyChans t u) : OnlyChans s u := by
  unfold OnlyChans at *
  rw [h2, h1]

theorem OnlyRegs.onlyChans (h : OnlyRegs s t) : OnlyChans s t := by
  unfold OnlyRegs at h
  unfold OnlyChans
  rw [h]

theorem OnlyChans.updChan (h : OnlyChans s t) (c : Nat) (f : Chan → Chan) : OnlyChans s (t.updChan c f) := h.trans rfl

theorem OnlyChans.send (h : OnlyChans s t) (x : Sent) : OnlyChans s (t.send x) := h.trans rfl

theorem OnlyChans.ofs_eq (h : OnlyChans s t) : t.ofs = s.ofs := (congrArg State.ofs h).trans rfl

theorem OnlyChans.now_eq (h : OnlyChans s t) : t.now = s.now := (congrArg State.now h).trans rfl

theorem OnlyRegs.sent_eq (h : OnlyRegs s t) : t.sent = s.sent := (congrArg State.sent h).trans rfl

theorem updChan_sent (s : State) (c : Nat) (f : Chan → Chan) : (s.updChan c f).sent = s.sent := rfl

theorem updChan_wf (h : Tab.wf regReset s.regs = true) (c : Nat) (f : Chan → Chan) : Tab.wf regReset (s.updChan c f).regs = true := h

theorem rd_updChan (s : State) (c : Nat) (f : Chan → Chan) (b : Nat) : (s.updChan c f).rd b = s.rd b := rfl

theorem msi_regs (s : State) (v : Nat) : (s.msi v).regs = s.regs := (congrArg State.regs (State.msi_eq s v)).trans rfl

theorem msi_chans (s : State) (v : Nat) : (s.msi v).chans = s.chans := (congrArg State.chans (State.msi_eq s v)).trans rfl

theorem msi_onlyChans (s : State) (v : Nat) : OnlyChans s (s.msi v) := by
  unfold OnlyChans
  rw [msi_regs, msi_chans]
  exact State.msi_eq s v

theorem rd_msi (s : State) (v b : Nat) : (s.msi v).rd b = s.rd b := congrArg (fun m => (Tab.get regReset m b).toNat) (msi_regs s v)

/-- A message is appended to what was sent, if it is sent at all. -/
theorem sent_msi (s : State) (v : Nat) : s.sent <+: (s.msi v).sent := by
  rcases State.msi_cases s v with h | h
  · rw [h]
    exact List.prefix_append _ _
  · rw [h]

end ChannelFrame

/-! The result of a channel, a halt and the end of a chain (R299, R307, R311). -/

section Results

variable {s t : State} {c code : Nat}

/-- The result of a channel: nothing but its register, and the message, changes. -/
theorem chanResult_spec (h : Tab.wf regReset s.regs = true) (c code : Nat) :
    OnlyChans s (chanResult s c code) ∧ (chanResult s c code).valid (Reg.DMA_CH_RES c) = true ∧
      bits ((chanResult s c code).rd (Reg.DMA_CH_RES c)) 0 8 = code % 256 ∧
      (∀ b, b ≠ Reg.DMA_CH_RES c → (chanResult s c code).rd b = s.rd b) ∧ s.sent <+: (chanResult s c code).sent := by
  obtain ⟨hvalid, hcode, _, _, hother⟩ := State.putRes_spec h (Reg.DMA_CH_RES c) code 0
  have honly := (OnlyRegs.refl s).putRes (Reg.DMA_CH_RES c) code 0
  have hkept : (s.putRes (Reg.DMA_CH_RES c) code 0).sent = s.sent := honly.sent_eq
  unfold chanResult
  generalize s.putRes (Reg.DMA_CH_RES c) code 0 = t at hvalid hcode hother honly hkept ⊢
  refine ⟨honly.onlyChans.trans (msi_onlyChans t c), ?_, ?_, fun b hb => (rd_msi t c b).trans (hother b hb), ?_⟩
  · rw [← hvalid]
    exact congrArg (fun v => bitAt v 31) (rd_msi t c _)
  · rw [← hcode, rd_msi]
  · rw [← hkept]
    exact sent_msi t c

/-- A channel halts: the state, the event, the result; nothing but what a channel changes. -/
structure Halted (s t : State) (c code : Nat) : Prop where
  only : OnlyChans s t
  state : t.chanSt c = 3
  event : t.flag Reg.DMA_EVT F.DMA_EVT_HALT = true
  result : t.valid (Reg.DMA_CH_RES c) = true
  code : bits (t.rd (Reg.DMA_CH_RES c)) 0 8 = code % 256
  sent : s.sent <+: t.sent

/-- The state and the event of a channel that halts. -/
def haltShown (s : State) (c : Nat) : State := (setChanSt s c 3).evt Reg.DMA_EVT F.DMA_EVT_HALT

theorem haltShown_spec (h : Tab.wf regReset s.regs = true) (c : Nat) :
    OnlyRegs s (haltShown s c) ∧ Tab.wf regReset (haltShown s c).regs = true ∧ (haltShown s c).chanSt c = 3 ∧
      (haltShown s c).flag Reg.DMA_EVT F.DMA_EVT_HALT = true := by
  have hset := setFld_wf h (Reg.DMA_CH_STAT c) F.DMA_CH_STAT_STATE 3
  have hstat : (haltShown s c).rd (Reg.DMA_CH_STAT c) = (setChanSt s c 3).rd (Reg.DMA_CH_STAT c) :=
    rd_evt_other hset (by unfold Reg.DMA_CH_STAT Reg.DMA_EVT; omega)
  exact ⟨((OnlyRegs.refl s).setFld _ _ _).evt _ _, evt_wf hset _ _,
    (fld_of_rd_eq hstat).trans (State.fld_setFld h _ F.DMA_CH_STAT_STATE 3 (by decide)), flag_evt_self hset (by decide)⟩

/-- A halt of a channel, once its queue is marked. -/
def haltMarked (s : State) (c code : Nat) : State := chanResult (haltShown (s.updChan c fun x => { x.clear with buf := x.buf }) c) c code

theorem haltMarked_halted (h : Tab.wf regReset s.regs = true) (c code : Nat) : Halted s (haltMarked s c code) c code := by
  obtain ⟨honly, hwf, hst, hevt⟩ := haltShown_spec (s := s.updChan c fun x => { x.clear with buf := x.buf }) h c
  have hsent := honly.sent_eq
  unfold haltMarked
  have hframe := ((OnlyChans.refl s).updChan c _).trans honly.onlyChans
  generalize haltShown (s.updChan c fun x => { x.clear with buf := x.buf }) c = u at hwf hst hevt hsent hframe ⊢
  obtain ⟨hresult, hvalid, hcode, hother, hmore⟩ := chanResult_spec hwf c code
  refine ⟨hframe.trans hresult, ?_, ?_, hvalid, hcode, ?_⟩
  · exact (fld_of_rd_eq (hother _ (by unfold Reg.DMA_CH_STAT Reg.DMA_CH_RES; omega))).trans hst
  · exact (flag_of_rd_eq (hother _ (by unfold Reg.DMA_EVT Reg.DMA_CH_RES; omega))).trans hevt
  · rw [hsent] at hmore
    exact hmore

theorem Halted.of_onlyChans (h : OnlyChans s t) (hsent : t.sent = s.sent) {u : State} (ht : Halted t u c code) : Halted s u c code :=
  ⟨h.trans ht.only, ht.state, ht.event, ht.result, ht.code, hsent ▸ ht.sent⟩

theorem Halted.of_onlyRegs (h : OnlyRegs s t) {u : State} (ht : Halted t u c code) : Halted s u c code := .of_onlyChans h.onlyChans h.sent_eq ht

theorem chanHalt_eq (s : State) (c code : Nat) : chanHalt s c code = haltMarked (match (s.chan c).desc with
    | some d => if 3 ≤ d.op then s.mapBit (Reg.DMA_Q_MARK 0) d.queue else s
    | none => s) c code := rfl

theorem chanHalt_halted (h : Tab.wf regReset s.regs = true) (c code : Nat) : Halted s (chanHalt s c code) c code := by
  have hmark : ∀ a q, Halted s (haltMarked (s.mapBit a q) c code) c code := fun a q =>
    .of_onlyRegs ((OnlyRegs.refl s).mapBit a q) (haltMarked_halted (mapBit_wf h a q) c code)
  rw [chanHalt_eq]
  cases (s.chan c).desc with
  | none => exact haltMarked_halted h c code
  | some d =>
    dsimp only
    by_cases hop : 3 ≤ d.op
    · rw [if_pos hop]
      exact hmark _ _
    · rw [if_neg hop]
      exact haltMarked_halted h c code

/-- The state of a channel that has nothing to do. -/
def idleShown (s : State) (c : Nat) : State := (setChanSt s c 0).setFld (Reg.DMA_CH_STAT c) F.DMA_CH_STAT_QUEUE 0

theorem idleShown_spec (h : Tab.wf regReset s.regs = true) (c : Nat) :
    OnlyRegs s (idleShown s c) ∧ Tab.wf regReset (idleShown s c).regs = true ∧ (idleShown s c).chanSt c = 0 := by
  have hset := setFld_wf h (Reg.DMA_CH_STAT c) F.DMA_CH_STAT_STATE 0
  exact ⟨((OnlyRegs.refl s).setFld _ _ _).setFld _ _ _, setFld_wf hset _ _ _,
    (fld_setFld_beside hset (by decide) (by decide)).trans (State.fld_setFld h _ F.DMA_CH_STAT_STATE 0 (by decide))⟩

theorem chanEnd_eq (s : State) (c : Nat) : chanEnd s c = chanResult ((idleShown s c).updChan c Chan.clear) c cOK := rfl

/-- A channel that has nothing to do answers OK. -/
theorem ended_of_idle {v : State} (hframe : OnlyChans s v) (hwf : Tab.wf regReset v.regs = true) (hst : v.chanSt c = 0) (hsent : v.sent = s.sent) :
    OnlyChans s (chanResult v c cOK) ∧ (chanResult v c cOK).chanSt c = 0 ∧ (chanResult v c cOK).valid (Reg.DMA_CH_RES c) = true ∧
      bits ((chanResult v c cOK).rd (Reg.DMA_CH_RES c)) 0 8 = 0 ∧ s.sent <+: (chanResult v c cOK).sent := by
  obtain ⟨hresult, hvalid, hcode, hother, hmore⟩ := chanResult_spec hwf c cOK
  exact ⟨hframe.trans hresult, (fld_of_rd_eq (hother _ (by unfold Reg.DMA_CH_STAT Reg.DMA_CH_RES; omega))).trans hst, hvalid, hcode, hsent ▸ hmore⟩

/-- The chain of a channel ends with OK. -/
theorem chanEnd_spec (h : Tab.wf regReset s.regs = true) (c : Nat) :
    OnlyChans s (chanEnd s c) ∧ (chanEnd s c).chanSt c = 0 ∧ (chanEnd s c).valid (Reg.DMA_CH_RES c) = true ∧
      bits ((chanEnd s c).rd (Reg.DMA_CH_RES c)) 0 8 = 0 ∧ s.sent <+: (chanEnd s c).sent := by
  obtain ⟨honly, hwf, hst⟩ := idleShown_spec h c
  rw [chanEnd_eq]
  exact ended_of_idle (honly.onlyChans.updChan c _) (updChan_wf hwf c _) ((fld_of_rd_eq (rd_updChan _ c _ _)).trans hst)
    ((updChan_sent _ c _).trans honly.sent_eq)

end Results

end Sys2Proof.Machine

namespace Sys2Proof.Machine

/-! The fetch of a descriptor (R309). -/

section Fetch

variable {s t u : State} {c a n : Nat}

/-- A host window looks at three registers. -/
theorem inHwin_congr (hlo : t.rd (Reg.DMA_CH_HWIN_LO c) = s.rd (Reg.DMA_CH_HWIN_LO c))
    (hhi : t.rd (Reg.DMA_CH_HWIN_LO c + 4) = s.rd (Reg.DMA_CH_HWIN_LO c + 4))
    (hlen : t.rd (Reg.DMA_CH_HWIN_LEN c) = s.rd (Reg.DMA_CH_HWIN_LEN c)) (a n : Nat) : t.inHwin c a n = s.inHwin c a n := by
  unfold State.inHwin State.rdPair
  rw [hlo, hhi, hlen]

theorem chanFetch_asks (h32 : a % 32 = 0) (hwin : s.inHwin c a 32 = true) :
    chanFetch s c a = (s.send (.hostRead c a 32)).updChan c fun x => { x with fetching := some (a, s.now) } := by
  unfold chanFetch
  rw [if_neg (by omega), if_neg (by simp [hwin])]

theorem chanFetch_halts (h : Tab.wf regReset s.regs = true) (hno : a % 32 ≠ 0 ∨ s.inHwin c a 32 = false) :
    Halted s (chanFetch s c a) c (if a % 32 ≠ 0 then 0x20 else 0x21) := by
  unfold chanFetch
  by_cases h32 : a % 32 ≠ 0
  · rw [if_pos h32, if_pos h32]
    exact chanHalt_halted h c _
  · rw [if_neg h32, if_neg h32, if_pos (by simp [hno.resolve_left h32])]
    exact chanHalt_halted h c _

/-- What a request of channel `c` leaves, after its registers changed and its channel was cleared. -/
theorem asked_eq (h : OnlyRegs s t) (f g : Chan → Chan) (x : Sent) :
    ((t.updChan c g).send x).updChan c f = { (s.updChan c g).updChan c f with regs := t.regs, sent := s.sent ++ [x] } := by
  obtain ⟨r, rfl⟩ : ∃ r, t = { s with regs := r } := ⟨t.regs, h⟩
  rfl

end Fetch

/-! GO, STOP and RESET (R307), and the configuration of a channel (R319). -/

section Commands

variable {s : State} {c : Nat}

theorem chanCmd_go_ignored (h : s.valid (Reg.DMA_CH_RES c) = true ∨ s.chanSt c ≠ 0) : chanCmd s c 1 = s.evt Reg.DMA_EVT F.DMA_EVT_CMD_IGNORED := by
  unfold chanCmd
  rw [if_neg (by decide)]
  split
  · rfl
  next hres => rw [if_neg (by simpa using h.resolve_left hres), if_neg (by simp), if_neg (by simp)]

theorem chanCmd_stop_ignored (h : s.valid (Reg.DMA_CH_RES c) = true ∨ s.chanSt c ≠ 1) : chanCmd s c 2 = s.evt Reg.DMA_EVT F.DMA_EVT_CMD_IGNORED := by
  unfold chanCmd
  rw [if_neg (by decide)]
  split
  · rfl
  next hres => rw [if_neg (by simp), if_neg (by simpa using h.resolve_left hres), if_neg (by simp)]

theorem chanCmd_reset_ignored (h : s.valid (Reg.DMA_CH_RES c) = true ∨ s.chanSt c ≠ 3) : chanCmd s c 3 = s.evt Reg.DMA_EVT F.DMA_EVT_CMD_IGNORED := by
  unfold chanCmd
  rw [if_neg (by decide)]
  split
  · rfl
  next hres => rw [if_neg (by simp), if_neg (by simp), if_neg (by simpa using h.resolve_left hres)]

/-- A channel that runs from here on, with no descriptor taken. -/
def goShown (s : State) (c : Nat) : State := (setChanSt s c 1).setFld (Reg.DMA_CH_STAT c) F.DMA_CH_STAT_HOPS 0

theorem goShown_spec (h : Tab.wf regReset s.regs = true) (c : Nat) :
    OnlyRegs s (goShown s c) ∧ Tab.wf regReset (goShown s c).regs = true ∧ (goShown s c).chanSt c = 1 ∧
      (goShown s c).fld (Reg.DMA_CH_STAT c) F.DMA_CH_STAT_HOPS = 0 ∧ ∀ b, b ≠ Reg.DMA_CH_STAT c → (goShown s c).rd b = s.rd b := by
  have hset := setFld_wf h (Reg.DMA_CH_STAT c) F.DMA_CH_STAT_STATE 1
  exact ⟨((OnlyRegs.refl s).setFld _ _ _).setFld _ _ _, setFld_wf hset _ _ _,
    (fld_setFld_beside hset (by decide) (by decide)).trans (State.fld_setFld h _ F.DMA_CH_STAT_STATE 1 (by decide)),
    State.fld_setFld hset _ F.DMA_CH_STAT_HOPS 0 (by decide), fun b hb => (rd_setFld_other hset hb).trans (rd_setFld_other h hb)⟩

variable (hres : s.valid (Reg.DMA_CH_RES c) = false)
include hres

theorem chanCmd_go (hst : s.chanSt c = 0) :
    chanCmd s c 1 = chanFetch ((goShown s c).updChan c Chan.clear) c ((goShown s c).rdPair (Reg.DMA_CH_HEAD_LO c)) := by
  unfold chanCmd
  rw [if_neg (by decide), if_neg (ne_true_of_eq_false hres), if_pos (by simp [hst])]
  rfl

theorem chanCmd_stop (hst : s.chanSt c = 1) : chanCmd s c 2 = setChanSt s c 4 := by
  unfold chanCmd
  rw [if_neg (by decide), if_neg (ne_true_of_eq_false hres), if_neg (by simp), if_pos (by simp [hst])]

theorem chanCmd_reset (hst : s.chanSt c = 3) :
    chanCmd s c 3 = ((setChanSt s c 0).setFld (Reg.DMA_CH_STAT c) F.DMA_CH_STAT_QUEUE 0).updChan c Chan.clear := by
  unfold chanCmd
  rw [if_neg (by decide), if_neg (ne_true_of_eq_false hres), if_neg (by simp), if_neg (by simp), if_pos (by simp [hst])]

end Commands

section Configuration

variable {s : State} {c reg : Nat} {d : Word}

theorem chanConfigWrite_other (h : reg ∉ [0x04, 0x08, 0x10, 0x14, 0x2C, 0x30, 0x34]) : chanConfigWrite s c reg d = s :=
  if_pos (by simpa [chanConfig] using h)

theorem chanConfigWrite_config (h : reg ∈ [0x04, 0x08, 0x10, 0x14, 0x2C, 0x30, 0x34]) : chanConfigWrite s c reg d =
    if s.chanSt c = 1 || s.chanSt c = 4 then s.evt Reg.DMA_EVT F.DMA_EVT_CFG_IGNORED else regWrite s (Reg.DMA_CH_STAT c + reg) d :=
  if_neg (by rw [show chanConfig.contains reg = true from List.contains_iff_mem.mpr h]; decide)

end Configuration

/-- The head and the host window of a channel are the same once it runs. -/
theorem goShown_head {s : State} (h : Tab.wf regReset s.regs = true) (c : Nat) :
    (goShown s c).rdPair (Reg.DMA_CH_HEAD_LO c) = s.rdPair (Reg.DMA_CH_HEAD_LO c) ∧
      ∀ a n, ((goShown s c).updChan c Chan.clear).inHwin c a n = s.inHwin c a n := by
  obtain ⟨_, _, _, _, hother⟩ := goShown_spec h c
  have hrd : ∀ k, 0 < k → (goShown s c).rd (Reg.DMA_CH_STAT c + k) = s.rd (Reg.DMA_CH_STAT c + k) := fun k hk => hother _ (by omega)
  have hat : ∀ k a, 0 < k → a = Reg.DMA_CH_STAT c + k → (goShown s c).rd a = s.rd a := fun k a hk ha => ha ▸ hrd k hk
  refine ⟨?_, fun a n => inHwin_congr ?_ ?_ ?_ a n⟩
  · rw [State.rdPair, State.rdPair, hat 0x10 (Reg.DMA_CH_HEAD_LO c) (by decide) (by unfold Reg.DMA_CH_HEAD_LO Reg.DMA_CH_STAT; omega),
      hat 0x14 (Reg.DMA_CH_HEAD_LO c + 4) (by decide) (by unfold Reg.DMA_CH_HEAD_LO Reg.DMA_CH_STAT; omega)]
  all_goals rw [rd_updChan]
  · exact hat 0x2C _ (by decide) (by unfold Reg.DMA_CH_HWIN_LO Reg.DMA_CH_STAT; omega)
  · exact hat 0x30 _ (by decide) (by unfold Reg.DMA_CH_HWIN_LO Reg.DMA_CH_STAT; omega)
  · exact hat 0x34 _ (by decide) (by unfold Reg.DMA_CH_HWIN_LEN Reg.DMA_CH_STAT; omega)

section Go

variable {s : State} {c : Nat} (hwf : Tab.wf regReset s.regs = true) (hres : s.valid (Reg.DMA_CH_RES c) = false) (hst : s.chanSt c = 0)
include hwf hres hst

/-- GO of a channel whose head is good asks for its first descriptor. -/
theorem chanCmd_go_asks (h32 : s.rdPair (Reg.DMA_CH_HEAD_LO c) % 32 = 0) (hwin : s.inHwin c (s.rdPair (Reg.DMA_CH_HEAD_LO c)) 32 = true) :
    chanCmd s c 1 = { (s.updChan c Chan.clear).updChan c (fun x => { x with fetching := some (s.rdPair (Reg.DMA_CH_HEAD_LO c), s.now) }) with
      regs := (goShown s c).regs, sent := s.sent ++ [.hostRead c (s.rdPair (Reg.DMA_CH_HEAD_LO c)) 32] } := by
  obtain ⟨honly, _⟩ := goShown_spec hwf c
  obtain ⟨hhead, hwindow⟩ := goShown_head hwf c
  have hnow : ((goShown s c).updChan c Chan.clear).now = s.now := (honly.onlyChans.updChan c _).now_eq
  rw [chanCmd_go hres hst, hhead, chanFetch_asks h32 ((hwindow _ _).trans hwin), hnow]
  exact asked_eq honly _ _ _

/-- GO of a channel whose head is misaligned, or outside the host window, halts it. -/
theorem chanCmd_go_halts (hno : s.rdPair (Reg.DMA_CH_HEAD_LO c) % 32 ≠ 0 ∨ s.inHwin c (s.rdPair (Reg.DMA_CH_HEAD_LO c)) 32 = false) :
    Halted s (chanCmd s c 1) c (if s.rdPair (Reg.DMA_CH_HEAD_LO c) % 32 ≠ 0 then 0x20 else 0x21) := by
  obtain ⟨honly, hset, _⟩ := goShown_spec hwf c
  obtain ⟨hhead, hwindow⟩ := goShown_head hwf c
  rw [chanCmd_go hres hst, hhead]
  have hhalt := chanFetch_halts (updChan_wf hset c Chan.clear) (hno.imp_right fun h => (hwindow _ _).trans h)
  exact .of_onlyChans (honly.onlyChans.updChan c _) ((updChan_sent _ c _).trans honly.sent_eq) hhalt

end Go

/-- Settles O58, by the state of the channel that each clause names. -/
theorem dmaChannelCommands : Obligations.DmaChannelCommands := by
  refine ⟨fun c s hc hs => ⟨fun h => ?go, fun h => ?stop, fun h => ?reset, fun hres => ⟨fun hst => ?stops, fun hst => ?resets, fun hst hwf => ?goes⟩⟩,
    fun c reg d s hc hreg hs => ⟨fun h => ?other, fun h => ⟨fun hst => ?locked, fun h1 h4 => ?written⟩⟩⟩
  case go => exact exec_eq_next (decide_eq_true hc) rfl ((if_pos hs).trans (chanCmd_go_ignored h))
  case stop => exact exec_eq_next (decide_eq_true hc) rfl ((if_pos hs).trans (chanCmd_stop_ignored h))
  case reset => exact exec_eq_next (decide_eq_true hc) rfl ((if_pos hs).trans (chanCmd_reset_ignored h))
  case stops => exact exec_eq_next (decide_eq_true hc) rfl ((if_pos hs).trans (chanCmd_stop hres hst))
  case resets => exact exec_eq_next (decide_eq_true hc) rfl ((if_pos hs).trans (chanCmd_reset hres hst))
  case goes =>
    refine ⟨chanCmd s c 1, exec_eq_next (decide_eq_true hc) rfl (if_pos hs), fun h32 hwin => ?asks, fun hno => ?halts⟩
    case asks =>
      obtain ⟨_, _, hrun, hhops, hother⟩ := goShown_spec hwf c
      rw [chanCmd_go_asks hwf hres hst h32 hwin]
      exact ⟨rfl, hrun, hhops, hother⟩
    case halts =>
      have hhalt := chanCmd_go_halts hwf hres hst hno
      refine ⟨hhalt.state, hhalt.event, hhalt.result, hhalt.code.trans ?_, hhalt.only⟩
      split <;> rfl
  case other => exact exec_eq_next (by simp [Instr.wf, hc, hreg]) rfl ((if_pos hs).trans (chanConfigWrite_other h))
  case locked =>
    exact exec_eq_next (by simp [Instr.wf, hc, hreg]) rfl ((if_pos hs).trans ((chanConfigWrite_config h).trans (if_pos (by simpa using hst))))
  case written =>
    exact exec_eq_next (by simp [Instr.wf, hc, hreg]) rfl ((if_pos hs).trans ((chanConfigWrite_config h).trans (if_neg (by simp [h1, h4]))))

end Sys2Proof.Machine

namespace Sys2Proof.Machine

/-! Counting leaves the registers below the performance monitor (R266). -/

/-- `t` reads what `s` reads in the registers below the performance monitor. -/
structure SameLowRegs (s t : State) : Prop where
  wf : Tab.wf regReset t.regs = true
  rd : ∀ a, a < 0x900000 → t.rd a = s.rd a

section LowRegs

variable {s t : State}

theorem SameLowRegs.incPair (h : SameLowRegs s t) {lo wrapReg bit : Nat} (n : Nat) (hlo : 0x900000 ≤ lo) (hwrap : 0x900000 ≤ wrapReg) :
    SameLowRegs s (t.incPair lo wrapReg bit n) := by
  have hpair : SameLowRegs s (t.wrPair lo (t.rdPair lo + n)) :=
    ⟨wrPair_wf h.wf _ _, fun a ha => (rd_wrPair_other h.wf _ (by omega) (by omega)).trans (h.rd a ha)⟩
  unfold State.incPair
  dsimp only
  split
  · exact ⟨mapBit_wf hpair.wf _ _, fun a ha => (rd_mapBit_other hpair.wf (by omega)).trans (hpair.rd a ha)⟩
  · exact hpair

theorem SameLowRegs.foldl {β : Type} {op : State → β → State} {l : List β} (ht : SameLowRegs s t)
    (hop : ∀ u b, SameLowRegs s u → SameLowRegs s (op u b)) : SameLowRegs s (l.foldl op t) := by
  induction l generalizing t with
  | nil => exact ht
  | cons b l ih => exact ih (hop t b ht)

theorem SameLowRegs.ite {u : State} {c : Prop} [Decidable c] (ht : SameLowRegs s t) (hu : SameLowRegs s u) : SameLowRegs s (if c then t else u) := by
  split
  · exact ht
  · exact hu

theorem SameLowRegs.count (h : Tab.wf regReset s.regs = true) (ev u n : Nat) : SameLowRegs s (s.count ev u n) := by
  have hs : SameLowRegs s s := ⟨h, fun _ _ => rfl⟩
  unfold State.count State.countIf
  refine hs.ite ((hs.foldl fun v kw hv => ?_).foldl fun v kw hv => ?_)
  · exact (hv.incPair n (by unfold Reg.PMON_CNT_LO; omega) (by unfold Reg.PMON_WRAP; omega)).ite hv
  · exact (hv.incPair n (by unfold Reg.PMON_LAST_LO; omega) (by unfold Reg.PMON_WRAP; omega)).ite hv

end LowRegs

/-! A descriptor that arrives (R309). -/

section Arrival

variable {s : State} {c : Nat} {b : List Byte} {x : Nat × Nat}

theorem chan_updChan {f : Chan → Chan} (h : f (s.chan c) ≠ {}) : (s.updChan c f).chan c = f (s.chan c) := tabGet_tabUpd_self h

theorem chanAsk_cases (s : State) (c : Nat) :
    chanAsk s c = s ∨ ∃ x r, chanAsk s c = (s.send x).updChan c fun y => { y with reads := y.reads ++ [r] } := by
  unfold chanAsk
  dsimp only
  cases (s.chan c).desc with
  | none => exact .inl rfl
  | some d =>
    dsimp only
    split
    · exact .inr ⟨_, _, rfl⟩
    · exact .inl rfl

/-- Asking for host bytes sends a read and notes it, and nothing else of the channel changes. -/
theorem chanAsk_spec (s : State) (c : Nat) :
    chanAsk s c = { s with chans := (chanAsk s c).chans, sent := (chanAsk s c).sent } ∧
      ∃ l, (chanAsk s c).chan c = { s.chan c with reads := (s.chan c).reads ++ l } := by
  rcases chanAsk_cases s c with h | ⟨x, r, h⟩
  · rw [h]
    exact ⟨rfl, [], by rw [List.append_nil]⟩
  · rw [h]
    exact ⟨rfl, [r], chan_updChan fun h => by simpa using congrArg Chan.reads h⟩

/-- The registers of a channel whose descriptor has arrived. -/
def takenShown (s : State) (c : Nat) (x : Nat × Nat) (d : Desc) : State :=
  let st := Reg.DMA_CH_STAT c
  let s := s.wrPair (Reg.DMA_CH_CUR_LO c) x.1
  let s := s.setFld st F.DMA_CH_STAT_HOPS (s.fld st F.DMA_CH_STAT_HOPS + 1)
  s.setFld st F.DMA_CH_STAT_QUEUE (if 3 ≤ d.op then d.queue else 0)

/-- The channel that has taken a descriptor, with the code its checks gave. -/
def Chan.take (y : Chan) (d : Desc) (code : Option Nat) : Chan := { y with desc := some d, moved := 0, buf := [], code := code, ranOut := false }

theorem descFetch_taken (h : (s.chan c).fetching = some x) :
    descFetch s c b false =
      let d := readDesc x.1 b
      let t := takenShown (s.updChan c fun y => { y with fetching := none }) c x d
      chanAsk (t.updChan c (·.take d (t.descFault c b d))) c := by
  unfold descFetch
  rw [h]
  rfl

theorem takenShown_spec (h : Tab.wf regReset s.regs = true) (c : Nat) (x : Nat × Nat) (d : Desc) :
    OnlyRegs s (takenShown s c x d) ∧ (takenShown s c x d).rdPair (Reg.DMA_CH_CUR_LO c) = x.1 % 2 ^ 64 ∧
      (takenShown s c x d).fld (Reg.DMA_CH_STAT c) F.DMA_CH_STAT_HOPS = (s.fld (Reg.DMA_CH_STAT c) F.DMA_CH_STAT_HOPS + 1) % 65536 := by
  have hmod : s.wrPair (Reg.DMA_CH_CUR_LO c) x.1 = s.wrPair (Reg.DMA_CH_CUR_LO c) (x.1 % 2 ^ 64) := by
    unfold State.wrPair
    rw [show x.1 % 2 ^ 64 % 4294967296 = x.1 % 4294967296 by omega,
      show x.1 % 2 ^ 64 / 4294967296 % 4294967296 = x.1 / 4294967296 % 4294967296 by omega]
  have hcur : (s.wrPair (Reg.DMA_CH_CUR_LO c) x.1).rdPair (Reg.DMA_CH_CUR_LO c) = x.1 % 2 ^ 64 := by
    rw [hmod, rdPair_wrPair h _ (by omega)]
  have hstat : (s.wrPair (Reg.DMA_CH_CUR_LO c) x.1).rd (Reg.DMA_CH_STAT c) = s.rd (Reg.DMA_CH_STAT c) :=
    rd_wrPair_other h _ (by unfold Reg.DMA_CH_STAT Reg.DMA_CH_CUR_LO; omega) (by unfold Reg.DMA_CH_STAT Reg.DMA_CH_CUR_LO; omega)
  have honly := (OnlyRegs.refl s).wrPair (Reg.DMA_CH_CUR_LO c) x.1
  have hwf := wrPair_wf h (Reg.DMA_CH_CUR_LO c) x.1
  unfold takenShown
  dsimp only
  generalize s.wrPair (Reg.DMA_CH_CUR_LO c) x.1 = u at hcur hstat honly hwf ⊢
  rw [fld_of_rd_eq hstat]
  have hset := setFld_wf hwf (Reg.DMA_CH_STAT c) F.DMA_CH_STAT_HOPS (s.fld (Reg.DMA_CH_STAT c) F.DMA_CH_STAT_HOPS + 1)
  refine ⟨(honly.setFld _ _ _).setFld _ _ _, ?_, ?_⟩
  · have hrd : ∀ a, a ≠ Reg.DMA_CH_STAT c → _ = u.rd a := fun a ha =>
      (rd_setFld_other hset ha (f := F.DMA_CH_STAT_QUEUE) (x := if 3 ≤ d.op then d.queue else 0)).trans (rd_setFld_other hwf ha)
    rw [← hcur, State.rdPair, State.rdPair, hrd _ (by unfold Reg.DMA_CH_STAT Reg.DMA_CH_CUR_LO; omega),
      hrd _ (by unfold Reg.DMA_CH_STAT Reg.DMA_CH_CUR_LO; omega)]
  · exact (fld_setFld_beside hset (by decide) (by decide)).trans (State.fld_setFld hwf _ F.DMA_CH_STAT_HOPS _ (by decide))

/-- The checks of a descriptor look at neither the channels nor what was sent. -/
theorem descFault_congr (s : State) (c : Nat) (b : List Byte) (d : Desc) (l : List (Nat × Chan)) (m : List Sent) :
    ({ s with chans := l, sent := m } : State).descFault c b d = s.descFault c b d := rfl

theorem descFetch_none (h : (s.chan c).fetching = none) (b : List Byte) (e : Bool) : descFetch s c b e = s := by
  unfold descFetch
  rw [h]

theorem descFetch_fails (h : (s.chan c).fetching = some x) (b : List Byte) :
    descFetch s c b true = chanHalt (s.updChan c fun y => { y with fetching := none }) c 0x25 := by
  unfold descFetch
  rw [h]
  rfl

/-- What has arrived: the registers that `v` shows, the channel of `v` after `g`, and a read that may have been asked for. -/
structure Arrived (s v t : State) (c : Nat) (d : Desc) (code : Option Nat) : Prop where
  frame : t = { s with regs := t.regs, chans := t.chans, sent := t.sent }
  regs : t.regs = v.regs
  chan : ∃ l, t.chan c = { (v.chan c).take d code with reads := (v.chan c).reads ++ l }
  checks : ∀ b e, ({ t with chans := s.chans } : State).descFault c b e = v.descFault c b e

theorem arrived_of_taken {v : State} {f : Chan → Chan} (hv : OnlyRegs (s.updChan c f) v) (d : Desc) (code : Option Nat) :
    Arrived s v (chanAsk (v.updChan c (·.take d code)) c) c d code := by
  obtain ⟨hask, l, hchan⟩ := chanAsk_spec (v.updChan c (·.take d code)) c
  generalize chanAsk (v.updChan c (·.take d code)) c = t at hask hchan ⊢
  have hregs : t.regs = v.regs := (congrArg State.regs hask).trans rfl
  have htake : (v.updChan c (·.take d code)).chan c = (v.chan c).take d code :=
    chan_updChan fun h => by simpa [Chan.take] using congrArg Chan.desc h
  refine ⟨?_, hregs, ⟨l, hchan.trans (by rw [htake]; rfl)⟩, fun b e => ?_⟩
  · obtain ⟨r, rfl⟩ : ∃ r, v = { s.updChan c f with regs := r } := ⟨_, hv⟩
    rw [hask]
    rfl
  · rw [hask]
    exact descFault_congr v c b e _ _

theorem OnlyRegs.chan_eq {t : State} (h : OnlyRegs s t) (c : Nat) : t.chan c = s.chan c := (congrArg (State.chan · c) h).trans rfl

theorem rdPair_of_regs {t : State} (h : t.regs = s.regs) (a : Nat) : t.rdPair a = s.rdPair a := by
  unfold State.rdPair State.rd
  rw [h]

theorem rd_of_regs {t : State} (h : t.regs = s.regs) (a : Nat) : t.rd a = s.rd a := congrArg (fun m => (Tab.get regReset m a).toNat) h

/-- A descriptor that has arrived is taken, with the code of its checks. -/
theorem descFetch_arrives (hx : (s.chan c).fetching = some x) (hwf : Tab.wf regReset s.regs = true)
    (hchans : Tab.wf (fun _ => ({} : Chan)) s.chans = true) :
    let t := descFetch s c b false
    t = { s with regs := t.regs, chans := t.chans, sent := t.sent } ∧ t.rdPair (Reg.DMA_CH_CUR_LO c) = x.1 % 2 ^ 64 ∧
      t.fld (Reg.DMA_CH_STAT c) F.DMA_CH_STAT_HOPS = (s.fld (Reg.DMA_CH_STAT c) F.DMA_CH_STAT_HOPS + 1) % 65536 ∧
      (t.chan c).fetching = none ∧ (t.chan c).desc = some (readDesc x.1 b) ∧ (t.chan c).moved = 0 ∧ (t.chan c).buf = [] ∧
      (t.chan c).code = ({ t with chans := s.chans } : State).descFault c b (readDesc x.1 b) := by
  intro t
  let d := readDesc x.1 b
  have hfetched : ((s.updChan c fun y => { y with fetching := none }).chan c).fetching = none :=
    congrArg Chan.fetching (tabGet_tabUpd hchans c fun y => { y with fetching := none })
  obtain ⟨honly, hcur, hhops⟩ := takenShown_spec (s := s.updChan c fun y => { y with fetching := none }) hwf c x d
  have ht : t = chanAsk ((takenShown (s.updChan c fun y => { y with fetching := none }) c x d).updChan c
    (·.take d ((takenShown (s.updChan c fun y => { y with fetching := none }) c x d).descFault c b d))) c := descFetch_taken hx
  rw [← honly.chan_eq c] at hfetched
  have harrived := arrived_of_taken honly d ((takenShown (s.updChan c fun y => { y with fetching := none }) c x d).descFault c b d)
  rw [← ht] at harrived
  generalize takenShown (s.updChan c fun y => { y with fetching := none }) c x d = v at honly hcur hhops hfetched harrived
  obtain ⟨hframe, hregs, ⟨l, hchan⟩, hchecks⟩ := harrived
  refine ⟨hframe, (rdPair_of_regs hregs _).trans hcur, (fld_of_rd_eq (rd_of_regs hregs _)).trans hhops, ?_, ?_, ?_, ?_, ?_⟩
  · rw [hchan]
    exact hfetched
  · rw [hchan]
    rfl
  · rw [hchan]
    rfl
  · rw [hchan]
    rfl
  · rw [hchecks, hchan]
    rfl

end Arrival

/-! The end of a descriptor (R310, R311). -/

section DescriptorEnd

variable {s t : State} {c code : Nat} {d : Desc}

/-- The status of descriptor `d`, which channel `c` writes back; a code other than OK is counted. -/
def statusSent (s : State) (c code : Nat) (d : Desc) : State :=
  let s := s.send (.hostWrite (d.at_ + 28) (byte code :: leBytes (s.chan c).moved 3))
  if code = cOK then s else s.count 0xA2 c 1

/-- What the status leaves: everything but what was sent and the counters. -/
structure StatusSent (s t : State) (c code : Nat) (d : Desc) : Prop where
  only : OnlyChans s t
  low : SameLowRegs s t
  chans : t.chans = s.chans
  sent : t.sent = s.sent ++ [.hostWrite (d.at_ + 28) (byte code :: leBytes (s.chan c).moved 3)]

theorem statusSent_spec (h : Tab.wf regReset s.regs = true) (c code : Nat) (d : Desc) : StatusSent s (statusSent s c code d) c code d := by
  unfold statusSent
  extract_lets u
  have hu : OnlyChans s u := (OnlyChans.refl s).send _
  split
  · exact ⟨hu, ⟨h, fun _ _ => rfl⟩, rfl, rfl⟩
  · have hcount : OnlyRegs u (u.count 0xA2 c 1) := (OnlyRegs.refl u).count _ _ _
    obtain ⟨hwf, hlow⟩ := SameLowRegs.count (s := u) h 0xA2 c 1
    exact ⟨hu.trans hcount.onlyChans, ⟨hwf, hlow⟩, (congrArg State.chans hcount).trans rfl, hcount.sent_eq⟩

theorem StatusSent.chanSt (h : StatusSent s t c code d) (hc : c < 64) : t.chanSt c = s.chanSt c :=
  fld_of_rd_eq (h.low.rd _ (by unfold Reg.DMA_CH_STAT; omega))

theorem StatusSent.inHwin (h : StatusSent s t c code d) (hc : c < 64) (a n : Nat) : t.inHwin c a n = s.inHwin c a n :=
  inHwin_congr (h.low.rd _ (by unfold Reg.DMA_CH_HWIN_LO; omega)) (h.low.rd _ (by unfold Reg.DMA_CH_HWIN_LO; omega))
    (h.low.rd _ (by unfold Reg.DMA_CH_HWIN_LEN; omega)) a n

/-- A descriptor's message, where it asks for one. -/
def irqSent (s : State) (c : Nat) (d : Desc) : State := if d.irq then s.msi c else s

/-- The chain goes on with the next descriptor. -/
def chainNext (s : State) (c : Nat) (d : Desc) : State := chanFetch ((irqSent s c d).updChan c Chan.clear) c d.next

theorem descEnd_eq (hc : c < 64) (hwf : Tab.wf regReset s.regs = true) (hd : (s.chan c).desc = some d) (hdue : s.descDue c = some code) :
    descEnd s c =
      let t := statusSent s c code d
      if code ≠ 0 ∧ code ≠ 0x24 then chanHalt t c code
      else if s.chanSt c = 4 ∨ d.next = 0 then chanEnd t c
      else if max 1 (s.fld (Reg.DMA_CH_CFG c) F.DMA_CH_CFG_HOP_LIMIT) ≤ s.fld (Reg.DMA_CH_STAT c) F.DMA_CH_STAT_HOPS then chanHalt t c 0x23
      else chainNext t c d := by
  have hsent := statusSent_spec hwf c code d
  have hst := hsent.chanSt hc
  have hhops : (statusSent s c code d).fld (Reg.DMA_CH_STAT c) F.DMA_CH_STAT_HOPS = s.fld (Reg.DMA_CH_STAT c) F.DMA_CH_STAT_HOPS :=
    fld_of_rd_eq (hsent.low.rd _ (by unfold Reg.DMA_CH_STAT; omega))
  have hlimit : (statusSent s c code d).fld (Reg.DMA_CH_CFG c) F.DMA_CH_CFG_HOP_LIMIT = s.fld (Reg.DMA_CH_CFG c) F.DMA_CH_CFG_HOP_LIMIT :=
    fld_of_rd_eq (hsent.low.rd _ (by unfold Reg.DMA_CH_CFG; omega))
  rw [← hst, ← hhops, ← hlimit]
  unfold descEnd
  dsimp only
  rw [hd, hdue]
  simp only [Bool.and_eq_true, Bool.or_eq_true, decide_eq_true_eq]
  rfl

theorem descEnd_idle (h : s.descDue c = none) : descEnd s c = s := by
  unfold descEnd
  dsimp only
  rw [h]
  cases (s.chan c).desc with
  | none => rfl
  | some d => rfl

theorem irqSent_spec (s : State) (c : Nat) (d : Desc) :
    OnlyChans s (irqSent s c d) ∧ (irqSent s c d).regs = s.regs ∧ s.sent <+: (irqSent s c d).sent := by
  unfold irqSent
  split
  · exact ⟨msi_onlyChans s c, msi_regs s c, sent_msi s c⟩
  · exact ⟨.refl s, rfl, List.prefix_refl _⟩

theorem inHwin_of_regs (h : t.regs = s.regs) (c a n : Nat) : t.inHwin c a n = s.inHwin c a n := by
  unfold State.inHwin State.rdPair State.rd
  rw [h]

theorem updChan_regs (s : State) (c : Nat) (f : Chan → Chan) : (s.updChan c f).regs = s.regs := rfl

/-- A fetch that is asked for is the last thing sent, and is noted. -/
theorem asked_spec (s : State) (c : Nat) (x : Sent) (f : Nat × Nat) :
    let t := (s.send x).updChan c fun y => { y with fetching := some f }
    t.regs = s.regs ∧ [x] <:+ t.sent ∧ (t.chan c).fetching = some f := by
  refine ⟨rfl, List.suffix_append _ _, ?_⟩
  rw [chan_updChan fun h => by simpa using congrArg Chan.fetching h]

/-- The chain that goes on asks for the next descriptor at the end. -/
theorem chainNext_asks (hnext : d.next % 32 = 0) (hwin : s.inHwin c d.next 32 = true) :
    (chainNext s c d).regs = s.regs ∧ [Sent.hostRead c d.next 32] <:+ (chainNext s c d).sent ∧
      ((chainNext s c d).chan c).fetching = some (d.next, s.now) := by
  obtain ⟨honly, hregs, _⟩ := irqSent_spec s c d
  have hnow := (honly.updChan c Chan.clear).now_eq
  have hkept : ((irqSent s c d).updChan c Chan.clear).regs = s.regs := (updChan_regs _ c _).trans hregs
  unfold chainNext
  generalize (irqSent s c d).updChan c Chan.clear = u at hkept hnow ⊢
  rw [chanFetch_asks hnext ((inHwin_of_regs hkept c _ _).trans hwin), hnow]
  obtain ⟨hsame, hlast, hfetch⟩ := asked_spec u c (.hostRead c d.next 32) (d.next, s.now)
  exact ⟨hsame.trans hkept, hlast, hfetch⟩

theorem chainNext_only (h : Tab.wf regReset s.regs = true) : OnlyChans s (chainNext s c d) ∧ s.sent <+: (chainNext s c d).sent := by
  obtain ⟨honly, hregs, hsent⟩ := irqSent_spec s c d
  have hwf : Tab.wf regReset ((irqSent s c d).updChan c Chan.clear).regs = true := by rw [updChan_regs, hregs, h]
  have hframe := honly.updChan c Chan.clear
  by_cases hgood : d.next % 32 = 0 ∧ (irqSent s c d).inHwin c d.next 32 = true
  · have hasks := chanFetch_asks (s := (irqSent s c d).updChan c Chan.clear) hgood.1 hgood.2
    unfold chainNext
    rw [hasks]
    exact ⟨(hframe.send _).updChan c _, hsent.trans (List.prefix_append _ _)⟩
  · have hbad : d.next % 32 ≠ 0 ∨ ((irqSent s c d).updChan c Chan.clear).inHwin c d.next 32 = false := by
      rw [inHwin_of_regs (updChan_regs _ c _)]
      by_cases h32 : d.next % 32 = 0
      · exact .inr (Bool.eq_false_of_not_eq_true fun hwin => hgood ⟨h32, hwin⟩)
      · exact .inl h32
    have hhalt := chanFetch_halts hwf hbad
    exact ⟨hframe.trans hhalt.only, hsent.trans hhalt.sent⟩

/-- However a descriptor ends, its status is sent first, and only the channels' part of the state changes. -/
theorem descEnd_only (hc : c < 64) (hwf : Tab.wf regReset s.regs = true) (hd : (s.chan c).desc = some d) (hdue : s.descDue c = some code) :
    OnlyChans s (descEnd s c) ∧ (statusSent s c code d).sent <+: (descEnd s c).sent := by
  have hstatus := statusSent_spec hwf c code d
  rw [descEnd_eq hc hwf hd hdue]
  dsimp only
  generalize statusSent s c code d = t at hstatus ⊢
  split
  · have hhalt := chanHalt_halted hstatus.low.wf c code
    exact ⟨hstatus.only.trans hhalt.only, hhalt.sent⟩
  · split
    · obtain ⟨honly, _, _, _, hsent⟩ := chanEnd_spec hstatus.low.wf c
      exact ⟨hstatus.only.trans honly, hsent⟩
    · split
      · have hhalt := chanHalt_halted hstatus.low.wf c 0x23
        exact ⟨hstatus.only.trans hhalt.only, hhalt.sent⟩
      · obtain ⟨honly, hsent⟩ := chainNext_only (c := c) (d := d) hstatus.low.wf
        exact ⟨hstatus.only.trans honly, hsent⟩

end DescriptorEnd

/-! Late answers and completions (R311). -/

section Completions

variable {s : State} {c : Nat}

theorem targetTimeout_fetching {x : Nat × Nat} (h : (s.chan c).fetching = some x) : targetTimeout s c =
    if x.2 + max 1600 (s.rd (Reg.DMA_CH_TMO c)) ≤ s.now then chanHalt (s.updChan c fun y => { y with fetching := none }) c 0x22 else s := by
  unfold targetTimeout
  dsimp only
  rw [h]
  simp only [decide_eq_true_eq]
  rfl

theorem targetTimeout_reading (h : (s.chan c).fetching = none) (hcode : (s.chan c).code = none) : targetTimeout s c =
    if ∃ r ∈ (s.chan c).reads, r.live = true ∧ r.at_ + max 1600 (s.rd (Reg.DMA_CH_TMO c)) ≤ s.now then
      s.updChan c fun y => { y with code := some 0x22 } else s := by
  unfold targetTimeout
  dsimp only
  rw [h, hcode]
  simp only [Option.isNone_none, Bool.true_and, List.any_eq_true, Bool.and_eq_true, decide_eq_true_eq]
  rfl

theorem hostReadDone_none (h : (s.chan c).reads = []) (b : List Byte) (e : Bool) : hostReadDone s c b e = s := by
  unfold hostReadDone
  rw [h]

variable {r : HostRd} {rest : List HostRd} (h : (s.chan c).reads = r :: rest)
include h

theorem hostReadDone_error (b : List Byte) : hostReadDone s c b true = s.updChan c fun x =>
    { x with reads := rest, code := if r.live = true ∧ x.code = none then some 0x25 else x.code } := by
  have hcode : ∀ x : Chan, (if r.live && x.code.isNone then some dTarget else x.code) = if r.live = true ∧ x.code = none then some 0x25 else x.code :=
    fun x => if_congr (by simp) rfl rfl
  unfold hostReadDone
  rw [h]
  dsimp only
  rw [if_pos rfl]
  exact congrArg (s.updChan c) (funext fun x => by rw [hcode])

/-- Bytes of the oldest read go to the buffer when they are wanted. -/
theorem hostReadDone_bytes {b : List Byte} (hb : b.length ≤ r.left) : hostReadDone s c b false = s.updChan c fun x =>
    { x with reads := if b.length = r.left then rest else { r with left := r.left - b.length } :: rest,
             buf := x.buf ++ if r.live = true then b else [] } := by
  have hbuf : ∀ x : Chan, (if r.live then x.buf ++ b else x.buf) = x.buf ++ if r.live = true then b else [] := by
    intro x
    cases r.live
    · exact (List.append_nil _).symm
    · rfl
  unfold hostReadDone
  rw [h]
  dsimp only
  rw [if_neg (by decide), Nat.min_eq_left hb, List.take_length]
  exact congrArg (s.updChan c) (funext fun x => by rw [hbuf])

end Completions

/-- Settles O59, by what a descriptor, its end, a late answer and a completion each make of the channel. -/
theorem dmaDescriptors : Obligations.DmaDescriptors := by
  have hin : ∀ (c : Nat) (b : List Byte) (e : Bool), c < 64 → (e = true ∨ b.length = 32) → (Instr.descriptorFetch c b e).wf = true :=
    fun c b e hc hb => by simpa [Instr.wf, hc] using hb
  refine ⟨fun c b e s hc hb => ⟨fun hnone => ?idle, fun x hx hwf hchans => ⟨fun he => ?fails, fun he => ?taken⟩⟩,
    fun c s hc => ⟨fun hdue => ?notDue, fun d code hd hdue hlt hwf => ?ends⟩,
    fun c s hc => ⟨fun x hx => ⟨fun hlate => ?fetchLate, fun hearly => ?fetchEarly⟩, fun hnone hcode => ⟨fun hlate => ?readLate, fun hearly => ?readEarly⟩⟩,
    fun c b s hc => ⟨fun hnone e => ?unasked, fun r rest hr => ⟨?error, fun hall => ?last, fun hpart => ?part⟩⟩⟩
  case idle => exact exec_eq_next (hin c b e hc hb) rfl (descFetch_none hnone b e)
  case fails =>
    subst he
    exact exec_eq_next (hin c b true hc hb) rfl (descFetch_fails hx b)
  case taken =>
    subst he
    exact ⟨_, exec_eq_next (hin c b false hc hb) rfl rfl, descFetch_arrives hx hwf hchans⟩
  case notDue => exact exec_eq_next (decide_eq_true hc) rfl (descEnd_idle hdue)
  case ends =>
    obtain ⟨honly, hfirst⟩ := descEnd_only hc hwf hd hdue
    have hstatus := statusSent_spec hwf c code d
    have heq := descEnd_eq hc hwf hd hdue
    rw [hstatus.sent] at hfirst
    refine ⟨descEnd s c, exec_eq_next (decide_eq_true hc) rfl rfl, hfirst, honly, fun h0 hoff => ?halts, fun hgood => ⟨fun hstop => ?done,
      fun hst hnext => ⟨fun hlimit => ?limit, fun hhops h32 hwin => ?next⟩⟩⟩
    all_goals
      dsimp only at heq
      generalize statusSent s c code d = t at heq hstatus
    case halts =>
      rw [if_pos ⟨h0, hoff⟩] at heq
      have hhalt := chanHalt_halted hstatus.low.wf c code
      rw [heq]
      exact ⟨hhalt.state, hhalt.result, hhalt.code.trans (Nat.mod_eq_of_lt hlt), hhalt.event⟩
    case done =>
      rw [if_neg (by omega), if_pos hstop] at heq
      obtain ⟨_, hst, hres, hcode, _⟩ := chanEnd_spec hstatus.low.wf c
      rw [heq]
      exact ⟨hst, hres, hcode⟩
    case limit =>
      rw [if_neg (by omega), if_neg (by omega), if_pos hlimit] at heq
      have hhalt := chanHalt_halted hstatus.low.wf c 0x23
      rw [heq]
      exact ⟨hhalt.state, hhalt.result, hhalt.code⟩
    case next =>
      rw [if_neg (by omega), if_neg (by omega), if_neg (by omega)] at heq
      obtain ⟨hregs, hlast, hfetch⟩ := chainNext_asks h32 ((hstatus.inHwin hc _ _).trans hwin)
      rw [heq]
      exact ⟨(fld_of_rd_eq (rd_of_regs hregs _)).trans (hstatus.chanSt hc), hlast, fun _ => hfetch.trans (by rw [hstatus.only.now_eq])⟩
  case fetchLate => exact exec_eq_next (decide_eq_true hc) rfl ((targetTimeout_fetching hx).trans (if_pos hlate))
  case fetchEarly => exact exec_eq_next (decide_eq_true hc) rfl ((targetTimeout_fetching hx).trans (if_neg (by omega)))
  case readLate => exact exec_eq_next (decide_eq_true hc) rfl ((targetTimeout_reading hnone hcode).trans (if_pos hlate))
  case readEarly =>
    refine exec_eq_next (decide_eq_true hc) rfl ((targetTimeout_reading hnone hcode).trans (if_neg ?_))
    rintro ⟨r, hr, hlive, hlate⟩
    exact absurd hlate (Nat.not_le.mpr (hearly r hr hlive))
  case unasked => exact exec_eq_next (decide_eq_true hc) rfl (hostReadDone_none hnone b e)
  case error => exact exec_eq_next (decide_eq_true hc) rfl (hostReadDone_error hr b)
  case last =>
    have hdone := hostReadDone_bytes hr (Nat.le_of_eq hall)
    rw [if_pos hall] at hdone
    exact exec_eq_next (decide_eq_true hc) rfl hdone
  case part =>
    have hdone := hostReadDone_bytes hr (Nat.le_of_lt hpart)
    rw [if_neg (Nat.ne_of_lt hpart)] at hdone
    exact exec_eq_next (decide_eq_true hc) rfl hdone

end Sys2Proof.Machine

namespace Sys2Proof.Machine

/-! A DMA beat over registers that are not in canonical form (R266, R313). -/

theorem after_chan (s t : State) (c : Nat) : (after s t).chan c = t.chan c := by
  rw [after_eq]
  rfl

theorem exec_dmaBeat (s : State) : exec .dmaBeat s = .next (after s (dmaBeat s)) := exec_eq_next rfl rfl rfl

/-- A transfer of 64 bytes from HBM to the host. -/
def hbmRead : Desc := { at_ := 0, host := 0, int := Config.hbmBase, op := 2, irq := false, eor := false, queue := 0, len := 64, next := 0 }

/-- Channels 0 and 1 are ready, and channel 1 won the slot before. Counter 0 of the performance monitor counts the slots that channel 1
loses, and is about to roll over its low half. FT_STAT stands behind that counter's register, out of order, where no read finds it;
nothing in the statement excludes it, which asks for the canonical form of the channels and of memory, not of the registers. -/
def hiddenRelease : State :=
  { clk := true, regs := [(Reg.DMA_CH_STAT 0, 1), (Reg.DMA_CH_STAT 1, 1), (Reg.PMON_CNT_LO 0, 0xFFFFFFFF), (Reg.FT_STAT, 8)],
    chans := [(0, { desc := some hbmRead }), (1, { desc := some hbmRead, won := true })],
    pmonSel := [(0, 0x800000 + 1024 + 0xA1)] }

theorem hiddenRelease_beats : hiddenRelease.beatSlot = true ∧ hiddenRelease.beatAt ≠ some hiddenRelease.now ∧
    hiddenRelease.beatWinner ((List.range 64).filter hiddenRelease.beatReady) = some 0 ∧ hiddenRelease.chanLive 0 = some hbmRead ∧
    Tab.wf (fun _ => ({} : Chan)) hiddenRelease.chans = true ∧ Tab.wf memDefault hiddenRelease.mem = true := by decide

/-- The count of the lost slot takes the counter's low half out, FT_STAT shows, and the descriptor of the winner ends instead of moving. -/
theorem hiddenRelease_used : ((dmaBeat hiddenRelease).chan 0).used = 0 := by decide +kernel

/-- Refutes O60, in the beats a winner has used: with registers out of order the count of a lost slot releases the data plane, HBM's domain
counts as off, and the winner makes no beat. -/
theorem not_dmaBeatsAndQueueRuns : ¬ Obligations.DmaBeatsAndQueueRuns := by
  intro h
  obtain ⟨hslot, hfirst, hwin, hlive, hchans, hmem⟩ := hiddenRelease_beats
  obtain ⟨t, hexec, hused, _⟩ := ((h.2.1 hiddenRelease).2 hslot hfirst).2 0 hbmRead hwin hlive (by decide) hchans hmem
  have hsame : after hiddenRelease t = after hiddenRelease (dmaBeat hiddenRelease) :=
    Host.Outcome.next.inj (hexec.symm.trans (exec_dmaBeat hiddenRelease))
  have hchan : t.chan 0 = (dmaBeat hiddenRelease).chan 0 := by rw [← after_chan hiddenRelease t, hsame, after_chan]
  rw [hchan, hiddenRelease_used] at hused
  exact absurd hused (by decide)

end Sys2Proof.Machine

namespace Sys2Proof.Machine

/-! Power domains that move (R329, R331, R332). -/

/-- The requests that wait: the native one, and the legacy ones. -/
def State.requests (s : State) : Option PwrReq × List LegReq := (s.pwr, s.legs)

section Requests

variable {s t : State} {d st code : Nat}

theorem OnlyRegs.requests_eq (h : OnlyRegs s t) : t.requests = s.requests := (congrArg State.requests h).trans rfl

theorem pwrShow_onlyRegs (s : State) : OnlyRegs s (pwrShow s) := (OnlyRegs.refl s).setFld _ _ _

theorem setDom_requests (s : State) (d st : Nat) : (setDom s d st).requests = s.requests := by
  unfold setDom
  split
  · rfl
  · have hmoved := (((OnlyRegs.refl s).setFld (Reg.PWR_DOM_STAT d) F.PWR_DOM_STAT_STATE st).evt Reg.PWR_EVT F.PWR_EVT_DOM_CHG).requests_eq
    exact (pwrShow_onlyRegs _).requests_eq.trans hmoved

theorem domRegs_requests (s : State) (d : Nat) : (domRegs s d).requests = s.requests := rfl

theorem domLoss_requests (s : State) (d : Nat) : (domLoss s d).requests = s.requests := by
  have hite : ∀ {c : Prop} [Decidable c] {a b : State}, a.requests = s.requests → b.requests = s.requests → (if c then a else b).requests = s.requests :=
    fun ha hb => by
      split
      · exact ha
      · exact hb
  exact hite rfl (hite rfl (hite rfl rfl))

/-- No request completes where none waits. -/
theorem domDone_of_none (h : t.requests = (none, [])) (on : Bool) (d code : Nat) : domDone t on d code = t := by
  have hpwr : t.pwr = none := congrArg Prod.fst h
  have hlegs : t.legs = [] := congrArg Prod.snd h
  unfold domDone
  rw [hpwr]
  dsimp only
  rw [hlegs]
  rfl

/-- The registers of a domain's blocks read their reset values (R329). -/
theorem rd_domRegs (h : Tab.wf regReset s.regs = true) (d a : Nat) :
    (domRegs s d).rd a = if (domCsr d).1 ≤ a ∧ a < (domCsr d).2 then (regReset a).toNat else s.rd a := by
  have hdrop : (domRegs s d).regs = Tab.dropRange s.regs (domCsr d).1 (domCsr d).2 :=
    List.filter_congr fun e _ => by
      rw [Bool.eq_iff_iff]
      simp
  unfold State.rd
  rw [hdrop, Tab.get_dropRange regReset h]
  split <;> rfl

end Requests

/-! A native request acts (R331, R334). -/

section Acts

variable {s : State} {x : PwrReq}

theorem domPend_requests (s : State) (d : Nat) : (domPend s d).requests = s.requests :=
  (OnlyRegs.ite ((OnlyRegs.refl s).setFlag _ _ _) (.refl s)).requests_eq

theorem setLast_requests (s : State) (d code : Nat) : (setLast s d code).requests = s.requests :=
  (OnlyRegs.ite ((OnlyRegs.refl s).setFld _ _ _) (.refl s)).requests_eq

theorem pwrEnd_legs (s : State) (code : Nat) : (pwrEnd s code).legs = s.legs := by
  unfold pwrEnd
  cases s.pwr with
  | none => rfl
  | some x =>
    dsimp only
    have hres : OnlyRegs { s with pwr := none } ((({ s with pwr := none } : State).putRes Reg.PWR_RES code 0).setFlag Reg.PWR_STAT F.PWR_STAT_PEND false) :=
      ((OnlyRegs.refl _).putRes _ _ _).setFlag _ _ _
    have hlegs : _ = s.legs := congrArg Prod.snd hres.requests_eq
    revert hlegs
    generalize (({ s with pwr := none } : State).putRes Reg.PWR_RES code 0).setFlag Reg.PWR_STAT F.PWR_STAT_PEND false = t
    intro hlegs
    split
    · exact (congrArg Prod.snd ((domPend_requests _ _).trans (setLast_requests _ _ _))).trans hlegs
    · exact hlegs

theorem quietEnter_legs (s : State) : (quietEnter s).legs = s.legs := by
  have hshow := congrArg Prod.snd (pwrShow_onlyRegs { s with quiet := true }).requests_eq
  unfold quietEnter
  dsimp only
  split
  · exact hshow
  · exact hshow

/-- A request that acts, with no legacy request to follow. -/
theorem pwrRequestAct_native (hclk : s.clk = true) (hofs : s.ofs = 0) (hx : s.pwr = some x) (hlegs : (pwrAct s x).legs = []) :
    pwrRequestAct s = elsReform (pwrAct s x) := by
  unfold pwrRequestAct
  rw [if_neg (by simp [hclk, hofs]), hx]
  dsimp only
  rw [hlegs]
  rfl

variable (hacted : x.acted = false) (hnow : x.immed = true) (hsince : x.since < s.elapsed) (hok : s.pwrRefusal x.op x.dom false false = none)
include hacted hnow hsince hok

/-- An accepted request whose time has come does what its operation says. -/
theorem pwrAct_eq : pwrAct s x =
    if x.op = 3 then pwrEnd (quietEnter s) cOK
    else if x.op = 4 then pwrEnd (pwrShow { s with quiet := false }) cOK
    else
      let r := domAct s (x.op == 1) x.dom
      if r.2 then pwrEnd r.1 cOK else { r.1 with pwr := some { x with acted := true } } := by
  unfold pwrAct
  rw [hok]
  have hdue : ¬ (!(!x.acted && (if x.immed then decide (x.since < s.elapsed) else x.at_ == s.fnN))) = true := by simp [hacted, hnow, hsince]
  exact (if_neg hdue).trans (if_neg (by decide))

theorem pwrAct_on (hop : x.op = 1) (hst : s.domSt x.dom = 0) : pwrAct s x = { setDom s x.dom 1 with pwr := some { x with acted := true } } := by
  have hact : domAct s (x.op == 1) x.dom = (setDom s x.dom 1, false) := by
    unfold domAct domRise
    rw [if_pos (by simp [hop]), if_neg (by omega), if_pos hst]
  rw [pwrAct_eq hacted hnow hsince hok, if_neg (by omega), if_neg (by omega), hact]
  rfl

theorem pwrAct_off (hop : x.op = 2) (hst : s.domSt x.dom = 2) : pwrAct s x = { setDom s x.dom 3 with pwr := some { x with acted := true } } := by
  have hact : domAct s (x.op == 1) x.dom = (setDom s x.dom 3, false) := by
    unfold domAct domDrain
    rw [if_neg (by simp [hop]), if_neg (by omega), if_pos hst]
  rw [pwrAct_eq hacted hnow hsince hok, if_neg (by omega), if_neg (by omega), hact]
  rfl

theorem pwrAct_quiet (hop : x.op = 3) : pwrAct s x = pwrEnd (quietEnter s) cOK := (pwrAct_eq hacted hnow hsince hok).trans (if_pos hop)

theorem pwrAct_wake (hop : x.op = 4) : pwrAct s x = pwrEnd (pwrShow { s with quiet := false }) cOK :=
  (pwrAct_eq hacted hnow hsince hok).trans ((if_neg (by omega)).trans (if_pos hop))

end Acts

/-! A domain reaches ON, or its drain ends (R329, R332). -/

section Moves

variable {s : State} {d : Nat} (hnone : s.requests = (none, []))
include hnone

theorem domainOn_rising (hst : s.domSt d = 1) : domainOn s d = setDom (domRegs s d) d 2 := by
  unfold domainOn
  rw [if_pos hst]
  exact domDone_of_none ((setDom_requests _ d 2).trans ((domRegs_requests s d).trans hnone)) true d cOK

variable (hst : s.domSt d = 3) (hofs : s.ofs = 0) (hat : tabGet 0 s.domAt d < s.elapsed)
include hst hofs hat

omit hnone in
theorem drained_of_frame : s.drained d = true := by simp [State.drained, hst, hofs, hat]

theorem domainIsolate_idle (hfree : s.inFlight d = false) : domainIsolate s d = elsReform (setDom (domLoss s d) d 0) := by
  have hdone := domDone_of_none ((setDom_requests _ d 0).trans ((domLoss_requests s d).trans hnone)) false d cOK
  unfold domainIsolate
  rw [if_pos (by simp [drained_of_frame hst hofs hat, hfree]), hdone]

theorem drainTimeout_busy (hbusy : s.inFlight d = true) : drainTimeout s d = elsReform ((setDom s d 2).evt Reg.PWR_EVT F.PWR_EVT_PWR_ERR) := by
  have hkept := ((OnlyRegs.refl (setDom s d 2)).evt Reg.PWR_EVT F.PWR_EVT_PWR_ERR).requests_eq
  have hdone := domDone_of_none (hkept.trans ((setDom_requests s d 2).trans hnone)) false d eINUSE
  unfold drainTimeout
  rw [if_pos (by simp [drained_of_frame hst hofs hat, hbusy]), hdone]

end Moves

theorem drainTimeout_free {s : State} {d : Nat} (h : s.inFlight d = false) : drainTimeout s d = s := if_neg (by simp [h])

theorem domainIsolate_busy {s : State} {d : Nat} (h : s.inFlight d = true) : domainIsolate s d = s := if_neg (by simp [h])

/-- Settles O18: the request by its operation, the domain by its state and by what is in flight. -/
theorem domainsMove : Obligations.DomainsMove := by
  refine ⟨fun x s hclk hofs hlegs hx hacted hnow hsince hok => ⟨fun hop hst => ?on, fun hop hst => ?off, fun hop => ?quiet, fun hop => ?wake⟩,
    fun d s hd hpwr hlegs => ⟨fun hst => ⟨?risen, fun hwf a => rd_domRegs hwf d a⟩, fun hst hofs hat => ⟨fun hfree => ⟨?isolated, ?noTimeout⟩,
      fun hbusy => ⟨?returned, ?noIsolate⟩⟩⟩⟩
  case on =>
    have hact := pwrAct_on hacted hnow hsince hok hop hst
    have hrest : (pwrAct s x).legs = [] := by
      rw [hact]
      exact (congrArg Prod.snd (setDom_requests s x.dom 1)).trans hlegs
    exact exec_eq_next rfl rfl ((pwrRequestAct_native hclk hofs hx hrest).trans (congrArg elsReform hact))
  case off =>
    have hact := pwrAct_off hacted hnow hsince hok hop hst
    have hrest : (pwrAct s x).legs = [] := by
      rw [hact]
      exact (congrArg Prod.snd (setDom_requests s x.dom 3)).trans hlegs
    exact exec_eq_next rfl rfl ((pwrRequestAct_native hclk hofs hx hrest).trans (congrArg elsReform hact))
  case quiet =>
    have hact := pwrAct_quiet hacted hnow hsince hok hop
    have hrest : (pwrAct s x).legs = [] := by rw [hact, pwrEnd_legs, quietEnter_legs, hlegs]
    exact exec_eq_next rfl rfl ((pwrRequestAct_native hclk hofs hx hrest).trans (congrArg elsReform hact))
  case wake =>
    have hact := pwrAct_wake hacted hnow hsince hok hop
    have hrest : (pwrAct s x).legs = [] := by
      rw [hact, pwrEnd_legs]
      exact (congrArg Prod.snd (pwrShow_onlyRegs { s with quiet := false }).requests_eq).trans hlegs
    exact exec_eq_next rfl rfl ((pwrRequestAct_native hclk hofs hx hrest).trans (congrArg elsReform hact))
  all_goals have hnone : s.requests = (none, []) := Prod.ext hpwr hlegs
  case risen => exact exec_eq_next (decide_eq_true hd) rfl (domainOn_rising hnone hst)
  case isolated => exact exec_eq_next (decide_eq_true hd) rfl (domainIsolate_idle hnone hst hofs hat hfree)
  case noTimeout => exact exec_eq_next (decide_eq_true hd) rfl (drainTimeout_free hfree)
  case returned => exact exec_eq_next (decide_eq_true hd) rfl (drainTimeout_busy hnone hst hofs hat hbusy)
  case noIsolate => exact exec_eq_next (decide_eq_true hd) rfl (domainIsolate_busy hbusy)

end Sys2Proof.Machine

namespace Sys2Proof.Machine

/-! Debug accesses and captures (R325, R327). -/

/-! A dword of memory, byte by byte (R300). -/

section Dwords

variable {s : State} {a k : Nat}

theorem inCsr_iff : inCsr a = true ↔ Config.csrBase ≤ a ∧ a < Config.csrBase + Config.csrBytes := by simp [inCsr]

/-- The bytes of an aligned dword lie side by side in memory. -/
theorem memKey_add (hal : a % 4 = 0) (hk : s.memKey a = some k) {i : Nat} (hi : i < 4) : s.memKey (a + i) = some (k + i) := by
  unfold State.memKey Config.wmemBytes Config.wmemBase Config.hbmBase Config.hbmBytes at *
  simp only [Bool.and_eq_true, decide_eq_true_eq] at hk ⊢
  split_ifs at hk ⊢ <;> simp only [Option.some.injEq] at hk ⊢ <;> omega

theorem intByte_of_memKey (hk : s.memKey a = some k) : s.intByte a = s.memAt k := by
  unfold State.intByte
  rw [hk]

theorem intPut_of_memKey (hk : s.memKey a = some k) (b : Byte) : s.intPut a b = s.memPut k [b] := by
  unfold State.intPut
  rw [hk]

theorem answers_of_memKey (hcsr : inCsr a = false) (hup : s.memUp = true) (hk : s.memKey a = some k) : s.answers a = true := by
  simp [State.answers, hcsr, hup, hk]

theorem memAt_memPut_one (hwf : Tab.wf memDefault s.mem = true) (b : Byte) (j : Nat) :
    (s.memPut k [b]).memAt j = if j = k then b else s.memAt j := by
  split
  case isTrue h =>
    subst h
    rw [State.memAt_memPut_in j [b] j le_rfl (Nat.lt_succ_self j)]
    simp
  case isFalse h => exact State.memAt_memPut hwf k [b] j (by rw [List.length_singleton]; omega)

/-- A write of the bytes of a number, the least first, leaves each of them at its key and every other byte as it was. -/
theorem foldl_intPut_leBytes (n : Nat) : ∀ (i v : Nat) (s : State), Tab.wf memDefault s.mem = true →
    (∀ j, i ≤ j → j < i + n → s.memKey (a + j) = some (k + j)) →
    ∃ m, ((List.range' i n).zip ((leBytes v n).map fun b => (true, b))).foldl (fun s x => if x.2.1 then s.intPut (a + x.1) x.2.2 else s) s =
        { s with mem := m } ∧
      ∀ j, ({ s with mem := m } : State).memAt j = if k + i ≤ j ∧ j < k + i + n then byte (v / 256 ^ (j - (k + i))) else s.memAt j := by
  induction n with
  | zero => exact fun i v s _ _ => ⟨s.mem, rfl, fun j => (if_neg (by omega)).symm⟩
  | succ n ih =>
    intro i v s hwf hkeys
    have hput := intPut_of_memKey (hkeys i le_rfl (by omega)) (byte v)
    obtain ⟨m, hm, hat⟩ := ih (i + 1) (v / 256) (s.memPut (k + i) [byte v]) (State.memPut_wf hwf _ _)
      fun j h1 h2 => hkeys j (by omega) (by omega)
    refine ⟨m, ?_, fun j => (hat j).trans ?_⟩
    · rw [List.range'_succ, leBytes, List.map_cons, List.zip_cons_cons, List.foldl_cons, if_pos rfl, hput]
      exact hm
    · rw [memAt_memPut_one hwf]
      by_cases hj : j = k + i
      · rw [if_neg (by omega), if_pos hj, if_pos (by omega), hj, Nat.sub_self, Nat.pow_zero, Nat.div_one]
      · by_cases hin : k + (i + 1) ≤ j ∧ j < k + (i + 1) + n
        · have hexp : j - (k + i) = j - (k + (i + 1)) + 1 := by omega
          rw [if_pos hin, if_pos (by omega), hexp, Nat.pow_succ', Nat.div_div_eq_div_mul]
        · rw [if_neg hin, if_neg hj, if_neg (by omega)]

variable (hal : a % 4 = 0) (hcsr : inCsr a = false) (hup : s.memUp = true) (hk : s.memKey a = some k)
include hal hcsr hup hk

theorem busRead_memory : busRead s a = (leNat (s.memGet k 4), s) := by
  have hbytes : ((List.range 4).map fun i => s.intByte (a + i)) = s.memGet k 4 := by
    refine List.ext_getElem (by simp [State.memGet]) fun i h1 _ => ?_
    have hi : i < 4 := by simpa using h1
    rw [List.getElem_map, List.getElem_range, intByte_of_memKey (memKey_add hal hk hi)]
    exact (Tab.getElem_getRange _).symm
  unfold busRead
  rw [hcsr, if_neg Bool.false_ne_true, if_pos (answers_of_memKey hcsr hup hk), hbytes]

theorem busWrite_memory (hwf : Tab.wf memDefault s.mem = true) (v : Nat) :
    ∃ m, busWrite s a ((leBytes v 4).map fun b => (true, b)) = { s with mem := m } ∧
      ∀ j, ({ s with mem := m } : State).memAt j = if k ≤ j ∧ j < k + 4 then byte (v / 256 ^ (j - k)) else s.memAt j := by
  have hwrite : busWrite s a ((leBytes v 4).map fun b => (true, b)) =
      ((List.range' 0 4).zip ((leBytes v 4).map fun b => (true, b))).foldl (fun s x => if x.2.1 then s.intPut (a + x.1) x.2.2 else s) s := by
    unfold busWrite
    rw [hcsr, if_neg Bool.false_ne_true, if_pos (answers_of_memKey hcsr hup hk), List.range_eq_range']
  rw [hwrite]
  exact foldl_intPut_leBytes 4 0 v s hwf fun j _ hj => memKey_add hal hk (by omega)

end Dwords

/-! One access (R325). -/

/-- The end of an access that its target served: the data it returns, and status OK. -/
def cdaEnd (r : Nat × State) : State :=
  ({ r.2 with dbg := { r.2.dbg with status := 0, held := none } } : State).send (.cda (BitVec.ofNat 32 r.1) 0)

section Serves

variable {s : State} {a : Nat} {w : Bool} {v : Word}

theorem cdaServe_answered (hans : s.answers (a / 4 * 4) = true) :
    cdaServe s w a v = cdaEnd (if inCsr (a / 4 * 4) && a % 4 != 0 then (0, s)
      else if w then (0, busWrite s (a / 4 * 4) ((leBytes v.toNat 4).map fun b => (true, b))) else busRead s (a / 4 * 4)) := by
  have hcap : s.inCapture (a / 4 * 4) = false := by simp [State.inCapture, hans]
  unfold cdaServe cdaEnd
  simp only [hans, hcap, Bool.true_or, if_true, Bool.false_eq_true, if_false, OfNat.zero_ne_ofNat, decide_false, Bool.false_and]

/-- An access that no rival contests takes its path and leaves all else. -/
theorem pathTake_alone {t m : Nat} (w : Nat) (h : s.rivals t m = []) : ∃ p, pathTake s t m w = { s with xbHold := p } := by
  unfold pathTake
  rw [h, List.isEmpty_nil, Bool.or_true, if_pos rfl]
  unfold pathDone
  split
  · exact ⟨_, rfl⟩
  · exact ⟨s.xbHold, rfl⟩

variable (hgood : s.pins.powerGood = true) (hsess : s.dbg.sess = true)
include hgood hsess

theorem cdaAccess_denied (hshut : s.cdaAllows (a / 4 * 4) w = false) : cdaAccess s w a v = cdaDenied s := by
  simp only [cdaAccess, hgood, hsess, hshut, Bool.not_true, Bool.or_false, Bool.false_eq_true, if_false, Bool.not_false, if_true]

variable (hheld : s.dbg.held = none) (hopen : s.cdaAllows (a / 4 * 4) w = true)
include hheld hopen

theorem cdaAccess_open : cdaAccess s w a v =
    if s.inWindow s.ofs && s.mayBegin (s.target (a / 4 * 4)) 3 0 then cdaServe (pathTake s (s.target (a / 4 * 4)) 3 0) w a v
    else ({ s with dbg := { s.dbg with held := some (w, a, v), heldAt := s.now, status := 2 } } : State).send (.cda 0 2) := by
  simp only [cdaAccess, hgood, hsess, hopen, hheld, Bool.not_true, Bool.or_false, Bool.false_eq_true, if_false, Option.isSome_none]

theorem cdaAccess_held (hwait : s.inWindow s.ofs = false ∨ s.mayBegin (s.target (a / 4 * 4)) 3 0 = false) :
    cdaAccess s w a v = ({ s with dbg := { s.dbg with held := some (w, a, v), heldAt := s.now, status := 2 } } : State).send (.cda 0 2) :=
  (cdaAccess_open hgood hsess hheld hopen).trans (if_neg (by rcases hwait with h | h <;> simp [h]))

/-- An access that may begin at a target no rival wants is served there, in a state where only the paths may differ. -/
theorem cdaAccess_served (hwin : s.inWindow s.ofs = true) (hmay : s.mayBegin (s.target (a / 4 * 4)) 3 0 = true)
    (halone : s.rivals (s.target (a / 4 * 4)) 3 = []) : ∃ p, cdaAccess s w a v = cdaServe { s with xbHold := p } w a v := by
  obtain ⟨p, hp⟩ := pathTake_alone 0 halone
  exact ⟨p, (cdaAccess_open hgood hsess hheld hopen).trans ((if_pos (by simp [hwin, hmay])).trans (by rw [hp]))⟩

end Serves

/-! Accesses that are carried out at once. -/

section Carried

variable {s : State} {a k : Nat} {v : Word}

theorem mayBegin_alone {t : Nat} (hfree : s.holder8 t = 8) (halone : s.rivals t 3 = []) : s.mayBegin t 3 0 = true := by
  simp [State.mayBegin, State.pathFree, hfree, halone]

/-- The dword of an unaligned address in CSR space lies there too. -/
theorem inCsr_dword (h : inCsr a = true) : inCsr (a / 4 * 4) = true ∧ a / 4 * 4 - Config.csrBase = (a - Config.csrBase) / 4 * 4 := by
  rw [inCsr_iff] at h
  rw [inCsr_iff]
  unfold Config.csrBase Config.csrBytes at *
  omega

theorem target_csr (h : inCsr a = true) : s.target a = 2 := if_pos (by simpa [inCsr] using h)

theorem csrAnswers_path (s : State) (p : List (Nat × Nat)) (o : Nat) : ({ s with xbHold := p } : State).csrAnswers o = s.csrAnswers o := rfl

theorem cdaServe_unaligned {w : Bool} (hcsr : inCsr a = true) (hodd : a % 4 ≠ 0) (hans : s.csrAnswers ((a - Config.csrBase) / 4 * 4) = true) :
    cdaServe s w a v = cdaEnd (0, s) := by
  obtain ⟨hin, hoff⟩ := inCsr_dword hcsr
  have hserved : s.answers (a / 4 * 4) = true := by
    unfold State.answers
    rw [if_pos hin, hoff, hans]
  rw [cdaServe_answered hserved, if_pos (by simp [hin, hodd])]

variable (hal : a % 4 = 0) (hcsr : inCsr a = false) (hup : s.memUp = true) (hk : s.memKey a = some k)
include hal hcsr hup hk

theorem cdaServe_memory (w : Bool) : cdaServe s w a v =
    cdaEnd (if w then (0, busWrite s a ((leBytes v.toNat 4).map fun b => (true, b))) else busRead s a) := by
  have hdword : a / 4 * 4 = a := by omega
  have hans := answers_of_memKey hcsr hup hk
  rw [cdaServe_answered (by rw [hdword]; exact hans), hdword, if_neg (by simp [hcsr])]

theorem cdaServe_read : cdaServe s false a v = cdaEnd (leNat (s.memGet k 4), s) :=
  (cdaServe_memory hal hcsr hup hk false).trans (congrArg cdaEnd (busRead_memory hal hcsr hup hk))

theorem cdaServe_write (hwf : Tab.wf memDefault s.mem = true) : ∃ m, cdaServe s true a v = cdaEnd (0, { s with mem := m }) ∧
    ∀ j, ({ s with mem := m } : State).memAt j = if k ≤ j ∧ j < k + 4 then byte (v.toNat / 256 ^ (j - k)) else s.memAt j := by
  obtain ⟨m, hm, hat⟩ := busWrite_memory hal hcsr hup hk hwf v.toNat
  exact ⟨m, (cdaServe_memory hal hcsr hup hk true).trans (congrArg (fun t => cdaEnd (0, t)) hm), hat⟩

end Carried

/-- CDA_READ and CDA_WRITE are one access, with no data when they read. -/
theorem exec_cda {w : Bool} {a : Nat} {v : Word} {s t : State} (ha : a < 0x10000000000) (h : cdaAccess s w a (if w then v else 0) = t) :
    exec (if w then .cdaWrite a v else .cdaRead a) s = .next (after s t) := by
  cases w with
  | false => exact exec_eq_next (decide_eq_true ha) rfl h
  | true => exact exec_eq_next (decide_eq_true ha) rfl h

section Captures

variable {s : State} {lf : Bool} {i n : Nat} (hsess : s.dbg.sess = false)
include hsess

theorem capStart_open (hopen : s.capOpen = true) (hon : s.domOn (capDomain lf i) = true) : capStart s lf i n =
    { s with dbg := { s.dbg with ir := 0x21, drive := 0, cap := some ⟨lf, i, n, s.elapsed⟩, capBuf := [], capPos := 0, status := 0 } } := by
  unfold capStart
  rw [tapSelect_no_session hsess]
  exact (if_neg (show ¬(!s.capOpen) = true by simp [hopen])).trans (if_pos hon)

theorem capStart_closed (hshut : s.capOpen = false) :
    capStart s lf i n = cdaDenied { s with dbg := { s.dbg with ir := 0x21, drive := 0 } } := by
  unfold capStart
  rw [tapSelect_no_session hsess]
  exact if_pos (show (!s.capOpen) = true by simp [hshut])

end Captures

/-- Settles O22: an access is denied, held or served by `cdaAccess`; what a served one moves is `cdaServe` on memory, byte by byte. -/
theorem debugAccess : Obligations.DebugAccess := by
  refine ⟨fun w a v s ha hgood hsess hheld => ⟨fun hshut => ?denied, fun hopen hwait => ?held,
    fun hopen hal hwin hmay hup hwf k hk hcsr _ halone => ?memory, fun hopen hodd hwin hcsr hans hfree halone => ?unaligned⟩,
    fun lf i n s hi h1 h16 hgood hsess => ⟨fun hopen hon => ?captures, fun hshut => ?captureDenied⟩⟩
  case denied => exact exec_cda ha (cdaAccess_denied hgood hsess hshut)
  case held => exact exec_cda ha (cdaAccess_held hgood hsess hheld hopen hwait)
  case memory =>
    have hdword : a / 4 * 4 = a := by omega
    obtain ⟨p, hp⟩ := cdaAccess_served (a := a) (v := if w then v else 0) hgood hsess hheld (by rw [hdword]; exact hopen) hwin
      (by rw [hdword]; exact hmay) (by rw [hdword]; exact halone)
    cases w with
    | false =>
      exact ⟨_, exec_cda ha (hp.trans (cdaServe_read (s := { s with xbHold := p }) hal hcsr hup hk)), rfl, rfl, rfl, fun _ => ⟨rfl, rfl⟩,
        fun h => absurd h Bool.false_ne_true⟩
    | true =>
      obtain ⟨m, hm, hat⟩ := cdaServe_write (s := { s with xbHold := p }) (v := v) hal hcsr hup hk hwf
      refine ⟨_, exec_cda ha (hp.trans hm), rfl, rfl, rfl, fun h => absurd h.symm Bool.false_ne_true, fun _ => ⟨fun i hi => ?_, fun j hj => ?_⟩⟩
      · have h := hat (k + i)
        rw [if_pos (by omega), Nat.add_sub_cancel_left] at h
        exact h
      · exact (hat j).trans (if_neg hj)
  case unaligned =>
    obtain ⟨hin, _⟩ := inCsr_dword hcsr
    have htarget : s.target (a / 4 * 4) = 2 := target_csr hin
    obtain ⟨p, hp⟩ := cdaAccess_served (a := a) (v := if w then v else 0) hgood hsess hheld hopen hwin
      (by rw [htarget]; exact mayBegin_alone hfree halone) (by rw [htarget]; exact halone)
    exact ⟨_, exec_cda ha (hp.trans (cdaServe_unaligned hcsr hodd ((csrAnswers_path s p _).trans hans))), rfl, rfl, rfl, fun _ => rfl⟩
  case captures =>
    exact exec_tap hgood (by simp [Instr.wf, hi, h1, h16]) rfl (capStart_open hsess hopen hon)
  case captureDenied =>
    exact exec_tap hgood (by simp [Instr.wf, hi, h1, h16]) rfl (capStart_closed hsess hshut)

end Sys2Proof.Machine

namespace Sys2Proof.Machine

/-! The state after reset (R285), and a core cycle with no command (R33, R35; log entry 1). -/

theorem fuses_reset_legal : State.reset.fuses.lc ≤ State.reset.fuses.majority ∧ State.reset.fuses.majority ≤ 3 := by decide

/-- Settles O5: every table of State.reset is empty, and so in canonical form. -/
theorem resetIsSafe : Obligations.ResetIsSafe :=
  ⟨Nat.zero_lt_succ _, fuses_reset_legal, Tab.wf_nil regReset, Tab.wf_nil memDefault, Tab.wf_nil norDefault, Tab.wf_nil norDefault⟩

section Idle

variable {s : State}

theorem frameEnd_le (s : State) : s.frameEnd ≤ 200000 := by
  unfold State.frameEnd
  split
  · exact Nat.le_refl _
  · exact Nat.min_le_left _ _

theorem frameEnd_uncut (h : s.released = true ∨ s.mate.cut = none) : s.frameEnd = 200000 := by
  rcases h with h | h <;> simp [State.frameEnd, h]

theorem step_idle (h : s.pending = []) : step s = .next (after s (tick s)) := by
  unfold step
  rw [h]
  rfl

theorem tick_unclocked (h : s.clk = false) : tick s = s := if_pos (by simp [h])

theorem tick_clocked (h : s.clk = true) : tick s = if s.ofs + 1 < s.frameEnd then s.toOfs (s.ofs + 1) else boundary s noInput :=
  if_neg (by simp [h])

/-- Time that moves forward in the frame changes the offset and the counters. -/
theorem toOfs_eq {o : Nat} (hclk : s.clk = true) (hlt : s.ofs < o) (ho : o < 200000) : s.toOfs o = { s with ofs := o, regs := (s.toOfs o).regs } := by
  have hmoves : s.toOfs o = { s.passCycles s.ofs o with ofs := o } := if_pos (by simp [hclk, hlt, ho])
  have hcounts : OnlyRegs s (s.passCycles s.ofs o) := passCycles_onlyRegs s s.ofs o
  rw [hmoves]
  exact congrArg (fun t : State => { t with ofs := o }) hcounts

end Idle

/-- Settles O3: a step without a command is `tick`, which moves the offset by one or is the boundary. -/
theorem emptyQueueIdles : Obligations.EmptyQueueIdles := by
  intro s hq
  refine ⟨fun hclk => ?_, fun hclk hin => ?_, fun hclk hend => ?_, frameEnd_uncut⟩
  · rw [step_idle hq, tick_unclocked hclk]
  · have ho : s.ofs + 1 < 200000 := Nat.lt_of_lt_of_le hin (frameEnd_le s)
    have htick : tick s = s.toOfs (s.ofs + 1) := (tick_clocked hclk).trans (if_pos hin)
    exact ⟨_, (step_idle hq).trans (by rw [htick]), toOfs_eq hclk (Nat.lt_succ_self _) ho⟩
  · rw [step_idle hq, tick_clocked hclk, if_neg (Nat.not_lt.mpr hend)]

end Sys2Proof.Machine

namespace Sys2Proof.Machine

/-! Acknowledgements of results (R279; log entry 21). -/

/-- `i`, the command of the ACK register `a`, retires the result of register `r` when it names its sequence number `n`, and else changes
nothing. -/
def Retires (i : Instr) (a r n : Nat) (s : State) : Prop := s.csrAnswers a = true →
  (s.valid r = true ∧ bits (s.rd r) 16 8 = n → exec i s = .next (after s (s.putBit r 31 false))) ∧
  (s.valid r = false ∨ bits (s.rd r) 16 8 ≠ n → exec i s = .next (after s s))

section Acks

variable {i : Instr} {a r n k : Nat} {s : State}

theorem exec_host {op : State → State} {t : State} (hs : s.csrAnswers a = true) (hwf : i.wf = true)
    (harm : exec i s = checked i s (s.host a op)) (h : op s = t) : exec i s = .next (after s t) :=
  exec_eq_next hwf harm ((if_pos hs).trans h)

theorem retires_of_ackRes (hn : n < 256) (hwf : i.wf = true) (harm : exec i s = checked i s (s.host a (·.ackRes r n))) :
    Retires i a r n s := by
  have hmod : n % 256 = n := Nat.mod_eq_of_lt hn
  exact fun hs => ⟨fun ⟨hv, hq⟩ => exec_host hs hwf harm (State.ackRes_match hv (hq.trans hmod.symm)),
    fun h => exec_host hs hwf harm (State.ackRes_other (by rwa [hmod]))⟩

theorem groupAck_wf (hk : k < 64) (hn : n < 256) : (decide (k < 64) && decide (n < 256)) = true := by simp [hk, hn]

theorem spareAck_retires (hk : k < 64) (hn : n < 256) : Retires (.spareAck k n) (Reg.PG_SPARE_ACK k) (Reg.PG_SPARE_RES k) n s :=
  retires_of_ackRes hn (groupAck_wf hk hn) rfl

theorem dmaChAck_retires (hk : k < 64) (hn : n < 256) : Retires (.dmaChAck k n) (Reg.DMA_CH_ACK k) (Reg.DMA_CH_RES k) n s :=
  retires_of_ackRes hn (groupAck_wf hk hn) rfl

theorem exec_graftEAck {t : State} (hk : k < 16) (hn : n < 256) (hs : s.csrAnswers (Reg.GRAFT_E_ACK k) = true) (h : graftAck s k n = t) :
    exec (.graftEAck k n) s = .next (after s t) :=
  exec_host hs (by simp [Instr.wf, hk, hn]) rfl h

theorem graftAck_match (hn : n < 256) (hv : s.valid (Reg.GRAFT_E_RES k) = true) (hq : bits (s.rd (Reg.GRAFT_E_RES k)) 16 8 = n) :
    graftAck s k n = gClear (s.putBit (Reg.GRAFT_E_RES k) 31 false) k := by
  have hmod : n % 256 = n := Nat.mod_eq_of_lt hn
  unfold graftAck
  rw [if_pos (by simp [hv, hq, hmod]), State.ackRes_match hv (hq.trans hmod.symm)]

theorem graftAck_other (hn : n < 256) (h : s.valid (Reg.GRAFT_E_RES k) = false ∨ bits (s.rd (Reg.GRAFT_E_RES k)) 16 8 ≠ n) :
    graftAck s k n = s := by
  have hmod : n % 256 = n := Nat.mod_eq_of_lt hn
  exact if_neg (by rw [hmod]; rcases h with h | h <;> simp [h])

/-- The registers of an entry that is cleared, but for its digest. -/
def entryCleared (s : State) (k : Nat) : State :=
  (((s.wr (Reg.GRAFT_E_STAT k) 0).wr (Reg.GRAFT_E_SIZE k) 0).wr (Reg.GRAFT_E_HITS k) 0).wr (Reg.GRAFT_E_GTAG k) 0

theorem entryCleared_wf (hwf : Tab.wf regReset s.regs = true) (k : Nat) : Tab.wf regReset (entryCleared s k).regs = true :=
  State.wr_wf (State.wr_wf (State.wr_wf (State.wr_wf hwf _ _) _ _) _ _) _ _

theorem rd_entryCleared (hwf : Tab.wf regReset s.regs = true) (k : Nat) : (entryCleared s k).rd (Reg.GRAFT_E_STAT k) = 0 := by
  have h1 := State.wr_wf hwf (Reg.GRAFT_E_STAT k) 0
  have h2 := State.wr_wf h1 (Reg.GRAFT_E_SIZE k) 0
  have h3 := State.wr_wf h2 (Reg.GRAFT_E_HITS k) 0
  unfold entryCleared
  rw [State.rd_wr_other h3 _ (by simp [Reg.GRAFT_E_STAT, Reg.GRAFT_E_GTAG]), State.rd_wr_other h2 _ (by simp [Reg.GRAFT_E_STAT, Reg.GRAFT_E_HITS]),
    State.rd_wr_other h1 _ (by simp [Reg.GRAFT_E_STAT, Reg.GRAFT_E_SIZE]), State.rd_wr_self hwf]

theorem rd_gClear (s : State) (k b : Nat) : (gClear s k).rd b = ((entryCleared s k).putDigest (Reg.GRAFT_E_RDIG k 0) []).rd b :=
  rd_setGrafts ((entryCleared s k).putDigest (Reg.GRAFT_E_RDIG k 0) []) _ b

/-- An entry that is cleared is EMPTY (R126). -/
theorem gSt_gClear (hwf : Tab.wf regReset s.regs = true) (k : Nat) : (gClear s k).gSt k = 0 := by
  have hzero : (gClear s k).rd (Reg.GRAFT_E_STAT k) = 0 := by
    rw [rd_gClear, rd_putDigest_other (entryCleared_wf hwf k) [] (.inl (by simp [Reg.GRAFT_E_STAT, Reg.GRAFT_E_RDIG])), rd_entryCleared hwf]
  rw [State.gSt, State.fld, hzero]
  rfl

end Acks

/-- Settles O16: every acknowledgement but that of a graft entry is `ackRes` on its result register; that one clears the entry too. -/
theorem acknowledgements : Obligations.Acknowledgements := by
  intro n s hn
  refine ⟨?rows, fun k hk => ⟨spareAck_retires hk hn, dmaChAck_retires hk hn⟩, fun k hk hs => ⟨fun ⟨hv, hq⟩ => ⟨?retired, fun hwf => ?empty⟩,
    fun h => exec_graftEAck hk hn hs (graftAck_other hn h)⟩⟩
  case rows =>
    have hseq : decide (n < 256) = true := decide_eq_true hn
    show ∀ x ∈ (_ : List (Instr × Nat × Nat)), Retires x.1 x.2.1 x.2.2 n s
    simp only [List.forall_mem_cons, List.not_mem_nil, false_implies, implies_true, and_true]
    exact ⟨retires_of_ackRes hn hseq rfl, retires_of_ackRes hn hseq rfl, retires_of_ackRes hn hseq rfl, retires_of_ackRes hn hseq rfl,
      retires_of_ackRes hn hseq rfl, retires_of_ackRes hn hseq rfl, retires_of_ackRes hn hseq rfl, retires_of_ackRes hn hseq rfl,
      retires_of_ackRes hn hseq rfl, retires_of_ackRes hn hseq rfl, retires_of_ackRes hn hseq rfl, retires_of_ackRes hn hseq rfl,
      retires_of_ackRes hn hseq rfl⟩
  case retired => exact exec_graftEAck hk hn hs (graftAck_match hn hv hq)
  case empty => exact gSt_gClear (State.wr_wf hwf _ _) k

end Sys2Proof.Machine

namespace Sys2Proof.Machine

/-! The commands of frame time: capture, the ordering, cancelling and end of a step, the loss of PPS (R39, R41, R42, R50). -/

section StepOrders

variable {s : State}

/-- A step can be ordered: no result waits, and the unit is not STANDBY, HOLDING or on candidate 40 (R41, R47). -/
structure TakesSteps (s : State) : Prop where
  noResult : s.valid Reg.FT_STEP_RES = false
  notStandby : s.role ≠ roleSTANDBY
  notHolding : s.role ≠ roleHOLDING
  notMirrored : s.timSel ≠ 40

theorem ftArm_running (h : TakesSteps s) (hrun : s.stepState ≠ 0) : ftArm s = s.putRes Reg.FT_STEP_RES eINUSE 0 := by
  simp [ftArm, h.noResult, hrun]

theorem ftArm_idle (h : TakesSteps s) (hidle : s.stepState = 0) :
    ftArm s = if sext (s.rd Reg.FT_STEP_CYC) 32 < -100000 ∨ 99999 < sext (s.rd Reg.FT_STEP_CYC) 32 then s.putRes Reg.FT_STEP_RES eFORMAT 0
      else if fnAtLeast (s.rd48 Reg.FT_STEP_AT_LO) s.fnN 16 = false then s.putRes Reg.FT_STEP_RES eLATE 0
      else { s.setFld Reg.FT_STAT F.FT_STAT_STEP_STATE 1 with
        stepAt := BitVec.ofNat 48 (s.rd48 Reg.FT_STEP_AT_LO), stepNew := BitVec.ofNat 48 (s.rd48 Reg.FT_STEP_NEWFN_LO),
        stepCyc := sext (s.rd Reg.FT_STEP_CYC) 32, slewMoved := 0 } := by
  obtain ⟨hres, hstandby, hholding, hsel⟩ := h
  simp [ftArm, hres, hstandby, hholding, hsel, hidle]

theorem exec_arm {t : State} (hs : s.csrAnswers Reg.FT_STEP_CMD = true) (h : ftArm s = t) : exec .arm s = .next (after s t) :=
  exec_host hs rfl rfl h

theorem exec_cancelStep {t : State} (hs : s.csrAnswers Reg.FT_STEP_CMD = true) (h : ftCancel s = t) : exec .cancelStep s = .next (after s t) :=
  exec_host hs rfl rfl h

theorem ftCancel_armed (h : s.stepState = 1) :
    ftCancel s = (s.setFld Reg.FT_STAT F.FT_STAT_STEP_STATE 0).putRes Reg.FT_STEP_RES cOK 0 := if_pos (beq_iff_eq.mpr h)

theorem ftCancel_other (h : s.stepState ≠ 1) : ftCancel s = s := if_neg (by simpa using h)

theorem ownStep_of_unmirrored (hrole : s.role ≠ roleSTANDBY) (hsel : s.timSel ≠ 40) : s.ownStep = true := by
  simp [State.ownStep, hrole, hsel]

theorem exec_stepApplied_over (hslew : s.stepState = 2) (hover : s.stepCyc.natAbs ≤ s.slewMoved) (hofs : s.ofs = 0) (hown : s.ownStep = true) :
    exec .stepApplied s = .next (after s (stepDone s)) :=
  exec_eq_next (t := if s.stepState == 2 && s.slewOver && s.ofs == 0 && s.ownStep then stepDone s else s) rfl rfl
    (if_pos (by simp [hslew, hofs, hown, State.slewOver, hover]))

theorem ppsLoss_overdue (hshown : s.fld Reg.FT_STAT F.FT_STAT_ALIGN_STATE ≠ 0) (hage : 16000 ≤ s.ppsAge) :
    ppsLoss s = { (s.setFld Reg.FT_STAT F.FT_STAT_ALIGN_STATE 0).evt Reg.FT_EVT F.FT_EVT_PPS_LOSS with ppsBad := 0 } :=
  if_pos (by simp [hshown, hage])

end StepOrders

/-- Settles O23: each command is one branch of `ftArm`, `ftCancel`, `stepDone` or `ppsLoss`. -/
theorem frameTimeCommands : Obligations.FrameTimeCommands := by
  refine ⟨fun s hs => exec_host hs rfl rfl rfl, fun s hs hres hstandby hholding hsel => ?arm,
    fun s hs => ⟨fun h => exec_cancelStep hs (ftCancel_armed h), fun h => exec_cancelStep hs (ftCancel_other h)⟩,
    fun s hslew hover hofs hrole hsel => exec_stepApplied_over hslew hover hofs (ownStep_of_unmirrored hrole hsel),
    fun s hshown hage => exec_eq_next rfl rfl (ppsLoss_overdue hshown hage)⟩
  case arm =>
    have htakes : TakesSteps s := ⟨hres, hstandby, hholding, hsel⟩
    refine ⟨fun hrun => exec_arm hs (ftArm_running htakes hrun), fun hidle hout => exec_arm hs ((ftArm_idle htakes hidle).trans (if_pos hout)),
      fun hidle hlo hhi => ?_⟩
    have hin : ¬ (sext (s.rd Reg.FT_STEP_CYC) 32 < -100000 ∨ 99999 < sext (s.rd Reg.FT_STEP_CYC) 32) := by omega
    have harm := (ftArm_idle htakes hidle).trans (if_neg hin)
    exact ⟨fun hlate => exec_arm hs (harm.trans (if_pos hlate)), fun hearly => exec_arm hs (harm.trans (if_neg (by simp [hearly])))⟩

end Sys2Proof.Machine

namespace Sys2Proof.Machine

/-! The measurement of a PPS edge (R38 to R40, R222). -/

section Latches

variable {s : State} {a : Nat} {f f' : Fld}

theorem setBit_eq_putField (v i : Nat) : setBit v i = putField v ⟨i, 1⟩ 1 := by
  have hbit : bits v i 1 = if bitAt v i then 1 else 0 := by
    rcases Nat.mod_two_eq_zero_or_one (v / 2 ^ i) with h | h <;> simp [bits, bitAt, h]
  unfold setBit putField
  rw [hbit]
  split
  · next hset =>
    have hle : 2 ^ i ≤ v := by
      by_contra hlt
      simp [bitAt, Nat.div_eq_of_lt (Nat.not_le.mp hlt)] at hset
    simp [Nat.sub_add_cancel hle]
  · simp

/-- Latching an event is storing 1 in its field (R11). -/
theorem evt_eq_setFld (s : State) (a : Nat) (f : Fld) : s.evt a f = s.setFld a ⟨f.lo, 1⟩ 1 := congrArg (s.wr a) (setBit_eq_putField _ _)

theorem flag_evt_beside (h : Tab.wf regReset s.regs = true) (hf : f.lo < 32) (hne : f'.lo ≠ f.lo) : (s.evt a f).flag a f' = s.flag a f' := by
  rw [evt_eq_setFld]
  exact flag_setFld_beside h (Nat.succ_le_of_lt hf) (by simp only; omega)

end Latches

theorem OnlyRegs.fn_eq {s t : State} (h : OnlyRegs s t) : t.fn = s.fn := (congrArg State.fn h).trans rfl

theorem OnlyRegs.tods_eq {s t : State} (h : OnlyRegs s t) : t.tods = s.tods := (congrArg State.tods h).trans rfl

section Edges

variable {s u : State}

/-- Core cycles from the last frame with FN mod 8,000 = 0 to the present one. -/
def State.sinceSecond (s : State) : Nat := s.fnN % 8000 * 200000 + s.ofs

/-- In a whole second, the place of an edge counts back up to the middle of the second and forward behind it (R39). -/
theorem ppsPlace_whole (h : s.fnN + 8000 ≤ 281474976710656) :
    s.ppsPlace = if 2 * s.sinceSecond ≤ 1600000000 then ((s.sinceSecond : Int), s.fnN - s.fnN % 8000)
      else ((s.sinceSecond : Int) - 1600000000, (s.fnN - s.fnN % 8000 + 8000) % 281474976710656 / 8000 * 8000) := by
  have hlen : min 8000 (2 ^ 48 - (s.fnN - s.fnN % 8000)) = 8000 := Nat.min_eq_left (by omega)
  simp only [State.ppsPlace, hlen]
  rfl

/-- The edge ends a time without edges and uses up the stored messages. -/
def edgeSeen (s : State) : State :=
  { s with ppsAge := if s.ofs = 0 then 1 else 0, tods := [], ppsBad := if s.fld Reg.FT_STAT F.FT_STAT_ALIGN_STATE = 0 then 0 else s.ppsBad }

/-- The edge as the last good message names it. -/
def edgeNamed (s : State) : State :=
  match s.todFor with
  | some b => storeTod (edgeSeen s) b
  | none => (edgeSeen s).evt Reg.FT_EVT F.FT_EVT_TOD_BAD

/-- The difference of second `sec` from that of the frame at `place`, limited to 32 bits (R39). -/
def secondsApart (sec : Nat) (place : Int × Nat) : Int := clampI ((sec : Int) - (place.2 / 8000 : Nat)) (-2147483647) 2147483647

theorem secondsApart_same {sec : Nat} {place : Int × Nat} (h : sec = place.2 / 8000) : secondsApart sec place = 0 := by
  rw [secondsApart, h, Int.sub_self]
  rfl

theorem unsext_lt (i : Int) : unsext i 32 < 4294967296 := by
  unfold unsext
  omega

/-- The registers that show the measurement of an edge, which second `sec` names. -/
def edgeShown (s : State) : Option Nat → State
  | some v => (s.wr Reg.FT_PPS_OFS (unsext s.ppsPlace.1 32)).wr Reg.FT_PPS_SEC (unsext (secondsApart v s.ppsPlace) 32)
  | none => s.wr Reg.FT_PPS_OFS (unsext s.ppsPlace.1 32)

/-- An edge is good: it lies in the window, and its second is that of the frame (R39). -/
def edgeAgrees (s : State) : Option Nat → Bool
  | some v => decide (s.ppsPlace.1.natAbs ≤ max 1 ((edgeShown s (some v)).fld Reg.FT_ALIGN_WIN F.FT_ALIGN_WIN_WIN)) && secondsApart v s.ppsPlace == 0
  | none => false

/-- The second of the message that names the present edge. -/
def State.todSec (s : State) : Option Nat := s.todFor.map fun b => beAt b 4 6

/-- An edge is named, aligns the frame or not, is measured, and judged. -/
theorem ppsEdge_eq (s : State) : ppsEdge s =
    ppsJudge (edgeShown (initAlign (edgeNamed s) s.todSec) s.todSec) (edgeAgrees (initAlign (edgeNamed s) s.todSec) s.todSec) := by
  unfold ppsEdge State.todSec edgeNamed
  cases s.todFor <;> rfl

theorem initAlign_released (h : u.released = true) (sec : Option Nat) : initAlign u sec = u := by
  cases sec with
  | none => rfl
  | some v => exact if_neg (by simp [h])

theorem ppsPlace_congr {t : State} (hfn : t.fn = s.fn) (hofs : t.ofs = s.ofs) : t.ppsPlace = s.ppsPlace := by
  unfold State.ppsPlace State.fnN
  rw [hfn, hofs]

theorem edgeNamed_onlyRegs (s : State) : OnlyRegs (edgeSeen s) (edgeNamed s) := by
  unfold edgeNamed
  split
  · exact (((OnlyRegs.refl _).wr _ _).wr _ _).wr _ _
  · exact (OnlyRegs.refl _).evt _ _

theorem edgeShown_onlyRegs (u : State) (sec : Option Nat) : OnlyRegs u (edgeShown u sec) := by
  cases sec
  · exact (OnlyRegs.refl u).wr _ _
  · exact ((OnlyRegs.refl u).wr _ _).wr _ _

/-- The edge is counted among the bad ones in a row, or ends them. -/
def edgeCounted (s : State) (agree : Bool) : State := { s with ppsBad := if agree then 0 else s.ppsBad + 1 }

theorem ppsJudge_good (s : State) : ppsJudge s true =
    ((edgeCounted s true).setFld Reg.FT_STAT F.FT_STAT_ALIGN_STATE 1).setFlag Reg.FT_STAT F.FT_STAT_TIME_SET true := rfl

/-- A bad edge changes ALIGN_STATE only, and may latch OFFSET_ENTER (R39). -/
theorem ppsJudge_bad (s : State) : ∃ st, ppsJudge s false = (edgeCounted s false).setFld Reg.FT_STAT F.FT_STAT_ALIGN_STATE st ∨
    ppsJudge s false = ((edgeCounted s false).setFld Reg.FT_STAT F.FT_STAT_ALIGN_STATE st).evt Reg.FT_EVT F.FT_EVT_OFFSET_ENTER := by
  generalize hst : (if s.fld Reg.FT_STAT F.FT_STAT_ALIGN_STATE = 0 then 3 else s.fld Reg.FT_STAT F.FT_STAT_ALIGN_STATE) = st
  have hjudge : ppsJudge s false = if st ≠ 2 && 3 ≤ s.ppsBad + 1 then
      ((edgeCounted s false).setFld Reg.FT_STAT F.FT_STAT_ALIGN_STATE 2).evt Reg.FT_EVT F.FT_EVT_OFFSET_ENTER
      else (edgeCounted s false).setFld Reg.FT_STAT F.FT_STAT_ALIGN_STATE st := by subst hst; rfl
  rw [hjudge]
  split
  · exact ⟨2, .inr rfl⟩
  · exact ⟨st, .inl rfl⟩

theorem ppsJudge_onlyRegs (s : State) (agree : Bool) : OnlyRegs (edgeCounted s agree) (ppsJudge s agree) := by
  cases agree
  case true => exact ((OnlyRegs.refl _).setFld _ _ _).setFlag _ _ _
  case false =>
    obtain ⟨st, h | h⟩ := ppsJudge_bad s <;> rw [h]
    · exact (OnlyRegs.refl _).setFld _ _ _
    · exact ((OnlyRegs.refl _).setFld _ _ _).evt _ _

section Reads

variable (hwf : Tab.wf regReset s.regs = true)
include hwf

theorem edgeNamed_wf : Tab.wf regReset (edgeNamed s).regs = true := by
  unfold edgeNamed
  split
  · exact State.wr_wf (State.wr_wf (State.wr_wf hwf _ _) _ _) _ _
  · exact evt_wf hwf _ _

theorem rd_edgeNamed_other {a : Nat} (hevt : a ≠ Reg.FT_EVT) (htod : a < Reg.TIM_TOD_IN_LO ∨ Reg.TIM_TOD_IN_AUX < a) :
    (edgeNamed s).rd a = s.rd a := by
  simp only [Reg.TIM_TOD_IN_LO, Reg.TIM_TOD_IN_AUX] at htod
  unfold edgeNamed
  split
  · next b _ =>
    have hlo := State.wr_wf hwf Reg.TIM_TOD_IN_LO (beAt b 4 6 % 4294967296)
    have hhi := State.wr_wf hlo Reg.TIM_TOD_IN_HI (beAt b 4 6 / 4294967296)
    exact ((State.rd_wr_other hhi _ (by simp only [Reg.TIM_TOD_IN_AUX]; omega)).trans
      (State.rd_wr_other hlo _ (by simp only [Reg.TIM_TOD_IN_HI]; omega))).trans (State.rd_wr_other hwf _ (by simp only [Reg.TIM_TOD_IN_LO]; omega))
  · exact rd_evt_other (s := edgeSeen s) hwf hevt

theorem edgeNamed_released : (edgeNamed s).released = s.released := flag_of_rd_eq (rd_edgeNamed_other hwf (by decide) (by decide))

theorem edgeShown_wf (sec : Option Nat) : Tab.wf regReset (edgeShown s sec).regs = true := by
  cases sec
  · exact State.wr_wf hwf _ _
  · exact State.wr_wf (State.wr_wf hwf _ _) _ _

theorem rd_edgeShown_other {a : Nat} (hofs : a ≠ Reg.FT_PPS_OFS) (hsec : a ≠ Reg.FT_PPS_SEC) (sec : Option Nat) : (edgeShown s sec).rd a = s.rd a := by
  cases sec
  · exact State.rd_wr_other hwf _ hofs
  · exact (State.rd_wr_other (State.wr_wf hwf _ _) _ hsec).trans (State.rd_wr_other hwf _ hofs)

theorem rd_edgeShown_ofs (sec : Option Nat) : (edgeShown s sec).rd Reg.FT_PPS_OFS = unsext s.ppsPlace.1 32 := by
  have hself := (State.rd_wr_self hwf Reg.FT_PPS_OFS (unsext s.ppsPlace.1 32)).trans (Nat.mod_eq_of_lt (unsext_lt _))
  cases sec
  · exact hself
  · exact (State.rd_wr_other (State.wr_wf hwf _ _) _ (by decide)).trans hself

theorem rd_edgeShown_sec (v : Nat) : (edgeShown s (some v)).rd Reg.FT_PPS_SEC = unsext (secondsApart v s.ppsPlace) 32 :=
  (State.rd_wr_self (State.wr_wf hwf _ _) _ _).trans (Nat.mod_eq_of_lt (unsext_lt _))

theorem alignState_wf (agree : Bool) (st : Nat) :
    Tab.wf regReset ((edgeCounted s agree).setFld Reg.FT_STAT F.FT_STAT_ALIGN_STATE st).regs = true :=
  setFld_wf (s := edgeCounted s agree) hwf _ _ _

theorem rd_ppsJudge_other {a : Nat} (hstat : a ≠ Reg.FT_STAT) (hevt : a ≠ Reg.FT_EVT) (agree : Bool) : (ppsJudge s agree).rd a = s.rd a := by
  have hshown : ∀ st, ((edgeCounted s agree).setFld Reg.FT_STAT F.FT_STAT_ALIGN_STATE st).rd a = s.rd a :=
    fun st => rd_setFld_other (s := edgeCounted s agree) hwf hstat
  cases agree
  case true => exact (rd_setFld_other (alignState_wf hwf _ _) hstat).trans (hshown 1)
  case false =>
    obtain ⟨st, h | h⟩ := ppsJudge_bad s <;> rw [h]
    · exact hshown st
    · exact (rd_evt_other (alignState_wf hwf _ _) hevt).trans (hshown st)

/-- To judge an edge latches no event but OFFSET_ENTER, and clears none. -/
theorem flag_ppsJudge_todBad (agree : Bool) : (ppsJudge s agree).flag Reg.FT_EVT F.FT_EVT_TOD_BAD = s.flag Reg.FT_EVT F.FT_EVT_TOD_BAD := by
  have hshown : ∀ st, ((edgeCounted s agree).setFld Reg.FT_STAT F.FT_STAT_ALIGN_STATE st).rd Reg.FT_EVT = s.rd Reg.FT_EVT :=
    fun st => rd_setFld_other (s := edgeCounted s agree) hwf (by decide)
  cases agree
  case true => exact flag_of_rd_eq ((rd_setFld_other (alignState_wf hwf _ _) (by decide)).trans (hshown 1))
  case false =>
    obtain ⟨st, h | h⟩ := ppsJudge_bad s <;> rw [h]
    · exact flag_of_rd_eq (hshown st)
    · exact (flag_evt_beside (alignState_wf hwf _ _) (by decide) (by decide)).trans (flag_of_rd_eq (hshown st))

/-- A good edge makes ALIGN_STATE ALIGNED, and the time set (R39). -/
theorem ppsJudge_aligned :
    (ppsJudge s true).fld Reg.FT_STAT F.FT_STAT_ALIGN_STATE = 1 ∧ (ppsJudge s true).flag Reg.FT_STAT F.FT_STAT_TIME_SET = true := by
  have haligned := alignState_wf hwf true 1
  rw [ppsJudge_good]
  exact ⟨(fld_setFld_beside haligned (by decide) (by decide)).trans (State.fld_setFld (s := edgeCounted s true) hwf _ _ _ (by decide)),
    flag_setFlag_self haligned (by decide) rfl true⟩

end Reads

theorem flag_edgeNamed_todBad (hwf : Tab.wf regReset s.regs = true) (h : s.todFor = none) :
    (edgeNamed s).flag Reg.FT_EVT F.FT_EVT_TOD_BAD = true := by
  unfold edgeNamed
  rw [h]
  exact flag_evt_self (s := edgeSeen s) hwf (by decide)

theorem edgeAgrees_of_near (hwf : Tab.wf regReset s.regs = true) {v : Nat}
    (hnear : s.ppsPlace.1.natAbs ≤ max 1 (s.fld Reg.FT_ALIGN_WIN F.FT_ALIGN_WIN_WIN)) (hsame : v = s.ppsPlace.2 / 8000) :
    edgeAgrees s (some v) = true := by
  have hwin : (edgeShown s (some v)).fld Reg.FT_ALIGN_WIN F.FT_ALIGN_WIN_WIN = s.fld Reg.FT_ALIGN_WIN F.FT_ALIGN_WIN_WIN :=
    fld_of_rd_eq (rd_edgeShown_other hwf (by decide) (by decide) _)
  rw [edgeAgrees, hwin, secondsApart_same hsame, decide_eq_true hnear]
  rfl

end Edges

/-- Settles O25: an edge is named, measured and judged in turn, and each of these writes registers of its own. -/
theorem ppsEdgeIsMeasured : Obligations.PpsEdgeIsMeasured := by
  intro s
  refine ⟨fun hclk => exec_eq_next rfl rfl (if_neg (by simp [hclk])), fun hsafe hclk hrel => ⟨ppsEdge s, exec_eq_next rfl rfl (if_pos hclk), ?_⟩,
    fun hwhole _ => ?place⟩
  case place =>
    refine ⟨fun hback => (ppsPlace_whole hwhole).trans (if_pos ?_), fun hfwd => ?_⟩
    · unfold State.sinceSecond; omega
    · have hbehind : ¬ 2 * s.sinceSecond ≤ 1600000000 := by unfold State.sinceSecond; omega
      have hplace := (ppsPlace_whole hwhole).trans (if_neg hbehind)
      exact ⟨congrArg Prod.fst hplace, congrArg Prod.snd hplace⟩
  obtain ⟨-, -, hwf, -, -, -⟩ := hsafe
  have hnamed := edgeNamed_onlyRegs s
  have hshown := edgeShown_onlyRegs (edgeNamed s) s.todSec
  have hjudged := ppsJudge_onlyRegs (edgeShown (edgeNamed s) s.todSec) (edgeAgrees (edgeNamed s) s.todSec)
  have hwfN := edgeNamed_wf hwf
  have hwfS := edgeShown_wf hwfN s.todSec
  have hplace : (edgeNamed s).ppsPlace = s.ppsPlace := ppsPlace_congr hnamed.fn_eq hnamed.ofs_eq
  have hedge := ppsEdge_eq s
  rw [initAlign_released ((edgeNamed_released hwf).trans hrel)] at hedge
  rw [hedge]
  refine ⟨?fn, ?ofs, ?tods, ?distance, fun b hb => ⟨?seconds, fun ⟨hnear, hsame⟩ => ?aligned⟩, fun hnone => ?todBad⟩
  case fn => exact (hjudged.fn_eq.trans hshown.fn_eq).trans hnamed.fn_eq
  case ofs => exact (hjudged.ofs_eq.trans hshown.ofs_eq).trans hnamed.ofs_eq
  case tods => exact (hjudged.tods_eq.trans hshown.tods_eq).trans hnamed.tods_eq
  case distance => rw [rd_ppsJudge_other hwfS (by decide) (by decide), rd_edgeShown_ofs hwfN, hplace]
  case seconds =>
    have hsec : s.todSec = some (beAt b 4 6) := by rw [State.todSec, hb]; rfl
    rw [rd_ppsJudge_other hwfS (by decide) (by decide), hsec, rd_edgeShown_sec hwfN, hplace]
    rfl
  case aligned =>
    have hsec : s.todSec = some (beAt b 4 6) := by rw [State.todSec, hb]; rfl
    have hwin : (edgeNamed s).fld Reg.FT_ALIGN_WIN F.FT_ALIGN_WIN_WIN = s.fld Reg.FT_ALIGN_WIN F.FT_ALIGN_WIN_WIN :=
      fld_of_rd_eq (rd_edgeNamed_other hwf (by decide) (by decide))
    have hagrees : edgeAgrees (edgeNamed s) s.todSec = true := by
      rw [hsec]
      exact edgeAgrees_of_near hwfN (by rwa [hplace, hwin]) (by rwa [hplace])
    rw [hagrees]
    exact ppsJudge_aligned hwfS
  case todBad =>
    rw [flag_ppsJudge_todBad hwfS, flag_of_rd_eq (rd_edgeShown_other hwfN (by decide) (by decide) _)]
    exact flag_edgeNamed_todBad hwf hnone

end Sys2Proof.Machine

namespace Sys2Proof.Machine

/-! A leaf selector bit written over a table that lists it twice (R166). -/

/-- An image with one selector record, of index 0. -/
def oneSelector : Image :=
  { oneGroup with sections := [{ ty := secSREC, inst := 0, patch := false, esize := 12, count := 1, runs := [⟨0, 1, false, List.replicate 12 0⟩], pos := 0 }] }

theorem oneSelector_entry : (oneSelector.entry? secSREC 0 0).isSome = true := by decide

/-- The leaf selector bits written list record 0 twice. The model keeps its tables canonical, keys rising strictly; the statement has no premise
that this one is. -/
def selectorTwice : State := { State.reset with img := some oneSelector, lselW := [(0, true), (0, true)] }

/-- A written 0 is the default value, which takes one entry of the table out; the other one still shows 1. -/
theorem lselWrite_selectorTwice : tabGet false (lselWrite selectorTwice 0 false).lselW 0 = true := by decide

/-- Refutes O26, in its last clause: a leaf selector bit that the table lists twice reads 1 after 0 was written, and the clause, which has no
premise on that table, says that it reads what was written. -/
theorem not_theFrameBoundary : ¬ Obligations.TheFrameBoundary := by
  intro h
  obtain ⟨_, _, _, _, hleaf⟩ := h noInput selectorTwice (by decide)
  obtain ⟨hwritten, _⟩ := hleaf 0 false oneSelector rfl oneSelector_entry
  rw [lselWrite_selectorTwice] at hwritten
  exact absurd hwritten (by decide)

end Sys2Proof.Machine

namespace Sys2Proof.Machine

/-! The start of a step (R42 to R45, R47). -/

section Relabels

variable {s : State}

theorem fn_of_inForce {t : State} (h : t.inForce = s.inForce) : t.fn = s.fn := congrArg InForce.fn h

/-- A unit that is not released drives no mate lane. -/
theorem mateLanes_unreleased (h : s.released = false) : s.mateLanes = [] :=
  List.eq_nil_iff_forall_not_mem.mpr fun l hl => by
    obtain ⟨_, hrun, _⟩ := mem_mateLanes.mp hl
    simp [State.running, h] at hrun

theorem reform_zero (s : State) (l : List Sent) : reform s 0 l = l := by cases l <;> rfl

theorem remark_unreleased (h : s.released = false) : remark s = s := by
  unfold remark
  rw [mateLanes_unreleased h]
  split
  · rw [show 2 * ([] : List Nat).length = 0 from rfl, reform_zero, List.reverse_reverse]
  · rfl

theorem remark_fn (s : State) : (remark s).fn = s.fn := by
  unfold remark
  split <;> rfl

theorem relabelBins_unreleased (h : s.released = false) (fn : Nat) : relabelBins s fn = { s with fn := BitVec.ofNat 48 fn } :=
  if_pos (by simp [h])

theorem relabelBins_fn (s : State) (fn : Nat) : (relabelBins s fn).fn = BitVec.ofNat 48 fn := by
  unfold relabelBins
  split
  · rfl
  · exact (fn_of_inForce (binOpen_inForce _ true _)).trans (fn_of_inForce (binOpen_inForce _ false _))

/-- FN afterwards is the new one, also where it was it before. -/
theorem relabelTo_fn (s : State) (fn : Fn) : (relabelTo s fn.toNat).fn = fn := by
  unfold relabelTo
  split
  · next hsame => exact (BitVec.eq_of_toNat_eq hsame).symm
  · rw [remark_fn, relabelBins_fn, BitVec.ofNat_toNat, BitVec.setWidth_eq]

theorem relabelTo_same (h : s.stepNew = s.fn) : relabelTo s s.stepNew.toNat = s := if_pos (congrArg BitVec.toNat h)

/-- The step of an ARMED unit starts in its frame. -/
theorem relabel_due (hclk : s.clk = true) (hofs : s.ofs = 0) (harmed : s.stepState = 1) (hat : s.stepAt = s.fn) (hown : s.ownStep = true) :
    relabel s = stepStart s := by
  simp [relabel, hclk, hofs, harmed, hat, hown]

theorem stepStart_of_relabelTo {t : State} (h : relabelTo s s.stepNew.toNat = t) :
    stepStart s = if t.stepCyc = 0 then stepDone t else { t.setFld Reg.FT_STAT F.FT_STAT_STEP_STATE 2 with slewMoved := 0 } := by
  rw [← h]
  rfl

theorem stepDone_onlyRegs (s : State) : OnlyRegs s (stepDone s) := (((OnlyRegs.refl s).setFld _ _ _).evt _ _).putRes _ _ _

theorem stepStart_fn (s : State) : (stepStart s).fn = s.stepNew := by
  have hfn : ∀ t : State, (if t.stepCyc = 0 then stepDone t else { t.setFld Reg.FT_STAT F.FT_STAT_STEP_STATE 2 with slewMoved := 0 }).fn = t.fn := by
    intro t
    split
    · exact (stepDone_onlyRegs t).fn_eq
    · exact fn_of_inForce (setFld_inForce t Reg.FT_STAT F.FT_STAT_STEP_STATE 2)
  rw [stepStart_of_relabelTo rfl, hfn, relabelTo_fn]

theorem stepCyc_setGrafts (s : State) (x : List (Nat × GraftX)) : ({ s with grafts := x } : State).stepCyc = s.stepCyc := rfl

theorem regs_setGrafts (s : State) (x : List (Nat × GraftX)) : ({ s with grafts := x } : State).regs = s.regs := rfl

theorem reject1_regs (s : State) (n code detail : Nat) : (reject1 s n code detail).regs = (rejectShown (shadowOff s n) n code detail).regs :=
  regs_setGrafts _ _

theorem rejectShown_onlyRegs (s : State) (n code detail : Nat) : OnlyRegs s (rejectShown s n code detail) :=
  (((OnlyRegs.refl s).setFld _ _ _).putRes _ _ _).evt _ _

theorem shadowOff_onlyRegs (s : State) (n : Nat) : OnlyRegs s (shadowOff s n) := OnlyRegs.ite ((OnlyRegs.refl s).setFlag _ _ _) (OnlyRegs.refl s)

theorem OnlyRegs.stepCyc_eq {s t : State} (h : OnlyRegs s t) : t.stepCyc = s.stepCyc := (congrArg State.stepCyc h).trans rfl

/-- A rejection leaves the step. -/
theorem reject1_stepCyc (s : State) (n code detail : Nat) : (reject1 s n code detail).stepCyc = s.stepCyc := 
  (stepCyc_setGrafts _ _).trans ((shadowOff_onlyRegs s n).trans (rejectShown_onlyRegs _ n code detail)).stepCyc_eq

theorem reject1_wf (hwf : Tab.wf regReset s.regs = true) (n code detail : Nat) : Tab.wf regReset (reject1 s n code detail).regs = true := by
  rw [reject1_regs]
  exact evt_wf (State.wr_wf (setFld_wf (shadowOff_wf hwf) _ _ _) _ _) _ _

theorem rd_shadowOff_other (hwf : Tab.wf regReset s.regs = true) {a : Nat} (ha : a ≠ Reg.TRK_BANK_STAT) (n : Nat) : (shadowOff s n).rd a = s.rd a := by
  unfold shadowOff
  split
  · exact rd_setFld_other hwf ha
  · rfl

theorem reject1_released (hwf : Tab.wf regReset s.regs = true) (n code detail : Nat) : (reject1 s n code detail).released = s.released := by
  have hoff := shadowOff_wf hwf (n := n)
  have hset := setFld_wf hoff (Reg.GRAFT_E_STAT n) F.GRAFT_E_STAT_STATE 6
  refine flag_of_rd_eq ((rd_reject1 s n code detail _).trans ?_)
  exact (((rd_evt_other (State.wr_wf hset _ _) (by decide)).trans (State.rd_wr_other hset _ (by unfold Reg.FT_STAT Reg.GRAFT_E_RES; omega))).trans
    (rd_setFld_other hoff (by unfold Reg.FT_STAT Reg.GRAFT_E_STAT; omega))).trans (rd_shadowOff_other hwf (by decide) n)

theorem rejectAll_stepCyc (s : State) (l : List Nat) (code : Nat) : (rejectAll s l code).stepCyc = s.stepCyc :=
  foldl_leaves State.stepCyc (fun t n => reject1_stepCyc t n code 0) _ s

theorem foldl_reject1_released (hwf : Tab.wf regReset s.regs = true) (code : Nat) (ns : List Nat) :
    (ns.foldl (fun s n => reject1 s n code 0) s).released = s.released := by
  induction ns generalizing s with
  | nil => rfl
  | cons n ns ih => exact (ih (reject1_wf hwf n code 0)).trans (reject1_released hwf n code 0)

/-- Before release a relabel rejects the queued grafts and takes the number; there is no second, no bin and no marker to end. -/
theorem relabelTo_unreleased (hwf : Tab.wf regReset s.regs = true) (hrel : s.released = false) {fn : Fn} (hne : fn ≠ s.fn) :
    relabelTo s fn.toNat = { rejectAll s [2, 3, 4] eLATE with fn := fn } := by
  have hrej : (rejectAll s [2, 3, 4] eLATE).released = false := (foldl_reject1_released hwf eLATE _).trans hrel
  have hsecond : relabelSecond (rejectAll s [2, 3, 4] eLATE) = rejectAll s [2, 3, 4] eLATE := if_neg (by simp [hrej])
  have hmoves : relabelTo s fn.toNat = remark (relabelBins (relabelSecond (rejectAll s [2, 3, 4] eLATE)) fn.toNat) :=
    if_neg fun h => hne (BitVec.eq_of_toNat_eq h)
  rw [hmoves, hsecond, relabelBins_unreleased hrej, BitVec.ofNat_toNat, BitVec.setWidth_eq]
  exact remark_unreleased hrej

end Relabels

/-- Settles O24: the step starts with a relabel, which moves the number or finds it in place. -/
theorem stepRelabelsAtItsFrame : Obligations.StepRelabelsAtItsFrame := by
  intro s hsafe hclk hofs harmed hat hrole hsel
  obtain ⟨-, -, hwf, -, -, -⟩ := hsafe
  have hstart : exec .relabel s = .next (after s (stepStart s)) :=
    exec_eq_next rfl rfl (relabel_due hclk hofs harmed hat (ownStep_of_unmirrored hrole hsel))
  rw [hstart]
  refine ⟨fun hsame hstill => ?still, fun hsame hslew => ?slew, fun hnew hslew hrel => ⟨_, rfl, ?moved⟩, ⟨_, rfl, stepStart_fn s⟩⟩
  case still => rw [stepStart_of_relabelTo (relabelTo_same hsame), if_pos hstill]; rfl
  case slew => rw [stepStart_of_relabelTo (relabelTo_same hsame), if_neg hslew]
  case moved =>
    rw [stepStart_of_relabelTo (relabelTo_unreleased hwf hrel hnew)]
    exact if_neg fun h => hslew ((rejectAll_stepCyc s _ _).symm.trans h)

end Sys2Proof.Machine

namespace Sys2Proof.Machine

/-! Frames of a leaf carrier: alignment, loss, the generic status channel, the end of dQLC (R144 to R156). -/

section CarrierSearch

variable {s : State} {c : Nat} {r : LeafRx}

/-- What shows at offset 0 behind a frame of a carrier (R33, R156). -/
def carrierLate (s : State) : State := lateStat (fun s => leafStat (leafLate s)) s

/-- An alignment word arrives: the trunk output's own bytes show it (R151). -/
def State.awMet (s : State) (c : Nat) (r : LeafRx) : Bool := (s.leafIn c).2 && slice r.oh 0 6 == carAW

/-- The carrier is heard: the stage runs, the image declares the carrier, and its trunk output has a source. -/
structure Heard (s : State) (c : Nat) : Prop where
  up : s.leafUp = true
  declared : s.carDeclared c = true
  fed : (s.leafIn c).1 = true

theorem exec_leafCarrierFrame {t : State} (hc : c < 512) (hoh : r.oh.length = 1024) (hleaves : ∀ x ∈ r.leaves, x.1 < 65536)
    (h : leafCarrier s c r = t) : exec (.leafCarrierFrame c r) s = .next (after s (carrierLate t)) := by
  have hall : r.leaves.all (fun x => decide (x.1 < 65536)) = true := List.all_eq_true.mpr fun x hx => decide_eq_true (hleaves x hx)
  exact exec_eq_next (by simp [Instr.wf, hc, hoh, hall]) rfl (congrArg carrierLate h)

theorem leafCarrier_unheard (h : s.leafUp = false ∨ s.carDeclared c = false ∨ (s.leafIn c).1 = false) : leafCarrier s c r = s :=
  if_pos (by rcases h with h | h | h <;> simp [h])

/-- A carrier in frame after a frame with `miss` errored alignment words in a row. -/
def carKept (s : State) (c pos miss : Nat) : State := s.updCar c fun k => { k with lockPos := pos, miss := miss }

theorem leafCarrier_inFrame (hh : Heard s c) (hin : s.inFrame c = true) : leafCarrier s c r =
    if r.pos ≠ (s.car c).lockPos + carBytes then s
    else if 5 ≤ (if s.awMet c r then 0 else (s.car c).miss + 1) then
      carLost (carKept s c r.pos (if s.awMet c r then 0 else (s.car c).miss + 1)) c
    else carFrame (carKept s c r.pos (if s.awMet c r then 0 else (s.car c).miss + 1)) c r := by
  obtain ⟨hup, hdecl, hfed⟩ := hh
  have hheard : (!s.leafUp || !s.carDeclared c || !(s.leafIn c).1) = false := by simp [hup, hdecl, hfed]
  unfold leafCarrier
  rw [hheard, if_neg (by decide)]
  exact if_pos hin

/-- A carrier in the search after a position that left the candidates `l`. -/
def carSearched (s : State) (c pos : Nat) (l : List FCand) : State :=
  carStat (s.updCar c fun k => { k with cands := l, lockPos := pos, miss := 0 }) c F.LEAF_CAR_STAT_CAND l.length

/-- The MFI of a frame (R144). -/
def rxMfi (r : LeafRx) : Nat := leAt r.oh 6 1 % 64

theorem leafCarrier_search (hh : Heard s c) (hout : s.inFrame c = false) (haw : s.awMet c r = true) {l : List FCand} {found : Bool}
    (hsearch : frameSearch (s.car c).cands carBytes 64 r.pos (rxMfi r) true true = (l, found)) : leafCarrier s c r =
    if found then carFrame (carFound (carSearched s c r.pos l) c (rxMfi r)) c r else carSearched s c r.pos l := by
  obtain ⟨hup, hdecl, hfed⟩ := hh
  have hheard : (!s.leafUp || !s.carDeclared c || !(s.leafIn c).1) = false := by simp [hup, hdecl, hfed]
  have hmet : ((s.leafIn c).2 && slice r.oh 0 6 == carAW) = true := haw
  have hmfi : leAt r.oh 6 1 % 64 = rxMfi r := rfl
  unfold leafCarrier
  rw [hheard, if_neg (by decide), hmet, hmfi]
  simp only [hout, hsearch, Bool.false_eq_true, if_false]
  rfl

/-- The first alignment word opens a candidate. -/
theorem leafCarrier_opens (hh : Heard s c) (hout : s.inFrame c = false) (haw : s.awMet c r = true) (hnone : (s.car c).cands = []) :
    leafCarrier s c r = carSearched s c r.pos [⟨r.pos, 0, rxMfi r⟩] :=
  (leafCarrier_search hh hout haw (found := false) (by rw [hnone]; rfl)).trans (if_neg (by decide))

/-- The third recurrence of a candidate, its count one higher, confirms it. -/
theorem frameSearch_confirms {p n pos cnt period modulus : Nat} (hpos : pos = p + period) (hcnt : cnt = (n + 1) % modulus) :
    frameSearch [⟨p, 2, n⟩] period modulus pos cnt true true = ([], true) := by
  subst hpos hcnt
  simp [frameSearch]

theorem leafCarrier_confirms (hh : Heard s c) (hout : s.inFrame c = false) (haw : s.awMet c r = true) {p n : Nat}
    (hcand : (s.car c).cands = [⟨p, 2, n⟩]) (hpos : r.pos = p + carBytes) (hnext : rxMfi r = (n + 1) % 64) :
    leafCarrier s c r = carFrame (carFound (carSearched s c r.pos []) c (rxMfi r)) c r :=
  (leafCarrier_search hh hout haw (found := true) (by rw [hcand]; exact frameSearch_confirms hpos hnext)).trans (if_pos rfl)

end CarrierSearch

/-! What LEAF_CAR_STAT shows (R175). -/

theorem updCar_regs (s : State) (c : Nat) (f : Car → Car) : (s.updCar c f).regs = s.regs := rfl

theorem updCar_defNow (s : State) (c : Nat) (f : Car → Car) (e b : Nat) : (s.updCar c f).defNow e b = s.defNow e b := rfl

theorem setDef_regs (s : State) (e b : Nat) (on : Bool) : (s.setDef e b on).regs = s.regs := rfl

theorem carLost_regs (s : State) (c : Nat) :
    (carLost s c).regs = (carStat (carStat s c F.LEAF_CAR_STAT_IN_FRAME 0) c F.LEAF_CAR_STAT_RELEASING 0).regs :=
  (updCar_regs _ c _).trans (setDef_regs _ (carKey c) 5 true)

section CarrierStatus

variable {s : State} {c : Nat} {f : Fld} {x : Nat} (hwf : Tab.wf regReset s.regs = true)
include hwf

omit hwf in
theorem carStat_eq (s : State) (c : Nat) (f : Fld) (x : Nat) : carStat s c f x =
    if (s.setFld (Reg.LEAF_CAR_STAT c) f x).rd (Reg.LEAF_CAR_STAT c) = s.rd (Reg.LEAF_CAR_STAT c) then s
    else (s.setFld (Reg.LEAF_CAR_STAT c) f x).mapBit (Reg.LEAF_CAR_CHG 0) c := rfl

theorem carStat_wf (c : Nat) (f : Fld) (x : Nat) : Tab.wf regReset (carStat s c f x).regs = true := by
  have hset := setFld_wf hwf (Reg.LEAF_CAR_STAT c) f x
  rw [carStat_eq]
  split
  · exact hwf
  · exact mapBit_wf hset _ _

theorem rd_carStat (hc : c < 512) (f : Fld) (x : Nat) :
    (carStat s c f x).rd (Reg.LEAF_CAR_STAT c) = (s.setFld (Reg.LEAF_CAR_STAT c) f x).rd (Reg.LEAF_CAR_STAT c) := by
  have hapart : Reg.LEAF_CAR_STAT c ≠ Reg.LEAF_CAR_CHG 0 + 4 * (c / 32) := by
    revert hc
    unfold Reg.LEAF_CAR_STAT Reg.LEAF_CAR_CHG
    omega
  rw [carStat_eq]
  split
  · next hsame => exact hsame.symm
  · exact rd_mapBit_other (setFld_wf hwf _ _ _) hapart

theorem inFrame_carStat_off (hc : c < 512) : (carStat s c F.LEAF_CAR_STAT_IN_FRAME 0).inFrame c = false :=
  (flag_of_rd_eq (rd_carStat hwf hc _ _)).trans (flag_setFlag_self hwf (by decide) rfl false)

theorem releasing_carStat_off (hc : c < 512) : (carStat s c F.LEAF_CAR_STAT_RELEASING 0).releasing c = false :=
  (flag_of_rd_eq (rd_carStat hwf hc _ _)).trans (flag_setFlag_self hwf (by decide) rfl false)

theorem inFrame_carStat_releasing (hc : c < 512) (x : Nat) : (carStat s c F.LEAF_CAR_STAT_RELEASING x).inFrame c = s.inFrame c :=
  (flag_of_rd_eq (rd_carStat hwf hc _ _)).trans (flag_setFld_beside hwf (by decide) (by decide))

/-- A carrier that leaves in-frame shows it, and no longer releases (R151, R155). -/
theorem carLost_shows (hc : c < 512) : (carLost s c).inFrame c = false ∧ (carLost s c).releasing c = false := by
  have hout := carStat_wf hwf c F.LEAF_CAR_STAT_IN_FRAME 0
  have hstat : (carLost s c).rd (Reg.LEAF_CAR_STAT c) = _ := rd_of_regs (carLost_regs s c) _
  exact ⟨(flag_of_rd_eq hstat).trans ((inFrame_carStat_releasing hout hc 0).trans (inFrame_carStat_off hwf hc)),
    (flag_of_rd_eq hstat).trans (releasing_carStat_off hout hc)⟩

end CarrierStatus

section CarrierDefects

theorem testBit_setBit_self (v i : Nat) : bitAt (setBit v i) i = true := (bitAt_eq_testBit _ _).trans (setBit_testBit_self v i)

/-- A defect made present is active (R75). -/
theorem defNow_setDef_on (s : State) (e b : Nat) : (s.setDef e b true).defNow e b = true := by
  have hput : ((s.dfs e).put b true (s.ofs == 0) (s.ofs == 0)).cur = setBit (s.dfs e).cur b := rfl
  have hbit : bitAt ((s.dfs e).put b true (s.ofs == 0) (s.ofs == 0)).cur b = true := hput ▸ testBit_setBit_self _ b
  have hset : (s.dfs e).put b true (s.ofs == 0) (s.ofs == 0) ≠ {} := fun h => by
    rw [h] at hbit
    simp [bitAt] at hbit
  have hdfs : (s.setDef e b true).dfs e = (s.dfs e).put b true (s.ofs == 0) (s.ofs == 0) :=
    tabGet_tabUpd_self (f := fun d : Def => d.put b true (s.ofs == 0) (s.ofs == 0)) (k := e) (m := s.defs) hset
  rw [State.defNow, hdfs, hbit]

theorem carLost_dLOF (s : State) (c : Nat) : (carLost s c).defNow (carKey c) 5 = true :=
  (updCar_defNow _ c _ _ 5).trans (defNow_setDef_on _ (carKey c) 5)

theorem dqlcClear_due {s : State} {c : Nat} (hon : s.defNow (carKey c) 12 = true) (hage : (s.car c).qlAge + 8000 ≤ s.elapsed) :
    dqlcClear s c = s.setDef (carKey c) 12 false := if_pos (by simp [hon, hage])

theorem dqlcClear_early {s : State} {c : Nat} (h : s.defNow (carKey c) 12 = false ∨ s.elapsed < (s.car c).qlAge + 8000) : dqlcClear s c = s :=
  if_neg (by rcases h with h | h <;> simp [h])

theorem mem_leafLate (s : State) (c : Nat) :
    c ∈ (leafLate s).leafW.live ↔ c ∈ s.leafW.live ∧ s.releasing c = true ∧ s.carSf c State.defSmp = false := by
  simp [leafLate]

/-- The statuses of a frame with MFI `n` filed with the FN of capture (R147). -/
def gscFiled (s : State) (c n : Nat) (oh : List Byte) : List (Nat × Gsc) :=
  Tab.setRange (fun _ => ({} : Gsc)) s.gscRx (65536 * c + 1024 * n) (List.zipWith (fun v (o : Gsc) => ⟨v, s.fnN, s.now, o.st, o.fn⟩)
    (gscStatuses oh) (Tab.getRange (fun _ => ({} : Gsc)) s.gscRx (65536 * c + 1024 * n) 1024))

/-- The filter of bad GCRCs judges a frame (R152). -/
def gscJudged (s : State) (c : Nat) (good : Bool) : State :=
  (s.updCar c fun k => { k with gcrc := k.gcrc.feed 8 8 (!good) }).setDef (carKey c) 11
    ((s.updCar c fun k => { k with gcrc := k.gcrc.feed 8 8 (!good) }).car c).gcrc.on

theorem gscJudged_regs (s : State) (c : Nat) (good : Bool) : (gscJudged s c good).regs = s.regs := rfl

theorem gscJudged_gscRx (s : State) (c : Nat) (good : Bool) : (gscJudged s c good).gscRx = s.gscRx := rfl

theorem carGsc_good {s : State} {c n : Nat} {oh : List Byte} (h : crc16 (slice oh 512 512) = beAt oh 12 2) :
    carGsc s c n oh = gscJudged { s with gscRx := gscFiled s c n oh } c true := by
  have hgood : (crc16 (slice oh 512 512) == beAt oh 12 2) = true := beq_iff_eq.mpr h
  unfold gscFiled carGsc
  rw [hgood, Nat.mul_comm 65536 c]
  rfl

theorem carGsc_bad {s : State} {c n : Nat} {oh : List Byte} (h : crc16 (slice oh 512 512) ≠ beAt oh 12 2) :
    carGsc s c n oh = gscJudged ((s.evt Reg.LEAF_EVT F.LEAF_EVT_GSC_CRC).count 0x63 c 1) c false := by
  have hbad : (crc16 (slice oh 512 512) == beAt oh 12 2) = false := beq_eq_false_iff_ne.mpr h
  unfold carGsc
  rw [hbad]
  rfl

theorem OnlyRegs.gscRx_eq {s t : State} (h : OnlyRegs s t) : t.gscRx = s.gscRx := (congrArg State.gscRx h).trans rfl

end CarrierDefects

/-- Settles O45: the frame of a carrier that is heard takes one branch of `leafCarrier`, in frame or in the search. -/
theorem leafCarrierFrames : Obligations.LeafCarrierFrames := by
  refine ⟨fun c r s hc hoh hleaves => ⟨fun h => exec_leafCarrierFrame hc hoh hleaves (leafCarrier_unheard h),
      fun aw hup hdecl hfed haw => ⟨fun hin => ?inFrame, fun hout hmet => ?search⟩⟩,
    fun s => ⟨rfl, mem_leafLate s⟩, fun c s hc hwf => ?lost,
    fun c n oh s _ _ => ⟨fun h => ⟨_, carGsc_good h, gscJudged_regs _ c true, gscJudged_gscRx _ c true⟩,
      fun h => ⟨_, carGsc_bad h, (gscJudged_gscRx _ c false).trans (((OnlyRegs.refl s).evt _ _).count _ _ _).gscRx_eq, gscJudged_regs _ c false⟩⟩,
    fun c s hc => ⟨fun hon hage => exec_eq_next (decide_eq_true hc) rfl (dqlcClear_due hon hage),
      fun h => exec_eq_next (decide_eq_true hc) rfl (dqlcClear_early h)⟩⟩
  case lost =>
    obtain ⟨hout, hidle⟩ := carLost_shows hwf hc
    exact ⟨hout, hidle, carLost_dLOF s c⟩
  case inFrame =>
    have hframe := leafCarrier_inFrame (r := r) ⟨hup, hdecl, hfed⟩ hin
    have hmet : s.awMet c r = aw := haw
    rw [hmet] at hframe
    refine ⟨fun hoff => exec_leafCarrierFrame hc hoh hleaves (hframe.trans (if_pos hoff)), fun hplace => ?_⟩
    have hread := hframe.trans (if_neg (not_not_intro hplace))
    refine ⟨fun hon => exec_leafCarrierFrame hc hoh hleaves ?met, fun hoff hfew => exec_leafCarrierFrame hc hoh hleaves ?errored,
      fun hoff hmany => exec_leafCarrierFrame hc hoh hleaves ?fifth⟩
    case met =>
      simp only [hon, if_true] at hread
      exact hread.trans (if_neg (by decide))
    case errored =>
      simp only [hoff, Bool.false_eq_true, if_false] at hread
      exact hread.trans (if_neg (by omega))
    case fifth =>
      simp only [hoff, Bool.false_eq_true, if_false] at hread
      exact hread.trans (if_pos (by omega))
  case search =>
    have hheard : Heard s c := ⟨hup, hdecl, hfed⟩
    exact ⟨fun hnone => exec_leafCarrierFrame hc hoh hleaves (leafCarrier_opens hheard hout (haw.trans hmet) hnone),
      fun p n hcand hpos hnext => exec_leafCarrierFrame hc hoh hleaves (leafCarrier_confirms hheard hout (haw.trans hmet) hcand hpos hnext)⟩

end Sys2Proof.Machine

namespace Sys2Proof.Machine

/-! Seconds: their class, their end, their commitment to availability and bins (R90, R91). -/

section Seconds

theorem classify_ses (blk err : Nat) (dfct discard : Bool) :
    (classify blk err dfct discard).2.1 = true ↔ dfct = true ∨ (0 < blk ∧ (15 * blk ≤ 100 * err ∧ discard = false)) := by
  cases discard
  · simp [classify]
  · simp [classify]
    omega

/-- Availability turns when ten seconds in a row speak against it (R91). -/
theorem availNext_eq (avail : Bool) (l : List Sec) (ses : Sec → Bool) :
    availNext avail (l.map ses) = if avail = true then !(l.all ses) else l.all fun y => !ses y := by
  have hall : (l.map ses).all id = l.all ses := by rw [List.all_map]; rfl
  have hnone : (l.map ses).all not = l.all fun y => !ses y := by rw [List.all_map]; rfl
  unfold availNext
  rw [hall, hnone]
  generalize l.all ses = all
  generalize (l.all fun y => !ses y) = none
  revert avail all none
  decide

variable {p : Pm} {g : Bool} {x j : Sec} {rest : List Sec}

/-- An entity whose second ended: the next one starts from nothing. -/
def secCleared (p : Pm) : Pm :=
  { p with blk := 0, err := 0, ferr := 0, neDef := false, feDef := false, discardNe := false, discardFe := false, slips := 0, conflicts := 0 }

theorem secEnd_few (h : p.secs.length < 9) : secEnd p g x = { secCleared p with secs := p.secs ++ [x] } :=
  if_pos (by rw [List.length_append, List.length_singleton]; omega)

/-- The bins of a series after a second of `j`'s bin is committed with increments `inc`. -/
def binsAfter (j : Sec) (q : Nat) (inc : List Nat) (bs : List Bin) : List Bin := bs.map fun b => if b.serial = q then b.add inc j.frames else b

/-- With ten seconds uncommitted, the first of them is committed (R91). -/
theorem secEnd_full (hl : p.secs ++ [x] = j :: rest) (h : 9 ≤ p.secs.length) : secEnd p g x =
    { secCleared p with
      secs := rest
      neAvail := availNext p.neAvail ((j :: rest).map (·.neSes))
      feAvail := availNext p.feAvail ((j :: rest).map (·.feSes))
      bins15 := binsAfter j j.bin15 (secInc g j (availNext p.neAvail ((j :: rest).map (·.neSes))) (availNext p.feAvail ((j :: rest).map (·.feSes)))) p.bins15
      bins24 := binsAfter j j.bin24 (secInc g j (availNext p.neAvail ((j :: rest).map (·.neSes))) (availNext p.feAvail ((j :: rest).map (·.feSes)))) p.bins24 } := by
  have hlen : ¬ (j :: rest).length < 10 := by
    rw [← hl, List.length_append, List.length_singleton]
    omega
  unfold secEnd
  rw [hl]
  exact if_neg hlen

theorem mem_binsAfter_of_bin {q : Nat} {inc : List Nat} {b : Bin} {bs : List Bin} (hb : b ∈ bs) (hq : b.serial = q) :
    b.add inc j.frames ∈ binsAfter j q inc bs := List.mem_map.mpr ⟨b, hb, if_pos hq⟩

theorem mem_binsAfter_of_other {q : Nat} {inc : List Nat} {b : Bin} {bs : List Bin} (hb : b ∈ bs) (hq : b.serial ≠ q) :
    b ∈ binsAfter j q inc bs := List.mem_map.mpr ⟨b, hb, if_neg hq⟩

end Seconds

section SecondEnd

variable {s : State}

theorem secondEnd_early (h : s.released = false ∨ s.ofs ≠ 0 ∨ s.fnN % 8000 ≠ 0 ∨ s.elapsed ≤ s.secStart) : secondEnd s = s :=
  if_neg (by rcases h with h | h | h | h <;> simp [h])

theorem secondEnd_due (hrel : s.released = true) (hofs : s.ofs = 0) (hfn : s.fnN % 8000 = 0) (hsec : s.secStart < s.elapsed) :
    secondEnd s = shoot { leafSeconds (lineSeconds (settle s)) with secStart := s.elapsed } := if_pos (by simp [hrel, hofs, hfn, hsec])

theorem settle_noImage (h : s.img = none) : settle s = { s with smpDue := false } := by
  unfold settle
  split
  · have hlines : lineSamples { s with smpDue := false } = { s with smpDue := false } := by
      rw [lineSamples, show ({ s with smpDue := false } : State).img = none from h]
    rw [hlines, show ({ s with smpDue := false } : State).img = none from h]
  · next hdue => rw [← Bool.eq_false_iff.mpr hdue]

theorem lineSeconds_noImage (h : s.img = none) : lineSeconds s = s := by rw [lineSeconds, h]

theorem leafSeconds_noImage (h : s.img = none) : leafSeconds s = s := by rw [leafSeconds, h]

theorem pmShoot_idle (h : s.pmReq = none) : pmShoot s = s := by rw [pmShoot, h, Option.map_none, ← h]

theorem leafShoot_idle (h : s.leafReq = none) : leafShoot s = s := by rw [leafShoot, h, Option.map_none, ← h]

theorem shoot_idle (hline : s.pmReq = none) (hleaf : s.leafReq = none) : shoot s = s := by rw [shoot, pmShoot_idle hline, leafShoot_idle hleaf]

/-- Without an image there is no entity whose second ends. -/
theorem secondEnd_noImage (hrel : s.released = true) (hofs : s.ofs = 0) (hfn : s.fnN % 8000 = 0) (hsec : s.secStart < s.elapsed)
    (himg : s.img = none) (hline : s.pmReq = none) (hleaf : s.leafReq = none) :
    secondEnd s = { s with secStart := s.elapsed, smpDue := false } := by
  have hnone : ({ s with smpDue := false } : State).img = none := himg
  rw [secondEnd_due hrel hofs hfn hsec, settle_noImage himg, lineSeconds_noImage hnone, leafSeconds_noImage hnone]
  exact shoot_idle hline hleaf

end SecondEnd

/-! The start of bins, and closures (R48, R93). -/

section Bins

variable {s t u : State}

/-- Only the accumulated counts of entities differ. -/
def OnlyPm (s t : State) : Prop := ∃ pm, t = { s with pm := pm }

theorem OnlyPm.foldl_updPm (s : State) (f : Nat → Pm → Pm) (l : List Nat) : OnlyPm s (l.foldl (fun t e => t.updPm e (f e)) s) := by
  induction l generalizing s with
  | nil => exact ⟨s.pm, rfl⟩
  | cons e l ih =>
    obtain ⟨pm, h⟩ := ih (s.updPm e (f e))
    exact ⟨pm, h⟩

/-- A series whose next bin opens at this boundary (R93). -/
def nextBin (s : State) (x : Series) (marks : Nat) : Series :=
  { x with serial := x.serial + 1, first := s.fnN, marks := marks, waiting := x.waiting ++ [(x.serial, s.elapsed)] }

theorem binOpen_quarter (s : State) (marks : Nat) : OnlyPm { s with s15 := nextBin s s.s15 marks } (binOpen s false marks) :=
  OnlyPm.foldl_updPm _ _ _

theorem binOpen_day (s : State) (marks : Nat) : OnlyPm { s with s24 := nextBin s s.s24 marks } (binOpen s true marks) :=
  OnlyPm.foldl_updPm _ _ _

theorem binMark_day (s : State) (marks : Nat) : OnlyPm { s with s24 := { s.s24 with marks := Nat.lor s.s24.marks marks } } (binMark s true marks) :=
  OnlyPm.foldl_updPm _ _ _

/-- The 24-hour series after a 15-minute boundary, where a changed DAY_SHIFT comes into force (R48). -/
def shifted (s : State) : Series :=
  if s.s24.shift = s.dayShift then s.s24 else { s.s24 with marks := Nat.lor s.s24.marks 1, shift := s.dayShift }

theorem binMark_shift (s : State) (d : Nat) : OnlyPm { s with s24 := { s.s24 with marks := Nat.lor s.s24.marks 1, shift := d } }
    { binMark s true 1 with s24 := { (binMark s true 1).s24 with shift := d } } := by
  obtain ⟨pm, hmark⟩ := binMark_day s 1
  generalize binMark s true 1 = t at hmark ⊢
  subst hmark
  exact ⟨pm, rfl⟩

theorem bin15Start_due (hrel : s.released = true) (hofs : s.ofs = 0) (hfn : s.fnN % 7200000 = 0) (hnew : s.s15.first ≠ s.fnN) :
    OnlyPm { s with s15 := nextBin s s.s15 0, s24 := shifted s } (bin15Start s) := by
  have hstart : bin15Start s = (let t := binOpen s false 0
      if t.s24.shift = t.dayShift then t else { binMark t true 1 with s24 := { (binMark t true 1).s24 with shift := t.dayShift } }) :=
    if_pos (by simp [hrel, hofs, is15, hfn, hnew])
  obtain ⟨pm, hopen⟩ := binOpen_quarter s 0
  rw [hstart]
  generalize binOpen s false 0 = t at hopen
  subst hopen
  show OnlyPm { s with s15 := nextBin s s.s15 0, s24 := shifted s } (if s.s24.shift = s.dayShift then _ else _)
  unfold shifted
  split
  · exact ⟨pm, rfl⟩
  · obtain ⟨pm', hmark⟩ := binMark_shift { s with s15 := nextBin s s.s15 0, pm := pm } s.dayShift
    exact ⟨pm', hmark⟩

theorem bin24Start_due (hrel : s.released = true) (hofs : s.ofs = 0) (hfn : s.fnN % 691200000 = 7200000 * s.s24.shift) (hnew : s.s24.first ≠ s.fnN) :
    OnlyPm { s with s24 := nextBin s s.s24 0 } (bin24Start s) := by
  have hstart : bin24Start s = binOpen s true 0 := if_pos (by simp [hrel, hofs, is24, hfn, hnew])
  rw [hstart]
  exact binOpen_day s 0

end Bins

section Closures

variable {s : State}

/-- A series without a closure 72,000 frames old writes none. -/
theorem closeDue_none (day : Bool) (h : ∀ w ∈ (if day then s.s24 else s.s15).waiting, s.elapsed < w.2 + 72000) : closeDue s day = s := by
  have hdue : ((if day then s.s24 else s.s15).waiting.filter fun w => decide (w.2 + 72000 ≤ s.elapsed)) = [] :=
    List.filter_eq_nil_iff.mpr fun w hw => by simpa using h w hw
  have hkept : ∀ l : List (Nat × Nat), (l.filter fun w => !([] : List (Nat × Nat)).contains w) = l :=
    fun l => List.filter_eq_self.mpr fun _ _ => rfl
  unfold closeDue
  simp only [hdue, List.foldl_nil, hkept]
  cases day <;> rfl

theorem closureWrite_none (h : ∀ w ∈ s.s15.waiting ++ s.s24.waiting, s.elapsed < w.2 + 72000) : closureWrite s = s := by
  have hquarter := closeDue_none false fun w hw => h w (List.mem_append_left _ hw)
  rw [closureWrite, hquarter]
  exact closeDue_none true fun w hw => h w (List.mem_append_right _ hw)

/-- The records of a closure are written to memory, out of the accumulated counts; the series stay. -/
theorem closeWrite_series (s : State) (day : Bool) (q : Nat) : ((closeWrite s day q).s15, (closeWrite s day q).s24) = (s.s15, s.s24) := by
  refine foldl_leaves (fun t => (t.s15, t.s24)) (fun t k => ?_) _ s
  dsimp only
  split <;> rfl

/-- One closure of the 15-minute series is due: its records are written, and nothing waits any more. -/
theorem closureWrite_one {q e : Nat} (hquarter : s.s15.waiting = [(q, e)]) (hday : s.s24.waiting = []) (hdue : e + 72000 ≤ s.elapsed) :
    closureWrite s = { closeWrite s false q with s15 := { (closeWrite s false q).s15 with waiting := [] } } := by
  obtain ⟨hs15, hs24⟩ := Prod.mk.inj (closeWrite_series s false q)
  have hdues : (s.s15.waiting.filter fun w => decide (w.2 + 72000 ≤ s.elapsed)) = [(q, e)] := by simp [hquarter, hdue]
  have hwrite : closeDue s false = { closeWrite s false q with s15 := { (closeWrite s false q).s15 with waiting := [] } } := by
    have hleft : ((closeWrite s false q).s15.waiting.filter fun w => !([(q, e)] : List (Nat × Nat)).contains w) = [] := by simp [hs15, hquarter]
    unfold closeDue
    simp only [Bool.false_eq_true, if_false, hdues, List.foldl_cons, List.foldl_nil, hleft]
  rw [closureWrite, hwrite]
  refine closeDue_none true fun w hw => ?_
  have hnone : w ∈ (closeWrite s false q).s24.waiting := hw
  rw [hs24, hday] at hnone
  exact absurd hnone List.not_mem_nil

end Closures

section LineRequests

variable {s : State} {r : RdReq} {m : Image} {e k : Nat} {b : List Byte}

theorem exec_pmRdReq {t : State} (he : e < 262144) (hk : k < 4) (hs : s.csrAnswers Reg.PM_RD_REQ = true) (h : pmRdReq s e k = t) :
    exec (.pmRdReq e k) s = .next (after s t) :=
  exec_host hs ((Bool.and_eq_true_iff ..).mpr ⟨decide_eq_true he, decide_eq_true hk⟩) rfl h

theorem pmRdReq_free (hv : s.valid Reg.PM_RES = false) (hq : s.pmReq = none) : pmRdReq s e k = { s with pmReq := some ⟨e, k, s.elapsed, none⟩ } :=
  if_neg (by simp [hv, hq])

theorem pmRdReq_busy (h : s.valid Reg.PM_RES = true ∨ s.pmReq.isSome = true) : pmRdReq s e k = s.evt Reg.PM_EVT F.PM_EVT_REQ_IGNORED :=
  if_pos ((Bool.or_eq_true_iff ..).mpr h)

theorem pmShoot_eq (hq : s.pmReq = some r) : pmShoot s =
    { s with pmReq := some (r.take s r.ent ((s.img.map (·.pmLine)).any (·.contains r.ent)) (s.nextSeq Reg.PM_RES)) } := by
  rw [pmShoot, hq]
  rfl

theorem pmBoundary_request (hq : s.pmReq = some r) : pmBoundary s = pmShoot (s.pendRes Reg.PM_RES) := if_pos (Option.isSome_of_eq_some hq)

theorem pmSnapshot_pending (hq : s.pmReq = some r) (hb : r.shot = some b) (hp : s.isPending Reg.PM_RES = true) :
    pmSnapshot s = putShot { s with pmReq := none } Reg.PM_RES (Reg.PM_RES_DATA 0) b := by
  have hshot : s.pmReq.bind (·.shot) = some b := by rw [hq, Option.bind_some, hb]
  rw [pmSnapshot, hshot]
  exact if_pos hp

end LineRequests

/-- Settles O27: seconds by `secEnd`, bins by `binOpen`, closures by `closeDue`, requests as those of leaf entities. -/
theorem binsAndClosures : Obligations.BinsAndClosures := by
  refine ⟨fun s => ⟨fun h => exec_eq_next rfl rfl (secondEnd_early h), fun hrel hofs hfn hsec => ⟨fun himg hline hleaf => ?noImage, ?second⟩⟩,
    classify_ses, fun p g x j rest hl => ⟨fun hfew => ?few, fun hfull => ?full⟩, fun s hrel hofs => ⟨fun hfn hnew => ?quarter, fun hfn hnew => ?day⟩,
    fun s h => exec_eq_next rfl rfl (closureWrite_none h), fun q e s hquarter hday hdue => exec_eq_next rfl rfl (closureWrite_one hquarter hday hdue),
    fun e k s he hk hs => ⟨fun hv hq => exec_pmRdReq he hk hs (pmRdReq_free hv hq), fun hbusy => exec_pmRdReq he hk hs (pmRdReq_busy hbusy)⟩,
    fun r m s hq hofs hnext hm => ?boundary,
    fun r b s hq hb hp => exec_eq_next rfl rfl ((pmSnapshot_pending hq hb hp).trans (putShot_eq _ _ _ b))⟩
  case noImage => exact exec_eq_next rfl rfl (secondEnd_noImage hrel hofs hfn hsec himg hline hleaf)
  case second => exact exec_eq_next rfl rfl (secondEnd_due hrel hofs hfn hsec)
  case few =>
    rw [secEnd_few hfew]
    exact ⟨rfl, rfl, rfl⟩
  case full =>
    rw [secEnd_full hl hfull]
    exact ⟨rfl, availNext_eq _ _ _, availNext_eq _ _ _, fun b hb hq => mem_binsAfter_of_bin hb hq, fun b hb hq => mem_binsAfter_of_other hb hq⟩
  case quarter =>
    obtain ⟨pm, h⟩ := bin15Start_due hrel hofs hfn hnew
    exact ⟨_, exec_eq_next rfl rfl h, rfl, rfl, rfl, rfl, rfl, rfl⟩
  case day =>
    obtain ⟨pm, h⟩ := bin24Start_due hrel hofs hfn hnew
    exact ⟨_, exec_eq_next rfl rfl h, rfl, rfl, rfl, rfl, rfl⟩
  case boundary =>
    have hpend : (s.pendRes Reg.PM_RES).pmReq = some r := hq
    rw [pmBoundary_request hq, pmShoot_eq hpend, RdReq.take_at_boundary (s := s.pendRes Reg.PM_RES) hofs hnext hm _ (·.pmLine)]

end Sys2Proof.Machine

namespace Sys2Proof.Machine

/-! Received frames: the blocks they count, and the filters they feed (R62, R65, R76, R90). -/

/-! Filters (R76). -/

section Filters

variable {m n : Nat} {x : Bool}

/-- A filter that was fed is not in its initial state. -/
theorem Flt.feed_ne_default (hm : 0 < m) (hn : 0 < n) (f : Flt) : f.feed m n x ≠ {} := by
  cases x
  · intro h
    have hzeros : min (f.zeros + 1) n = 0 := congrArg Flt.zeros h
    omega
  · intro h
    have hones : min (f.ones + 1) m = 0 := congrArg Flt.ones h
    omega

theorem ohx_updOh_bdi (s : State) (e : Nat) :
    ((s.updOh e fun o => { o with bdi := o.bdi.feed 5 5 x }).ohx e).bdi = (s.ohx e).bdi.feed 5 5 x := by
  have hfed : ({ s.ohx e with bdi := (s.ohx e).bdi.feed 5 5 x } : Oh) ≠ {} :=
    fun h => Flt.feed_ne_default (by decide) (by decide) _ (congrArg Oh.bdi h)
  exact congrArg Oh.bdi (tabGet_tabUpd_self (f := fun o : Oh => { o with bdi := o.bdi.feed 5 5 x }) (k := e) (m := s.oh) hfed)

theorem bdiAccept_eq (s : State) (e b : Nat) (x : Bool) : bdiAccept s e b x =
    (s.updOh e fun o => { o with bdi := o.bdi.feed 5 5 x }).setDef e b ((s.ohx e).bdi.feed 5 5 x).on := by
  rw [← ohx_updOh_bdi]
  rfl

/-- The fifth value in a row sets the filter to it. -/
theorem Flt.feed_fifth {f : Flt} (h : (if x then f.ones else f.zeros) = 4) : (f.feed 5 5 x).on = x := by
  cases x
  · have hzeros : f.zeros = 4 := h
    simp [Flt.feed, hzeros]
  · have hones : f.ones = 4 := h
    simp [Flt.feed, hones]

theorem Flt.feed_before {f : Flt} (h : (if x then f.ones else f.zeros) < 4) : (f.feed 5 5 x).on = f.on := by
  cases x
  · have hzeros : f.zeros < 4 := h
    simp [Flt.feed, show f.zeros + 1 < 5 by omega]
  · have hones : f.ones < 4 := h
    simp [Flt.feed, show ¬ 5 ≤ f.ones + 1 by omega]

end Filters

/-! The tables of slices and of counted blocks, and what leaves them. -/

section Tables

/-- The receive side of the slices, and the blocks counted. -/
def State.rxTables (s : State) : List (Nat × Slice) × List (Nat × Pm) := (s.slices, s.pm)

variable {s t : State} {v e : Nat}

theorem setDef_rxTables (s : State) (e b : Nat) (on : Bool) : (s.setDef e b on).rxTables = s.rxTables := rfl

theorem updOh_rxTables (s : State) (e : Nat) (f : Oh → Oh) : (s.updOh e f).rxTables = s.rxTables := rfl

theorem memPut_rxTables (s : State) (k : Nat) (l : List Byte) : (s.memPut k l).rxTables = s.rxTables := rfl

theorem updOdu_rxTables (s : State) (i : Nat) (f : Odu → Odu) : (s.updOdu i f).rxTables = s.rxTables := rfl

theorem setGcc_rxTables (s : State) (x : List (Nat × Gcc)) : ({ s with gcc := x } : State).rxTables = s.rxTables := rfl

theorem OnlyRegs.rxTables_eq (h : OnlyRegs s t) : t.rxTables = s.rxTables := (congrArg State.rxTables h).trans rfl

theorem queDrop_rxTables (s : State) (q n : Nat) : (s.queDrop q n).rxTables = s.rxTables :=
  ((((OnlyRegs.refl s).incPair _ _ _ _).evt _ _).count _ _ _).rxTables_eq

theorem post_rxTables (s : State) (q : Nat) (rec : List Byte) : (s.post q rec).rxTables = s.rxTables := by
  unfold State.post
  split
  · split
    · rfl
    · dsimp only
      split
      · exact queDrop_rxTables s q 1
      · rfl
  · rfl

theorem postRole_rxTables (s : State) (role quad chan port : Nat) (rec : List Byte) :
    (s.postRole role quad chan port rec).rxTables = s.rxTables := by
  unfold State.postRole
  split
  · exact post_rxTables s _ rec
  · rfl

theorem bdiAccept_rxTables (s : State) (e b : Nat) (x : Bool) : (bdiAccept s e b x).rxTables = s.rxTables := by
  rw [bdiAccept_eq, setDef_rxTables, updOh_rxTables]

theorem biaeAccept_rxTables (s : State) (e b bei : Nat) : (biaeAccept s e b bei).rxTables = s.rxTables :=
  (setDef_rxTables _ e b _).trans (updOh_rxTables s e _)

theorem statAccept_rxTables (s : State) (e x : Nat) (codes : List (Nat × Nat)) : (statAccept s e x codes).rxTables = s.rxTables := by
  unfold statAccept
  extract_lets u
  have hcodes : ∀ a, (codes.foldl (fun s c => s.setDef e c.1 (a == c.2)) u).rxTables = u.rxTables :=
    fun a => foldl_leaves State.rxTables (fun w c => setDef_rxTables w e c.1 (a == c.2)) codes u
  split
  · exact (hcodes _).trans (updOh_rxTables s e _)
  · exact updOh_rxTables s e _

theorem ttiByte_rxTables (s : State) (e b mfas : Nat) (x : Byte) : (ttiByte s e b mfas x).rxTables = s.rxTables := by
  unfold ttiByte
  extract_lets o m buf had run u chg w z
  split
  · split
    · exact (setDef_rxTables z e b _).trans ((memPut_rxTables w _ _).trans ((updOh_rxTables u e _).trans (updOh_rxTables s e _)))
    · exact updOh_rxTables s e _
  · exact updOh_rxTables s e _

theorem gccFull_rxTables (port ch n : Nat) (s : State) : (gccFull port ch n s).rxTables = s.rxTables := by
  induction n generalizing s with
  | zero => rfl
  | succ n ih =>
    unfold gccFull
    extract_lets x u
    split
    · rfl
    · exact (ih _).trans ((setGcc_rxTables u _).trans (postRole_rxTables s _ _ _ _ _))

theorem gccCapture_rxTables (s : State) (port ch : Nat) (bytes : List Byte) : (gccCapture s port ch bytes).rxTables = s.rxTables := by
  unfold gccCapture
  split
  · rfl
  · exact (gccFull_rxTables port ch _ _).trans (setGcc_rxTables s _)

theorem pmx_updPm_self {f : Pm → Pm} (h : f (s.pmx e) ≠ {}) : (s.updPm e f).pmx e = f (s.pmx e) := tabGet_tabUpd_self h

theorem pmx_updPm_other {d : Nat} {f : Pm → Pm} (h : f (s.pmx e) ≠ {}) (hd : d ≠ e) : (s.updPm e f).pmx d = s.pmx d := tabGet_tabUpd_other h hd

/-- A block is a change of its entity's counts: one block, errored at the near end or the far end (R90). -/
theorem countBlock_eq (s : State) (e : Nat) (err ferr : Bool) : ∃ f : Pm → Pm, countBlock s e err ferr = s.updPm e f ∧
    ∀ p, (f p).blk = p.blk + 1 ∧ (f p).err = p.err + nat01 err ∧ (f p).ferr = p.ferr + nat01 ferr := by
  refine ⟨_, rfl, fun p => ?_⟩
  dsimp only
  split <;> exact ⟨rfl, rfl, rfl⟩

theorem ne_default_of_blk {p : Pm} {n : Nat} (h : p.blk = n + 1) : p ≠ {} := fun h0 => Nat.succ_ne_zero n (h.symm.trans (congrArg Pm.blk h0))

theorem pmx_countBlock (s : State) (e : Nat) (err ferr : Bool) :
    ((countBlock s e err ferr).pmx e).blk = (s.pmx e).blk + 1 ∧ ((countBlock s e err ferr).pmx e).err = (s.pmx e).err + nat01 err ∧
      ((countBlock s e err ferr).pmx e).ferr = (s.pmx e).ferr + nat01 ferr := by
  obtain ⟨f, hcount, hf⟩ := countBlock_eq s e err ferr
  rw [hcount, pmx_updPm_self (ne_default_of_blk (hf _).1)]
  exact hf _

theorem pmx_countBlock_other (s : State) {d e : Nat} (h : d ≠ e) (err ferr : Bool) : (countBlock s e err ferr).pmx d = s.pmx d := by
  obtain ⟨f, hcount, hf⟩ := countBlock_eq s e err ferr
  rw [hcount, pmx_updPm_other (ne_default_of_blk (hf _).1) h]

theorem pmx_of_rxTables (h : t.rxTables = s.rxTables) (e : Nat) : t.pmx e = s.pmx e := congrArg (fun x : List (Nat × Slice) × List (Nat × Pm) => tabGet ({} : Pm) x.2 e) h

theorem slc_of_rxTables (h : t.rxTables = s.rxTables) (v : Nat) : t.slc v = s.slc v := congrArg (fun x : List (Nat × Slice) × List (Nat × Pm) => tabGet ({} : Slice) x.1 v) h

end Tables

/-! Frames of ODUs (R76, R85, R90). -/

section OduFrames

variable {s : State} {i : Nat}

theorem entTcm_ne_entOdu (i m : Nat) : entOdu i ≠ entTcm i m := by
  unfold entOdu entTcm
  omega

/-- A TCM position counts blocks of its own. -/
theorem pmx_tcmFrame (s : State) (i mfas : Nat) (t : TcmRx) : (tcmFrame s i mfas t).pmx (entOdu i) = s.pmx (entOdu i) := by
  unfold tcmFrame
  split
  · extract_lets e s1 s2 s3 s4 s5
    have h1 : s1.pmx (entOdu i) = s.pmx (entOdu i) := pmx_countBlock_other s (entTcm_ne_entOdu i t.m) _ _
    have h2 : s2.rxTables = s1.rxTables := updOh_rxTables s1 e _
    have h3 : s3.rxTables = s2.rxTables := statAccept_rxTables s2 e _ _
    have h4 : s4.rxTables = s3.rxTables := bdiAccept_rxTables s3 e _ _
    have h5 : s5.rxTables = s4.rxTables := biaeAccept_rxTables s4 e _ _
    have hlast := ttiByte_rxTables s5 e 4 mfas t.tti
    exact (pmx_of_rxTables (hlast.trans (h5.trans (h4.trans (h3.trans h2)))) _).trans h1
  · rfl

theorem apsAccept_rxTables (s : State) (i : Nat) (a : Nat × List Byte) : (apsAccept s i a).rxTables = s.rxTables := by
  unfold apsAccept
  split
  · split
    · rfl
    · extract_lets v o run u w
      have hu : u.rxTables = s.rxTables := updOdu_rxTables s i _
      split
      · exact (postRole_rxTables w _ _ _ _ _).trans ((updOdu_rxTables u i _).trans hu)
      · exact hu
  · rfl

/-- A frame of a defined ODU counts one block of it. -/
theorem oduFrame_counts (r : OduRx) (hd : (s.img.bind (·.odu? i)).isSome = true) :
    (oduFrame s i r).pmx (entOdu i) = (countBlock s (entOdu i) (r.bip != 0) (beiErr r.bei)).pmx (entOdu i) := by
  unfold oduFrame
  split
  · extract_lets e s1 s2 s3 s4 s5 s6 s7 s8
    have h2 : s2.rxTables = s1.rxTables := statAccept_rxTables s1 e _ _
    have h3 : s3.rxTables = s2.rxTables := bdiAccept_rxTables s2 e _ _
    have h4 : s4.rxTables = s3.rxTables := ttiByte_rxTables s3 e _ _ _
    have h5 : s5.rxTables = s4.rxTables := updOdu_rxTables s4 i _
    have h6 : s6.rxTables = s5.rxTables := setDef_rxTables s5 e 1 _
    have h7 : s7.pmx (entOdu i) = s6.pmx (entOdu i) := foldl_leaves (State.pmx · (entOdu i)) (fun u t => pmx_tcmFrame u i r.mfas t) r.tcm s6
    have h8 : s8.rxTables = s7.rxTables := by
      unfold s8
      split
      · exact apsAccept_rxTables s7 i _
      · rfl
    have hlast := updOdu_rxTables s8 i fun o => o.take ((s8.tcmTerm i).map fun m => (s8.ohDef (entTcm i m)).level) r.mfas r.data
    exact (pmx_of_rxTables (hlast.trans h8) _).trans (h7.trans (pmx_of_rxTables (h6.trans (h5.trans (h4.trans (h3.trans h2)))) _))
  · next hnone => simp [hnone] at hd

theorem oduFrame_undefined (r : OduRx) (h : s.img.bind (·.odu? i) = none) : oduFrame s i r = s := by rw [oduFrame, h]

end OduFrames

/-! Frames of OTUC slices (R62, R74, R76, R90). -/

section SliceFrames

variable {s t : State} {v : Nat} {p : Pm} {x : PortDef} {r : OtucRx}

/-- Slice `v` is in frame, and `p` is counted of it. -/
def Reading (v : Nat) (p : Pm) (s : State) : Prop := (s.slc v).fas.on = true ∧ s.pmx (entOtuc v) = p

theorem Reading.of_rxTables (h : Reading v p s) (ht : t.rxTables = s.rxTables) : Reading v p t := by
  obtain ⟨hon, hpm⟩ := h
  exact ⟨(congrArg (·.fas.on) (slc_of_rxTables ht v)).trans hon, (pmx_of_rxTables ht _).trans hpm⟩

theorem slc_updSlc_inFrame {f : Slice → Slice} (h : (f (s.slc v)).fas.on = true) : (s.updSlc v f).slc v = f (s.slc v) :=
  tabGet_tabUpd_self fun h0 => by
    have hoff : (f (s.slc v)).fas.on = false := congrArg (·.fas.on) h0
    rw [hoff] at h
    exact absurd h (by decide)

theorem Reading.updSlc {f : Slice → Slice} (h : Reading v p s) (hf : ∀ c, c.fas.on = true → (f c).fas.on = true) :
    Reading v p (s.updSlc v f) := by
  obtain ⟨hon, hpm⟩ := h
  exact ⟨(congrArg (·.fas.on) (slc_updSlc_inFrame (hf _ hon))).trans (hf _ hon), hpm⟩

theorem Reading.setDef (h : Reading v p s) (e b : Nat) (on : Bool) : Reading v p (s.setDef e b on) := h.of_rxTables (setDef_rxTables s e b on)

theorem Reading.foldl {β : Type} {op : State → β → State} (hop : ∀ u b, Reading v p u → Reading v p (op u b)) (l : List β) (h : Reading v p s) :
    Reading v p (l.foldl op s) := by
  induction l generalizing s with
  | nil => exact h
  | cons b l ih => exact ih (hop s b h)

theorem entPort_ne_entOtuc (hv : v < 2048) (hg : x.g < 64) (hp : x.p < 8) : entOtuc v ≠ entPort x.idx := by
  revert hv hg hp
  unfold entOtuc entPort PortDef.idx
  omega

theorem Reading.countBlock_other {e : Nat} (h : Reading v p s) (he : entOtuc v ≠ e) (err ferr : Bool) : Reading v p (countBlock s e err ferr) :=
  ⟨h.1, (pmx_countBlock_other s he err ferr).trans h.2⟩

/-- A frame at its place with a good FAS leaves the slice in frame. -/
theorem Reading.fasCheck (h : Reading v p s) (pos mfas : Nat) {wrong : Nat} (hfew : wrong ≤ 3) : Reading v p (fasCheck s v pos wrong mfas) := by
  have hfed : ∀ c : Slice, c.fas.on = true → (c.fas.feed 1 5 (decide (wrong ≤ 3))).on = true := fun c _ => by
    rw [decide_eq_true hfew]
    simp [Flt.feed]
  unfold Machine.fasCheck
  extract_lets c x u
  have hu : u = s.updSlc v fun c => { c with fas := c.fas.feed 1 5 (decide (wrong ≤ 3)), fasPos := pos } := if_pos h.1
  rw [hu]
  exact (h.updSlc hfed).setDef _ _ _

theorem Reading.mfasCheck (h : Reading v p s) (mfas : Nat) : Reading v p (mfasCheck s v mfas) := by
  unfold Machine.mfasCheck
  extract_lets c ok u
  have hu : Reading v p u := h.updSlc fun _ hc => hc
  exact hu.setDef _ _ _

theorem Reading.flexoCheck (h : Reading v p s) (x : PortDef) (f : Bool × Nat × Nat × Nat) : Reading v p (flexoCheck s x v f) := by
  unfold Machine.flexoCheck
  extract_lets u c w differs
  have hu : Reading v p u := h.updSlc fun _ hc => hc
  split
  · split
    · exact hu.setDef _ _ _
    · exact hu
  · exact h

theorem msimEval_rxTables (s : State) (i : Nat) : (msimEval s i).rxTables = s.rxTables := by
  unfold msimEval
  split
  · split
    · exact setDef_rxTables s _ 0 _
    · rfl
  · rfl

theorem Reading.msiAccept (h : Reading v p s) (l : List (Nat × Nat × Nat)) : Reading v p (msiAccept s v l) := by
  refine Reading.foldl (fun u e hu => ?_) l h
  have hfed := hu.updSlc (f := fun c => { c with msi := tabUpd {} c.msi e.1 fun a => a.feed 3 (e.2.1 * 65536 + e.2.2) }) fun _ hc => hc
  dsimp only
  split
  · split
    · exact hfed
    · exact hfed.of_rxTables (msimEval_rxTables _ _)
  · exact hfed

/-- What the first slice brings for its port counts no block of a slice, and leaves that one in frame (R74). -/
theorem Reading.portOverhead (h : Reading v p s) (x : PortDef) (r : OtucRx) : Reading v p (portOverhead s x v r) := by
  unfold Machine.portOverhead
  extract_lets e q s1 s2 s3 s4 s5 s6 s7 s8 s9
  have h3 : Reading v p s3 := ((h.of_rxTables (ttiByte_rxTables s e _ _ _)).of_rxTables (bdiAccept_rxTables s1 e _ _)).updSlc fun _ hc => hc
  have h5 : Reading v p s5 := (h3.setDef e 8 _).of_rxTables (statAccept_rxTables s4 e _ _)
  have h7 : Reading v p s7 := (h5.of_rxTables (ttiByte_rxTables s5 q _ _ _)).of_rxTables (bdiAccept_rxTables s6 q _ _)
  have h8 : Reading v p s8 := h7.of_rxTables (statAccept_rxTables s7 q _ _)
  have h9 : Reading v p s9 := by
    unfold s9
    split
    · extract_lets u
      have hfed : Reading v p u := h8.updSlc fun _ hc => hc
      split
      · exact hfed.setDef q 6 _
      · exact hfed
    · exact h8
  exact ((h9.of_rxTables (gccCapture_rxTables _ _ _ _)).of_rxTables (gccCapture_rxTables _ _ _ _)).of_rxTables (gccCapture_rxTables _ _ _ _)

/-- A frame at its place of a slice in frame counts one block of it (R62, R90). -/
theorem otucSlice_inFrame (hv : v < 2048) (hg : x.g < 64) (hp : x.p < 8) (h : Reading v p s) (hpos : r.pos = (s.slc v).fasPos + oduBytes)
    (hfew : r.fas ≤ 3) : ∃ q, q.blk = p.blk + 1 ∧ q.err = p.err + nat01 (r.smBip != 0) ∧ Reading v q (otucSlice s x v r) := by
  have hplace : ((s.slc v).fas.on && r.pos != (s.slc v).fasPos + oduBytes) = false := by simp [hpos]
  unfold otucSlice
  extract_lets inFrame s1 s2 e s3 s4 s5 s6 s7 s8 s9 s10
  rw [hplace, if_neg (by decide)]
  have h2 : Reading v p s2 := by
    have hin : s2 = mfasCheck s1 v r.mfas := if_pos h.1
    rw [hin]
    exact (h.fasCheck r.pos r.mfas hfew).mfasCheck r.mfas
  rw [if_neg (by simp [h2.1])]
  have h3 : Reading v p s3 := by
    unfold s3
    split
    · exact h2.flexoCheck x _
    · exact h2
  obtain ⟨hblk, herr, -⟩ := pmx_countBlock s3 e (r.smBip != 0) (beiErr r.smBei)
  rw [h3.2] at hblk herr
  refine ⟨s4.pmx e, hblk, herr, ?_⟩
  have h4 : Reading v (s4.pmx e) s4 := ⟨h3.1, rfl⟩
  have h5 : Reading v (s4.pmx e) s5 := h4.of_rxTables (OnlyRegs.ite ((OnlyRegs.refl s4).count _ _ _) (OnlyRegs.refl s4)).rxTables_eq
  have h7 : Reading v (s4.pmx e) s7 := (h5.of_rxTables (updOh_rxTables s5 e _)).of_rxTables (biaeAccept_rxTables s6 e 9 _)
  have h9 : Reading v (s4.pmx e) s9 := (h7.countBlock_other (entPort_ne_entOtuc hv hg hp) _ _).updSlc fun _ hc => hc
  have h10 : Reading v (s4.pmx e) s10 := h9.msiAccept r.msi
  split
  · exact h10.portOverhead x r
  · exact h10

end SliceFrames

section LaneFrames

variable {s : State} {v : Nat} {x : PortDef} {r : OtucRx}

theorem otucFrame_looped (h : s.looped (v / 32) r.lane = true) : otucFrame s v r = s := if_pos h

theorem otucFrame_unlooped (h : s.looped (v / 32) r.lane = false) : otucFrame s v r = otucIn s v r := if_neg (by simp [h])

theorem otucIn_noPort (h : s.img.bind (·.portOfSlice v) = none) : otucIn s v r = s := by rw [otucIn, h]

theorem otucIn_unlocked (hx : s.img.bind (·.portOfSlice v) = some x) (h : s.locked x.g r.lane = false) : otucIn s v r = s := by
  rw [otucIn, hx]
  exact if_pos (by simp [h])

/-- A locked lane counts the FEC results of a frame without a marker, which is read where the lane serves the slice (R61, R65). -/
theorem otucIn_locked (hx : s.img.bind (·.portOfSlice v) = some x) (h : s.locked x.g r.lane = true) (ham : r.am = none) : otucIn s v r =
    if (fecCount s x.g r.lane r.cor r.unc).portSource x ((v - x.slice0) / 2) = some r.lane then
      otucSlice (fecCount s x.g r.lane r.cor r.unc) x v r
    else fecCount s x.g r.lane r.cor r.unc := by
  rw [otucIn, hx]
  dsimp only
  rw [if_neg (by simp [h]), ham]

end LaneFrames

/-- Settles O40: a frame passes its group, lane and port to the slice or ODU that counts it. -/
theorem receivedFrames : Obligations.ReceivedFrames := by
  refine ⟨fun v r s hv hl hon => exec_eq_next ((Bool.and_eq_true_iff ..).mpr ⟨decide_eq_true hv, decide_eq_true hl⟩) rfl (inGroup_on hon _),
    fun v r s => otucFrame_looped, fun v r s hloop => ?lane, fun x v r s hv hg hp hon hpos hfew => ?slice,
    fun i r s hi hon => exec_eq_next (decide_eq_true hi) rfl (inGroup_on hon _),
    fun i r s => ⟨oduFrame_undefined r, fun _ hd _ => ⟨_, rfl, ?odu⟩⟩, fun e b x s => ⟨fun h => ?fifth, fun h => ?before⟩⟩
  case lane =>
    rw [otucFrame_unlooped hloop]
    refine ⟨otucIn_noPort, fun x hx => ⟨otucIn_unlocked hx, fun hlock ham => ?_⟩⟩
    exact ⟨fun hserves => (otucIn_locked hx hlock ham).trans (if_pos hserves), fun hidle => (otucIn_locked hx hlock ham).trans (if_neg hidle)⟩
  case slice =>
    obtain ⟨q, hblk, herr, hread, hq⟩ := otucSlice_inFrame hv hg hp ⟨hon, rfl⟩ hpos hfew
    refine ⟨_, rfl, hread, ?_, ?_⟩
    · rw [hq, hblk]
    · rw [hq, herr]
      by_cases hbip : r.smBip = 0 <;> simp [hbip, nat01]
  case odu =>
    obtain ⟨hblk, herr, hferr⟩ := pmx_countBlock s (entOdu i) (r.bip != 0) (beiErr r.bei)
    rw [oduFrame_counts r hd, hblk, herr, hferr]
    refine ⟨rfl, ?_, ?_⟩
    · by_cases hbip : r.bip = 0 <;> simp [hbip, nat01]
    · simp [beiErr, nat01]
  case fifth => rw [bdiAccept_eq, Flt.feed_fifth h]
  case before => rw [bdiAccept_eq, Flt.feed_before h]

end Sys2Proof.Machine
